-- ==== Sys2Proof/Word.lean ====
section
/-! DEFINITION. The word types of the NLF-2560 model. -/

namespace Sys2Proof

/-- One byte of memory or of a packet (R7). -/
abbrev Byte := BitVec 8

/-- The content of one BAR0 register element. A 32-bit register uses the low 32 bits (R506). -/
abbrev RegWord := BitVec 64

end Sys2Proof
end

