-- ==== Sys2Proof/Syntax.lean ====
section
/-! DEFINITION. The commands of the block: one constructor per row of spec/opcode_table.json, with the operands that the
spec gives the step. -/

namespace Sys2Proof

/-- Host memory as a command finds it: bytes by bus address (an unlisted byte reads 0), and the ranges (address, length)
whose reads and writes the bus fails (R66, R67, R70). -/
structure Bus where
  mem : List Host.Cell := []
  bad : List (Nat × Nat) := []
deriving DecidableEq, Repr

/-- A decoded picture (R118): cropped size, chroma (0 monochrome, 1 4:2:0, 2 4:4:4), bit depth, and its planes, row-major. -/
structure Picture where
  w : Nat
  h : Nat
  chroma : Nat
  bits : Nat
  luma : List Nat
  cb : List Nat := []
  cr : List Nat := []
deriving DecidableEq, Repr

/-- The pins that a cold reset samples (R53, R527, R528, R532): HOST_BIF, REF_SEL, whether the REF input can be used, whether
RESET_N is low, and SMB_A1 and SMB_A0. -/
structure Straps where
  hostBif : Bool := false
  refSel : Bool := false
  refOk : Bool := true
  pinLow : Bool := false
  addr : Nat := 3
deriving DecidableEq, Repr

/-- Whose training limit passes (R268, R292, R293): the panel link's, one Worvel lane's, or an Ethernet port's. -/
inductive TrainLimit where
  | panel
  | worvel (p lane : Nat)
  | ethernet (p : Nat)
deriving DecidableEq, Repr

/-- A stripe as the wire forms it (R246, R250): per lane the 639 line bits ahead of its codeword and the codeword, bit 0 first on the
line; whether it is a data stripe (else a control or a pause stripe), and whether an alignment block follows. -/
structure Stripe where
  words : List (Nat × Nat)
  data : Bool := true
  block : Bool := false
deriving DecidableEq, Repr

/-- A lane group whose wire is free, and the stripes that the wire forms of what it starts (R221, R250). -/
structure BurstOn where
  q : Nat
  stripes : List Stripe := []
deriving DecidableEq, Repr

/-- Which writes of a reply the bus refuses: its item-status list, its entry (R67, R74). -/
structure ReplyFails where
  list : Bool := false
  entry : Bool := false
deriving DecidableEq, Repr

/-- The lanes of a link that has trained: masks of those received inverted and of those with precoding on transmit and on receive, and
the taps that each trained to (R277, R280, R291, R292). -/
structure LinkLanes where
  inverted : Nat := 0
  precoded : Nat := 0
  rxPrecoded : Nat := 0
  taps : List (List Int) := []
deriving DecidableEq, Repr

/-- What a pipe has decoded: the size, bit depth and chroma code of its unit's picture (R118), and the picture that the unit releases,
where it releases one (R124). -/
structure Decoded where
  w : Nat
  h : Nat
  bits : Nat
  chroma : Nat
  pic : Option Picture := none
deriving DecidableEq, Repr

/-- Whether a CREDIT message is the baseline after a RESTART, and how many 4 KiB blocks of the piece on the wire are due by then (R256,
R257, R266). -/
structure CreditMark where
  baseline : Bool := false
  due : Nat := 0
deriving DecidableEq, Repr

/-- The codes that a receiver's statistics ask for: 12 DFE taps and 3 level thresholds (R284). -/
structure EqGoal where
  dfe : List Int
  levels : List Int
deriving DecidableEq, Repr


/-- The commands of the block. -/
inductive Instr where
  /-- A BAR0 write of `size` bytes by a client; `whole` says that every byte enable is set (R506, R509). -/
  | registerWrite (client off size : Nat) (whole : Bool) (data : Nat)
  /-- A 4-byte BAR0 read by a client (R507). -/
  | lowHalfReadLatch (client off : Nat)
  /-- A 4-byte BAR0 write of the low half of a 64-bit register (R507). -/
  | lowHalfWriteStage (client off data : Nat)
  /-- A read of the status mirror page (R514). -/
  | statusMirrorRead (client off len : Nat)
  /-- A write of GLB_LOCK (R513). -/
  | glbLockWrite (client data : Nat)
  /-- A write of CMD_SQ_CFG[i] (R64 to R66). -/
  | cmdSqEnableWrite (client i data : Nat)
  /-- A write of CMD_CQ_CFG[i] (R64, R65, R67). -/
  | cmdCqEnableWrite (client i data : Nat)
  /-- The reserved slots of a closing completion ring reach 0 (R65). -/
  | completionRingClosed (i : Nat)
  /-- A write of CMD_EVQ_CFG[e] (R64, R82, R537). -/
  | eventRingEnableWrite (client e data : Nat)
  /-- A write to offset `off` of the doorbell page of client `page`: command ring `off / 8` below 0x80, or an offset that no doorbell has (R60). -/
  | commandTailDoorbell (client page off value : Nat)
  /-- A write to offset 0x100 + 8 r of a doorbell page (R60). -/
  | completionHeadDoorbell (client page r value : Nat)
  /-- A write to offset 0x200 + 8 e of a doorbell page (R60). -/
  | eventHeadDoorbell (client page e value : Nat)
  /-- A write to offset 0x300 + 8 k of a doorbell page (R60, R192). -/
  | fenceDoorbell (client page k value : Nat)
  /-- A write to offset 0x800 of a doorbell page (R60). -/
  | ethTxTailDoorbell (client page value : Nat)
  /-- A write to offset 0x808 of a doorbell page (R60). -/
  | ethRxTailDoorbell (client page value : Nat)
  /-- The module fetches one command entry by the arbitration of R78. -/
  | commandFetch (bus : Bus)
  /-- Firmware dispatches the oldest fetched command (R79, R535). -/
  | commandDispatch (bus : Bus)
  /-- The module writes the item-status list of the oldest pending reply of ring pair i, the reply and its tail; the flags say which write the bus refuses (R67, R68). -/
  | replyWrite (i : Nat) (fails : ReplyFails) (wbFails : Bool)
  /-- A holdoff period ends: completion ring i, event ring 256 + e, receive ring 512 + r, transmit ring 1024 + t (R68, R82). -/
  | msixHoldoffExpiry (key : Nat)
  /-- The oldest posted event is written to its event rings; the lists name the rings whose write the bus refuses (R81, R537). -/
  | eventWrite (entryFails wbFails : List Nat)
  /-- The dispatched NOP command `id` starts (R84). -/
  | nop (id : Nat) (bus : Bus)
  /-- The dispatched FUNCTION_SET command `id` starts (R85). -/
  | functionSet (id : Nat) (bus : Bus)
  /-- A host link settles at a rate code and width (R52, R277, R291). -/
  | hostLinkTrained (link rate width : Nat) (flit : Bool) (lanes : LinkLanes)
  /-- VF Enable, NumVFs or the state of link B takes new values (R54). -/
  | clientPresenceChange (vfEnable : Bool) (numVFs : Nat) (linkBUp : Bool)
  /-- The dispatched VIEW_SLOPE_LOAD command `id` starts (R30). -/
  | viewSlopeLoad (id : Nat) (bus : Bus)
  /-- The dispatched VIEW_CORRECTION_LOAD command `id` starts (R31). -/
  | viewCorrectionLoad (id : Nat) (bus : Bus)
  /-- The dispatched REGION_GRID_SET command `id` starts (R32). -/
  | regionGridSet (id : Nat) (bus : Bus)
  /-- Segment 0 has reached its boundary and the started bursts have ended: the grid switches (R29). -/
  | regionGridSwitch (bus : Bus)
  /-- The dispatched LAYER_DEFINE command `id` starts (R48). -/
  | layerDefine (id : Nat) (bus : Bus)
  /-- The dispatched LAYER_GEOMETRY command `id` starts (R49). -/
  | layerGeometry (id : Nat) (bus : Bus)
  /-- The dispatched LAYER_COLOUR command `id` starts (R50). -/
  | layerColour (id : Nat) (bus : Bus)
  /-- The dispatched REGION_LAYERS_READ command `id` starts (R51). -/
  | regionLayersRead (id : Nat) (bus : Bus)
  /-- A datagram to the Trastos port arrives on Ethernet port `source`; `fragment` marks an IP fragment (R89, R112). -/
  | trastosPacketArrival (source : Nat) (bytes : List Byte) (fragment : Bool)
  /-- The oldest holes of stream slot `v` have stood for loss_wait (R96). -/
  | holeLossWaitExpiry (v : Nat)
  /-- Unit `n` of slot `v` for scene frame `f` is incomplete loss_wait after its clamp time (R96). -/
  | unitIncompleteExpiry (v f n : Nat)
  /-- Inflate unit `u` completes the body of a Trastos unit (R98). -/
  | unitInflated (u : Nat)
  /-- The clamp time of a later marker of group `g` has passed by loss_wait while the staging frame has no marker (R105). -/
  | trsMarkerMissing (g : Nat)
  /-- The dispatched STREAM_BIND command `id` starts (R115). -/
  | streamBind (id : Nat) (bus : Bus)
  /-- The dispatched TRASTOS_SUBMIT command `id` starts (R113). -/
  | trastosSubmit (id : Nat) (bus : Bus)
  /-- The dispatched KEK_ESTABLISH command `id` starts (R116). -/
  | kekEstablish (id : Nat) (bus : Bus)
  /-- The dispatched KEY_LOAD command `id` starts (R117). -/
  | keyLoad (id : Nat) (bus : Bus)
  /-- The dispatched KEY_PUBLIC_READ command `id` starts (R110). -/
  | keyPublicRead (id : Nat) (bus : Bus)
  /-- The dispatched DECODE_ASSIGN command `id` starts (R128). -/
  | decodeAssign (id : Nat) (bus : Bus)
  /-- Idle pipe `p` takes the first unit it may start; `tool` is what no pipe accepts (0 none, 1 profile, 2 chroma or bit depth, 3 field or multilayer coding, 4 other), `rap` marks a random-access point (R118, R120, R127). -/
  | decodeStart (p tool : Nat) (rap : Bool)
  /-- Pipe `p` finishes its unit, with a syntax error (2) or a missing reference (4) or neither (R118, R124, R127). -/
  | pictureOutput (p fault : Nat) (d : Decoded)
  /-- The scheduler looks for a free bay and a group that qualifies (R216). -/
  | regionSelect
  /-- Bay `bay` completes the fill-ahead of the region on its fill side (R149). -/
  | fillComplete (bay : Nat)
  /-- The synthesis of the region filled in bay `bay` starts (R130, R150). -/
  | synthesisStart (bay : Nat)
  /-- The lines fetched on demand at the module addresses `lines` arrive after the bay stalled for `clocks` engine clocks (R147, R149). -/
  | demandLineArrival (bay : Nat) (lines : List Nat) (clocks : Nat)
  /-- n_launch rays of the region in bay `bay` are buffered (R151). -/
  | launchRequest (bay : Nat)
  /-- All rays of the next piece of a region are in the ray buffer (R152). -/
  | pieceReady (region : Nat)
  /-- A piece has drained from a full ray buffer; the engines stalled for `clocks` clocks (R152). -/
  | rayBufferDrained (bay clocks : Nat)
  /-- The last word of the region in bay `bay` is written (R170). -/
  | synthesisEnd (bay : Nat) (bus : Bus)
  /-- The dispatched RAY_PROBE command `id` starts (R153). -/
  | rayProbe (id : Nat) (bus : Bus)
  /-- The dispatched CHECK_REGION_DEFINE command `id` starts (R178). -/
  | checkRegionDefine (id : Nat) (bus : Bus)
  /-- The dispatched SQC_SIGNATURE_LOAD command `id` starts (R179). -/
  | sqcSignatureLoad (id : Nat) (bus : Bus)
  /-- The dispatched SQC_CAPTURE command `id` starts (R180). -/
  | sqcCapture (id : Nat) (bus : Bus)
  /-- The timeout of SQC_CAPTURE command `id` is tested (R180). -/
  | captureTimeout (id : Nat) (bus : Bus)
  /-- A boundary of segment `seg` has come: its groups and armed fences are sampled (R184, R186, R193). -/
  | clampBoundary (seg : Nat)
  /-- The application point of the clamps and flips decided at the last boundaries (R187). -/
  | applicationPoint (bus : Bus)
  /-- A copy-forward completes: kind 0 the tiles of layer `who`, 1 the correction words, 2 the signatures of check region `who` (R26, R92, R168). -/
  | copyForwardDone (kind who : Nat)
  /-- Segment g has no geometry, or has had no TE for two nominal periods (R183). -/
  | freeRunEntry (g : Nat)
  /-- The next boundary of segment g in free run (R183). -/
  | freeRunBoundary (g : Nat)
  /-- The dispatched CLAMP_ARM command `id` starts (R197). -/
  | clampArm (id : Nat) (bus : Bus)
  /-- The dispatched FENCE_ARM command `id` starts (R198). -/
  | fenceArm (id : Nat) (bus : Bus)
  /-- The dispatched LAYER_DAMAGE command `id` starts (R210). -/
  | layerDamage (id : Nat) (bus : Bus)
  /-- The dispatched REGION_DIRTY command `id` starts (R211). -/
  | regionDirty (id : Nat) (bus : Bus)
  /-- A lane group looks for a launch request or continuation to start (R221, R250). -/
  | burstStart (b : BurstOn)
  /-- The trailer of the piece on the wire of group q is sent (R208, R251). -/
  | burstEnd (q : Nat)
  /-- The class gate of the burst on group q has closed after `rows` rows of the piece (R229). -/
  | gateCloseSplit (q rows : Nat)
  /-- One 8 ns step of every class node's credit (R222). -/
  | classCreditTick
  /-- The pending gate list of group q has reached its start (R226, R227). -/
  | gateListStart (q : Nat)
  /-- An accounting interval ends (R233, R235). -/
  | accountingIntervalEnd
  /-- The age of region r's entry is tested against max_delay (R234). -/
  | delayBreach (r : Nat)
  /-- A sample period ends (R236). -/
  | histogramSample
  /-- The dispatched CLASS_SET command `id` starts (R238). -/
  | classSet (id : Nat) (bus : Bus)
  /-- The dispatched GUARANTEE_SET command `id` starts (R239). -/
  | guaranteeSet (id : Nat) (bus : Bus)
  /-- The dispatched REGION_MAP_SET command `id` starts (R240). -/
  | regionMapSet (id : Nat) (bus : Bus)
  /-- The dispatched GATE_LIST_SET command `id` starts (R241). -/
  | gateListSet (id : Nat) (bus : Bus)
  /-- The dispatched SCHED_STATS_READ command `id` starts (R242). -/
  | schedStatsRead (id : Nat) (bus : Bus)
  /-- A CREDIT message of lane group q (R254, R256, R257). -/
  | backchannelCredit (q count : Nat) (m : CreditMark)
  /-- A TE message of segment g: the panel-frame count (R254, R261). -/
  | backchannelTe (g frame : Nat)
  /-- An edge on the TE pin of segment g (R260). -/
  | tePinEdge (g : Nat) (rising : Bool)
  /-- A ROW message of segment g: emission row and panel-frame count (R254, R262). -/
  | backchannelRow (g row frame : Nat)
  /-- A STATUS message: byte 2, lane mask, uncorrectable codewords, worst lane (R254). -/
  | backchannelStatus (q flags lanes ucw worst : Nat)
  /-- A NAK message (R254, R265). -/
  | backchannelNak (q seq reason : Nat)
  /-- A TRAIN message: lane, tap requests (byte 3), preset and done (byte 4) (R254, R268). -/
  | backchannelTrain (q lane taps ctl : Nat)
  /-- A complete copy of the panel descriptor arrives on group q (R269). -/
  | descriptorReceived (q : Nat) (bytes : List Byte)
  /-- A HOLD ordered set on the back-channel of group q (R259). -/
  | holdReceived (q : Nat)
  /-- A RELEASE ordered set on the back-channel of group q (R259). -/
  | releaseReceived (q : Nat)
  /-- The hold of group q is longer than hold_limit (R259). -/
  | holdLimitExpiry (q : Nat)
  /-- Group q needs a word of ray row `row` that is not yet written (R264). -/
  | underrun (q row : Nat)
  /-- The back-channel of group q has had no lock for 10 µs; `row` and `written` say which ray row of the piece on the wire was being sent, and how many of its rays had been (R266). -/
  | backchannelLockLoss (q row written : Nat)
  /-- The back-channel of group q locks; `inverted` says that its pair was found swapped (R266, R294). -/
  | backchannelRelock (q : Nat) (inverted : Bool)
  /-- The alignment blocks of lane p fail their CRC 4 times in a row, or, on a Worvel port, its receiver fails R318: of panel group or Worvel port q (R272, R318). -/
  | laneRemoval (worvel : Bool) (q p : Nat)
  /-- Block A of the lane change of panel group or Worvel port q; `row` and `written` place a piece on the wire (R272, R273). -/
  | laneMapApply (worvel : Bool) (q row written : Nat)
  /-- The training limit of the panel link, of a Worvel lane or of an Ethernet port has passed (R268, R292, R293). -/
  | trainingLimitExpiry (who : TrainLimit)
  /-- The retry interval of the panel link (none) or of a Worvel port has passed (R268). -/
  | haltedRetryExpiry (port : Option Nat)
  /-- Every forward lane is lost (R268, R271). -/
  | linkLeaveActive
  /-- The dispatched LINK_RESET command `id` starts (R274). -/
  | linkReset (id : Nat) (bus : Bus)
  /-- The dispatched LANE_SERVICE command `id` starts (R275). -/
  | laneService (id : Nat) (bus : Bus)
  /-- Lane group `q` has sent only pause stripes for LAN_QUIET_CFG.idle (R288). -/
  | quietEntry (q : Nat)
  /-- The statistics of the receiver of lane `i` ask for the codes named: CTLE, DFE taps and level thresholds, VGA (R284). -/
  | adaptationStep (i ctle : Nat) (goal : EqGoal) (vga : Nat)
  /-- A full eye-monitor set of lane `i`: width and height of the lower, middle and upper eye, residual error, symbols corrected in the last 10 ms, and since the last set (R285). -/
  | eyeSetComplete (i : Nat) (eyes : List (Nat × Nat)) (rms corrected since : Nat)
  /-- The dispatched LANE_MEASURE command `id` starts, or items of it end: item, then the three widths and heights and the residual error (R296). -/
  | laneMeasure (id : Nat) (bus : Bus) (results : List (Nat × List Nat))
  /-- The dispatched LANE_TX_SET command `id` starts (R297). -/
  | laneTxSet (id : Nat) (bus : Bus)
  /-- Engine checks of the slots named fail in one clock (1 residue, 2 parity); `ready` rays of the region in synthesis are in the ray buffer (R302, R303). -/
  | engineFault (bay : Nat) (slots : List Nat) (check ready : Nat)
  /-- The lockstep of a bay has stood for 65,536 clocks; `slot` holds the oldest ray unfinished (R302). -/
  | lockstepWatchdogExpiry (bay slot ready : Nat)
  /-- The self-test of a bay ends; `fails` are the engines 0 to 8 that failed (R305). -/
  | baySelfTest (bay : Nat) (fails : List Nat)
  /-- Entries have waited 2 µs with every bay busy (R301). -/
  | bentWake
  /-- A requested rise of the clock of bent b may apply (R146). -/
  | bentClockChange (b : Nat)
  /-- The drain of bent n, or of bay n, is looked at; `late` says that 2 ms have passed, `ready` the rays written by bay (R306). -/
  | drainComplete (bent : Bool) (n : Nat) (late : Bool) (ready : List (Nat × Nat))
  /-- An uncore fault of the die of bent b (cause 3) or a clock fault of bent b (cause 4); `ready` are the rays written by bay (R307). -/
  | bentRetireImmediate (b cause : Nat) (ready : List (Nat × Nat))
  /-- The dispatched BAY_SERVICE command `id` starts (R312). -/
  | bayService (id : Nat) (bus : Bus)
  /-- The dispatched BENT_SERVICE command `id` starts (R313). -/
  | bentService (id : Nat) (bus : Bus)
  /-- The dispatched WALL_CONFIGURE command `id` starts (R337). -/
  | wallConfigure (id : Nat) (bus : Bus)
  /-- A millisecond has passed at Worvel port p (R317). -/
  | helloSend (p : Nat)
  /-- A good HELLO packet arrives on Worvel port p: its payload (R317). -/
  | helloReceived (p : Nat) (payload : List Byte)
  /-- A packet arrives on Worvel port p: its stream bytes from the header on (R319). -/
  | worvelPacketReceived (p : Nat) (bytes : List Byte)
  /-- A CREDIT message arrives on Worvel port p (R318, R320). -/
  | worvelCredit (p count : Nat)
  /-- The lowest working lane of port p timestamps an alignment block sent and one received: block numbers, and F in 1/64 ns (R323). -/
  | timeExchange (p cTx tTx cRx tRx : Nat)
  /-- A summary period ends (R326). -/
  | summarySend
  /-- Three periods have passed since the last SUMMARY of module m (R326). -/
  | memberTimeout (m : Nat)
  /-- The cut-off before wall boundary n (R328). -/
  | voteCutoff (n : Nat)
  /-- Half the lead before wall boundary n (R328). -/
  | masterDecide (n : Nat)
  /-- Boundary n comes in 2 µs, and the DECISION for group g is looked for (R330). -/
  | wallDecisionLost (g n : Nat)
  /-- Every lane of Worvel port p is lost (R336). -/
  | worvelPortLoss (p : Nat)
  /-- A frame, FCS included, arrives on port p; its timestamp point lies `frac`/64 ns past now (R341, R349). -/
  | ethFrameReceived (p : Nat) (bus : Bus) (bytes : List Byte) (frac : Nat)
  /-- Port p looks for a frame to send; `frac` is as on receive, `overran` says that it ran past a close of a new list, `cuts` how often it was preempted (R343, R356, R357). -/
  | ethFrameTransmit (p : Nat) (bus : Bus) (frac : Nat) (overran : Bool) (cuts : Nat)
  /-- A PAUSE of so many quanta, or a PFC with class and quanta of the classes it names, arrives on port p (R339). -/
  | pauseReceived (p : Nat) (pause : Option Nat) (pfc : List (Nat × Nat))
  /-- Ethernet port p has trained in a mode, or its link goes down (R277, R292, R338). -/
  | ethLinkState (p : Nat) (up : Bool) (mode : Nat) (lanes : LinkLanes)
  /-- A verify exchange of port p ends (R357). -/
  | preemptVerifyRetry (p : Nat) (ok : Bool)
  /-- The start time of the pending gate list of port p has come (R355). -/
  | ethGateListStart (p : Nat) (bus : Bus)
  /-- The dispatched ETH_RING_SET command `id` starts (R359). -/
  | ethRingSet (id : Nat) (bus : Bus)
  /-- The dispatched ETH_GATE_LIST_SET command `id` starts (R360). -/
  | ethGateListSet (id : Nat) (bus : Bus)
  /-- A write of 1 to PTP_CMD (R347). -/
  | ptpLoadO (client : Nat) (bus : Bus)
  /-- A write of 2 to PTP_CMD (R347). -/
  | ptpStep (client : Nat) (bus : Bus)
  /-- A write of 3 to PTP_CMD (R347). -/
  | ptpLoadRho (client : Nat)
  /-- A write of TRIG_CFG[t] (R351). -/
  | triggerArmWrite (client t data : Nat) (bus : Bus)
  /-- The fire time of trigger t, or in a wall the frame-sync time of segment t, has come (R324, R350). -/
  | triggerFire (t : Nat) (bus : Bus)
  /-- An edge on capture input c (R354). -/
  | captureEdge (c : Nat) (rising : Bool)
  /-- A read of CAP_TIME[c] (R354). -/
  | capTimeRead (client c : Nat)
  /-- A read of PTP_NOW (R346). -/
  | ptpNowRead (client : Nat)
  /-- A requester brings a request of one 64-byte access to its channel; `data` are the bytes written from `ma` on (R370, R371). -/
  | dramRequestAccept (ma : Nat) (write urgent : Bool) (data : List Byte)
  /-- Channel `ch` has a command slot; the request served meets the number of corrected errors named, and an uncorrectable one of the inline code (1) or the link code (2) (R367, R368, R370). -/
  | dramRequestServe (ch linkFixed inlineFixed bad : Nat)
  /-- A refresh interval of the next bank of channel `ch` has passed (R373). -/
  | refreshDue (ch : Nat)
  /-- MR4 of the device of channel `ch` is read (R373). -/
  | mr4Poll (ch rate : Nat)
  /-- Quad `quad` has had no request for the idle time, or its self-refresh command comes (R374, R375). -/
  | selfRefreshEntry (quad : Nat)
  /-- Quad `quad` completes its exit from self-refresh (R375). -/
  | selfRefreshExit (quad : Nat)
  /-- The next step of the change of operating point of a quad: its start, then its end (R377). -/
  | opPointChange (quad : Nat)
  /-- A gathering step of a quad starts, or ends with the trims named and the figures of its channels, as CAL_DRAM_FIG [47:0] (R379). -/
  | gatheringStep (quad : Nat) (trims : List Byte) (figures : List Nat)
  /-- Channel `ch` failed its training or verification (cause 1), or may be past its limit of uncorrectable reads (cause 2) (R382). -/
  | channelMapOut (ch cause : Nat)
  /-- The dispatched WINDOW_SET command `id` starts (R384). -/
  | windowSet (id : Nat) (bus : Bus)
  /-- The dispatched DRAM_OP_SET command `id` starts (R385). -/
  | dramOpSet (id : Nat) (bus : Bus)
  /-- The dispatched DRAM_TRAIN command `id` starts, or the full training of its next quad and point ends: the channels that failed, and the trims found (R386). -/
  | dramTrain (id : Nat) (bus : Bus) (fails : List Nat) (trims : List Byte)
  /-- The dispatched CHANNEL_SERVICE command `id` starts, or its training ends (R387). -/
  | channelService (id : Nat) (bus : Bus) (trained : Bool)
  /-- Free unit `u`, 0 to 7 inflate or 8 to 11 deflate, looks for a waiting job (R389). -/
  | compressionJobStart (u : Nat)
  /-- The job of compression unit u ends (R399). -/
  | compressionJobEnd (u : Nat) (bus : Bus)
  /-- The oldest scarf payload of Worvel port p has waited 2 µs for a deflate unit (R335, R389). -/
  | scarfDeflateWaitExpiry (p : Nat)
  /-- The dispatched COMP_JOB command `id` starts (R390). -/
  | compJob (id : Nat) (bus : Bus)
  /-- The dispatched BLIT_JOB command `id` starts (R406). -/
  | blitJob (id : Nat) (bus : Bus)
  /-- The idle block engine looks for a waiting job (R404). -/
  | blockJobStart
  /-- Rows 0 to wm_row of the running block-engine job are written (R413). -/
  | blockWatermark
  /-- The last row of the block-engine job is written, or its source is read in error (R404, R414). -/
  | blockJobEnd (bus : Bus)
  /-- AON measures VIN, mV, and the input power of the last 1 ms, 10 mW (R421). -/
  | vinSample (vin pin : Nat)
  /-- Rule 1 to 4 of R422 finds an input power of p times 10 mW over the time it states. -/
  | governorStep (rule p : Nat)
  /-- Power domain d has been idle for as long as the wake table asks before this depth (R418). -/
  | domainSleep (d depth : Nat)
  /-- A request finds power domain d asleep (R418). -/
  | domainWake (d : Nat)
  /-- VIN has been below vin_fail for 2 µs (R425). -/
  | powerFailure
  /-- Firmware commits the power-fail record in the hold-up (R426). -/
  | powerFailRecordCommit
  /-- VIN has been 0.4 V above vin_fail for 10 ms before the lockout (R428). -/
  | powerFailRecovery
  /-- VIN falls below 4.0 V (R429). -/
  | undervoltageLockout
  /-- VIN has risen through the lockout and stayed at 6.0 V or above for 1 ms (R521). -/
  | powerOn (straps : Straps)
  /-- VIN has been above 41.0 V for 2 µs (R519). -/
  | vinOvervoltage
  /-- VIN is reversed, or its polarity is corrected (R520). -/
  | vinReversed (on : Bool) (straps : Straps)
  /-- POWER_STATE_SET; `late` says that 10 ms have passed since it stopped fetching (R441). -/
  | powerStateSet (id : Nat) (bus : Bus) (late : Bool)
  /-- A wake source: 0 SMBus, 1 capture input 0, 2 AON timer, 3 reset pin (R420). -/
  | hibernateWake (source : Nat)
  /-- The AON timer set by POWER_STATE_SET expires (R420). -/
  | aonTimerExpiry
  /-- Sensor n is converted and reads t, in 1/256 °C (R431). -/
  | sensorConversion (n : Nat) (t : Int)
  /-- step_ms has passed for thermal zone z (R435). -/
  | zoneStep (z : Nat)
  /-- The comparator of sensor n finds SHUT (R438). -/
  | shutTrip (n : Nat)
  /-- After a SHUT, the page program in progress ends, or a comparator reaches SHUT + 3 °C (R439). -/
  | shutNvmProgramEnd (late : Bool)
  /-- The dispatched THERMAL_SET command `id` starts (R442). -/
  | thermalSet (id : Nat) (bus : Bus)
  /-- THERMAL_SAMPLE: the sensors named read these, in 1/256 °C (R443). -/
  | thermalSample (id : Nat) (bus : Bus) (temps : List Int)
  /-- The statistic of class A item `key`, or of DRAM quad and point `key` = 4 j + k, gives the trims named; `met` says that its measuring condition was met (R445, R466). -/
  | calibration (dram : Bool) (key : Nat) (trims : List Nat) (met : Bool)
  /-- A slew period of item i ends; `atTemp` is the target its temperature table now gives (R444, R446). -/
  | trimSlewTick (i : Nat) (atTemp : Option Nat)
  /-- The ring-oscillator pairs of bent b are counted: degradation in ppm of each (R450). -/
  | ageingMeasure (b : Nat) (deltas : List Nat)
  /-- A scheduled truing pass is due (R453). -/
  | truingPassDue
  /-- The pass goes on: the offset (5 mV) and ceiling (25 MHz) that the probes found for the bent in it, and its readings (R453). -/
  | truingBent (offset ceiling : Option Nat) (deltas : List Nat)
  /-- The next step of writing the oldest record that waits: its programming, then its marker (R457). -/
  | recordCommit
  /-- Firmware looks at the journal for a sector to reclaim (R458). -/
  | journalReclaim
  /-- The sector erase in progress completes (R458). -/
  | sectorEraseDone
  /-- A program in the open sector, or the erase in progress, fails its verify (R459). -/
  | splSectorRetired (erase : Bool)
  /-- Firmware has scanned the journal; both copies of the factory page are bad; channels that failed their training; points trained, by key, with their trims (R381, R460, R462). -/
  | journalBootScan (factoryBad : Bool) (fails : List Nat) (trained : List (Nat × List Byte))
  /-- The boot ROM verifies the slot to boot, or firmware is back after a block reset (R463). -/
  | firmwareBootVerify (bus : Bus)
  /-- 600 s have passed since the boot of a trial image (R464). -/
  | trialConfirmExpiry
  /-- The dispatched CAL_RUN command `id` starts (R466). -/
  | calRun (id : Nat) (bus : Bus)
  /-- The dispatched CAL_ROLLBACK command `id` starts (R467). -/
  | calRollback (id : Nat) (bus : Bus)
  /-- The dispatched TRUING_RUN command `id` starts (R468). -/
  | truingRun (id : Nat) (bus : Bus)
  /-- The dispatched SPL_READ command `id` starts (R469). -/
  | splRead (id : Nat) (bus : Bus)
  /-- The dispatched FW_WRITE command `id` starts (R470). -/
  | fwWrite (id : Nat) (bus : Bus)
  /-- The dispatched FW_ACTIVATE command `id` starts (R471). -/
  | fwActivate (id : Nat) (bus : Bus)
  /-- The event that counter n selects occurs, or one clock of an occupancy event with the occupancy `amount` (R472, R474). -/
  | counterEvent (n amount : Nat)
  /-- A write of PFC_VAL[n] (R476). -/
  | pfcValWrite (client n value : Nat)
  /-- A read of PFC_VAL[n] (R473). -/
  | pfcPairLowRead (client n : Nat)
  /-- A window ends: the bytes that each meter counted in it (R477). -/
  | meterWindowEnd (bytes : List Nat)
  /-- A write of PFC_METER_CFG (R477). -/
  | pfcMeterCfgWrite (client data : Nat)
  /-- A write of PFC_GLOBAL with snap set (R478). -/
  | pfcSnapWrite (client data : Nat)
  /-- A write of PFC_GLOBAL (R479). -/
  | pfcFreezeWrite (client data : Nat)
  /-- A read of PFC_SNAP_TIME (R479). -/
  | pfcSnapTimeRead (client : Nat)
  /-- After `rays` more rays bay `bay` has synthesised a tagged ray, and its word leaves on the wire or its burst ends: flag byte, region, ray address, node 16 q + c, S, t_dirty, and the five offsets (R480). -/
  | taggedRayRecord (bay rays flags region ray node slots tDirty : Nat) (offsets : List Nat)
  /-- A work item completes (R481). -/
  | preciseRecord (item source itemId latency : Nat)
  /-- The oldest queued record is to be written (R482). -/
  | recordBufferWrite
  /-- A write of PFC_BUF_BASE or, with `size`, of PFC_BUF_SIZE (R482). -/
  | pfcBufConfigWrite (client : Nat) (size : Bool) (data : Nat)
  /-- The dispatched PFC_PROGRAM command `id` starts (R484). -/
  | pfcProgram (id : Nat) (bus : Bus)
  /-- The dispatched PFC_SNAPSHOT command `id` starts (R485). -/
  | pfcSnapshot (id : Nat) (bus : Bus)
  /-- The dispatched SAMPLE_DRAIN command `id` starts (R486). -/
  | sampleDrain (id : Nat) (bus : Bus)
  /-- A cold reset with a cause of R487 and the pins as it samples them (R488). -/
  | coldReset (cause : Nat) (straps : Straps)
  /-- A warm reset with a cause of R487 (R489). -/
  | warmReset (cause : Nat)
  /-- An FLR of client f, or a hot reset or link-down reset of link B (R489). -/
  | functionLevelReset (f : Nat) (linkB : Bool)
  /-- RESET_N has been low for 100 ns, or rises; `cool` says that every comparator reads below SHUT − 10 °C (R440, R527). -/
  | resetPinAssert (low cool : Bool)
  /-- PERSTA_N or PERSTB_N is asserted (R527). -/
  | perstAssert (linkB : Bool)
  /-- The firmware watchdog of 100 ms expires (R494). -/
  | firmwareWatchdogExpiry
  /-- A parity error in a state RAM: whether it can be rebuilt, its code and the failing word (R497). -/
  | stateRamParityError (rebuildable : Bool) (ram addr : Nat)
  /-- An uncorrectable fault of the uncore of ray die 0 or 1; the rays written, by bay (R496). -/
  | uncoreFault (die : Nat) (ready : List (Nat × Nat))
  /-- The dispatched MODULE_RESET command `id` starts (R500). -/
  | moduleReset (id : Nat) (bus : Bus)
  /-- The dispatched BLOCK_RESET command `id` starts (R501). -/
  | blockReset (id : Nat) (bus : Bus)
  /-- The dispatched REPORT_READ command `id` starts (R502). -/
  | reportRead (id : Nat) (bus : Bus)
  /-- The dispatched LEDGER_SNAPSHOT command `id` starts (R503). -/
  | ledgerSnapshot (id : Nat) (bus : Bus)
  /-- An SMBus read of STATUS or of the Alert Response Address (R529). -/
  | smbusStatusRead (ara : Bool)
  /-- An SMBus read of BOOT_STATUS (R529). -/
  | smbusBootStatus
  /-- An SMBus read of TEMP_MAX (R529). -/
  | smbusTempMax
  /-- An SMBus read of VIN (R529). -/
  | smbusVin
  /-- An SMBus WAKE (R530). -/
  | smbusWake (data : Nat)
  /-- The module looks at the STATUS bits [5:3] (R529). -/
  | smbAlert
  /-- An instruction is loaded into the TAP: 0 BYPASS, 1 IDCODE, or another (R531). -/
  | jtagInstruction (code : Nat)
  /-- The external REF input is lost (R532). -/
  | refFallback
  /-- The timeout of the LINK_RESET in progress has passed (R274). -/
  | linkResetTimeout
  /-- A back-channel message of group q with a bad CRC or a code violation in it (code 1) or of an unknown type (code 2), or code violations outside a message (code 0); `violations` is how many (R254, R294). -/
  | protocolError (q code violations : Nat)
  /-- A TRAIN message: lane, tap requests (byte 3), preset, done and precoding (byte 4); `own` is the TRAIN message, bytes 3 and 4, that this module's receiver of the lane sends back; `inverted` says that it found the pair swapped (R277, R293). -/
  | worvelTrain (p lane taps ctl : Nat) (own : Option (Nat × Nat)) (inverted : Bool)
  /-- Block A of a LANE_MAP of the neighbour on Worvel port p (R318). -/
  | worvelLaneMap (p mask : Nat)
  /-- An alignment block of lane `i` at which an adaptation period has passed (R283, R297). -/
  | txTapStep (i : Nat)
  /-- A BAR4 read of `len` bytes or write of `data` (R58). -/
  | bar4Access (client off : Nat) (write : Bool) (data : List Byte) (len : Nat)
  /-- A write to the ring window of command ring r in the area of client `page` (R59). -/
  | ringWindowWrite (client page r off : Nat) (data : List Byte)
deriving DecidableEq, Repr

end Sys2Proof
end

