-- ==== Sys2Proof/Decode.lean ====
section
/-! DEFINITION. The decoder of table words. The spec gives no row of its table any bits: its commands are register accesses,
opcodes inside host packets and events, so a word spells no command. -/

namespace Sys2Proof

/-- The command that a table word spells: none, since no row gives bits. -/
def decodeTableWord (_nbits _w : Nat) : Option Instr := none

end Sys2Proof
end

