-- ==== Sys2Proof/Machine/Bits.lean ====
section
/-! DEFINITION. Bit fields, sign extension, byte order and saturation, as R7 to R10 fix them. -/

namespace Sys2Proof

/-- Bits `[lo + w - 1 : lo]` of a natural number (R7). -/
def bitsOf (x lo w : Nat) : Nat := (x >>> lo) % 2 ^ w

/-- Bit `i` as a truth value. -/
def bitOf (x i : Nat) : Bool := x.testBit i

/-- Field `[lo + w - 1 : lo]` of a register word. -/
def fieldGet (v : RegWord) (lo w : Nat) : Nat := bitsOf v.toNat lo w

/-- The mask of field `[lo + w - 1 : lo]`. -/
def fieldMask (lo w : Nat) : RegWord := BitVec.ofNat 64 ((2 ^ w - 1) <<< lo)

/-- A register word with field `[lo + w - 1 : lo]` replaced by `x` reduced to the field's width. -/
def fieldSet (v : RegWord) (lo w x : Nat) : RegWord :=
  (v &&& ~~~ fieldMask lo w) ||| BitVec.ofNat 64 ((x % 2 ^ w) <<< lo)

/-- The signed value of a two's-complement field of `w` bits (R8). -/
def sext (w x : Nat) : Int :=
  if x % 2 ^ w < 2 ^ (w - 1) then ((x % 2 ^ w : Nat) : Int) else ((x % 2 ^ w : Nat) : Int) - ((2 ^ w : Nat) : Int)

/-- The stored two's-complement form of `v` in `w` bits (R10: reduced modulo `2^w`). -/
def toField (w : Nat) (v : Int) : Nat := (v % ((2 ^ w : Nat) : Int)).toNat

/-- `v` limited to the range `[lo, hi]`. -/
def clampInt (lo hi v : Int) : Int := if v < lo then lo else if hi < v then hi else v

/-- Saturating addition to a counter of `w` bits (R511). -/
def satAdd (w x d : Nat) : Nat := min (x + d) (2 ^ w - 1)

/-- Quotient rounded up. -/
def ceilDiv (a b : Nat) : Nat := if b = 0 then 0 else (a + b - 1) / b

/-- Integer quotient rounded up, for a positive divisor. -/
def ceilDivInt (a : Int) (b : Int) : Int := -((-a) / b)

/-- The truth value as a bit. -/
def bit (b : Bool) : Nat := if b then 1 else 0

/-- A list of bytes as a little-endian number (R7). -/
def leNat : List Byte → Nat
  | [] => 0
  | b :: r => b.toNat + 256 * leNat r

/-- The `n` little-endian bytes of a number (R7). -/
def leBytes : Nat → Nat → List Byte
  | 0, _ => []
  | n + 1, x => BitVec.ofNat 8 x :: leBytes n (x / 256)

/-- A list of bytes as a big-endian number, used by the network headers. -/
def beNat (l : List Byte) : Nat := leNat l.reverse

/-- The `n` big-endian bytes of a number. -/
def beBytes (n x : Nat) : List Byte := (leBytes n x).reverse

/-- Byte `i` of a list; a byte past the end reads as 0. -/
def byteAt (l : List Byte) (i : Nat) : Byte := l.getD i 0

/-- `n` bytes of a list from byte `i`; bytes past the end read as 0. -/
def slice (l : List Byte) (i n : Nat) : List Byte := (List.range n).map fun j => byteAt l (i + j)

/-- The little-endian number in bytes `i` to `i + n - 1`. -/
def leAt (l : List Byte) (i n : Nat) : Nat := leNat (slice l i n)

/-- The list of the set bit numbers below `n`. -/
def setBits (n x : Nat) : List Nat := (List.range n).filter fun i => x.testBit i

/-- The number of set bits below `n`. -/
def popCount (n x : Nat) : Nat := (setBits n x).length

/-- Bit `i` of a mask set or cleared. -/
def maskPut (x i : Nat) (b : Bool) : Nat :=
  if x.testBit i then (if b then x else x - 2 ^ i) else (if b then x + 2 ^ i else x)

/-- Replaces element `i` of a list. -/
def listPut {α : Type} (l : List α) (i : Nat) (a : α) : List α := l.set i a

end Sys2Proof
end

