-- ==== Sys2Proof/Machine/OpTable.lean ====
section
/-! DEFINITION. The opcode table of the command packets: number, whether the opcode can reply DEFERRED, whether only PF0
may issue it, and the bit ranges that its parameter table places in fields (R69, R84 and the command tables). -/

namespace Sys2Proof

/-- One opcode: number, deferrable (R63), PF0 only, and its fields as (first bit counted from packet byte 0, width). -/
structure OpSpec where
  code : Nat
  deferrable : Bool
  pf0 : Bool
  fields : List (Nat × Nat)
deriving DecidableEq, Repr

/-- Opcode numbers. -/
inductive Op where
  | nop
  | functionSet
  | powerStateSet
  | thermalSet
  | thermalSample
  | calRun
  | calRollback
  | truingRun
  | splRead
  | fwWrite
  | fwActivate
  | layerDefine
  | layerGeometry
  | layerColour
  | regionLayersRead
  | viewSlopeLoad
  | viewCorrectionLoad
  | regionGridSet
  | streamBind
  | trastosSubmit
  | kekEstablish
  | keyLoad
  | keyPublicRead
  | decodeAssign
  | rayProbe
  | bayService
  | bentService
  | checkRegionDefine
  | sqcSignatureLoad
  | sqcCapture
  | clampArm
  | fenceArm
  | layerDamage
  | regionDirty
  | linkReset
  | laneService
  | laneMeasure
  | laneTxSet
  | classSet
  | guaranteeSet
  | regionMapSet
  | gateListSet
  | schedStatsRead
  | ethRingSet
  | ethGateListSet
  | windowSet
  | dramOpSet
  | dramTrain
  | channelService
  | compJob
  | blitJob
  | pfcProgram
  | pfcSnapshot
  | sampleDrain
  | wallConfigure
  | moduleReset
  | blockReset
  | reportRead
  | ledgerSnapshot
deriving DecidableEq, Repr

/-- The number of an opcode (R84). -/
def Op.code : Op → Nat
  | .nop => 0x0100
  | .functionSet => 0x0101
  | .powerStateSet => 0x0200
  | .thermalSet => 0x0201
  | .thermalSample => 0x0202
  | .calRun => 0x0300
  | .calRollback => 0x0301
  | .truingRun => 0x0310
  | .splRead => 0x0400
  | .fwWrite => 0x0401
  | .fwActivate => 0x0402
  | .layerDefine => 0x0500
  | .layerGeometry => 0x0501
  | .layerColour => 0x0502
  | .regionLayersRead => 0x0503
  | .viewSlopeLoad => 0x0540
  | .viewCorrectionLoad => 0x0541
  | .regionGridSet => 0x0542
  | .streamBind => 0x0560
  | .trastosSubmit => 0x0561
  | .kekEstablish => 0x0562
  | .keyLoad => 0x0563
  | .keyPublicRead => 0x0564
  | .decodeAssign => 0x0570
  | .rayProbe => 0x0580
  | .bayService => 0x0581
  | .bentService => 0x0582
  | .checkRegionDefine => 0x0590
  | .sqcSignatureLoad => 0x0591
  | .sqcCapture => 0x0592
  | .clampArm => 0x05A0
  | .fenceArm => 0x05A1
  | .layerDamage => 0x05B0
  | .regionDirty => 0x05B1
  | .linkReset => 0x0600
  | .laneService => 0x0601
  | .laneMeasure => 0x0610
  | .laneTxSet => 0x0611
  | .classSet => 0x0700
  | .guaranteeSet => 0x0701
  | .regionMapSet => 0x0702
  | .gateListSet => 0x0703
  | .schedStatsRead => 0x0704
  | .ethRingSet => 0x0800
  | .ethGateListSet => 0x0801
  | .windowSet => 0x0900
  | .dramOpSet => 0x0901
  | .dramTrain => 0x0902
  | .channelService => 0x0903
  | .compJob => 0x0A00
  | .blitJob => 0x0B00
  | .pfcProgram => 0x0C00
  | .pfcSnapshot => 0x0C01
  | .sampleDrain => 0x0C02
  | .wallConfigure => 0x0D00
  | .moduleReset => 0x0E00
  | .blockReset => 0x0E01
  | .reportRead => 0x0E02
  | .ledgerSnapshot => 0x0E10

/-- The defined opcodes. -/
def opTable : List OpSpec :=
  ([
    ⟨0x0100, false, false, []⟩,
    ⟨0x0101, false, true, [(64, 4), (72, 4), (81, 14), (96, 12), (112, 13)]⟩,
    ⟨0x0200, true, true, [(64, 2), (72, 1), (73, 1), (74, 1), (128, 64)]⟩,
    ⟨0x0201, false, true, [(64, 7), (72, 7), (80, 8), (88, 8), (96, 8), (104, 8), (112, 4), (120, 8)]⟩,
    ⟨0x0202, false, false, [(64, 64), (128, 7), (136, 7)]⟩,
    ⟨0x0300, true, false, [(64, 7), (72, 8)]⟩,
    ⟨0x0301, true, false, [(64, 2), (72, 8), (80, 1), (81, 1), (96, 16), (112, 16)]⟩,
    ⟨0x0310, true, false, [(64, 8)]⟩,
    ⟨0x0400, false, false, [(64, 64), (128, 8), (144, 16), (160, 5)]⟩,
    ⟨0x0401, true, false, [(64, 64), (128, 32), (160, 32)]⟩,
    ⟨0x0402, false, false, [(64, 2)]⟩,
    ⟨0x0500, false, false, [(64, 36), (128, 6), (136, 4), (140, 1), (141, 1), (142, 1), (143, 1), (144, 4), (152, 6), (160, 16), (176, 16), (192, 16), (208, 16), (224, 16)]⟩,
    ⟨0x0501, false, false, [(128, 6), (144, 16), (160, 16), (192, 32), (224, 32), (256, 32), (288, 32)]⟩,
    ⟨0x0502, false, false, [(64, 64), (128, 6), (136, 2), (138, 1), (139, 1), (144, 4), (160, 64), (224, 64), (288, 48)]⟩,
    ⟨0x0503, false, false, [(64, 64), (128, 16), (144, 16)]⟩,
    ⟨0x0540, false, false, [(64, 64), (128, 8), (144, 16)]⟩,
    ⟨0x0541, false, false, [(64, 64), (128, 16), (144, 16), (160, 16), (176, 16), (192, 1)]⟩,
    ⟨0x0542, true, false, [(64, 16), (80, 16)]⟩,
    ⟨0x0560, false, false, [(64, 36), (128, 16), (144, 6), (152, 1), (153, 1), (160, 6), (167, 1), (168, 4), (176, 6), (184, 1), (192, 9)]⟩,
    ⟨0x0561, false, false, [(64, 64), (128, 32), (160, 1)]⟩] : List OpSpec) ++
  ([
    ⟨0x0562, false, false, [(64, 64), (128, 2)]⟩,
    ⟨0x0563, false, false, [(64, 7), (72, 2), (80, 1), (128, 128), (256, 192)]⟩,
    ⟨0x0564, false, false, [(64, 64)]⟩,
    ⟨0x0570, false, false, [(64, 5), (72, 1), (73, 1), (80, 8), (88, 5), (96, 16)]⟩,
    ⟨0x0580, false, false, [(64, 64), (128, 40), (192, 16)]⟩,
    ⟨0x0581, true, false, [(64, 64), (128, 2)]⟩,
    ⟨0x0582, true, false, [(64, 8), (72, 1)]⟩,
    ⟨0x0590, false, false, [(64, 8), (72, 1), (80, 4), (96, 16), (112, 16), (128, 16), (144, 16), (160, 48)]⟩,
    ⟨0x0591, false, false, [(64, 64), (128, 8), (136, 1), (160, 32), (192, 32)]⟩,
    ⟨0x0592, true, false, [(64, 64), (128, 16), (144, 16), (160, 1), (176, 16)]⟩,
    ⟨0x05A0, true, false, [(64, 64), (128, 4)]⟩,
    ⟨0x05A1, true, false, [(64, 32), (96, 16), (112, 3), (120, 1)]⟩,
    ⟨0x05B0, false, false, [(64, 6), (72, 1), (96, 16), (112, 16), (128, 16), (144, 16)]⟩,
    ⟨0x05B1, false, false, [(64, 1), (96, 16), (112, 16), (128, 16), (144, 16)]⟩,
    ⟨0x0600, true, false, [(64, 1), (80, 16)]⟩,
    ⟨0x0601, false, false, [(64, 4), (72, 1), (80, 12)]⟩,
    ⟨0x0610, true, false, [(64, 64), (128, 16), (144, 16), (160, 4)]⟩,
    ⟨0x0611, false, false, [(64, 16), (80, 16), (96, 8), (104, 8), (112, 8), (120, 8)]⟩,
    ⟨0x0700, false, false, [(64, 16), (80, 4), (96, 16), (112, 16), (128, 16), (144, 16)]⟩,
    ⟨0x0701, false, false, [(64, 4), (72, 4), (80, 16), (96, 16)]⟩] : List OpSpec) ++
  ([
    ⟨0x0702, false, false, [(96, 16), (112, 16), (128, 16), (144, 16), (160, 4), (164, 4), (168, 1), (176, 8)]⟩,
    ⟨0x0703, true, false, [(64, 64), (128, 64), (192, 32), (224, 16), (240, 7), (248, 1), (249, 1)]⟩,
    ⟨0x0704, false, false, [(64, 64), (128, 16), (144, 1), (145, 1)]⟩,
    ⟨0x0800, false, false, [(64, 1), (76, 52), (128, 9), (144, 1), (145, 1), (152, 4), (160, 4), (168, 7), (176, 6), (192, 64)]⟩,
    ⟨0x0801, true, false, [(64, 64), (128, 64), (192, 32), (224, 8), (232, 8), (240, 1), (241, 1)]⟩,
    ⟨0x0900, false, true, [(64, 3), (72, 1), (73, 2), (75, 1), (80, 3), (88, 5), (96, 12), (112, 16), (128, 8)]⟩,
    ⟨0x0901, true, true, [(64, 4), (72, 2)]⟩,
    ⟨0x0902, true, true, [(64, 4), (72, 4), (80, 1)]⟩,
    ⟨0x0903, false, true, [(64, 5), (72, 1)]⟩,
    ⟨0x0A00, false, false, [(64, 64), (128, 64), (192, 64), (256, 32), (288, 32), (320, 32), (352, 32), (384, 1), (385, 2), (387, 1), (388, 1), (389, 2), (392, 1), (393, 1), (394, 1), (395, 1), (400, 4)]⟩,
    ⟨0x0B00, true, false, [(64, 36), (128, 36), (192, 16), (208, 16), (224, 16), (240, 16), (256, 16), (272, 16), (288, 16), (304, 16), (320, 2), (322, 1), (323, 1), (324, 4), (328, 4), (336, 10), (352, 16), (384, 64), (448, 64), (512, 64), (576, 64)]⟩,
    ⟨0x0C00, false, false, [(64, 64), (128, 8), (136, 8), (144, 1)]⟩,
    ⟨0x0C01, false, false, [(64, 64)]⟩,
    ⟨0x0C02, true, false, [(64, 64), (128, 32), (160, 1)]⟩,
    ⟨0x0D00, false, true, [(64, 32), (96, 4), (100, 4), (104, 4), (108, 4), (112, 4), (116, 4), (120, 4), (124, 4), (128, 1), (129, 1), (136, 8), (192, 64)]⟩,
    ⟨0x0E00, false, true, [(64, 32)]⟩,
    ⟨0x0E01, false, true, [(64, 2)]⟩,
    ⟨0x0E02, false, false, [(64, 64), (128, 32), (160, 1), (161, 1)]⟩,
    ⟨0x0E10, false, false, [(64, 64), (128, 1)]⟩] : List OpSpec)

/-- The row of an opcode, none where it is not defined (R84). -/
def findOp (code : Nat) : Option OpSpec := opTable.find? fun o => o.code == code

/-- Whether bit `b` of the packet, counted from byte 0, lies in a field of the opcode (R69). -/
def OpSpec.covers (o : OpSpec) (b : Nat) : Bool := o.fields.any fun f => decide (f.1 ≤ b) && decide (b < f.1 + f.2)

end Sys2Proof
end

