-- ==== Sys2Proof/Config.lean ====
section
/-! DEFINITION. What one unit fixes and what the spec leaves open: constants without a body, so that nothing can be
proved about their values. -/

namespace Sys2Proof

/-- The value that the record in force or the factory page gives a register at boot (R512; log entry 2). -/
opaque Config.factoryReg : Nat → BitVec 64

/-- The free values: the `k`-th value that the spec leaves open (log entry 4). -/
opaque Config.freeNat : Nat → Nat

/-- The check byte of one 8-byte word under the (72,64) SEC-DED code of inline ECC (R367; log entry 11). -/
opaque Config.secDed : Nat → BitVec 8

/-- The firmware image with which the module ships (R463; log entry 35). -/
opaque Config.shippedImage : Nat → BitVec 8

/-- Whether the signature and the digest of a firmware image check good (R463): of the header's 208 bytes and the image. -/
opaque Config.imageOk : List (BitVec 8) → List (Nat × BitVec 8) → Bool

/-- The bytes that a deflate unit writes for the source of a job, but for wrapper header and trailer: of depth, dynamic, flush
and final, of its saved state, and of the source (R395, R396; log entry 32). -/
opaque Config.deflate : List Nat → List (BitVec 8) → List (BitVec 8) → List (BitVec 8)

/-- The state of a deflate unit after the same (R400; log entry 32). -/
opaque Config.deflateState : List Nat → List (BitVec 8) → List (BitVec 8) → List (BitVec 8)

/-- The device public key of the factory page, 97 bytes (R110; log entry 2). -/
opaque Config.publicKey : Nat → BitVec 8

/-- The ECDH shared secret that the device's private key and a peer's public key give, 48 bytes (R110; log entry 34). -/
opaque Config.ecdh : List (BitVec 8) → Nat → BitVec 8

/-- The taps of a transmit preset of the PCIe and Ethernet standards (R282; log entry 241). -/
opaque Config.standardPreset : Nat → List Int

end Sys2Proof
end

