-- ==== Sys2Proof/Machine/RegMap.lean ====
section
/-! DEFINITION. The register map: every register of BAR0 with its fields, access types, reset values and rules for
ignored values, block by block (R504, R516 and the field maps of the owning chapters), and the place of every field. -/

namespace Sys2Proof

/-- The access types of R11. -/
inductive Access where
  | ro | rw | rw1c | wo | rws | shd | apl | rwl
deriving DecidableEq, Repr

/-- Which written values a field takes; any other value is ignored (R509). -/
inductive Rule where
  | any
  | range (a b : Nat)
  | zeroOr (a b : Nat)
deriving DecidableEq, Repr

/-- One field of a register. -/
structure Field where
  name : String
  lo : Nat
  width : Nat
  access : Access
  reset : Nat
  rule : Rule := .any
deriving DecidableEq, Repr

/-- One register or register array: base offset, (stride, count) of each index, bytes of an element, fields, and
whether the whole register keeps its value across a warm reset. -/
structure RegSpec where
  name : String
  base : Nat
  dims : List (Nat × Nat)
  bytes : Nat
  fields : List Field
  kept : Bool := false
deriving DecidableEq, Repr

/-- The place of one field: element offset, lowest bit, width. -/
structure Loc where
  off : Nat
  lo : Nat
  w : Nat
deriving DecidableEq, Repr

/-- The registers of block GLB (R504). -/
def regsGLB : List RegSpec :=
  ([
  ⟨"GLB_ID", 0x0000000, [], 4,
    [⟨"vendor", 0, 16, .ro, 22086, .any⟩,
     ⟨"part", 16, 16, .ro, 9568, .any⟩], false⟩,
  ⟨"GLB_STEP", 0x0000004, [], 4,
    [⟨"ray_die", 0, 8, .ro, 0, .any⟩,
     ⟨"io_die", 8, 8, .ro, 0, .any⟩,
     ⟨"build", 16, 8, .ro, 0, .any⟩,
     ⟨"page_format", 24, 8, .ro, 0, .any⟩], false⟩,
  ⟨"GLB_SERIAL", 0x0000008, [], 8,
    [⟨"serial", 0, 64, .ro, 0, .any⟩], false⟩,
  ⟨"GLB_FW_VER", 0x0000010, [], 8,
    [⟨"version", 0, 64, .ro, 0, .any⟩], false⟩,
  ⟨"GLB_CAPS", 0x0000018, [], 4,
    [⟨"engines", 0, 10, .ro, 576, .any⟩,
     ⟨"lanes", 10, 9, .ro, 256, .any⟩,
     ⟨"channels", 19, 6, .ro, 32, .any⟩,
     ⟨"layers", 25, 7, .ro, 64, .any⟩], false⟩,
  ⟨"GLB_LOCK", 0x0000020, [], 4,
    [⟨"lock", 0, 24, .rw, 0, .any⟩], false⟩,
  ⟨"GLB_SCRATCH", 0x0000024, [], 4,
    [⟨"value", 0, 32, .rw, 0, .any⟩], false⟩,
  ⟨"GLB_CLIENT", 0x0000028, [], 4,
    [⟨"client", 0, 4, .ro, 0, .any⟩,
     ⟨"vf_view", 4, 1, .ro, 0, .any⟩,
     ⟨"link_b", 5, 1, .ro, 0, .any⟩], false⟩] : List RegSpec)

/-- The registers of block CMD (R504). -/
def regsCMD : List RegSpec :=
  ([
  ⟨"CMD_SQ_BASE", 0x0100000, [(64, 256)], 8,
    [⟨"loc", 0, 1, .rw, 0, .any⟩,
     ⟨"base", 12, 52, .rw, 0, .any⟩], false⟩,
  ⟨"CMD_SQ_CFG", 0x0100008, [(64, 256)], 4,
    [⟨"enable", 0, 1, .rw, 0, .any⟩,
     ⟨"halted", 1, 1, .ro, 0, .any⟩,
     ⟨"log2size", 8, 4, .rw, 6, .range 6 12⟩], false⟩,
  ⟨"CMD_SQ_HEAD", 0x010000C, [(64, 256)], 4,
    [⟨"head", 0, 16, .ro, 0, .any⟩,
     ⟨"inflight", 16, 16, .ro, 0, .any⟩], false⟩,
  ⟨"CMD_CQ_BASE", 0x0100010, [(64, 256)], 8,
    [⟨"loc", 0, 1, .rw, 0, .any⟩,
     ⟨"base", 12, 52, .rw, 0, .any⟩], false⟩,
  ⟨"CMD_CQ_CFG", 0x0100018, [(64, 256)], 4,
    [⟨"enable", 0, 1, .rw, 0, .any⟩,
     ⟨"closing", 1, 1, .ro, 0, .any⟩,
     ⟨"halted", 2, 1, .ro, 0, .any⟩,
     ⟨"log2size", 8, 4, .rw, 6, .range 6 12⟩,
     ⟨"vector", 16, 6, .rw, 0, .any⟩,
     ⟨"holdoff", 24, 8, .rw, 0, .any⟩], false⟩,
  ⟨"CMD_CQ_STATE", 0x010001C, [(64, 256)], 4,
    [⟨"tail", 0, 16, .ro, 0, .any⟩,
     ⟨"reserved", 16, 16, .ro, 0, .any⟩], false⟩,
  ⟨"CMD_CQ_WB", 0x0100020, [(64, 256)], 8,
    [⟨"addr", 0, 64, .rw, 0, .any⟩], false⟩,
  ⟨"CMD_CQ_HEAD", 0x0100028, [(64, 256)], 4,
    [⟨"head", 0, 16, .ro, 0, .any⟩], false⟩,
  ⟨"CMD_EVQ_BASE", 0x0108000, [(64, 16)], 8,
    [⟨"loc", 0, 1, .rw, 0, .any⟩,
     ⟨"base", 12, 52, .rw, 0, .any⟩], false⟩,
  ⟨"CMD_EVQ_CFG", 0x0108008, [(64, 16)], 4,
    [⟨"enable", 0, 1, .rw, 0, .any⟩,
     ⟨"halted", 1, 1, .ro, 0, .any⟩,
     ⟨"log2size", 8, 4, .rw, 6, .range 6 14⟩,
     ⟨"owner", 12, 4, .rw, 0, .any⟩,
     ⟨"vector", 16, 6, .rw, 0, .any⟩,
     ⟨"holdoff", 24, 8, .rw, 0, .any⟩], false⟩,
  ⟨"CMD_EVQ_MASK", 0x010800C, [(64, 16)], 4,
    [⟨"ranges", 1, 14, .rw, 0, .any⟩], false⟩,
  ⟨"CMD_EVQ_STATE", 0x0108010, [(64, 16)], 4,
    [⟨"tail", 0, 16, .ro, 0, .any⟩,
     ⟨"lost", 16, 16, .ro, 0, .any⟩], false⟩,
  ⟨"CMD_EVQ_WB", 0x0108018, [(64, 16)], 8,
    [⟨"addr", 0, 64, .rw, 0, .any⟩], false⟩] : List RegSpec)

/-- The registers of block PWC (R504). -/
def regsPWC : List RegSpec :=
  ([
  ⟨"PWC_STATUS", 0x0200000, [], 4,
    [⟨"state", 0, 2, .ro, 0, .any⟩,
     ⟨"tier", 2, 2, .ro, 0, .any⟩,
     ⟨"gov_level", 4, 3, .ro, 0, .any⟩,
     ⟨"limiting", 7, 1, .ro, 0, .any⟩,
     ⟨"shed", 8, 4, .ro, 0, .any⟩], false⟩,
  ⟨"PWC_VIN", 0x0200004, [], 4,
    [⟨"vin", 0, 16, .ro, 0, .any⟩,
     ⟨"pin", 16, 16, .ro, 0, .any⟩], false⟩,
  ⟨"PWC_CFG", 0x0200008, [], 4,
    [⟨"plimit", 0, 10, .rws, 0, .zeroOr 20 420⟩,
     ⟨"vin_fail", 16, 8, .rws, 54, .range 54 255⟩], false⟩,
  ⟨"PWC_IDLE_CFG", 0x020000C, [], 4,
    [⟨"bent_idle", 0, 10, .rw, 100, .range 1 1023⟩,
     ⟨"cbk_idle", 10, 10, .rw, 10, .range 1 1023⟩], false⟩,
  ⟨"PWC_PFAIL", 0x0200010, [], 4,
    [⟨"occurred", 0, 1, .rws, 0, .any⟩,
     ⟨"recovered", 1, 1, .rws, 0, .any⟩,
     ⟨"committed", 2, 1, .rws, 0, .any⟩,
     ⟨"held_us", 16, 16, .rws, 0, .any⟩], false⟩,
  ⟨"PWC_DOMAIN", 0x0200100, [(4, 26)], 4,
    [⟨"depth", 0, 2, .ro, 0, .any⟩,
     ⟨"wakes", 16, 16, .ro, 0, .any⟩], false⟩,
  ⟨"PWC_CLK", 0x0200200, [(4, 28)], 4,
    [⟨"mhz", 0, 16, .ro, 0, .any⟩,
     ⟨"running", 16, 1, .ro, 0, .any⟩,
     ⟨"level", 17, 3, .ro, 0, .any⟩], false⟩] : List RegSpec)

/-- The registers of block THM (R504). -/
def regsTHM : List RegSpec :=
  ([
  ⟨"THM_CFG", 0x0300000, [], 4,
    [⟨"mode", 0, 1, .rws, 0, .any⟩,
     ⟨"dwell_n", 4, 4, .rws, 4, .range 1 15⟩,
     ⟨"step_ms", 8, 8, .rws, 10, .range 1 255⟩,
     ⟨"max_ms", 16, 6, .rws, 50, .range 2 50⟩,
     ⟨"min_ms", 24, 4, .rws, 1, .range 1 15⟩,
     ⟨"dwell_10ms", 28, 4, .rws, 10, .range 1 15⟩], false⟩,
  ⟨"THM_SHUT_CAUSE", 0x0300010, [], 4,
    [⟨"sensor", 0, 7, .rws, 0, .any⟩,
     ⟨"valid", 7, 1, .rws, 0, .any⟩,
     ⟨"nvm_wait", 8, 1, .rws, 0, .any⟩,
     ⟨"late_cut", 9, 1, .rws, 0, .any⟩,
     ⟨"erase_suspended", 10, 1, .rws, 0, .any⟩], false⟩,
  ⟨"THM_CNT", 0x0300040, [(4, 8)], 4,
    [⟨"count", 0, 32, .ro, 0, .any⟩], false⟩,
  ⟨"THM_ZONE", 0x0300400, [(4, 16)], 4,
    [⟨"level", 0, 3, .ro, 0, .any⟩,
     ⟨"floor", 3, 3, .rws, 0, .any⟩,
     ⟨"crit", 6, 1, .ro, 0, .any⟩,
     ⟨"surge_hold", 7, 1, .ro, 0, .any⟩,
     ⟨"worst", 8, 8, .ro, 0, .any⟩], false⟩,
  ⟨"THM_TEMP", 0x0301000, [(4, 104)], 4,
    [⟨"temp", 0, 16, .ro, 0, .any⟩,
     ⟨"state", 16, 2, .ro, 0, .any⟩,
     ⟨"valid", 18, 1, .ro, 0, .any⟩,
     ⟨"base_only", 19, 1, .ro, 0, .any⟩,
     ⟨"age", 20, 12, .ro, 0, .any⟩], false⟩,
  ⟨"THM_THRESH", 0x0302000, [(8, 104)], 8,
    [⟨"warn", 0, 8, .ro, 95, .any⟩,
     ⟨"hot", 8, 8, .ro, 102, .any⟩,
     ⟨"crit", 16, 8, .ro, 108, .any⟩,
     ⟨"shut", 24, 8, .ro, 118, .any⟩,
     ⟨"hyst", 32, 4, .ro, 3, .any⟩,
     ⟨"rise", 40, 8, .ro, 50, .any⟩], true⟩] : List RegSpec)

/-- The registers of block CAL (R504). -/
def regsCAL : List RegSpec :=
  ([
  ⟨"CAL_CFG", 0x0400000, [], 4,
    [⟨"auto_a", 0, 1, .rws, 1, .any⟩,
     ⟨"auto_dram", 1, 1, .rws, 1, .any⟩,
     ⟨"min_commit", 8, 8, .rws, 10, .range 1 255⟩,
     ⟨"slew", 16, 8, .rws, 10, .range 1 255⟩,
     ⟨"xtal_slew", 24, 8, .rws, 10, .range 1 255⟩], false⟩,
  ⟨"CAL_TRUE_CFG", 0x0400008, [], 4,
    [⟨"interval", 0, 8, .rws, 30, .any⟩,
     ⟨"retire_days", 8, 8, .rws, 30, .range 1 255⟩,
     ⟨"warn_days", 16, 8, .rws, 180, .range 1 255⟩,
     ⟨"guard", 24, 4, .rws, 3, .any⟩], false⟩,
  ⟨"CAL_TRUE_STATUS", 0x040000C, [], 4,
    [⟨"running", 0, 1, .ro, 0, .any⟩,
     ⟨"bent", 1, 3, .ro, 0, .any⟩,
     ⟨"waiting", 4, 1, .ro, 0, .any⟩,
     ⟨"done", 8, 8, .ro, 0, .any⟩], false⟩,
  ⟨"CAL_CNT", 0x0400040, [(4, 8)], 4,
    [⟨"count", 0, 32, .ro, 0, .any⟩], false⟩,
  ⟨"CAL_BENT_PLAN", 0x0400100, [(16, 8)], 4,
    [⟨"offset", 0, 5, .ro, 0, .any⟩,
     ⟨"ceiling", 8, 6, .ro, 0, .any⟩,
     ⟨"days_left", 16, 12, .ro, 4095, .any⟩,
     ⟨"low", 28, 1, .ro, 0, .any⟩], false⟩,
  ⟨"CAL_BENT_AGE", 0x0400104, [(16, 8)], 4,
    [⟨"delta", 0, 16, .ro, 0, .any⟩,
     ⟨"pair", 16, 2, .ro, 0, .any⟩], false⟩,
  ⟨"CAL_TRUE_OUTCOME", 0x0400108, [(16, 8)], 4,
    [⟨"outcome", 0, 3, .ro, 0, .any⟩], true⟩,
  ⟨"CAL_ITEM_STATE", 0x0401000, [(16, 128)], 4,
    [⟨"dac", 0, 14, .ro, 0, .any⟩,
     ⟨"target", 16, 14, .ro, 0, .any⟩,
     ⟨"freeze", 30, 1, .rws, 0, .any⟩,
     ⟨"slewing", 31, 1, .ro, 0, .any⟩], false⟩,
  ⟨"CAL_ITEM_COUNT", 0x0401004, [(16, 128)], 4,
    [⟨"count", 0, 32, .ro, 0, .any⟩], false⟩,
  ⟨"CAL_ITEM_TIME", 0x0401008, [(16, 128)], 8,
    [⟨"time", 0, 64, .ro, 0, .any⟩], false⟩,
  ⟨"CAL_DRAM_FIG", 0x0402000, [(8, 32)], 8,
    [⟨"rwidth", 0, 8, .ro, 0, .any⟩,
     ⟨"rheight", 8, 8, .ro, 0, .any⟩,
     ⟨"wwidth", 16, 8, .ro, 0, .any⟩,
     ⟨"wheight", 24, 8, .ro, 0, .any⟩,
     ⟨"residual", 32, 16, .ro, 0, .any⟩,
     ⟨"age", 48, 12, .ro, 0, .any⟩,
     ⟨"valid", 60, 1, .ro, 0, .any⟩], false⟩] : List RegSpec)

/-- The registers of block SPL (R504). -/
def regsSPL : List RegSpec :=
  ([
  ⟨"SPL_STATUS", 0x0500000, [], 4,
    [⟨"ready", 0, 1, .ro, 0, .any⟩,
     ⟨"read_only", 1, 1, .ro, 0, .any⟩,
     ⟨"interrupted", 2, 1, .ro, 0, .any⟩,
     ⟨"erase_redone", 3, 1, .ro, 0, .any⟩,
     ⟨"first_use", 4, 1, .ro, 0, .any⟩,
     ⟨"factory_bad", 5, 1, .ro, 0, .any⟩,
     ⟨"free", 8, 10, .ro, 0, .any⟩,
     ⟨"retired", 18, 10, .ro, 0, .any⟩], false⟩,
  ⟨"SPL_SEQ", 0x0500008, [], 8,
    [⟨"seq", 0, 64, .ro, 0, .any⟩], false⟩,
  ⟨"SPL_WEAR", 0x0500010, [], 4,
    [⟨"max", 0, 17, .ro, 0, .any⟩], false⟩,
  ⟨"SPL_WEAR_MIN", 0x0500014, [], 4,
    [⟨"min", 0, 17, .ro, 0, .any⟩], false⟩,
  ⟨"SPL_LAST_BAD", 0x0500018, [], 4,
    [⟨"kind", 0, 8, .ro, 0, .any⟩,
     ⟨"key", 8, 16, .ro, 0, .any⟩], false⟩,
  ⟨"SPL_CNT", 0x0500040, [(4, 7)], 4,
    [⟨"count", 0, 32, .ro, 0, .any⟩], false⟩,
  ⟨"SPL_FW_STATUS", 0x0500100, [], 4,
    [⟨"active", 0, 1, .ro, 0, .any⟩,
     ⟨"trial", 1, 1, .ro, 0, .any⟩,
     ⟨"verified", 2, 1, .ro, 0, .any⟩,
     ⟨"fallback", 3, 1, .ro, 0, .any⟩,
     ⟨"fuse", 16, 16, .ro, 0, .any⟩], false⟩,
  ⟨"SPL_FW_VER", 0x0500108, [(8, 2)], 8,
    [⟨"version", 0, 64, .ro, 0, .any⟩], false⟩] : List RegSpec)

/-- The registers of block SCN (R504). -/
def regsSCN : List RegSpec :=
  ([
  ⟨"SCN_VIEW_CTRL", 0x0600F00, [], 4,
    [⟨"group", 0, 4, .rw, 0, .any⟩,
     ⟨"corr_enable", 8, 1, .shd, 0, .any⟩,
     ⟨"sw_table", 16, 1, .ro, 0, .any⟩], false⟩,
  ⟨"SCN_VCF_BASE", 0x0600F08, [], 4,
    [⟨"base", 0, 24, .rwl, 0, .any⟩], false⟩,
  ⟨"SCN_VIEW_SLOPE", 0x0601000, [(8, 256)], 8,
    [⟨"su", 0, 17, .shd, 0, .any⟩,
     ⟨"sv", 32, 17, .shd, 0, .any⟩], false⟩,
  ⟨"SCN_LAYER_CFG", 0x0602000, [(64, 64)], 4,
    [⟨"enable", 0, 1, .shd, 0, .any⟩,
     ⟨"kind", 1, 1, .shd, 0, .any⟩,
     ⟨"premul", 2, 1, .shd, 1, .any⟩,
     ⟨"limited", 3, 1, .shd, 1, .any⟩,
     ⟨"format", 4, 4, .shd, 0, .any⟩,
     ⟨"group", 8, 4, .shd, 0, .any⟩,
     ⟨"preset", 12, 2, .shd, 0, .any⟩,
     ⟨"priority", 16, 6, .shd, 0, .any⟩,
     ⟨"dh", 24, 4, .ro, 1, .any⟩,
     ⟨"dv", 28, 4, .ro, 1, .any⟩], false⟩,
  ⟨"SCN_LAYER_SRC", 0x0602004, [(64, 64)], 4,
    [⟨"width", 0, 16, .shd, 0, .any⟩,
     ⟨"height", 16, 16, .shd, 0, .any⟩], false⟩,
  ⟨"SCN_LAYER_DST", 0x0602008, [(64, 64)], 4,
    [⟨"width_m1", 0, 15, .shd, 0, .any⟩,
     ⟨"height_m1", 16, 15, .shd, 0, .any⟩], false⟩,
  ⟨"SCN_LAYER_POS", 0x060200C, [(64, 64)], 4,
    [⟨"x0", 0, 16, .shd, 0, .any⟩,
     ⟨"y0", 16, 16, .shd, 0, .any⟩], false⟩,
  ⟨"SCN_LAYER_ZA", 0x0602010, [(64, 64)], 4,
    [⟨"a", 0, 24, .shd, 0, .any⟩], false⟩,
  ⟨"SCN_LAYER_ZB", 0x0602014, [(64, 64)], 4,
    [⟨"b", 0, 22, .shd, 0, .any⟩], false⟩,
  ⟨"SCN_LAYER_ZC", 0x0602018, [(64, 64)], 4,
    [⟨"c", 0, 22, .shd, 0, .any⟩], false⟩,
  ⟨"SCN_LAYER_ZK", 0x060201C, [(64, 64)], 4,
    [⟨"k", 0, 20, .shd, 0, .any⟩], false⟩,
  ⟨"SCN_LAYER_BASE", 0x0602020, [(64, 64)], 4,
    [⟨"base", 0, 30, .shd, 0, .any⟩], false⟩,
  ⟨"SCN_LAYER_PITCH", 0x0602024, [(64, 64)], 4,
    [⟨"pitch", 0, 16, .shd, 0, .any⟩], false⟩,
  ⟨"SCN_LAYER_KEYMIN", 0x0602028, [(64, 64)], 8,
    [⟨"k0", 0, 16, .shd, 0, .any⟩,
     ⟨"k1", 16, 16, .shd, 0, .any⟩,
     ⟨"k2", 32, 16, .shd, 0, .any⟩,
     ⟨"k3", 48, 16, .shd, 0, .any⟩], false⟩,
  ⟨"SCN_LAYER_KEYMAX", 0x0602030, [(64, 64)], 8,
    [⟨"k0", 0, 16, .shd, 0, .any⟩,
     ⟨"k1", 16, 16, .shd, 0, .any⟩,
     ⟨"k2", 32, 16, .shd, 0, .any⟩,
     ⟨"k3", 48, 16, .shd, 0, .any⟩], false⟩,
  ⟨"SCN_LAYER_COLOUR", 0x0602038, [(64, 64)], 4,
    [⟨"r", 0, 16, .shd, 0, .any⟩,
     ⟨"g", 16, 16, .shd, 0, .any⟩], false⟩,
  ⟨"SCN_LAYER_STATUS", 0x060203C, [(64, 64)], 4,
    [⟨"active", 0, 1, .ro, 0, .any⟩,
     ⟨"late", 1, 1, .ro, 0, .any⟩,
     ⟨"dropped", 2, 1, .rw1c, 0, .any⟩,
     ⟨"owner", 8, 4, .ro, 0, .any⟩,
     ⟨"owned", 12, 1, .ro, 0, .any⟩,
     ⟨"drop_regions", 16, 16, .ro, 0, .any⟩], false⟩,
  ⟨"SCN_LAYER_MATRIX", 0x0603000, [(32, 32), (4, 4)], 4,
    [⟨"lo", 0, 16, .shd, 0, .any⟩,
     ⟨"hi", 16, 16, .shd, 0, .any⟩], false⟩,
  ⟨"SCN_LAYER_MATRIX8", 0x0603010, [(32, 32)], 4,
    [⟨"m8", 0, 16, .shd, 0, .any⟩], false⟩,
  ⟨"SCN_LAYER_COLOUR_B", 0x0604000, [(4, 64)], 4,
    [⟨"b", 0, 16, .shd, 0, .any⟩,
     ⟨"key_enable", 16, 4, .shd, 0, .any⟩], false⟩,
  ⟨"SCN_LAYER_STEP", 0x0604100, [(8, 32)], 8,
    [⟨"step_x", 0, 17, .ro, 65536, .any⟩,
     ⟨"step_y", 32, 17, .ro, 65536, .any⟩], false⟩,
  ⟨"SCN_PALETTE", 0x0608000, [(1024, 32), (4, 256)], 4,
    [⟨"entry", 0, 32, .shd, 0, .any⟩], false⟩,
  ⟨"SCN_TRS_CFG", 0x0610000, [], 4,
    [⟨"enable", 0, 1, .rw, 0, .any⟩,
     ⟨"loss_wait", 8, 8, .rw, 20, .range 1 255⟩,
     ⟨"udp_port", 16, 16, .rw, 7170, .any⟩], false⟩,
  ⟨"SCN_TRS_HORIZON", 0x0610004, [], 4,
    [⟨"ms", 0, 16, .rw, 2000, .range 1 65535⟩], false⟩,
  ⟨"SCN_TRS_HOLD_BASE", 0x0610008, [], 4,
    [⟨"base", 0, 24, .rwl, 0, .any⟩], false⟩,
  ⟨"SCN_TRS_HOLD_SIZE", 0x061000C, [], 4,
    [⟨"mib", 0, 11, .rwl, 256, .range 64 1024⟩], false⟩,
  ⟨"SCN_TRS_UNKNOWN", 0x0610040, [(4, 9)], 4,
    [⟨"count", 0, 32, .rw1c, 0, .any⟩], false⟩,
  ⟨"SCN_TRS_STREAM", 0x0610100, [(16, 64)], 4,
    [⟨"stream_id", 0, 16, .ro, 0, .any⟩,
     ⟨"layer", 16, 6, .ro, 0, .any⟩,
     ⟨"no_layer", 22, 1, .ro, 0, .any⟩,
     ⟨"enable", 23, 1, .ro, 0, .any⟩,
     ⟨"group", 24, 4, .ro, 0, .any⟩,
     ⟨"owner", 28, 4, .ro, 0, .any⟩], false⟩,
  ⟨"SCN_TRS_ALTBASE", 0x0610104, [(16, 64)], 4,
    [⟨"base", 0, 30, .ro, 0, .any⟩], false⟩,
  ⟨"SCN_TRS_CNT", 0x0611000, [(64, 64), (4, 16)], 4,
    [⟨"count", 0, 32, .ro, 0, .any⟩], false⟩] : List RegSpec)

/-- The registers of block DEC (R504). -/
def regsDEC : List RegSpec :=
  ([
  ⟨"DEC_POOL_BASE", 0x0700000, [], 4,
    [⟨"base", 0, 24, .rwl, 0, .any⟩], false⟩,
  ⟨"DEC_POOL_SIZE", 0x0700004, [], 4,
    [⟨"mib", 0, 14, .rwl, 0, .range 0 16383⟩], false⟩,
  ⟨"DEC_POOL_FREE", 0x0700008, [], 4,
    [⟨"pages", 0, 24, .ro, 0, .any⟩], false⟩,
  ⟨"DEC_PIPE_LOAD", 0x0700100, [(4, 16)], 4,
    [⟨"load", 0, 17, .ro, 0, .any⟩,
     ⟨"streams", 17, 7, .ro, 0, .any⟩,
     ⟨"late", 24, 8, .rw1c, 0, .any⟩], false⟩,
  ⟨"DEC_LAYER_CFG", 0x0700200, [(8, 32)], 4,
    [⟨"pipe", 0, 4, .ro, 0, .any⟩,
     ⟨"depth_pipe", 4, 4, .ro, 0, .any⟩,
     ⟨"assigned", 8, 1, .ro, 0, .any⟩,
     ⟨"depth_assigned", 9, 1, .ro, 0, .any⟩,
     ⟨"codec", 10, 1, .ro, 0, .any⟩,
     ⟨"conceal", 11, 1, .rw, 0, .any⟩,
     ⟨"rate", 16, 16, .ro, 0, .any⟩], false⟩,
  ⟨"DEC_LAYER_STAT", 0x0700300, [(8, 32)], 8,
    [⟨"pictures", 0, 32, .ro, 0, .any⟩,
     ⟨"concealed", 32, 32, .ro, 0, .any⟩], false⟩] : List RegSpec)

/-- The registers of block ENG (R504). -/
def regsENG : List RegSpec :=
  ([
  ⟨"ENG_SYN_CFG", 0x0800000, [(65536, 8)], 4,
    [⟨"launch_margin", 0, 10, .rw, 100, .any⟩,
     ⟨"store_forward", 16, 1, .rw, 0, .any⟩], false⟩,
  ⟨"ENG_BENT_STATUS", 0x0800008, [(65536, 8)], 4,
    [⟨"state", 0, 3, .ro, 0, .any⟩,
     ⟨"cause", 4, 4, .ro, 0, .any⟩,
     ⟨"bays", 8, 8, .ro, 0, .any⟩,
     ⟨"spares", 16, 8, .ro, 0, .any⟩], false⟩,
  ⟨"ENG_BAY_STATE", 0x0800100, [(65536, 8), (4, 8)], 4,
    [⟨"region", 0, 16, .ro, 0, .any⟩,
     ⟨"phase", 16, 2, .ro, 0, .any⟩,
     ⟨"filling", 18, 1, .ro, 0, .any⟩,
     ⟨"cpr2", 19, 1, .ro, 0, .any⟩,
     ⟨"buffer", 20, 12, .ro, 0, .any⟩], false⟩,
  ⟨"ENG_BAY_STAT", 0x0800200, [(65536, 8), (32, 8), (4, 6)], 4,
    [⟨"count", 0, 32, .ro, 0, .any⟩], false⟩,
  ⟨"ENG_BAY_MAP", 0x0800400, [(65536, 8), (4, 8)], 4,
    [⟨"failed", 0, 9, .ro, 0, .any⟩,
     ⟨"slot", 9, 3, .ro, 0, .any⟩,
     ⟨"sistered", 12, 1, .ro, 0, .any⟩,
     ⟨"spare_ok", 13, 1, .ro, 1, .any⟩,
     ⟨"in_service", 14, 1, .ro, 0, .any⟩,
     ⟨"retired", 15, 1, .ro, 0, .any⟩], false⟩,
  ⟨"ENG_PLACE_CFG", 0x0880000, [], 4,
    [⟨"awake_min", 0, 4, .rw, 8, .range 1 8⟩,
     ⟨"bays", 16, 7, .ro, 0, .any⟩], false⟩,
  ⟨"ENG_CNT", 0x0880040, [(4, 9)], 4,
    [⟨"count", 0, 32, .ro, 0, .any⟩], false⟩] : List RegSpec)

/-- The registers of block GLU (R504). -/
def regsGLU : List RegSpec :=
  ([
  ⟨"GLU_CFG", 0x0900000, [], 4,
    [⟨"dither", 0, 2, .shd, 2, .range 0 2⟩,
     ⟨"group", 4, 4, .rw, 0, .any⟩], false⟩,
  ⟨"GLU_BG", 0x0900010, [(8, 4)], 8,
    [⟨"r", 0, 16, .shd, 0, .any⟩,
     ⟨"g", 16, 16, .shd, 0, .any⟩,
     ⟨"b", 32, 16, .shd, 0, .any⟩], false⟩,
  ⟨"GLU_BG_WORD", 0x0900030, [(8, 4)], 8,
    [⟨"word", 0, 36, .ro, 0, .any⟩], false⟩,
  ⟨"GLU_SQC_TABLE_BASE", 0x0900100, [], 4,
    [⟨"base", 0, 24, .rwl, 0, .any⟩], false⟩,
  ⟨"GLU_SQC_LAST_EXPECT", 0x0900110, [], 4,
    [⟨"sig", 0, 32, .ro, 0, .any⟩], false⟩,
  ⟨"GLU_SQC_LAST_GOT", 0x0900114, [], 4,
    [⟨"sig", 0, 32, .ro, 0, .any⟩], false⟩,
  ⟨"GLU_SQC_LAST_WHERE", 0x0900118, [], 4,
    [⟨"region", 0, 16, .ro, 0, .any⟩,
     ⟨"check", 16, 8, .ro, 0, .any⟩,
     ⟨"bay", 24, 6, .ro, 0, .any⟩,
     ⟨"second", 30, 1, .ro, 0, .any⟩], false⟩,
  ⟨"GLU_SQC_CTL", 0x0901000, [(32, 256)], 4,
    [⟨"enable", 0, 1, .ro, 0, .any⟩,
     ⟨"copy", 1, 1, .ro, 0, .any⟩,
     ⟨"loading", 2, 1, .ro, 0, .any⟩,
     ⟨"group", 4, 4, .ro, 0, .any⟩,
     ⟨"owner", 8, 4, .ro, 0, .any⟩,
     ⟨"owned", 12, 1, .ro, 0, .any⟩,
     ⟨"substituted", 16, 16, .ro, 0, .any⟩], false⟩,
  ⟨"GLU_SQC_ORG", 0x0901004, [(32, 256)], 4,
    [⟨"gx0", 0, 11, .ro, 0, .any⟩,
     ⟨"gy0", 16, 11, .ro, 0, .any⟩], false⟩,
  ⟨"GLU_SQC_SIZE", 0x0901008, [(32, 256)], 4,
    [⟨"gw", 0, 12, .ro, 0, .any⟩,
     ⟨"gh", 16, 12, .ro, 0, .any⟩], false⟩,
  ⟨"GLU_SQC_SAFE", 0x0901010, [(32, 256)], 8,
    [⟨"r", 0, 16, .ro, 0, .any⟩,
     ⟨"g", 16, 16, .ro, 0, .any⟩,
     ⟨"b", 32, 16, .ro, 0, .any⟩], false⟩,
  ⟨"GLU_SQC_SAFE_WORD", 0x0901018, [(32, 256)], 8,
    [⟨"word", 0, 36, .ro, 0, .any⟩], false⟩,
  ⟨"GLU_SQC_CNT", 0x0903000, [(64, 256), (4, 9)], 4,
    [⟨"count", 0, 32, .ro, 0, .any⟩], false⟩] : List RegSpec)

/-- The registers of block CLP (R504). -/
def regsCLP : List RegSpec :=
  ([
  ⟨"CLP_GROUP_CFG", 0x0A00000, [(32, 16)], 4,
    [⟨"source", 0, 2, .rw, 1, .range 0 2⟩,
     ⟨"seg", 2, 2, .rw, 0, .any⟩,
     ⟨"wall", 4, 1, .rw, 0, .any⟩,
     ⟨"hold_limit", 16, 16, .rw, 8, .range 1 65535⟩], false⟩,
  ⟨"CLP_GROUP_STATUS", 0x0A00004, [(32, 16)], 4,
    [⟨"armed", 0, 1, .ro, 0, .any⟩,
     ⟨"holding", 1, 1, .ro, 0, .any⟩,
     ⟨"free_run", 2, 1, .ro, 0, .any⟩,
     ⟨"wall_held", 3, 1, .ro, 0, .any⟩,
     ⟨"alone", 4, 1, .ro, 0, .any⟩,
     ⟨"vcf", 5, 1, .ro, 0, .any⟩,
     ⟨"sqc", 6, 1, .ro, 0, .any⟩,
     ⟨"copy", 7, 1, .ro, 0, .any⟩,
     ⟨"holds", 16, 16, .ro, 0, .any⟩], false⟩,
  ⟨"CLP_GROUP_FRAME", 0x0A00008, [(32, 16)], 4,
    [⟨"frame", 0, 32, .ro, 0, .any⟩], false⟩,
  ⟨"CLP_GROUP_TIME", 0x0A00010, [(32, 16)], 8,
    [⟨"time", 0, 64, .ro, 0, .any⟩], false⟩,
  ⟨"CLP_GROUP_LATE", 0x0A00018, [(32, 16)], 8,
    [⟨"layers", 0, 64, .ro, 0, .any⟩], false⟩,
  ⟨"CLP_GROUP_CNT", 0x0A00400, [(16, 16), (4, 4)], 4,
    [⟨"count", 0, 32, .ro, 0, .any⟩], false⟩,
  ⟨"CLP_FENCE_CFG", 0x0A00800, [(16, 8)], 4,
    [⟨"fence_mode", 0, 1, .shd, 0, .any⟩,
     ⟨"seg", 1, 2, .rw, 0, .any⟩], false⟩,
  ⟨"CLP_FENCE_VALUE", 0x0A00804, [(16, 8)], 4,
    [⟨"value", 0, 32, .ro, 0, .any⟩], false⟩,
  ⟨"CLP_FENCE_WAIT", 0x0A00808, [(16, 8)], 4,
    [⟨"value", 0, 32, .ro, 0, .any⟩], false⟩,
  ⟨"CLP_FENCE_STATE", 0x0A0080C, [(16, 8)], 4,
    [⟨"frames_left", 0, 16, .ro, 0, .any⟩,
     ⟨"armed", 16, 1, .ro, 0, .any⟩,
     ⟨"flip_anyway", 17, 1, .ro, 0, .any⟩,
     ⟨"staged", 18, 1, .ro, 0, .any⟩,
     ⟨"replaced", 24, 8, .rw1c, 0, .any⟩], false⟩,
  ⟨"CLP_WALL_LEAD", 0x0A00900, [], 4,
    [⟨"us", 0, 10, .rw, 100, .range 20 1023⟩], false⟩] : List RegSpec)

/-- The registers of block DMG (R504). -/
def regsDMG : List RegSpec :=
  ([
  ⟨"DMG_REGION_GRID", 0x0B00000, [], 4,
    [⟨"kx_div8", 0, 6, .ro, 0, .any⟩,
     ⟨"ky_div8", 8, 6, .ro, 0, .any⟩], false⟩,
  ⟨"DMG_REGION_COUNT", 0x0B00004, [], 4,
    [⟨"gx", 0, 12, .ro, 0, .any⟩,
     ⟨"gy", 16, 12, .ro, 0, .any⟩], false⟩,
  ⟨"DMG_KERF_CFG", 0x0B00008, [], 4,
    [⟨"vcf_floor", 0, 11, .rw, 0, .range 0 1024⟩], false⟩,
  ⟨"DMG_VCF_MAX", 0x0B0000C, [], 4,
    [⟨"max", 0, 11, .ro, 0, .any⟩], false⟩,
  ⟨"DMG_SMAX", 0x0B00010, [], 4,
    [⟨"s_max", 0, 18, .ro, 0, .any⟩], false⟩,
  ⟨"DMG_STATE_CNT", 0x0B00020, [(4, 5)], 4,
    [⟨"count", 0, 17, .ro, 0, .any⟩], false⟩,
  ⟨"DMG_CNT", 0x0B00040, [(4, 10)], 4,
    [⟨"count", 0, 32, .ro, 0, .any⟩], false⟩,
  ⟨"DMG_LAYER_KERF", 0x0B00100, [(4, 64)], 4,
    [⟨"kerf", 0, 12, .ro, 0, .any⟩,
     ⟨"zmax", 16, 11, .ro, 0, .any⟩], false⟩,
  ⟨"DMG_REGION_STATE", 0x0B10000, [(4, 65536)], 4,
    [⟨"state", 0, 3, .ro, 0, .any⟩,
     ⟨"coalesced", 8, 8, .ro, 0, .any⟩], false⟩] : List RegSpec)

/-- The registers of block SCH (R504). -/
def regsSCH : List RegSpec :=
  ([
  ⟨"SCH_CFG", 0x0C00000, [], 4,
    [⟨"acct", 0, 10, .rw, 10, .range 1 1000⟩,
     ⟨"sample", 16, 10, .rw, 10, .range 1 1023⟩], false⟩,
  ⟨"SCH_GROUP_CFG", 0x0C00100, [(32, 16)], 4,
    [⟨"depth", 0, 4, .rw, 4, .range 1 8⟩,
     ⟨"lookahead", 8, 8, .rw, 20, .any⟩,
     ⟨"guard", 16, 10, .rw, 50, .any⟩], false⟩,
  ⟨"SCH_GROUP_STATUS", 0x0C00104, [(32, 16)], 4,
    [⟨"lanes", 0, 4, .ro, 0, .any⟩,
     ⟨"segment", 4, 2, .ro, 0, .any⟩,
     ⟨"in_service", 6, 1, .ro, 0, .any⟩,
     ⟨"pending", 7, 1, .ro, 0, .any⟩,
     ⟨"entry", 8, 6, .ro, 0, .any⟩,
     ⟨"in_flight", 16, 4, .ro, 0, .any⟩], false⟩,
  ⟨"SCH_GROUP_CAP", 0x0C00108, [(32, 16)], 4,
    [⟨"rate", 0, 16, .ro, 0, .any⟩], false⟩,
  ⟨"SCH_GROUP_CNT", 0x0C00400, [(32, 16), (4, 3)], 4,
    [⟨"count", 0, 32, .ro, 0, .any⟩], false⟩,
  ⟨"SCH_CLASS_SLOPE", 0x0C01000, [(256, 16), (16, 16)], 4,
    [⟨"idle_slope", 0, 16, .rw, 65535, .any⟩,
     ⟨"send_slope", 16, 16, .rw, 0, .any⟩], false⟩,
  ⟨"SCH_CLASS_LIMIT", 0x0C01004, [(256, 16), (16, 16)], 4,
    [⟨"hicredit", 0, 16, .rw, 4096, .any⟩,
     ⟨"locredit", 16, 16, .rw, 4096, .any⟩], false⟩,
  ⟨"SCH_CLASS_CREDIT", 0x0C01008, [(256, 16), (16, 16)], 4,
    [⟨"credit", 0, 32, .ro, 0, .any⟩], false⟩,
  ⟨"SCH_CLASS_STATE", 0x0C0100C, [(256, 16), (16, 16)], 4,
    [⟨"eligible", 0, 1, .ro, 0, .any⟩,
     ⟨"planned", 1, 1, .ro, 1, .any⟩,
     ⟨"unusable", 2, 1, .ro, 0, .any⟩,
     ⟨"selected", 16, 16, .ro, 0, .any⟩], false⟩,
  ⟨"SCH_CLASS_GUAR", 0x0C02000, [(16, 16)], 4,
    [⟨"min_rate", 0, 16, .ro, 0, .any⟩,
     ⟨"max_delay", 16, 16, .ro, 0, .any⟩], false⟩,
  ⟨"SCH_CLASS_PREC", 0x0C02004, [(16, 16)], 4,
    [⟨"precedence", 0, 4, .ro, 0, .any⟩], false⟩,
  ⟨"SCH_CLASS_DEBT", 0x0C02008, [(16, 16)], 8,
    [⟨"bytes", 0, 64, .ro, 0, .any⟩], true⟩,
  ⟨"SCH_CLASS_CNT", 0x0C04000, [(512, 16), (32, 16), (4, 7)], 4,
    [⟨"count", 0, 32, .ro, 0, .any⟩], false⟩,
  ⟨"SCH_GATE_ACTIVE", 0x0C08000, [(512, 16), (8, 64)], 8,
    [⟨"entry", 0, 64, .ro, 0, .any⟩], false⟩,
  ⟨"SCH_GATE_CYCLE", 0x0C0A000, [(32, 16)], 4,
    [⟨"ns", 0, 32, .ro, 0, .any⟩], false⟩,
  ⟨"SCH_GATE_STATUS", 0x0C0A004, [(32, 16)], 4,
    [⟨"entries", 0, 6, .ro, 0, .any⟩,
     ⟨"anchor", 8, 1, .ro, 0, .any⟩,
     ⟨"present", 9, 1, .ro, 0, .any⟩], false⟩,
  ⟨"SCH_GATE_START", 0x0C0A008, [(32, 16)], 8,
    [⟨"time", 0, 64, .ro, 0, .any⟩], false⟩,
  ⟨"SCH_GATE_PENDING", 0x0C0A010, [(32, 16)], 8,
    [⟨"time", 0, 64, .ro, 0, .any⟩], false⟩,
  ⟨"SCH_WATCH", 0x0C0A400, [(4, 16)], 4,
    [⟨"region", 0, 16, .rw, 0, .any⟩,
     ⟨"enable", 31, 1, .rw, 0, .any⟩], false⟩,
  ⟨"SCH_REGION_MAP", 0x0C10000, [(4, 65536)], 4,
    [⟨"class", 0, 4, .rw, 8, .any⟩,
     ⟨"group", 4, 4, .rw, 0, .any⟩,
     ⟨"pin", 8, 1, .rw, 0, .any⟩,
     ⟨"weight", 16, 8, .rw, 16, .range 1 255⟩,
     ⟨"now_group", 24, 4, .ro, 0, .any⟩], false⟩,
  ⟨"SCH_RQ_DELAY", 0x0C50000, [(4, 65536)], 4,
    [⟨"us", 0, 16, .rw, 0, .any⟩], false⟩] : List RegSpec)

/-- The registers of block PNL (R504). -/
def regsPNL : List RegSpec :=
  ([
  ⟨"PNL_LINK_STATUS", 0x0D00000, [], 4,
    [⟨"state", 0, 3, .ro, 0, .any⟩,
     ⟨"refused", 8, 4, .ro, 0, .any⟩,
     ⟨"linkups", 16, 16, .ro, 0, .any⟩], false⟩,
  ⟨"PNL_LINK_CFG", 0x0D00004, [], 4,
    [⟨"train_ms", 0, 10, .rw, 500, .range 10 1023⟩,
     ⟨"auto", 16, 1, .rw, 1, .any⟩,
     ⟨"retry", 24, 8, .rw, 10, .range 1 255⟩], false⟩,
  ⟨"PNL_EPOCH", 0x0D00008, [], 8,
    [⟨"epoch", 0, 64, .ro, 0, .any⟩], false⟩,
  ⟨"PNL_GEOM_HOGELS", 0x0D00100, [], 4,
    [⟨"width", 0, 16, .ro, 0, .any⟩,
     ⟨"height", 16, 16, .ro, 0, .any⟩], false⟩,
  ⟨"PNL_GEOM_VIEWS", 0x0D00104, [], 4,
    [⟨"vx", 0, 5, .ro, 0, .any⟩,
     ⟨"vy", 8, 5, .ro, 0, .any⟩,
     ⟨"depth", 16, 4, .ro, 0, .any⟩,
     ⟨"segments", 24, 3, .ro, 0, .any⟩,
     ⟨"valid", 31, 1, .ro, 0, .any⟩], false⟩,
  ⟨"PNL_SEG_ORIGIN", 0x0D00110, [(8, 4)], 4,
    [⟨"x0", 0, 16, .ro, 0, .any⟩,
     ⟨"y0", 16, 16, .ro, 0, .any⟩], false⟩,
  ⟨"PNL_SEG_SIZE", 0x0D00114, [(8, 4)], 4,
    [⟨"width", 0, 16, .ro, 0, .any⟩,
     ⟨"height", 16, 16, .ro, 0, .any⟩], false⟩,
  ⟨"PNL_SEG_QUADS", 0x0D00130, [], 4,
    [⟨"seg0", 0, 4, .ro, 0, .any⟩,
     ⟨"seg1", 4, 4, .ro, 0, .any⟩,
     ⟨"seg2", 8, 4, .ro, 0, .any⟩,
     ⟨"seg3", 12, 4, .ro, 0, .any⟩], false⟩,
  ⟨"PNL_TE_CFG", 0x0D00200, [(32, 4)], 4,
    [⟨"source", 0, 2, .rw, 0, .range 0 2⟩,
     ⟨"edge", 2, 1, .rw, 0, .any⟩], false⟩,
  ⟨"PNL_SEG_FRAME", 0x0D00204, [(32, 4)], 4,
    [⟨"frame", 0, 32, .ro, 0, .any⟩], false⟩,
  ⟨"PNL_SEG_TE_TIME", 0x0D00208, [(32, 4)], 8,
    [⟨"time", 0, 64, .ro, 0, .any⟩], false⟩,
  ⟨"PNL_SEG_ROW", 0x0D00210, [(32, 4)], 4,
    [⟨"row", 0, 16, .ro, 0, .any⟩,
     ⟨"present", 16, 1, .ro, 0, .any⟩], false⟩,
  ⟨"PNL_APPLY_ROW", 0x0D00214, [(32, 4)], 4,
    [⟨"row", 0, 16, .rw, 0, .any⟩], false⟩,
  ⟨"PNL_SEG_TE_CNT", 0x0D00280, [(16, 4), (4, 4)], 4,
    [⟨"count", 0, 32, .ro, 0, .any⟩], false⟩,
  ⟨"PNL_SEG_PARAM", 0x0D00300, [(64, 4), (4, 16)], 4,
    [⟨"value", 0, 32, .apl, 0, .any⟩], false⟩,
  ⟨"PNL_GROUP_CFG", 0x0D00400, [(32, 16)], 4,
    [⟨"min_lanes", 0, 4, .rw, 1, .range 1 12⟩,
     ⟨"lane_enable", 4, 12, .rw, 4095, .any⟩,
     ⟨"hold_limit", 16, 8, .rw, 10, .range 1 255⟩,
     ⟨"ucw_limit", 24, 8, .rw, 16, .range 1 255⟩], false⟩,
  ⟨"PNL_GROUP_STATUS", 0x0D00404, [(32, 16)], 4,
    [⟨"lanes", 0, 12, .ro, 0, .any⟩,
     ⟨"count", 12, 4, .ro, 0, .any⟩,
     ⟨"bc_up", 16, 1, .ro, 0, .any⟩,
     ⟨"in_service", 17, 1, .ro, 0, .any⟩,
     ⟨"held", 18, 1, .ro, 0, .any⟩,
     ⟨"stalled", 19, 1, .ro, 0, .any⟩,
     ⟨"bursting", 20, 1, .ro, 0, .any⟩], false⟩,
  ⟨"PNL_GROUP_CREDIT", 0x0D00408, [(32, 16)], 4,
    [⟨"available", 0, 16, .ro, 0, .any⟩,
     ⟨"granted", 16, 16, .ro, 0, .any⟩], false⟩,
  ⟨"PNL_GROUP_CNT", 0x0D00800, [(64, 16), (4, 12)], 4,
    [⟨"count", 0, 32, .ro, 0, .any⟩], false⟩] : List RegSpec)

/-- The registers of block LAN (R504). -/
def regsLAN : List RegSpec :=
  ([
  ⟨"LAN_CFG", 0x0E00000, [(1024, 256)], 4,
    [⟨"precode", 0, 1, .rw, 0, .any⟩,
     ⟨"tx_invert", 1, 1, .rwl, 0, .any⟩,
     ⟨"adapt_freeze", 2, 1, .rw, 0, .any⟩,
     ⟨"use_history", 3, 1, .rw, 1, .any⟩,
     ⟨"preset", 4, 3, .rw, 1, .any⟩,
     ⟨"quiet_enable", 7, 1, .rw, 1, .any⟩], false⟩,
  ⟨"LAN_STATUS", 0x0E00004, [(1024, 256)], 4,
    [⟨"state", 0, 3, .ro, 0, .any⟩,
     ⟨"rx_inverted", 3, 1, .ro, 0, .any⟩,
     ⟨"precoding", 4, 1, .ro, 0, .any⟩,
     ⟨"rx_precoding", 5, 1, .ro, 0, .any⟩,
     ⟨"rate", 8, 10, .ro, 0, .any⟩], false⟩,
  ⟨"LAN_TXFFE", 0x0E00008, [(1024, 256)], 4,
    [⟨"pre2", 0, 5, .ro, 0, .any⟩,
     ⟨"pre1", 8, 6, .ro, 60, .any⟩,
     ⟨"main", 16, 6, .ro, 55, .any⟩,
     ⟨"post1", 24, 6, .ro, 60, .any⟩], false⟩,
  ⟨"LAN_RXEQ", 0x0E0000C, [(1024, 256)], 4,
    [⟨"ctle", 0, 4, .ro, 0, .any⟩,
     ⟨"dfe1", 8, 8, .ro, 0, .any⟩,
     ⟨"vga", 16, 8, .ro, 0, .any⟩], false⟩,
  ⟨"LAN_EYE", 0x0E00010, [(1024, 256)], 4,
    [⟨"width", 0, 8, .ro, 0, .any⟩,
     ⟨"height", 8, 8, .ro, 0, .any⟩,
     ⟨"eye", 16, 2, .ro, 0, .any⟩,
     ⟨"source", 18, 1, .ro, 0, .any⟩,
     ⟨"valid", 19, 1, .ro, 0, .any⟩,
     ⟨"age", 20, 12, .ro, 0, .any⟩], false⟩,
  ⟨"LAN_RESID", 0x0E00014, [(1024, 256)], 4,
    [⟨"rms", 0, 16, .ro, 0, .any⟩,
     ⟨"corrected", 16, 16, .ro, 0, .any⟩], false⟩,
  ⟨"LAN_CNT", 0x0E00040, [(1024, 256), (4, 8)], 4,
    [⟨"count", 0, 32, .ro, 0, .any⟩], false⟩,
  ⟨"LAN_BC_STATUS", 0x0E40000, [(16, 16)], 4,
    [⟨"lock", 0, 1, .ro, 0, .any⟩,
     ⟨"inverted", 1, 1, .ro, 0, .any⟩,
     ⟨"violations", 16, 16, .ro, 0, .any⟩], false⟩,
  ⟨"LAN_QUIET_CFG", 0x0E40100, [], 4,
    [⟨"idle", 0, 10, .rw, 20, .range 1 1023⟩], false⟩,
  ⟨"LAN_ADAPT_CFG", 0x0E40104, [], 4,
    [⟨"period", 0, 10, .rw, 10, .range 1 1023⟩], false⟩,
  ⟨"LAN_EYE_ALARM", 0x0E40108, [], 4,
    [⟨"width", 0, 8, .rw, 0, .any⟩,
     ⟨"height", 8, 8, .rw, 0, .any⟩], false⟩] : List RegSpec)

/-- The registers of block WVL (R504). -/
def regsWVL : List RegSpec :=
  ([
  ⟨"WVL_WALL_CFG", 0x0F00000, [], 4,
    [⟨"enable", 0, 1, .ro, 0, .any⟩,
     ⟨"alt_valid", 1, 1, .ro, 0, .any⟩,
     ⟨"x", 4, 4, .ro, 0, .any⟩,
     ⟨"y", 8, 4, .ro, 0, .any⟩,
     ⟨"wx", 12, 4, .ro, 0, .any⟩,
     ⟨"wy", 16, 4, .ro, 0, .any⟩,
     ⟨"mx", 20, 4, .ro, 0, .any⟩,
     ⟨"my", 24, 4, .ro, 0, .any⟩], false⟩,
  ⟨"WVL_WALL_CFG2", 0x0F00004, [], 4,
    [⟨"ax", 0, 4, .ro, 0, .any⟩,
     ⟨"ay", 4, 4, .ro, 0, .any⟩,
     ⟨"scarf", 16, 8, .ro, 0, .any⟩], false⟩,
  ⟨"WVL_WALL_ID", 0x0F00008, [], 4,
    [⟨"id", 0, 32, .ro, 0, .any⟩], false⟩,
  ⟨"WVL_WALL_STATUS", 0x0F00010, [], 4,
    [⟨"lock", 0, 2, .ro, 0, .any⟩,
     ⟨"alone", 2, 1, .ro, 0, .any⟩,
     ⟨"alternate", 3, 1, .ro, 0, .any⟩,
     ⟨"hops", 4, 5, .ro, 31, .any⟩,
     ⟨"members", 16, 9, .ro, 0, .any⟩], false⟩,
  ⟨"WVL_SUMMARY_CFG", 0x0F00014, [], 4,
    [⟨"ms", 0, 10, .rw, 10, .range 1 1000⟩], false⟩,
  ⟨"WVL_TE_ERR", 0x0F00020, [(4, 4)], 4,
    [⟨"err", 0, 32, .ro, 0, .any⟩], false⟩,
  ⟨"WVL_SCHED", 0x0F00030, [], 8,
    [⟨"index", 0, 64, .ro, 0, .any⟩], false⟩,
  ⟨"WVL_PORT_CFG", 0x0F00100, [(64, 4)], 4,
    [⟨"min_lanes", 0, 4, .rw, 1, .range 1 8⟩,
     ⟨"ucw_limit", 8, 8, .rw, 16, .any⟩,
     ⟨"compress", 16, 1, .rw, 0, .any⟩], false⟩,
  ⟨"WVL_PORT_STATUS", 0x0F00104, [(64, 4)], 4,
    [⟨"lanes", 0, 8, .ro, 0, .any⟩,
     ⟨"count", 8, 4, .ro, 0, .any⟩,
     ⟨"in_service", 12, 1, .ro, 0, .any⟩,
     ⟨"hello_ok", 13, 1, .ro, 0, .any⟩,
     ⟨"parent", 14, 1, .ro, 0, .any⟩,
     ⟨"nx", 16, 4, .ro, 0, .any⟩,
     ⟨"ny", 20, 4, .ro, 0, .any⟩,
     ⟨"nhops", 24, 8, .ro, 255, .any⟩], false⟩,
  ⟨"WVL_PORT_ASYM", 0x0F00108, [(64, 4)], 4,
    [⟨"asym", 0, 32, .rw, 0, .any⟩], false⟩,
  ⟨"WVL_PORT_CREDIT", 0x0F0010C, [(64, 4)], 4,
    [⟨"available", 0, 16, .ro, 0, .any⟩,
     ⟨"outstanding", 16, 16, .ro, 0, .any⟩], false⟩,
  ⟨"WVL_PORT_CNT", 0x0F00200, [(64, 4), (4, 10)], 4,
    [⟨"count", 0, 32, .ro, 0, .any⟩], false⟩,
  ⟨"WVL_RELAY", 0x0F00400, [(4, 64)], 4,
    [⟨"ports", 0, 4, .rw, 0, .any⟩], false⟩,
  ⟨"WVL_PEER", 0x0F04000, [(64, 256), (8, 8)], 8,
    [⟨"bytes", 0, 64, .ro, 0, .any⟩], false⟩] : List RegSpec)

/-- The registers of block ETH (R504). -/
def regsETH : List RegSpec :=
  ([
  ⟨"ETH_PORT_CFG", 0x1000000, [(256, 8)], 4,
    [⟨"mode", 0, 3, .rw, 0, .range 0 5⟩,
     ⟨"an_abilities", 3, 4, .rw, 15, .any⟩,
     ⟨"strip", 7, 1, .rw, 1, .any⟩,
     ⟨"bcast", 8, 1, .rw, 1, .any⟩,
     ⟨"all_multi", 9, 1, .rw, 0, .any⟩,
     ⟨"promisc", 10, 1, .rw, 0, .any⟩,
     ⟨"ptp_steer", 11, 1, .rw, 0, .any⟩,
     ⟨"hash_enable", 12, 1, .rw, 0, .any⟩,
     ⟨"preempt_enable", 13, 1, .rw, 0, .any⟩,
     ⟨"frag", 14, 2, .rw, 0, .any⟩,
     ⟨"ptp_ring", 16, 6, .rw, 0, .any⟩,
     ⟨"default_ring", 24, 6, .rw, 0, .any⟩], false⟩,
  ⟨"ETH_PORT_STATUS", 0x1000004, [(256, 8)], 4,
    [⟨"up", 0, 1, .ro, 0, .any⟩,
     ⟨"mode", 1, 3, .ro, 0, .any⟩,
     ⟨"preempt", 4, 1, .ro, 0, .any⟩,
     ⟨"list", 5, 1, .ro, 0, .any⟩,
     ⟨"pending", 6, 1, .ro, 0, .any⟩,
     ⟨"paused", 8, 8, .ro, 0, .any⟩,
     ⟨"entry", 16, 7, .ro, 0, .any⟩], false⟩,
  ⟨"ETH_PORT_CFG2", 0x1000008, [(256, 8)], 4,
    [⟨"max_frame", 0, 14, .rw, 1522, .range 64 9216⟩,
     ⟨"preemptable", 16, 8, .rw, 0, .any⟩], false⟩,
  ⟨"ETH_TS_LAT", 0x100000C, [(256, 8)], 4,
    [⟨"rx", 0, 16, .ro, 0, .any⟩,
     ⟨"tx", 16, 16, .ro, 0, .any⟩], false⟩,
  ⟨"ETH_TS_ADJ", 0x1000010, [(256, 8)], 4,
    [⟨"rx", 0, 16, .rw, 0, .any⟩,
     ⟨"tx", 16, 16, .rw, 0, .any⟩], false⟩,
  ⟨"ETH_TS_ASYM", 0x1000014, [(256, 8)], 4,
    [⟨"asym", 0, 32, .rw, 0, .any⟩], false⟩,
  ⟨"ETH_PORT_CNT", 0x1002000, [(128, 8), (4, 15)], 4,
    [⟨"count", 0, 32, .ro, 0, .any⟩], false⟩,
  ⟨"ETH_RXQ_BASE", 0x1004000, [(32, 512)], 8,
    [⟨"loc", 0, 1, .ro, 0, .any⟩,
     ⟨"base", 12, 52, .ro, 0, .any⟩], false⟩,
  ⟨"ETH_RXQ_CFG", 0x1004008, [(32, 512)], 4,
    [⟨"enable", 0, 1, .ro, 0, .any⟩,
     ⟨"log2size", 8, 4, .ro, 0, .any⟩,
     ⟨"owner", 12, 4, .ro, 0, .any⟩,
     ⟨"buf", 16, 7, .ro, 0, .any⟩,
     ⟨"vector", 24, 6, .ro, 0, .any⟩], false⟩,
  ⟨"ETH_RXQ_HEAD", 0x100400C, [(32, 512)], 4,
    [⟨"head", 0, 16, .ro, 0, .any⟩], false⟩,
  ⟨"ETH_RXQ_WB", 0x1004010, [(32, 512)], 8,
    [⟨"addr", 0, 64, .ro, 0, .any⟩], false⟩,
  ⟨"ETH_TXQ_BASE", 0x1008000, [(32, 64)], 8,
    [⟨"loc", 0, 1, .ro, 0, .any⟩,
     ⟨"base", 12, 52, .ro, 0, .any⟩], false⟩,
  ⟨"ETH_TXQ_CFG", 0x1008008, [(32, 64)], 4,
    [⟨"enable", 0, 1, .ro, 0, .any⟩,
     ⟨"log2size", 8, 4, .ro, 0, .any⟩,
     ⟨"owner", 12, 4, .ro, 0, .any⟩,
     ⟨"vector", 24, 6, .ro, 0, .any⟩], false⟩,
  ⟨"ETH_TXQ_HEAD", 0x100800C, [(32, 64)], 4,
    [⟨"head", 0, 16, .ro, 0, .any⟩], false⟩,
  ⟨"ETH_TXQ_WB", 0x1008010, [(32, 64)], 8,
    [⟨"addr", 0, 64, .ro, 0, .any⟩], false⟩,
  ⟨"ETH_RULE", 0x100C000, [(512, 8), (16, 32), (8, 2)], 8,
    [⟨"bits", 0, 64, .rw, 0, .any⟩], false⟩,
  ⟨"ETH_ADDR", 0x1010000, [(1024, 8), (8, 72)], 8,
    [⟨"mac", 0, 48, .rw, 0, .any⟩,
     ⟨"enable", 63, 1, .rw, 0, .any⟩], false⟩,
  ⟨"ETH_GATE_ACTIVE", 0x1020000, [(1024, 8), (8, 128)], 8,
    [⟨"entry", 0, 64, .ro, 0, .any⟩], false⟩,
  ⟨"ETH_GATE_CYCLE", 0x1022000, [(32, 8)], 4,
    [⟨"ns", 0, 32, .ro, 0, .any⟩], false⟩,
  ⟨"ETH_GATE_STATUS", 0x1022004, [(32, 8)], 4,
    [⟨"entries", 0, 8, .ro, 0, .any⟩,
     ⟨"anchor", 8, 1, .ro, 0, .any⟩], false⟩,
  ⟨"ETH_GATE_START", 0x1022008, [(32, 8)], 8,
    [⟨"time", 0, 64, .ro, 0, .any⟩], false⟩,
  ⟨"ETH_GATE_PENDING", 0x1022010, [(32, 8)], 8,
    [⟨"time", 0, 64, .ro, 0, .any⟩], false⟩,
  ⟨"ETH_HASH_KEY", 0x1024000, [(64, 8), (4, 10)], 4,
    [⟨"word", 0, 32, .rw, 0, .any⟩], false⟩,
  ⟨"ETH_HASH_IND", 0x1024400, [(64, 8), (4, 16)], 4,
    [⟨"ring0", 0, 6, .rw, 0, .any⟩,
     ⟨"ring1", 8, 6, .rw, 0, .any⟩,
     ⟨"ring2", 16, 6, .rw, 0, .any⟩,
     ⟨"ring3", 24, 6, .rw, 0, .any⟩], false⟩] : List RegSpec)

/-- The registers of block PTP (R504). -/
def regsPTP : List RegSpec :=
  ([
  ⟨"PTP_FREE", 0x1100000, [], 8,
    [⟨"f", 0, 64, .ro, 0, .any⟩], false⟩,
  ⟨"PTP_NOW_NS", 0x1100008, [], 8,
    [⟨"ns", 0, 64, .ro, 0, .any⟩], false⟩,
  ⟨"PTP_NOW", 0x1100010, [], 8,
    [⟨"ns", 0, 30, .ro, 0, .any⟩,
     ⟨"sec", 32, 32, .ro, 0, .any⟩], false⟩,
  ⟨"PTP_NOW_XSEC", 0x1100018, [], 4,
    [⟨"sec", 0, 16, .ro, 0, .any⟩], false⟩,
  ⟨"PTP_OFS", 0x1100020, [], 8,
    [⟨"ns", 0, 30, .rws, 0, .any⟩,
     ⟨"sec", 32, 32, .rws, 0, .any⟩], false⟩,
  ⟨"PTP_OFS_XSEC", 0x1100028, [], 4,
    [⟨"sec", 0, 16, .rws, 0, .any⟩], false⟩,
  ⟨"PTP_RATE", 0x1100030, [], 8,
    [⟨"rho", 0, 40, .rws, 0, .any⟩], false⟩,
  ⟨"PTP_STEP", 0x1100038, [], 8,
    [⟨"ns", 0, 64, .rws, 0, .any⟩], false⟩,
  ⟨"PTP_CMD", 0x1100040, [], 4,
    [⟨"cmd", 0, 2, .wo, 0, .any⟩], false⟩,
  ⟨"PTP_ANCHOR", 0x1100048, [], 8,
    [⟨"a", 0, 64, .ro, 0, .any⟩], false⟩,
  ⟨"PTP_CNT", 0x1100050, [], 4,
    [⟨"steps", 0, 16, .ro, 0, .any⟩,
     ⟨"ignored", 16, 16, .ro, 0, .any⟩], false⟩,
  ⟨"TRIG_START", 0x1101000, [(64, 8)], 8,
    [⟨"ns", 0, 64, .rw, 0, .any⟩], false⟩,
  ⟨"TRIG_PERIOD", 0x1101008, [(64, 8)], 4,
    [⟨"ns", 0, 32, .rw, 0, .zeroOr 100 4294967295⟩], false⟩,
  ⟨"TRIG_CFG", 0x110100C, [(64, 8)], 4,
    [⟨"arm", 0, 1, .rw, 0, .any⟩,
     ⟨"pin", 1, 1, .rw, 0, .any⟩,
     ⟨"toggle", 2, 1, .rw, 0, .any⟩,
     ⟨"idle", 3, 1, .rw, 0, .any⟩,
     ⟨"width", 16, 16, .rw, 0, .any⟩], false⟩,
  ⟨"TRIG_ACT", 0x1101010, [(64, 8)], 4,
    [⟨"groups", 0, 16, .rw, 0, .any⟩,
     ⟨"eth_start", 16, 8, .rw, 0, .any⟩,
     ⟨"snap", 24, 1, .rw, 0, .any⟩], false⟩,
  ⟨"TRIG_STATUS", 0x1101014, [(64, 8)], 4,
    [⟨"armed", 0, 1, .ro, 0, .any⟩,
     ⟨"wall", 1, 1, .ro, 0, .any⟩,
     ⟨"skipped", 8, 8, .ro, 0, .any⟩,
     ⟨"fires", 16, 16, .ro, 0, .any⟩], false⟩,
  ⟨"CAP_CFG", 0x1102000, [(32, 4)], 4,
    [⟨"enable", 0, 1, .rw, 0, .any⟩,
     ⟨"rising", 1, 1, .rw, 0, .any⟩,
     ⟨"falling", 2, 1, .rw, 0, .any⟩], false⟩,
  ⟨"CAP_TIME", 0x1102008, [(32, 4)], 8,
    [⟨"time", 0, 64, .ro, 0, .any⟩], false⟩,
  ⟨"CAP_STATUS", 0x1102010, [(32, 4)], 4,
    [⟨"entries", 0, 5, .ro, 0, .any⟩,
     ⟨"edge", 5, 1, .ro, 0, .any⟩,
     ⟨"glitches", 8, 8, .ro, 0, .any⟩,
     ⟨"overflows", 16, 16, .ro, 0, .any⟩], false⟩] : List RegSpec)

/-- The registers of block DMC (R504). -/
def regsDMC : List RegSpec :=
  ([
  ⟨"DMC_CFG", 0x1200000, [], 4,
    [⟨"age_cap", 0, 8, .rw, 40, .range 1 255⟩,
     ⟨"link_ecc", 8, 1, .rw, 1, .any⟩,
     ⟨"ue_limit", 16, 8, .rw, 16, .range 1 255⟩,
     ⟨"track_ms", 24, 8, .rw, 64, .range 1 255⟩], false⟩,
  ⟨"DMC_CAP", 0x1200004, [], 4,
    [⟨"channels", 0, 6, .ro, 32, .any⟩,
     ⟨"gib", 16, 7, .ro, 64, .any⟩], false⟩,
  ⟨"DMC_CH_OK", 0x1200008, [], 4,
    [⟨"ok", 0, 32, .ro, 4294967295, .any⟩], false⟩,
  ⟨"DMC_SR_CFG", 0x120000C, [], 4,
    [⟨"idle", 0, 10, .rw, 10, .range 1 1023⟩], false⟩,
  ⟨"DMC_QUAD_STATUS", 0x1200010, [(4, 4)], 4,
    [⟨"point", 0, 2, .ro, 0, .any⟩,
     ⟨"fsp", 2, 1, .ro, 0, .any⟩,
     ⟨"state", 4, 3, .ro, 0, .any⟩,
     ⟨"stale", 8, 4, .ro, 0, .any⟩,
     ⟨"history", 12, 4, .ro, 0, .any⟩], false⟩,
  ⟨"DMC_TRAIN_TIME", 0x1200020, [(8, 4)], 8,
    [⟨"time", 0, 64, .ro, 0, .any⟩], false⟩,
  ⟨"DMC_OP", 0x1200040, [(4, 4)], 4,
    [⟨"rate", 0, 14, .ro, 0, .any⟩], false⟩,
  ⟨"DMC_OP_TIMING", 0x1200080, [(64, 4), (4, 16)], 4,
    [⟨"word", 0, 32, .ro, 0, .any⟩], false⟩,
  ⟨"DMC_WIN_CFG", 0x1200200, [(32, 8)], 4,
    [⟨"enable", 0, 1, .ro, 0, .any⟩,
     ⟨"order", 1, 2, .ro, 0, .any⟩,
     ⟨"iecc", 3, 1, .ro, 0, .any⟩,
     ⟨"e", 4, 3, .ro, 0, .any⟩,
     ⟨"c0", 8, 5, .ro, 0, .any⟩,
     ⟨"holed", 16, 1, .ro, 0, .any⟩], false⟩,
  ⟨"DMC_WIN_BASE", 0x1200204, [(32, 8)], 4,
    [⟨"base", 0, 12, .ro, 0, .any⟩,
     ⟨"size", 16, 13, .ro, 0, .any⟩], false⟩,
  ⟨"DMC_WIN_ROWS", 0x1200208, [(32, 8)], 4,
    [⟨"row0", 0, 16, .ro, 0, .any⟩,
     ⟨"rows512", 16, 8, .ro, 0, .any⟩], false⟩,
  ⟨"DMC_WIN_HOLES", 0x120020C, [(32, 8)], 4,
    [⟨"count", 0, 32, .ro, 0, .any⟩], false⟩,
  ⟨"DMC_UNMAPPED", 0x1200300, [], 8,
    [⟨"ma", 0, 36, .ro, 0, .any⟩,
     ⟨"count", 40, 24, .ro, 0, .any⟩], false⟩,
  ⟨"DMC_CH_CNT", 0x1201000, [(64, 32), (4, 13)], 4,
    [⟨"count", 0, 32, .ro, 0, .any⟩], false⟩] : List RegSpec)

/-- The registers of block CMP (R504). -/
def regsCMP : List RegSpec :=
  ([
  ⟨"CMP_CFG", 0x1300000, [], 4,
    [⟨"sw_inflate", 0, 4, .rw, 2, .range 0 8⟩,
     ⟨"sw_deflate", 8, 3, .rw, 1, .range 0 4⟩], false⟩,
  ⟨"CMP_UNIT_STATUS", 0x1300100, [(4, 12)], 4,
    [⟨"busy", 0, 1, .ro, 0, .any⟩,
     ⟨"requester", 1, 2, .ro, 0, .any⟩,
     ⟨"client", 4, 4, .ro, 0, .any⟩,
     ⟨"done_kib", 8, 24, .ro, 0, .any⟩], false⟩,
  ⟨"CMP_CNT", 0x1301020, [(128, 2), (32, 3), (4, 8)], 4,
    [⟨"count", 0, 32, .ro, 0, .any⟩], false⟩] : List RegSpec)

/-- The registers of block BLK (R504). -/
def regsBLK : List RegSpec :=
  ([
  ⟨"BLK_CFG", 0x1400000, [], 4,
    [⟨"dead_floor", 0, 10, .rw, 0, .any⟩], false⟩,
  ⟨"BLK_STATUS", 0x1400004, [], 4,
    [⟨"busy", 0, 1, .ro, 0, .any⟩,
     ⟨"op", 1, 2, .ro, 0, .any⟩,
     ⟨"client", 4, 4, .ro, 0, .any⟩,
     ⟨"rows", 8, 15, .ro, 0, .any⟩,
     ⟨"waiting", 23, 9, .ro, 0, .any⟩], false⟩,
  ⟨"BLK_LAST", 0x1400008, [], 4,
    [⟨"rows", 0, 15, .ro, 0, .any⟩,
     ⟨"overlap", 15, 1, .ro, 0, .any⟩,
     ⟨"client", 16, 4, .ro, 0, .any⟩], false⟩,
  ⟨"BLK_LAST_TAG", 0x140000C, [], 4,
    [⟨"tag", 0, 32, .ro, 0, .any⟩], false⟩,
  ⟨"BLK_CNT", 0x1400040, [(4, 6)], 4,
    [⟨"count", 0, 32, .ro, 0, .any⟩], false⟩] : List RegSpec)

/-- The registers of block PFC (R504). -/
def regsPFC : List RegSpec :=
  ([
  ⟨"PFC_GLOBAL", 0x1500000, [], 4,
    [⟨"freeze", 0, 1, .rw, 0, .any⟩,
     ⟨"snap", 1, 1, .wo, 0, .any⟩,
     ⟨"hold", 2, 1, .rw, 0, .any⟩,
     ⟨"snap_valid", 3, 1, .ro, 0, .any⟩,
     ⟨"snap_lost", 8, 8, .rw1c, 0, .any⟩], false⟩,
  ⟨"PFC_SNAP_TIME", 0x1500008, [], 8,
    [⟨"t", 0, 64, .ro, 0, .any⟩], false⟩,
  ⟨"PFC_METER_CFG", 0x1500010, [], 4,
    [⟨"window", 0, 20, .rw, 1000, .range 1 1000000⟩], false⟩,
  ⟨"PFC_CTL", 0x1501000, [(16, 256)], 4,
    [⟨"event", 0, 8, .rw, 0, .any⟩,
     ⟨"inst", 8, 8, .rw, 0, .any⟩,
     ⟨"enable", 16, 1, .rw, 0, .any⟩,
     ⟨"occ", 17, 1, .rw, 0, .any⟩,
     ⟨"chain", 18, 1, .rw, 0, .any⟩,
     ⟨"overflow", 19, 1, .rw1c, 0, .any⟩,
     ⟨"owner", 20, 4, .ro, 0, .any⟩], false⟩,
  ⟨"PFC_THRESH", 0x1501004, [(16, 256)], 4,
    [⟨"n", 0, 16, .rw, 0, .any⟩], false⟩,
  ⟨"PFC_VAL", 0x1501008, [(16, 256)], 8,
    [⟨"count", 0, 48, .rw, 0, .any⟩], false⟩,
  ⟨"PFC_METER_LAST", 0x1502000, [(32, 76)], 8,
    [⟨"bytes", 0, 64, .ro, 0, .any⟩], false⟩,
  ⟨"PFC_METER_MAX", 0x1502008, [(32, 76)], 8,
    [⟨"bytes", 0, 64, .rw1c, 0, .any⟩], false⟩,
  ⟨"PFC_METER_END", 0x1502010, [(32, 76)], 8,
    [⟨"time", 0, 64, .ro, 0, .any⟩], false⟩,
  ⟨"PFC_METER_WIN", 0x1502018, [(32, 76)], 4,
    [⟨"windows", 0, 32, .ro, 0, .any⟩], false⟩,
  ⟨"PFC_SNAP", 0x1504000, [(8, 256)], 8,
    [⟨"count", 0, 48, .ro, 0, .any⟩], false⟩,
  ⟨"PFC_METER_SNAP", 0x1505000, [(8, 76)], 8,
    [⟨"bytes", 0, 64, .ro, 0, .any⟩], false⟩,
  ⟨"PFC_SAMPLE_CFG", 0x1506000, [], 4,
    [⟨"tagged", 0, 1, .rw, 0, .any⟩,
     ⟨"k", 1, 5, .rw, 20, .range 4 24⟩,
     ⟨"precise", 6, 1, .rw, 0, .any⟩,
     ⟨"items", 7, 5, .rw, 0, .any⟩,
     ⟨"threshold", 16, 16, .rw, 0, .any⟩], false⟩,
  ⟨"PFC_SAMPLE_SEED", 0x1506004, [], 4,
    [⟨"seed", 0, 32, .rws, 1, .any⟩], false⟩,
  ⟨"PFC_BUF_BASE", 0x1506008, [], 4,
    [⟨"base", 0, 24, .rw, 0, .any⟩], false⟩,
  ⟨"PFC_BUF_SIZE", 0x150600C, [], 4,
    [⟨"s", 0, 5, .rw, 16, .range 16 30⟩], false⟩,
  ⟨"PFC_BUF_WR", 0x1506010, [], 4,
    [⟨"index", 0, 25, .ro, 0, .any⟩], false⟩,
  ⟨"PFC_BUF_RD", 0x1506014, [], 4,
    [⟨"index", 0, 25, .rw, 0, .any⟩], false⟩,
  ⟨"PFC_BUF_LOST", 0x1506018, [], 8,
    [⟨"records", 0, 64, .ro, 0, .any⟩], true⟩,
  ⟨"PFC_BUF_WRITTEN", 0x1506020, [], 8,
    [⟨"records", 0, 64, .ro, 0, .any⟩], true⟩] : List RegSpec)

/-- The registers of block FLT (R504). -/
def regsFLT : List RegSpec :=
  ([
  ⟨"FLT_RESET_STATUS", 0x1600000, [], 4,
    [⟨"level", 0, 3, .ro, 1, .any⟩,
     ⟨"cause", 3, 5, .ro, 1, .any⟩,
     ⟨"report_ready", 8, 1, .ro, 0, .any⟩,
     ⟨"dram_lost", 9, 1, .ro, 0, .any⟩,
     ⟨"power_fail", 10, 1, .ro, 0, .any⟩,
     ⟨"shutdown", 11, 1, .ro, 0, .any⟩,
     ⟨"nvm_interrupted", 12, 1, .ro, 0, .any⟩,
     ⟨"entries", 16, 16, .ro, 0, .any⟩], false⟩,
  ⟨"FLT_INFLIGHT", 0x1600004, [], 4,
    [⟨"count", 0, 13, .ro, 0, .any⟩,
     ⟨"waiting", 16, 1, .ro, 0, .any⟩], false⟩,
  ⟨"FLT_RESET_TIME", 0x1600008, [], 8,
    [⟨"time", 0, 64, .ro, 0, .any⟩], false⟩,
  ⟨"FLT_FN_REPORT", 0x1600010, [(4, 12)], 4,
    [⟨"entries", 0, 16, .ro, 0, .any⟩,
     ⟨"held", 16, 1, .ro, 0, .any⟩], false⟩,
  ⟨"FLT_CNT", 0x1600040, [(4, 8)], 4,
    [⟨"count", 0, 32, .ro, 0, .any⟩], true⟩] : List RegSpec)

/-- The registers of block HST (R504). -/
def regsHST : List RegSpec :=
  ([
  ⟨"HST_LINK_STATUS", 0x1700000, [(4, 2)], 4,
    [⟨"rate", 0, 3, .ro, 0, .any⟩,
     ⟨"width", 3, 5, .ro, 0, .any⟩,
     ⟨"flit", 8, 1, .ro, 0, .any⟩,
     ⟨"bifurcated", 9, 1, .ro, 0, .any⟩], false⟩,
  ⟨"HST_EVT_UNROUTED", 0x1700010, [], 4,
    [⟨"count", 0, 32, .rw1c, 0, .any⟩], false⟩,
  ⟨"HST_FN_CFG", 0x1700100, [(16, 16)], 4,
    [⟨"present", 0, 1, .ro, 0, .any⟩,
     ⟨"weight", 4, 4, .rw, 0, .any⟩,
     ⟨"deferred", 8, 8, .ro, 0, .any⟩], false⟩,
  ⟨"HST_FN_RIGHTS", 0x1700104, [(16, 16)], 4,
    [⟨"ranges", 1, 14, .rw, 0, .any⟩], false⟩,
  ⟨"HST_FN_APERTURE", 0x1700108, [(16, 16)], 4,
    [⟨"base", 0, 12, .rw, 0, .any⟩,
     ⟨"size", 16, 13, .rw, 0, .any⟩], false⟩,
  ⟨"HST_FN_DROPS", 0x170010C, [(16, 16)], 4,
    [⟨"count", 0, 32, .rw1c, 0, .any⟩], false⟩] : List RegSpec)

/-- The registers of block `k`, by R504. -/
def regsOfBlock : Nat → List RegSpec
  | 0 => regsGLB
  | 1 => regsCMD
  | 2 => regsPWC
  | 3 => regsTHM
  | 4 => regsCAL
  | 5 => regsSPL
  | 6 => regsSCN
  | 7 => regsDEC
  | 8 => regsENG
  | 9 => regsGLU
  | 10 => regsCLP
  | 11 => regsDMG
  | 12 => regsSCH
  | 13 => regsPNL
  | 14 => regsLAN
  | 15 => regsWVL
  | 16 => regsETH
  | 17 => regsPTP
  | 18 => regsDMC
  | 19 => regsCMP
  | 20 => regsBLK
  | 21 => regsPFC
  | 22 => regsFLT
  | 23 => regsHST
  | _ => []

/-! The places of registers and of their fields. -/
namespace R

def GLB_ID : Nat := 0x0000000
def GLB_ID_vendor : Loc := ⟨GLB_ID, 0, 16⟩
def GLB_ID_part : Loc := ⟨GLB_ID, 16, 16⟩
def GLB_STEP : Nat := 0x0000004
def GLB_STEP_ray_die : Loc := ⟨GLB_STEP, 0, 8⟩
def GLB_STEP_io_die : Loc := ⟨GLB_STEP, 8, 8⟩
def GLB_STEP_build : Loc := ⟨GLB_STEP, 16, 8⟩
def GLB_STEP_page_format : Loc := ⟨GLB_STEP, 24, 8⟩
def GLB_SERIAL : Nat := 0x0000008
def GLB_SERIAL_serial : Loc := ⟨GLB_SERIAL, 0, 64⟩
def GLB_FW_VER : Nat := 0x0000010
def GLB_FW_VER_version : Loc := ⟨GLB_FW_VER, 0, 64⟩
def GLB_CAPS : Nat := 0x0000018
def GLB_CAPS_engines : Loc := ⟨GLB_CAPS, 0, 10⟩
def GLB_CAPS_lanes : Loc := ⟨GLB_CAPS, 10, 9⟩
def GLB_CAPS_channels : Loc := ⟨GLB_CAPS, 19, 6⟩
def GLB_CAPS_layers : Loc := ⟨GLB_CAPS, 25, 7⟩
def GLB_LOCK : Nat := 0x0000020
def GLB_LOCK_lock : Loc := ⟨GLB_LOCK, 0, 24⟩
def GLB_SCRATCH : Nat := 0x0000024
def GLB_SCRATCH_value : Loc := ⟨GLB_SCRATCH, 0, 32⟩
def GLB_CLIENT : Nat := 0x0000028
def GLB_CLIENT_client : Loc := ⟨GLB_CLIENT, 0, 4⟩
def GLB_CLIENT_vf_view : Loc := ⟨GLB_CLIENT, 4, 1⟩
def GLB_CLIENT_link_b : Loc := ⟨GLB_CLIENT, 5, 1⟩
def CMD_SQ_BASE (i : Nat) : Nat := 0x0100000 + 64 * i
def CMD_SQ_BASE_loc (i : Nat) : Loc := ⟨CMD_SQ_BASE i, 0, 1⟩
def CMD_SQ_BASE_base (i : Nat) : Loc := ⟨CMD_SQ_BASE i, 12, 52⟩
def CMD_SQ_CFG (i : Nat) : Nat := 0x0100008 + 64 * i
def CMD_SQ_CFG_enable (i : Nat) : Loc := ⟨CMD_SQ_CFG i, 0, 1⟩
def CMD_SQ_CFG_halted (i : Nat) : Loc := ⟨CMD_SQ_CFG i, 1, 1⟩
def CMD_SQ_CFG_log2size (i : Nat) : Loc := ⟨CMD_SQ_CFG i, 8, 4⟩
def CMD_SQ_HEAD (i : Nat) : Nat := 0x010000C + 64 * i
def CMD_SQ_HEAD_head (i : Nat) : Loc := ⟨CMD_SQ_HEAD i, 0, 16⟩
def CMD_SQ_HEAD_inflight (i : Nat) : Loc := ⟨CMD_SQ_HEAD i, 16, 16⟩
def CMD_CQ_BASE (i : Nat) : Nat := 0x0100010 + 64 * i
def CMD_CQ_BASE_loc (i : Nat) : Loc := ⟨CMD_CQ_BASE i, 0, 1⟩
def CMD_CQ_BASE_base (i : Nat) : Loc := ⟨CMD_CQ_BASE i, 12, 52⟩
def CMD_CQ_CFG (i : Nat) : Nat := 0x0100018 + 64 * i
def CMD_CQ_CFG_enable (i : Nat) : Loc := ⟨CMD_CQ_CFG i, 0, 1⟩
def CMD_CQ_CFG_closing (i : Nat) : Loc := ⟨CMD_CQ_CFG i, 1, 1⟩
def CMD_CQ_CFG_halted (i : Nat) : Loc := ⟨CMD_CQ_CFG i, 2, 1⟩
def CMD_CQ_CFG_log2size (i : Nat) : Loc := ⟨CMD_CQ_CFG i, 8, 4⟩
def CMD_CQ_CFG_vector (i : Nat) : Loc := ⟨CMD_CQ_CFG i, 16, 6⟩
def CMD_CQ_CFG_holdoff (i : Nat) : Loc := ⟨CMD_CQ_CFG i, 24, 8⟩
def CMD_CQ_STATE (i : Nat) : Nat := 0x010001C + 64 * i
def CMD_CQ_STATE_tail (i : Nat) : Loc := ⟨CMD_CQ_STATE i, 0, 16⟩
def CMD_CQ_STATE_reserved (i : Nat) : Loc := ⟨CMD_CQ_STATE i, 16, 16⟩
def CMD_CQ_WB (i : Nat) : Nat := 0x0100020 + 64 * i
def CMD_CQ_WB_addr (i : Nat) : Loc := ⟨CMD_CQ_WB i, 0, 64⟩
def CMD_CQ_HEAD (i : Nat) : Nat := 0x0100028 + 64 * i
def CMD_CQ_HEAD_head (i : Nat) : Loc := ⟨CMD_CQ_HEAD i, 0, 16⟩
def CMD_EVQ_BASE (i : Nat) : Nat := 0x0108000 + 64 * i
def CMD_EVQ_BASE_loc (i : Nat) : Loc := ⟨CMD_EVQ_BASE i, 0, 1⟩
def CMD_EVQ_BASE_base (i : Nat) : Loc := ⟨CMD_EVQ_BASE i, 12, 52⟩
def CMD_EVQ_CFG (i : Nat) : Nat := 0x0108008 + 64 * i
def CMD_EVQ_CFG_enable (i : Nat) : Loc := ⟨CMD_EVQ_CFG i, 0, 1⟩
def CMD_EVQ_CFG_halted (i : Nat) : Loc := ⟨CMD_EVQ_CFG i, 1, 1⟩
def CMD_EVQ_CFG_log2size (i : Nat) : Loc := ⟨CMD_EVQ_CFG i, 8, 4⟩
def CMD_EVQ_CFG_owner (i : Nat) : Loc := ⟨CMD_EVQ_CFG i, 12, 4⟩
def CMD_EVQ_CFG_vector (i : Nat) : Loc := ⟨CMD_EVQ_CFG i, 16, 6⟩
def CMD_EVQ_CFG_holdoff (i : Nat) : Loc := ⟨CMD_EVQ_CFG i, 24, 8⟩
def CMD_EVQ_MASK (i : Nat) : Nat := 0x010800C + 64 * i
def CMD_EVQ_MASK_ranges (i : Nat) : Loc := ⟨CMD_EVQ_MASK i, 1, 14⟩
def CMD_EVQ_STATE (i : Nat) : Nat := 0x0108010 + 64 * i
def CMD_EVQ_STATE_tail (i : Nat) : Loc := ⟨CMD_EVQ_STATE i, 0, 16⟩
def CMD_EVQ_STATE_lost (i : Nat) : Loc := ⟨CMD_EVQ_STATE i, 16, 16⟩
def CMD_EVQ_WB (i : Nat) : Nat := 0x0108018 + 64 * i
def CMD_EVQ_WB_addr (i : Nat) : Loc := ⟨CMD_EVQ_WB i, 0, 64⟩
def PWC_STATUS : Nat := 0x0200000
def PWC_STATUS_state : Loc := ⟨PWC_STATUS, 0, 2⟩
def PWC_STATUS_tier : Loc := ⟨PWC_STATUS, 2, 2⟩
def PWC_STATUS_gov_level : Loc := ⟨PWC_STATUS, 4, 3⟩
def PWC_STATUS_limiting : Loc := ⟨PWC_STATUS, 7, 1⟩
def PWC_STATUS_shed : Loc := ⟨PWC_STATUS, 8, 4⟩
def PWC_VIN : Nat := 0x0200004
def PWC_VIN_vin : Loc := ⟨PWC_VIN, 0, 16⟩
def PWC_VIN_pin : Loc := ⟨PWC_VIN, 16, 16⟩
def PWC_CFG : Nat := 0x0200008
def PWC_CFG_plimit : Loc := ⟨PWC_CFG, 0, 10⟩
def PWC_CFG_vin_fail : Loc := ⟨PWC_CFG, 16, 8⟩
def PWC_IDLE_CFG : Nat := 0x020000C
def PWC_IDLE_CFG_bent_idle : Loc := ⟨PWC_IDLE_CFG, 0, 10⟩
def PWC_IDLE_CFG_cbk_idle : Loc := ⟨PWC_IDLE_CFG, 10, 10⟩
def PWC_PFAIL : Nat := 0x0200010
def PWC_PFAIL_occurred : Loc := ⟨PWC_PFAIL, 0, 1⟩
def PWC_PFAIL_recovered : Loc := ⟨PWC_PFAIL, 1, 1⟩
def PWC_PFAIL_committed : Loc := ⟨PWC_PFAIL, 2, 1⟩
def PWC_PFAIL_held_us : Loc := ⟨PWC_PFAIL, 16, 16⟩
def PWC_DOMAIN (i : Nat) : Nat := 0x0200100 + 4 * i
def PWC_DOMAIN_depth (i : Nat) : Loc := ⟨PWC_DOMAIN i, 0, 2⟩
def PWC_DOMAIN_wakes (i : Nat) : Loc := ⟨PWC_DOMAIN i, 16, 16⟩
def PWC_CLK (i : Nat) : Nat := 0x0200200 + 4 * i
def PWC_CLK_mhz (i : Nat) : Loc := ⟨PWC_CLK i, 0, 16⟩
def PWC_CLK_running (i : Nat) : Loc := ⟨PWC_CLK i, 16, 1⟩
def PWC_CLK_level (i : Nat) : Loc := ⟨PWC_CLK i, 17, 3⟩
def THM_CFG : Nat := 0x0300000
def THM_CFG_mode : Loc := ⟨THM_CFG, 0, 1⟩
def THM_CFG_dwell_n : Loc := ⟨THM_CFG, 4, 4⟩
def THM_CFG_step_ms : Loc := ⟨THM_CFG, 8, 8⟩
def THM_CFG_max_ms : Loc := ⟨THM_CFG, 16, 6⟩
def THM_CFG_min_ms : Loc := ⟨THM_CFG, 24, 4⟩
def THM_CFG_dwell_10ms : Loc := ⟨THM_CFG, 28, 4⟩
def THM_SHUT_CAUSE : Nat := 0x0300010
def THM_SHUT_CAUSE_sensor : Loc := ⟨THM_SHUT_CAUSE, 0, 7⟩
def THM_SHUT_CAUSE_valid : Loc := ⟨THM_SHUT_CAUSE, 7, 1⟩
def THM_SHUT_CAUSE_nvm_wait : Loc := ⟨THM_SHUT_CAUSE, 8, 1⟩
def THM_SHUT_CAUSE_late_cut : Loc := ⟨THM_SHUT_CAUSE, 9, 1⟩
def THM_SHUT_CAUSE_erase_suspended : Loc := ⟨THM_SHUT_CAUSE, 10, 1⟩
def THM_CNT (i : Nat) : Nat := 0x0300040 + 4 * i
def THM_CNT_count (i : Nat) : Loc := ⟨THM_CNT i, 0, 32⟩
def THM_ZONE (i : Nat) : Nat := 0x0300400 + 4 * i
def THM_ZONE_level (i : Nat) : Loc := ⟨THM_ZONE i, 0, 3⟩
def THM_ZONE_floor (i : Nat) : Loc := ⟨THM_ZONE i, 3, 3⟩
def THM_ZONE_crit (i : Nat) : Loc := ⟨THM_ZONE i, 6, 1⟩
def THM_ZONE_surge_hold (i : Nat) : Loc := ⟨THM_ZONE i, 7, 1⟩
def THM_ZONE_worst (i : Nat) : Loc := ⟨THM_ZONE i, 8, 8⟩
def THM_TEMP (i : Nat) : Nat := 0x0301000 + 4 * i
def THM_TEMP_temp (i : Nat) : Loc := ⟨THM_TEMP i, 0, 16⟩
def THM_TEMP_state (i : Nat) : Loc := ⟨THM_TEMP i, 16, 2⟩
def THM_TEMP_valid (i : Nat) : Loc := ⟨THM_TEMP i, 18, 1⟩
def THM_TEMP_base_only (i : Nat) : Loc := ⟨THM_TEMP i, 19, 1⟩
def THM_TEMP_age (i : Nat) : Loc := ⟨THM_TEMP i, 20, 12⟩
def THM_THRESH (i : Nat) : Nat := 0x0302000 + 8 * i
def THM_THRESH_warn (i : Nat) : Loc := ⟨THM_THRESH i, 0, 8⟩
def THM_THRESH_hot (i : Nat) : Loc := ⟨THM_THRESH i, 8, 8⟩
def THM_THRESH_crit (i : Nat) : Loc := ⟨THM_THRESH i, 16, 8⟩
def THM_THRESH_shut (i : Nat) : Loc := ⟨THM_THRESH i, 24, 8⟩
def THM_THRESH_hyst (i : Nat) : Loc := ⟨THM_THRESH i, 32, 4⟩
def THM_THRESH_rise (i : Nat) : Loc := ⟨THM_THRESH i, 40, 8⟩
def CAL_CFG : Nat := 0x0400000
def CAL_CFG_auto_a : Loc := ⟨CAL_CFG, 0, 1⟩
def CAL_CFG_auto_dram : Loc := ⟨CAL_CFG, 1, 1⟩
def CAL_CFG_min_commit : Loc := ⟨CAL_CFG, 8, 8⟩
def CAL_CFG_slew : Loc := ⟨CAL_CFG, 16, 8⟩
def CAL_CFG_xtal_slew : Loc := ⟨CAL_CFG, 24, 8⟩
def CAL_TRUE_CFG : Nat := 0x0400008
def CAL_TRUE_CFG_interval : Loc := ⟨CAL_TRUE_CFG, 0, 8⟩
def CAL_TRUE_CFG_retire_days : Loc := ⟨CAL_TRUE_CFG, 8, 8⟩
def CAL_TRUE_CFG_warn_days : Loc := ⟨CAL_TRUE_CFG, 16, 8⟩
def CAL_TRUE_CFG_guard : Loc := ⟨CAL_TRUE_CFG, 24, 4⟩
def CAL_TRUE_STATUS : Nat := 0x040000C
def CAL_TRUE_STATUS_running : Loc := ⟨CAL_TRUE_STATUS, 0, 1⟩
def CAL_TRUE_STATUS_bent : Loc := ⟨CAL_TRUE_STATUS, 1, 3⟩
def CAL_TRUE_STATUS_waiting : Loc := ⟨CAL_TRUE_STATUS, 4, 1⟩
def CAL_TRUE_STATUS_done : Loc := ⟨CAL_TRUE_STATUS, 8, 8⟩
def CAL_CNT (i : Nat) : Nat := 0x0400040 + 4 * i
def CAL_CNT_count (i : Nat) : Loc := ⟨CAL_CNT i, 0, 32⟩
def CAL_BENT_PLAN (i : Nat) : Nat := 0x0400100 + 16 * i
def CAL_BENT_PLAN_offset (i : Nat) : Loc := ⟨CAL_BENT_PLAN i, 0, 5⟩
def CAL_BENT_PLAN_ceiling (i : Nat) : Loc := ⟨CAL_BENT_PLAN i, 8, 6⟩
def CAL_BENT_PLAN_days_left (i : Nat) : Loc := ⟨CAL_BENT_PLAN i, 16, 12⟩
def CAL_BENT_PLAN_low (i : Nat) : Loc := ⟨CAL_BENT_PLAN i, 28, 1⟩
def CAL_BENT_AGE (i : Nat) : Nat := 0x0400104 + 16 * i
def CAL_BENT_AGE_delta (i : Nat) : Loc := ⟨CAL_BENT_AGE i, 0, 16⟩
def CAL_BENT_AGE_pair (i : Nat) : Loc := ⟨CAL_BENT_AGE i, 16, 2⟩
def CAL_TRUE_OUTCOME (i : Nat) : Nat := 0x0400108 + 16 * i
def CAL_TRUE_OUTCOME_outcome (i : Nat) : Loc := ⟨CAL_TRUE_OUTCOME i, 0, 3⟩
def CAL_ITEM_STATE (i : Nat) : Nat := 0x0401000 + 16 * i
def CAL_ITEM_STATE_dac (i : Nat) : Loc := ⟨CAL_ITEM_STATE i, 0, 14⟩
def CAL_ITEM_STATE_target (i : Nat) : Loc := ⟨CAL_ITEM_STATE i, 16, 14⟩
def CAL_ITEM_STATE_freeze (i : Nat) : Loc := ⟨CAL_ITEM_STATE i, 30, 1⟩
def CAL_ITEM_STATE_slewing (i : Nat) : Loc := ⟨CAL_ITEM_STATE i, 31, 1⟩
def CAL_ITEM_COUNT (i : Nat) : Nat := 0x0401004 + 16 * i
def CAL_ITEM_COUNT_count (i : Nat) : Loc := ⟨CAL_ITEM_COUNT i, 0, 32⟩
def CAL_ITEM_TIME (i : Nat) : Nat := 0x0401008 + 16 * i
def CAL_ITEM_TIME_time (i : Nat) : Loc := ⟨CAL_ITEM_TIME i, 0, 64⟩
def CAL_DRAM_FIG (i : Nat) : Nat := 0x0402000 + 8 * i
def CAL_DRAM_FIG_rwidth (i : Nat) : Loc := ⟨CAL_DRAM_FIG i, 0, 8⟩
def CAL_DRAM_FIG_rheight (i : Nat) : Loc := ⟨CAL_DRAM_FIG i, 8, 8⟩
def CAL_DRAM_FIG_wwidth (i : Nat) : Loc := ⟨CAL_DRAM_FIG i, 16, 8⟩
def CAL_DRAM_FIG_wheight (i : Nat) : Loc := ⟨CAL_DRAM_FIG i, 24, 8⟩
def CAL_DRAM_FIG_residual (i : Nat) : Loc := ⟨CAL_DRAM_FIG i, 32, 16⟩
def CAL_DRAM_FIG_age (i : Nat) : Loc := ⟨CAL_DRAM_FIG i, 48, 12⟩
def CAL_DRAM_FIG_valid (i : Nat) : Loc := ⟨CAL_DRAM_FIG i, 60, 1⟩
def SPL_STATUS : Nat := 0x0500000
def SPL_STATUS_ready : Loc := ⟨SPL_STATUS, 0, 1⟩
def SPL_STATUS_read_only : Loc := ⟨SPL_STATUS, 1, 1⟩
def SPL_STATUS_interrupted : Loc := ⟨SPL_STATUS, 2, 1⟩
def SPL_STATUS_erase_redone : Loc := ⟨SPL_STATUS, 3, 1⟩
def SPL_STATUS_first_use : Loc := ⟨SPL_STATUS, 4, 1⟩
def SPL_STATUS_factory_bad : Loc := ⟨SPL_STATUS, 5, 1⟩
def SPL_STATUS_free : Loc := ⟨SPL_STATUS, 8, 10⟩
def SPL_STATUS_retired : Loc := ⟨SPL_STATUS, 18, 10⟩
def SPL_SEQ : Nat := 0x0500008
def SPL_SEQ_seq : Loc := ⟨SPL_SEQ, 0, 64⟩
def SPL_WEAR : Nat := 0x0500010
def SPL_WEAR_max : Loc := ⟨SPL_WEAR, 0, 17⟩
def SPL_WEAR_MIN : Nat := 0x0500014
def SPL_WEAR_MIN_min : Loc := ⟨SPL_WEAR_MIN, 0, 17⟩
def SPL_LAST_BAD : Nat := 0x0500018
def SPL_LAST_BAD_kind : Loc := ⟨SPL_LAST_BAD, 0, 8⟩
def SPL_LAST_BAD_key : Loc := ⟨SPL_LAST_BAD, 8, 16⟩
def SPL_CNT (i : Nat) : Nat := 0x0500040 + 4 * i
def SPL_CNT_count (i : Nat) : Loc := ⟨SPL_CNT i, 0, 32⟩
def SPL_FW_STATUS : Nat := 0x0500100
def SPL_FW_STATUS_active : Loc := ⟨SPL_FW_STATUS, 0, 1⟩
def SPL_FW_STATUS_trial : Loc := ⟨SPL_FW_STATUS, 1, 1⟩
def SPL_FW_STATUS_verified : Loc := ⟨SPL_FW_STATUS, 2, 1⟩
def SPL_FW_STATUS_fallback : Loc := ⟨SPL_FW_STATUS, 3, 1⟩
def SPL_FW_STATUS_fuse : Loc := ⟨SPL_FW_STATUS, 16, 16⟩
def SPL_FW_VER (i : Nat) : Nat := 0x0500108 + 8 * i
def SPL_FW_VER_version (i : Nat) : Loc := ⟨SPL_FW_VER i, 0, 64⟩
def SCN_VIEW_CTRL : Nat := 0x0600F00
def SCN_VIEW_CTRL_group : Loc := ⟨SCN_VIEW_CTRL, 0, 4⟩
def SCN_VIEW_CTRL_corr_enable : Loc := ⟨SCN_VIEW_CTRL, 8, 1⟩
def SCN_VIEW_CTRL_sw_table : Loc := ⟨SCN_VIEW_CTRL, 16, 1⟩
def SCN_VCF_BASE : Nat := 0x0600F08
def SCN_VCF_BASE_base : Loc := ⟨SCN_VCF_BASE, 0, 24⟩
def SCN_VIEW_SLOPE (i : Nat) : Nat := 0x0601000 + 8 * i
def SCN_VIEW_SLOPE_su (i : Nat) : Loc := ⟨SCN_VIEW_SLOPE i, 0, 17⟩
def SCN_VIEW_SLOPE_sv (i : Nat) : Loc := ⟨SCN_VIEW_SLOPE i, 32, 17⟩
def SCN_LAYER_CFG (i : Nat) : Nat := 0x0602000 + 64 * i
def SCN_LAYER_CFG_enable (i : Nat) : Loc := ⟨SCN_LAYER_CFG i, 0, 1⟩
def SCN_LAYER_CFG_kind (i : Nat) : Loc := ⟨SCN_LAYER_CFG i, 1, 1⟩
def SCN_LAYER_CFG_premul (i : Nat) : Loc := ⟨SCN_LAYER_CFG i, 2, 1⟩
def SCN_LAYER_CFG_limited (i : Nat) : Loc := ⟨SCN_LAYER_CFG i, 3, 1⟩
def SCN_LAYER_CFG_format (i : Nat) : Loc := ⟨SCN_LAYER_CFG i, 4, 4⟩
def SCN_LAYER_CFG_group (i : Nat) : Loc := ⟨SCN_LAYER_CFG i, 8, 4⟩
def SCN_LAYER_CFG_preset (i : Nat) : Loc := ⟨SCN_LAYER_CFG i, 12, 2⟩
def SCN_LAYER_CFG_priority (i : Nat) : Loc := ⟨SCN_LAYER_CFG i, 16, 6⟩
def SCN_LAYER_CFG_dh (i : Nat) : Loc := ⟨SCN_LAYER_CFG i, 24, 4⟩
def SCN_LAYER_CFG_dv (i : Nat) : Loc := ⟨SCN_LAYER_CFG i, 28, 4⟩
def SCN_LAYER_SRC (i : Nat) : Nat := 0x0602004 + 64 * i
def SCN_LAYER_SRC_width (i : Nat) : Loc := ⟨SCN_LAYER_SRC i, 0, 16⟩
def SCN_LAYER_SRC_height (i : Nat) : Loc := ⟨SCN_LAYER_SRC i, 16, 16⟩
def SCN_LAYER_DST (i : Nat) : Nat := 0x0602008 + 64 * i
def SCN_LAYER_DST_width_m1 (i : Nat) : Loc := ⟨SCN_LAYER_DST i, 0, 15⟩
def SCN_LAYER_DST_height_m1 (i : Nat) : Loc := ⟨SCN_LAYER_DST i, 16, 15⟩
def SCN_LAYER_POS (i : Nat) : Nat := 0x060200C + 64 * i
def SCN_LAYER_POS_x0 (i : Nat) : Loc := ⟨SCN_LAYER_POS i, 0, 16⟩
def SCN_LAYER_POS_y0 (i : Nat) : Loc := ⟨SCN_LAYER_POS i, 16, 16⟩
def SCN_LAYER_ZA (i : Nat) : Nat := 0x0602010 + 64 * i
def SCN_LAYER_ZA_a (i : Nat) : Loc := ⟨SCN_LAYER_ZA i, 0, 24⟩
def SCN_LAYER_ZB (i : Nat) : Nat := 0x0602014 + 64 * i
def SCN_LAYER_ZB_b (i : Nat) : Loc := ⟨SCN_LAYER_ZB i, 0, 22⟩
def SCN_LAYER_ZC (i : Nat) : Nat := 0x0602018 + 64 * i
def SCN_LAYER_ZC_c (i : Nat) : Loc := ⟨SCN_LAYER_ZC i, 0, 22⟩
def SCN_LAYER_ZK (i : Nat) : Nat := 0x060201C + 64 * i
def SCN_LAYER_ZK_k (i : Nat) : Loc := ⟨SCN_LAYER_ZK i, 0, 20⟩
def SCN_LAYER_BASE (i : Nat) : Nat := 0x0602020 + 64 * i
def SCN_LAYER_BASE_base (i : Nat) : Loc := ⟨SCN_LAYER_BASE i, 0, 30⟩
def SCN_LAYER_PITCH (i : Nat) : Nat := 0x0602024 + 64 * i
def SCN_LAYER_PITCH_pitch (i : Nat) : Loc := ⟨SCN_LAYER_PITCH i, 0, 16⟩
def SCN_LAYER_KEYMIN (i : Nat) : Nat := 0x0602028 + 64 * i
def SCN_LAYER_KEYMIN_k0 (i : Nat) : Loc := ⟨SCN_LAYER_KEYMIN i, 0, 16⟩
def SCN_LAYER_KEYMIN_k1 (i : Nat) : Loc := ⟨SCN_LAYER_KEYMIN i, 16, 16⟩
def SCN_LAYER_KEYMIN_k2 (i : Nat) : Loc := ⟨SCN_LAYER_KEYMIN i, 32, 16⟩
def SCN_LAYER_KEYMIN_k3 (i : Nat) : Loc := ⟨SCN_LAYER_KEYMIN i, 48, 16⟩
def SCN_LAYER_KEYMAX (i : Nat) : Nat := 0x0602030 + 64 * i
def SCN_LAYER_KEYMAX_k0 (i : Nat) : Loc := ⟨SCN_LAYER_KEYMAX i, 0, 16⟩
def SCN_LAYER_KEYMAX_k1 (i : Nat) : Loc := ⟨SCN_LAYER_KEYMAX i, 16, 16⟩
def SCN_LAYER_KEYMAX_k2 (i : Nat) : Loc := ⟨SCN_LAYER_KEYMAX i, 32, 16⟩
def SCN_LAYER_KEYMAX_k3 (i : Nat) : Loc := ⟨SCN_LAYER_KEYMAX i, 48, 16⟩
def SCN_LAYER_COLOUR (i : Nat) : Nat := 0x0602038 + 64 * i
def SCN_LAYER_COLOUR_r (i : Nat) : Loc := ⟨SCN_LAYER_COLOUR i, 0, 16⟩
def SCN_LAYER_COLOUR_g (i : Nat) : Loc := ⟨SCN_LAYER_COLOUR i, 16, 16⟩
def SCN_LAYER_STATUS (i : Nat) : Nat := 0x060203C + 64 * i
def SCN_LAYER_STATUS_active (i : Nat) : Loc := ⟨SCN_LAYER_STATUS i, 0, 1⟩
def SCN_LAYER_STATUS_late (i : Nat) : Loc := ⟨SCN_LAYER_STATUS i, 1, 1⟩
def SCN_LAYER_STATUS_dropped (i : Nat) : Loc := ⟨SCN_LAYER_STATUS i, 2, 1⟩
def SCN_LAYER_STATUS_owner (i : Nat) : Loc := ⟨SCN_LAYER_STATUS i, 8, 4⟩
def SCN_LAYER_STATUS_owned (i : Nat) : Loc := ⟨SCN_LAYER_STATUS i, 12, 1⟩
def SCN_LAYER_STATUS_drop_regions (i : Nat) : Loc := ⟨SCN_LAYER_STATUS i, 16, 16⟩
def SCN_LAYER_MATRIX (i : Nat) (j : Nat) : Nat := 0x0603000 + 32 * i + 4 * j
def SCN_LAYER_MATRIX_lo (i : Nat) (j : Nat) : Loc := ⟨SCN_LAYER_MATRIX i j, 0, 16⟩
def SCN_LAYER_MATRIX_hi (i : Nat) (j : Nat) : Loc := ⟨SCN_LAYER_MATRIX i j, 16, 16⟩
def SCN_LAYER_MATRIX8 (i : Nat) : Nat := 0x0603010 + 32 * i
def SCN_LAYER_MATRIX8_m8 (i : Nat) : Loc := ⟨SCN_LAYER_MATRIX8 i, 0, 16⟩
def SCN_LAYER_COLOUR_B (i : Nat) : Nat := 0x0604000 + 4 * i
def SCN_LAYER_COLOUR_B_b (i : Nat) : Loc := ⟨SCN_LAYER_COLOUR_B i, 0, 16⟩
def SCN_LAYER_COLOUR_B_key_enable (i : Nat) : Loc := ⟨SCN_LAYER_COLOUR_B i, 16, 4⟩
def SCN_LAYER_STEP (i : Nat) : Nat := 0x0604100 + 8 * i
def SCN_LAYER_STEP_step_x (i : Nat) : Loc := ⟨SCN_LAYER_STEP i, 0, 17⟩
def SCN_LAYER_STEP_step_y (i : Nat) : Loc := ⟨SCN_LAYER_STEP i, 32, 17⟩
def SCN_PALETTE (i : Nat) (j : Nat) : Nat := 0x0608000 + 1024 * i + 4 * j
def SCN_PALETTE_entry (i : Nat) (j : Nat) : Loc := ⟨SCN_PALETTE i j, 0, 32⟩
def SCN_TRS_CFG : Nat := 0x0610000
def SCN_TRS_CFG_enable : Loc := ⟨SCN_TRS_CFG, 0, 1⟩
def SCN_TRS_CFG_loss_wait : Loc := ⟨SCN_TRS_CFG, 8, 8⟩
def SCN_TRS_CFG_udp_port : Loc := ⟨SCN_TRS_CFG, 16, 16⟩
def SCN_TRS_HORIZON : Nat := 0x0610004
def SCN_TRS_HORIZON_ms : Loc := ⟨SCN_TRS_HORIZON, 0, 16⟩
def SCN_TRS_HOLD_BASE : Nat := 0x0610008
def SCN_TRS_HOLD_BASE_base : Loc := ⟨SCN_TRS_HOLD_BASE, 0, 24⟩
def SCN_TRS_HOLD_SIZE : Nat := 0x061000C
def SCN_TRS_HOLD_SIZE_mib : Loc := ⟨SCN_TRS_HOLD_SIZE, 0, 11⟩
def SCN_TRS_UNKNOWN (i : Nat) : Nat := 0x0610040 + 4 * i
def SCN_TRS_UNKNOWN_count (i : Nat) : Loc := ⟨SCN_TRS_UNKNOWN i, 0, 32⟩
def SCN_TRS_STREAM (i : Nat) : Nat := 0x0610100 + 16 * i
def SCN_TRS_STREAM_stream_id (i : Nat) : Loc := ⟨SCN_TRS_STREAM i, 0, 16⟩
def SCN_TRS_STREAM_layer (i : Nat) : Loc := ⟨SCN_TRS_STREAM i, 16, 6⟩
def SCN_TRS_STREAM_no_layer (i : Nat) : Loc := ⟨SCN_TRS_STREAM i, 22, 1⟩
def SCN_TRS_STREAM_enable (i : Nat) : Loc := ⟨SCN_TRS_STREAM i, 23, 1⟩
def SCN_TRS_STREAM_group (i : Nat) : Loc := ⟨SCN_TRS_STREAM i, 24, 4⟩
def SCN_TRS_STREAM_owner (i : Nat) : Loc := ⟨SCN_TRS_STREAM i, 28, 4⟩
def SCN_TRS_ALTBASE (i : Nat) : Nat := 0x0610104 + 16 * i
def SCN_TRS_ALTBASE_base (i : Nat) : Loc := ⟨SCN_TRS_ALTBASE i, 0, 30⟩
def SCN_TRS_CNT (i : Nat) (j : Nat) : Nat := 0x0611000 + 64 * i + 4 * j
def SCN_TRS_CNT_count (i : Nat) (j : Nat) : Loc := ⟨SCN_TRS_CNT i j, 0, 32⟩
def DEC_POOL_BASE : Nat := 0x0700000
def DEC_POOL_BASE_base : Loc := ⟨DEC_POOL_BASE, 0, 24⟩
def DEC_POOL_SIZE : Nat := 0x0700004
def DEC_POOL_SIZE_mib : Loc := ⟨DEC_POOL_SIZE, 0, 14⟩
def DEC_POOL_FREE : Nat := 0x0700008
def DEC_POOL_FREE_pages : Loc := ⟨DEC_POOL_FREE, 0, 24⟩
def DEC_PIPE_LOAD (i : Nat) : Nat := 0x0700100 + 4 * i
def DEC_PIPE_LOAD_load (i : Nat) : Loc := ⟨DEC_PIPE_LOAD i, 0, 17⟩
def DEC_PIPE_LOAD_streams (i : Nat) : Loc := ⟨DEC_PIPE_LOAD i, 17, 7⟩
def DEC_PIPE_LOAD_late (i : Nat) : Loc := ⟨DEC_PIPE_LOAD i, 24, 8⟩
def DEC_LAYER_CFG (i : Nat) : Nat := 0x0700200 + 8 * i
def DEC_LAYER_CFG_pipe (i : Nat) : Loc := ⟨DEC_LAYER_CFG i, 0, 4⟩
def DEC_LAYER_CFG_depth_pipe (i : Nat) : Loc := ⟨DEC_LAYER_CFG i, 4, 4⟩
def DEC_LAYER_CFG_assigned (i : Nat) : Loc := ⟨DEC_LAYER_CFG i, 8, 1⟩
def DEC_LAYER_CFG_depth_assigned (i : Nat) : Loc := ⟨DEC_LAYER_CFG i, 9, 1⟩
def DEC_LAYER_CFG_codec (i : Nat) : Loc := ⟨DEC_LAYER_CFG i, 10, 1⟩
def DEC_LAYER_CFG_conceal (i : Nat) : Loc := ⟨DEC_LAYER_CFG i, 11, 1⟩
def DEC_LAYER_CFG_rate (i : Nat) : Loc := ⟨DEC_LAYER_CFG i, 16, 16⟩
def DEC_LAYER_STAT (i : Nat) : Nat := 0x0700300 + 8 * i
def DEC_LAYER_STAT_pictures (i : Nat) : Loc := ⟨DEC_LAYER_STAT i, 0, 32⟩
def DEC_LAYER_STAT_concealed (i : Nat) : Loc := ⟨DEC_LAYER_STAT i, 32, 32⟩
def ENG_SYN_CFG (i : Nat) : Nat := 0x0800000 + 65536 * i
def ENG_SYN_CFG_launch_margin (i : Nat) : Loc := ⟨ENG_SYN_CFG i, 0, 10⟩
def ENG_SYN_CFG_store_forward (i : Nat) : Loc := ⟨ENG_SYN_CFG i, 16, 1⟩
def ENG_BENT_STATUS (i : Nat) : Nat := 0x0800008 + 65536 * i
def ENG_BENT_STATUS_state (i : Nat) : Loc := ⟨ENG_BENT_STATUS i, 0, 3⟩
def ENG_BENT_STATUS_cause (i : Nat) : Loc := ⟨ENG_BENT_STATUS i, 4, 4⟩
def ENG_BENT_STATUS_bays (i : Nat) : Loc := ⟨ENG_BENT_STATUS i, 8, 8⟩
def ENG_BENT_STATUS_spares (i : Nat) : Loc := ⟨ENG_BENT_STATUS i, 16, 8⟩
def ENG_BAY_STATE (i : Nat) (j : Nat) : Nat := 0x0800100 + 65536 * i + 4 * j
def ENG_BAY_STATE_region (i : Nat) (j : Nat) : Loc := ⟨ENG_BAY_STATE i j, 0, 16⟩
def ENG_BAY_STATE_phase (i : Nat) (j : Nat) : Loc := ⟨ENG_BAY_STATE i j, 16, 2⟩
def ENG_BAY_STATE_filling (i : Nat) (j : Nat) : Loc := ⟨ENG_BAY_STATE i j, 18, 1⟩
def ENG_BAY_STATE_cpr2 (i : Nat) (j : Nat) : Loc := ⟨ENG_BAY_STATE i j, 19, 1⟩
def ENG_BAY_STATE_buffer (i : Nat) (j : Nat) : Loc := ⟨ENG_BAY_STATE i j, 20, 12⟩
def ENG_BAY_STAT (i : Nat) (j : Nat) (k : Nat) : Nat := 0x0800200 + 65536 * i + 32 * j + 4 * k
def ENG_BAY_STAT_count (i : Nat) (j : Nat) (k : Nat) : Loc := ⟨ENG_BAY_STAT i j k, 0, 32⟩
def ENG_BAY_MAP (i : Nat) (j : Nat) : Nat := 0x0800400 + 65536 * i + 4 * j
def ENG_BAY_MAP_failed (i : Nat) (j : Nat) : Loc := ⟨ENG_BAY_MAP i j, 0, 9⟩
def ENG_BAY_MAP_slot (i : Nat) (j : Nat) : Loc := ⟨ENG_BAY_MAP i j, 9, 3⟩
def ENG_BAY_MAP_sistered (i : Nat) (j : Nat) : Loc := ⟨ENG_BAY_MAP i j, 12, 1⟩
def ENG_BAY_MAP_spare_ok (i : Nat) (j : Nat) : Loc := ⟨ENG_BAY_MAP i j, 13, 1⟩
def ENG_BAY_MAP_in_service (i : Nat) (j : Nat) : Loc := ⟨ENG_BAY_MAP i j, 14, 1⟩
def ENG_BAY_MAP_retired (i : Nat) (j : Nat) : Loc := ⟨ENG_BAY_MAP i j, 15, 1⟩
def ENG_PLACE_CFG : Nat := 0x0880000
def ENG_PLACE_CFG_awake_min : Loc := ⟨ENG_PLACE_CFG, 0, 4⟩
def ENG_PLACE_CFG_bays : Loc := ⟨ENG_PLACE_CFG, 16, 7⟩
def ENG_CNT (i : Nat) : Nat := 0x0880040 + 4 * i
def ENG_CNT_count (i : Nat) : Loc := ⟨ENG_CNT i, 0, 32⟩
def GLU_CFG : Nat := 0x0900000
def GLU_CFG_dither : Loc := ⟨GLU_CFG, 0, 2⟩
def GLU_CFG_group : Loc := ⟨GLU_CFG, 4, 4⟩
def GLU_BG (i : Nat) : Nat := 0x0900010 + 8 * i
def GLU_BG_r (i : Nat) : Loc := ⟨GLU_BG i, 0, 16⟩
def GLU_BG_g (i : Nat) : Loc := ⟨GLU_BG i, 16, 16⟩
def GLU_BG_b (i : Nat) : Loc := ⟨GLU_BG i, 32, 16⟩
def GLU_BG_WORD (i : Nat) : Nat := 0x0900030 + 8 * i
def GLU_BG_WORD_word (i : Nat) : Loc := ⟨GLU_BG_WORD i, 0, 36⟩
def GLU_SQC_TABLE_BASE : Nat := 0x0900100
def GLU_SQC_TABLE_BASE_base : Loc := ⟨GLU_SQC_TABLE_BASE, 0, 24⟩
def GLU_SQC_LAST_EXPECT : Nat := 0x0900110
def GLU_SQC_LAST_EXPECT_sig : Loc := ⟨GLU_SQC_LAST_EXPECT, 0, 32⟩
def GLU_SQC_LAST_GOT : Nat := 0x0900114
def GLU_SQC_LAST_GOT_sig : Loc := ⟨GLU_SQC_LAST_GOT, 0, 32⟩
def GLU_SQC_LAST_WHERE : Nat := 0x0900118
def GLU_SQC_LAST_WHERE_region : Loc := ⟨GLU_SQC_LAST_WHERE, 0, 16⟩
def GLU_SQC_LAST_WHERE_check : Loc := ⟨GLU_SQC_LAST_WHERE, 16, 8⟩
def GLU_SQC_LAST_WHERE_bay : Loc := ⟨GLU_SQC_LAST_WHERE, 24, 6⟩
def GLU_SQC_LAST_WHERE_second : Loc := ⟨GLU_SQC_LAST_WHERE, 30, 1⟩
def GLU_SQC_CTL (i : Nat) : Nat := 0x0901000 + 32 * i
def GLU_SQC_CTL_enable (i : Nat) : Loc := ⟨GLU_SQC_CTL i, 0, 1⟩
def GLU_SQC_CTL_copy (i : Nat) : Loc := ⟨GLU_SQC_CTL i, 1, 1⟩
def GLU_SQC_CTL_loading (i : Nat) : Loc := ⟨GLU_SQC_CTL i, 2, 1⟩
def GLU_SQC_CTL_group (i : Nat) : Loc := ⟨GLU_SQC_CTL i, 4, 4⟩
def GLU_SQC_CTL_owner (i : Nat) : Loc := ⟨GLU_SQC_CTL i, 8, 4⟩
def GLU_SQC_CTL_owned (i : Nat) : Loc := ⟨GLU_SQC_CTL i, 12, 1⟩
def GLU_SQC_CTL_substituted (i : Nat) : Loc := ⟨GLU_SQC_CTL i, 16, 16⟩
def GLU_SQC_ORG (i : Nat) : Nat := 0x0901004 + 32 * i
def GLU_SQC_ORG_gx0 (i : Nat) : Loc := ⟨GLU_SQC_ORG i, 0, 11⟩
def GLU_SQC_ORG_gy0 (i : Nat) : Loc := ⟨GLU_SQC_ORG i, 16, 11⟩
def GLU_SQC_SIZE (i : Nat) : Nat := 0x0901008 + 32 * i
def GLU_SQC_SIZE_gw (i : Nat) : Loc := ⟨GLU_SQC_SIZE i, 0, 12⟩
def GLU_SQC_SIZE_gh (i : Nat) : Loc := ⟨GLU_SQC_SIZE i, 16, 12⟩
def GLU_SQC_SAFE (i : Nat) : Nat := 0x0901010 + 32 * i
def GLU_SQC_SAFE_r (i : Nat) : Loc := ⟨GLU_SQC_SAFE i, 0, 16⟩
def GLU_SQC_SAFE_g (i : Nat) : Loc := ⟨GLU_SQC_SAFE i, 16, 16⟩
def GLU_SQC_SAFE_b (i : Nat) : Loc := ⟨GLU_SQC_SAFE i, 32, 16⟩
def GLU_SQC_SAFE_WORD (i : Nat) : Nat := 0x0901018 + 32 * i
def GLU_SQC_SAFE_WORD_word (i : Nat) : Loc := ⟨GLU_SQC_SAFE_WORD i, 0, 36⟩
def GLU_SQC_CNT (i : Nat) (j : Nat) : Nat := 0x0903000 + 64 * i + 4 * j
def GLU_SQC_CNT_count (i : Nat) (j : Nat) : Loc := ⟨GLU_SQC_CNT i j, 0, 32⟩
def CLP_GROUP_CFG (i : Nat) : Nat := 0x0A00000 + 32 * i
def CLP_GROUP_CFG_source (i : Nat) : Loc := ⟨CLP_GROUP_CFG i, 0, 2⟩
def CLP_GROUP_CFG_seg (i : Nat) : Loc := ⟨CLP_GROUP_CFG i, 2, 2⟩
def CLP_GROUP_CFG_wall (i : Nat) : Loc := ⟨CLP_GROUP_CFG i, 4, 1⟩
def CLP_GROUP_CFG_hold_limit (i : Nat) : Loc := ⟨CLP_GROUP_CFG i, 16, 16⟩
def CLP_GROUP_STATUS (i : Nat) : Nat := 0x0A00004 + 32 * i
def CLP_GROUP_STATUS_armed (i : Nat) : Loc := ⟨CLP_GROUP_STATUS i, 0, 1⟩
def CLP_GROUP_STATUS_holding (i : Nat) : Loc := ⟨CLP_GROUP_STATUS i, 1, 1⟩
def CLP_GROUP_STATUS_free_run (i : Nat) : Loc := ⟨CLP_GROUP_STATUS i, 2, 1⟩
def CLP_GROUP_STATUS_wall_held (i : Nat) : Loc := ⟨CLP_GROUP_STATUS i, 3, 1⟩
def CLP_GROUP_STATUS_alone (i : Nat) : Loc := ⟨CLP_GROUP_STATUS i, 4, 1⟩
def CLP_GROUP_STATUS_vcf (i : Nat) : Loc := ⟨CLP_GROUP_STATUS i, 5, 1⟩
def CLP_GROUP_STATUS_sqc (i : Nat) : Loc := ⟨CLP_GROUP_STATUS i, 6, 1⟩
def CLP_GROUP_STATUS_copy (i : Nat) : Loc := ⟨CLP_GROUP_STATUS i, 7, 1⟩
def CLP_GROUP_STATUS_holds (i : Nat) : Loc := ⟨CLP_GROUP_STATUS i, 16, 16⟩
def CLP_GROUP_FRAME (i : Nat) : Nat := 0x0A00008 + 32 * i
def CLP_GROUP_FRAME_frame (i : Nat) : Loc := ⟨CLP_GROUP_FRAME i, 0, 32⟩
def CLP_GROUP_TIME (i : Nat) : Nat := 0x0A00010 + 32 * i
def CLP_GROUP_TIME_time (i : Nat) : Loc := ⟨CLP_GROUP_TIME i, 0, 64⟩
def CLP_GROUP_LATE (i : Nat) : Nat := 0x0A00018 + 32 * i
def CLP_GROUP_LATE_layers (i : Nat) : Loc := ⟨CLP_GROUP_LATE i, 0, 64⟩
def CLP_GROUP_CNT (i : Nat) (j : Nat) : Nat := 0x0A00400 + 16 * i + 4 * j
def CLP_GROUP_CNT_count (i : Nat) (j : Nat) : Loc := ⟨CLP_GROUP_CNT i j, 0, 32⟩
def CLP_FENCE_CFG (i : Nat) : Nat := 0x0A00800 + 16 * i
def CLP_FENCE_CFG_fence_mode (i : Nat) : Loc := ⟨CLP_FENCE_CFG i, 0, 1⟩
def CLP_FENCE_CFG_seg (i : Nat) : Loc := ⟨CLP_FENCE_CFG i, 1, 2⟩
def CLP_FENCE_VALUE (i : Nat) : Nat := 0x0A00804 + 16 * i
def CLP_FENCE_VALUE_value (i : Nat) : Loc := ⟨CLP_FENCE_VALUE i, 0, 32⟩
def CLP_FENCE_WAIT (i : Nat) : Nat := 0x0A00808 + 16 * i
def CLP_FENCE_WAIT_value (i : Nat) : Loc := ⟨CLP_FENCE_WAIT i, 0, 32⟩
def CLP_FENCE_STATE (i : Nat) : Nat := 0x0A0080C + 16 * i
def CLP_FENCE_STATE_frames_left (i : Nat) : Loc := ⟨CLP_FENCE_STATE i, 0, 16⟩
def CLP_FENCE_STATE_armed (i : Nat) : Loc := ⟨CLP_FENCE_STATE i, 16, 1⟩
def CLP_FENCE_STATE_flip_anyway (i : Nat) : Loc := ⟨CLP_FENCE_STATE i, 17, 1⟩
def CLP_FENCE_STATE_staged (i : Nat) : Loc := ⟨CLP_FENCE_STATE i, 18, 1⟩
def CLP_FENCE_STATE_replaced (i : Nat) : Loc := ⟨CLP_FENCE_STATE i, 24, 8⟩
def CLP_WALL_LEAD : Nat := 0x0A00900
def CLP_WALL_LEAD_us : Loc := ⟨CLP_WALL_LEAD, 0, 10⟩
def DMG_REGION_GRID : Nat := 0x0B00000
def DMG_REGION_GRID_kx_div8 : Loc := ⟨DMG_REGION_GRID, 0, 6⟩
def DMG_REGION_GRID_ky_div8 : Loc := ⟨DMG_REGION_GRID, 8, 6⟩
def DMG_REGION_COUNT : Nat := 0x0B00004
def DMG_REGION_COUNT_gx : Loc := ⟨DMG_REGION_COUNT, 0, 12⟩
def DMG_REGION_COUNT_gy : Loc := ⟨DMG_REGION_COUNT, 16, 12⟩
def DMG_KERF_CFG : Nat := 0x0B00008
def DMG_KERF_CFG_vcf_floor : Loc := ⟨DMG_KERF_CFG, 0, 11⟩
def DMG_VCF_MAX : Nat := 0x0B0000C
def DMG_VCF_MAX_max : Loc := ⟨DMG_VCF_MAX, 0, 11⟩
def DMG_SMAX : Nat := 0x0B00010
def DMG_SMAX_s_max : Loc := ⟨DMG_SMAX, 0, 18⟩
def DMG_STATE_CNT (i : Nat) : Nat := 0x0B00020 + 4 * i
def DMG_STATE_CNT_count (i : Nat) : Loc := ⟨DMG_STATE_CNT i, 0, 17⟩
def DMG_CNT (i : Nat) : Nat := 0x0B00040 + 4 * i
def DMG_CNT_count (i : Nat) : Loc := ⟨DMG_CNT i, 0, 32⟩
def DMG_LAYER_KERF (i : Nat) : Nat := 0x0B00100 + 4 * i
def DMG_LAYER_KERF_kerf (i : Nat) : Loc := ⟨DMG_LAYER_KERF i, 0, 12⟩
def DMG_LAYER_KERF_zmax (i : Nat) : Loc := ⟨DMG_LAYER_KERF i, 16, 11⟩
def DMG_REGION_STATE (i : Nat) : Nat := 0x0B10000 + 4 * i
def DMG_REGION_STATE_state (i : Nat) : Loc := ⟨DMG_REGION_STATE i, 0, 3⟩
def DMG_REGION_STATE_coalesced (i : Nat) : Loc := ⟨DMG_REGION_STATE i, 8, 8⟩
def SCH_CFG : Nat := 0x0C00000
def SCH_CFG_acct : Loc := ⟨SCH_CFG, 0, 10⟩
def SCH_CFG_sample : Loc := ⟨SCH_CFG, 16, 10⟩
def SCH_GROUP_CFG (i : Nat) : Nat := 0x0C00100 + 32 * i
def SCH_GROUP_CFG_depth (i : Nat) : Loc := ⟨SCH_GROUP_CFG i, 0, 4⟩
def SCH_GROUP_CFG_lookahead (i : Nat) : Loc := ⟨SCH_GROUP_CFG i, 8, 8⟩
def SCH_GROUP_CFG_guard (i : Nat) : Loc := ⟨SCH_GROUP_CFG i, 16, 10⟩
def SCH_GROUP_STATUS (i : Nat) : Nat := 0x0C00104 + 32 * i
def SCH_GROUP_STATUS_lanes (i : Nat) : Loc := ⟨SCH_GROUP_STATUS i, 0, 4⟩
def SCH_GROUP_STATUS_segment (i : Nat) : Loc := ⟨SCH_GROUP_STATUS i, 4, 2⟩
def SCH_GROUP_STATUS_in_service (i : Nat) : Loc := ⟨SCH_GROUP_STATUS i, 6, 1⟩
def SCH_GROUP_STATUS_pending (i : Nat) : Loc := ⟨SCH_GROUP_STATUS i, 7, 1⟩
def SCH_GROUP_STATUS_entry (i : Nat) : Loc := ⟨SCH_GROUP_STATUS i, 8, 6⟩
def SCH_GROUP_STATUS_in_flight (i : Nat) : Loc := ⟨SCH_GROUP_STATUS i, 16, 4⟩
def SCH_GROUP_CAP (i : Nat) : Nat := 0x0C00108 + 32 * i
def SCH_GROUP_CAP_rate (i : Nat) : Loc := ⟨SCH_GROUP_CAP i, 0, 16⟩
def SCH_GROUP_CNT (i : Nat) (j : Nat) : Nat := 0x0C00400 + 32 * i + 4 * j
def SCH_GROUP_CNT_count (i : Nat) (j : Nat) : Loc := ⟨SCH_GROUP_CNT i j, 0, 32⟩
def SCH_CLASS_SLOPE (i : Nat) (j : Nat) : Nat := 0x0C01000 + 256 * i + 16 * j
def SCH_CLASS_SLOPE_idle_slope (i : Nat) (j : Nat) : Loc := ⟨SCH_CLASS_SLOPE i j, 0, 16⟩
def SCH_CLASS_SLOPE_send_slope (i : Nat) (j : Nat) : Loc := ⟨SCH_CLASS_SLOPE i j, 16, 16⟩
def SCH_CLASS_LIMIT (i : Nat) (j : Nat) : Nat := 0x0C01004 + 256 * i + 16 * j
def SCH_CLASS_LIMIT_hicredit (i : Nat) (j : Nat) : Loc := ⟨SCH_CLASS_LIMIT i j, 0, 16⟩
def SCH_CLASS_LIMIT_locredit (i : Nat) (j : Nat) : Loc := ⟨SCH_CLASS_LIMIT i j, 16, 16⟩
def SCH_CLASS_CREDIT (i : Nat) (j : Nat) : Nat := 0x0C01008 + 256 * i + 16 * j
def SCH_CLASS_CREDIT_credit (i : Nat) (j : Nat) : Loc := ⟨SCH_CLASS_CREDIT i j, 0, 32⟩
def SCH_CLASS_STATE (i : Nat) (j : Nat) : Nat := 0x0C0100C + 256 * i + 16 * j
def SCH_CLASS_STATE_eligible (i : Nat) (j : Nat) : Loc := ⟨SCH_CLASS_STATE i j, 0, 1⟩
def SCH_CLASS_STATE_planned (i : Nat) (j : Nat) : Loc := ⟨SCH_CLASS_STATE i j, 1, 1⟩
def SCH_CLASS_STATE_unusable (i : Nat) (j : Nat) : Loc := ⟨SCH_CLASS_STATE i j, 2, 1⟩
def SCH_CLASS_STATE_selected (i : Nat) (j : Nat) : Loc := ⟨SCH_CLASS_STATE i j, 16, 16⟩
def SCH_CLASS_GUAR (i : Nat) : Nat := 0x0C02000 + 16 * i
def SCH_CLASS_GUAR_min_rate (i : Nat) : Loc := ⟨SCH_CLASS_GUAR i, 0, 16⟩
def SCH_CLASS_GUAR_max_delay (i : Nat) : Loc := ⟨SCH_CLASS_GUAR i, 16, 16⟩
def SCH_CLASS_PREC (i : Nat) : Nat := 0x0C02004 + 16 * i
def SCH_CLASS_PREC_precedence (i : Nat) : Loc := ⟨SCH_CLASS_PREC i, 0, 4⟩
def SCH_CLASS_DEBT (i : Nat) : Nat := 0x0C02008 + 16 * i
def SCH_CLASS_DEBT_bytes (i : Nat) : Loc := ⟨SCH_CLASS_DEBT i, 0, 64⟩
def SCH_CLASS_CNT (i : Nat) (j : Nat) (k : Nat) : Nat := 0x0C04000 + 512 * i + 32 * j + 4 * k
def SCH_CLASS_CNT_count (i : Nat) (j : Nat) (k : Nat) : Loc := ⟨SCH_CLASS_CNT i j k, 0, 32⟩
def SCH_GATE_ACTIVE (i : Nat) (j : Nat) : Nat := 0x0C08000 + 512 * i + 8 * j
def SCH_GATE_ACTIVE_entry (i : Nat) (j : Nat) : Loc := ⟨SCH_GATE_ACTIVE i j, 0, 64⟩
def SCH_GATE_CYCLE (i : Nat) : Nat := 0x0C0A000 + 32 * i
def SCH_GATE_CYCLE_ns (i : Nat) : Loc := ⟨SCH_GATE_CYCLE i, 0, 32⟩
def SCH_GATE_STATUS (i : Nat) : Nat := 0x0C0A004 + 32 * i
def SCH_GATE_STATUS_entries (i : Nat) : Loc := ⟨SCH_GATE_STATUS i, 0, 6⟩
def SCH_GATE_STATUS_anchor (i : Nat) : Loc := ⟨SCH_GATE_STATUS i, 8, 1⟩
def SCH_GATE_STATUS_present (i : Nat) : Loc := ⟨SCH_GATE_STATUS i, 9, 1⟩
def SCH_GATE_START (i : Nat) : Nat := 0x0C0A008 + 32 * i
def SCH_GATE_START_time (i : Nat) : Loc := ⟨SCH_GATE_START i, 0, 64⟩
def SCH_GATE_PENDING (i : Nat) : Nat := 0x0C0A010 + 32 * i
def SCH_GATE_PENDING_time (i : Nat) : Loc := ⟨SCH_GATE_PENDING i, 0, 64⟩
def SCH_WATCH (i : Nat) : Nat := 0x0C0A400 + 4 * i
def SCH_WATCH_region (i : Nat) : Loc := ⟨SCH_WATCH i, 0, 16⟩
def SCH_WATCH_enable (i : Nat) : Loc := ⟨SCH_WATCH i, 31, 1⟩
def SCH_REGION_MAP (i : Nat) : Nat := 0x0C10000 + 4 * i
def SCH_REGION_MAP_class (i : Nat) : Loc := ⟨SCH_REGION_MAP i, 0, 4⟩
def SCH_REGION_MAP_group (i : Nat) : Loc := ⟨SCH_REGION_MAP i, 4, 4⟩
def SCH_REGION_MAP_pin (i : Nat) : Loc := ⟨SCH_REGION_MAP i, 8, 1⟩
def SCH_REGION_MAP_weight (i : Nat) : Loc := ⟨SCH_REGION_MAP i, 16, 8⟩
def SCH_REGION_MAP_now_group (i : Nat) : Loc := ⟨SCH_REGION_MAP i, 24, 4⟩
def SCH_RQ_DELAY (i : Nat) : Nat := 0x0C50000 + 4 * i
def SCH_RQ_DELAY_us (i : Nat) : Loc := ⟨SCH_RQ_DELAY i, 0, 16⟩
def PNL_LINK_STATUS : Nat := 0x0D00000
def PNL_LINK_STATUS_state : Loc := ⟨PNL_LINK_STATUS, 0, 3⟩
def PNL_LINK_STATUS_refused : Loc := ⟨PNL_LINK_STATUS, 8, 4⟩
def PNL_LINK_STATUS_linkups : Loc := ⟨PNL_LINK_STATUS, 16, 16⟩
def PNL_LINK_CFG : Nat := 0x0D00004
def PNL_LINK_CFG_train_ms : Loc := ⟨PNL_LINK_CFG, 0, 10⟩
def PNL_LINK_CFG_auto : Loc := ⟨PNL_LINK_CFG, 16, 1⟩
def PNL_LINK_CFG_retry : Loc := ⟨PNL_LINK_CFG, 24, 8⟩
def PNL_EPOCH : Nat := 0x0D00008
def PNL_EPOCH_epoch : Loc := ⟨PNL_EPOCH, 0, 64⟩
def PNL_GEOM_HOGELS : Nat := 0x0D00100
def PNL_GEOM_HOGELS_width : Loc := ⟨PNL_GEOM_HOGELS, 0, 16⟩
def PNL_GEOM_HOGELS_height : Loc := ⟨PNL_GEOM_HOGELS, 16, 16⟩
def PNL_GEOM_VIEWS : Nat := 0x0D00104
def PNL_GEOM_VIEWS_vx : Loc := ⟨PNL_GEOM_VIEWS, 0, 5⟩
def PNL_GEOM_VIEWS_vy : Loc := ⟨PNL_GEOM_VIEWS, 8, 5⟩
def PNL_GEOM_VIEWS_depth : Loc := ⟨PNL_GEOM_VIEWS, 16, 4⟩
def PNL_GEOM_VIEWS_segments : Loc := ⟨PNL_GEOM_VIEWS, 24, 3⟩
def PNL_GEOM_VIEWS_valid : Loc := ⟨PNL_GEOM_VIEWS, 31, 1⟩
def PNL_SEG_ORIGIN (i : Nat) : Nat := 0x0D00110 + 8 * i
def PNL_SEG_ORIGIN_x0 (i : Nat) : Loc := ⟨PNL_SEG_ORIGIN i, 0, 16⟩
def PNL_SEG_ORIGIN_y0 (i : Nat) : Loc := ⟨PNL_SEG_ORIGIN i, 16, 16⟩
def PNL_SEG_SIZE (i : Nat) : Nat := 0x0D00114 + 8 * i
def PNL_SEG_SIZE_width (i : Nat) : Loc := ⟨PNL_SEG_SIZE i, 0, 16⟩
def PNL_SEG_SIZE_height (i : Nat) : Loc := ⟨PNL_SEG_SIZE i, 16, 16⟩
def PNL_SEG_QUADS : Nat := 0x0D00130
def PNL_SEG_QUADS_seg0 : Loc := ⟨PNL_SEG_QUADS, 0, 4⟩
def PNL_SEG_QUADS_seg1 : Loc := ⟨PNL_SEG_QUADS, 4, 4⟩
def PNL_SEG_QUADS_seg2 : Loc := ⟨PNL_SEG_QUADS, 8, 4⟩
def PNL_SEG_QUADS_seg3 : Loc := ⟨PNL_SEG_QUADS, 12, 4⟩
def PNL_TE_CFG (i : Nat) : Nat := 0x0D00200 + 32 * i
def PNL_TE_CFG_source (i : Nat) : Loc := ⟨PNL_TE_CFG i, 0, 2⟩
def PNL_TE_CFG_edge (i : Nat) : Loc := ⟨PNL_TE_CFG i, 2, 1⟩
def PNL_SEG_FRAME (i : Nat) : Nat := 0x0D00204 + 32 * i
def PNL_SEG_FRAME_frame (i : Nat) : Loc := ⟨PNL_SEG_FRAME i, 0, 32⟩
def PNL_SEG_TE_TIME (i : Nat) : Nat := 0x0D00208 + 32 * i
def PNL_SEG_TE_TIME_time (i : Nat) : Loc := ⟨PNL_SEG_TE_TIME i, 0, 64⟩
def PNL_SEG_ROW (i : Nat) : Nat := 0x0D00210 + 32 * i
def PNL_SEG_ROW_row (i : Nat) : Loc := ⟨PNL_SEG_ROW i, 0, 16⟩
def PNL_SEG_ROW_present (i : Nat) : Loc := ⟨PNL_SEG_ROW i, 16, 1⟩
def PNL_APPLY_ROW (i : Nat) : Nat := 0x0D00214 + 32 * i
def PNL_APPLY_ROW_row (i : Nat) : Loc := ⟨PNL_APPLY_ROW i, 0, 16⟩
def PNL_SEG_TE_CNT (i : Nat) (j : Nat) : Nat := 0x0D00280 + 16 * i + 4 * j
def PNL_SEG_TE_CNT_count (i : Nat) (j : Nat) : Loc := ⟨PNL_SEG_TE_CNT i j, 0, 32⟩
def PNL_SEG_PARAM (i : Nat) (j : Nat) : Nat := 0x0D00300 + 64 * i + 4 * j
def PNL_SEG_PARAM_value (i : Nat) (j : Nat) : Loc := ⟨PNL_SEG_PARAM i j, 0, 32⟩
def PNL_GROUP_CFG (i : Nat) : Nat := 0x0D00400 + 32 * i
def PNL_GROUP_CFG_min_lanes (i : Nat) : Loc := ⟨PNL_GROUP_CFG i, 0, 4⟩
def PNL_GROUP_CFG_lane_enable (i : Nat) : Loc := ⟨PNL_GROUP_CFG i, 4, 12⟩
def PNL_GROUP_CFG_hold_limit (i : Nat) : Loc := ⟨PNL_GROUP_CFG i, 16, 8⟩
def PNL_GROUP_CFG_ucw_limit (i : Nat) : Loc := ⟨PNL_GROUP_CFG i, 24, 8⟩
def PNL_GROUP_STATUS (i : Nat) : Nat := 0x0D00404 + 32 * i
def PNL_GROUP_STATUS_lanes (i : Nat) : Loc := ⟨PNL_GROUP_STATUS i, 0, 12⟩
def PNL_GROUP_STATUS_count (i : Nat) : Loc := ⟨PNL_GROUP_STATUS i, 12, 4⟩
def PNL_GROUP_STATUS_bc_up (i : Nat) : Loc := ⟨PNL_GROUP_STATUS i, 16, 1⟩
def PNL_GROUP_STATUS_in_service (i : Nat) : Loc := ⟨PNL_GROUP_STATUS i, 17, 1⟩
def PNL_GROUP_STATUS_held (i : Nat) : Loc := ⟨PNL_GROUP_STATUS i, 18, 1⟩
def PNL_GROUP_STATUS_stalled (i : Nat) : Loc := ⟨PNL_GROUP_STATUS i, 19, 1⟩
def PNL_GROUP_STATUS_bursting (i : Nat) : Loc := ⟨PNL_GROUP_STATUS i, 20, 1⟩
def PNL_GROUP_CREDIT (i : Nat) : Nat := 0x0D00408 + 32 * i
def PNL_GROUP_CREDIT_available (i : Nat) : Loc := ⟨PNL_GROUP_CREDIT i, 0, 16⟩
def PNL_GROUP_CREDIT_granted (i : Nat) : Loc := ⟨PNL_GROUP_CREDIT i, 16, 16⟩
def PNL_GROUP_CNT (i : Nat) (j : Nat) : Nat := 0x0D00800 + 64 * i + 4 * j
def PNL_GROUP_CNT_count (i : Nat) (j : Nat) : Loc := ⟨PNL_GROUP_CNT i j, 0, 32⟩
def LAN_CFG (i : Nat) : Nat := 0x0E00000 + 1024 * i
def LAN_CFG_precode (i : Nat) : Loc := ⟨LAN_CFG i, 0, 1⟩
def LAN_CFG_tx_invert (i : Nat) : Loc := ⟨LAN_CFG i, 1, 1⟩
def LAN_CFG_adapt_freeze (i : Nat) : Loc := ⟨LAN_CFG i, 2, 1⟩
def LAN_CFG_use_history (i : Nat) : Loc := ⟨LAN_CFG i, 3, 1⟩
def LAN_CFG_preset (i : Nat) : Loc := ⟨LAN_CFG i, 4, 3⟩
def LAN_CFG_quiet_enable (i : Nat) : Loc := ⟨LAN_CFG i, 7, 1⟩
def LAN_STATUS (i : Nat) : Nat := 0x0E00004 + 1024 * i
def LAN_STATUS_state (i : Nat) : Loc := ⟨LAN_STATUS i, 0, 3⟩
def LAN_STATUS_rx_inverted (i : Nat) : Loc := ⟨LAN_STATUS i, 3, 1⟩
def LAN_STATUS_precoding (i : Nat) : Loc := ⟨LAN_STATUS i, 4, 1⟩
def LAN_STATUS_rx_precoding (i : Nat) : Loc := ⟨LAN_STATUS i, 5, 1⟩
def LAN_STATUS_rate (i : Nat) : Loc := ⟨LAN_STATUS i, 8, 10⟩
def LAN_TXFFE (i : Nat) : Nat := 0x0E00008 + 1024 * i
def LAN_TXFFE_pre2 (i : Nat) : Loc := ⟨LAN_TXFFE i, 0, 5⟩
def LAN_TXFFE_pre1 (i : Nat) : Loc := ⟨LAN_TXFFE i, 8, 6⟩
def LAN_TXFFE_main (i : Nat) : Loc := ⟨LAN_TXFFE i, 16, 6⟩
def LAN_TXFFE_post1 (i : Nat) : Loc := ⟨LAN_TXFFE i, 24, 6⟩
def LAN_RXEQ (i : Nat) : Nat := 0x0E0000C + 1024 * i
def LAN_RXEQ_ctle (i : Nat) : Loc := ⟨LAN_RXEQ i, 0, 4⟩
def LAN_RXEQ_dfe1 (i : Nat) : Loc := ⟨LAN_RXEQ i, 8, 8⟩
def LAN_RXEQ_vga (i : Nat) : Loc := ⟨LAN_RXEQ i, 16, 8⟩
def LAN_EYE (i : Nat) : Nat := 0x0E00010 + 1024 * i
def LAN_EYE_width (i : Nat) : Loc := ⟨LAN_EYE i, 0, 8⟩
def LAN_EYE_height (i : Nat) : Loc := ⟨LAN_EYE i, 8, 8⟩
def LAN_EYE_eye (i : Nat) : Loc := ⟨LAN_EYE i, 16, 2⟩
def LAN_EYE_source (i : Nat) : Loc := ⟨LAN_EYE i, 18, 1⟩
def LAN_EYE_valid (i : Nat) : Loc := ⟨LAN_EYE i, 19, 1⟩
def LAN_EYE_age (i : Nat) : Loc := ⟨LAN_EYE i, 20, 12⟩
def LAN_RESID (i : Nat) : Nat := 0x0E00014 + 1024 * i
def LAN_RESID_rms (i : Nat) : Loc := ⟨LAN_RESID i, 0, 16⟩
def LAN_RESID_corrected (i : Nat) : Loc := ⟨LAN_RESID i, 16, 16⟩
def LAN_CNT (i : Nat) (j : Nat) : Nat := 0x0E00040 + 1024 * i + 4 * j
def LAN_CNT_count (i : Nat) (j : Nat) : Loc := ⟨LAN_CNT i j, 0, 32⟩
def LAN_BC_STATUS (i : Nat) : Nat := 0x0E40000 + 16 * i
def LAN_BC_STATUS_lock (i : Nat) : Loc := ⟨LAN_BC_STATUS i, 0, 1⟩
def LAN_BC_STATUS_inverted (i : Nat) : Loc := ⟨LAN_BC_STATUS i, 1, 1⟩
def LAN_BC_STATUS_violations (i : Nat) : Loc := ⟨LAN_BC_STATUS i, 16, 16⟩
def LAN_QUIET_CFG : Nat := 0x0E40100
def LAN_QUIET_CFG_idle : Loc := ⟨LAN_QUIET_CFG, 0, 10⟩
def LAN_ADAPT_CFG : Nat := 0x0E40104
def LAN_ADAPT_CFG_period : Loc := ⟨LAN_ADAPT_CFG, 0, 10⟩
def LAN_EYE_ALARM : Nat := 0x0E40108
def LAN_EYE_ALARM_width : Loc := ⟨LAN_EYE_ALARM, 0, 8⟩
def LAN_EYE_ALARM_height : Loc := ⟨LAN_EYE_ALARM, 8, 8⟩
def WVL_WALL_CFG : Nat := 0x0F00000
def WVL_WALL_CFG_enable : Loc := ⟨WVL_WALL_CFG, 0, 1⟩
def WVL_WALL_CFG_alt_valid : Loc := ⟨WVL_WALL_CFG, 1, 1⟩
def WVL_WALL_CFG_x : Loc := ⟨WVL_WALL_CFG, 4, 4⟩
def WVL_WALL_CFG_y : Loc := ⟨WVL_WALL_CFG, 8, 4⟩
def WVL_WALL_CFG_wx : Loc := ⟨WVL_WALL_CFG, 12, 4⟩
def WVL_WALL_CFG_wy : Loc := ⟨WVL_WALL_CFG, 16, 4⟩
def WVL_WALL_CFG_mx : Loc := ⟨WVL_WALL_CFG, 20, 4⟩
def WVL_WALL_CFG_my : Loc := ⟨WVL_WALL_CFG, 24, 4⟩
def WVL_WALL_CFG2 : Nat := 0x0F00004
def WVL_WALL_CFG2_ax : Loc := ⟨WVL_WALL_CFG2, 0, 4⟩
def WVL_WALL_CFG2_ay : Loc := ⟨WVL_WALL_CFG2, 4, 4⟩
def WVL_WALL_CFG2_scarf : Loc := ⟨WVL_WALL_CFG2, 16, 8⟩
def WVL_WALL_ID : Nat := 0x0F00008
def WVL_WALL_ID_id : Loc := ⟨WVL_WALL_ID, 0, 32⟩
def WVL_WALL_STATUS : Nat := 0x0F00010
def WVL_WALL_STATUS_lock : Loc := ⟨WVL_WALL_STATUS, 0, 2⟩
def WVL_WALL_STATUS_alone : Loc := ⟨WVL_WALL_STATUS, 2, 1⟩
def WVL_WALL_STATUS_alternate : Loc := ⟨WVL_WALL_STATUS, 3, 1⟩
def WVL_WALL_STATUS_hops : Loc := ⟨WVL_WALL_STATUS, 4, 5⟩
def WVL_WALL_STATUS_members : Loc := ⟨WVL_WALL_STATUS, 16, 9⟩
def WVL_SUMMARY_CFG : Nat := 0x0F00014
def WVL_SUMMARY_CFG_ms : Loc := ⟨WVL_SUMMARY_CFG, 0, 10⟩
def WVL_TE_ERR (i : Nat) : Nat := 0x0F00020 + 4 * i
def WVL_TE_ERR_err (i : Nat) : Loc := ⟨WVL_TE_ERR i, 0, 32⟩
def WVL_SCHED : Nat := 0x0F00030
def WVL_SCHED_index : Loc := ⟨WVL_SCHED, 0, 64⟩
def WVL_PORT_CFG (i : Nat) : Nat := 0x0F00100 + 64 * i
def WVL_PORT_CFG_min_lanes (i : Nat) : Loc := ⟨WVL_PORT_CFG i, 0, 4⟩
def WVL_PORT_CFG_ucw_limit (i : Nat) : Loc := ⟨WVL_PORT_CFG i, 8, 8⟩
def WVL_PORT_CFG_compress (i : Nat) : Loc := ⟨WVL_PORT_CFG i, 16, 1⟩
def WVL_PORT_STATUS (i : Nat) : Nat := 0x0F00104 + 64 * i
def WVL_PORT_STATUS_lanes (i : Nat) : Loc := ⟨WVL_PORT_STATUS i, 0, 8⟩
def WVL_PORT_STATUS_count (i : Nat) : Loc := ⟨WVL_PORT_STATUS i, 8, 4⟩
def WVL_PORT_STATUS_in_service (i : Nat) : Loc := ⟨WVL_PORT_STATUS i, 12, 1⟩
def WVL_PORT_STATUS_hello_ok (i : Nat) : Loc := ⟨WVL_PORT_STATUS i, 13, 1⟩
def WVL_PORT_STATUS_parent (i : Nat) : Loc := ⟨WVL_PORT_STATUS i, 14, 1⟩
def WVL_PORT_STATUS_nx (i : Nat) : Loc := ⟨WVL_PORT_STATUS i, 16, 4⟩
def WVL_PORT_STATUS_ny (i : Nat) : Loc := ⟨WVL_PORT_STATUS i, 20, 4⟩
def WVL_PORT_STATUS_nhops (i : Nat) : Loc := ⟨WVL_PORT_STATUS i, 24, 8⟩
def WVL_PORT_ASYM (i : Nat) : Nat := 0x0F00108 + 64 * i
def WVL_PORT_ASYM_asym (i : Nat) : Loc := ⟨WVL_PORT_ASYM i, 0, 32⟩
def WVL_PORT_CREDIT (i : Nat) : Nat := 0x0F0010C + 64 * i
def WVL_PORT_CREDIT_available (i : Nat) : Loc := ⟨WVL_PORT_CREDIT i, 0, 16⟩
def WVL_PORT_CREDIT_outstanding (i : Nat) : Loc := ⟨WVL_PORT_CREDIT i, 16, 16⟩
def WVL_PORT_CNT (i : Nat) (j : Nat) : Nat := 0x0F00200 + 64 * i + 4 * j
def WVL_PORT_CNT_count (i : Nat) (j : Nat) : Loc := ⟨WVL_PORT_CNT i j, 0, 32⟩
def WVL_RELAY (i : Nat) : Nat := 0x0F00400 + 4 * i
def WVL_RELAY_ports (i : Nat) : Loc := ⟨WVL_RELAY i, 0, 4⟩
def WVL_PEER (i : Nat) (j : Nat) : Nat := 0x0F04000 + 64 * i + 8 * j
def WVL_PEER_bytes (i : Nat) (j : Nat) : Loc := ⟨WVL_PEER i j, 0, 64⟩
def ETH_PORT_CFG (i : Nat) : Nat := 0x1000000 + 256 * i
def ETH_PORT_CFG_mode (i : Nat) : Loc := ⟨ETH_PORT_CFG i, 0, 3⟩
def ETH_PORT_CFG_an_abilities (i : Nat) : Loc := ⟨ETH_PORT_CFG i, 3, 4⟩
def ETH_PORT_CFG_strip (i : Nat) : Loc := ⟨ETH_PORT_CFG i, 7, 1⟩
def ETH_PORT_CFG_bcast (i : Nat) : Loc := ⟨ETH_PORT_CFG i, 8, 1⟩
def ETH_PORT_CFG_all_multi (i : Nat) : Loc := ⟨ETH_PORT_CFG i, 9, 1⟩
def ETH_PORT_CFG_promisc (i : Nat) : Loc := ⟨ETH_PORT_CFG i, 10, 1⟩
def ETH_PORT_CFG_ptp_steer (i : Nat) : Loc := ⟨ETH_PORT_CFG i, 11, 1⟩
def ETH_PORT_CFG_hash_enable (i : Nat) : Loc := ⟨ETH_PORT_CFG i, 12, 1⟩
def ETH_PORT_CFG_preempt_enable (i : Nat) : Loc := ⟨ETH_PORT_CFG i, 13, 1⟩
def ETH_PORT_CFG_frag (i : Nat) : Loc := ⟨ETH_PORT_CFG i, 14, 2⟩
def ETH_PORT_CFG_ptp_ring (i : Nat) : Loc := ⟨ETH_PORT_CFG i, 16, 6⟩
def ETH_PORT_CFG_default_ring (i : Nat) : Loc := ⟨ETH_PORT_CFG i, 24, 6⟩
def ETH_PORT_STATUS (i : Nat) : Nat := 0x1000004 + 256 * i
def ETH_PORT_STATUS_up (i : Nat) : Loc := ⟨ETH_PORT_STATUS i, 0, 1⟩
def ETH_PORT_STATUS_mode (i : Nat) : Loc := ⟨ETH_PORT_STATUS i, 1, 3⟩
def ETH_PORT_STATUS_preempt (i : Nat) : Loc := ⟨ETH_PORT_STATUS i, 4, 1⟩
def ETH_PORT_STATUS_list (i : Nat) : Loc := ⟨ETH_PORT_STATUS i, 5, 1⟩
def ETH_PORT_STATUS_pending (i : Nat) : Loc := ⟨ETH_PORT_STATUS i, 6, 1⟩
def ETH_PORT_STATUS_paused (i : Nat) : Loc := ⟨ETH_PORT_STATUS i, 8, 8⟩
def ETH_PORT_STATUS_entry (i : Nat) : Loc := ⟨ETH_PORT_STATUS i, 16, 7⟩
def ETH_PORT_CFG2 (i : Nat) : Nat := 0x1000008 + 256 * i
def ETH_PORT_CFG2_max_frame (i : Nat) : Loc := ⟨ETH_PORT_CFG2 i, 0, 14⟩
def ETH_PORT_CFG2_preemptable (i : Nat) : Loc := ⟨ETH_PORT_CFG2 i, 16, 8⟩
def ETH_TS_LAT (i : Nat) : Nat := 0x100000C + 256 * i
def ETH_TS_LAT_rx (i : Nat) : Loc := ⟨ETH_TS_LAT i, 0, 16⟩
def ETH_TS_LAT_tx (i : Nat) : Loc := ⟨ETH_TS_LAT i, 16, 16⟩
def ETH_TS_ADJ (i : Nat) : Nat := 0x1000010 + 256 * i
def ETH_TS_ADJ_rx (i : Nat) : Loc := ⟨ETH_TS_ADJ i, 0, 16⟩
def ETH_TS_ADJ_tx (i : Nat) : Loc := ⟨ETH_TS_ADJ i, 16, 16⟩
def ETH_TS_ASYM (i : Nat) : Nat := 0x1000014 + 256 * i
def ETH_TS_ASYM_asym (i : Nat) : Loc := ⟨ETH_TS_ASYM i, 0, 32⟩
def ETH_PORT_CNT (i : Nat) (j : Nat) : Nat := 0x1002000 + 128 * i + 4 * j
def ETH_PORT_CNT_count (i : Nat) (j : Nat) : Loc := ⟨ETH_PORT_CNT i j, 0, 32⟩
def ETH_RXQ_BASE (i : Nat) : Nat := 0x1004000 + 32 * i
def ETH_RXQ_BASE_loc (i : Nat) : Loc := ⟨ETH_RXQ_BASE i, 0, 1⟩
def ETH_RXQ_BASE_base (i : Nat) : Loc := ⟨ETH_RXQ_BASE i, 12, 52⟩
def ETH_RXQ_CFG (i : Nat) : Nat := 0x1004008 + 32 * i
def ETH_RXQ_CFG_enable (i : Nat) : Loc := ⟨ETH_RXQ_CFG i, 0, 1⟩
def ETH_RXQ_CFG_log2size (i : Nat) : Loc := ⟨ETH_RXQ_CFG i, 8, 4⟩
def ETH_RXQ_CFG_owner (i : Nat) : Loc := ⟨ETH_RXQ_CFG i, 12, 4⟩
def ETH_RXQ_CFG_buf (i : Nat) : Loc := ⟨ETH_RXQ_CFG i, 16, 7⟩
def ETH_RXQ_CFG_vector (i : Nat) : Loc := ⟨ETH_RXQ_CFG i, 24, 6⟩
def ETH_RXQ_HEAD (i : Nat) : Nat := 0x100400C + 32 * i
def ETH_RXQ_HEAD_head (i : Nat) : Loc := ⟨ETH_RXQ_HEAD i, 0, 16⟩
def ETH_RXQ_WB (i : Nat) : Nat := 0x1004010 + 32 * i
def ETH_RXQ_WB_addr (i : Nat) : Loc := ⟨ETH_RXQ_WB i, 0, 64⟩
def ETH_TXQ_BASE (i : Nat) : Nat := 0x1008000 + 32 * i
def ETH_TXQ_BASE_loc (i : Nat) : Loc := ⟨ETH_TXQ_BASE i, 0, 1⟩
def ETH_TXQ_BASE_base (i : Nat) : Loc := ⟨ETH_TXQ_BASE i, 12, 52⟩
def ETH_TXQ_CFG (i : Nat) : Nat := 0x1008008 + 32 * i
def ETH_TXQ_CFG_enable (i : Nat) : Loc := ⟨ETH_TXQ_CFG i, 0, 1⟩
def ETH_TXQ_CFG_log2size (i : Nat) : Loc := ⟨ETH_TXQ_CFG i, 8, 4⟩
def ETH_TXQ_CFG_owner (i : Nat) : Loc := ⟨ETH_TXQ_CFG i, 12, 4⟩
def ETH_TXQ_CFG_vector (i : Nat) : Loc := ⟨ETH_TXQ_CFG i, 24, 6⟩
def ETH_TXQ_HEAD (i : Nat) : Nat := 0x100800C + 32 * i
def ETH_TXQ_HEAD_head (i : Nat) : Loc := ⟨ETH_TXQ_HEAD i, 0, 16⟩
def ETH_TXQ_WB (i : Nat) : Nat := 0x1008010 + 32 * i
def ETH_TXQ_WB_addr (i : Nat) : Loc := ⟨ETH_TXQ_WB i, 0, 64⟩
def ETH_RULE (i : Nat) (j : Nat) (k : Nat) : Nat := 0x100C000 + 512 * i + 16 * j + 8 * k
def ETH_RULE_bits (i : Nat) (j : Nat) (k : Nat) : Loc := ⟨ETH_RULE i j k, 0, 64⟩
def ETH_ADDR (i : Nat) (j : Nat) : Nat := 0x1010000 + 1024 * i + 8 * j
def ETH_ADDR_mac (i : Nat) (j : Nat) : Loc := ⟨ETH_ADDR i j, 0, 48⟩
def ETH_ADDR_enable (i : Nat) (j : Nat) : Loc := ⟨ETH_ADDR i j, 63, 1⟩
def ETH_GATE_ACTIVE (i : Nat) (j : Nat) : Nat := 0x1020000 + 1024 * i + 8 * j
def ETH_GATE_ACTIVE_entry (i : Nat) (j : Nat) : Loc := ⟨ETH_GATE_ACTIVE i j, 0, 64⟩
def ETH_GATE_CYCLE (i : Nat) : Nat := 0x1022000 + 32 * i
def ETH_GATE_CYCLE_ns (i : Nat) : Loc := ⟨ETH_GATE_CYCLE i, 0, 32⟩
def ETH_GATE_STATUS (i : Nat) : Nat := 0x1022004 + 32 * i
def ETH_GATE_STATUS_entries (i : Nat) : Loc := ⟨ETH_GATE_STATUS i, 0, 8⟩
def ETH_GATE_STATUS_anchor (i : Nat) : Loc := ⟨ETH_GATE_STATUS i, 8, 1⟩
def ETH_GATE_START (i : Nat) : Nat := 0x1022008 + 32 * i
def ETH_GATE_START_time (i : Nat) : Loc := ⟨ETH_GATE_START i, 0, 64⟩
def ETH_GATE_PENDING (i : Nat) : Nat := 0x1022010 + 32 * i
def ETH_GATE_PENDING_time (i : Nat) : Loc := ⟨ETH_GATE_PENDING i, 0, 64⟩
def ETH_HASH_KEY (i : Nat) (j : Nat) : Nat := 0x1024000 + 64 * i + 4 * j
def ETH_HASH_KEY_word (i : Nat) (j : Nat) : Loc := ⟨ETH_HASH_KEY i j, 0, 32⟩
def ETH_HASH_IND (i : Nat) (j : Nat) : Nat := 0x1024400 + 64 * i + 4 * j
def ETH_HASH_IND_ring0 (i : Nat) (j : Nat) : Loc := ⟨ETH_HASH_IND i j, 0, 6⟩
def ETH_HASH_IND_ring1 (i : Nat) (j : Nat) : Loc := ⟨ETH_HASH_IND i j, 8, 6⟩
def ETH_HASH_IND_ring2 (i : Nat) (j : Nat) : Loc := ⟨ETH_HASH_IND i j, 16, 6⟩
def ETH_HASH_IND_ring3 (i : Nat) (j : Nat) : Loc := ⟨ETH_HASH_IND i j, 24, 6⟩
def PTP_FREE : Nat := 0x1100000
def PTP_FREE_f : Loc := ⟨PTP_FREE, 0, 64⟩
def PTP_NOW_NS : Nat := 0x1100008
def PTP_NOW_NS_ns : Loc := ⟨PTP_NOW_NS, 0, 64⟩
def PTP_NOW : Nat := 0x1100010
def PTP_NOW_ns : Loc := ⟨PTP_NOW, 0, 30⟩
def PTP_NOW_sec : Loc := ⟨PTP_NOW, 32, 32⟩
def PTP_NOW_XSEC : Nat := 0x1100018
def PTP_NOW_XSEC_sec : Loc := ⟨PTP_NOW_XSEC, 0, 16⟩
def PTP_OFS : Nat := 0x1100020
def PTP_OFS_ns : Loc := ⟨PTP_OFS, 0, 30⟩
def PTP_OFS_sec : Loc := ⟨PTP_OFS, 32, 32⟩
def PTP_OFS_XSEC : Nat := 0x1100028
def PTP_OFS_XSEC_sec : Loc := ⟨PTP_OFS_XSEC, 0, 16⟩
def PTP_RATE : Nat := 0x1100030
def PTP_RATE_rho : Loc := ⟨PTP_RATE, 0, 40⟩
def PTP_STEP : Nat := 0x1100038
def PTP_STEP_ns : Loc := ⟨PTP_STEP, 0, 64⟩
def PTP_CMD : Nat := 0x1100040
def PTP_CMD_cmd : Loc := ⟨PTP_CMD, 0, 2⟩
def PTP_ANCHOR : Nat := 0x1100048
def PTP_ANCHOR_a : Loc := ⟨PTP_ANCHOR, 0, 64⟩
def PTP_CNT : Nat := 0x1100050
def PTP_CNT_steps : Loc := ⟨PTP_CNT, 0, 16⟩
def PTP_CNT_ignored : Loc := ⟨PTP_CNT, 16, 16⟩
def TRIG_START (i : Nat) : Nat := 0x1101000 + 64 * i
def TRIG_START_ns (i : Nat) : Loc := ⟨TRIG_START i, 0, 64⟩
def TRIG_PERIOD (i : Nat) : Nat := 0x1101008 + 64 * i
def TRIG_PERIOD_ns (i : Nat) : Loc := ⟨TRIG_PERIOD i, 0, 32⟩
def TRIG_CFG (i : Nat) : Nat := 0x110100C + 64 * i
def TRIG_CFG_arm (i : Nat) : Loc := ⟨TRIG_CFG i, 0, 1⟩
def TRIG_CFG_pin (i : Nat) : Loc := ⟨TRIG_CFG i, 1, 1⟩
def TRIG_CFG_toggle (i : Nat) : Loc := ⟨TRIG_CFG i, 2, 1⟩
def TRIG_CFG_idle (i : Nat) : Loc := ⟨TRIG_CFG i, 3, 1⟩
def TRIG_CFG_width (i : Nat) : Loc := ⟨TRIG_CFG i, 16, 16⟩
def TRIG_ACT (i : Nat) : Nat := 0x1101010 + 64 * i
def TRIG_ACT_groups (i : Nat) : Loc := ⟨TRIG_ACT i, 0, 16⟩
def TRIG_ACT_eth_start (i : Nat) : Loc := ⟨TRIG_ACT i, 16, 8⟩
def TRIG_ACT_snap (i : Nat) : Loc := ⟨TRIG_ACT i, 24, 1⟩
def TRIG_STATUS (i : Nat) : Nat := 0x1101014 + 64 * i
def TRIG_STATUS_armed (i : Nat) : Loc := ⟨TRIG_STATUS i, 0, 1⟩
def TRIG_STATUS_wall (i : Nat) : Loc := ⟨TRIG_STATUS i, 1, 1⟩
def TRIG_STATUS_skipped (i : Nat) : Loc := ⟨TRIG_STATUS i, 8, 8⟩
def TRIG_STATUS_fires (i : Nat) : Loc := ⟨TRIG_STATUS i, 16, 16⟩
def CAP_CFG (i : Nat) : Nat := 0x1102000 + 32 * i
def CAP_CFG_enable (i : Nat) : Loc := ⟨CAP_CFG i, 0, 1⟩
def CAP_CFG_rising (i : Nat) : Loc := ⟨CAP_CFG i, 1, 1⟩
def CAP_CFG_falling (i : Nat) : Loc := ⟨CAP_CFG i, 2, 1⟩
def CAP_TIME (i : Nat) : Nat := 0x1102008 + 32 * i
def CAP_TIME_time (i : Nat) : Loc := ⟨CAP_TIME i, 0, 64⟩
def CAP_STATUS (i : Nat) : Nat := 0x1102010 + 32 * i
def CAP_STATUS_entries (i : Nat) : Loc := ⟨CAP_STATUS i, 0, 5⟩
def CAP_STATUS_edge (i : Nat) : Loc := ⟨CAP_STATUS i, 5, 1⟩
def CAP_STATUS_glitches (i : Nat) : Loc := ⟨CAP_STATUS i, 8, 8⟩
def CAP_STATUS_overflows (i : Nat) : Loc := ⟨CAP_STATUS i, 16, 16⟩
def DMC_CFG : Nat := 0x1200000
def DMC_CFG_age_cap : Loc := ⟨DMC_CFG, 0, 8⟩
def DMC_CFG_link_ecc : Loc := ⟨DMC_CFG, 8, 1⟩
def DMC_CFG_ue_limit : Loc := ⟨DMC_CFG, 16, 8⟩
def DMC_CFG_track_ms : Loc := ⟨DMC_CFG, 24, 8⟩
def DMC_CAP : Nat := 0x1200004
def DMC_CAP_channels : Loc := ⟨DMC_CAP, 0, 6⟩
def DMC_CAP_gib : Loc := ⟨DMC_CAP, 16, 7⟩
def DMC_CH_OK : Nat := 0x1200008
def DMC_CH_OK_ok : Loc := ⟨DMC_CH_OK, 0, 32⟩
def DMC_SR_CFG : Nat := 0x120000C
def DMC_SR_CFG_idle : Loc := ⟨DMC_SR_CFG, 0, 10⟩
def DMC_QUAD_STATUS (i : Nat) : Nat := 0x1200010 + 4 * i
def DMC_QUAD_STATUS_point (i : Nat) : Loc := ⟨DMC_QUAD_STATUS i, 0, 2⟩
def DMC_QUAD_STATUS_fsp (i : Nat) : Loc := ⟨DMC_QUAD_STATUS i, 2, 1⟩
def DMC_QUAD_STATUS_state (i : Nat) : Loc := ⟨DMC_QUAD_STATUS i, 4, 3⟩
def DMC_QUAD_STATUS_stale (i : Nat) : Loc := ⟨DMC_QUAD_STATUS i, 8, 4⟩
def DMC_QUAD_STATUS_history (i : Nat) : Loc := ⟨DMC_QUAD_STATUS i, 12, 4⟩
def DMC_TRAIN_TIME (i : Nat) : Nat := 0x1200020 + 8 * i
def DMC_TRAIN_TIME_time (i : Nat) : Loc := ⟨DMC_TRAIN_TIME i, 0, 64⟩
def DMC_OP (i : Nat) : Nat := 0x1200040 + 4 * i
def DMC_OP_rate (i : Nat) : Loc := ⟨DMC_OP i, 0, 14⟩
def DMC_OP_TIMING (i : Nat) (j : Nat) : Nat := 0x1200080 + 64 * i + 4 * j
def DMC_OP_TIMING_word (i : Nat) (j : Nat) : Loc := ⟨DMC_OP_TIMING i j, 0, 32⟩
def DMC_WIN_CFG (i : Nat) : Nat := 0x1200200 + 32 * i
def DMC_WIN_CFG_enable (i : Nat) : Loc := ⟨DMC_WIN_CFG i, 0, 1⟩
def DMC_WIN_CFG_order (i : Nat) : Loc := ⟨DMC_WIN_CFG i, 1, 2⟩
def DMC_WIN_CFG_iecc (i : Nat) : Loc := ⟨DMC_WIN_CFG i, 3, 1⟩
def DMC_WIN_CFG_e (i : Nat) : Loc := ⟨DMC_WIN_CFG i, 4, 3⟩
def DMC_WIN_CFG_c0 (i : Nat) : Loc := ⟨DMC_WIN_CFG i, 8, 5⟩
def DMC_WIN_CFG_holed (i : Nat) : Loc := ⟨DMC_WIN_CFG i, 16, 1⟩
def DMC_WIN_BASE (i : Nat) : Nat := 0x1200204 + 32 * i
def DMC_WIN_BASE_base (i : Nat) : Loc := ⟨DMC_WIN_BASE i, 0, 12⟩
def DMC_WIN_BASE_size (i : Nat) : Loc := ⟨DMC_WIN_BASE i, 16, 13⟩
def DMC_WIN_ROWS (i : Nat) : Nat := 0x1200208 + 32 * i
def DMC_WIN_ROWS_row0 (i : Nat) : Loc := ⟨DMC_WIN_ROWS i, 0, 16⟩
def DMC_WIN_ROWS_rows512 (i : Nat) : Loc := ⟨DMC_WIN_ROWS i, 16, 8⟩
def DMC_WIN_HOLES (i : Nat) : Nat := 0x120020C + 32 * i
def DMC_WIN_HOLES_count (i : Nat) : Loc := ⟨DMC_WIN_HOLES i, 0, 32⟩
def DMC_UNMAPPED : Nat := 0x1200300
def DMC_UNMAPPED_ma : Loc := ⟨DMC_UNMAPPED, 0, 36⟩
def DMC_UNMAPPED_count : Loc := ⟨DMC_UNMAPPED, 40, 24⟩
def DMC_CH_CNT (i : Nat) (j : Nat) : Nat := 0x1201000 + 64 * i + 4 * j
def DMC_CH_CNT_count (i : Nat) (j : Nat) : Loc := ⟨DMC_CH_CNT i j, 0, 32⟩
def CMP_CFG : Nat := 0x1300000
def CMP_CFG_sw_inflate : Loc := ⟨CMP_CFG, 0, 4⟩
def CMP_CFG_sw_deflate : Loc := ⟨CMP_CFG, 8, 3⟩
def CMP_UNIT_STATUS (i : Nat) : Nat := 0x1300100 + 4 * i
def CMP_UNIT_STATUS_busy (i : Nat) : Loc := ⟨CMP_UNIT_STATUS i, 0, 1⟩
def CMP_UNIT_STATUS_requester (i : Nat) : Loc := ⟨CMP_UNIT_STATUS i, 1, 2⟩
def CMP_UNIT_STATUS_client (i : Nat) : Loc := ⟨CMP_UNIT_STATUS i, 4, 4⟩
def CMP_UNIT_STATUS_done_kib (i : Nat) : Loc := ⟨CMP_UNIT_STATUS i, 8, 24⟩
def CMP_CNT (i : Nat) (j : Nat) (k : Nat) : Nat := 0x1301020 + 128 * i + 32 * j + 4 * k
def CMP_CNT_count (i : Nat) (j : Nat) (k : Nat) : Loc := ⟨CMP_CNT i j k, 0, 32⟩
def BLK_CFG : Nat := 0x1400000
def BLK_CFG_dead_floor : Loc := ⟨BLK_CFG, 0, 10⟩
def BLK_STATUS : Nat := 0x1400004
def BLK_STATUS_busy : Loc := ⟨BLK_STATUS, 0, 1⟩
def BLK_STATUS_op : Loc := ⟨BLK_STATUS, 1, 2⟩
def BLK_STATUS_client : Loc := ⟨BLK_STATUS, 4, 4⟩
def BLK_STATUS_rows : Loc := ⟨BLK_STATUS, 8, 15⟩
def BLK_STATUS_waiting : Loc := ⟨BLK_STATUS, 23, 9⟩
def BLK_LAST : Nat := 0x1400008
def BLK_LAST_rows : Loc := ⟨BLK_LAST, 0, 15⟩
def BLK_LAST_overlap : Loc := ⟨BLK_LAST, 15, 1⟩
def BLK_LAST_client : Loc := ⟨BLK_LAST, 16, 4⟩
def BLK_LAST_TAG : Nat := 0x140000C
def BLK_LAST_TAG_tag : Loc := ⟨BLK_LAST_TAG, 0, 32⟩
def BLK_CNT (i : Nat) : Nat := 0x1400040 + 4 * i
def BLK_CNT_count (i : Nat) : Loc := ⟨BLK_CNT i, 0, 32⟩
def PFC_GLOBAL : Nat := 0x1500000
def PFC_GLOBAL_freeze : Loc := ⟨PFC_GLOBAL, 0, 1⟩
def PFC_GLOBAL_snap : Loc := ⟨PFC_GLOBAL, 1, 1⟩
def PFC_GLOBAL_hold : Loc := ⟨PFC_GLOBAL, 2, 1⟩
def PFC_GLOBAL_snap_valid : Loc := ⟨PFC_GLOBAL, 3, 1⟩
def PFC_GLOBAL_snap_lost : Loc := ⟨PFC_GLOBAL, 8, 8⟩
def PFC_SNAP_TIME : Nat := 0x1500008
def PFC_SNAP_TIME_t : Loc := ⟨PFC_SNAP_TIME, 0, 64⟩
def PFC_METER_CFG : Nat := 0x1500010
def PFC_METER_CFG_window : Loc := ⟨PFC_METER_CFG, 0, 20⟩
def PFC_CTL (i : Nat) : Nat := 0x1501000 + 16 * i
def PFC_CTL_event (i : Nat) : Loc := ⟨PFC_CTL i, 0, 8⟩
def PFC_CTL_inst (i : Nat) : Loc := ⟨PFC_CTL i, 8, 8⟩
def PFC_CTL_enable (i : Nat) : Loc := ⟨PFC_CTL i, 16, 1⟩
def PFC_CTL_occ (i : Nat) : Loc := ⟨PFC_CTL i, 17, 1⟩
def PFC_CTL_chain (i : Nat) : Loc := ⟨PFC_CTL i, 18, 1⟩
def PFC_CTL_overflow (i : Nat) : Loc := ⟨PFC_CTL i, 19, 1⟩
def PFC_CTL_owner (i : Nat) : Loc := ⟨PFC_CTL i, 20, 4⟩
def PFC_THRESH (i : Nat) : Nat := 0x1501004 + 16 * i
def PFC_THRESH_n (i : Nat) : Loc := ⟨PFC_THRESH i, 0, 16⟩
def PFC_VAL (i : Nat) : Nat := 0x1501008 + 16 * i
def PFC_VAL_count (i : Nat) : Loc := ⟨PFC_VAL i, 0, 48⟩
def PFC_METER_LAST (i : Nat) : Nat := 0x1502000 + 32 * i
def PFC_METER_LAST_bytes (i : Nat) : Loc := ⟨PFC_METER_LAST i, 0, 64⟩
def PFC_METER_MAX (i : Nat) : Nat := 0x1502008 + 32 * i
def PFC_METER_MAX_bytes (i : Nat) : Loc := ⟨PFC_METER_MAX i, 0, 64⟩
def PFC_METER_END (i : Nat) : Nat := 0x1502010 + 32 * i
def PFC_METER_END_time (i : Nat) : Loc := ⟨PFC_METER_END i, 0, 64⟩
def PFC_METER_WIN (i : Nat) : Nat := 0x1502018 + 32 * i
def PFC_METER_WIN_windows (i : Nat) : Loc := ⟨PFC_METER_WIN i, 0, 32⟩
def PFC_SNAP (i : Nat) : Nat := 0x1504000 + 8 * i
def PFC_SNAP_count (i : Nat) : Loc := ⟨PFC_SNAP i, 0, 48⟩
def PFC_METER_SNAP (i : Nat) : Nat := 0x1505000 + 8 * i
def PFC_METER_SNAP_bytes (i : Nat) : Loc := ⟨PFC_METER_SNAP i, 0, 64⟩
def PFC_SAMPLE_CFG : Nat := 0x1506000
def PFC_SAMPLE_CFG_tagged : Loc := ⟨PFC_SAMPLE_CFG, 0, 1⟩
def PFC_SAMPLE_CFG_k : Loc := ⟨PFC_SAMPLE_CFG, 1, 5⟩
def PFC_SAMPLE_CFG_precise : Loc := ⟨PFC_SAMPLE_CFG, 6, 1⟩
def PFC_SAMPLE_CFG_items : Loc := ⟨PFC_SAMPLE_CFG, 7, 5⟩
def PFC_SAMPLE_CFG_threshold : Loc := ⟨PFC_SAMPLE_CFG, 16, 16⟩
def PFC_SAMPLE_SEED : Nat := 0x1506004
def PFC_SAMPLE_SEED_seed : Loc := ⟨PFC_SAMPLE_SEED, 0, 32⟩
def PFC_BUF_BASE : Nat := 0x1506008
def PFC_BUF_BASE_base : Loc := ⟨PFC_BUF_BASE, 0, 24⟩
def PFC_BUF_SIZE : Nat := 0x150600C
def PFC_BUF_SIZE_s : Loc := ⟨PFC_BUF_SIZE, 0, 5⟩
def PFC_BUF_WR : Nat := 0x1506010
def PFC_BUF_WR_index : Loc := ⟨PFC_BUF_WR, 0, 25⟩
def PFC_BUF_RD : Nat := 0x1506014
def PFC_BUF_RD_index : Loc := ⟨PFC_BUF_RD, 0, 25⟩
def PFC_BUF_LOST : Nat := 0x1506018
def PFC_BUF_LOST_records : Loc := ⟨PFC_BUF_LOST, 0, 64⟩
def PFC_BUF_WRITTEN : Nat := 0x1506020
def PFC_BUF_WRITTEN_records : Loc := ⟨PFC_BUF_WRITTEN, 0, 64⟩
def FLT_RESET_STATUS : Nat := 0x1600000
def FLT_RESET_STATUS_level : Loc := ⟨FLT_RESET_STATUS, 0, 3⟩
def FLT_RESET_STATUS_cause : Loc := ⟨FLT_RESET_STATUS, 3, 5⟩
def FLT_RESET_STATUS_report_ready : Loc := ⟨FLT_RESET_STATUS, 8, 1⟩
def FLT_RESET_STATUS_dram_lost : Loc := ⟨FLT_RESET_STATUS, 9, 1⟩
def FLT_RESET_STATUS_power_fail : Loc := ⟨FLT_RESET_STATUS, 10, 1⟩
def FLT_RESET_STATUS_shutdown : Loc := ⟨FLT_RESET_STATUS, 11, 1⟩
def FLT_RESET_STATUS_nvm_interrupted : Loc := ⟨FLT_RESET_STATUS, 12, 1⟩
def FLT_RESET_STATUS_entries : Loc := ⟨FLT_RESET_STATUS, 16, 16⟩
def FLT_INFLIGHT : Nat := 0x1600004
def FLT_INFLIGHT_count : Loc := ⟨FLT_INFLIGHT, 0, 13⟩
def FLT_INFLIGHT_waiting : Loc := ⟨FLT_INFLIGHT, 16, 1⟩
def FLT_RESET_TIME : Nat := 0x1600008
def FLT_RESET_TIME_time : Loc := ⟨FLT_RESET_TIME, 0, 64⟩
def FLT_FN_REPORT (i : Nat) : Nat := if i < 12 then 0x1600010 + 4 * i else 0x2000000 + 4 * i
def FLT_FN_REPORT_entries (i : Nat) : Loc := ⟨FLT_FN_REPORT i, 0, 16⟩
def FLT_FN_REPORT_held (i : Nat) : Loc := ⟨FLT_FN_REPORT i, 16, 1⟩
def FLT_CNT (i : Nat) : Nat := 0x1600040 + 4 * i
def FLT_CNT_count (i : Nat) : Loc := ⟨FLT_CNT i, 0, 32⟩
def HST_LINK_STATUS (i : Nat) : Nat := 0x1700000 + 4 * i
def HST_LINK_STATUS_rate (i : Nat) : Loc := ⟨HST_LINK_STATUS i, 0, 3⟩
def HST_LINK_STATUS_width (i : Nat) : Loc := ⟨HST_LINK_STATUS i, 3, 5⟩
def HST_LINK_STATUS_flit (i : Nat) : Loc := ⟨HST_LINK_STATUS i, 8, 1⟩
def HST_LINK_STATUS_bifurcated (i : Nat) : Loc := ⟨HST_LINK_STATUS i, 9, 1⟩
def HST_EVT_UNROUTED : Nat := 0x1700010
def HST_EVT_UNROUTED_count : Loc := ⟨HST_EVT_UNROUTED, 0, 32⟩
def HST_FN_CFG (i : Nat) : Nat := 0x1700100 + 16 * i
def HST_FN_CFG_present (i : Nat) : Loc := ⟨HST_FN_CFG i, 0, 1⟩
def HST_FN_CFG_weight (i : Nat) : Loc := ⟨HST_FN_CFG i, 4, 4⟩
def HST_FN_CFG_deferred (i : Nat) : Loc := ⟨HST_FN_CFG i, 8, 8⟩
def HST_FN_RIGHTS (i : Nat) : Nat := 0x1700104 + 16 * i
def HST_FN_RIGHTS_ranges (i : Nat) : Loc := ⟨HST_FN_RIGHTS i, 1, 14⟩
def HST_FN_APERTURE (i : Nat) : Nat := 0x1700108 + 16 * i
def HST_FN_APERTURE_base (i : Nat) : Loc := ⟨HST_FN_APERTURE i, 0, 12⟩
def HST_FN_APERTURE_size (i : Nat) : Loc := ⟨HST_FN_APERTURE i, 16, 13⟩
def HST_FN_DROPS (i : Nat) : Nat := 0x170010C + 16 * i
def HST_FN_DROPS_count (i : Nat) : Loc := ⟨HST_FN_DROPS i, 0, 32⟩

end R

/-- The indices of the element that holds byte `rel` of an array, and the byte within it. -/
def locateIn : List (Nat × Nat) → Nat → Option (List Nat × Nat)
  | [], rel => some ([], rel)
  | (st, n) :: ds, rel =>
    if rel / st < n then (locateIn ds (rel % st)).map fun p => ((rel / st) :: p.1, p.2) else none

/-- The element of a register array that holds BAR0 byte `off`: its indices and the byte within it. -/
def RegSpec.hit (r : RegSpec) (off : Nat) : Option (List Nat × Nat) :=
  if off < r.base then none else
  match locateIn r.dims (off - r.base) with
  | some (ix, b) => if b < r.bytes then some (ix, b) else none
  | none => none

/-- The register element at BAR0 byte `off`: its row, its indices and the byte within it; none where the offset is
unassigned (R508). -/
def findReg (off : Nat) : Option (RegSpec × List Nat × Nat) :=
  (regsOfBlock (off / 0x100000)).findSome? fun r => (r.hit off).map fun h => (r, h.1, h.2)

/-- The value a register's field table gives at reset. -/
def RegSpec.resetWord (r : RegSpec) : RegWord :=
  BitVec.ofNat 64 (r.fields.foldl (fun a f => a + (f.reset % 2 ^ f.width) <<< f.lo) 0)

/-- The registers whose Reset column reads "factory" (R512). -/
def isFactoryReg (off : Nat) : Bool :=
  off == R.GLB_STEP || off == R.GLB_SERIAL || off == R.GLB_FW_VER ||
  (decide (R.CAL_BENT_PLAN 0 ≤ off) && decide (off ≤ R.CAL_BENT_PLAN 7) && (off - R.CAL_BENT_PLAN 0) % 16 == 0) ||
  (decide (R.CAL_ITEM_STATE 0 ≤ off) && decide (off ≤ R.CAL_ITEM_STATE 127) && (off - R.CAL_ITEM_STATE 0) % 16 == 0)

/-- The value of the register element at offset `off` after reset: the field table's, the values that depend on the
index (SCH_CLASS_PREC, window 0, client 0), or the factory value. -/
def resetReg (off : Nat) : RegWord :=
  if isFactoryReg off then Config.factoryReg off
  else if off == R.HST_FN_CFG 0 then 1
  else if off == R.HST_FN_RIGHTS 0 then 0x7FFE
  else if off == R.DMC_WIN_CFG 0 then 0x57
  else if off == R.DMC_WIN_BASE 0 then 0x10000000
  else if off == R.DMC_WIN_ROWS 0 then 0x800000
  else match findReg off with
    | some (r, ix, _) =>
      if r.base == R.SCH_CLASS_PREC 0 then BitVec.ofNat 64 (15 - ix.headD 0)
      else if r.base == R.DMC_WIN_CFG 0 then 0
      else r.resetWord
    | none => 0

end Sys2Proof
end

