-- ==== Sys2Proof/Machine/Store.lean ====
section
/-! DEFINITION. Sparse stores: sorted lists of (key, value) pairs with a default value per key, in one canonical form
(keys strictly rising, no entry equal to its default). Registers, memories and arrays of records are held so. -/

namespace Sys2Proof

/-- A sparse store of values keyed by numbers. -/
abbrev Store (β : Type) := List (Nat × β)

/-- The value at a key: the listed one, or the default. -/
def Store.get {β : Type} (d : Nat → β) : Store β → Nat → β
  | [], a => d a
  | (k, v) :: m, a => if a = k then v else Store.get d m a

/-- The store without a key. -/
def Store.erase {β : Type} (m : Store β) (a : Nat) : Store β := m.filter fun e => e.1 ≠ a

/-- Sorted insertion, replacing an entry of the same key. -/
def Store.insert {β : Type} : Store β → Nat → β → Store β
  | [], a, v => [(a, v)]
  | (k, x) :: m, a, v =>
    if a < k then (a, v) :: (k, x) :: m
    else if a = k then (a, v) :: m
    else (k, x) :: Store.insert m a v

/-- Writing a value; writing the default removes the entry. -/
def Store.set {β : Type} [DecidableEq β] (d : Nat → β) (m : Store β) (a : Nat) (v : β) : Store β :=
  if v = d a then Store.erase m a else Store.insert m a v

/-- Applies a function to the value at a key. -/
def Store.modify {β : Type} [DecidableEq β] (d : Nat → β) (m : Store β) (a : Nat) (f : β → β) : Store β :=
  Store.set d m a (f (Store.get d m a))

/-- Keys strictly rise, from `lo` on. -/
def Store.sortedFrom {β : Type} : Nat → Store β → Bool
  | _, [] => true
  | lo, (k, _) :: m => decide (lo ≤ k) && Store.sortedFrom (k + 1) m

/-- The canonical form: keys strictly rising and no entry equal to its default. -/
def Store.wf {β : Type} [DecidableEq β] (d : Nat → β) (m : Store β) : Bool :=
  Store.sortedFrom 0 m && m.all fun e => decide (e.2 ≠ d e.1)

end Sys2Proof
end

