-- ==== Sys2Proof/Machine/State.lean ====
section
/-! DEFINITION. The state of the NLF-2560: one structure per chapter of the spec, all plain data. Every register of the
map lives in `regs`, keyed by its BAR0 offset; what no register holds stands in the structures below. -/

namespace Sys2Proof.Machine

open Sys2Proof

/-! ## Outcomes -/

/-- Why a step may stop with a fault: no command of this block does (log entry 8). -/
inductive Fault where
  /-- Raised by no command: every error of this part is a reply, an event or a register value. Safe. -/
  | none
deriving DecidableEq, Repr

/-- Why a step may refuse a command. -/
inductive Refusal where
  /-- Raised by an arm of `exec` whose command has no meaning yet. Safe. -/
  | notModelled (mnemonic : String)
deriving DecidableEq, Repr

/-! ## What leaves the module -/

/-- Something the module puts on one of its interfaces. -/
inductive Output where
  /-- A write to a client's bus address space. -/
  | hostWrite (client addr : Nat) (data : List Byte)
  /-- An MSI-X vector raised towards a client. -/
  | msix (client vector : Nat)
  /-- The completion of a read of BAR0 or BAR4; `bad` marks poisoned data (R369). -/
  | readData (client off : Nat) (data : List Byte) (bad : Bool)
  /-- Bytes of the stream of a panel lane group (R246, R251). -/
  | stream (group : Nat) (data : List Byte)
  /-- A stripe of a panel lane group (R250): each lane's codeword and whether it is masked, or a pause stripe. -/
  | stripe (group : Nat) (words : List (Nat × Bool)) (pause : Bool)
  /-- A forward message of 16 bytes in the next control stripe of a group (R254). -/
  | forward (group : Nat) (data : List Byte)
  /-- The data of a served DRAM read, at the NoC port of its requester; `bad` marks a read in error (R369). -/
  | dramRead (ma : Nat) (data : List Byte) (bad : Bool)
  /-- A packet on a Worvel port (R319). -/
  | worvel (port : Nat) (data : List Byte)
  /-- A frame on an Ethernet port (R336). -/
  | ethFrame (port : Nat) (data : List Byte)
  /-- A PTP_PULSE or trigger edge on a pin (R352): pin and level. -/
  | pin (number : Nat) (level : Bool)
  /-- Bytes that an SMBus read returns (R520). -/
  | smbus (data : List Byte)
deriving DecidableEq, Repr

/-! ## The ray field, scenes and layers (chapters 1 and 2) -/

/-- A half-open rectangle [x0, x1) × [y0, y1). -/
structure Rect where
  x0 : Int
  x1 : Int
  y0 : Int
  y1 : Int
deriving DecidableEq, Repr

/-- What R22, R165 and R270 compare of an accepted descriptor. -/
structure Geometry where
  hx : Nat
  hy : Nat
  vx : Nat
  vy : Nat
  depth : Nat
  /-- x0, y0, width, height of each segment, then the quad masks. -/
  segs : List Nat
deriving DecidableEq, Repr

/-- A copy-forward still to run after a clamp (R26, R92, R168): `kind` 0 tiles of layer `who`, 1 correction words,
2 signatures of check region `who`. -/
structure CopyFwd where
  kind : Nat
  group : Nat
  who : Nat
  rects : List Rect := []
  members : List Nat := []
deriving DecidableEq, Repr

/-- What the scene block holds beside its registers. -/
structure ScnState where
  /-- The previous accepted descriptor (R22). -/
  prev : Option Geometry := none
  /-- Slope shadow written by software since the last clamp of SCN_VIEW_CTRL.group (R30). -/
  slopeLoaded : Bool := false
  /-- The active copy of the correction field, and the rectangles written into the staging copy (R26). -/
  vcfCopy : Nat := 0
  vcfRects : List Rect := []
  /-- The regions that those rectangles change, found when each was received (R205). -/
  vcfRegions : List Nat := []
  /-- Hx · Hy changed at a link-up: corr_enable is to be cleared at the next clamp (R25). -/
  vcfStale : Bool := false
  copying : List CopyFwd := []
  /-- Layers released, to become unowned at the clamp that disables them (R47). -/
  releasing : List Nat := []
  /-- Loads that wait for a copy-forward: command, kind, group, as in `CopyFwd`. -/
  waiting : List (Nat × Nat × Nat) := []
deriving DecidableEq, Repr

/-! ## Damage and region queues (chapter 9) -/

/-- One region and its queue (R208). -/
structure Region where
  /-- 0 CLEAN, 1 QUEUED, 2 FILLING, 3 SENDING, 4 SENDING_REDIRTY. -/
  state : Nat := 0
  coalesced : Nat := 0
  /-- The node 16 q + c of its entry or of its selection, the entry's tag and its time of entry (R219). -/
  node : Nat := 0
  tag : Nat := 0
  since : Nat := 0
  /-- Whether the entry's age has been found past max_delay (R234). -/
  late : Bool := false
  /-- The pinned group the entry was mapped with (R213, R214). -/
  pin : Option Nat := none
deriving DecidableEq, Repr

/-- What the damage block holds beside its registers. -/
structure DmgState where
  regions : Store Region := []
  /-- Whether a grid has been active since the last reset (cause 1 of R207). -/
  gridEver : Bool := false
  /-- Whether the active grid was set by software (R28). -/
  swGrid : Bool := false
  /-- The pending grid: Kx, Ky and its command (R29). -/
  pendGrid : Option (Nat × Nat × Nat) := none
  /-- The pending maps: groups 0 to 15, fenced layers 16 to 23 (R205). -/
  maps : Store (List Nat) := []
deriving DecidableEq, Repr

/-! ## The push scheduler (chapter 10) -/

/-- One class node (R219, R222 to R224, R231 to R236). Credit terms are in units of 2^-16 byte. -/
structure Node where
  v : Nat := 0
  credit : Int := 0
  e : Nat := 0
  s : Nat := 0
  h : Nat := 0
  l : Nat := 0
  z : Int := 0
  planned : Bool := true
  unusable : Bool := false
  /-- Bytes selected and not yet sent. -/
  selected : Nat := 0
  /-- Backlogged time with the gate open, ns, and payload bytes sent, in the accounting interval. -/
  openTime : Nat := 0
  sent : Nat := 0
  depthHist : List Nat := List.replicate 16 0
  delayHist : List Nat := List.replicate 16 0
deriving DecidableEq, Repr

/-- A push gate list (R225, R226): entries (gates, interval), base, cycle, anchor, and the command that loaded it; no
entry is a removal. -/
structure GateList where
  entries : List (Nat × Nat)
  base : Nat
  cycle : Nat
  anchor : Nat
  cmd : Nat
deriving DecidableEq, Repr

/-- The gates of one lane group. -/
structure Gates where
  active : Option GateList := none
  /-- Start of the current cycle (PTP time). -/
  start : Nat := 0
  waiting : Option GateList := none
  /-- Start of the pending list; TE-anchored lists start at the first TE at or after it. -/
  waitStart : Nat := 0
  /-- The gates that stay in force until `start`, after the clock has been stepped (R348). -/
  held : Option Nat := none
deriving DecidableEq, Repr

/-- The stages of a region in a bay: filling, filled, synthesising, fully in the ray buffer. -/
inductive Stage where
  | filling | filled | synth | buffered
deriving DecidableEq, Repr

/-- What a synthesis that has started works from (R130, R147): the registers and active values, the corrections of the region's
hogels row by row, and per decode stream the place of its active picture and the pages that hold it. -/
structure Under where
  regs : Store RegWord
  active : Store RegWord
  vcf : List (Int × Int)
  pics : List (Nat × Nat × List (Nat × Nat))
deriving DecidableEq, Repr

/-- A selected region that is not done (R208, R216): its bay, its fill, its synthesis and its way onto the wire. -/
structure Job where
  id : Nat
  region : Nat
  node : Nat
  bay : Nat
  bytes : Nat
  /-- Selected bytes not yet sent (R217). -/
  left : Nat
  stage : Stage := .filling
  /-- A re-synthesis after a first mismatch (R171). -/
  again : Bool := false
  /-- Module DRAM as the fill read it (R147). -/
  texels : List Host.Cell := []
  /-- Layers of the list whose footprint is past the budget are fetched on demand (R149). -/
  overBudget : Bool := false
  demand : Nat := 0
  /-- What its synthesis works from, while it runs. -/
  under : Option Under := none
  /-- The packed ray rows (R161), known from synthesis start. -/
  rows : List (List Byte) := []
  rays : Nat := 0
  /-- Rays in or past the ray buffer, and the early-launch point (R151). -/
  ready : Nat := 0
  launchAt : Nat := 0
  cpr2 : Bool := false
  pieces : Bool := false
  /-- Whether it waits among its group's requests, and the ends of the pieces asked for and not sent whole, as ray rows (R152). -/
  asked : Bool := false
  ends : List Nat := []
  /-- Ray rows put on the wire so far, and whether its first burst has started. -/
  sent : Nat := 0
  started : Bool := false
  startedAt : Nat := 0
  frame : Nat := 0
  phase : Nat := 0
  /-- Member of an enabled check region: c, and the valid flag and signature of the entry in force (R171). -/
  check : Option (Nat × Bool × Nat) := none
  signature : Nat := 0
  /-- Header flags of its burst: checked, safe (chapter 11). -/
  checked : Bool := false
  safe : Bool := false
  /-- Captures that record this synthesis (R180), and whether its bay sistered during it (R314). -/
  caps : List Nat := []
  sistered : Bool := false
  /-- Its synthesis was cut short after its burst had launched (R303, R304). -/
  cut : Bool := false
deriving DecidableEq, Repr

/-- A re-synthesis that waits for its selection (R220): region, node, check region and the bay that mismatched. -/
structure Again where
  region : Nat
  node : Nat
  check : Nat
  bay : Nat
deriving DecidableEq, Repr

/-- What the scheduler and the bays hold beside their registers. -/
structure SchState where
  nodes : Store Node := []
  gates : Store Gates := []
  jobs : List Job := []
  nextJob : Nat := 0
  again : List Again := []
  /-- The group served last (R216). -/
  lastGroup : Nat := 15
  /-- Delay histograms of the watched queues (R236). -/
  watched : Store (List Nat) := []
  /-- Delay breaches (R235): key 2 c the nodes not yet posted, key 2 c + 1 whether one was posted in this interval. -/
  breaches : Store Nat := []
deriving DecidableEq, Repr

/-! ## Bays and bents (chapters 6 and 13) -/

/-- A drain in progress (R306, R312): its target and retirement cause, and the items that end with it. Targets of a bent
are its states 0, 3 and 4; of a bay 4 to retire, 5 to test for its return, 6 to test only. -/
structure Drain where
  target : Nat
  cause : Nat := 0
  waiters : List (Nat × Nat) := []
deriving DecidableEq, Repr

/-- A bay under self-test (R305): 0 as its bent wakes, 1 for its return, 2 on request. -/
structure BayTest where
  kind : Nat
  waiters : List (Nat × Nat) := []
deriving DecidableEq, Repr

/-- A RAY_PROBE (R153): its command, bay and rays; once it has taken the bay's fill side, what its rays work from, with the
correction of each; whether its bay sistered meanwhile. -/
structure Probe where
  cmd : Nat
  bay : Nat
  first : Nat
  count : Nat
  under : Option Under := none
  sistered : Bool := false
deriving DecidableEq, Repr

/-- What the engine block holds beside its registers. -/
structure EngState where
  /-- Draining bents, and bays draining under BAY_SERVICE. -/
  bents : Store (Option Drain) := []
  bays : Store (Option Drain) := []
  /-- Bays under self-test. -/
  tests : Store (Option BayTest) := []
  /-- Bents on their way into service, with the items that end there (R301, R313). -/
  waking : Store (Option (List (Nat × Nat))) := []
  /-- Drained bents that go back into service at once under a restored plan, with the items that end there (R467). -/
  resume : Store (Option (List (Nat × Nat))) := []
  /-- The bent chosen last (R300), as its place in the cyclic order. -/
  lastBent : Nat := 7
  /-- Probes dispatched and not done. -/
  probes : List Probe := []
  /-- Requested bent clocks not yet applied, MHz (R146). -/
  clockAsked : Store (Option Nat) := []
deriving DecidableEq, Repr

/-! ## Square checks (chapter 7) -/

/-- The definition of a check region (R163). -/
structure CheckDef where
  enable : Bool := false
  group : Nat := 0
  gx0 : Nat := 0
  gy0 : Nat := 0
  gw : Nat := 0
  gh : Nat := 0
  safe : Nat := 0
deriving DecidableEq, Repr

/-- A capture in progress (R180): command, regions still to be recorded, and the boundaries left. -/
structure Capture where
  cmd : Nat
  first : Nat
  open_ : List Nat
  frames : Nat
  dest : Nat
deriving DecidableEq, Repr

/-- What the glue-up block holds beside its registers. -/
structure GluState where
  shadow : Store CheckDef := []
  /-- Check regions whose shadow definition waits for a clamp. -/
  dirty : List Nat := []
  /-- Members loaded into the staging copy, per check region. -/
  loaded : Store (List Nat) := []
  /-- Member regions whose first comparison is pending (R177). -/
  pending : List (Nat × Nat) := []
  /-- Check regions of a client that was reset: unowned once the clamp that disables them has come (R489). -/
  releasing : List Nat := []
  /-- Regions marked substituted (R172). -/
  substituted : List Nat := []
  captures : List Capture := []
  /-- First mismatches since the last SQC_MISMATCH, per check region (R181). -/
  sinceMismatch : Store Nat := []
deriving DecidableEq, Repr

/-! ## Clamps and fences (chapter 8) -/

/-- A FENCE_ARM in progress: its command, wait value, boundaries passed. -/
structure Arm where
  cmd : Nat
  timeout : Nat
  passed : Nat := 0
deriving DecidableEq, Repr

/-- What a boundary found for what is to take effect (R34, R186): key g for group g, 16 + k for a flip of layer k; the register
file, the check-region definitions that wait for the group's clamp, and the layers to be released. -/
structure Snap where
  key : Nat
  regs : Store RegWord
  checks : List (Nat × CheckDef)
  releasing : List Nat
  /-- The scene frame that the group commits there. -/
  frame : Nat
deriving DecidableEq, Repr

/-- What a boundary decided and the application point is still to apply (R187). -/
structure DueClamps where
  groups : List (Nat × Nat) := []
  flips : List Nat := []
  snaps : List Snap := []
deriving DecidableEq, Repr

/-- What keeps a group from being ready: the layer mask, correction load, signature load, copy-forward; and a late
stream that feeds no single layer (R186). -/
structure Late where
  layers : Nat
  vcf : Bool
  sqc : Bool
  copy : Bool
  other : Bool
deriving DecidableEq, Repr

/-- A wall group as the cut-off of boundary `n` found it (R195, R328): due, and what kept it from being ready. -/
structure CutOff where
  n : Nat
  due : Bool
  late : Late
deriving DecidableEq, Repr

/-- What the clamp block holds beside its registers. -/
structure ClpState where
  /-- The arm pending per group: time, and its command, none for an arm by a trigger (R197, R350). -/
  arms : Store (Option (Nat × Option Nat)) := []
  fences : Store (Option Arm) := []
  /-- Boundaries that have come and not yet been sampled, by segment: PTP time. -/
  boundary : Store (Option Nat) := []
  due : DueClamps := {}
  /-- Whether shadow writes wait for a flip of fenced layer k. -/
  flipRegs : Store Bool := []
  /-- Segment 0 has reached a boundary at which a pending grid may switch (R29). -/
  gridDue : Bool := false
  /-- Wall decisions in hand for the next boundary: 0 none, 1 hold, 2 clamp (R328). -/
  decision : Store Nat := []
  /-- The scene frame that the decision in hand names. -/
  decisionFrame : Store Nat := []
  /-- The wall member that was not ready, x + 16 y. -/
  notReady : Store Nat := []
  /-- The boundary index and the agreed clamp time of the decision in hand (R328). -/
  decisionAt : Store Nat := []
  decisionTime : Store Nat := []
  /-- What the last cut-off found, per wall group (R195). -/
  samples : Store (Option CutOff) := []
  /-- Whether CLAMP_LATE was posted for the frame held now, per group. -/
  lateSaid : Store Bool := []
  /-- Whether WALL_CLAMP_HELD was posted for the frame held now, per group (R196). -/
  wallSaid : Store Bool := []
  /-- The layers whose late bit the first hold of the frame set, per group (R189). -/
  lateLayers : Store Nat := []
deriving DecidableEq, Repr

/-! ## Commands, rings, events (chapter 3) -/

/-- Where a fetched command stands: waiting for dispatch, dispatched and waiting to start, running on an engine,
DEFERRED, or finally replied with the reply not yet on its ring. -/
inductive CmdPhase where
  | queued | started | running | deferred | replied
deriving DecidableEq, Repr

/-- The result of one item of a command: status, reason and value (R74). -/
structure Item where
  status : Nat
  reason : Nat := 0
  value : Nat := 0
deriving DecidableEq, Repr

/-- A command in flight (R86): one fetched without a final reply on its ring. -/
structure Cmd where
  id : Nat
  client : Nat
  ring : Nat
  /-- The 64 packet bytes. -/
  packet : List Byte
  /-- The parameter bytes, from packet byte 8 on, as the module reads them (R69, R70). -/
  params : List Byte := []
  /-- Rights and aperture with which it was fetched (R83). -/
  ranges : Nat
  base : Nat
  size : Nat
  /-- Whether its opcode can reply DEFERRED, and whether that reply has been written (R63, R86). -/
  defers : Bool
  second : Bool := false
  phase : CmdPhase := .queued
  /-- Items named, with their results as far as they are known; `none` is an item still open. -/
  items : List (Option Item) := []
  /-- What the running command keeps for later steps (its meaning says what). -/
  aux : List Nat := []
deriving DecidableEq, Repr

/-- A reply waiting to be written (R67, R68). -/
structure Reply where
  id : Nat
  client : Nat
  ring : Nat
  opcode : Nat
  status : Nat
  tag : Nat
  total : Nat
  done : Nat
  failed : Nat
  detail : Nat
  final : Bool
  /-- Whether writing it raises the vector (R68, R413). -/
  signal : Bool
  /-- The time a watermark reply carries (R413); the others carry the time of their write. -/
  at_ : Option Nat := none
deriving DecidableEq, Repr

/-- A posted event, not yet written (R81). `owner` is the client that owns the resource its source names; `skip` is the
event ring that the event does not reach (R537), `only` the one ring that a reset report is announced to (R493). -/
structure Event where
  code : Nat
  source : Nat
  data : Nat
  time : Nat
  owner : Option Nat
  skip : Option Nat
  only : Option Nat := none
deriving DecidableEq, Repr

/-- What the command block holds beside its registers. -/
structure CmdState where
  inflight : List Cmd := []
  replies : List Reply := []
  nextId : Nat := 0
  /-- The last tail rung of each command ring (R60). -/
  tails : Store Nat := []
  /-- Commands fetched and final replies written, per ring pair (R86). -/
  fetched : Store Nat := []
  finals : Store Nat := []
  events : List Event := []
  /-- Ring pairs whose kept replies are still to be written before fetch resumes (R67). -/
  catchUp : Store Bool := []
  /-- The last head rung of each event ring (R82). -/
  evHeads : Store Nat := []
  /-- Events lost since the last EVENTS_LOST, per event ring (R82). -/
  lostSince : Store Nat := []
  /-- The last time each rate-limited event was posted, plus 1; 0 is never. -/
  stamps : Store Nat := []
  /-- End of the holdoff period per vector source: completion ring i, event ring 256 + e, receive ring 512 + r,
  transmit ring 1024 + t. -/
  holdUntil : Store Nat := []
  /-- Whether a signal waits for the end of the holdoff period, same keys. -/
  signalWaits : Store Bool := []
  /-- Arbitration (R78): the client being served, the commands left in its turn, the ring each client served last. -/
  turnClient : Nat := 0
  turnLeft : Nat := 0
  lastRing : Store Nat := []
deriving DecidableEq, Repr

/-! ## The host links and the register hub (chapters 3 and 23) -/

/-- The half of a 64-bit register that a client has latched by reading, or staged by writing, the low half (R507). -/
structure Half where
  off : Nat
  value : Nat
deriving DecidableEq, Repr

/-- A write that the hub holds for a sleeping power domain: the bits `mask` of the register at `off` become those of `value`
(R505). -/
structure HeldWrite where
  domain : Nat
  off : Nat
  mask : Nat
  value : Nat
deriving DecidableEq, Repr

/-- What the host interface holds beside its registers. -/
structure HstState where
  vfEnable : Bool := false
  numVFs : Nat := 0
  linkBUp : Bool := false
  /-- The half latched for each client (R507). -/
  readLatch : Store (Option Half) := []
  /-- The low halves staged, by 16 · offset + client (R507). -/
  writeStage : Store (Option Half) := []
  /-- Parts of 128-bit registers written and not yet applied (R507), by offset: the value, and 2^128 · a mask of its 4-byte
  parts. -/
  wideStage : Store Nat := []
  /-- Writes to registers of sleeping domains, in arrival order (R505). -/
  held : List HeldWrite := []
  /-- Changes of the status mirror's words 3 to 63 since reset (R514), and those words as last read. -/
  mirrorCount : Nat := 0
  mirrorWords : List Nat := []
deriving DecidableEq, Repr

/-! ## Trastos streams (chapter 4) -/

/-- A Trastos unit: its fragments, its marks and its fate. `stage`: 0 fragments still missing, 1 complete, 2 delivered,
3 lost. -/
structure TrsUnit where
  slot : Nat
  frame : Nat
  unit : Nat
  type : Nat
  /-- A packet of it has been accepted (R114). -/
  begun : Bool := true
  apron : Bool := false
  encrypted : Bool := false
  frags : List (Nat × List Byte) := []
  size : Option Nat := none
  /-- The lowest and the highest sequence number of its packets. -/
  lo : Nat := 0
  hi : Nat := 0
  damage : Option (Nat × Nat × Nat × Nat) := none
  crypto : List Byte := []
  stage : Nat := 0
  /-- Its bytes, as they were sent, once it is complete. -/
  data : List Byte := []
  /-- A pipe or an inflate unit has started it. -/
  started : Bool := false
  /-- Module clock at which it became complete. -/
  doneAt : Nat := 0
deriving DecidableEq, Repr

/-- `n` skipped sequence numbers from `seq` on, skipped at module clock `at_` (R94, R96). -/
structure Hole where
  seq : Nat
  n : Nat
  at_ : Nat
deriving DecidableEq, Repr

/-- A bound stream slot (R91, R94). -/
structure Stream where
  types : Nat := 0
  sources : Nat := 0
  codec : Nat := 0
  /-- The highest sequence accepted; none before the first packet. -/
  smax : Option Nat := none
  /-- How many sequence numbers, down from `smax`, are at or after the first one, up to 4,096. -/
  span : Nat := 0
  holes : List Hole := []
  lost : List Hole := []
  /-- Malformed packets since the last TRS_MALFORMED, and their first reason. -/
  bad : Nat := 0
  badReason : Nat := 0
deriving DecidableEq, Repr

/-- A commit marker (R102). -/
structure Marker where
  frame : Nat
  clampTime : Nat
  /-- (stream_id, units). -/
  entries : List (Nat × Nat)
deriving DecidableEq, Repr

/-- The Trastos side of a commit group (R104). -/
structure TrsGroup where
  committed : Option Nat := none
  markers : List Marker := []
  /-- The later frame into which unmarked frames are folded (R105). -/
  foldTo : Option Nat := none
  /-- Module clock of the last commit. -/
  stagedAt : Nat := 0
deriving DecidableEq, Repr

/-- A key slot (R111). -/
structure KeySlot where
  owner : Nat
  kid : List Byte := []
  key : List Byte
deriving DecidableEq, Repr

/-- What the ingest unit holds beside its registers. -/
structure TrsState where
  streams : Store Stream := []
  groups : Store TrsGroup := []
  units : List TrsUnit := []
  keks : Store (Option KeySlot) := []
  keys : Store (Option KeySlot) := []
  /-- Tiles written into staging copies since the last clamp: layer, texel rectangle. -/
  tiles : List (Nat × Rect) := []
  /-- Alternate bases, in 64 bytes, of unbound layers whose tiles still wait for a clamp (R93). -/
  loose : Store Nat := []
  /-- Hold-full drops since the last TRS_HOLD_FULL (R106). -/
  holdDrops : Nat := 0
deriving DecidableEq, Repr

/-! ## Decode pipes (chapter 5) -/

/-- An assigned decode stream, by 2 n + depth: its pipe, load and pool pages, and its output pictures (R122, R123). -/
structure DecStream where
  pipe : Nat
  codec : Nat
  rate : Nat
  load : Nat
  /-- The pages of the pool it holds, as runs of first page and count, in the order of its space. -/
  runs : List (Nat × Nat)
  /-- Byte offset of the output pictures in the pool space, and the bytes of each. -/
  outAt : Nat
  outBytes : Nat
  active : Option Nat := none
  staged : Option Nat := none
  ahead : Option Nat := none
  /-- Scene frame of the picture decoded ahead. -/
  aheadFrame : Nat := 0
  /-- Scene frame of the staged picture. -/
  stagedFrame : Nat := 0
  /-- The regions that pictures and concealments damage, by scene frame, found at receipt (R205): of what is staged, and of what
  waits for its scene frame. -/
  stagedDamage : List (Nat × List Nat) := []
  aheadDamage : List (Nat × List Nat) := []
  /-- Losses, as scene frame and unit, after which units are skipped until a random-access point (R127). -/
  skipping : List (Nat × Nat) := []
  /-- Displaced active pictures: slot, and the regions' jobs whose synthesis had started before the clamp (R123). -/
  retired : List (Nat × List Nat) := []
deriving DecidableEq, Repr

/-- What the decode block holds beside its registers. -/
structure DecState where
  streams : Store (Option DecStream) := []
  /-- The unit each pipe decodes: slot, frame, unit. -/
  busy : Store (Option (Nat × Nat × Nat)) := []
  /-- Late units since the last DEC_OVERRUN, per pipe. -/
  lateSince : Store Nat := []
  /-- The scene frames of DEC_CONCEAL per layer (R127), and the scene frames in which a height-field layer keeps both
  pictures (R126). -/
  said : Store (List Nat) := []
  kept : Store (List Nat) := []
deriving DecidableEq, Repr

/-! ## The panel link (chapter 11) -/

/-- A sent piece (R265): its sequence and region, the count of returned credits that covers it (R270), whether its credits
were written off, and whether its grid is no longer active (R208). -/
structure Piece where
  seq : Nat
  region : Nat
  need : Nat
  lost : Bool := false
  stale : Bool := false
deriving DecidableEq, Repr

/-- The piece on the wire (R251): its job, region, class node, first row, planned rows and sequence. -/
structure Wire where
  job : Nat
  region : Nat
  node : Nat
  first : Nat
  rows : Nat
  rowBytes : Nat
  seq : Nat
  cont : Bool
  /-- Credits taken so far (R256), and bytes of it that accounting has counted (R233). -/
  credits : Nat := 1
  counted : Nat := 0
deriving DecidableEq, Repr

/-- A change of lanes under way (R272): new mask, cause, and the commands and items that wait for block A. -/
structure LaneMap where
  mask : Nat
  cause : Nat
  waiters : List (Nat × Nat) := []
deriving DecidableEq, Repr

/-- What one lane group of the link holds beside its registers. The credit terms are those of R258. -/
structure PnlGroup where
  wire : Option Wire := none
  /-- Launch requests and continuations, oldest first, as job numbers; those that are continuations (R221). -/
  requests : List Nat := []
  conts : List Nat := []
  seq : Nat := 0
  pieces : List Piece := []
  g : Nat := 0
  r : Nat := 0
  u : Nat := 0
  xa : Nat := 0
  xo : Nat := 0
  /-- The count that a CREDIT message of the present start begins from. -/
  base : Nat := 0
  /-- A RESTART was sent and its baseline is awaited (R266). -/
  restarting : Bool := false
  /-- Lanes trained since the last TRAIN entry; lanes training again while the link is up; lanes trained again that wait
  for a block A (R273). -/
  trained : Nat := 0
  training : Nat := 0
  ready : Nat := 0
  /-- Pieces that left the 512 kept before returned credits covered them (R270). -/
  old : List Piece := []
  /-- The back-channel's loss of lock took the group out; its RESTART comes with the next lock (R266). -/
  lockOut : Bool := false
  /-- Time of the HOLD in force, ns of F, and HOLD_LONG said. -/
  heldAt : Option Nat := none
  longSaid : Bool := false
  map : Option LaneMap := none
  /-- Lanes being retrained for LANE_SERVICE: command, item, lane. -/
  retrain : List (Nat × Nat × Nat) := []
  creditShort : Bool := false
  naksSince : Nat := 0
  underrunsSince : Nat := 0
deriving DecidableEq, Repr

/-- What one segment of the link holds beside its registers. -/
structure PnlSeg where
  /-- F at the last accepted TE and at the last pin edge; none before the first. -/
  lastTe : Option Nat := none
  lastPin : Option Nat := none
  /-- The last accepted TE came by pin; the frame counts of the last TE messages, newest first (R255). -/
  byPin : Bool := false
  teSeen : List Nat := []
  /-- F and frame count of a TE message that came ahead of its pin's edge (R261). -/
  early : Option (Nat × Nat) := none
  freeRun : Bool := false
  /-- Frame and row of the last ROW reports, newest first (R255). -/
  rowsSeen : List (Nat × Nat) := []
  /-- The PNL_SEG_PARAM registers written since their last application (R263). -/
  aplDue : List Nat := []
deriving DecidableEq, Repr

/-- What the link holds beside its registers. -/
structure PnlState where
  groups : Store PnlGroup := []
  segs : Store PnlSeg := []
  /-- Of the last accepted descriptor: frame rate in 0.01 Hz, flags, grants, te_latency, report_rows. -/
  rate : Nat := 0
  tePins : Bool := false
  rowReports : Bool := false
  grants : List Nat := []
  teLatency : Nat := 0
  reportRows : Nat := 0
  /-- The accepted descriptor, and F at its acceptance: alignment blocks count from there (R249). -/
  accepted : List Byte := []
  linkedAt : Nat := 0
  /-- LINK_RESET in progress: command and time of its timeout. -/
  reset : Option (Nat × Nat) := none
deriving DecidableEq, Repr

/-! ## Serial lanes (chapter 12) -/

/-- A lane that LANE_TX_SET moves towards targets (R297): its command, item, lane and taps pre2, pre1, main, post1. -/
structure TapMove where
  cmd : Nat
  item : Nat
  lane : Nat
  taps : List Int
deriving DecidableEq, Repr

/-- An item of LANE_MEASURE (R296): command, item, lane, whether its measurement runs, and whether the lane has left ACTIVE
since it began. -/
structure Measure where
  cmd : Nat
  item : Nat
  lane : Nat
  running : Bool := false
  broken : Bool := false
deriving DecidableEq, Repr

/-- What the lanes hold beside their registers. -/
structure LanState where
  moves : List TapMove := []
  measures : List Measure := []
  /-- In-service tap requests accepted and not yet applied (R283), four codes of 0 hold, 1 up, 2 down, by lane. -/
  asked : Store (List Nat) := []
  /-- F when tap `k` of lane `i` last took an in-service request, plus 1, by 4 i + k (R283). -/
  askedAt : Store Nat := []
  /-- F when a lane's adaptation last moved, plus 1 (R284). -/
  movedAt : Store Nat := []
  /-- DFE taps 2 to 12 and the three level thresholds of a lane's receiver (R284); DFE tap 1 is LAN_RXEQ's. -/
  dfe : Store (List Int) := []
  levels : Store (List Int) := []
  /-- Trainings failed since the last success (LANE_TRAIN_FAIL). -/
  fails : Store Nat := []
  /-- F when a lane's last full eye set ended, plus 1 (R287). -/
  eyeAt : Store Nat := []
deriving DecidableEq, Repr

/-! ## Walls (chapter 14) -/

/-- A vote received or cast (R328): group, origin, boundary index, readiness, scene frame, clamp time. -/
structure Vote where
  group : Nat
  origin : Nat
  n : Nat
  ready : Bool
  frame : Nat
  clampTime : Nat
deriving DecidableEq, Repr

/-- A Trastos packet that waits for relay (R333, R335): `form` is whether it goes deflated and its bytes, once that is known. -/
structure Relay where
  id : Nat
  data : List Byte
  form : Option (Bool × List Byte) := none
deriving DecidableEq, Repr

/-- What one Worvel port holds beside its registers. The credit terms are those of R320. -/
structure WvlPort where
  /-- Working lanes of this module's and of the neighbour's direction, lanes that train, and of these the ones whose two
  receivers are done (R293). -/
  work : Nat := 0
  rx : Nat := 0
  training : Nat := 0
  ours : Nat := 0
  theirs : Nat := 0
  /-- A change of this module's lanes under way (R318): its mask; and F at the port's last start: alignment blocks count from there
  (R249). -/
  map : Option Nat := none
  linkedAt : Nat := 0
  /-- Coordinates, port and wall_id of the last HELLO that failed its check (R317). -/
  strange : Option (Nat × Nat × Nat) := none
  g : Nat := 0
  r : Nat := 0
  u : Nat := 0
  xa : Nat := 0
  xo : Nat := 0
  /-- The count that the next CREDIT message begins from; stream bytes sent and drained since the start. -/
  base : Nat := 0
  sent : Nat := 0
  drained : Nat := 0
  stalled : Bool := false
  control : List (List Byte) := []
  relay : List Relay := []
  nextRelay : Nat := 0
  /-- Relay drops since the last WVL_RELAY_DROP. -/
  dropsSince : Nat := 0
  /-- This module's last timestamps: c_tx, t_tx, c_rx, t_rx (R323), and the last 16 offsets from the parent's. -/
  stamps : Option (Nat × Nat × Nat × Nat) := none
  offsets : List Int := []
deriving DecidableEq, Repr

/-- What the wall block holds beside its registers. -/
structure WvlState where
  ports : Store WvlPort := []
  /-- Sequence numbers sent by type, and last accepted by 256 · type + module. -/
  seqOut : Store Nat := []
  seqIn : Store (Option Nat) := []
  votes : List Vote := []
  /-- ofs, 1/64 ns (R323). -/
  ofs : Int := 0
  /-- The base of the wall schedule, PTP ns (R324). -/
  base : Option Nat := none
  /-- Consecutive frames within and beyond 5 ns, and the sum of the frame-sync shifts in 1/64 ns, by segment (R325). -/
  good : Store Nat := []
  bad : Store Nat := []
  shift : Store Int := []
  /-- The largest |err| since the last SUMMARY, and whether WALL_LOCK has said that TE comes by message only. -/
  worst : Nat := 0
  noPinSaid : Bool := false
  /-- First mismatches and underruns at the last SUMMARY. -/
  lastMismatches : Nat := 0
  lastUnderruns : Nat := 0
deriving DecidableEq, Repr

/-! ## Ethernet ports (chapter 15) -/

/-- What one Ethernet port holds beside its registers. -/
structure EthPort where
  /-- Gate lists: the op of an entry stands in bits [9:8] of its gates (R355). -/
  gates : Gates := {}
  /-- F until which each class is paused (R339). -/
  paused : Store Nat := []
  /-- The outcome of the last verify: 0 none, 1 succeeded, 2 failed (R357). -/
  verify : Nat := 0
  /-- Frames written back WINDOW_OVERSIZE since the last event. -/
  oversizeSince : Nat := 0
deriving DecidableEq, Repr

/-- What the Ethernet block holds beside its registers. -/
structure EthState where
  ports : Store EthPort := []
  /-- The tails rung, and frames dropped as ring_full since the last ETH_RING_FULL. -/
  rxTails : Store Nat := []
  txTails : Store Nat := []
  fullSince : Store Nat := []
deriving DecidableEq, Repr

/-! ## Triggers and captures (chapter 15) -/

/-- A trigger: its next fire time and the level of its pin (R350). -/
structure Trig where
  next : Nat := 0
  level : Bool := false
deriving DecidableEq, Repr

/-- A capture input: its FIFO of edges, oldest first (PTP time, rising), F of the last accepted edge, and edges dropped since
the last event (R354). -/
structure CapIn where
  fifo : List (Nat × Bool) := []
  last : Option Nat := none
  dropped : Nat := 0
deriving DecidableEq, Repr

/-- What triggers and captures hold beside their registers. -/
structure TimState where
  trigs : Store Trig := []
  caps : Store CapIn := []
deriving DecidableEq, Repr

/-! ## Network time (chapter 15) -/

/-- The module clock: F, the offset O, the rate and the anchor in force, and the staged values (R345 to R347). -/
structure PtpState where
  f : Nat := 0
  oSec : Nat := 0
  oNs : Nat := 0
  rho : Int := 0
  a : Nat := 0
  stSec : Nat := 0
  stNs : Nat := 0
  stRho : Int := 0
  /-- The seconds latched into PTP_NOW_XSEC. -/
  xsec : Nat := 0
deriving DecidableEq, Repr

/-! ## Module DRAM (chapter 16) -/

/-- A request in a channel's queue (R370): its 64-byte access, bank and row, the data of a read, and its time. -/
structure DramReq where
  ma : Nat
  window : Nat
  bank : Nat
  row : Nat
  write : Bool
  urgent : Bool
  data : List Byte
  at_ : Nat
deriving DecidableEq, Repr

/-- A request that waits at its NoC port (R371, R375, R377, R384); `data` are the bytes it writes. -/
structure DramWait where
  ma : Nat
  write : Bool
  urgent : Bool
  data : List Byte
deriving DecidableEq, Repr

/-- A change of operating point, pending or running (R377, R378), with the item that waits for it. -/
structure OpChange where
  point : Nat
  thermal : Bool := false
  waiter : Option (Nat × Nat) := none
deriving DecidableEq, Repr

/-- An item of DRAM_TRAIN with full set (R386): command, item, quad and point. -/
structure TrainItem where
  cmd : Nat
  item : Nat
  quad : Nat
  point : Nat
deriving DecidableEq, Repr

/-- What module DRAM holds beside its content and its registers. -/
structure DmcState where
  /-- F when a channel's figures were last taken, plus 1 (CAL_DRAM_FIG). -/
  figAt : Store Nat := []
  /-- Queues by channel, oldest first, and requests that wait at their ports, oldest first. -/
  queues : Store (List DramReq) := []
  waiting : List DramWait := []
  /-- Open rows by 16 k + bank; channels that drain their writes (R370). -/
  openRows : Store (Option Nat) := []
  draining : Store Bool := []
  /-- Refresh intervals postponed (or, negative, pulled in) by 16 k + bank; the bank due next; MR4 as last read (R373). -/
  owed : Store Int := []
  nextBank : Store Nat := []
  mr4 : Store Nat := []
  /-- Changes of operating point by quad. -/
  changes : Store (Option OpChange) := []
  trains : List TrainItem := []
  /-- Items that end with the gathering step of a quad, and quads with a step asked for. -/
  gathers : Store (List (Nat × Nat)) := []
  /-- The channel that CHANNEL_SERVICE trains. -/
  returning : Option Nat := none
  /-- MA spans that WINDOW_SET holds: first byte and length (R384). -/
  spans : List (Nat × Nat) := []
  /-- Times of the uncorrectable reads of a channel in the last second, and their number since the last event. -/
  ueTimes : Store (List Nat) := []
  ueSince : Store Nat := []
deriving DecidableEq, Repr

/-! ## The compression and block engines (chapters 17 and 18) -/

/-- A job of the compression engine (R389): direction 0 inflate or 1 deflate, requester class, source and output lengths, when
it came, its client, and whom it is for: the command of a software job (class 3), the Trastos unit (slot, frame, unit), the
Worvel relay, or the record buffer; `data` is an internal job's source. -/
structure CmpJob where
  dir : Nat
  cls : Nat
  src : Nat
  dst : Nat
  since : Nat
  client : Nat := 0
  who : List Nat := []
  data : List Byte := []
deriving DecidableEq, Repr

/-- What the compression engine holds beside its registers. -/
structure CmpState where
  /-- Waiting jobs, in arrival order, and the job of each unit 0 to 11. -/
  waiting : List CmpJob := []
  units : Store (Option CmpJob) := []
  /-- Failures per unit, and long waits per class, since their last event. -/
  failSince : Store Nat := []
  waitSince : Store Nat := []
deriving DecidableEq, Repr

/-- The running block-engine job: command, rows written, whether it overlaps. -/
structure BlkJob where
  cmd : Nat
  rows : Nat := 0
  overlap : Bool := false
deriving DecidableEq, Repr

/-- What the block engine holds beside its registers. -/
structure BlkState where
  /-- Commands whose jobs wait. -/
  waiting : List Nat := []
  running : Option BlkJob := none
  /-- Bytes written that do not yet make a KiB of BLK_CNT[5]. -/
  bytes : Nat := 0
deriving DecidableEq, Repr

/-! ## Power and heat (chapter 19) -/

/-- A temperature sample: F, the value in 1/256 °C as a signed number, and PTP time. -/
structure Sample where
  at_ : Nat
  t : Int
  time : Nat
deriving DecidableEq, Repr

/-- One sensor's history (R432, R434, R436). -/
structure Sensor where
  /-- The last samples, newest first: as many as the exit rule and the rate need. -/
  samples : List Sample := []
  /-- F when each of WARN, HOT and CRIT was last entered. -/
  entered : List Nat := [0, 0, 0]
  /-- F of the last surge, plus 1. -/
  surge : Nat := 0
  /-- F at which the sensor's next scheduled conversion is due (R431). -/
  next : Nat := 0
deriving DecidableEq, Repr

/-- What power and heat hold beside their registers. -/
structure PwcState where
  sensors : Store Sensor := []
  /-- The bents the governor has shed, last first. -/
  shed : List Nat := []
  /-- Enabled wake sources of HIBERNATE and DEEP: bit 0 SMBus, 1 capture input 0, 2 AON timer (R420). -/
  wake : Nat := 0
  timer : Nat := 0
  /-- A POWER_STATE_SET on its way: command and state. -/
  setting : Option (Nat × Nat) := none
  /-- The domains are cut after a power failure, or after a SHUT (R425, R438); the lockout holds everything off (R429). -/
  failed : Bool := false
  shut : Bool := false
  locked : Bool := false
  /-- F when power failed. -/
  failedAt : Nat := 0
  /-- A reversed input has been met (R429). -/
  vinReversed : Bool := false
  /-- Steps of a zone at normal since its level last fell (R435). -/
  zoneTicks : Store Nat := []
  /-- Bursts, clocks and rails are as a cut leaves them, and the power-fail record is committed (R425, R426). -/
  recordDone : Bool := false
deriving DecidableEq, Repr

/-! ## The story pole (chapter 20) -/

/-- A valid record of the journal (R456). -/
structure Record where
  kind : Nat
  key : Nat
  rolledBack : Bool
  copied : Bool
  body : List Byte
  seq : Nat
  time : Nat
  source : Nat
  sector : Nat
deriving DecidableEq, Repr

/-- A record that waits to be written (R457), with the items of commands that end at its commit. -/
structure NewRecord where
  kind : Nat
  key : Nat
  body : List Byte
  rolledBack : Bool := false
  copied : Bool := false
  source : Nat := 0
  /-- The time a copied record keeps. -/
  time : Option Nat := none
  waiters : List (Nat × Nat) := []
  /-- How far back CAL_ROLLBACK reached. -/
  depth : Nat := 0
deriving DecidableEq, Repr

/-- A truing pass (R453): its command, the bents named and still to be taken, the bent in it, and whether its plan is on its
way to the journal or committed. -/
structure Pass where
  cmd : Option Nat
  named : List Nat
  todo : List Nat
  cur : Option Nat := none
  planned : Bool := false
deriving DecidableEq, Repr

/-- What calibration holds beside its registers. -/
structure CalState where
  pass : Option Pass := none
  /-- Frozen margin plans, by bent, and frozen DRAM records, by key (R467). -/
  frozenBents : List Nat := []
  frozenDram : List Nat := []
  /-- Items of CAL_RUN that wait for their measurement: command, item, class A item. -/
  runs : List (Nat × Nat × Nat) := []
  /-- Commits since the last CAL_COMMIT, per kind. -/
  since : Store Nat := []
deriving DecidableEq, Repr

/-- What the story pole holds beside its registers. -/
structure SplState where
  records : List Record := []
  /-- Records to be written, oldest first; `programmed` says that the first has been programmed and lacks its marker. -/
  queue : List NewRecord := []
  programmed : Bool := false
  /-- Written sectors, oldest first; the last is open, with `used` bytes written. -/
  written : List Nat := []
  used : Nat := 0
  /-- Bytes programmed that do not yet make a KiB of SPL_CNT[1]. -/
  bytes : Nat := 0
  /-- Erase counts, retired sectors, the sector being erased, and a sector whose interrupted erase is redone. -/
  wear : Store Nat := []
  bad : List Nat := []
  erasing : Option Nat := none
  /-- Firmware slots (R463, R464): the 24 MiB of each as written, and the slot to boot once on trial. -/
  slots : Store Byte := []
  /-- Slots that hold their image as shipped (log entry 35). -/
  shipped : List Nat := [0]
  trialMark : Bool := false
  /-- The slot that runs. -/
  running : Nat := 0
  /-- Why the last boot fell back: 0 none, 1 verification, 2 trial not confirmed. -/
  fallbackCause : Nat := 0
deriving DecidableEq, Repr

/-! ## Performance counters (chapter 21) -/

/-- What the performance counters hold beside their registers. -/
structure PfcState where
  /-- The odd counter that a read of its even partner has latched, with its value (R473). -/
  latch : Option (Nat × Nat) := none
  /-- Windows are open: none since the last write of the length or step of the clock (R477). -/
  windowsOpen : Bool := true
  /-- PTP time of the last snapshot (R479). -/
  lastSnap : Option Nat := none
  /-- Records that wait to be written, oldest first, the next record's sequence, and records lost since the last
  PFC_RECORDS_LOST. -/
  queue : List (List Byte) := []
  seq : Nat := 0
  lostSince : Nat := 0
  /-- The shift register of each bay (R480). -/
  shift : Store Nat := []
  /-- The SAMPLE_DRAIN that runs. -/
  drain : Option Nat := none
deriving DecidableEq, Repr

/-! ## Faults, resets and the ledger (chapter 22) -/

/-- How far the boot has come: the module is up; held by RESET_N low; the boot ROM is to verify the image; firmware is to scan
the journal; both images have failed; no power to boot with. -/
inductive Boot where
  | up | held | verify | scan | failed | dark
deriving DecidableEq, Repr

/-- An entry of a post-reset report (R492). -/
structure ReportEntry where
  client : Nat
  ring : Nat
  opcode : Nat
  tag : Nat
  total : Nat
  done : Nat
  first : Nat
  status : Nat
  deferred : Bool
  map : Nat
deriving DecidableEq, Repr

/-- A post-reset report (R492): the fields of its header, and its entries. -/
structure Report where
  level : Nat
  cause : Nat
  client : Nat := 0
  dramLost : Bool := false
  powerFail : Bool := false
  shutdown : Bool := false
  interrupted : Bool := false
  truingCut : Bool := false
  time : Nat := 0
  f : Nat := 0
  cut : Nat := 0
  truing : Nat := 0
  ethDiscarded : Nat := 0
  kindKey : Nat := 0
  shutSensor : Nat := 0
  entries : List ReportEntry := []
deriving DecidableEq, Repr

/-- What the fault block holds beside its registers. -/
structure FltState where
  /-- Firmware restarts after a block-level reset (R494). -/
  fwRestarting : Bool := false
  boot : Boot := .verify
  /-- RESET_N is low (R527). -/
  pinLow : Bool := false
  /-- The module report, and the clients' reports (R493). -/
  report : Option Report := some { level := 1, cause := 1, dramLost := true }
  fnReports : Store (Option Report) := []
  /-- Commands that a power failure or a shutdown has already closed (R425, R438). -/
  closed : List ReportEntry := []
  /-- RESET_REPORT_READY events that wait for an event ring (R493). -/
  notices : List Event := []
  /-- What is to be posted once the module is up: code, source, data (R463, R464, R497, R532). -/
  afterBoot : List (Nat × Nat × Nat) := []
deriving DecidableEq, Repr

/-! ## Low-speed pins, SMBus, JTAG and the reference (chapter 24) -/

/-- The instruction in force in the TAP (R531): BYPASS, IDCODE, or another instruction. -/
inductive Tap where
  | bypass
  | idcode
  | other (code : Nat)
deriving DecidableEq, Repr

/-- What the low-speed interfaces hold: the straps of R528 as sampled at cold reset, whether the module runs on the crystal in
place of REF (R532), whether SMB_ALERT_N is low with STATUS [5:3] as last seen (R529), and the TAP. -/
structure PinState where
  refSel : Bool := false
  smbAddr : Nat := 0
  refFallback : Bool := false
  alert : Bool := false
  seen : Nat := 0
  tap : Tap := .bypass
deriving DecidableEq, Repr

/-! ## The machine -/

/-- The whole state of the module. -/
structure State where
  /-- The commands that are waiting, first in first out (the row's cut). -/
  pending : List Instr := []
  /-- What has left the module, latest first. -/
  out : List Output := []
  /-- The model's own: how many free values have been used (log entry 4). -/
  free : Nat := 0
  /-- The register file, by BAR0 offset, default the reset value (R504 to R516). -/
  regs : Store RegWord := []
  /-- The active values of SHD and APL registers, default the reset value (R11, R34). -/
  active : Store RegWord := []
  /-- The 64-bit and 128-bit conservation terms, by the offset of their counter (R498). -/
  ledger : Store Nat := []
  /-- Module DRAM by physical place: ((channel * 16 + bank) * 65536 + row) * 2048 + column (R361). -/
  dram : List Host.Cell := []
  /-- Commands, rings, events (chapter 3). -/
  cmd : CmdState := {}
  /-- The host links and the register hub (chapters 3 and 23). -/
  hst : HstState := {}
  /-- The module clock (R345 to R347). -/
  ptp : PtpState := {}
  /-- Reports and restarts (chapter 22). -/
  flt : FltState := {}
  /-- The scene block (chapters 1 and 2). -/
  scn : ScnState := {}
  /-- Region queues (chapter 9). -/
  dmg : DmgState := {}
  /-- The push scheduler (chapter 10). -/
  sch : SchState := {}
  /-- Bays and bents (chapters 6 and 13). -/
  eng : EngState := {}
  /-- Square checks (chapter 7). -/
  glu : GluState := {}
  /-- Clamps and fences (chapter 8). -/
  clp : ClpState := {}
  /-- Trastos ingest (chapter 4). -/
  trs : TrsState := {}
  /-- Decode pipes (chapter 5). -/
  dec : DecState := {}
  /-- The panel link (chapter 11). -/
  pnl : PnlState := {}
  /-- Serial lanes (chapter 12). -/
  lan : LanState := {}
  /-- The story pole (chapter 20). -/
  spl : SplState := {}
  /-- Power and heat (chapter 19). -/
  pwc : PwcState := {}
  /-- Calibration (chapter 20). -/
  cal : CalState := {}
  /-- Walls and Worvel ports (chapter 14). -/
  wvl : WvlState := {}
  /-- Queues, points and training of module DRAM (chapter 16). -/
  dmc : DmcState := {}
  /-- The compression engine (chapter 17). -/
  cmp : CmpState := {}
  /-- The block engine (chapter 18). -/
  blk : BlkState := {}
  /-- Performance counters and sampling (chapter 21). -/
  pfc : PfcState := {}
  /-- Ethernet ports and rings (chapter 15). -/
  eth : EthState := {}
  /-- Triggers and capture inputs (chapter 15). -/
  tim : TimState := {}
  /-- Low-speed pins, SMBus, JTAG and the reference (chapter 24). -/
  pin : PinState := {}
deriving DecidableEq, Repr

/-- The module right after reset: every field at its reset value, no register written, nothing pending. -/
def State.reset : State := {}

end Sys2Proof.Machine
end

