-- ==== Sys2Proof/Machine/Ops.lean ====
section
/-! DEFINITION. The operations shared by the meanings: registers, time, outputs, events, module DRAM, host memory and the
life of a command (R63, R68, R72 to R76, R81, R346, R363 to R369, R505 to R513). -/

namespace Sys2Proof.Machine

open Sys2Proof

/-! ## Registers -/

/-- The content of a register element: the value a BAR0 read returns for stored fields (the shadow for SHD fields, R34). -/
def State.reg (s : State) (off : Nat) : RegWord := Store.get resetReg s.regs off

/-- Writes a register element. -/
def State.setReg (s : State) (off : Nat) (v : RegWord) : State :=
  { s with regs := Store.set resetReg s.regs off v }

/-- The value of a field. -/
def State.fld (s : State) (l : Loc) : Nat := fieldGet (s.reg l.off) l.lo l.w

/-- Writes a field. -/
def State.setFld (s : State) (l : Loc) (x : Nat) : State :=
  s.setReg l.off (fieldSet (s.reg l.off) l.lo l.w x)

/-- A saturating counter field rises by `d` (R511). -/
def State.bumpBy (s : State) (l : Loc) (d : Nat) : State := s.setFld l (satAdd l.w (s.fld l) d)

/-- A saturating counter field rises by 1. -/
def State.bump (s : State) (l : Loc) : State := s.bumpBy l 1

/-- A level field falls by `d`, not below 0. -/
def State.dropBy (s : State) (l : Loc) (d : Nat) : State := s.setFld l (s.fld l - d)

/-- The active value of an SHD or APL register element (R11, R34). -/
def State.act (s : State) (off : Nat) : RegWord := Store.get resetReg s.active off

/-- Writes an active value. -/
def State.setAct (s : State) (off : Nat) (v : RegWord) : State :=
  { s with active := Store.set resetReg s.active off v }

/-- The active value of a field. -/
def State.actFld (s : State) (l : Loc) : Nat := fieldGet (s.act l.off) l.lo l.w

/-- Writes the active value of a field. -/
def State.setActFld (s : State) (l : Loc) (x : Nat) : State :=
  s.setAct l.off (fieldSet (s.act l.off) l.lo l.w x)

/-- Copies a register's shadow to its active value. -/
def State.applyShd (s : State) (off : Nat) : State := s.setAct off (s.reg off)

/-- A BAR0 access of a client drops the half that it has latched, and the latch of a counter pair (R473, R507). -/
def State.bar0 (s : State) (client : Nat) : State :=
  { s with
    pfc := { s.pfc with latch := none }
    hst := { s.hst with readLatch := Store.set (fun _ => none) s.hst.readLatch client none } }

/-! ## Power domains (R416, R418) -/

/-- The writes that the hub holds for domain `d` reach its registers (R505). -/
def State.applyHeld (s : State) (d : Nat) : State :=
  let t := (s.hst.held.filter fun w => w.domain == d).foldl
    (fun t w => t.setReg w.off ((t.reg w.off &&& ~~~ BitVec.ofNat 64 w.mask) ||| BitVec.ofNat 64 w.value)) s
  { t with hst := { t.hst with held := t.hst.held.filter fun w => w.domain != d } }

/-- The hub holds a write for domain `d`. -/
def State.holdWrite (s : State) (d off mask value : Nat) : State :=
  { s with hst := { s.hst with held := s.hst.held ++ [⟨d, off, mask, value⟩] } }

/-- Puts power domain `d` at a depth; leaving a sleep counts a wake and applies what the hub holds. -/
def State.setDomain (s : State) (d depth : Nat) : State :=
  let s := if s.fld (R.PWC_DOMAIN_depth d) ≠ 0 ∧ depth = 0 then s.bump (R.PWC_DOMAIN_wakes d) else s
  let s := s.setFld (R.PWC_DOMAIN_depth d) depth
  if depth = 0 ∧ s.hst.held.isEmpty = false then s.applyHeld d else s

/-- Work for domain `d` with clock `c`: a gated domain runs again (R418). -/
def State.ungate (s : State) (d c : Nat) : State :=
  if s.fld (R.PWC_DOMAIN_depth d) = 1 then (s.setDomain d 0).setFld (R.PWC_CLK_running c) 1 else s

/-! ## The ledger's 64-bit terms (R498, R511) -/

/-- A ledger term. -/
def State.term (s : State) (k : Nat) : Nat := Store.get (fun _ => 0) s.ledger k

/-- A ledger term rises by `d`. -/
def State.addTerm (s : State) (k d : Nat) : State :=
  { s with ledger := Store.set (fun _ => 0) s.ledger k (s.term k + d) }

/-- A conservation counter rises: the saturating register field and its 64-bit ledger term. -/
def State.count (s : State) (l : Loc) (d : Nat) : State := (s.bumpBy l d).addTerm l.off d

/-! ## Outputs and free values -/

/-- Something leaves the module. -/
def State.emit (s : State) (o : Output) : State := { s with out := o :: s.out }

/-- The next free value: nothing constrains it (log entry 4). -/
def State.freeVal (s : State) : Nat := Config.freeNat s.free

/-- The free value has been used. -/
def State.nextFree (s : State) : State := { s with free := s.free + 1 }

/-! ## Time (R345, R346) -/

/-- The correction term of PTP time: ((f - a) * rho) >> 48, floored. -/
def State.ptpCorr (s : State) : Int := (((s.ptp.f - s.ptp.a : Nat) : Int) * s.ptp.rho) / (2 ^ 48 : Int)

/-- The total of R346 in ns. -/
def State.ptpTotal (s : State) : Int :=
  ((s.ptp.oSec * 1000000000 + s.ptp.oNs + s.ptp.f : Nat) : Int) + s.ptpCorr

/-- PTP time, ns: the total modulo 2^64 (R346). -/
def State.now (s : State) : Nat := toField 64 s.ptpTotal

/-! ## Events (R81) -/

/-- Posts an event; `owner` is the client that owns the resource its source names, if it names one. -/
def State.post (s : State) (code source data : Nat) (owner : Option Nat := none) : State :=
  { s with cmd := { s.cmd with events := s.cmd.events ++ [⟨code, source % 65536, data % 4294967296, s.now, owner, none, none⟩] } }

/-- Whether a rate limit of `period` ns on stamp `key` lets an event through at this instant. -/
def State.mayPost (s : State) (key period : Nat) : Bool :=
  let t := Store.get (fun _ => 0) s.cmd.stamps key
  t == 0 || decide (t + period ≤ s.ptp.f + 1)

/-- Posts an event at most once per `period` ns per key. -/
def State.postLimited (s : State) (key period code source data : Nat) (owner : Option Nat := none) : State :=
  if s.mayPost key period then
    ({ s with cmd := { s.cmd with stamps := Store.set (fun _ => 0) s.cmd.stamps key (s.ptp.f + 1) } }).post code source data owner
  else s

/-! ## Client address spaces -/

/-- Whether an access of `n` bytes at `addr` meets a failing range of the bus. -/
def busFails (b : Bus) (addr n : Nat) : Bool :=
  b.bad.any fun r => decide (addr < r.1 + r.2) && decide (r.1 < addr + n)

/-- The byte at a bus address. -/
def busByte (b : Bus) (addr : Nat) : Byte := Store.get (fun _ => 0) b.mem addr

/-- A bus read of `n` bytes; none where the bus fails it. -/
def busRead (b : Bus) (addr n : Nat) : Option (List Byte) :=
  if busFails b addr n then none else some ((List.range n).map fun j => busByte b (addr + j))

/-- A write to a client's bus address space; the flag says whether it succeeded. -/
def State.hostWrite (s : State) (b : Bus) (client addr : Nat) (data : List Byte) : State × Bool :=
  if busFails b addr data.length then (s, false) else (s.emit (.hostWrite client addr data), true)

/-! ## Module DRAM (R361 to R369) -/

/-- Where a module address falls (R363 to R367): in no window, in window `w` on a channel out of service, or at a place. -/
inductive Place where
  | unmapped
  | hole (w : Nat)
  | at_ (w ch bank row col : Nat)
deriving DecidableEq, Repr

/-- The window that maps a module address (R363). -/
def State.windowOf (s : State) (ma : Nat) : Option Nat :=
  (List.range 8).find? fun w =>
    s.fld (R.DMC_WIN_CFG_enable w) == 1 &&
    decide (s.fld (R.DMC_WIN_BASE_base w) * 0x1000000 ≤ ma) &&
    decide (ma < (s.fld (R.DMC_WIN_BASE_base w) + s.fld (R.DMC_WIN_BASE_size w)) * 0x1000000)

/-- The XOR of the `e`-bit slices of `v` (R366); `n` bounds the slices. -/
def xorSlices (e v : Nat) : Nat → Nat
  | 0 => 0
  | n + 1 => (v % 2 ^ e) ^^^ xorSlices e (v / 2 ^ e) n

/-- Channel, bank, row and column of offset `o` of a window under mapping order `order` with `2^e` channels (R365, R366). -/
def mapOrder (order e o : Nat) : Nat × Nat × Nat × Nat :=
  if order = 0 then
    (bitsOf o 11 e, bitsOf o (11 + e) 4, o >>> (15 + e), bitsOf o 0 11)
  else if order = 1 then
    (bitsOf o 15 e, bitsOf o 11 4, o >>> (15 + e), bitsOf o 0 11)
  else
    let col := bitsOf o 0 8 + 256 * bitsOf o (12 + e) 3
    let ch := bitsOf o 8 e
    let bank := bitsOf o (8 + e) 4
    let row := o >>> (15 + e)
    if order = 3 ∧ e ≠ 0 then
      let v := (row <<< 7) ||| (bitsOf o (12 + e) 3 <<< 4) ||| bank
      (ch ^^^ xorSlices e v 24, bank, row, col)
    else (ch, bank, row, col)

/-- The place of a module address. -/
def State.placeOf (s : State) (ma : Nat) : Place :=
  match s.windowOf ma with
  | none => .unmapped
  | some w =>
    let e := s.fld (R.DMC_WIN_CFG_e w)
    let (ch, bank, row, col) :=
      mapOrder (s.fld (R.DMC_WIN_CFG_order w)) e (ma - s.fld (R.DMC_WIN_BASE_base w) * 0x1000000)
    let k := s.fld (R.DMC_WIN_CFG_c0 w) + ch
    if (s.fld R.DMC_CH_OK_ok).testBit k then .at_ w k bank (s.fld (R.DMC_WIN_ROWS_row0 w) + row) col else .hole w

/-- The key of a physical byte in `dram`. -/
def physKey (ch bank row col : Nat) : Nat := ((ch * 16 + bank) * 65536 + row) * 2048 + col

/-- The content of a physical byte; a byte nothing has written reads 0 (log entry 5). -/
def State.phys (s : State) (key : Nat) : Byte := Store.get (fun _ => 0) s.dram key

/-- Writes a physical byte. -/
def State.setPhys (s : State) (key : Nat) (b : Byte) : State :=
  { s with dram := Store.set (fun _ => 0) s.dram key b }

/-- The byte a read of a module address returns: zero where the read is in error (R365, R369). -/
def State.maByte (s : State) (ma : Nat) : Byte :=
  match s.placeOf ma with
  | .at_ _ ch bank row col => s.phys (physKey ch bank row col)
  | _ => 0

/-- Whether a read of a module address is in error (R369). -/
def State.maBad (s : State) (ma : Nat) : Bool :=
  match s.placeOf ma with
  | .at_ .. => false
  | _ => true

/-- Where the eight check bytes of access `a` of data row `r` (window-relative) and bank `b` lie (R367). -/
def checkKey (ch bank row0 rows r a : Nat) : Nat :=
  physKey ch (bank ^^^ 8) (row0 + 7 * rows / 8 + r / 8) (r % 8 * 256 + a * 8)

/-- Rewrites the check bytes of the 64-byte access that holds a byte of an ECC window (R367). -/
def State.writeCheck (s : State) (w ch bank row col : Nat) : State :=
  if s.fld (R.DMC_WIN_CFG_iecc w) = 1 then
    let row0 := s.fld (R.DMC_WIN_ROWS_row0 w)
    let rows := s.fld (R.DMC_WIN_ROWS_rows512 w) * 512
    let base := checkKey ch bank row0 rows (row - row0) (col / 64)
    let word := fun j => leNat ((List.range 8).map fun i => s.phys (physKey ch bank row (col / 64 * 64 + 8 * j + i)))
    (List.range 8).foldl (fun s' j => s'.setPhys (base + j) (Config.secDed (word j))) s
  else s

/-- Writes one byte at a module address; a byte in no window or on a lost channel is dropped (R365, R382). -/
def State.putMa (s : State) (ma : Nat) (b : Byte) : State :=
  match s.placeOf ma with
  | .at_ w ch bank row col => (s.setPhys (physKey ch bank row col) b).writeCheck w ch bank row col
  | _ => s

/-- Counts one 64-byte access to a module address: unmapped (R365), on a lost channel (R382), or accepted and completed
(R372); `part` marks a write of fewer than 64 bytes (R367). -/
def State.countAccess (s : State) (ma : Nat) (write part : Bool) : State :=
  match s.placeOf ma with
  | .unmapped =>
    ((s.setFld R.DMC_UNMAPPED_ma (ma % 2 ^ 36)).bump R.DMC_UNMAPPED_count).postLimited 0x0902000000 1000000 0x0902 0 (ma / 16)
  | .hole w => s.bump (R.DMC_WIN_HOLES_count w)
  | .at_ w ch _ _ _ =>
    let s := (s.count (R.DMC_CH_CNT_count ch 0) 1).count (R.DMC_CH_CNT_count ch (if write then 2 else 1)) 1
    if write && part && s.fld (R.DMC_WIN_CFG_iecc w) == 1 then s.bump (R.DMC_CH_CNT_count ch 11) else s

/-- The 64-byte lines that bytes `ma` to `ma + n - 1` touch. -/
def linesOf (ma n : Nat) : List Nat :=
  if n = 0 then [] else (List.range ((ma + n - 1) / 64 - ma / 64 + 1)).map fun i => (ma / 64 + i) * 64

/-- Reads `n` bytes of module DRAM: the state with the accesses counted, the bytes, and whether none was in error. -/
def State.memRead (s : State) (ma n : Nat) : State × List Byte × Bool :=
  let ls := linesOf ma n
  (ls.foldl (fun s' l => s'.countAccess (max l ma) false false) s,
   (List.range n).map fun j => s.maByte (ma + j),
   !(ls.any fun l => s.maBad (max l ma)))

/-- Writes bytes to module DRAM from address `ma` on. -/
def State.putBytes (s : State) (ma : Nat) : List Byte → State
  | [] => s
  | b :: r => (s.putMa ma b).putBytes (ma + 1) r

/-- Writes bytes to module DRAM, with the accesses counted. -/
def State.memWrite (s : State) (ma : Nat) (data : List Byte) : State :=
  ((linesOf ma data.length).foldl
    (fun s' l => s'.countAccess (max l ma) true (decide (l < ma) || decide (ma + data.length < l + 64))) s).putBytes ma data

/-- Reads from a bus address or from module DRAM, as a command's flag says. -/
def State.fetchFrom (s : State) (b : Bus) (isDram : Bool) (addr n : Nat) : State × List Byte × Bool :=
  if isDram then s.memRead addr n
  else match busRead b addr n with
    | some d => (s, d, true)
    | none => (s, List.replicate n 0, false)

/-- Writes to a bus address or to module DRAM; the flag says whether the write succeeded. -/
def State.storeTo (s : State) (b : Bus) (client : Nat) (isDram : Bool) (addr : Nat) (data : List Byte) : State × Bool :=
  if isDram then (s.memWrite addr data, true) else s.hostWrite b client addr data

/-! ## Clients (R54, R55, R58) -/

/-- Whether the host links are bifurcated (R53). -/
def State.bifurcated (s : State) : Bool := s.fld (R.HST_LINK_STATUS_bifurcated 0) == 1

/-- Whether a client is present (R54). -/
def State.present (s : State) (f : Nat) : Bool := s.fld (R.HST_FN_CFG_present f) == 1

/-- Whether bytes `ma` to `ma + n - 1` lie in the DRAM window with which a command was fetched (R58, R83); PF0 reaches
everything. -/
def Cmd.inWindow (c : Cmd) (ma n : Nat) : Bool :=
  c.client == 0 || (decide (c.base * 0x1000000 ≤ ma) && decide (ma + n ≤ (c.base + c.size) * 0x1000000))

/-! ## Commands (R69 to R76) -/

/-- The opcode of a command. -/
def Cmd.opcode (c : Cmd) : Nat := leAt c.packet 0 2

/-- The tag of a command. -/
def Cmd.tag (c : Cmd) : Nat := leAt c.packet 4 4

/-- The notify, ordered, item_list and indirect flags (byte 2). -/
def Cmd.notify (c : Cmd) : Bool := (byteAt c.packet 2).toNat.testBit 0
def Cmd.ordered (c : Cmd) : Bool := (byteAt c.packet 2).toNat.testBit 1
def Cmd.itemList (c : Cmd) : Bool := (byteAt c.packet 2).toNat.testBit 2
def Cmd.indirect (c : Cmd) : Bool := (byteAt c.packet 2).toNat.testBit 3

/-- The address of the item-status list (bytes 56 to 63). -/
def Cmd.listAddr (c : Cmd) : Nat := leAt c.packet 56 8

/-- The parameter in packet bytes `b` to `b + n - 1`; a byte past those read is 0 (R69). -/
def Cmd.p (c : Cmd) (b n : Nat) : Nat := leAt c.params (b - 8) n

/-- Bits `[lo + w - 1 : lo]` of the parameter that starts at packet byte `b`. -/
def Cmd.pb (c : Cmd) (b lo w : Nat) : Nat := bitsOf (c.p b 8) lo w

/-- One flag bit of packet byte `b`. -/
def Cmd.flag (c : Cmd) (b i : Nat) : Bool := (c.p b 1).testBit i

/-- The index of a command's ring pair (R61). -/
def Cmd.pair (c : Cmd) : Nat := 16 * c.client + c.ring

/-- Whether a command's final reply is not yet known. -/
def Cmd.isOpen (c : Cmd) : Bool := c.phase != .replied

/-- The command in flight with an identity. -/
def State.cmdOf (s : State) (id : Nat) : Option Cmd := s.cmd.inflight.find? fun c => c.id == id

/-- Replaces the record of a command in flight. -/
def State.setCmd (s : State) (c : Cmd) : State :=
  { s with cmd := { s.cmd with inflight := s.cmd.inflight.map fun d => if d.id == c.id then c else d } }

/-- Whether a command has started: it has begun its effects, or has been refused. -/
def Cmd.begun (c : Cmd) : Bool := c.phase != .queued && c.phase != .started

/-- Whether a dispatched command may start now (R76): every earlier command of its ring has started, none earlier of its ring and
opcode range has effects still to finish, and, with ordered set, none earlier of its ring is in flight. -/
def State.mayStart (s : State) (c : Cmd) : Bool :=
  (s.cmd.inflight.takeWhile fun d => d.id != c.id).all fun d =>
    !(d.client == c.client && d.ring == c.ring) ||
    (!c.ordered && d.begun && (d.opcode / 256 != c.opcode / 256 || (d.phase == .deferred && d.second) || d.phase == .replied))

/-- The status codes of the reply table. -/
def stDone : Nat := 0x0000
def stFailedItems : Nat := 0x0001
def stDeferred : Nat := 0x0002
def stBadOpcode : Nat := 0x0100
def stBadParam : Nat := 0x0101
def stNotPermitted : Nat := 0x0102
def stBusyRetry : Nat := 0x0103
def stLimit : Nat := 0x0104
def stReset : Nat := 0x0200
def stThermal : Nat := 0x0201
def stPower : Nat := 0x0202
def stSoftware : Nat := 0x0203
def stFault : Nat := 0x0300
def stDegraded : Nat := 0x0301

/-- Whether an item status counts as done: DONE, or DEGRADED_COMPLETION (R314, log entry 9). -/
def Item.isDone (i : Item) : Bool := i.status == stDone || i.status == stDegraded

/-- The detail word after a status with failed items: the index of the first failed item and its status in one byte (R73). -/
def detailOf (items : List Item) : Nat :=
  match items.findIdx? (fun i => !i.isDone) with
  | none => 0
  | some k =>
    let st := (items.getD k ⟨0, 0, 0⟩).status
    k % 0x1000000 + ((st / 256 % 16) * 16 + st % 16) * 0x1000000

/-- Puts a command's final reply into the reply store; the command leaves flight when it is written (R67, R86). -/
def State.putReply (s : State) (c : Cmd) (status total done failed detail : Nat) : State :=
  let s := s.setCmd { c with phase := .replied }
  { s with cmd := { s.cmd with replies := s.cmd.replies ++
    [⟨c.id, c.client, c.ring, c.opcode, status, c.tag, total, done, failed, detail, true, c.notify, none⟩] } }

/-- Refuses a command: every state unchanged but for the reply (R72, R73). -/
def State.refuse (s : State) (c : Cmd) (status detail : Nat) : State := s.putReply c status 0 0 0 (detail % 65536)

/-- The bytes of an item-status entry (R74). -/
def Item.bytes (i : Item) : List Byte := leBytes 2 i.status ++ leBytes 2 i.reason ++ leBytes 4 i.value

/-- Ends a command with the results of its items; `cut` is the status of a command that was stopped, `none` where it
ran to its end (R72, R73). The record keeps the items for their list, which is written before the reply (R74). -/
def State.finishAs (s : State) (c : Cmd) (items : List Item) (cut : Option Nat := none) : State :=
  let done := (items.filter Item.isDone).length
  let failed := items.length - done
  let status := match cut with
    | some st => st
    | none => if failed = 0 then (if items.any fun i => i.status == stDegraded then stDegraded else stDone) else stFailedItems
  s.putReply { c with items := items.map some } status items.length done failed (if failed = 0 then 0 else detailOf items)

/-- Ends a command of one item (R72) whose single item did not fail. -/
def State.finishOne (s : State) (c : Cmd) (value : Nat := 0) : State := s.finishAs c [⟨stDone, 0, value⟩]

/-- Ends a command of one item that failed: the command's status is the item's (R72). -/
def State.failOne (s : State) (c : Cmd) (status : Nat) (reason : Nat := 0) : State :=
  s.finishAs c [⟨status, reason, 0⟩] (some status)

/-- The number of commands of a client that hold a DEFERRED reply and no final one (R75). -/
def State.deferredOf (s : State) (f : Nat) : Nat :=
  (s.cmd.inflight.filter fun c => c.client == f && c.phase == .deferred).length

/-- Whether one more deferred command of the client would be the 65th (R75). -/
def State.deferFull (s : State) (c : Cmd) : Bool := decide (64 ≤ s.deferredOf c.client)

/-- Accepts a command with a DEFERRED reply naming `total` items (R75); `aux` is kept for its later steps. -/
def State.defer (s : State) (c : Cmd) (total : Nat) (aux : List Nat := []) : State :=
  let s := s.setCmd { c with phase := .deferred, items := List.replicate total none, aux := aux }
  { s with cmd := { s.cmd with replies := s.cmd.replies ++
    [⟨c.id, c.client, c.ring, c.opcode, stDeferred, c.tag, total, 0, 0, 0, false, false, none⟩] } }

/-- Records the result of item `k` of a command, and ends the command when no item is open. -/
def State.itemDone (s : State) (id k : Nat) (i : Item) : State :=
  match s.cmdOf id with
  | none => s
  | some c =>
    if !c.isOpen then s else
    let items := c.items.set k (some i)
    if items.all Option.isSome then s.finishAs { c with items := items } (items.filterMap fun x => x)
    else s.setCmd { c with items := items }

/-- The items that a multi-item opcode names, where its packet says how many (the opcodes' own tables). -/
def Cmd.counts (c : Cmd) : List (Op × Nat) :=
  [(.viewSlopeLoad, c.p 18 2), (.viewCorrectionLoad, c.p 22 2), (.regionLayersRead, c.p 18 2), (.rayProbe, c.p 24 2),
   (.sqcSignatureLoad, c.p 24 4), (.sqcCapture, c.p 18 2), (.bayService, popCount 64 (c.p 8 8)), (.bentService, popCount 8 (c.p 8 1)),
   (.classSet, popCount 16 (c.p 8 2)), (.regionMapSet, c.p 16 2 * c.p 18 2), (.gateListSet, popCount 16 (c.p 28 2)),
   (.schedStatsRead, 16 * popCount 16 (c.p 16 2) + 16 * c.pb 18 0 1), (.laneService, popCount 12 (c.pb 10 0 12)), (.laneMeasure, c.p 18 2),
   (.laneTxSet, c.p 10 2), (.ethGateListSet, popCount 8 (c.p 28 1)), (.dramOpSet, popCount 4 (c.pb 8 0 4)),
   (.dramTrain, popCount 4 (c.pb 8 0 4) * popCount 4 (c.pb 9 0 4)), (.thermalSet, c.pb 9 0 7), (.thermalSample, c.pb 17 0 7),
   (.calRun, c.p 9 1), (.calRollback, c.p 14 2), (.truingRun, if c.p 8 1 = 0 then 8 else popCount 8 (c.p 8 1)), (.pfcProgram, c.p 17 1 + 1)]

/-- The items of a command that has not begun: those its packet names, and one where it names none or its block is not read (R72). -/
def Cmd.named (c : Cmd) : Nat :=
  let d := if c.phase = .queued && !c.indirect then { c with params := slice c.packet 8 (8 * (byteAt c.packet 3).toNat) } else c
  max 1 (((d.counts.find? fun e => e.1.code == d.opcode).map Prod.snd).getD 0)

/-- The items of a command, those it has not begun included. -/
def Cmd.allItems (c : Cmd) : List (Option Item) := if c.items.isEmpty then List.replicate c.named none else c.items

/-- Ends an open command at once: every item not done takes `status` (R72). -/
def State.abort (s : State) (id status : Nat) : State :=
  match s.cmdOf id with
  | none => s
  | some c =>
    if !c.isOpen then s else
    s.finishAs c (c.allItems.map fun x => x.getD ⟨status, 0, 0⟩) (some status)

/-- Reads a command's source: client space, or module DRAM within the command's window; an access outside the window is
dropped, counted and in error (R55, R85; log entry 14). -/
def State.srcRead (s : State) (b : Bus) (c : Cmd) (isDram : Bool) (addr n : Nat) : State × List Byte × Bool :=
  if isDram && !c.inWindow addr n then (s.bump (R.HST_FN_DROPS_count c.client), List.replicate n 0, false)
  else s.fetchFrom b isDram addr n

/-- Writes a command's destination, as `srcRead` reads a source. -/
def State.dstWrite (s : State) (b : Bus) (c : Cmd) (isDram : Bool) (addr : Nat) (data : List Byte) : State × Bool :=
  if isDram && !c.inWindow addr data.length then (s.bump (R.HST_FN_DROPS_count c.client), false)
  else s.storeTo b c.client isDram addr data

/-- Reads `n` records of `size` bytes from `addr` on, up to the first that fails. -/
def State.readRecords (s : State) (b : Bus) (c : Cmd) (isDram : Bool) (addr size : Nat) : Nat → State × List (List Byte)
  | 0 => (s, [])
  | n + 1 =>
    match s.srcRead b c isDram addr size with
    | (s, d, true) =>
      let (s, rest) := s.readRecords b c isDram (addr + size) size n
      (s, d :: rest)
    | (s, _, false) => (s, [])

/-- Writes one record per item; a failed write fails that item with HARDWARE_FAULT and the rest go on (R536). -/
def State.writeRecords (s : State) (b : Bus) (c : Cmd) (isDram : Bool) (addr : Nat) : List (List Byte × Item) → State × List Item
  | [] => (s, [])
  | (d, i) :: rest =>
    let (s, ok) := s.dstWrite b c isDram addr d
    let (s, items) := s.writeRecords b c isDram (addr + d.length) rest
    (s, (if ok then i else ⟨stFault, 0, 0⟩) :: items)

/-- `done` items done and `failed` items failed with HARDWARE_FAULT. -/
def doneThenFault (done failed : Nat) : List Item :=
  List.replicate done ⟨stDone, 0, 0⟩ ++ List.replicate failed ⟨stFault, 0, 0⟩

/-- Runs the body of an opcode again on a command that waits in the running phase, or on one that may start. -/
def State.runOpAgain (s : State) (id : Nat) (op : Op) (f : Cmd → State → State) : State :=
  match s.cmdOf id with
  | none => s
  | some c =>
    if c.opcode == op.code && (c.phase == .running || (c.phase == .started && s.mayStart c)) then f c s else s

/-- A started command waits: it has taken no effect yet. -/
def State.hold (s : State) (c : Cmd) : State := s.setCmd { c with phase := .running }

/-- Runs the body of an opcode on the command `id`: the command must be dispatched, carry the opcode and be allowed to
start (R76); otherwise nothing happens (log entry 10). -/
def State.runOp (s : State) (id : Nat) (op : Op) (f : Cmd → State → State) : State :=
  match s.cmdOf id with
  | none => s
  | some c => if c.opcode == op.code && c.phase == .started && s.mayStart c then f c s else s

end Sys2Proof.Machine
end

