-- ==== Sys2Proof/Machine/Comma.lean ====
section
/-! DEFINITION. The comma, the mask M and the block counts of a link's lanes (R243, R244, R249, R250). -/

namespace Sys2Proof.Machine

open Sys2Proof

/-- The comma's 640 line bits: symbols 0x3FC and 0x003 alternating, 64 of them, bit 0 first. -/
def commaBits : Nat := (List.range 32).foldl (fun a i => a + (0x3FC + 0x003 * 2 ^ 10) * 2 ^ (20 * i)) 0

/-- One bit of the 31-bit shift register with polynomial x^31 + x^28 + 1: the oldest bit leaves (R250; log entry 243). -/
def lfsrStep (reg : Nat) : Nat := reg / 2 + (reg + reg / 8) % 2 * 2 ^ 30

/-- M (R250): 5,440 bits of the register seeded with all ones, first output bit first. -/
def commaMask : Nat :=
  ((List.range 5440).foldl (fun (a : Nat × Nat) i => (lfsrStep a.1, a.2 + a.1 % 2 * 2 ^ i)) (2 ^ 31 - 1, 0)).2

/-- Whether a window counted against a codeword equals the comma (R250): `before` holds the 639 line bits ahead of the codeword, and
`block` says that an alignment block follows it. -/
def hasComma (before word : Nat) (block : Bool) : Bool :=
  let bits := before % 2 ^ 639 + word % 2 ^ 5440 * 2 ^ 639 + if block then commaBits % 2 ^ 639 * 2 ^ 6079 else 0
  (List.range (if block then 6079 else 5440)).any fun e => bits / 2 ^ e % 2 ^ 640 == commaBits

/-- A codeword as a lane sends it (R250): as formed, else XORed with M and flagged; none where both forms hold the comma. -/
def maskWord (before word : Nat) (block : Bool) : Option (Nat × Bool) :=
  if !hasComma before word block then some (word, false)
  else if !hasComma before (word ^^^ commaMask) block then some (word ^^^ commaMask, true)
  else none

/-- A stripe of group `q` goes out (R250): its masked codewords are counted, or it is a pause stripe; a control or pause codeword that
holds the comma both ways is formed again with another nonce, and comes again. -/
def State.sendStripe (s : State) (q : Nat) (st : Stripe) : State :=
  let words := st.words.map fun w => maskWord w.1 w.2 st.block
  if words.all Option.isSome then
    let sent := words.filterMap id
    (s.bumpBy (R.PNL_GROUP_CNT_count q 8) (sent.filter Prod.snd).length).emit (.stripe q sent false)
  else if st.data then (s.bump (R.PNL_GROUP_CNT_count q 7)).emit (.stripe q [] true)
  else s

/-! ## Block counts (R244, R249, R272) -/

/-- Slots since the first alignment block after link-up at F = `at_`: one every 102.4 ns (R243). -/
def slotsSince (at_ now : Nat) : Nat := (now - at_) * 5 / 512

/-- The codewords that have begun by slot `k`: every 257th slot is an alignment block (R243, R244). -/
def codewordsBy (k : Nat) : Nat := k - k / 257

/-- The count of the second alignment block after the next control stripe (R272): codeword n is a control codeword when
n mod 96 = 95, and n / 256 is the count of the last block before it. -/
def blockA (at_ now : Nat) : Nat := (codewordsBy (slotsSince at_ now) / 96 * 96 + 95) / 256 + 2

end Sys2Proof.Machine
end

