-- ==== Sys2Proof/Machine/Codes.lean ====
section
/-! DEFINITION. Check codes: the CRCs of R87, R166, R254 and R394, and Adler-32. -/

namespace Sys2Proof

/-- One bit of a reflected 32-bit CRC with reflected polynomial `poly`. -/
def crcBit (poly x : Nat) : Nat := if x % 2 = 1 then (x / 2) ^^^ poly else x / 2

/-- One byte of a reflected 32-bit CRC. -/
def crcByte (poly x : Nat) (b : Byte) : Nat :=
  let f := crcBit poly
  f (f (f (f (f (f (f (f (x ^^^ b.toNat))))))))

/-- A reflected CRC with initial value and final XOR 0xFFFF_FFFF. -/
def crcReflected (poly : Nat) (data : List Byte) : Nat :=
  (data.foldl (crcByte poly) 0xFFFFFFFF) ^^^ 0xFFFFFFFF

/-- CRC-32C: polynomial 0x1EDC_6F41, reflected (R87, R166). -/
def crc32c (data : List Byte) : Nat := crcReflected 0x82F63B78 data

/-- CRC-32 of IEEE 802.3: polynomial 0x04C1_1DB7, reflected. -/
def crc32 (data : List Byte) : Nat := crcReflected 0xEDB88320 data

/-- One bit of the 16-bit CRC with polynomial 0x1021, not reflected. -/
def crc16Bit (x : Nat) : Nat := if x.testBit 15 then ((x * 2) ^^^ 0x1021) % 65536 else x * 2 % 65536

/-- CRC-16 with polynomial 0x1021, initial value 0xFFFF, no final XOR (R254). -/
def crc16 (data : List Byte) : Nat :=
  data.foldl (fun x b => crc16Bit (crc16Bit (crc16Bit (crc16Bit (crc16Bit (crc16Bit (crc16Bit (crc16Bit (x ^^^ (b.toNat * 256)))))))))) 0xFFFF

/-- Adler-32 (RFC 1950). -/
def adler32 (data : List Byte) : Nat :=
  let r := data.foldl (fun (p : Nat × Nat) b => let a := (p.1 + b.toNat) % 65521; (a, (p.2 + a) % 65521)) (1, 0)
  r.2 * 65536 + r.1

/-- A 16-byte message of the panel link: type, byte 1, payload bytes 2 to 13, CRC-16 (R254). -/
def linkMessage (type one : Nat) (payload : List Byte) : List Byte :=
  let d := leBytes 1 type ++ leBytes 1 one ++ slice payload 0 12
  d ++ leBytes 2 (crc16 d)

end Sys2Proof
end

