-- ==== Sys2Proof/Machine/Field.lean ====
section
/-! DEFINITION. The ray field and the scene as functions of the state: geometry, regions, layers, kerfs, footprints and
region layer lists (R13 to R29, R36 to R45, R161, R199 to R206, R212, R213). -/

namespace Sys2Proof.Machine

open Sys2Proof

/-! ## Geometry (R13 to R20) -/

def State.geomValid (s : State) : Bool := s.fld R.PNL_GEOM_VIEWS_valid == 1
def State.hx (s : State) : Nat := s.fld R.PNL_GEOM_HOGELS_width
def State.hy (s : State) : Nat := s.fld R.PNL_GEOM_HOGELS_height
def State.vx (s : State) : Nat := s.fld R.PNL_GEOM_VIEWS_vx
def State.vy (s : State) : Nat := s.fld R.PNL_GEOM_VIEWS_vy
/-- The view count V. -/
def State.views (s : State) : Nat := s.vx * s.vy
/-- Bits per component. -/
def State.depth (s : State) : Nat := s.fld R.PNL_GEOM_VIEWS_depth
def State.segCount (s : State) : Nat := s.fld R.PNL_GEOM_VIEWS_segments

/-- The quad mask of segment `g`. -/
def State.quadMask (s : State) (g : Nat) : Nat := bitsOf (s.reg R.PNL_SEG_QUADS).toNat (4 * g) 4

/-- x0, y0, width and height of segment `g`. -/
def State.segRect (s : State) (g : Nat) : Nat × Nat × Nat × Nat :=
  (s.fld (R.PNL_SEG_ORIGIN_x0 g), s.fld (R.PNL_SEG_ORIGIN_y0 g), s.fld (R.PNL_SEG_SIZE_width g), s.fld (R.PNL_SEG_SIZE_height g))

/-- The segment that holds hogel (x, y). -/
def State.segOfHogel (s : State) (x y : Nat) : Nat :=
  ((List.range 4).find? fun g =>
    let (x0, y0, w, h) := s.segRect g
    decide (x0 ≤ x) && decide (x < x0 + w) && decide (y0 ≤ y) && decide (y < y0 + h)).getD 0

/-- The segment that gives a commit group its boundaries: an absent one selects segment 0 (R182). -/
def State.segOrZero (s : State) (g : Nat) : Nat := if g < s.segCount then g else 0

/-- The segment that lane group `q` serves (R212). -/
def State.segOfGroup (s : State) (q : Nat) : Nat :=
  ((List.range 4).find? fun g => (s.quadMask g).testBit (q / 4)).getD 0

/-- Whether lane group `q` serves segment `g`. -/
def State.servesSeg (s : State) (q g : Nat) : Bool := (s.quadMask g).testBit (q / 4)

/-- Whether lane group `q` is in service (R213, R266). -/
def State.groupIn (s : State) (q : Nat) : Bool := s.fld (R.PNL_GROUP_STATUS_in_service q) == 1

/-- The working lanes of lane group `q`: a lane works only while its group is in service (R266). -/
def State.groupLanes (s : State) (q : Nat) : Nat :=
  if s.groupIn q then popCount 12 (s.fld (R.PNL_GROUP_STATUS_lanes q)) else 0

/-- The payload rate of `n` lanes in bit/s (R245). -/
def laneRate (n : Nat) : Nat := n * 53125000000 * 95 / 102

/-! ## Regions (R27 to R29, R161, R206) -/

def State.kx (s : State) : Nat := 8 * s.fld R.DMG_REGION_GRID_kx_div8
def State.ky (s : State) : Nat := 8 * s.fld R.DMG_REGION_GRID_ky_div8
def State.gx (s : State) : Nat := s.fld R.DMG_REGION_COUNT_gx
def State.gy (s : State) : Nat := s.fld R.DMG_REGION_COUNT_gy
/-- Whether a region grid is active. -/
def State.gridOn (s : State) : Bool := s.kx != 0
/-- The number of regions of the active grid. -/
def State.regionCount (s : State) : Nat := s.gx * s.gy

/-- Hogel columns and rows of region `r`: x0, y0, width, height (R27). -/
def State.regionRect (s : State) (r : Nat) : Nat × Nat × Nat × Nat :=
  let x := r % s.gx * s.kx
  let y := r / s.gx * s.ky
  (x, y, min s.kx (s.hx - x), min s.ky (s.hy - y))

/-- The segment of region `r`. -/
def State.segOfRegion (s : State) (r : Nat) : Nat :=
  let (x, y, _, _) := s.regionRect r
  s.segOfHogel x y

/-- Padded bytes of one ray row of `w` hogels (R161). -/
def State.rowBytes (s : State) (w : Nat) : Nat := ceilDiv (w * s.views * 3 * s.depth) 8

/-- The size of region `r` in bytes (R161). -/
def State.regionBytes (s : State) (r : Nat) : Nat :=
  let (_, _, w, h) := s.regionRect r
  h * s.rowBytes w

/-- The regions of grid columns gx0 to gx1 - 1 and rows gy0 to gy1 - 1, row-major. -/
def State.regionBlock (s : State) (gx0 gx1 gy0 gy1 : Nat) : List Nat :=
  (List.range (gy1 - gy0)).flatMap fun j => (List.range (gx1 - gx0)).map fun i => (gy0 + j) * s.gx + gx0 + i

/-- Every region of the active grid. -/
def State.allRegions (s : State) : List Nat := List.range s.regionCount

/-- The regions that a hogel rectangle widened by `k` touches (R206). -/
def State.regionsOf (s : State) (r : Rect) (k : Nat) : List Nat :=
  if !s.gridOn then [] else
  let x0 := max 0 (r.x0 - k)
  let x1 := min (s.hx : Int) (r.x1 + k)
  let y0 := max 0 (r.y0 - k)
  let y1 := min (s.hy : Int) (r.y1 + k)
  if x1 ≤ x0 ∨ y1 ≤ y0 ∨ r.x1 ≤ r.x0 ∨ r.y1 ≤ r.y0 then []
  else s.regionBlock (x0.toNat / s.kx) ((x1 - 1).toNat / s.kx + 1) (y0.toNat / s.ky) ((y1 - 1).toNat / s.ky + 1)

/-- Whether the grid kx × ky is valid for the geometry; the first failing case of the table of R32, or none (R27). -/
def State.gridFault (s : State) (kx ky : Nat) : Option (Nat × Nat) :=
  if s.geomValid = false then some (stBadParam, 3)
  else if kx % 8 ≠ 0 ∨ kx < 8 ∨ 256 < kx ∨ ky % 8 ≠ 0 ∨ ky < 8 ∨ 256 < ky then some (stBadParam, 1)
  else if (List.range s.segCount).any fun g =>
      let (x0, y0, w, h) := s.segRect g
      [x0, x0 + w].any (fun e => e % kx != 0 && e != s.hx) || [y0, y0 + h].any (fun e => e % ky != 0 && e != s.hy) then
    some (stBadParam, 2)
  else if 65536 < ceilDiv s.hx kx * ceilDiv s.hy ky then some (stLimit, 1)
  else if 1048576 < kx * ky * s.views then some (stLimit, 2)
  else none

/-- The default grid of R28: 32, else the smallest square side from 40 to 256 that is valid. -/
def State.defaultGrid (s : State) : Option Nat :=
  (32 :: (List.range 28).map fun i => 40 + 8 * i).find? fun k => (s.gridFault k k).isNone

/-! ## Groups of regions (R213) -/

/-- The lane groups in service that serve segment `g`, ascending. -/
def State.groupsOf (s : State) (g : Nat) : List Nat :=
  (List.range 16).filter fun q => s.servesSeg q g && s.groupIn q

/-- The lane group of region `r` under pin `pin`; with no group in service, the one the interleave over every group of
the segment gives (R213; log entry 12). -/
def State.groupFor (s : State) (r : Nat) (pin : Option Nat) : Nat :=
  let g := s.segOfRegion r
  let l := s.groupsOf g
  let all := (List.range 16).filter fun q => s.servesSeg q g
  let of := if l.isEmpty then all else l
  let diag := of.getD ((r % s.gx + r / s.gx) % max 1 of.length) 0
  match pin with
  | some p => if of.contains p then p else diag
  | none => diag

/-- The pin of region `r` in SCH_REGION_MAP. -/
def State.pinOf (s : State) (r : Nat) : Option Nat :=
  if s.fld (R.SCH_REGION_MAP_pin r) = 1 then some (s.fld (R.SCH_REGION_MAP_group r)) else none

/-! ## Layers (R33 to R44) -/

/-- A layer as one copy of its register set describes it. -/
structure Layer where
  n : Nat
  enable : Bool
  kind : Nat
  premul : Bool
  limited : Bool
  format : Nat
  group : Nat
  preset : Nat
  priority : Nat
  w : Nat
  h : Nat
  dw : Nat
  dh : Nat
  x0 : Int
  y0 : Int
  a : Int
  b : Int
  c : Int
  k : Int
  base : Nat
  pitch : Nat
  keyMin : Nat
  keyMax : Nat
  keyEnable : Nat
  colour : Nat × Nat × Nat
  matrix : List Int
deriving DecidableEq, Repr

/-- Whether layer `n` is a video layer (R33). -/
def isVideo (n : Nat) : Bool := decide (n < 32)

/-- The layer that a copy `rd` of the register file describes. -/
def layerOf (rd : Nat → RegWord) (n : Nat) : Layer :=
  let f := fun (l : Loc) => fieldGet (rd l.off) l.lo l.w
  { n := n
    enable := f (R.SCN_LAYER_CFG_enable n) == 1
    kind := f (R.SCN_LAYER_CFG_kind n)
    premul := f (R.SCN_LAYER_CFG_premul n) == 1
    limited := f (R.SCN_LAYER_CFG_limited n) == 1
    format := f (R.SCN_LAYER_CFG_format n)
    group := f (R.SCN_LAYER_CFG_group n)
    preset := f (R.SCN_LAYER_CFG_preset n)
    priority := f (R.SCN_LAYER_CFG_priority n)
    w := f (R.SCN_LAYER_SRC_width n)
    h := f (R.SCN_LAYER_SRC_height n)
    dw := f (R.SCN_LAYER_DST_width_m1 n) + 1
    dh := f (R.SCN_LAYER_DST_height_m1 n) + 1
    x0 := sext 16 (f (R.SCN_LAYER_POS_x0 n))
    y0 := sext 16 (f (R.SCN_LAYER_POS_y0 n))
    a := sext 24 (f (R.SCN_LAYER_ZA_a n))
    b := sext 22 (f (R.SCN_LAYER_ZB_b n))
    c := sext 22 (f (R.SCN_LAYER_ZC_c n))
    k := sext 20 (f (R.SCN_LAYER_ZK_k n))
    base := 64 * f (R.SCN_LAYER_BASE_base n)
    pitch := 64 * f (R.SCN_LAYER_PITCH_pitch n)
    keyMin := (rd (R.SCN_LAYER_KEYMIN n)).toNat
    keyMax := (rd (R.SCN_LAYER_KEYMAX n)).toNat
    keyEnable := f (R.SCN_LAYER_COLOUR_B_key_enable n)
    colour := (f (R.SCN_LAYER_COLOUR_r n), f (R.SCN_LAYER_COLOUR_g n), f (R.SCN_LAYER_COLOUR_B_b n))
    matrix := if n < 32 then (List.range 9).map fun i =>
        sext 16 (if i = 8 then f (R.SCN_LAYER_MATRIX8_m8 n)
          else if i % 2 = 0 then f (R.SCN_LAYER_MATRIX_lo n (i / 2)) else f (R.SCN_LAYER_MATRIX_hi n (i / 2)))
      else [] }

/-- A layer in shadow state and in active state (R34). -/
def State.shadowLayer (s : State) (n : Nat) : Layer := layerOf s.reg n
def State.activeLayer (s : State) (n : Nat) : Layer := layerOf s.act n

/-- Slots per ray (R33). -/
def Layer.slots (l : Layer) : Nat := if isVideo l.n && l.kind == 1 then 4 else 1

/-- The pre-shrink ratios of R44. -/
def Layer.ratioX (l : Layer) : Nat := if l.dw < l.w then ceilDiv l.w l.dw else 1
def Layer.ratioY (l : Layer) : Nat := if l.dh < l.h then ceilDiv l.h l.dh else 1
/-- The picture size after pre-shrink (R44). -/
def Layer.pw (l : Layer) : Nat := ceilDiv l.w l.ratioX
def Layer.ph (l : Layer) : Nat := ceilDiv l.h l.ratioY

/-- The steps of R136, u1.16. -/
def Layer.stepX (l : Layer) : Nat := (l.pw * 65536 + l.dw / 2) / l.dw
def Layer.stepY (l : Layer) : Nat := (l.ph * 65536 + l.dh / 2) / l.dh

/-- The first failed test of R44: 1 for dh, 2 for dv, 3 for DW, 4 for DH. -/
def Layer.shrinkFault (l : Layer) : Option Nat :=
  if 8 < l.ratioX then some 1
  else if min 8 (65536 / (4 * l.w)) < l.ratioY then some 2
  else if 16 * l.pw < l.dw then some 3
  else if 16 * l.ph < l.dh then some 4
  else none

/-- The base plane's depth at a panel point, s16.8, exact (R131 without its saturation). -/
def Layer.planeAt (l : Layer) (px py : Int) : Int := l.a + (l.b * px + l.c * py + 524288) / 1048576

/-- The depths of R38 at the corners of the destination rectangle. -/
def Layer.cornerDepths (l : Layer) : List Int :=
  let zs := [(l.x0, l.y0), (l.x0 + l.dw, l.y0), (l.x0, l.y0 + l.dh), (l.x0 + l.dw, l.y0 + l.dh)].map fun p =>
    l.planeAt (p.1 * 256) (p.2 * 256)
  if isVideo l.n && l.kind == 1 then zs ++ zs.map fun z => z + l.k else zs

/-- The depth bound Zmax, u16.8 (R38). -/
def Layer.zmax (l : Layer) : Nat := (l.cornerDepths.map Int.natAbs).foldl max 0

/-- Whether the depth bound of R38 is met: every corner within 1,024 hogel pitches. -/
def Layer.depthOk (l : Layer) : Bool := decide (l.zmax ≤ 262144)

/-- The destination rectangle (R36). -/
def Layer.rect (l : Layer) : Rect := ⟨l.x0, l.x0 + l.dw, l.y0, l.y0 + l.dh⟩

/-- The kerf of a depth bound under slope bound `smax` (R202). -/
def kerfOf (zmax smax : Nat) : Nat := ceilDiv (zmax * smax) 8388608

/-- The kerf in force of layer `n`. -/
def State.kerf (s : State) (n : Nat) : Nat := s.fld (R.DMG_LAYER_KERF_kerf n)

/-- The regions of a layer's footprint under kerf `k`; a disabled layer has none (R199). -/
def State.footprint (s : State) (l : Layer) (k : Nat) : List Nat := if l.enable then s.regionsOf l.rect k else []

/-- The slope bound in u3.15 of the slopes in `rd`, with or without the correction bound (R203). -/
def State.slopeBound (s : State) (rd : Nat → RegWord) (corr : Bool) (floor : Nat) : Nat :=
  let m := (List.range s.views).foldl (fun m w =>
    let f := fun (l : Loc) => (sext 17 (fieldGet (rd l.off) l.lo l.w)).natAbs
    max m (max (f (R.SCN_VIEW_SLOPE_su w)) (f (R.SCN_VIEW_SLOPE_sv w)))) 0
  if corr then m + 16 * max floor (s.fld R.DMG_VCF_MAX_max) else m

/-! ## Region layer lists (R35, R45) -/

/-- Whether layer `a` comes before layer `b` (R35). -/
def layerBefore (a b : Layer) : Bool :=
  decide (b.priority < a.priority) || (a.priority == b.priority && decide (b.n < a.n))

/-- Inserts a layer into a list kept in the order of R35. -/
def insertLayer (l : Layer) : List Layer → List Layer
  | [] => [l]
  | m :: r => if layerBefore l m then l :: m :: r else m :: insertLayer l r

/-- Whether an enabled layer's footprint under kerf `k` meets region `r` (R45). -/
def State.layerMeets (s : State) (l : Layer) (k r : Nat) : Bool :=
  let (x, y, w, h) := s.regionRect r
  l.enable && decide (l.x0 - k < x + w) && decide ((x : Int) < l.x0 + l.dw + k) &&
  decide (l.y0 - k < y + h) && decide ((y : Int) < l.y0 + l.dh + k)

/-- The layers that meet region `r` in active state, in order, before the slot limit. -/
def State.layersMeeting (s : State) (r : Nat) : List Layer :=
  (((List.range 64).map s.activeLayer).filter fun l => s.layerMeets l (s.kerf l.n) r).foldl
    (fun acc l => insertLayer l acc) []

/-- The longest front part of a list whose slots sum to at most `room`. -/
def fitSlots : Nat → List Layer → List Layer
  | _, [] => []
  | room, l :: r => if l.slots ≤ room then l :: fitSlots (room - l.slots) r else []

/-- The layer list of region `r` (R45). -/
def State.layerList (s : State) (r : Nat) : List Layer := fitSlots 16 (s.layersMeeting r)

/-- The layers dropped from region `r` by the slot limit. -/
def State.droppedIn (s : State) (r : Nat) : List Layer :=
  let l := s.layersMeeting r
  l.drop (fitSlots 16 l).length

/-- Every region with the layers that its list drops. -/
def State.regionDrops (s : State) : List (Nat × List Layer) := s.allRegions.map fun r => (r, s.droppedIn r)

/-- SCN_LAYER_STATUS.drop_regions: the regions whose current list drops each layer. -/
def State.showDrops (s : State) : State :=
  let all := s.regionDrops
  (List.range 64).foldl (fun t n =>
    t.setFld (R.SCN_LAYER_STATUS_drop_regions n) (min 65535 (all.filter fun p => p.2.any fun l => l.n == n).length)) s

/-- The slots of region `r` after R45. -/
def State.slotsOf (s : State) (r : Nat) : Nat := ((s.layerList r).map Layer.slots).sum

/-! ## Mapping texels to hogels (R200, R201) -/

/-- The hogel rectangle of a rectangle of source texels, unwidened by kerf; `rx`, `ry` are the pre-shrink ratios. -/
def Layer.mapTexels (l : Layer) (t : Rect) : Rect :=
  if isVideo l.n then
    let side := fun (t0 t1 : Int) (d step : Nat) (p0 : Int) (dw : Nat) =>
      let q0 := t0 / d - 2
      let q1 := (t1 + d - 1) / d + 2
      (max (p0 + q0 * 65536 / step - 1) p0, min (p0 + (q1 * 65536 + step - 1) / step + 1) (p0 + dw))
    let hxs := side t.x0 t.x1 l.ratioX l.stepX l.x0 l.dw
    let hys := side t.y0 t.y1 l.ratioY l.stepY l.y0 l.dh
    ⟨hxs.1, hxs.2, hys.1, hys.2⟩
  else ⟨l.x0 + t.x0, l.x0 + t.x1, l.y0 + t.y0, l.y0 + t.y1⟩

/-! ## Check regions (R163 to R169) -/

/-- The active definition of check region `c`. -/
def State.checkAct (s : State) (c : Nat) : CheckDef :=
  { enable := s.fld (R.GLU_SQC_CTL_enable c) == 1
    group := s.fld (R.GLU_SQC_CTL_group c)
    gx0 := s.fld (R.GLU_SQC_ORG_gx0 c)
    gy0 := s.fld (R.GLU_SQC_ORG_gy0 c)
    gw := s.fld (R.GLU_SQC_SIZE_gw c)
    gh := s.fld (R.GLU_SQC_SIZE_gh c)
    safe := (s.reg (R.GLU_SQC_SAFE c)).toNat }

/-- The shadow definition of check region `c`. -/
def State.checkShadow (s : State) (c : Nat) : CheckDef :=
  if s.glu.dirty.contains c then Store.get (fun _ => {}) s.glu.shadow c else s.checkAct c

/-- The member regions of a definition, row-major. -/
def State.members (s : State) (d : CheckDef) : List Nat :=
  s.regionBlock d.gx0 (d.gx0 + d.gw) d.gy0 (d.gy0 + d.gh)

/-- Whether grid position of region `r` lies in a definition. -/
def State.inCheck (s : State) (d : CheckDef) (r : Nat) : Bool :=
  d.enable && decide (d.gx0 ≤ r % s.gx) && decide (r % s.gx < d.gx0 + d.gw) &&
  decide (d.gy0 ≤ r / s.gx) && decide (r / s.gx < d.gy0 + d.gh)

/-! ## Ownership (R47) -/

/-- Whether client `f` may command layer `n`: unowned, its own, or PF0. -/
def State.mayUseLayer (s : State) (f n : Nat) : Bool :=
  f == 0 || s.fld (R.SCN_LAYER_STATUS_owned n) == 0 || s.fld (R.SCN_LAYER_STATUS_owner n) == f

end Sys2Proof.Machine
end

