-- ==== Sys2Proof/Machine/Ray.lean ====
section
/-! DEFINITION. Ray synthesis and glue-up to the bit: crossing, sampling, conversion, blending, rounding and packing
(R41 to R43, R129 to R143, R154 to R161). -/

namespace Sys2Proof.Machine

open Sys2Proof

/-! ## Colour (R41 to R43) -/

/-- A texel or a sample: R, G, B, A. -/
structure Rgba where
  r : Int
  g : Int
  b : Int
  a : Int
deriving DecidableEq, Repr

def Rgba.zero : Rgba := ⟨0, 0, 0, 0⟩

/-- mul16 of R42. -/
def mul16 (p q : Int) : Int := (p * q + 32767) / 65535

/-- Expands an unsigned component of `w` bits to u16 (R42 item 1). -/
def expand16 (w v : Nat) : Int :=
  match w with
  | 8 => v * 257
  | 10 => ((v <<< 6) ||| (v >>> 4) : Nat)
  | 2 => v * 21845
  | _ => v

/-- The raw components of a graphic texel in key order, and which of them the format carries (R40, R41). -/
def rawTexel (format word : Nat) : List (Option Nat) :=
  match format with
  | 0x8 => [some (bitsOf word 0 8), some (bitsOf word 8 8), some (bitsOf word 16 8), some (bitsOf word 24 8)]
  | 0x9 => [some (bitsOf word 0 10), some (bitsOf word 10 10), some (bitsOf word 20 10), some (bitsOf word 30 2)]
  | 0xA => [some (bitsOf word 0 16), some (bitsOf word 16 16), some (bitsOf word 32 16), some (bitsOf word 48 16)]
  | 0xB => [none, none, none, some (bitsOf word 0 8)]
  | _ => [some (bitsOf word 0 8), none, none, none]

/-- Whether a texel with these raw components is keyed (R41). -/
def Layer.keyed (l : Layer) (raw : List (Option Nat)) : Bool :=
  let part := (List.range 4).filterMap fun i =>
    if l.keyEnable.testBit i then (raw.getD i none).map fun v => (i, v) else none
  !part.isEmpty && part.all fun p =>
    decide (bitsOf l.keyMin (16 * p.1) 16 ≤ p.2) && decide (p.2 ≤ bitsOf l.keyMax (16 * p.1) 16)

/-- Converts a graphic texel that is not keyed (R42); `pal` reads the layer's palette. -/
def Layer.convertGraphic (l : Layer) (pal : Nat → Nat) (word : Nat) : Rgba :=
  let premulBy := fun (r g b a : Int) => if l.premul then (⟨r, g, b, a⟩ : Rgba) else ⟨mul16 r a, mul16 g a, mul16 b a, a⟩
  let of8888 := fun (x : Nat) =>
    premulBy (expand16 8 (bitsOf x 0 8)) (expand16 8 (bitsOf x 8 8)) (expand16 8 (bitsOf x 16 8)) (expand16 8 (bitsOf x 24 8))
  match l.format with
  | 0x8 => of8888 word
  | 0x9 => premulBy (expand16 10 (bitsOf word 0 10)) (expand16 10 (bitsOf word 10 10)) (expand16 10 (bitsOf word 20 10)) (expand16 2 (bitsOf word 30 2))
  | 0xA => premulBy (bitsOf word 0 16) (bitsOf word 16 16) (bitsOf word 32 16) (bitsOf word 48 16)
  | 0xB =>
    let a := expand16 8 (bitsOf word 0 8)
    ⟨mul16 l.colour.1 a, mul16 l.colour.2.1 a, mul16 l.colour.2.2 a, a⟩
  | _ => of8888 (pal (bitsOf word 0 8))

/-- The conversion matrix of a video layer (R43). -/
def Layer.coeffs (l : Layer) : List Int :=
  match l.preset with
  | 0 => [8192, 0, 12901, 8192, -1535, -3835, 8192, 15201, 0]
  | 1 => [8192, 0, 12080, 8192, -1348, -4681, 8192, 15412, 0]
  | _ => l.matrix

/-- Converts a video texel that is not keyed; `w` is 8 or 10, the bits per component (R43). -/
def Layer.convertVideo (l : Layer) (w y cb cr : Nat) : Rgba :=
  if l.preset = 2 then ⟨expand16 w cr, expand16 w y, expand16 w cb, 65535⟩
  else
    let sh := 16 - w
    let yy : Int := if l.limited then clampInt 0 65535 (((((y <<< sh : Nat) : Int) - 4096) * 38304 + 16384) / 32768) else expand16 w y
    let chroma := fun (c : Nat) =>
      if l.limited then clampInt (-32768) 32767 (((((c <<< sh : Nat) : Int) - 32768) * 37449 + 16384) / 32768)
      else ((c <<< sh : Nat) : Int) - 32768
    let b := chroma cb
    let r := chroma cr
    let row := fun (i : Nat) =>
      clampInt 0 65535 ((l.coeffs.getD (3 * i) 0 * yy + l.coeffs.getD (3 * i + 1) 0 * b + l.coeffs.getD (3 * i + 2) 0 * r + 4096) / 8192)
    ⟨row 0, row 1, row 2, 65535⟩

/-! ## Pictures (R122) -/

/-- The page of the pool that holds page `i` of a stream's space, which lies in the runs given. -/
def pageAt : List (Nat × Nat) → Nat → Nat
  | [], i => i
  | (a, n) :: r, i => if i < n then a + i else pageAt r (i - n)

/-- The module address of byte `o` of a space in the pool that starts at page `base` (R122). -/
def poolMa (base : Nat) (runs : List (Nat × Nat)) (o : Nat) : Nat := 4096 * (base + pageAt runs (o / 4096)) + o % 4096

/-- The byte offset, in its stream's space, of the output picture the engines sample for decode stream `k` = 2 n + depth; none
before its first picture is active (R123). -/
def State.activePicture (s : State) (k : Nat) : Option Nat :=
  match Store.get (fun _ => none) s.dec.streams k with
  | none => none
  | some d => d.active.map fun slot => d.outAt + slot * d.outBytes

/-- The active pictures now: decode stream, byte offset, and the pages of the stream. -/
def State.picturesNow (s : State) : List (Nat × Nat × List (Nat × Nat)) :=
  (List.range 64).filterMap fun k =>
    match Store.get (fun _ => none) s.dec.streams k, s.activePicture k with
    | some d, some o => some (k, o, d.runs)
    | _, _ => none

/-- A sample of `n` bytes. -/
def sampleAt (rb : Nat → Byte) (a n : Nat) : Nat := leNat ((List.range n).map fun j => rb (a + j))

/-- Bits per component of a video format. -/
def videoBits (format : Nat) : Nat := if format = 0 then 8 else 10

/-- The converted texel (i, j) of a video layer's picture, whose bytes `rb` reads, and whether it was keyed (R43, R122, R138). -/
def Layer.videoTexel (l : Layer) (rb : Nat → Byte) (i j : Nat) : Rgba × Bool :=
  let b := if l.format = 0 then 1 else 2
  let x := l.pw
  let y := sampleAt rb ((j * x + i) * b) b
  let plane := x * l.ph * b
  let c := if l.format = 2 then plane + (j * x + i) * 2 * b else plane + (j / 2 * ceilDiv x 2 + i / 2) * 2 * b
  let cb := sampleAt rb c b
  let cr := sampleAt rb (c + b) b
  if l.keyed [some y, some cb, some cr, none] then (Rgba.zero, true)
  else (l.convertVideo (videoBits l.format) y cb cr, false)

/-- The converted texel (i, j) of a graphic layer, and whether it was keyed (R40, R42, R138). -/
def Layer.graphicTexel (l : Layer) (rb : Nat → Byte) (pal : Nat → Nat) (i j : Nat) : Rgba × Bool :=
  if 8 ≤ l.format ∧ l.format ≤ 12 then
    let n := match l.format with | 0xA => 8 | 0x8 => 4 | 0x9 => 4 | _ => 1
    let word := sampleAt rb (l.base + j * l.pitch + i * n) n
    if l.keyed (rawTexel l.format word) then (Rgba.zero, true) else (l.convertGraphic pal word, false)
  else (Rgba.zero, false)

/-! ## Crossing (R131 to R134, R136) -/

/-- Saturation to s16.8 (R131, R132). -/
def sat24 (v : Int) : Int := clampInt (-8388608) 8388607 v

/-- The depth of the base plane at (px, py) (R131). -/
def Layer.depthAt (l : Layer) (px py : Int) : Int := sat24 (l.planeAt px py)

/-- The crossing of a ray from centre `c` with depth z under slope `sl`, on one axis (R132). -/
def crossAt (c z sl : Int) : Int := sat24 (c + (z * sl + 16384) / 32768)

/-- Texel coordinate of a destination offset on one axis, 8 fraction bits (R136). -/
def texCoord (d : Int) (step : Nat) : Int := (d * step + 32768) / 65536 - 128

/-- The polyphase weights (R139). -/
def phaseWeights : List (List Int) :=
  [[0, 1024, 0, 0], [-28, 1014, 40, -2], [-49, 987, 93, -7], [-63, 944, 158, -15], [-72, 888, 232, -24], [-76, 821, 313, -34],
   [-75, 745, 399, -45], [-71, 663, 487, -55], [-64, 576, 576, -64], [-55, 487, 663, -71], [-45, 399, 745, -75],
   [-34, 313, 821, -76], [-24, 232, 888, -72], [-15, 158, 944, -63], [-7, 93, 987, -49], [-2, 40, 1014, -28]]

/-- A weight of R139. -/
def weight (p c : Nat) : Int := (phaseWeights.getD p []).getD c 0

/-- One component of the polyphase sample from its 16 taps, row by row (R139). -/
def polyphase (px py : Nat) (t : List Int) : Int :=
  let row := fun (r : Nat) => ((List.range 4).map fun c => weight px c * t.getD (4 * r + c) 0).foldl (· + ·) 0
  let sum := ((List.range 4).map fun r => weight py r * row r).foldl (· + ·) 0
  clampInt 0 65535 ((sum + 524288) / 1048576)

/-- A clamped tap index (R137). -/
def tapIndex (i : Int) (n : Nat) : Nat := (clampInt 0 ((n : Int) - 1) i).toNat

/-- The colour sample of a video layer at destination offset (dx, dy) (R136 to R140); `pic` none reads nothing (R123). -/
def Layer.videoSample (l : Layer) (pic : Option (Nat → Byte)) (dx dy : Int) : Rgba × Bool :=
  match pic with
  | none => (Rgba.zero, false)
  | some rb =>
    let tx4 := (texCoord dx l.stepX + 8) / 16
    let ty4 := (texCoord dy l.stepY + 8) / 16
    let i := tx4 / 16
    let j := ty4 / 16
    let px := (tx4 % 16).toNat
    let py := (ty4 % 16).toNat
    let taps := (List.range 4).flatMap fun (r : Nat) => (List.range 4).map fun (c : Nat) =>
      l.videoTexel rb (tapIndex (i - 1 + (c : Int)) l.pw) (tapIndex (j - 1 + (r : Int)) l.ph)
    let comp := fun (f : Rgba → Int) => polyphase px py (taps.map fun t => f t.1)
    let a := comp Rgba.a
    (⟨min (comp Rgba.r) a, min (comp Rgba.g) a, min (comp Rgba.b) a, a⟩, taps.any Prod.snd)

/-- The depth sample at a crossing point (R142); 0 before the first depth picture (R123). -/
def Layer.depthSample (l : Layer) (pic : Option (Nat → Byte)) (xq yq : Int) : Nat :=
  match pic with
  | none => 0
  | some rb =>
    let i := tapIndex ((texCoord (xq - l.x0 * 256) l.stepX + 128) / 256) l.pw
    let j := tapIndex ((texCoord (yq - l.y0 * 256) l.stepY + 128) / 256) l.ph
    sampleAt rb ((j * l.pw + i) * 2) 2

/-- What a layer contributes to a ray, with what RAY_PROBE reports of it (R129, R153). -/
structure Hit where
  layer : Nat
  inside : Bool
  keyed : Bool
  gStar : Nat
  z : Int
  xq : Int
  yq : Int
  sample : Rgba
deriving DecidableEq, Repr

/-- A ray: hogel, view, effective slopes (R21). -/
structure RayRef where
  x : Nat
  y : Nat
  view : Nat
  su : Int
  sv : Int
deriving DecidableEq, Repr

/-- The hogel centre, s16.8 (R129). -/
def RayRef.xc (q : RayRef) : Int := q.x * 256 + 128
def RayRef.yc (q : RayRef) : Int := q.y * 256 + 128

/-- The depth at search value `g` (R141). -/
def Layer.reliefDepth (l : Layer) (zb : Int) (g : Nat) : Int :=
  let mm : Int := if 0 ≤ l.k then g else 4096 - g
  sat24 (zb + (mm * l.k + 2048) / 4096)

/-- Whether search value `g` is at or behind the surface (R141). -/
def Layer.behind (l : Layer) (pic : Option (Nat → Byte)) (q : RayRef) (zb : Int) (g : Nat) : Bool :=
  let z := l.reliefDepth zb g
  let m := l.depthSample pic (crossAt q.xc z q.su) (crossAt q.yc z q.sv)
  let d : Int := if 0 ≤ l.k then m else 4096 - m
  decide (d ≤ g)

/-- The depth search of R141: g_star. -/
def Layer.search (l : Layer) (pic : Option (Nat → Byte)) (q : RayRef) (zb : Int) : Nat :=
  let hit := l.behind pic q zb
  let n := ((List.range 8).find? fun i => hit (512 * (i + 1))).getD 7
  let (lo, hi) := (512 * n, 512 * n + 512)
  let step := fun (p : Nat × Nat) => let g := (p.1 + p.2) / 2; if hit g then (p.1, g) else (g, p.2)
  let r := step (step (lo, hi))
  (r.1 + r.2) / 2

/-- What one layer contributes to a ray (R129); `rb` reads module DRAM, `pal` its palette, `pics` its colour and depth
pictures. -/
def Layer.hit (l : Layer) (rb : Nat → Byte) (pal : Nat → Nat) (pics : Option (Nat → Byte) × Option (Nat → Byte)) (q : RayRef) : Hit :=
  let (g, z) :=
    if l.slots = 4 then
      let zb := l.depthAt q.xc q.yc
      let g := l.search pics.2 q zb
      (g, l.reliefDepth zb g)
    else
      let z0 := l.depthAt q.xc q.yc
      (0, l.depthAt (crossAt q.xc z0 q.su) (crossAt q.yc z0 q.sv))
  let xq := crossAt q.xc z q.su
  let yq := crossAt q.yc z q.sv
  let dx := xq - l.x0 * 256
  let dy := yq - l.y0 * 256
  let inside := decide (0 ≤ dx) && decide (dx < l.dw * 256) && decide (0 ≤ dy) && decide (dy < l.dh * 256)
  let (smp, key) := if !inside then (Rgba.zero, false)
    else if isVideo l.n then l.videoSample pics.1 dx dy
    else l.graphicTexel rb pal (dx / 256).toNat (dy / 256).toNat
  ⟨l.n, inside, key, g, z, xq, yq, smp⟩

/-! ## A region's inputs -/

/-- The active correction of hogel h: (Δsu, Δsv), 0 where the field is disabled (R21, R25). -/
def State.correction (s : State) (x y : Nat) : Int × Int :=
  if s.actFld R.SCN_VIEW_CTRL_corr_enable = 1 then
    let a := 4096 * s.fld R.SCN_VCF_BASE_base + s.scn.vcfCopy * (4 * s.hx * s.hy) + 4 * (y * s.hx + x)
    let w := leNat ((List.range 4).map fun j => s.maByte (a + j))
    (sext 11 (bitsOf w 0 11), sext 11 (bitsOf w 16 11))
  else (0, 0)

/-- The reads of correction words of hogels (x, y) to (x + n - 1, y) that no window maps are counted (R25, R365). -/
def State.countCorrection (s : State) (x y n : Nat) : State :=
  if s.actFld R.SCN_VIEW_CTRL_corr_enable = 1 then
    let a := 4096 * s.fld R.SCN_VCF_BASE_base + s.scn.vcfCopy * (4 * s.hx * s.hy) + 4 * (y * s.hx + x)
    ((linesOf a (4 * n)).filter fun l => s.placeOf (max l a) == .unmapped).foldl (fun s' l => s'.countAccess (max l a) false false) s
  else s

/-- The ray of hogel (x, y) and view `w` under correction `d` (R21). -/
def State.rayRef (s : State) (d : Int × Int) (x y w : Nat) : RayRef :=
  ⟨x, y, w, sext 17 (s.actFld (R.SCN_VIEW_SLOPE_su w)) + d.1 * 16, sext 17 (s.actFld (R.SCN_VIEW_SLOPE_sv w)) + d.2 * 16⟩

/-- The bytes of the picture of decode stream `k` among `pics`. -/
def State.picture (s : State) (pics : List (Nat × Nat × List (Nat × Nat))) (k : Nat) : Option (Nat → Byte) :=
  (pics.find? fun p => p.1 == k).map fun p o => s.maByte (poolMa (s.fld R.DEC_POOL_BASE_base) p.2.2 (p.2.1 + o))

/-- What every layer of a list contributes to a ray, in list order; `texels` is module DRAM as the texels were read (R147). -/
def State.hits (s : State) (pics : List (Nat × Nat × List (Nat × Nat))) (texels : List Host.Cell) (ls : List Layer) (q : RayRef) : List Hit :=
  let m : State := { s with dram := texels }
  ls.map fun l => l.hit m.maByte (fun i => s.actFld (R.SCN_PALETTE_entry (l.n - 32) i))
    (m.picture pics (2 * l.n), m.picture pics (2 * l.n + 1)) q

/-! ## Glue-up (R154 to R160) -/

/-- Blends one sample behind an accumulated colour (R154). -/
def blendStep (acc smp : Rgba) : Rgba :=
  let t := 65535 - acc.a
  ⟨min 65535 (acc.r + mul16 smp.r t), min 65535 (acc.g + mul16 smp.g t), min 65535 (acc.b + mul16 smp.b t), acc.a + mul16 smp.a t⟩

/-- A ray's colour over an opaque background (R154). -/
def blend (samples : List Rgba) (bg : Rgba) : Rgba :=
  blendStep (samples.foldl blendStep Rgba.zero) { bg with a := 0 }

/-- The dither matrix (R157), row-major. -/
def ditherMatrix : List Nat :=
  [0, 32, 8, 40, 2, 34, 10, 42, 48, 16, 56, 24, 50, 18, 58, 26] ++ [12, 44, 4, 36, 14, 46, 6, 38, 60, 28, 52, 20, 62, 30, 54, 22] ++
  [3, 35, 11, 43, 1, 33, 9, 41, 51, 19, 59, 27, 49, 17, 57, 25] ++ [15, 47, 7, 39, 13, 45, 5, 37, 63, 31, 55, 23, 61, 29, 53, 21]

/-- The threshold of hogel (x, y) under rotation `r` (R157). -/
def threshold (x y r : Nat) : Nat :=
  let a := x % 8
  let b := y % 8
  let (i, j) := match r with
    | 0 => (a, b)
    | 1 => (7 - b, a)
    | 2 => (7 - a, 7 - b)
    | _ => (b, 7 - a)
  ditherMatrix.getD (8 * j + i) 0

/-- Rounds a component to depth `d` in mode `mode`; `r` is the rotation (R156). -/
def roundTo (mode d x y r : Nat) (v : Int) : Nat :=
  ((if mode = 0 then v * (2 ^ d - 1) + 32768 else v * (2 ^ d - 1) + 1024 * threshold x y r + 512) / 65536).toNat

/-- Packs three components of depth `d` into a ray word (R160). -/
def packWord (d r g b : Nat) : Nat := r + g * 2 ^ d + b * 2 ^ (2 * d)

/-- The ray word of a colour (R156 to R160); `f` is the frame phase. -/
def rayWord (mode d f : Nat) (q : RayRef) (c : Rgba) : Nat :=
  let r := if mode = 2 then (q.view + f) % 4 else q.view % 4
  packWord d (roundTo mode d q.x q.y r c.r) (roundTo mode d q.x q.y r c.g) (roundTo mode d q.x q.y r c.b)

/-- A colour as one ray word in mode 0 (R162, GLU_SQC_SAFE_WORD). -/
def plainWord (d r g b : Nat) : Nat := packWord d (roundTo 0 d 0 0 0 r) (roundTo 0 d 0 0 0 g) (roundTo 0 d 0 0 0 b)

/-- The active background of segment `g`. -/
def State.background (s : State) (g : Nat) : Rgba :=
  ⟨s.actFld (R.GLU_BG_r g), s.actFld (R.GLU_BG_g g), s.actFld (R.GLU_BG_b g), 65535⟩

/-- Packs words of `w` bits into a row padded to whole bytes (R161). -/
def packRow (w : Nat) (words : List Nat) : List Byte :=
  leBytes (ceilDiv (w * words.length) 8) ((words.foldr (fun x acc => x + acc * 2 ^ w) 0))

/-- A row of `n` equal words. -/
def sameRow (w word n : Nat) : List Byte := packRow w (List.replicate n word)

/-- What a synthesis of region `r` that starts now works from (R130). -/
def State.underNow (s : State) (r : Nat) : Under :=
  let (x0, y0, w, h) := s.regionRect r
  { regs := s.regs, active := s.active, pics := s.picturesNow
    vcf := (List.range h).flatMap fun j => (List.range w).map fun i => s.correction (x0 + i) (y0 + j) }

/-- The packed ray rows of region `r` with frame phase `f`, from the active state that `u` holds (R129, R130, R161). -/
def State.synthesise (s : State) (u : Under) (texels : List Host.Cell) (r f : Nat) : List (List Byte) :=
  let s : State := { s with regs := u.regs, active := u.active }
  let (x0, y0, w, h) := s.regionRect r
  let ls := s.layerList r
  let bg := s.background (s.segOfRegion r)
  let mode := s.actFld R.GLU_CFG_dither
  let d := s.depth
  (List.range h).map fun j =>
    packRow (3 * d) ((List.range w).flatMap fun i => (List.range s.views).map fun v =>
      let q := s.rayRef (u.vcf.getD (j * w + i) (0, 0)) (x0 + i) (y0 + j) v
      rayWord mode d f q (blend ((s.hits u.pics texels ls q).map Hit.sample) bg))

/-! ## Footprints (R148, R149) -/

/-- The number of 64-byte lines that hold a byte of the spans given, as first byte and length, in ascending order of their first
bytes; a line shared by spans counts once. -/
def lineCount (spans : List (Nat × Nat)) : Nat :=
  (spans.foldl (fun (acc : Nat × Nat) e =>
    if e.2 = 0 then acc
    else
      let lo := max acc.2 (e.1 / 64)
      let hi := (e.1 + e.2 - 1) / 64 + 1
      (acc.1 + (hi - lo), max acc.2 hi)) (0, 0)).1

/-- Texel range [lo, hi] of a widened hogel range of a video layer on one axis (R136, R148). -/
def videoRange (h0 h1 : Int) (p0 : Int) (step n : Nat) : Nat × Nat :=
  let t := fun (h : Int) => (texCoord ((h - p0) * 256) step + 8) / 16 / 16
  (tapIndex (t h0 - 1) n, tapIndex (t h1 + 2) n)

/-- The bytes of texel columns x0 to x1 and rows y0 to y1 of a plane at byte `a`, row by row. -/
def planeSpans (a pitch unit x0 x1 y0 y1 : Nat) : List (Nat × Nat) :=
  (List.range (y1 - y0 + 1)).map fun j => (a + (y0 + j) * pitch + x0 * unit, (x1 - x0 + 1) * unit)

/-- The footprint lines of a layer in a hogel rectangle already widened by its kerf (R148). The lines of a picture are counted in its
stream's space, whose pages start on lines. -/
def State.layerLines (s : State) (l : Layer) (r : Rect) : Nat :=
  if isVideo l.n then
    let (cx0, cx1) := videoRange r.x0 r.x1 l.x0 l.stepX l.pw
    let (cy0, cy1) := videoRange r.y0 r.y1 l.y0 l.stepY l.ph
    let b := if l.format = 0 then 1 else 2
    let colour := match s.activePicture (2 * l.n) with
      | none => 0
      | some p =>
        lineCount (planeSpans p (l.pw * b) b cx0 cx1 cy0 cy1 ++
          (if l.format = 2 then planeSpans (p + l.pw * l.ph * b) (2 * l.pw * b) (2 * b) cx0 cx1 cy0 cy1
           else planeSpans (p + l.pw * l.ph * b) (2 * ceilDiv l.pw 2 * b) (2 * b) (cx0 / 2) (cx1 / 2) (cy0 / 2) (cy1 / 2)))
    let depth := if l.slots = 4 then match s.activePicture (2 * l.n + 1) with
        | none => 0
        | some p => lineCount (planeSpans p (l.pw * 2) 2 cx0 cx1 cy0 cy1)
      else 0
    colour + depth
  else if 8 ≤ l.format ∧ l.format ≤ 12 then
    let n := match l.format with | 0xA => 8 | 0x8 => 4 | 0x9 => 4 | _ => 1
    let x0 := max 0 (r.x0 - l.x0)
    let x1 := min (l.w : Int) (r.x1 - l.x0)
    let y0 := max 0 (r.y0 - l.y0)
    let y1 := min (l.h : Int) (r.y1 - l.y0)
    if x1 ≤ x0 ∨ y1 ≤ y0 then 0
    else lineCount (planeSpans l.base l.pitch n x0.toNat (x1 - 1).toNat y0.toNat (y1 - 1).toNat)
  else 0

/-- The footprint lines of each layer of region `r`, in list order (R148). -/
def State.footprintLines (s : State) (r : Nat) : List Nat :=
  let (x, y, w, h) := s.regionRect r
  (s.layerList r).map fun l =>
    let k : Int := s.kerf l.n
    s.layerLines l ⟨x - k, x + w + k, y - k, y + h + k⟩

/-- The lines fetched on demand: those of the first layer past the 256 KiB budget and of every layer after it (R149). -/
def demandLines : Nat → List Nat → Nat
  | _, [] => 0
  | room, n :: rest => if n ≤ room then demandLines (room - n) rest else n + rest.sum

end Sys2Proof.Machine
end

