-- ==== Sys2Proof/Machine/Region.lean ====
section
/-! DEFINITION. Region states, region queues, class nodes, gates and plans: the shared operations of chapters 9 and 10. -/

namespace Sys2Proof.Machine

open Sys2Proof

/-! ## Access -/

def State.region (s : State) (r : Nat) : Region := Store.get (fun _ => {}) s.dmg.regions r

def State.setRegion (s : State) (r : Nat) (x : Region) : State :=
  { s with dmg := { s.dmg with regions := Store.set (fun _ => {}) s.dmg.regions r x } }

/-- Class node 16 q + c. -/
def State.node (s : State) (k : Nat) : Node := Store.get (fun _ => {}) s.sch.nodes k

def State.setNode (s : State) (k : Nat) (x : Node) : State :=
  { s with sch := { s.sch with nodes := Store.set (fun _ => {}) s.sch.nodes k x } }

/-- One of a node's counts rises (SCH_CLASS_CNT). -/
def State.countNode (s : State) (k j : Nat) : State := s.count (R.SCH_CLASS_CNT_count (k / 16) (k % 16) j) 1

/-- The regions queued at node `k`, ascending. -/
def State.entriesOf (s : State) (k : Nat) : List Nat :=
  (s.dmg.regions.filter fun e => e.2.state == 1 && e.2.node == k).map Prod.fst

/-- The entries that node `k` may serve: regions of its group's segment; any other waits there (R212, R213). -/
def State.activeOf (s : State) (k : Nat) : List Nat := (s.entriesOf k).filter fun r => s.servesSeg (k / 16) (s.segOfRegion r)

def State.job? (s : State) (id : Nat) : Option Job := s.sch.jobs.find? fun j => j.id == id

/-- The job of a region in flight. -/
def State.jobOf (s : State) (r : Nat) : Option Job := s.sch.jobs.find? fun j => j.region == r

def State.setJob (s : State) (j : Job) : State :=
  { s with sch := { s.sch with jobs := s.sch.jobs.map fun x => if x.id == j.id then j else x } }

def State.pg (s : State) (q : Nat) : PnlGroup := Store.get (fun _ => {}) s.pnl.groups q

def State.setPg (s : State) (q : Nat) (g : PnlGroup) : State :=
  { s with pnl := { s.pnl with groups := Store.set (fun _ => {}) s.pnl.groups q g } }

/-- Counts of the square check of region set `c` (GLU_SQC_CNT). -/
def State.countCheck (s : State) (c k : Nat) : State := s.count (R.GLU_SQC_CNT_count c k) 1

/-- A counter of bay `q` (ENG_BAY_STAT). -/
def bayStat (q k : Nat) : Loc := ⟨R.ENG_BAY_STAT (q / 8) (q % 8) k, 0, 32⟩

/-! ## Credits (R256 to R258) -/

/-- The available credits of a group. -/
def PnlGroup.available (g : PnlGroup) : Nat := g.g + g.r - g.u - g.xa
/-- The outstanding credits of a group. -/
def PnlGroup.outstanding (g : PnlGroup) : Nat := g.u - g.r - g.xo

/-- Whether a sent piece is not fully covered by returned credits (R270). -/
def PnlGroup.unconfirmed (g : PnlGroup) (p : Piece) : Bool := p.lost || decide (g.r < p.need)

/-- Stores a group's record and shows its available credits. -/
def State.putCredits (s : State) (q : Nat) (g : PnlGroup) : State :=
  (s.setPg q g).setFld (R.PNL_GROUP_CREDIT_available q) (min g.available 65535)

/-- Takes up to `n` of the available credits (R256, R258). -/
def State.takeCredits (s : State) (q n : Nat) : State := let g := s.pg q; s.putCredits q { g with u := g.u + min n g.available }

/-- Writes off all credits of a group (R258, R266, R271). -/
def State.writeOff (s : State) (q : Nat) : State :=
  let g := s.pg q
  let lose := fun (l : List Piece) => l.map fun p => { p with lost := g.unconfirmed p }
  s.putCredits q { g with xa := g.xa + g.available, xo := g.xo + g.outstanding, pieces := lose g.pieces, old := lose g.old }

/-- Shows a group in or out of service: its usable lanes work only while it is in service (R266). -/
def State.showService (s : State) (q : Nat) (on : Bool) : State :=
  let m := if on then (s.pg q).trained else 0
  ((s.setFld (R.PNL_GROUP_STATUS_in_service q) (bit on)).setFld (R.PNL_GROUP_STATUS_lanes q) m).setFld
    (R.PNL_GROUP_STATUS_count q) (popCount 12 m)

/-- Whether a group may be in service (R266, R267). -/
def State.canServe (s : State) (q : Nat) : Bool :=
  let g := s.pg q
  s.fld R.PNL_LINK_STATUS_state == 3 && s.fld (R.PNL_GROUP_STATUS_bc_up q) == 1 && !g.lockOut && !g.restarting &&
  !g.creditShort && decide (s.fld (R.PNL_GROUP_CFG_min_lanes q) ≤ popCount 12 g.trained)

/-- The credits of a group's start: G rises by the descriptor's grant (R258, R266). -/
def State.grant (s : State) (q : Nat) : State :=
  let g := s.pg q
  s.putCredits q { g with g := g.g + s.fld (R.PNL_GROUP_CREDIT_granted q) }

/-! ## Dirtying (R199, R205, R207, R208) -/

/-- Region `r` enters its class node (R213, R214, R219): newly active, or put back by a requeue with tag V. -/
def State.enqueue (s : State) (r : Nat) (back : Bool) : State :=
  let pin := s.pinOf r
  let k := 16 * s.groupFor r pin + s.fld (R.SCH_REGION_MAP_class r)
  let v := (s.node k).v
  let f := if back then v else (v + s.regionBytes r * 16 / s.fld (R.SCH_REGION_MAP_weight r)) % 2 ^ 48
  let x := s.region r
  (s.setRegion r { x with state := 1, node := k, tag := f, since := s.ptp.f, late := false, pin := pin }).countNode k 0

/-- Dirties region `r` at once (R208). -/
def State.mark (s : State) (r : Nat) : State :=
  let x := s.region r
  let s := s.count (R.DMG_CNT_count 0) 1
  let coalesce := fun (s : State) =>
    (s.setRegion r { x with coalesced := satAdd 8 x.coalesced 1 }).count (R.DMG_CNT_count 1) 1
  match x.state with
  | 0 => ((s.setRegion r { x with coalesced := 0 }).count (R.DMG_CNT_count 2) 1).enqueue r false
  | 2 =>
    let s := coalesce s
    match s.jobOf r with
    | some j => (s.setJob { j with stage := .filling, texels := [] }).bump (bayStat j.bay 5)
    | none => s
  | 3 => (s.setRegion r { x with state := 4 }).count (R.DMG_CNT_count 3) 1
  | _ => coalesce s

/-- Dirties a list of regions, each once. -/
def State.markAll (s : State) (rs : List Nat) : State := rs.eraseDups.foldl State.mark s

/-- A whole-field event (R207). -/
def State.wholeField (s : State) (cause : Nat) : State :=
  if s.gridOn then ((s.allRegions.foldl State.mark s).count (R.DMG_CNT_count 8) 1).post 0x05B0 0 cause else s

/-- Regions that become dirty with the next clamp of group `m`, or the next flip of fenced layer `m - 16` (R205). -/
def State.pend (s : State) (m : Nat) (rs : List Nat) : State :=
  if s.gridOn then
    { s with dmg := { s.dmg with maps := Store.modify (fun _ => []) s.dmg.maps m fun l => (l ++ rs).eraseDups } }
  else s

/-- Whether fenced layer `n` is in fence mode (R191). -/
def State.fenced (s : State) (n : Nat) : Bool := decide (n < 8) && s.actFld (R.CLP_FENCE_CFG_fence_mode n) == 1

/-- The pending map that a change of layer `n` goes to (R205). -/
def State.mapOf (s : State) (n : Nat) : Nat := if s.fenced n then 16 + n else s.actFld (R.SCN_LAYER_CFG_group n)

/-- The kerf that a layer's shadow geometry will have. -/
def State.shadowKerf (s : State) (n : Nat) : Nat := kerfOf (s.shadowLayer n).zmax (s.fld R.DMG_SMAX_s_max)

/-- Damage of a rectangle of source texels of layer `n` that takes effect at its next clamp or flip (R200, R201, R205). -/
def State.pendTexels (s : State) (n : Nat) (t : Rect) : State :=
  let l := s.shadowLayer n
  if l.enable then s.pend (s.mapOf n) (s.regionsOf (l.mapTexels t) (s.shadowKerf n)) else s

/-- The whole footprint of layer `n` at its next clamp or flip. -/
def State.pendLayer (s : State) (n : Nat) : State :=
  s.pend (s.mapOf n) (s.footprint (s.shadowLayer n) (s.shadowKerf n))

/-! ## Leaving the queue and coming back (R208, R216, R219) -/

/-- The largest QUEUED age of region `r` in µs is kept (R236). -/
def State.noteAge (s : State) (r : Nat) : State :=
  let age := (s.ptp.f - (s.region r).since) / 1000
  s.setFld (R.SCH_RQ_DELAY_us r) (max (s.fld (R.SCH_RQ_DELAY_us r)) (min age 65535))

/-- Bytes leave a node's selected bytes. -/
def State.unselect (s : State) (k bytes : Nat) : State :=
  let x := s.node k
  s.setNode k { x with selected := x.selected - bytes }

/-- A job leaves flight, with its requests and continuations. -/
def State.dropJob (s : State) (j : Job) : State :=
  let q := j.node / 16
  let g := s.pg q
  let s := s.setPg q { g with requests := g.requests.filter (fun i => i != j.id), conts := g.conts.filter (fun i => i != j.id) }
  let s := s.unselect j.node j.left
  { s with sch := { s.sch with jobs := s.sch.jobs.filter fun x => x.id != j.id } }

/-- Region `r` is done: its last burst has ended (R208). -/
def State.regionDone (s : State) (r : Nat) : State :=
  let x := s.region r
  match x.state with
  | 3 => (s.setRegion r { x with state := 0 }).count (R.DMG_CNT_count 9) 1
  | 4 => (s.count (R.DMG_CNT_count 4) 1).enqueue r false
  | _ => s

/-- A waiting or running re-synthesis of region `r` is abandoned (R174). -/
def State.abandonAgain (s : State) (r : Nat) : State :=
  let cs := (s.sch.again.filter fun a => a.region == r).map Again.check
  let s := { s with sch := { s.sch with again := s.sch.again.filter fun a => a.region != r } }
  let cs' := ((s.sch.jobs.filter fun j => j.region == r && j.again && j.stage != .buffered).filterMap fun j => j.check).map Prod.fst
  (cs ++ cs').foldl (fun s' c => s'.countCheck c 5) s

/-- Region `r` goes back to its queue (R208); its job, if any, is dropped. -/
def State.requeue (s : State) (r : Nat) : State :=
  let s := s.abandonAgain r
  let s := match s.jobOf r with
    | some j => s.dropJob j
    | none => s
  let x := s.region r
  if x.state = 2 ∨ x.state = 3 ∨ x.state = 4 then (s.count (R.DMG_CNT_count 5) 1).enqueue r true else s

/-- Every QUEUED entry is discarded at a grid switch (R29, R208). -/
def State.discardEntries (s : State) : State :=
  let rs := (s.dmg.regions.filter fun e => e.2.state == 1).map fun e => (e.1, e.2.node)
  rs.foldl (fun s' e => ((s'.noteAge e.1).countNode e.2 2).count (R.DMG_CNT_count 7) 1) s

/-! ## Gates (R225 to R230) -/

def State.gates (s : State) (q : Nat) : Gates := Store.get (fun _ => {}) s.sch.gates q

def State.setGates (s : State) (q : Nat) (g : Gates) : State :=
  { s with sch := { s.sch with gates := Store.set (fun _ => {}) s.sch.gates q g } }

/-- The entries of a list cut at the cycle end, the last one held to it (R225). -/
def cutEntries : List (Nat × Nat) → Nat → List (Nat × Nat)
  | [], _ => []
  | [(g, _)], room => if room = 0 then [] else [(g, room)]
  | (g, d) :: rest, room => if room = 0 then [] else (g, min d room) :: cutEntries rest (room - d)

/-- The gate timeline of a list over one cycle: gates and duration. -/
def GateList.timeline (l : GateList) : List (Nat × Nat) := cutEntries l.entries l.cycle

/-- The index of the entry that covers time `t` of the cycle. -/
def entryAt : List (Nat × Nat) → Nat → Nat
  | [], _ => 0
  | (_, d) :: rest, t => if t < d then 0 else 1 + entryAt rest (t - d)

/-- The place in the cycle now. -/
def Gates.phase (g : Gates) (l : GateList) (now : Nat) : Nat := if now < g.start then 0 else (now - g.start) % l.cycle

/-- The contiguous time that gate `c` stays open over a timeline from its start. -/
def openRun (c : Nat) : List (Nat × Nat) → Nat
  | [] => 0
  | (g, d) :: rest => if g.testBit c then d + openRun c rest else 0

/-- The contiguous time that gate `c` stays closed over a timeline from its start. -/
def shutRun (c : Nat) : List (Nat × Nat) → Nat
  | [] => 0
  | (g, d) :: rest => if g.testBit c then 0 else d + shutRun c rest

/-- The timeline from phase `t` on, over one whole cycle. -/
def rotate (tl : List (Nat × Nat)) (t : Nat) : List (Nat × Nat) :=
  let i := entryAt tl t
  let before := ((tl.take i).map Prod.snd).sum
  match tl.drop i with
  | [] => tl
  | (g, d) :: rest => (g, d - (t - before)) :: rest ++ tl.take i ++ [(g, t - before)]

/-- Whether every gate of class `c` is open all through the cycle. -/
def alwaysOpen (tl : List (Nat × Nat)) (c : Nat) : Bool := tl.all fun e => e.1.testBit c

/-- The gates from now on: what a stepped clock holds first (R348), then one whole cycle of the list. -/
def Gates.ahead (g : Gates) (l : GateList) (now : Nat) : List (Nat × Nat) :=
  match g.held with
  | some m => if now < g.start then (m, g.start - now) :: l.timeline else rotate l.timeline (g.phase l now)
  | none => rotate l.timeline (g.phase l now)

/-- How long gate `c` stays open from now: none is for ever, 0 is closed (R225, R228). -/
def Gates.openFor (g : Gates) (c now : Nat) : Option Nat :=
  match g.active with
  | none => none
  | some l => if alwaysOpen (g.ahead l now) c then none else some (openRun c (g.ahead l now))

/-- How long class gate `c` of group `q` stays open from now. -/
def State.openFor (s : State) (q c : Nat) : Option Nat := (s.gates q).openFor c s.now

/-- Whether class gate `c` of group `q` is open now. -/
def State.gateOpen (s : State) (q c : Nat) : Bool := s.openFor q c != some 0

/-- The whole length of the window of gate `c` that is open now (R228, R230): none where it never closes. What a stepped clock holds
has no length behind it. -/
def Gates.window (g : Gates) (c now : Nat) : Option Nat :=
  match g.active, g.openFor c now with
  | some l, some t =>
    let ahead := g.ahead l now
    some (if g.held.isSome && decide (now < g.start) then t else min (t + openRun c ahead.reverse) l.cycle)
  | _, _ => none

/-- Whether the gate is open now or opens within `ns` (R217). -/
def State.opensWithin (s : State) (q c ns : Nat) : Bool :=
  let g := s.gates q
  match g.active with
  | none => true
  | some l =>
    (g.ahead l s.now).any (fun e => e.1.testBit c) && decide (shutRun c (g.ahead l s.now) ≤ ns)

/-- The lengths of the windows of class `c` over one cycle; a window across the cycle's start counts once (R228). -/
def windowsOf (tl : List (Nat × Nat)) (c : Nat) : List Nat :=
  if alwaysOpen tl c then (if tl.isEmpty then [] else [(tl.map Prod.snd).sum])
  else
    -- begin the walk at a closed entry
    let i := (tl.findIdx? fun e => !e.1.testBit c).getD 0
    let turned := tl.drop i ++ tl.take i
    let step := fun (acc : List Nat × Nat) (e : Nat × Nat) =>
      if e.1.testBit c then (acc.1, acc.2 + e.2) else (if acc.2 = 0 then acc.1 else acc.1 ++ [acc.2], 0)
    let r := turned.foldl step ([], 0)
    if r.2 = 0 then r.1 else r.1 ++ [r.2]

/-- The bytes that a piece of one largest ray row takes on the wire, header, trailer and pad included (R230, R251; log
entry 13). -/
def pieceBytes (rowBytes rows : Nat) : Nat := ceilDiv (48 + rows * rowBytes) 10 * 10

/-- The stream bytes of a piece of `rows` rows, as R251 closes it. -/
def Wire.bytes (w : Wire) (rows : Nat) : Nat := pieceBytes w.rowBytes rows

/-- Whether a window of `len` ns holds the guard band of group `q` and one largest full ray row (R230). -/
def State.usableWindow (s : State) (q len : Nat) : Bool :=
  let guard := 10 * s.fld (R.SCH_GROUP_CFG_guard q)
  let bits := 8 * pieceBytes (s.rowBytes (min s.kx s.hx)) 1
  decide (guard ≤ len) && decide (bits * 1000000000 ≤ (len - guard) * laneRate (s.groupLanes q))

/-- Whether class `c` of group `q` has at least one usable window; with no list it has (R217, R230). -/
def State.hasWindow (s : State) (q c : Nat) : Bool :=
  match (s.gates q).active with
  | none => true
  | some l => alwaysOpen l.timeline c || (windowsOf l.timeline c).any fun w => s.usableWindow q w

/-- The usable open time of class `c` of group `q` per cycle, and the cycle (R232). -/
def State.openShare (s : State) (q c : Nat) : Nat × Nat :=
  match (s.gates q).active with
  | none => (1, 1)
  | some l =>
    if alwaysOpen l.timeline c then (l.cycle, l.cycle)
    else (((windowsOf l.timeline c).filter fun w => s.usableWindow q w).sum, l.cycle)

/-! ## Plans (R218, R230, R232) -/

/-- The precedence of class `c`. -/
def State.prec (s : State) (c : Nat) : Nat := s.fld (R.SCH_CLASS_PREC_precedence c)

/-- Inserts class `c` into a list in rank order (R218). -/
def State.insertClass (s : State) (c : Nat) : List Nat → List Nat
  | [] => [c]
  | d :: r => if s.prec d < s.prec c ∨ (s.prec d = s.prec c ∧ c < d) then c :: d :: r else d :: s.insertClass c r

/-- The classes in rank order (R218). -/
def State.rank (s : State) : List Nat := (List.range 16).foldl (fun l c => s.insertClass c l) []

/-- The plan of group `q`: whether each class's guarantee is in force, in rank order (R232). All rates are in bit/s times
the cycle. -/
def State.plan (s : State) (q : Nat) : List (Nat × Bool) :=
  let cap := laneRate (s.groupLanes q)
  let step := fun (acc : Nat × List (Nat × Bool)) (c : Nat) =>
    let (op, cyc) := s.openShare q c
    let minRate := s.fld (R.SCH_CLASS_GUAR_min_rate c) * 10000000
    let idle := s.fld (R.SCH_CLASS_SLOPE_idle_slope q c) * 10000000
    -- `used` is kept in bit/s, scaled by the cycle of the group's one list
    let ok := minRate == 0 || decide (minRate * cyc + acc.1 ≤ op * cap)
    (acc.1 + min (idle * cyc) (op * cap), acc.2 ++ [(c, ok)])
  (s.rank.foldl step (0, [])).2

/-- Sets a node's planned mark and posts the change (R232, R235). -/
def State.setPlanned (s : State) (q c : Nat) (ok : Bool) : State :=
  let x := s.node (16 * q + c)
  if x.planned = ok then s
  else
    let s := s.setNode (16 * q + c) { x with planned := ok }
    if ok then s.post 0x0702 c (2 ^ q) else s.post 0x0701 c (2 ^ q + 65536)

/-- Finds the classes of group `q` without a usable window (R230). -/
def State.findUnusable (s : State) (q : Nat) : State :=
  let mark := fun (s' : State) (c : Nat) =>
    let x := s'.node (16 * q + c)
    s'.setNode (16 * q + c) { x with unusable := !s'.hasWindow q c }
  let s := (List.range 16).foldl mark s
  let short := match (s.gates q).active with
    | none => 0
    | some l => ((List.range 16).map fun c =>
        if s.hasWindow q c then ((windowsOf l.timeline c).filter fun w => !s.usableWindow q w && !alwaysOpen l.timeline c).length else 0).sum
  let s := s.bumpBy (R.SCH_GROUP_CNT_count q 2) short
  let m := ((List.range 16).filter fun c => !s.hasWindow q c && !(s.entriesOf (16 * q + c)).isEmpty).foldl (fun a c => a + 2 ^ c) 0
  if m = 0 then s else s.post 0x0703 q m

/-- Re-plans group `q` (R230, R232); `lanes` marks a plan caused by a lane change. -/
def State.replan (s : State) (q : Nat) (lanes : Bool := false) : State :=
  let s := s.findUnusable q
  let s := (s.plan q).foldl (fun s' p => s'.setPlanned q p.1 p.2) s
  if lanes then s.post 0x0704 q (s.groupLanes q + (laneRate (s.groupLanes q) / 1000000000) * 65536) else s

/-- A queued entry whose group has changed moves to its new node; with no group in service for it, it stays (R213, R215). -/
def State.moveEntry (s : State) (r : Nat) : State :=
  let x := s.region r
  let q := s.groupFor r x.pin
  if x.state ≠ 1 ∨ q = x.node / 16 ∨ (s.groupsOf (s.segOfRegion r)).isEmpty then s
  else
    let k := 16 * q + x.node % 16
    ((s.setRegion r { x with node := k, tag := (s.node k).v }).countNode x.node 3).countNode k 4

/-- The queued entries of segment `g` move to the nodes that serve them now (R215). -/
def State.moveSeg (s : State) (g : Nat) : State := (s.allRegions.filter fun r => s.segOfRegion r == g).foldl State.moveEntry s

/-- The groups in `qs` are re-planned, each once; `changed` names those whose lane count has changed (R215, R232). -/
def State.replanAll (s : State) (qs : List Nat) (changed : Nat → Bool) : State := qs.foldl (fun t q => t.replan q (changed q)) s

/-- The groups of segment `g` that are in service changed: entries move and every group of the segment is re-planned (R215). -/
def State.remapSeg (s : State) (g : Nat) (changed : Nat → Bool) : State :=
  (s.moveSeg g).replanAll ((List.range 16).filter fun q => s.servesSeg q g) changed

end Sys2Proof.Machine
end

