-- ==== Sys2Proof/Machine/Scene.lean ====
section
/-! DEFINITION. Views, the region grid and layers: the commands of chapters 1, 2 and 9 and the shadow state they write. -/

namespace Sys2Proof.Machine

open Sys2Proof

/-! ## View slopes (R21 to R24, R30) -/

/-- Writes one slope entry into shadow state (R30). -/
def State.slopeWrite (s : State) (w : Nat) (e : Nat) : State :=
  ((s.setFld (R.SCN_VIEW_SLOPE_su w) (bitsOf e 0 17)).setFld (R.SCN_VIEW_SLOPE_sv w) (bitsOf e 32 17))

/-- VIEW_SLOPE_LOAD (R30). -/
def execViewSlopeLoad (id : Nat) (bus : Bus) (s : State) : Host.Outcome State Fault Refusal :=
  .next (s.runOp id .viewSlopeLoad fun c s =>
    let first := c.p 16 1
    let count := c.p 18 2
    if count = 0 ∨ 256 < count then s.refuse c stBadParam 18
    else if s.views < first + count then s.refuse c stBadParam (if s.views ≤ first then 16 else 18)
    else
      let (s, rec) := s.readRecords bus c false (c.p 8 8) 8 count
      let s := ((List.range rec.length).zip rec).foldl (fun s' e => s'.slopeWrite (first + e.1) (leNat e.2)) s
      let s := if rec.isEmpty then s else { s with scn := { s.scn with slopeLoaded := true } }
      s.finishAs c (doneThenFault rec.length (count - rec.length)))

/-! ## The view-correction field (R25, R26, R31) -/

/-- The address of copy `k` of the correction field (R25). -/
def State.vcfAddr (s : State) (k : Nat) : Nat := 4096 * s.fld R.SCN_VCF_BASE_base + k * (4 * s.hx * s.hy)

/-- The larger magnitude of a correction word's two values (R203). -/
def vcfBound (word : Nat) : Nat := max (sext 11 (bitsOf word 0 11)).natAbs (sext 11 (bitsOf word 16 11)).natAbs

/-- The running maximum of R203 takes in the words of `data`. -/
def State.noteVcf (s : State) (data : List Byte) : State :=
  let m := (List.range (data.length / 4)).foldl (fun m i => max m (vcfBound (leAt data (4 * i) 4))) (s.fld R.DMG_VCF_MAX_max)
  s.setFld R.DMG_VCF_MAX_max m

/-- Writes one row of correction words into the staging copy. -/
def State.vcfRow (s : State) (x y : Nat) (data : List Byte) : State :=
  (s.memWrite (s.vcfAddr (1 - s.scn.vcfCopy) + 4 * (y * s.hx + x)) data).noteVcf data

/-- A rectangle has been written into the staging copy; it takes effect, with the regions that hold its hogels, at the next clamp of
the group (R26, R205). -/
def State.vcfLoaded (s : State) (r : Rect) : State :=
  { s with scn := { s.scn with vcfRects := s.scn.vcfRects ++ [r], vcfRegions := (s.scn.vcfRegions ++ s.regionsOf r 0).eraseDups } }

/-- Whether a copy-forward of kind `kind` for `who` is running. -/
def State.isCopying (s : State) (kind who : Nat) : Bool := s.scn.copying.any fun f => f.kind == kind && f.who == who

/-- A clamp of group `g` has been decided and not yet applied: what is loaded now belongs to the next one (R34, R186). -/
def State.clampDue (s : State) (g : Nat) : Bool := s.clp.due.groups.any fun e => e.1 == g

/-- A load waits for the copy-forward (R26, R168). -/
def State.waitCopy (s : State) (c : Cmd) (kind group : Nat) : State :=
  let s := s.hold c
  { s with scn := { s.scn with waiting := s.scn.waiting.filter (fun w => w.1 != c.id) ++ [(c.id, kind, group)] } }

/-- A load no longer waits. -/
def State.stopWaiting (s : State) (id : Nat) : State :=
  { s with scn := { s.scn with waiting := s.scn.waiting.filter fun w => w.1 != id } }

/-- VIEW_CORRECTION_LOAD (R26, R31). -/
def execViewCorrectionLoad (id : Nat) (bus : Bus) (s : State) : Host.Outcome State Fault Refusal :=
  .next (s.runOpAgain id .viewCorrectionLoad fun c s =>
    let x0 := c.p 16 2
    let y0 := c.p 18 2
    let w := c.p 20 2
    let h := c.p 22 2
    if w = 0 then s.refuse c stBadParam 20
    else if h = 0 then s.refuse c stBadParam 22
    else if s.hx < x0 + w ∨ s.hy < y0 + h then s.refuse c stBadParam 1
    else if s.fld R.SCN_VCF_BASE_base = 0 then s.refuse c stBadParam 2
    else if s.isCopying 1 0 || s.clampDue (s.fld R.SCN_VIEW_CTRL_group) then s.waitCopy c 1 (s.fld R.SCN_VIEW_CTRL_group)
    else
      let s := s.stopWaiting id
      let (s, rows) := s.readRecords bus c (c.flag 24 0) (c.p 8 8) (4 * w) h
      let s := ((List.range rows.length).zip rows).foldl (fun s' e => s'.vcfRow x0 (y0 + e.1) e.2) s
      let s := if rows.isEmpty then s else s.vcfLoaded ⟨x0, x0 + w, y0, y0 + rows.length⟩
      s.finishAs c (doneThenFault rows.length (h - rows.length)))

/-! ## Copy-forward (R26, R92, R168, R187 step 5) -/

/-- Copies `n` bytes of module DRAM from `src` to `dst`. -/
def State.memCopy (s : State) (src dst n : Nat) : State :=
  let (s, d, _) := s.memRead src n
  s.memWrite dst d

/-- Bytes per texel of a graphic format (R40). -/
def texelBytes (format : Nat) : Nat :=
  match format with
  | 0x8 => 4
  | 0x9 => 4
  | 0xA => 8
  | 0xB => 1
  | 0xC => 1
  | _ => 1

/-- The Trastos slot of an enabled TILE binding that feeds graphic layer `n` (R92). -/
def State.tileSlot (s : State) (n : Nat) : Option Nat :=
  (List.range 64).find? fun k =>
    s.fld (R.SCN_TRS_STREAM_enable k) == 1 && s.fld (R.SCN_TRS_STREAM_no_layer k) == 0 &&
    s.fld (R.SCN_TRS_STREAM_layer k) == n && (Store.get (fun _ => {}) s.trs.streams k).types.testBit 2

/-- The work of one copy-forward. -/
def State.copyWork (s : State) (f : CopyFwd) : State :=
  match f.kind with
  | 0 =>
    match s.tileSlot f.who with
    | none => s
    | some k =>
      let l := s.activeLayer f.who
      let stage := 64 * s.fld (R.SCN_TRS_ALTBASE_base k)
      let tb := texelBytes l.format
      f.rects.foldl (fun s' r =>
        (List.range (r.y1 - r.y0).toNat).foldl (fun s'' j =>
          let o := (r.y0.toNat + j) * l.pitch + r.x0.toNat * tb
          s''.memCopy (l.base + o) (stage + o) ((r.x1 - r.x0).toNat * tb)) s') s
  | 1 =>
    f.rects.foldl (fun s' r =>
      (List.range (r.y1 - r.y0).toNat).foldl (fun s'' j =>
        let o := 4 * ((r.y0.toNat + j) * s''.hx + r.x0.toNat)
        s''.memCopy (s''.vcfAddr s''.scn.vcfCopy + o) (s''.vcfAddr (1 - s''.scn.vcfCopy) + o) (4 * (r.x1 - r.x0).toNat)) s') s
  | _ =>
    let base := 4096 * s.fld R.GLU_SQC_TABLE_BASE_base
    let a := s.fld (R.GLU_SQC_CTL_copy f.who)
    -- an entry is copied while its region is a member of the check region (R163)
    let ms := f.members.filter fun r => s.inCheck (s.checkAct f.who) r || s.inCheck (s.checkShadow f.who) r
    let s := ms.foldl (fun s' r => s'.memCopy (base + a * 524288 + 8 * r) (base + (1 - a) * 524288 + 8 * r) 8) s
    s.setFld (R.GLU_SQC_CTL_loading f.who) 0

/-- COPY_FORWARD_DONE: the new staging copy agrees with the active one; waiting loads may write. -/
def execCopyForwardDone (kind who : Nat) (s : State) : Host.Outcome State Fault Refusal :=
  .next (match s.scn.copying.find? fun f => f.kind == kind && f.who == who with
    | none => s
    | some f =>
      let s := s.copyWork f
      { s with scn := { s.scn with copying := s.scn.copying.erase f } })

/-! ## The region grid (R27 to R29, R32) -/

/-- The grid that kx × ky makes on the accepted geometry equals the active grid (R28). -/
def State.sameGrid (s : State) (kx ky : Nat) : Bool :=
  s.gridOn && kx == s.kx && ky == s.ky && ceilDiv s.hx kx == s.gx && ceilDiv s.hy ky == s.gy

/-- Disables every check region, in shadow and active state (R29, R165); the count of those enabled in either. -/
def State.disableChecks (s : State) : State × Nat :=
  let en := (List.range 256).filter fun c => (s.checkAct c).enable || (s.checkShadow c).enable
  let s := en.foldl (fun s' c =>
    ((s'.setFld (R.GLU_SQC_CTL_enable c) 0).setFld (R.GLU_SQC_CTL_substituted c) 0).setFld (R.GLU_SQC_CNT_count c 7) 0) s
  let s := s.sch.again.foldl (fun s' a => s'.abandonAgain a.region) s
  -- a first comparison that no synthesis will settle any more counts as unchecked (R177; log entry 15)
  let running := (s.sch.jobs.filter fun j => j.stage == .synth).map Job.region
  let lost := s.glu.pending.filter fun p => !running.contains p.1
  let s := lost.foldl (fun s' p => s'.countCheck p.2 6) s
  -- a check region of a client that was reset is unowned from here (R489)
  let s := s.glu.releasing.foldl (fun s' c => (s'.setFld (R.GLU_SQC_CTL_owned c) 0).setFld (R.GLU_SQC_CTL_owner c) 0) s
  ({ s with glu := { s.glu with
      shadow := s.glu.shadow.map fun e => (e.1, { e.2 with enable := false })
      dirty := []
      releasing := []
      loaded := []
      substituted := []
      pending := s.glu.pending.filter fun p => running.contains p.1 } }, en.length)

/-- A stream's pictures without the damage that waits for them. -/
def DecStream.noDamage (d : DecStream) : DecStream := { d with stagedDamage := [], aheadDamage := [] }

/-- Discards the old grid: the region map at reset values, every entry and every pending map gone (R29 item 4). -/
def State.clearGrid (s : State) : State :=
  let s := s.discardEntries
  let keep := fun (e : Nat × RegWord) => e.1 < R.SCH_REGION_MAP 0 || R.SCH_REGION_MAP 65535 < e.1
  let stale := fun (g : PnlGroup) => { g with pieces := g.pieces.map fun p => { p with stale := true } }
  { s with regs := s.regs.filter keep
           dmg := { s.dmg with regions := [], maps := [] }
           scn := { s.scn with vcfRegions := [] }
           dec := { s.dec with streams := s.dec.streams.map fun e => (e.1, e.2.map DecStream.noDamage) }
           pnl := { s.pnl with groups := s.pnl.groups.map fun e => (e.1, stale e.2) } }

/-- The group's credits cover the first row of a piece (R256, R267). -/
def nRow (rowBytes : Nat) : Nat := ceilDiv (40 + rowBytes) 4096

/-- Switches to the grid kx × ky at once: items 4 to 6 of R29. -/
def State.switchGrid (s : State) (kx ky : Nat) : State :=
  let s := s.clearGrid
  let s := ((s.setFld R.DMG_REGION_GRID_kx_div8 (kx / 8)).setFld R.DMG_REGION_GRID_ky_div8 (ky / 8)).setFld R.DMG_REGION_COUNT_gx (ceilDiv s.hx kx)
  let s := s.setFld R.DMG_REGION_COUNT_gy (ceilDiv s.hy ky)
  let first := !s.dmg.gridEver
  let s := { s with dmg := { s.dmg with gridEver := true } }
  let s := (s.wholeField (if first then 1 else 5)).showDrops
  let (s, n) := s.disableChecks
  s.post 0x0541 0 (kx / 8 % 256 + (ky / 8 % 256) * 256 + (n % 65536) * 65536)

/-- Requeues every region that is FILLING, and every region in flight whose first burst has not started (R29 item 2). -/
def State.abandonUnstarted (s : State) : State :=
  let rs := (s.sch.jobs.filter fun j => !j.started).map Job.region ++ s.sch.again.map Again.region
  rs.eraseDups.foldl State.requeue s

/-- Ends a pending REGION_GRID_SET. -/
def State.endPendGrid (s : State) (b : Bus) (status : Option Nat) : State :=
  match s.dmg.pendGrid with
  | none => s
  | some (_, _, id) =>
    let s := { s with dmg := { s.dmg with pendGrid := none } }
    match status with
    | some st => s.abort id st
    | none => s.itemDone id 0 ⟨stDone, 0, 0⟩

/-- REGION_GRID_SET (R29, R32). -/
def execRegionGridSet (id : Nat) (bus : Bus) (s : State) : Host.Outcome State Fault Refusal :=
  .next (s.runOp id .regionGridSet fun c s =>
    let kx := c.p 8 2
    let ky := c.p 10 2
    match s.gridFault kx ky with
    | some (st, r) => s.refuse c st r
    | none =>
      if s.sameGrid kx ky then (s.endPendGrid bus (some stSoftware)).finishOne c
      else if s.deferFull c then s.refuse c stBusyRetry 0
      else
        let s := (s.endPendGrid bus (some stSoftware)).defer c 1
        { s.abandonUnstarted with dmg := { s.abandonUnstarted.dmg with pendGrid := some (kx, ky, id) } })

/-- A group credit-short under the active grid leaves service; one whose grant covers it again returns with its credits
(R266, R267). -/
def State.creditCheck (s : State) (q : Nat) : State :=
  let grant := s.fld (R.PNL_GROUP_CREDIT_granted q)
  let need := max 16 (nRow (s.rowBytes (min s.kx s.hx)))
  let g := s.pg q
  if grant < need then
    let s := if s.groupIn q then s.writeOff q else s
    let g := s.pg q
    ((s.setPg q { g with creditShort := true }).showService q false).post 0x0607 q (grant + need * 65536)
  else if g.creditShort then
    let s := s.setPg q { g with creditShort := false }
    if s.canServe q then (s.grant q).showService q true else s
  else s

/-- REGION_GRID_SWITCH (R29): at a boundary of segment 0, once no started burst is unfinished. -/
def execRegionGridSwitch (bus : Bus) (s : State) : Host.Outcome State Fault Refusal :=
  .next (match s.dmg.pendGrid with
    | none => s
    | some (kx, ky, _) =>
      -- after the clamp of the same boundary (R187 step 6)
      if s.clp.gridDue = false ∨ s.sch.jobs.isEmpty = false ∨ (Store.get (fun _ => none) s.clp.boundary 0).isSome = true ∨
          s.clp.due.groups.isEmpty = false ∨ s.clp.due.flips.isEmpty = false then s
      else
        let s := { s with clp := { s.clp with gridDue := false } }
        let s := s.switchGrid kx ky
        let s := { s with dmg := { s.dmg with swGrid := true } }
        let was := (List.range 16).map s.groupIn
        let s := ((List.range 16).filter fun q => s.segCount != 0 && s.servesSeg q (s.segOfGroup q)).foldl State.creditCheck s
        let s := (List.range s.segCount).foldl (fun t g => t.remapSeg g fun q => was.getD q false != s.groupIn q) s
        s.endPendGrid bus none)

/-! ## Layers (R40, R44, R47 to R50) -/

/-- A source format code that the layer class lists (R40). -/
def formatOk (n format : Nat) : Bool :=
  if isVideo n then decide (format ≤ 2) else decide (8 ≤ format) && decide (format ≤ 12)

/-- A source size within the pipe limits (R40, R118). -/
def videoSizeOk (w h : Nat) : Bool :=
  decide (16 ≤ w) && decide (w ≤ 8192) && decide (16 ≤ h) && decide (h ≤ 8192) && decide (w * h ≤ 35651584)

/-- What R48 keeps from changing while a layer is enabled: kind, format, source size and ratios. -/
def Layer.frame (l : Layer) : Nat × Nat × Nat × Nat × Nat × Nat := (l.kind, l.format, l.w, l.h, l.ratioX, l.ratioY)

/-- Whether a layer is enabled in shadow or active state. -/
def State.layerBusy (s : State) (n : Nat) : Bool := (s.shadowLayer n).enable || (s.activeLayer n).enable

/-- Marks the shadow of fenced layer `n` as waiting for a flip (R191, CLP_FENCE_STATE.staged). -/
def State.touchLayer (s : State) (n : Nat) : State :=
  if s.fenced n then
    let s := s.setFld (R.CLP_FENCE_STATE_staged n) 1
    { s with clp := { s.clp with flipRegs := Store.set (fun _ => false) s.clp.flipRegs n true } }
  else s

/-- The packet byte of the first parameter of LAYER_DEFINE that breaks R36 or R40. -/
def defineFault (n format kind base sw sh dw dh pitch : Nat) : Option Nat :=
  let v := isVideo n
  [(8, if v then base != 0 else base % 64 != 0), (17, !(formatOk n format) || (!v && kind == 1)),
   (20, !v && (sw == 0 || decide (16384 < sw))), (22, !v && (sh == 0 || decide (16384 < sh))),
   (24, if v then dw == 0 || decide (32768 < dw) else dw != sw), (26, if v then dh == 0 || decide (32768 < dh) else dh != sh),
   (28, !v && decide (pitch * 64 < sw * texelBytes format))].findSome? fun e => if e.2 then some e.1 else none

/-- Disables and releases a layer at its next clamp (R47). -/
def State.releaseLayer (s : State) (n : Nat) : State :=
  let s := (s.setFld (R.SCN_LAYER_CFG_enable n) 0).touchLayer n
  { s with scn := { s.scn with releasing := (s.scn.releasing.filter fun x => x != n) ++ [n] } }

/-- LAYER_DEFINE (R38, R40, R44, R47, R48, R92). -/
def execLayerDefine (id : Nat) (bus : Bus) (s : State) : Host.Outcome State Fault Refusal :=
  .next (s.runOp id .layerDefine fun c s =>
    let n := c.pb 16 0 6
    let format := c.pb 17 0 4
    let kind := c.pb 17 4 1
    let base := c.pb 8 0 36
    let sw := c.p 20 2
    let sh := c.p 22 2
    let dw := c.p 24 2
    let dh := c.p 26 2
    if s.mayUseLayer c.client n = false then s.refuse c stNotPermitted 0
    else if c.flag 17 7 then (s.releaseLayer n).finishOne c
    else match defineFault n format kind base sw sh dw dh (c.p 28 2) with
    | some k => s.refuse c stBadParam k
    | none =>
      let cur := s.shadowLayer n
      let new := { cur with kind := kind, format := format, w := sw, h := sh, dw := dw, dh := dh }
      if isVideo n && !(videoSizeOk sw sh) then s.refuse c stLimit 5
      else if s.layerBusy n && new.frame != cur.frame then s.refuse c stBadParam 4
      else if !(isVideo n) && (s.tileSlot n).isSome && base != cur.base then s.refuse c stBadParam 5
      else match (if isVideo n then new.shrinkFault else none) with
      | some k => s.refuse c stLimit k
      | none =>
        if new.depthOk = false then s.refuse c stLimit 6
        else
          let s := (s.setFld (R.SCN_LAYER_CFG_enable n) (c.pb 17 6 1)).setFld (R.SCN_LAYER_CFG_kind n) kind
          let s := (s.setFld (R.SCN_LAYER_CFG_premul n) (c.pb 17 5 1)).setFld (R.SCN_LAYER_CFG_format n) format
          let s := (s.setFld (R.SCN_LAYER_CFG_group n) (c.pb 18 0 4)).setFld (R.SCN_LAYER_CFG_priority n) (c.pb 19 0 6)
          let s := (s.setFld (R.SCN_LAYER_SRC_width n) sw).setFld (R.SCN_LAYER_SRC_height n) sh
          let s := (s.setFld (R.SCN_LAYER_DST_width_m1 n) (dw - 1)).setFld (R.SCN_LAYER_DST_height_m1 n) (dh - 1)
          let s := if isVideo n then s else
            (s.setFld (R.SCN_LAYER_BASE_base n) (base / 64)).setFld (R.SCN_LAYER_PITCH_pitch n) (c.p 28 2)
          let s := if s.fld (R.SCN_LAYER_STATUS_owned n) = 1 then s else
            (s.setFld (R.SCN_LAYER_STATUS_owner n) c.client).setFld (R.SCN_LAYER_STATUS_owned n) 1
          let s := { s with scn := { s.scn with releasing := s.scn.releasing.filter fun x => x != n } }
          (s.touchLayer n).finishOne c)

/-- Whether the 32-bit value `x` is the sign extension of its low `w` bits (R49). -/
def fitsSigned (w x : Nat) : Bool := toField 32 (sext w x) == x % 2 ^ 32

/-- LAYER_GEOMETRY on bytes `p` of its packet: the refusal, or the state with the shadow written (R49, R99). -/
def State.layerGeometry (s : State) (client : Nat) (p : Nat → Nat → Nat) : State × Option (Nat × Nat) :=
  let n := bitsOf (p 16 1) 0 6
  let a := p 24 4
  let b := p 28 4
  let cc := p 32 4
  let k := p 36 4
  let cur := s.shadowLayer n
  let new := { cur with x0 := sext 16 (p 18 2), y0 := sext 16 (p 20 2), a := sext 24 a, b := sext 22 b, c := sext 22 cc, k := sext 20 k }
  if s.mayUseLayer client n = false then (s, some (stNotPermitted, 0))
  else if fitsSigned 24 a = false then (s, some (stBadParam, 24))
  else if fitsSigned 22 b = false then (s, some (stBadParam, 28))
  else if fitsSigned 22 cc = false then (s, some (stBadParam, 32))
  else if fitsSigned 20 k = false then (s, some (stBadParam, 36))
  else if k ≠ 0 ∧ cur.kind = 0 then (s, some (stBadParam, 36))
  else if new.depthOk = false then (s, some (stLimit, 6))
  else
    let s := (s.setFld (R.SCN_LAYER_POS_x0 n) (p 18 2)).setFld (R.SCN_LAYER_POS_y0 n) (p 20 2)
    let s := (s.setFld (R.SCN_LAYER_ZA_a n) a).setFld (R.SCN_LAYER_ZB_b n) b
    let s := (s.setFld (R.SCN_LAYER_ZC_c n) cc).setFld (R.SCN_LAYER_ZK_k n) k
    (s.touchLayer n, none)

/-- LAYER_GEOMETRY (R49). -/
def execLayerGeometry (id : Nat) (bus : Bus) (s : State) : Host.Outcome State Fault Refusal :=
  .next (s.runOp id .layerGeometry fun c s =>
    match s.layerGeometry c.client c.p with
    | (s, some (st, r)) => s.refuse c st r
    | (s, none) => s.finishOne c)

/-- The colour fields of LAYER_COLOUR into shadow state (R50). -/
def State.layerColour (s : State) (n : Nat) (p : Nat → Nat → Nat) : State :=
  let s := if isVideo n then
      (s.setFld (R.SCN_LAYER_CFG_preset n) (bitsOf (p 17 1) 0 2)).setFld (R.SCN_LAYER_CFG_limited n) (bitsOf (p 17 1) 2 1)
    else s
  let s := (s.setReg (R.SCN_LAYER_KEYMIN n) (BitVec.ofNat 64 (p 20 8))).setReg (R.SCN_LAYER_KEYMAX n) (BitVec.ofNat 64 (p 28 8))
  let s := (s.setFld (R.SCN_LAYER_COLOUR_r n) (p 36 2)).setFld (R.SCN_LAYER_COLOUR_g n) (p 38 2)
  ((s.setFld (R.SCN_LAYER_COLOUR_B_b n) (p 40 2)).setFld (R.SCN_LAYER_COLOUR_B_key_enable n) (bitsOf (p 18 1) 0 4)).touchLayer n

/-- Writes a custom matrix (18 bytes) or a palette (1 KiB) into shadow state (R43, R50). -/
def State.layerTable (s : State) (n : Nat) (d : List Byte) : State :=
  if isVideo n then
    let s := (List.range 4).foldl (fun s' j =>
      (s'.setFld (R.SCN_LAYER_MATRIX_lo n j) (leAt d (4 * j) 2)).setFld (R.SCN_LAYER_MATRIX_hi n j) (leAt d (4 * j + 2) 2)) s
    s.setFld (R.SCN_LAYER_MATRIX8_m8 n) (leAt d 16 2)
  else (List.range 256).foldl (fun s' i => s'.setFld (R.SCN_PALETTE_entry (n - 32) i) (leAt d (4 * i) 4)) s

/-- LAYER_COLOUR (R50). -/
def execLayerColour (id : Nat) (bus : Bus) (s : State) : Host.Outcome State Fault Refusal :=
  .next (s.runOp id .layerColour fun c s =>
    let n := c.pb 16 0 6
    if s.mayUseLayer c.client n = false then s.refuse c stNotPermitted 0
    else if c.flag 17 3 then
      if !(isVideo n) && (s.shadowLayer n).format != 0xC then s.refuse c stBadParam 17
      else match s.srcRead bus c false (c.p 8 8) (if isVideo n then 18 else 1024) with
        | (s, d, true) => ((s.layerTable n d).layerColour n c.p).finishOne c
        | (s, _, false) => s.failOne c stFault
    else (s.layerColour n c.p).finishOne c)

/-! ## Reading lists (R51) -/

/-- A set of layers as a 64-bit mask. -/
def layerMask (ls : List Layer) : Nat := ls.foldl (fun m l => m + 2 ^ l.n) 0

/-- REGION_LAYERS_READ (R51). -/
def execRegionLayersRead (id : Nat) (bus : Bus) (s : State) : Host.Outcome State Fault Refusal :=
  .next (s.runOp id .regionLayersRead fun c s =>
    let first := c.p 16 2
    let count := c.p 18 2
    if count = 0 ∨ 4096 < count then s.refuse c stBadParam 18
    else if s.gridOn = false ∨ s.regionCount < first + count then
      s.refuse c stBadParam (if s.regionCount ≤ first then 16 else 18)
    else
      let recs := (List.range count).map fun i =>
        (leBytes 8 (layerMask (s.layerList (first + i))) ++ leBytes 8 (layerMask (s.droppedIn (first + i))), (⟨stDone, 0, 0⟩ : Item))
      let (s, items) := s.writeRecords bus c false (c.p 8 8) recs
      s.finishAs c items)

/-! ## Damage commands (R210, R211) -/

/-- LAYER_DAMAGE (R210). -/
def execLayerDamage (id : Nat) (bus : Bus) (s : State) : Host.Outcome State Fault Refusal :=
  .next (s.runOp id .layerDamage fun c s =>
    let n := c.pb 8 0 6
    let now := c.flag 9 0
    let x := c.p 12 2
    let y := c.p 14 2
    let w := c.p 16 2
    let h := c.p 18 2
    let l := if now then s.activeLayer n else s.shadowLayer n
    if w = 0 then s.refuse c stBadParam 16
    else if h = 0 then s.refuse c stBadParam 18
    else if l.w < x + w ∨ l.h < y + h then s.refuse c stBadParam 1
    else if s.mayUseLayer c.client n = false then s.refuse c stNotPermitted 0
    else
      let t : Rect := ⟨x, x + w, y, y + h⟩
      let s := if now then (if l.enable then s.markAll (s.regionsOf (l.mapTexels t) (s.kerf n)) else s) else s.pendTexels n t
      s.finishOne c)

/-- REGION_DIRTY (R211). -/
def execRegionDirty (id : Nat) (bus : Bus) (s : State) : Host.Outcome State Fault Refusal :=
  .next (s.runOp id .regionDirty fun c s =>
    let gx0 := c.p 12 2
    let gy0 := c.p 14 2
    let gw := c.p 16 2
    let gh := c.p 18 2
    if s.gridOn = false then s.refuse c stBadParam 1
    else if c.flag 8 0 then (s.wholeField 7).finishOne c
    else if gw = 0 then s.refuse c stBadParam 16
    else if gh = 0 then s.refuse c stBadParam 18
    else if s.gx < gx0 + gw ∨ s.gy < gy0 + gh then s.refuse c stBadParam 1
    else (s.markAll (s.regionBlock gx0 (gx0 + gw) gy0 (gy0 + gh))).finishOne c)

end Sys2Proof.Machine
end

