-- ==== Sys2Proof/Machine/Sched.lean ====
section
/-! DEFINITION. The push scheduler: selection, credits, gate lists, guarantees and samples (chapter 10). -/

namespace Sys2Proof.Machine

open Sys2Proof

/-! ## Bays (R150, R299, R300) -/

/-- Whether bay `q` is in service (R299). -/
def State.bayIn (s : State) (q : Nat) : Bool :=
  s.fld (R.ENG_BAY_MAP_in_service (q / 8) (q % 8)) == 1 && s.fld (R.ENG_BENT_STATUS_state (q / 8)) == 1

/-- The region being filled, and the one being synthesised, in bay `q`. -/
def State.fillOf (s : State) (q : Nat) : Option Job :=
  s.sch.jobs.find? fun j => j.bay == q && (j.stage == .filling || j.stage == .filled)
def State.synthOf (s : State) (q : Nat) : Option Job := s.sch.jobs.find? fun j => j.bay == q && j.stage == .synth

/-- The cyclic order of bents (R300). -/
def bentOrder : List Nat := [0, 4, 1, 5, 2, 6, 3, 7]

/-- The bays of bent `b` that synthesise. -/
def State.busyBays (s : State) (b : Nat) : Nat := ((List.range 8).filter fun j => (s.synthOf (8 * b + j)).isSome).length

/-- Whether the fill side of bay `q` is free: no region fills, and no probe has it or waits for it (R153). -/
def State.fillFree (s : State) (q : Nat) : Bool := (s.fillOf q).isNone && !(s.eng.probes.any fun p => p.bay == q)

/-- The bay among those that `free` admits (R300), with the bent's place in the cyclic order. -/
def State.placeBay (s : State) (free : Nat → Bool) : Option (Nat × Nat) :=
  let places := ((List.range 8).map fun i => (s.eng.lastBent + 1 + i) % 8).filter fun p =>
    (List.range 8).any fun j => free (8 * bentOrder.getD p 0 + j)
  let best := places.foldl (fun (acc : Option Nat) p =>
    match acc with
    | none => some p
    | some a => if s.busyBays (bentOrder.getD p 0) < s.busyBays (bentOrder.getD a 0) then some p else some a) none
  best.bind fun p =>
    let bays := ((List.range 8).map fun j => 8 * bentOrder.getD p 0 + j).filter free
    ((bays.find? fun q => (s.synthOf q).isNone).or bays.head?).map fun q => (q, p)

/-- The bay for new work among those that `ok` admits (R300): in service, its fill side free. -/
def State.chooseBay (s : State) (ok : Nat → Bool) : Option (Nat × Nat) := s.placeBay fun q => s.bayIn q && ok q && s.fillFree q

/-- The bays that a re-synthesis of work that mismatched on bay `q` may use (R171): another bent in service, else another
bay of the same bent, else any. -/
def State.otherBay (s : State) (q x : Nat) : Bool :=
  let inService := (List.range 64).filter s.bayIn
  if inService.any fun y => y / 8 != q / 8 then x / 8 != q / 8
  else if inService.any fun y => y != q then x != q
  else true

/-! ## Eligibility and selection (R216 to R220) -/

/-- Regions of group `q` selected and not done. -/
def State.inFlight (s : State) (q : Nat) : Nat :=
  (s.sch.jobs.filter fun j => j.node / 16 == q).length + (s.sch.again.filter fun a => a.node / 16 == q).length

/-- Whether node (q, c) has a re-synthesis or an active entry to select. -/
def State.hasWork (s : State) (k : Nat) : Bool := (s.sch.again.any fun a => a.node == k) || !(s.activeOf k).isEmpty

/-- Whether class node (q, c) is eligible (R217; the first condition is waived for a re-synthesis, R220). -/
def State.eligible (s : State) (q c : Nat) : Bool :=
  let x := s.node (16 * q + c)
  s.hasWork (16 * q + c) && decide ((x.selected : Int) * 65536 ≤ x.credit) &&
  s.opensWithin q c (1000 * s.fld (R.SCH_GROUP_CFG_lookahead q)) && s.hasWindow q c

/-- The class that group `q` takes (R218). -/
def State.pickClass (s : State) (q : Nat) : Option Nat := s.rank.find? fun c => s.eligible q c

/-- Tag `a` comes before tag `b` (R219). -/
def tagBefore (a b : Nat) : Bool := a != b && decide ((b + 2 ^ 48 - a % 2 ^ 48) % 2 ^ 48 < 2 ^ 47)

/-- The entry of node `k` with the smallest tag, ties to the lowest region (R219). -/
def State.firstEntry (s : State) (k : Nat) : Option Nat :=
  (s.activeOf k).foldl (fun (acc : Option Nat) r =>
    match acc with
    | none => some r
    | some a => if tagBefore (s.region r).tag (s.region a).tag then some r else some a) none

/-- Whether group `q` qualifies (R216, items 1, 2 and 4), and has a bay to use. -/
def State.qualifies (s : State) (q : Nat) : Bool :=
  s.groupIn q && decide (s.inFlight q < s.fld (R.SCH_GROUP_CFG_depth q)) && (s.pickClass q).isSome

/-- QUIET lanes of group `q` wake (R289). -/
def State.wakeLanes (s : State) (q : Nat) : State :=
  (List.range 12).foldl (fun s' p =>
    if s'.fld (R.LAN_STATUS_state (12 * q + p)) = 4 then s'.setFld (R.LAN_STATUS_state (12 * q + p)) 3 else s')
    (s.ungate (19 + q / 4) (21 + q / 4))

/-- Hands work of region `r` at node `k` to bay `bay`. -/
def State.addJob (s : State) (r k bay : Nat) (again : Bool) (check : Option (Nat × Bool × Nat)) : State :=
  let bytes := s.regionBytes r
  let x := s.node k
  let s := (s.ungate (5 + bay / 8) (6 + bay / 8)).ungate (13 + bay / 32) (4 + bay / 32)
  let s := s.setNode k { x with selected := x.selected + bytes }
  let j : Job := { id := s.sch.nextJob, region := r, node := k, bay := bay, bytes := bytes, left := bytes, again := again, check := check }
  { s with sch := { s.sch with jobs := s.sch.jobs ++ [j], nextJob := s.sch.nextJob + 1 } }

/-- Selects region `r` of node `k` for bay `bay` (R208, R216, R219). -/
def State.selectEntry (s : State) (r k bay : Nat) : State :=
  let x := s.region r
  let s := s.noteAge r
  let s := ((s.setRegion r { x with state := 2 }).count (R.DMG_CNT_count 6) 1).countNode k 1
  let n := s.node k
  (s.setNode k { n with v := x.tag }).addJob r k bay false none

/-- Selects for group `q` (R216 to R220, R300). -/
def State.selectFor (s : State) (q : Nat) : State :=
  match s.pickClass q with
  | none => s
  | some c =>
    let k := 16 * q + c
    let take := fun (s : State) (p : Nat) =>
      { (s.wakeLanes q) with sch := { (s.wakeLanes q).sch with lastGroup := q }, eng := { (s.wakeLanes q).eng with lastBent := p } }
    match s.sch.again.find? fun a => a.node == k with
    | some a =>
      match s.chooseBay (s.otherBay a.bay) with
      | none => s
      | some (bay, p) =>
        let s := { s with sch := { s.sch with again := s.sch.again.erase a } }
        take (s.addJob a.region k bay true (some (a.check, true, 0))) p
    | none =>
      match s.firstEntry k, s.chooseBay (fun _ => true) with
      | some r, some (bay, p) => take (s.selectEntry r k bay) p
      | _, _ => s

/-- Whether a bay is free for the work that group `q` takes next (R216 item 3): a re-synthesis admits other bays than an entry does. -/
def State.hasBayFor (s : State) (q : Nat) : Bool :=
  match s.pickClass q with
  | none => false
  | some c =>
    match s.sch.again.find? fun a => a.node == 16 * q + c with
    | some a => (s.chooseBay (s.otherBay a.bay)).isSome
    | none => (s.firstEntry (16 * q + c)).isSome && (s.chooseBay fun _ => true).isSome

/-- REGION_SELECT: the first group that qualifies, in round robin after the group served last. -/
def execRegionSelect (s : State) : Host.Outcome State Fault Refusal :=
  .next (if s.dmg.pendGrid.isSome then s else
    match ((List.range 16).map fun i => (s.sch.lastGroup + 1 + i) % 16).find? fun q => s.qualifies q && s.hasBayFor q with
    | none => s
    | some q => s.selectFor q)

/-! ## Credit (R222 to R224) -/

/-- The 2^-16 bytes that a rate of `r` bit/s carries in 8 ns (R222; the fraction below 2^-16 is dropped). -/
def perTick (r : Nat) : Nat := r * 65536 / 1000000000

/-- The idle and send slopes of a node in bit/s (R223). -/
def State.slopes (s : State) (q c : Nat) : Nat × Nat :=
  let idle := s.fld (R.SCH_CLASS_SLOPE_idle_slope q c) * 10000000
  let send := s.fld (R.SCH_CLASS_SLOPE_send_slope q c) * 10000000
  (idle, if send = 0 then laneRate (s.groupLanes q) - idle else send)

/-- The credit limits of a node, 2^-16 byte. -/
def State.limits (s : State) (q c : Nat) : Int × Int :=
  (-((s.fld (R.SCH_CLASS_LIMIT_locredit q c) * 256 * 65536 : Nat) : Int), ((s.fld (R.SCH_CLASS_LIMIT_hicredit q c) * 256 * 65536 : Nat) : Int))

/-- Whether a node is backlogged (R222 item 3). -/
def State.backlogged (s : State) (k : Nat) : Bool := s.hasWork k || s.sch.jobs.any fun j => j.node == k

/-- A node's credit is held within its limits, and what is cut off or forgiven is counted (R222, R224). -/
def Node.bound (x : Node) (lo hi : Int) : Node :=
  if hi < x.credit then { x with credit := hi, h := x.h + (x.credit - hi).toNat }
  else if x.credit < lo then { x with credit := lo, l := x.l + (lo - x.credit).toNat }
  else x

/-- A node's credit is set to `v` and the difference counts in Z (R223, R224). -/
def Node.setCredit (x : Node) (v : Int) : Node := { x with credit := v, z := x.z + (x.credit - v) }

/-- One 8 ns step of node (q, c) (R222). -/
def State.creditStep (s : State) (q c : Nat) : State :=
  let k := 16 * q + c
  let x := s.node k
  if s.gateOpen q c = false then s
  else if s.fld (R.PNL_GROUP_STATUS_held q) = 1 then
    (if s.backlogged k then s.setNode k { x with openTime := x.openTime + 8 } else s)
  else
    let (idle, send) := s.slopes q c
    let (lo, hi) := s.limits q c
    let sending := (s.pg q).wire.any fun w => w.node == k
    let x := if s.backlogged k then { x with openTime := x.openTime + 8 } else x
    let x :=
      if sending then { x with credit := x.credit - perTick send, s := x.s + perTick send }
      else if s.backlogged k then { x with credit := x.credit + perTick idle, e := x.e + perTick idle }
      else if 0 < x.credit then x.setCredit 0
      else
        let d := min (-x.credit).toNat (perTick idle)
        { x with credit := x.credit + d, e := x.e + d }
    s.setNode k (x.bound lo hi)

/-- CLASS_CREDIT_TICK. -/
def execClassCreditTick (s : State) : Host.Outcome State Fault Refusal :=
  .next ((List.range 256).foldl (fun s' k => s'.creditStep (k / 16) (k % 16)) s)

/-- A credit outside new limits is brought within them (R223, R224). -/
def State.relimit (s : State) (q c : Nat) : State :=
  let x := s.node (16 * q + c)
  let (lo, hi) := s.limits q c
  s.setNode (16 * q + c) (x.setCredit (clampInt lo hi x.credit))

/-! ## Gate lists (R225 to R227, R230) -/

/-- The registers that show group `q`'s active list. -/
def State.showList (s : State) (q : Nat) : State :=
  let g := s.gates q
  let es := match g.active with
    | none => []
    | some l => l.entries
  let s := (List.range 64).foldl (fun s' e =>
    let x := es.getD e (0, 0)
    s'.setReg (R.SCH_GATE_ACTIVE q e) (BitVec.ofNat 64 (x.1 + x.2 * 65536))) s
  let s := s.setFld (R.SCH_GATE_CYCLE_ns q) ((g.active.map GateList.cycle).getD 0)
  let s := (s.setFld (R.SCH_GATE_STATUS_entries q) es.length).setFld (R.SCH_GATE_STATUS_anchor q) ((g.active.map GateList.anchor).getD 0)
  s.setFld (R.SCH_GATE_STATUS_present q) (bit g.active.isSome)

/-- The index of group `q` among the set bits of a mask. -/
def itemOf (mask q : Nat) : Nat := popCount q mask

/-- The group mask of a GATE_LIST_SET command. -/
def State.maskOf (s : State) (id : Nat) : Nat := ((s.cmdOf id).map fun c => c.p 28 2).getD 0

/-- GATE_LIST_START: the pending list replaces the active one (R226, R227). -/
def execGateListStart (q : Nat) (s : State) : Host.Outcome State Fault Refusal :=
  let g := s.gates q
  .next (match g.waiting with
    | none => s
    | some l =>
      let te := s.fld (R.PNL_SEG_TE_TIME_time (s.segOfGroup q))
      let start := if l.anchor = 0 then g.waitStart else te
      let s := s.setGates q { active := if l.entries.isEmpty then none else some l, start := start, waiting := none, waitStart := 0 }
      let s := (s.showList q).replan q
      s.itemDone l.cmd (itemOf (s.maskOf l.cmd) q) ⟨stDone, 0, 0⟩)

/-- GATE_LIST_SET (R226, R241). -/
def execGateListSet (id : Nat) (bus : Bus) (s : State) : Host.Outcome State Fault Refusal :=
  .next (s.runOp id .gateListSet fun c s =>
    let base := c.p 16 8
    let cycle := c.p 24 4
    let groups := c.p 28 2
    let count := c.pb 30 0 7
    let anchor := c.pb 31 0 1
    let remove := c.flag 31 1
    if !remove && (count == 0 || decide (64 < count) || decide (cycle < 1000) || decide (1000000000 < cycle)) then s.refuse c stBadParam 1
    else
      let (s, recs) := if remove then (s, []) else s.readRecords bus c false (c.p 8 8) 8 count
      if !remove && recs.length != count then s.failOne c stFault
      else
        let words := recs.map leNat
        if words.any fun w => decide (bitsOf w 16 32 < 100) then s.refuse c stBadParam 1
        else if words.any fun w => bitsOf w 48 16 != 0 then s.refuse c stBadParam 2
        else if groups = 0 then s.refuse c stBadParam 3
        else if s.deferFull c then s.refuse c stBusyRetry 0
        else
          let l : GateList := ⟨words.map fun w => (bitsOf w 0 16, bitsOf w 16 32), base, cycle, anchor, id⟩
          let past := decide (base < s.now)
          let n := if past && anchor == 0 && !remove then (s.now - base) / cycle + 1 else 0
          let s := s.defer c (popCount 16 groups)
          (setBits 16 groups).foldl (fun s' q =>
            let g := s'.gates q
            let s' := match g.waiting with
              | some old => s'.abort old.cmd stSoftware
              | none => s'
            let start := if remove then max base s'.now else if anchor = 0 then base + n * cycle else max base s'.now
            let s' := s'.setGates q { (s'.gates q) with waiting := some l, waitStart := start }
            if past && !remove then s'.post 0x0700 q (min n 0xFFFFFFFF) else s') s)

/-! ## Guarantees (R233 to R235, R238 to R240) -/

/-- The debt of class `c` after an interval, with the groups whose nodes added to it (R233). -/
def State.debtAfter (s : State) (c : Nat) : Nat × Nat :=
  let rate := s.fld (R.SCH_CLASS_GUAR_min_rate c) * 10000000
  let before := s.fld (R.SCH_CLASS_DEBT_bytes c)
  let step := fun (acc : Nat × Nat) (q : Nat) =>
    let x := s.node (16 * q + c)
    let debt := acc.1 + rate * x.openTime / 8000000000 - x.sent
    (debt, if acc.1 < debt then acc.2 + 2 ^ q else acc.2)
  if rate = 0 then (before, 0) else (List.range 16).foldl step (before, 0)

/-- The accounting interval of class `c` ends. -/
def State.endInterval (s : State) (c : Nat) : State :=
  let before := s.fld (R.SCH_CLASS_DEBT_bytes c)
  let d := s.debtAfter c
  let s := s.setFld (R.SCH_CLASS_DEBT_bytes c) d.1
  let s := if before = 0 ∧ d.1 ≠ 0 then s.post 0x0701 c (d.2 + 3 * 65536) else s
  let s := (List.range 16).foldl (fun s' q => s'.setNode (16 * q + c) { (s'.node (16 * q + c)) with openTime := 0, sent := 0 }) s
  let waiting := Store.get (fun _ => 0) s.sch.breaches (2 * c)
  let b := Store.set (fun _ => 0) (Store.set (fun _ => 0) s.sch.breaches (2 * c) 0) (2 * c + 1) (bit (waiting != 0))
  let s := { s with sch := { s.sch with breaches := b } }
  if waiting = 0 then s else s.post 0x0701 c (waiting + 2 * 65536)

/-- `n` bytes of the piece on the wire of group `q` are sent: those not counted before count for its class node (R233). -/
def State.countSent (s : State) (q n : Nat) : State :=
  match (s.pg q).wire with
  | none => s
  | some w =>
    let x := s.node w.node
    (s.setNode w.node { x with sent := x.sent + (n - w.counted) }).setPg q { s.pg q with wire := some { w with counted := max w.counted n } }

/-- The bytes of piece `w` sent by now: at least those counted and no more than it has; no rule gives the number, a free value (R233;
log entry 244). -/
def State.sentNow (s : State) (w : Wire) : Nat := w.counted + s.freeVal % (w.bytes w.rows - w.counted + 1)

/-- What is sent by now of the piece on the wire of group `q` counts (R233). -/
def State.countWire (s : State) (q : Nat) : State :=
  match (s.pg q).wire with
  | none => s
  | some w => (s.countSent q (s.sentNow w)).nextFree

/-- ACCOUNTING_INTERVAL_END (R233, R235). -/
def execAccountingIntervalEnd (s : State) : Host.Outcome State Fault Refusal :=
  .next ((List.range 16).foldl State.endInterval ((List.range 16).foldl State.countWire s))

/-- DELAY_BREACH (R234, R235). -/
def execDelayBreach (r : Nat) (s : State) : Host.Outcome State Fault Refusal :=
  let x := s.region r
  let c := x.node % 16
  let lim := s.fld (R.SCH_CLASS_GUAR_max_delay c) * 10000
  .next (if x.state = 1 ∧ x.late = false ∧ lim ≠ 0 ∧ lim < s.ptp.f - x.since then
    let s := (s.setRegion r { x with late := true }).countNode x.node 5
    let q := x.node / 16
    if Store.get (fun _ => 0) s.sch.breaches (2 * c + 1) = 0 then
      let s := { s with sch := { s.sch with breaches := Store.set (fun _ => 0) s.sch.breaches (2 * c + 1) 1 } }
      s.post 0x0701 c (2 ^ q + 2 * 65536)
    else
      { s with sch := { s.sch with breaches := Store.modify (fun _ => 0) s.sch.breaches (2 * c) fun m => m ||| 2 ^ q } }
  else s)

/-- The histogram bin of a value (R236). -/
def histBin (x : Nat) : Nat := if x = 0 then 0 else min 15 (Nat.log2 x + 1)

/-- A histogram with one more sample; bins are u32 and saturate. -/
def histAdd (h : List Nat) (x : Nat) : List Nat := h.set (histBin x) (satAdd 32 (h.getD (histBin x) 0) 1)

/-- HISTOGRAM_SAMPLE (R236). -/
def execHistogramSample (s : State) : Host.Outcome State Fault Refusal :=
  let age := fun (s : State) (r : Nat) => (s.ptp.f - (s.region r).since) / 1000
  let perNode := fun (s : State) (k : Nat) =>
    let es := s.entriesOf k
    let x := s.node k
    let x := { x with depthHist := histAdd x.depthHist es.length }
    s.setNode k (if es.isEmpty then x else { x with delayHist := histAdd x.delayHist ((es.map (age s)).foldl max 0) })
  let s := (List.range 256).foldl perNode s
  let watch := fun (s : State) (i : Nat) =>
    let r := s.fld (R.SCH_WATCH_region i)
    if s.fld (R.SCH_WATCH_enable i) = 1 ∧ (s.region r).state = 1 then
      { s with sch := { s.sch with watched := Store.modify (fun _ => List.replicate 16 0) s.sch.watched i fun h => histAdd h (age s r) } }
    else s
  let s := (List.range 16).foldl watch s
  .next ((s.dmg.regions.filter fun e => e.2.state == 1).foldl (fun s' e => s'.noteAge e.1) s)

/-- CLASS_SET (R223, R238). -/
def execClassSet (id : Nat) (bus : Bus) (s : State) : Host.Outcome State Fault Refusal :=
  .next (s.runOp id .classSet fun c s =>
    let groups := c.p 8 2
    let cl := c.pb 10 0 4
    if groups = 0 then s.refuse c stBadParam 1
    else
      let qs := setBits 16 groups
      let s := qs.foldl (fun s' q =>
        let s' := (s'.setFld (R.SCH_CLASS_SLOPE_idle_slope q cl) (c.p 12 2)).setFld (R.SCH_CLASS_SLOPE_send_slope q cl) (c.p 14 2)
        ((s'.setFld (R.SCH_CLASS_LIMIT_hicredit q cl) (c.p 16 2)).setFld (R.SCH_CLASS_LIMIT_locredit q cl) (c.p 18 2)).relimit q cl) s
      let s := qs.foldl (fun s' q => s'.replan q) s
      s.finishAs c (qs.map fun _ => ⟨stDone, 0, 0⟩))

/-- GUARANTEE_SET (R231, R239). -/
def execGuaranteeSet (id : Nat) (bus : Bus) (s : State) : Host.Outcome State Fault Refusal :=
  .next (s.runOp id .guaranteeSet fun c s =>
    let cl := c.pb 8 0 4
    let p := c.pb 9 0 4
    let bad := if cl = 0 then (List.range 15).any fun i => decide (p < s.prec (i + 1)) else decide (s.prec 0 < p)
    if bad then s.refuse c stBadParam 1
    else
      let s := s.setFld (R.SCH_CLASS_PREC_precedence cl) p
      let s := (s.setFld (R.SCH_CLASS_GUAR_min_rate cl) (c.p 10 2)).setFld (R.SCH_CLASS_GUAR_max_delay cl) (c.p 12 2)
      -- an entry not past the new max_delay may pass it yet (R234)
      let s := ((s.dmg.regions.filter fun e => e.2.late && e.2.node % 16 == cl &&
          (c.p 12 2 == 0 || decide (s.ptp.f - e.2.since ≤ 10000 * c.p 12 2))).map Prod.fst).foldl
        (fun t r => t.setRegion r { t.region r with late := false }) s
      ((List.range 16).foldl (fun s' q => s'.replan q) s).finishOne c)

/-- REGION_MAP_SET (R214, R240). -/
def execRegionMapSet (id : Nat) (bus : Bus) (s : State) : Host.Outcome State Fault Refusal :=
  .next (s.runOp id .regionMapSet fun c s =>
    let gx0 := c.p 12 2
    let gy0 := c.p 14 2
    let gw := c.p 16 2
    let gh := c.p 18 2
    let pin := c.flag 21 0
    let group := c.pb 20 4 4
    if s.gridOn = false then s.refuse c stBadParam 1
    else if gw = 0 then s.refuse c stBadParam 16
    else if gh = 0 then s.refuse c stBadParam 18
    else if s.gx < gx0 + gw ∨ s.gy < gy0 + gh then s.refuse c stBadParam 1
    else if c.p 22 1 = 0 then s.refuse c stBadParam 3
    else
      let rs := s.regionBlock gx0 (gx0 + gw) gy0 (gy0 + gh)
      let ok := fun r => !pin || s.servesSeg group (s.segOfRegion r)
      let items := rs.map fun r => if ok r then (⟨stDone, 0, 0⟩ : Item) else ⟨stBadParam, 2, 0⟩
      let s := (rs.filter ok).foldl (fun s' r =>
        let s' := (s'.setFld (R.SCH_REGION_MAP_class r) (c.pb 20 0 4)).setFld (R.SCH_REGION_MAP_group r) group
        (s'.setFld (R.SCH_REGION_MAP_pin r) (bit pin)).setFld (R.SCH_REGION_MAP_weight r) (c.p 22 1)) s
      s.finishAs c items)

/-- A histogram record: 16 u32 bins. -/
def histBytes (h : List Nat) : List Byte := h.flatMap fun x => leBytes 4 x

/-- SCHED_STATS_READ (R242). -/
def execSchedStatsRead (id : Nat) (bus : Bus) (s : State) : Host.Outcome State Fault Refusal :=
  .next (s.runOp id .schedStatsRead fun c s =>
    let ks := (setBits 16 (c.p 16 2)).flatMap fun q => (List.range 16).map fun i => 16 * q + i
    let watched := c.flag 18 0
    let hist := fun i => Store.get (fun _ => List.replicate 16 0) s.sch.watched i
    let recs := (ks.map fun k => (histBytes (s.node k).depthHist ++ histBytes (s.node k).delayHist, (⟨stDone, 0, 0⟩ : Item))) ++
      (if watched then (List.range 16).map fun i => (histBytes (hist i), (⟨stDone, 0, 0⟩ : Item)) else [])
    let (s, items) := s.writeRecords bus c false (c.p 8 8) recs
    let s := if c.flag 18 1 then
        -- only what was written is cleared
        let written := fun (i : Nat) => ((items.getD i ⟨stFault, 0, 0⟩).status == stDone)
        let s := (ks.zipIdx.filter fun e => written e.2).foldl (fun s' e =>
          s'.setNode e.1 { (s'.node e.1) with depthHist := List.replicate 16 0, delayHist := List.replicate 16 0 }) s
        let ws := (List.range 16).filter fun i => watched && written (ks.length + i)
        { s with sch := { s.sch with watched := ws.foldl (fun m i =>
            Store.set (fun _ => List.replicate 16 0) m i (List.replicate 16 0)) s.sch.watched } }
      else s
    s.finishAs c items)

end Sys2Proof.Machine
end

