-- ==== Sys2Proof/Machine/Synth.lean ====
section
/-! DEFINITION. Bays at work: fills, synthesis, launch, square checks and probes (chapters 6 and 7). -/

namespace Sys2Proof.Machine

open Sys2Proof

/-! ## Signatures in force (R163 to R169) -/

/-- The enabled check region that region `r` belongs to in active state. -/
def State.checkOf (s : State) (r : Nat) : Option Nat :=
  (List.range 256).find? fun c => s.fld (R.GLU_SQC_CTL_enable c) == 1 && s.inCheck (s.checkAct c) r

/-- The address of entry `r` of signature copy `k` (R167). -/
def State.sigAddr (s : State) (k r : Nat) : Nat := 4096 * s.fld R.GLU_SQC_TABLE_BASE_base + k * 524288 + 8 * r

/-- The active expected entry of member region `r` of check region `c`: valid, signature (R167, R168). -/
def State.sigEntry (s : State) (c r : Nat) : Bool × Nat :=
  let a := s.sigAddr (s.fld (R.GLU_SQC_CTL_copy c)) r
  let w := leNat ((List.range 8).map fun j => s.maByte (a + j))
  (w.testBit 32, bitsOf w 0 32)

/-! ## Fill (R147 to R149) -/

/-- FILL_COMPLETE: the fill has read module DRAM as it stands (R147); a footprint past the budget is counted (R149). -/
def execFillComplete (bay : Nat) (s : State) : Host.Outcome State Fault Refusal :=
  .next (match s.sch.jobs.find? fun j => j.bay == bay && j.stage == .filling with
    | none => s
    | some j =>
      -- a region that was filled before is counted once
      let counted := j.overBudget
      let ns := s.footprintLines j.region
      let demand := demandLines 4096 ns
      let past := demand != 0
      let s := s.setJob { j with stage := .filled, texels := s.dram, overBudget := past, demand := demand }
      if past && !counted then
        let past := min 65535 (ceilDiv ((ns.sum - 4096) * 64) 1024)
        (s.bump (bayStat bay 1)).postLimited (0x0580000000 + bay) 10000000 0x0580 bay (j.region + past * 65536)
      else s)

/-- The 64 bytes of the line at module address `a` are in `texels` as module DRAM reads now. -/
def State.fetchLine (s : State) (texels : List Host.Cell) (a : Nat) : List Host.Cell :=
  (List.range 64).foldl (fun t i =>
    match s.placeOf (a / 64 * 64 + i) with
    | .at_ _ ch bank row col =>
      let k := physKey ch bank row col
      Store.set (fun _ => 0) t k (s.phys k)
    | _ => t) texels

/-- DEMAND_LINE_ARRIVAL: the lines at the module addresses given arrive, the bay resumes (R147, R149). The rows not yet on the wire
are those of the texels as they now read; a line that no layer of the footprint asked for counts too. -/
def execDemandLineArrival (bay : Nat) (lines : List Nat) (clocks : Nat) (s : State) : Host.Outcome State Fault Refusal :=
  let n := lines.length
  let counted := fun (s : State) => (s.bumpBy (bayStat bay 2) n).bumpBy (bayStat bay 3) (clocks / 64)
  .next (if n = 0 then s
    else match s.synthOf bay, s.eng.probes.find? fun p => p.bay == bay && p.under.isSome with
    | some j, _ =>
      let texels := lines.foldl s.fetchLine j.texels
      let rows := match j.under with
        | some u => j.rows.take j.sent ++ (s.synthesise u texels j.region j.phase).drop j.sent
        | none => j.rows
      counted (s.setJob { j with texels := texels, rows := rows, demand := j.demand - n })
    | none, some _ => counted s
    | none, none => s)

/-! ## Synthesis (R130, R144, R151, R152) -/

/-- The clock of bent `b` in Hz. -/
def State.bentHz (s : State) (b : Nat) : Nat := 1000000 * s.fld (R.PWC_CLK_mhz (6 + b))

/-- n_launch of a region of `n` rays on bay `bay` towards group `q` (R151). -/
def State.nLaunch (s : State) (n bay q cpr : Nat) : Nat :=
  let f := s.bentHz (bay / 8)
  let link := laneRate (s.groupLanes q)
  let margin := s.fld (R.ENG_SYN_CFG_launch_margin (bay / 8))
  let early := if link = 0 then n else n * (8 * f) * (3 * s.depth) / (cpr * link)
  min n ((n - early) + ceilDiv (margin * 8 * f) (cpr * 100000000))

/-- The bytes of the ray buffer that the first `n` rays of a region of width `w` take, each full row padded (R152, R161). -/
def State.rayBytes (s : State) (w n : Nat) : Nat :=
  let row := max 1 (w * s.views)
  n / row * s.rowBytes w + ceilDiv (n % row * 3 * s.depth) 8

/-- The frame phase with which region `r` is rounded (R156, R158). -/
def State.phaseOf (s : State) (r : Nat) : Nat :=
  if (s.checkOf r).isSome then 0 else s.fld (R.PNL_SEG_FRAME_frame (s.segOfRegion r)) % 4

/-- SYNTHESIS_START: the filled region of the bay is synthesised from the active state (R130). -/
def execSynthesisStart (bay : Nat) (s : State) : Host.Outcome State Fault Refusal :=
  .next (match s.sch.jobs.find? fun j => j.bay == bay && j.stage == .filled with
    | none => s
    | some j =>
      if (s.synthOf bay).isSome then s
      else
        let r := j.region
        let f := s.phaseOf r
        let u := s.underNow r
        let rows := s.synthesise u j.texels r f
        let (x, y, w, h) := s.regionRect r
        let s := (List.range h).foldl (fun s' i => s'.countCorrection x (y + i) w) s
        let rays := w * h * s.views
        let cpr := if s.slotsOf r ≤ 8 then 1 else 2
        let q := j.node / 16
        let check := (s.checkOf r).map fun c => (c, s.sigEntry c r)
        let n := s.nLaunch rays bay q cpr
        let pieces := j.overBudget || decide (1048576 < s.rayBytes w n) || s.fld (R.ENG_SYN_CFG_store_forward (bay / 8)) == 1 ||
          (check.isSome && decide (524288 < j.bytes))
        let s := s.setJob { j with
          stage := .synth, under := some u, rows := rows, rays := rays, launchAt := n, cpr2 := cpr == 2, pieces := pieces
          startedAt := s.now, frame := s.fld (R.PNL_SEG_FRAME_frame (s.segOfRegion r)), phase := f
          check := check.map fun p => (p.1, p.2.1, p.2.2)
          caps := (s.glu.captures.filter fun k => k.open_.contains r).map Capture.cmd }
        let s := if j.again then s else
          let x := s.region r
          s.setRegion r { x with state := 3 }
        match check, j.again with
        | some (c, _), false =>
          if s.glu.pending.contains (r, c) then s
          else { (s.countCheck c 0) with glu := { (s.countCheck c 0).glu with pending := s.glu.pending ++ [(r, c)] } }
        | none, true => (match j.check with
          | some (c, _) => s.countCheck c 5
          | none => s)
        | _, _ => s)

/-! ## Launch (R151, R152) -/

/-- A job asks to launch: a first burst joins the requests of its group, a later piece the continuations (R152, R221). -/
def State.ask (s : State) (j : Job) : State :=
  let q := j.node / 16
  let g := s.pg q
  let s := s.setJob { j with asked := true }
  if j.asked then s
  else s.setPg q { g with requests := g.requests ++ [j.id], conts := if j.started then g.conts ++ [j.id] else g.conts }

/-- LAUNCH_REQUEST (R151). -/
def execLaunchRequest (bay : Nat) (s : State) : Host.Outcome State Fault Refusal :=
  .next (match s.synthOf bay with
    | none => s
    | some j =>
      if j.asked || j.pieces || j.check.isSome then s
      else s.ask { j with ready := max j.ready j.launchAt })

/-- The rays of one ray row, and the packed bytes of one. -/
def Job.rowRays (j : Job) : Nat := if j.rows.isEmpty then 0 else j.rays / j.rows.length
def Job.rowBytes (j : Job) : Nat := (j.rows.headD []).length

/-- Where the next piece of a region sent in pieces begins, and its rows (R152). -/
def Job.nextPiece (j : Job) : Nat := j.ends.getLast?.getD j.sent
def Job.newRows (j : Job) : Nat := min (j.rows.length - j.nextPiece) (max 1 (524288 / max 1 j.rowBytes))

/-- The rows that the next burst of a region carries: what is left of the oldest piece asked for, or of the region (R152, R229). -/
def Job.pieceRows (j : Job) : Nat := j.ends.headD j.rows.length - j.sent

/-- Whether another piece fits into the ray buffer of 1 MiB beside what it holds (R152). -/
def Job.pieceFits (j : Job) : Bool :=
  j.ends.isEmpty || decide ((j.nextPiece + j.newRows - j.sent) * j.rowBytes ≤ 1048576)

/-- PIECE_READY (R152); a checked region's pieces wait for the comparison (R170). -/
def execPieceReady (region : Nat) (s : State) : Host.Outcome State Fault Refusal :=
  .next (match s.jobOf region with
    | none => s
    | some j =>
      let e := j.nextPiece + j.newRows
      if !j.pieces || !j.pieceFits || !(j.stage == .synth || j.stage == .buffered) || (j.stage == .synth && j.check.isSome) ||
          j.rows.length == j.nextPiece || (j.cut && decide (j.ready < e * j.rowRays)) then s
      else
        let s := if j.nextPiece = 0 then s else s.bump (bayStat j.bay 4)
        s.ask { j with ready := max j.ready (e * j.rowRays), ends := j.ends ++ [e] })

/-- RAY_BUFFER_DRAINED (R152): the stall is counted. -/
def execRayBufferDrained (bay clocks : Nat) (s : State) : Host.Outcome State Fault Refusal :=
  .next (match s.synthOf bay with
    | none => s
    | some j => if j.pieces then s.bumpBy (bayStat bay 3) (clocks / 64) else s)

/-! ## End of synthesis, signatures and captures (R166, R170 to R173, R180) -/

/-- A capture record (R180). -/
def captureRecord (j : Job) (compared mismatch : Bool) : List Byte :=
  leBytes 4 j.signature ++ leBytes 2 j.region ++ leBytes 1 j.bay ++
  leBytes 1 (bit compared + 2 * bit mismatch + 4 * bit j.again + 16 * j.phase) ++ leBytes 8 j.startedAt

/-- Writes the record of one capture that waits for the job's region. -/
def State.captureInto (s : State) (b : Bus) (j : Job) (compared mismatch : Bool) (id : Nat) : State :=
  match s.glu.captures.find? fun k => k.cmd == id && k.open_.contains j.region with
  | none => s
  | some k =>
    let k' := { k with open_ := k.open_.filter fun r => r != j.region }
    let caps := if k'.open_.isEmpty then s.glu.captures.filter (fun x => x.cmd != id)
      else s.glu.captures.map fun x => if x.cmd == id then k' else x
    let s := { s with glu := { s.glu with captures := caps } }
    match s.cmdOf id with
    | none => s
    | some c =>
      let (s, ok) := s.hostWrite b c.client (k.dest + 16 * (j.region - k.first)) (captureRecord j compared mismatch)
      s.itemDone id (j.region - k.first) ⟨if !ok then stFault else if j.sistered then stDegraded else stDone, 0, 0⟩

/-- Every capture that waits for the job's region is written. -/
def State.capture (s : State) (b : Bus) (j : Job) (compared mismatch : Bool) : State :=
  j.caps.foldl (fun s' id => s'.captureInto b j compared mismatch id) s

/-- A pending first comparison is settled (R177). -/
def State.settle (s : State) (r c : Nat) : State :=
  { s with glu := { s.glu with pending := s.glu.pending.filter fun p => p != (r, c) } }

/-- The substituted mark of region `r` of check region `c` is cleared (R173). -/
def State.clearSub (s : State) (r c : Nat) : State :=
  if s.glu.substituted.contains r then
    let s := { s with glu := { s.glu with substituted := s.glu.substituted.filter fun x => x != r } }
    (s.dropBy (R.GLU_SQC_CTL_substituted c) 1).dropBy (R.GLU_SQC_CNT_count c 7) 1
  else s

/-- A mismatch is shown in the GLU_SQC_LAST registers. -/
def State.lastMismatch (s : State) (j : Job) (c expect : Nat) (second : Bool) : State :=
  let s := (s.setFld R.GLU_SQC_LAST_EXPECT_sig expect).setFld R.GLU_SQC_LAST_GOT_sig j.signature
  let s := (s.setFld R.GLU_SQC_LAST_WHERE_region j.region).setFld R.GLU_SQC_LAST_WHERE_check c
  (s.setFld R.GLU_SQC_LAST_WHERE_bay j.bay).setFld R.GLU_SQC_LAST_WHERE_second (bit second)

/-- Posts SQC_MISMATCH at most once per millisecond per check region (R181). -/
def State.postMismatch (s : State) (j : Job) (c : Nat) : State :=
  let n := Store.get (fun _ => 0) s.glu.sinceMismatch c
  if s.mayPost (0x0590000000 + c) 1000000 then
    let s := s.postLimited (0x0590000000 + c) 1000000 0x0590 c (j.region + j.bay * 65536 + min n 1023 * 4194304)
    { s with glu := { s.glu with sinceMismatch := Store.set (fun _ => 0) s.glu.sinceMismatch c 0 } }
  else { s with glu := { s.glu with sinceMismatch := Store.set (fun _ => 0) s.glu.sinceMismatch c (n + 1) } }

/-- The rows of a safe-colour burst (R172). -/
def State.safeRows (s : State) (c : Nat) (j : Job) : List (List Byte) :=
  j.rows.map fun _ => sameRow (3 * s.depth) (s.fld (R.GLU_SQC_SAFE_WORD_word c)) j.rowRays

/-- A finished synthesis that is sent asks to launch; one in pieces waits for PIECE_READY. -/
def State.askWhole (s : State) (j : Job) : State := if j.pieces || j.asked then s.setJob j else s.ask j

/-- SYNTHESIS_END: the signature is final and, for a member region, compared (R170 to R173). -/
def execSynthesisEnd (bay : Nat) (bus : Bus) (s : State) : Host.Outcome State Fault Refusal :=
  .next (match s.synthOf bay with
    | none => s
    | some j =>
      if j.demand ≠ 0 then s
      else
        let j := { j with stage := .buffered, texels := [], under := none, ready := j.rays, signature := crc32c j.rows.flatten }
        let s := (s.setJob j).bump (bayStat bay 0)
        match j.check with
        | none => (s.askWhole j).capture bus j false false
        | some (c, valid, expect) =>
          let s := if j.again then s else s.settle j.region c
          if !valid then
            ((s.countCheck c (if j.again then 8 else 6)).clearSub j.region c).askWhole j |>.capture bus j false false
          else if j.signature = expect then
            let s := s.countCheck c (if j.again then 3 else 1)
            let s := if s.glu.substituted.contains j.region then (s.clearSub j.region c).post 0x0592 c j.region else s
            (s.askWhole { j with checked := true }).capture bus j true false
          else
            let s := (s.lastMismatch j c expect j.again).capture bus j true true
            if j.again then
              let s := (s.countCheck c 4).post 0x0591 c (j.region + j.bay * 65536)
              let s := if s.glu.substituted.contains j.region then s
                -- the disable of the check region has come since: no mark, and the region is dirty (R173)
                else if s.inCheck (s.checkAct c) j.region = false then s.markAll [j.region] else
                let s := { s with glu := { s.glu with substituted := s.glu.substituted ++ [j.region] } }
                (s.bump (R.GLU_SQC_CTL_substituted c)).bump (R.GLU_SQC_CNT_count c 7)
              s.askWhole { j with rows := s.safeRows c j, safe := true }
            else
              let s := ((s.countCheck c 2).postMismatch j c).dropJob j
              { s with sch := { s.sch with again := s.sch.again ++ [⟨j.region, j.node, c, bay⟩] } })

/-- CAPTURE_TIMEOUT (R180). -/
def execCaptureTimeout (id : Nat) (bus : Bus) (s : State) : Host.Outcome State Fault Refusal :=
  .next (match s.glu.captures.find? fun k => k.cmd == id && k.frames == 0 with
    | none => s
    | some k =>
      let s := { s with glu := { s.glu with captures := s.glu.captures.filter fun x => x.cmd != id } }
      k.open_.foldl (fun s' r => s'.itemDone id (r - k.first) ⟨stLimit, 1, 0⟩) s)

/-! ## Square-check commands (R178 to R180) -/

/-- Whether two rectangles of the region grid have a region in common; an empty one has none. -/
def CheckDef.overlaps (a b : CheckDef) : Bool :=
  decide (0 < a.gw * a.gh) && decide (0 < b.gw * b.gh) && decide (a.gx0 < b.gx0 + b.gw) && decide (b.gx0 < a.gx0 + a.gw) && decide (a.gy0 < b.gy0 + b.gh) && decide (b.gy0 < a.gy0 + a.gh)

/-- Whether client `f` may command check region `c` (R163, R178). -/
def State.mayUseCheck (s : State) (f c : Nat) : Bool :=
  f == 0 || s.fld (R.GLU_SQC_CTL_owned c) == 0 || s.fld (R.GLU_SQC_CTL_owner c) == f

/-- Writes a shadow definition. -/
def State.setCheckShadow (s : State) (c : Nat) (d : CheckDef) : State :=
  { s with glu := { s.glu with
      shadow := Store.set (fun _ => {}) s.glu.shadow c d
      dirty := if s.glu.dirty.contains c then s.glu.dirty else s.glu.dirty ++ [c] } }

/-- Clears valid in both signature copies of a member region (R165, R169). -/
def State.clearValid (s : State) (r : Nat) : State :=
  [0, 1].foldl (fun s' k =>
    let a := s'.sigAddr k r
    s'.memWrite a (leBytes 8 (leNat ((List.range 4).map fun j => s'.maByte (a + j))))) s

/-- CHECK_REGION_DEFINE (R164, R169, R178). -/
def execCheckRegionDefine (id : Nat) (bus : Bus) (s : State) : Host.Outcome State Fault Refusal :=
  .next (s.runOp id .checkRegionDefine fun c s =>
    let k := c.p 8 1
    let d : CheckDef := ⟨true, c.pb 10 0 4, c.p 12 2, c.p 14 2, c.p 16 2, c.p 18 2, c.p 20 6⟩
    if s.mayUseCheck c.client k = false then s.refuse c stNotPermitted 0
    else if c.flag 9 0 = false then
      (s.setCheckShadow k { s.checkShadow k with enable := false }).finishOne c
    else if (List.range 256).any fun x => x != k &&
        ((s.checkShadow x).enable && (s.checkShadow x).overlaps d || (s.checkAct x).enable && (s.checkAct x).overlaps d) then
      s.refuse c stBadParam 1
    else if d.gw = 0 ∨ d.gh = 0 ∨ (s.gridOn = true ∧ (s.gx < d.gx0 + d.gw ∨ s.gy < d.gy0 + d.gh)) then s.refuse c stBadParam 2
    else if s.fld R.GLU_SQC_TABLE_BASE_base = 0 then s.refuse c stBadParam 3
    else if s.gridOn = false then s.refuse c stBadParam 4
    else if (s.checkShadow k).enable || (s.checkAct k).enable then s.refuse c stBadParam 5
    else if (s.members d).any fun r => decide (1048576 < s.regionBytes r) then s.refuse c stLimit 1
    else
      let s := (s.members d).foldl State.clearValid s
      let s := (List.range 9).foldl (fun s' j => s'.setFld (R.GLU_SQC_CNT_count k j) 0) s
      let s := if s.fld (R.GLU_SQC_CTL_owned k) = 1 then s else
        (s.setFld (R.GLU_SQC_CTL_owner k) c.client).setFld (R.GLU_SQC_CTL_owned k) 1
      (s.setCheckShadow k d).finishOne c)

/-- SQC_SIGNATURE_LOAD (R168, R179). -/
def execSqcSignatureLoad (id : Nat) (bus : Bus) (s : State) : Host.Outcome State Fault Refusal :=
  .next (s.runOpAgain id .sqcSignatureLoad fun c s =>
    let k := c.p 16 1
    let first := c.p 20 4
    let count := c.p 24 4
    let d := s.checkShadow k
    if s.mayUseCheck c.client k = false then s.refuse c stNotPermitted 0
    else if d.enable = false then s.refuse c stBadParam 1
    else if count = 0 then s.refuse c stBadParam 24
    else if d.gw * d.gh < first + count then s.refuse c stBadParam 2
    else if s.isCopying 2 k || s.clampDue d.group then s.waitCopy c 2 d.group
    else
      let s := s.stopWaiting id
      let (s, recs) := s.readRecords bus c (c.flag 17 0) (c.p 8 8) 8 count
      let ms := ((s.members d).drop first).take recs.length
      let stage := 1 - s.fld (R.GLU_SQC_CTL_copy k)
      let s := (ms.zip recs).foldl (fun s' e => s'.memWrite (s'.sigAddr stage e.1) (leBytes 8 (bitsOf (leNat e.2) 0 33))) s
      let s := { s with glu := { s.glu with loaded := Store.modify (fun _ => []) s.glu.loaded k fun l => (l ++ ms).eraseDups } }
      s.finishAs c (doneThenFault recs.length (count - recs.length)))

/-- SQC_CAPTURE (R180). -/
def execSqcCapture (id : Nat) (bus : Bus) (s : State) : Host.Outcome State Fault Refusal :=
  .next (s.runOp id .sqcCapture fun c s =>
    let first := c.p 16 2
    let count := c.p 18 2
    let frames := c.p 22 2
    if count = 0 ∨ 4096 < count then s.refuse c stBadParam 18
    else if frames = 0 then s.refuse c stBadParam 22
    else if s.gridOn = false ∨ s.regionCount < first + count then s.refuse c stBadParam (if s.regionCount ≤ first then 16 else 18)
    else if 16 ≤ s.glu.captures.length ∨ s.deferFull c = true then s.refuse c stBusyRetry 0
    else
      let rs := (List.range count).map fun i => first + i
      let s := s.defer c count
      let s := { s with glu := { s.glu with captures := s.glu.captures ++ [⟨id, first, rs, frames, c.p 8 8⟩] } }
      if c.flag 20 0 then s.markAll rs else s)

/-! ## RAY_PROBE (R153) -/

/-- One entry of a probe record: 32 bytes. -/
def Hit.bytes (h : Hit) : List Byte :=
  leBytes 1 h.layer ++ leBytes 1 (bit h.inside + 2 * bit h.keyed) ++ leBytes 2 h.gStar ++ leBytes 4 (toField 32 h.z) ++
  leBytes 4 (toField 32 h.xq) ++ leBytes 4 (toField 32 h.yq) ++ leBytes 2 (toField 16 h.sample.r) ++ leBytes 2 (toField 16 h.sample.g) ++
  leBytes 2 (toField 16 h.sample.b) ++ leBytes 2 (toField 16 h.sample.a) ++ leBytes 8 0

/-- Hogel column, hogel row and view of the ray with index `i` among all rays in panel address order (R18). -/
def State.rayAt (s : State) (i : Nat) : Nat × Nat × Nat := (i / s.views % s.hx, i / s.views / s.hx, i % s.views)

/-- The probe record of ray `i`, whose correction is `d`, from the active state that `u` holds (R18, R153); texels are read on demand,
as module DRAM stands. -/
def State.probeRecord (s : State) (u : Under) (i : Nat) (d : Int × Int) : List Byte :=
  let s : State := { s with regs := u.regs, active := u.active }
  let (x, y, w) := s.rayAt i
  let r := y / s.ky * s.gx + x / s.kx
  let ls := s.layerList r
  let hs := s.hits u.pics s.dram ls (s.rayRef d x y w)
  leBytes 8 (i / s.views * 256 + w) ++ leBytes 4 r ++ leBytes 1 ((ls.map Layer.slots).sum) ++ leBytes 1 ls.length ++ leBytes 18 0 ++
  hs.flatMap Hit.bytes ++ List.replicate (32 * (16 - hs.length)) 0

/-- The active state in force, with the corrections of rays `first` to `first + count - 1` (R130, R153). -/
def State.underRays (s : State) (first count : Nat) : Under :=
  { regs := s.regs, active := s.active, pics := s.picturesNow
    vcf := (List.range count).map fun i => s.correction (s.rayAt (first + i)).1 (s.rayAt (first + i)).2.1 }

/-- The record of a probe. -/
def State.setProbe (s : State) (p : Probe) : State :=
  { s with eng := { s.eng with probes := s.eng.probes.map fun x => if x.cmd == p.cmd then p else x } }

/-- The probe of command `id` is over. -/
def State.endProbe (s : State) (id : Nat) : State :=
  { s with eng := { s.eng with probes := s.eng.probes.filter fun x => x.cmd != id } }

/-- The bay of a probe, chosen as a bay for a region is: one whose fill side is free, else the one whose fill side it awaits. -/
def State.probeBay (s : State) : Option (Nat × Nat) := (s.chooseBay fun _ => true).or (s.placeBay s.bayIn)

/-- Probe `p` takes the fill side of its bay; its rays work from the active state of this instant. -/
def State.startProbe (s : State) (p : Probe) : State :=
  let s := (List.range p.count).foldl (fun s' i => s'.countCorrection (s.rayAt (p.first + i)).1 (s.rayAt (p.first + i)).2.1 1) s
  s.setProbe { p with under := some (s.underRays p.first p.count) }

/-- The rays of a started probe are computed and their records written; the reply follows (R153, R314). -/
def State.runProbe (s : State) (bus : Bus) (c : Cmd) (p : Probe) (u : Under) : State :=
  let st := if p.sistered then stDegraded else stDone
  let recs := (List.range p.count).map fun i => (s.probeRecord u (p.first + i) (u.vcf.getD i (0, 0)), (⟨st, 0, 0⟩ : Item))
  let (s, items) := (s.endProbe p.cmd).writeRecords bus c false (c.p 8 8) recs
  s.finishAs c items

/-- A dispatched probe goes on: to another bay where its bay has left service, or to its end with none; into the fill side once that is
free; through its rays once the bay synthesises no region. -/
def State.stepProbe (s : State) (bus : Bus) (c : Cmd) (p : Probe) : State :=
  if s.bayIn p.bay = false then
    match s.probeBay with
    | none => (s.endProbe p.cmd).finishAs c (List.replicate p.count ⟨stFault, 0, 0⟩)
    | some (q, i) => { s.setProbe { p with bay := q } with eng := { (s.setProbe { p with bay := q }).eng with lastBent := i } }
  else
    -- a probe before this one at the same bay goes first
    let first := (s.eng.probes.find? fun x => x.bay == p.bay).map Probe.cmd
    if first ≠ some p.cmd ∨ (s.fillOf p.bay).isSome = true then s
    else match p.under with
      | none => s.startProbe p
      | some u => if (s.synthOf p.bay).isSome then s else s.runProbe bus c p u

/-- RAY_PROBE (R153): dispatched to a bay, it goes on each time the row comes again, until its reply. -/
def execRayProbe (id : Nat) (bus : Bus) (s : State) : Host.Outcome State Fault Refusal :=
  .next (s.runOpAgain id .rayProbe fun c s =>
    match s.eng.probes.find? fun p => p.cmd == id with
    | some p => s.stepProbe bus c p
    | none =>
      let ray := c.pb 16 0 40
      let count := c.p 24 2
      let first := ray / 256 * s.views + ray % 256
      if s.geomValid = false ∨ s.hx * s.hy ≤ ray / 256 ∨ s.views ≤ ray % 256 then s.refuse c stBadParam 16
      else if count = 0 ∨ 4096 < count ∨ s.hx * s.hy * s.views < first + count then s.refuse c stBadParam 24
      else if s.gridOn = false then s.refuse c stBadParam 0
      else match s.probeBay with
      | none => s.refuse c stLimit 0
      | some (q, i) =>
        let p : Probe := ⟨id, q, first, count, none, false⟩
        let free := s.fillFree q
        let s := { s.hold c with eng := { (s.hold c).eng with probes := s.eng.probes ++ [p], lastBent := i } }
        if free then s.startProbe p else s)

end Sys2Proof.Machine
end

