-- ==== Sys2Proof/Machine/Burst.lean ====
section
/-! DEFINITION. Region bursts on the wire: credits, start, end, split, underrun and abort (R221, R228, R229, R251, R256, R258,
R259, R264 to R266). -/

namespace Sys2Proof.Machine

open Sys2Proof

/-- A credit stall is shown and counted once (R256). -/
def State.stall (s : State) (q : Nat) : State :=
  if s.fld (R.PNL_GROUP_STATUS_stalled q) = 1 then s
  else (s.bump (R.PNL_GROUP_CNT_count q 6)).setFld (R.PNL_GROUP_STATUS_stalled q) 1

/-! ## Headers and trailers -/

/-- The burst header (40 bytes). -/
def State.burstHeader (s : State) (j : Job) (first rows seq : Nat) : List Byte :=
  let (x, y, w, h) := s.regionRect j.region
  let flags := bit (first != 0) + 2 * bit (first + rows == j.rows.length) + 4 * bit j.checked + 8 * bit j.safe
  let d := leBytes 4 0xC35A7E91 ++ leBytes 1 flags ++ leBytes 1 (s.segOfRegion j.region) ++ leBytes 2 j.region ++
    leBytes 2 x ++ leBytes 2 y ++ leBytes 2 w ++ leBytes 2 h ++ leBytes 2 first ++ leBytes 2 rows ++ leBytes 4 j.rowBytes ++
    leBytes 4 seq ++ leBytes 4 j.frame ++ leBytes 4 0
  d ++ leBytes 4 (crc32c d)

/-- Row bytes with the trailer, padded with zeros so that header, rows and trailer fill whole 10-byte slots (R251). -/
def closePiece (rows : List Byte) (cut : Nat) (split underrun aborted : Bool) : List Byte :=
  let d := rows ++ leBytes 4 (crc32c rows) ++ leBytes 2 cut ++ leBytes 1 (bit split + 2 * bit underrun + 4 * bit aborted) ++ leBytes 1 0
  d ++ List.replicate ((10 - (40 + d.length) % 10) % 10) 0

/-- Sends a forward message on a group (R254). -/
def State.forward (s : State) (q type one : Nat) (payload : List Byte) : State := s.emit (.forward q (linkMessage type one payload))

/-- CUT (type 0x85). -/
def State.sendCut (s : State) (q seq row : Nat) : State := s.forward q 0x85 q (leBytes 4 seq ++ leBytes 2 row)

/-! ## Start (R221, R228, R256) -/

/-- The credits that a piece of `n` stream bytes takes (R256). -/
def creditsOf (n : Nat) : Nat := ceilDiv n 4096

/-- The last 512 pieces are kept, from their start on (R265); one that leaves before returned credits cover it is remembered (R270). -/
def PnlGroup.keep (g : PnlGroup) (p : Piece) : PnlGroup :=
  let all := g.pieces ++ [p]
  { g with pieces := all.drop (all.length - 512), old := (g.old ++ all.take (all.length - 512)).filter g.unconfirmed }

/-- The returned credits that cover the piece with sequence `seq` are now known (R270). -/
def PnlGroup.closed (g : PnlGroup) (seq : Nat) : PnlGroup :=
  { g with pieces := g.pieces.map fun p => if p.seq == seq && !p.lost then { p with need := g.u - g.xo } else p }

/-- Whether a piece of rows of `rowBytes` may start in the window of class `c` (R228 to R230): a usable window, with the guard left, in
which the first row ends before the gate closes. -/
def State.fitsGate (s : State) (q c rowBytes : Nat) : Bool :=
  match s.openFor q c with
  | none => true
  | some t => decide (10 * s.fld (R.SCH_GROUP_CFG_guard q) ≤ t) &&
      decide (pieceBytes rowBytes 1 * 8 * 1000000000 < t * laneRate (s.groupLanes q)) &&
      ((s.gates q).window c s.now).all (s.usableWindow q)

/-- The job that group `q` starts next: the oldest request whose gate allows it; a continuation comes before the new bursts of its class
(R221), and no new burst starts while a grid waits (R29). -/
def State.nextBurst (s : State) (q : Nat) : Option Job :=
  let g := s.pg q
  let conts := g.conts.filterMap s.job?
  (g.requests.filterMap s.job?).find? fun j =>
    s.fitsGate q (j.node % 16) j.rowBytes &&
    (g.conts.contains j.id || (s.dmg.pendGrid.isNone && !(conts.any fun k => k.node == j.node)))

/-- BURST_START: the chosen piece's header is sent; the stripes go out (R250). -/
def execBurstStart (b : BurstOn) (s : State) : Host.Outcome State Fault Refusal :=
  let q := b.q
  let g := s.pg q
  .next (if s.groupIn q = false ∨ g.wire.isSome = true ∨ s.fld (R.PNL_GROUP_STATUS_held q) = 1 then s
    else match s.nextBurst q with
    | none => s
    | some j =>
      if g.available < ceilDiv (40 + j.rowBytes) 4096 then s.stall q
      else
        let rows := j.pieceRows
        let seq := g.seq
        let w : Wire := { job := j.id, region := j.region, node := j.node, first := j.sent, rows := rows, rowBytes := j.rowBytes, seq := seq, cont := j.sent != 0 }
        let s := s.setPg q { g.keep { seq := seq, region := j.region, need := g.u + creditsOf (w.bytes rows) - g.xo } with
          wire := some w, seq := (seq + 1) % 2 ^ 32
          requests := g.requests.filter (fun i => i != j.id), conts := g.conts.filter fun i => i != j.id }
        let s := (s.takeCredits q 1).emit (.stream q (s.burstHeader j j.sent rows seq))
        let j := { j with started := true, asked := false }
        -- the next piece, ready already, is a continuation
        let s := if 1 < j.ends.length then s.ask j else s.setJob j
        let s := (s.setFld (R.PNL_GROUP_STATUS_bursting q) 1).setFld (R.PNL_GROUP_STATUS_stalled q) 0
        let s := s.count (R.PNL_GROUP_CNT_count q 0) 1
        let s := if j.sent = 0 then s.count (R.SCH_GROUP_CNT_count q 0) 1 else s.count (R.PNL_GROUP_CNT_count q 1) 1
        b.stripes.foldl (fun t st => t.sendStripe q st) s)

/-! ## End of a piece -/

/-- Whether the credits cover what is left of a piece of `rows` rows. -/
def State.coversPiece (s : State) (q : Nat) (w : Wire) (rows : Nat) : Bool :=
  decide (creditsOf (w.bytes rows) ≤ (s.pg q).available + w.credits)

/-- `n` blocks of the piece on the wire of group `q` are due: each takes its credit as it begins, and one that finds none stops the
stream (R256). -/
def State.beginBlocks (s : State) (q n : Nat) : State :=
  match (s.pg q).wire with
  | none => s
  | some w =>
    let due := min n (creditsOf (w.bytes w.rows)) - w.credits
    let take := min due (s.pg q).available
    let s := (s.setPg q { s.pg q with wire := some { w with credits := w.credits + take } }).takeCredits q take
    if take < due then s.stall q else s

/-- The wire of group `q` is free again. -/
def State.freeWire (s : State) (q : Nat) : State := (s.setPg q { s.pg q with wire := none }).setFld (R.PNL_GROUP_STATUS_bursting q) 0

/-- The piece on the wire of group `q` ends with `rows` rows and the bytes `d` after its header (R251, R265). -/
def State.endPiece (s : State) (q : Nat) (w : Wire) (rows : Nat) (d : List Byte) : State :=
  let s := (s.emit (.stream q d)).takeCredits q (creditsOf (w.bytes rows) - w.credits)
  ((s.setPg q ((s.pg q).closed w.seq)).countSent q (w.bytes rows)).freeWire q

/-- A piece's rows count as sent: they leave the node's selected bytes. -/
def State.rowsSent (s : State) (j : Job) (rows : Nat) : State :=
  let n := min j.left (rows * j.rowBytes)
  (s.unselect j.node n).setJob
    { j with sent := j.sent + rows, left := j.left - n, ends := j.ends.filter fun e => decide (j.sent + rows < e) }

/-- BURST_END: the last planned row and the trailer of the piece are sent (R208, R251). -/
def execBurstEnd (q : Nat) (s : State) : Host.Outcome State Fault Refusal :=
  .next (match (s.pg q).wire with
    | none => s
    | some w => match s.job? w.job with
      | none => s
      | some j =>
        if s.fld (R.PNL_GROUP_STATUS_held q) = 1 ∨ j.ready < (w.first + w.rows) * j.rowRays then s
        else if s.coversPiece q w w.rows = false then s.stall q
        else
          let d := closePiece ((j.rows.drop w.first).take w.rows).flatten 0xFFFF false false false
          let s := (s.endPiece q w w.rows d).rowsSent j w.rows
          if w.first + w.rows = j.rows.length then
            (match s.job? j.id with
            | some j' => s.dropJob j'
            | none => s).regionDone j.region
          else if j.cut && decide (j.ready < (w.first + w.rows + 1) * j.rowRays) then s.requeue j.region
          else s)

/-- GATE_CLOSE_SPLIT: the rows that end by the close are sent; the rest is a continuation (R229, R251). -/
def execGateCloseSplit (q rows : Nat) (s : State) : Host.Outcome State Fault Refusal :=
  .next (match (s.pg q).wire with
    | none => s
    | some w => match s.job? w.job with
      | none => s
      | some j =>
        if s.fld (R.PNL_GROUP_STATUS_held q) = 1 ∨ s.gateOpen q (w.node % 16) = true ∨ rows = 0 ∨ w.rows ≤ rows ∨ j.ready < (w.first + rows) * j.rowRays then s
        else if s.coversPiece q w rows = false then s.stall q
        else
          let cut := w.first + rows - 1
          let d := closePiece ((j.rows.drop w.first).take rows).flatten cut true false false
          let s := ((s.endPiece q w rows d).rowsSent j rows).sendCut q w.seq cut
          let s := match s.job? j.id with
            | some j' => s.ask j'
            | none => s
          s.count (R.SCH_GROUP_CNT_count q 1) 1)

/-! ## Underrun and abort (R264, R266) -/

/-- Ray row `row` with its words from ray `k` of the row on replaced by `word` of `w` bits (R264). -/
def fillRow (w : Nat) (row : List Byte) (rays k word : Nat) : List Byte :=
  let have_ := leNat row % 2 ^ (w * k)
  let fill := (List.replicate (rays - k) word).foldr (fun x acc => x + acc * 2 ^ w) 0
  leBytes row.length (have_ + fill * 2 ^ (w * k))

/-- The rows of a piece up to row `row`, that row completed with the background word from its first unwritten ray. -/
def State.cutRows (s : State) (j : Job) (w : Wire) (row written : Nat) : List Byte :=
  let bg := s.fld (R.GLU_BG_WORD_word (s.segOfRegion j.region))
  ((j.rows.drop w.first).take (row - w.first)).flatten ++
  fillRow (3 * s.depth) (j.rows.getD row []) j.rowRays (min written j.rowRays) bg

/-- UNDERRUN: the row is filled, the piece ends, the region goes back to its queue (R264). -/
def execUnderrun (q row : Nat) (s : State) : Host.Outcome State Fault Refusal :=
  .next (match (s.pg q).wire with
    | none => s
    | some w => match s.job? w.job with
      | none => s
      | some j =>
        if s.fld (R.PNL_GROUP_STATUS_held q) = 1 ∨ row < w.first ∨ w.first + w.rows ≤ row ∨ (row + 1) * j.rowRays ≤ j.ready ∨
            j.ready < row * j.rowRays then s
        else if s.coversPiece q w (row + 1 - w.first) = false then s.stall q
        else
          let rows := row + 1 - w.first
          let d := closePiece (s.cutRows j w row (j.ready - row * j.rowRays)) row false true false
          let s := ((s.endPiece q w rows d).sendCut q w.seq row).requeue j.region
          let s := s.count (R.PNL_GROUP_CNT_count q 2) 1
          let g := s.pg q
          if s.mayPost (0x0601000000 + q) 1000000 then
            (s.setPg q { g with underrunsSince := 0 }).postLimited (0x0601000000 + q) 1000000 0x0601 q
              (j.region + (g.underrunsSince + 1) * 65536)
          else s.setPg q { g with underrunsSince := min (g.underrunsSince + 1) 65534 })

/-- The piece on the wire of a group that loses service is closed at its row `row`, of which `written` rays were sent, with
`aborted`, and its region goes back to its queue; nothing is sent where no forward lane works (R266). -/
def State.abortPiece (s : State) (q row written : Nat) (lanesWork : Bool) : State :=
  match (s.pg q).wire with
  | none => s
  | some w =>
    let s := s.count (R.PNL_GROUP_CNT_count q 9) 1
    let row := max w.first (min row (w.first + w.rows - 1))
    let s := match s.job? w.job with
      | some j =>
        if lanesWork then
          (s.endPiece q w (row + 1 - w.first) (closePiece (s.cutRows j w row written) row false false true)).sendCut q w.seq row
        else s.countSent q (40 + (row - w.first) * w.rowBytes + written * (3 * s.depth) / 8)
      | none => s
    (s.freeWire q).requeue w.region

/-- The piece on the wire of group `q` stops with every forward lane lost or its supply off; how much of it was sent is not stated, a
free value (R233, R271; log entry 244). -/
def State.dropPiece (s : State) (q : Nat) : State :=
  match (s.pg q).wire with
  | none => s
  | some w =>
    (((s.count (R.PNL_GROUP_CNT_count q 9) 1).countWire q).freeWire q).requeue w.region

end Sys2Proof.Machine
end

