-- ==== Sys2Proof/Machine/Journal.lean ====
section
/-! DEFINITION. The story pole as other blocks use it: records in force and records to be written (R456, R457, R459). -/

namespace Sys2Proof.Machine

open Sys2Proof

/-- The valid records of a kind and key, newest first. -/
def State.recordsOf (s : State) (kind key : Nat) : List Record :=
  (s.spl.records.filter fun r => r.kind == kind && r.key == key).reverse

/-- The record in force: the valid one with the highest sequence (R457). -/
def State.inForce (s : State) (kind key : Nat) : Option Record := (s.recordsOf kind key).head?

/-- A record is to be written; a read-only journal refuses it and counts (R459). -/
def State.record (s : State) (n : NewRecord) : State :=
  if s.fld R.SPL_STATUS_read_only = 1 then s.bump (R.SPL_CNT_count 6)
  else { s with spl := { s.spl with queue := s.spl.queue ++ [n] } }

end Sys2Proof.Machine
end

