-- ==== Sys2Proof/Machine/Bays.lean ====
section
/-! DEFINITION. Bays, bents and sistering: faults, self-tests, drains and retirement (chapter 13, R146, R416, R423, R424). -/

namespace Sys2Proof.Machine

open Sys2Proof

/-! ## Domains and clocks (R416 to R418, R423, R424) -/

/-- The zones that govern bent `b` (R435). -/
def bentZones (b : Nat) : List Nat := [b, 8 + b / 4, 15]

/-- The throttle level of a part that the zones `zs` govern (R423). -/
def State.levelOf (s : State) (zs : List Nat) : Nat :=
  (zs.flatMap fun z => [s.fld (R.THM_ZONE_level z), s.fld (R.THM_ZONE_floor z)]).foldl max (s.fld R.PWC_STATUS_gov_level)

/-- The bent clock ceiling of a level, MHz; level 0 sets none. -/
def bentCeiling (level : Nat) : Option Nat :=
  [none, some 1100, some 1000, some 900, some 800, some 600, some 400, some 200].getD level none

/-- The clock that bent `b` may have: its plan's ceiling under its level's (R423). -/
def State.bentLimit (s : State) (b : Nat) : Nat :=
  let plan := 25 * s.fld (R.CAL_BENT_PLAN_ceiling b)
  ((bentCeiling (s.levelOf (bentZones b))).map (min plan)).getD plan

/-- Whether bent `b` has its power on. -/
def State.bentOn (s : State) (b : Nat) : Bool := s.fld (R.PWC_DOMAIN_depth (5 + b)) != 3

/-- Sets the clock of bent `b` in force. -/
def State.setBentClock (s : State) (b mhz : Nat) : State :=
  ((s.setFld (R.PWC_CLK_mhz (6 + b)) mhz).setFld (R.PWC_CLK_running (6 + b)) (bit (mhz != 0))).setFld
    (R.PWC_CLK_level (6 + b)) (s.levelOf (bentZones b))

/-- The NoC clock of a level, MHz. -/
def nocMhz (level : Nat) : Nat := [2000, 2000, 2000, 1750, 1500, 1500, 1000, 1000].getD level 1000

/-- NoC plane `d`, 0 or 1, works, or sleeps at a depth. -/
def State.setNoc (s : State) (d depth : Nat) : State :=
  let level := s.levelOf [8 + d, 15]
  let s := s.setDomain (13 + d) depth
  ((s.setFld (R.PWC_CLK_mhz (4 + d)) (if depth = 3 then 0 else nocMhz level)).setFld (R.PWC_CLK_running (4 + d)) (bit (depth == 0))).setFld
    (R.PWC_CLK_level (4 + d)) level

/-- The limit of bent `b` may have changed: what its level takes off applies at once; a rise, and whatever its plan changes, waits for
R146 (R424). -/
def State.retimeBent (s : State) (b : Nat) : State :=
  if s.bentOn b then
    let now := s.fld (R.PWC_CLK_mhz (6 + b))
    let lim := s.bentLimit b
    let ask := fun (s : State) (v : Option Nat) => { s with eng := { s.eng with clockAsked := Store.set (fun _ => none) s.eng.clockAsked b v } }
    if now = 0 then (ask s none).setBentClock b lim
    else
      let cut := ((bentCeiling (s.levelOf (bentZones b))).map (min now)).getD now
      (ask s (if lim = cut then none else some lim)).setBentClock b cut
  else s

/-- Whether region `j` is launched: its launch has been asked for (R151). -/
def Job.launched (j : Job) : Bool := j.asked || j.started

/-- BENT_CLOCK_CHANGE (R146): a change that waits applies once no launched region of the bent is unfinished. -/
def execBentClockChange (b : Nat) (s : State) : Host.Outcome State Fault Refusal :=
  .next (match Store.get (fun _ => none) s.eng.clockAsked b with
    | none => s
    | some mhz =>
      if s.sch.jobs.any fun j => j.bay / 8 == b && j.stage == .synth && j.launched then s
      else { s with eng := { s.eng with clockAsked := Store.set (fun _ => none) s.eng.clockAsked b none } }.setBentClock b mhz)

/-! ## Bays in service (R298, R299, R311) -/

/-- Fields of a bay's map. -/
def State.bayFailed (s : State) (q : Nat) : Nat := s.fld (R.ENG_BAY_MAP_failed (q / 8) (q % 8))
def State.baySistered (s : State) (q : Nat) : Bool := s.fld (R.ENG_BAY_MAP_sistered (q / 8) (q % 8)) == 1
def State.baySlot (s : State) (q : Nat) : Nat := s.fld (R.ENG_BAY_MAP_slot (q / 8) (q % 8))
def State.bayRetired (s : State) (q : Nat) : Bool := s.fld (R.ENG_BAY_MAP_retired (q / 8) (q % 8)) == 1

/-- The physical engine, 0 to 8 within the bay, that serves slot `e` (R298). -/
def State.servedBy (s : State) (q e : Nat) : Nat := if s.baySistered q && s.baySlot q == e then 8 else e

/-- Whether each of the 8 slots is served by a working engine. -/
def State.slotsServed (s : State) (q : Nat) : Bool := (List.range 8).all fun e => !(s.bayFailed q).testBit (s.servedBy q e)

/-- Whether the bay's spare is working and unused (R303). -/
def State.spareFree (s : State) (q : Nat) : Bool :=
  s.fld (R.ENG_BAY_MAP_spare_ok (q / 8) (q % 8)) == 1 && !s.baySistered q && !(s.bayFailed q).testBit 8

/-- Whether bay `q` belongs in service now (R299). -/
def State.bayFit (s : State) (q : Nat) : Bool :=
  s.fld (R.ENG_BENT_STATUS_state (q / 8)) == 1 && !s.bayRetired q && s.slotsServed q &&
  (Store.get (fun _ => none) s.eng.bays q).isNone && (Store.get (fun _ => none) s.eng.tests q).isNone

/-- The number of bays in service. -/
def State.bayCount (s : State) : Nat := ((List.range 64).filter fun q => s.fld (R.ENG_BAY_MAP_in_service (q / 8) (q % 8)) == 1).length

/-- Shows every bay, spare and the count of bays in service; none left in service posts ENG_NO_BAYS (R310). -/
def State.showBays (s : State) : State :=
  let before := s.bayCount
  let s := (List.range 64).foldl (fun s' q => s'.setFld (R.ENG_BAY_MAP_in_service (q / 8) (q % 8)) (bit (s'.bayFit q))) s
  let mask := fun (p : Nat → Bool) (b : Nat) => (List.range 8).foldl (fun a j => a + if p (8 * b + j) then 2 ^ j else 0) 0
  let s := (List.range 8).foldl (fun s' b =>
    (s'.setFld (R.ENG_BENT_STATUS_bays b) (mask s'.bayFit b)).setFld (R.ENG_BENT_STATUS_spares b) (mask s'.spareFree b)) s
  let s := s.setFld R.ENG_PLACE_CFG_bays s.bayCount
  if s.bayCount = 0 ∧ before ≠ 0 then s.post 0x0584 0 0 else s

/-- The failed-engine map of bay `q` goes to the story pole (R303, R309; log entry 30). -/
def State.recordBay (s : State) (q : Nat) : State :=
  s.record { kind := 6, key := q, body := leBytes 4 (s.reg (R.ENG_BAY_MAP (q / 8) (q % 8))).toNat }

/-- The state and cause of bent `b` go to the story pole (R307, R309; log entry 30). -/
def State.recordBent (s : State) (b : Nat) : State :=
  s.record { kind := 7, key := b, body := leBytes 1 (s.fld (R.ENG_BENT_STATUS_state b)) ++ leBytes 1 (s.fld (R.ENG_BENT_STATUS_cause b)) }

/-! ## What becomes of a bay's regions (R303, R304) -/

/-- The synthesis of job `j` is cut off with `ready` rays written: what is launched, on the wire or waiting for it, is sent and runs into
R264; anything else goes back to its queue (R303). -/
def State.cutSynth (s : State) (j : Job) (ready : Nat) : State :=
  if j.launched then
    let j' := { j with stage := .buffered, cut := true, demand := 0, ready := min ready j.rays }
    let s := (s.setJob j').count (R.ENG_CNT_count 4) 1
    let onWire := (List.range 16).any fun q => ((s.pg q).wire.map Wire.job) == some j.id
    if onWire || j.asked then s else s.requeue j.region
  else s.requeue j.region

/-- Every region that bay `q` fills goes back to its queue. -/
def State.dropFill (s : State) (q : Nat) : State :=
  match s.fillOf q with
  | some j => s.requeue j.region
  | none => s

/-- A bay's work ends as R304 states; `ready` is the number of rays written of the region in synthesis. -/
def State.dropWork (s : State) (q ready : Nat) : State :=
  (match s.synthOf q with
    | some j => s.cutSynth j ready
    | none => s).dropFill q

/-- Whether bay `q` has work (R306). -/
def State.bayBusy (s : State) (q : Nat) : Bool := (s.synthOf q).isSome || (s.fillOf q).isSome

/-! ## Bents (R306 to R309) -/

/-- Enters a bent state and posts it. -/
def State.setBent (s : State) (b st cause : Nat) : State :=
  ((s.setFld (R.ENG_BENT_STATUS_state b) st).setFld (R.ENG_BENT_STATUS_cause b) cause).post 0x0583 b (st + cause * 16)

/-- Ends items that wait. -/
def State.endItems (s : State) (ws : List (Nat × Nat)) (i : Item) : State := ws.foldl (fun t w => t.itemDone w.1 w.2 i) s

/-- Bent `b` goes out of service for a state: 0 ASLEEP, 3 TRUING, 4 RETIRED; its domain is off in 0 and 4. -/
def State.bentOut (s : State) (b st cause : Nat) : State :=
  let s := if st = 3 then s else (s.setDomain (5 + b) 3).setBentClock b 0
  let s := s.setBent b st cause
  let s := if st = 4 then (s.count (R.ENG_CNT_count 6) 1).recordBent b else s
  s.showBays

/-- Bent `b` leaves service by draining (R306): its fills go back to their queues at once. -/
def State.drainBent (s : State) (b target cause : Nat) (ws : List (Nat × Nat)) : State :=
  let s := s.setBent b 2 0
  let s := { s with eng := { s.eng with bents := Store.set (fun _ => none) s.eng.bents b (some ⟨target, cause, ws⟩) } }
  ((List.range 8).foldl (fun t j => t.dropFill (8 * b + j)) s).showBays

/-- Bent `b` is retired at once (R307): its regions end as R304 states. -/
def State.retireBent (s : State) (b cause : Nat) (ready : List (Nat × Nat)) : State :=
  if s.fld (R.ENG_BENT_STATUS_state b) = 4 then s
  else
    let s := (List.range 8).foldl (fun t j => t.dropWork (8 * b + j) ((ready.lookup (8 * b + j)).getD 0)) s
    let ws := ((Store.get (fun _ => none) s.eng.bents b).map Drain.waiters).getD []
    let back := (Store.get (fun _ => none) s.eng.waking b).getD []
    let s := { s with eng := { s.eng with
      bents := Store.set (fun _ => none) s.eng.bents b none
      waking := Store.set (fun _ => none) s.eng.waking b none
      tests := (List.range 8).foldl (fun m j => Store.set (fun _ => none) m (8 * b + j) none) s.eng.tests } }
    ((s.bentOut b 4 cause).endItems ws ⟨stDone, 0, 0⟩).endItems back ⟨stFault, 0, 0⟩

/-- BENT_RETIRE_IMMEDIATE (R307): an uncore fault (cause 3) takes all four bents of the die, a clock fault (cause 4) one. -/
def execBentRetireImmediate (b cause : Nat) (ready : List (Nat × Nat)) (s : State) : Host.Outcome State Fault Refusal :=
  .next (if cause = 3 then (List.range 4).foldl (fun t j => t.retireBent (b / 4 * 4 + j) 3 ready) s
    else if cause = 4 then s.retireBent b 4 ready
    else s)

/-- Bent `b` is on its way into service: its domain wakes, its clock starts, and its bays test themselves (R301, R305). -/
def State.wakeBent (s : State) (b : Nat) (ws : List (Nat × Nat)) : State :=
  match Store.get (fun _ => none) s.eng.waking b with
  | some old => { s with eng := { s.eng with waking := Store.set (fun _ => none) s.eng.waking b (some (old ++ ws)) } }
  | none =>
    let s := if s.fld (R.PWC_DOMAIN_depth (13 + b / 4)) = 3 then s.setNoc (b / 4) 0 else s
    let s := (s.setDomain (5 + b) 0).setBentClock b 0
    let s := s.setBentClock b (s.bentLimit b)
    let bays := (List.range 8).map fun j => 8 * b + j
    { s with eng := { s.eng with
      waking := Store.set (fun _ => none) s.eng.waking b (some ws)
      tests := bays.foldl (fun m q => Store.set (fun _ => none) m q (some ⟨0, []⟩)) s.eng.tests } }

/-- Bent `b` enters service once none of its bays tests any more (R313). -/
def State.bentIn (s : State) (b : Nat) : State :=
  match Store.get (fun _ => none) s.eng.waking b with
  | none => s
  | some ws =>
    if (List.range 8).any fun j => (Store.get (fun _ => none) s.eng.tests (8 * b + j)).isSome then s
    else
      let s := { s with eng := { s.eng with waking := Store.set (fun _ => none) s.eng.waking b none } }
      let fit := ((List.range 8).filter fun j => !s.bayRetired (8 * b + j) && s.slotsServed (8 * b + j)).length
      if fit = 0 then (s.bentOut b 4 5).endItems ws ⟨stFault, 0, 0⟩
      else
        let s := (s.setBent b 1 0).recordBent b
        s.showBays.endItems ws ⟨if fit = 8 then stDone else stDegraded, 0, 0⟩

/-! ## Engine faults (R302 to R304, R311) -/

/-- Bay `q` is retired (R304); the last bay of a bent takes the bent with it (R307, cause 5). -/
def State.retireBay (s : State) (q ready : Nat) : State :=
  let s := ((s.dropWork q ready).setFld (R.ENG_BAY_MAP_retired (q / 8) (q % 8)) 1).count (R.ENG_CNT_count 2) 1
  let s := (s.recordBay q).showBays
  let s := s.post 0x0582 q s.bayCount
  if (List.range 8).all fun j => s.bayRetired (8 * (q / 8) + j) then s.retireBent (q / 8) 5 [] else s

/-- Engine `k` of bay `q` is marked failed. -/
def State.markFailed (s : State) (q k : Nat) : State :=
  (s.setFld (R.ENG_BAY_MAP_failed (q / 8) (q % 8)) (s.bayFailed q ||| 2 ^ k)).count (R.ENG_CNT_count 0) 1

/-- The spare of bay `q` takes slot `e` (R303, R314): `check` names the check that failed. -/
def State.sister (s : State) (q e check : Nat) : State :=
  let region := ((s.synthOf q).map Job.region).getD 65535
  let s := { s with eng := { s.eng with probes := s.eng.probes.map fun (p : Probe) => if p.bay == q && p.under.isSome then { p with sistered := true } else p } }
  let s := (s.setFld (R.ENG_BAY_MAP_slot (q / 8) (q % 8)) e).setFld (R.ENG_BAY_MAP_sistered (q / 8) (q % 8)) 1
  ((s.count (R.ENG_CNT_count 1) 1).recordBay q).post 0x0581 q (9 * q + e + e * 1024 + check * 8192 + region * 65536)

/-- The region in synthesis of a bay that sistered: an unlaunched one starts again from its first ray under the state kept
from its start; a launched one runs into R264 (R303). -/
def State.afterSister (s : State) (q ready : Nat) : State :=
  match s.synthOf q with
  | none => s
  | some j =>
    if j.launched then s.cutSynth { j with sistered := true } ready
    else (s.setJob { j with ready := 0, sistered := true }).count (R.ENG_CNT_count 3) 1

/-- Slots `es` of bay `q` fault at once. -/
def State.faultSlots (s : State) (q : Nat) (es : List Nat) (check ready : Nat) : State :=
  match es with
  | [] => s
  | [e] =>
    let free := s.spareFree q && !s.baySistered q
    let s := s.markFailed q (s.servedBy q e)
    if free then ((s.sister q e check).afterSister q ready).showBays
    else (s.count (R.ENG_CNT_count 7) 1).retireBay q ready
  | _ =>
    let s := es.foldl (fun t e => t.markFailed q (t.servedBy q e)) s
    (s.count (R.ENG_CNT_count 7) es.length).retireBay q ready

/-- ENGINE_FAULT (R302 to R304): `ready` rays of the region in synthesis are in the ray buffer. -/
def execEngineFault (bay : Nat) (slots : List Nat) (check ready : Nat) (s : State) : Host.Outcome State Fault Refusal :=
  .next (if s.bayRetired bay ∨ 64 ≤ bay then s else s.faultSlots bay (slots.filter (· < 8)).eraseDups check ready)

/-- Whether bay `q` runs, with none of the stall causes of R145 that the state shows: a demand miss, a full ray buffer. -/
def State.runsFree (s : State) (q : Nat) : Bool :=
  match s.synthOf q with
  | some j =>
    let (_, _, w, _) := s.regionRect j.region
    j.demand == 0 && decide (s.rayBytes w j.ready - j.sent * j.rowBytes < 1048576)
  | none => s.eng.probes.any fun p => p.bay == q && p.under.isSome

/-- LOCKSTEP_WATCHDOG_EXPIRY (R302): the slot that holds the oldest ray unfinished is charged. -/
def execLockstepWatchdogExpiry (bay slot ready : Nat) (s : State) : Host.Outcome State Fault Refusal :=
  .next (if s.bayRetired bay ∨ 64 ≤ bay ∨ 8 ≤ slot ∨ s.runsFree bay = false then s else s.faultSlots bay [slot] 3 ready)

/-! ## Self-tests (R305, R311, R312) -/

/-- Outcome of the self-test of a bay as its bent wakes, or on request. -/
def State.testInPlace (s : State) (q : Nat) (fails : List Nat) : State :=
  let new := fails.filter fun k => decide (k < 9) && !(s.bayFailed q).testBit k
  let slots := (List.range 8).filter fun e => new.contains (s.servedBy q e)
  let idleSpare := new.contains 8 && !s.baySistered q
  let spare := bit (!fails.contains 8)
  let s := s.setFld (R.ENG_BAY_MAP_spare_ok (q / 8) (q % 8)) spare
  if slots = [] then
    if idleSpare then ((s.markFailed q 8).count (R.ENG_CNT_count 8) 1).recordBay q else s
  else if idleSpare ∨ slots.length ≠ 1 ∨ s.spareFree q = false then
    let s := (if idleSpare then s.markFailed q 8 else s)
    let s := slots.foldl (fun t e => t.markFailed q (t.servedBy q e)) s
    (s.count (R.ENG_CNT_count 7) (slots.length + bit idleSpare)).retireBay q 0
  else s.faultSlots q slots 4 0

/-- Outcome of the self-test of a bay that is to return (R312): the item status it gives. -/
def State.testReturn (s : State) (q : Nat) (fails : List Nat) : State × Nat :=
  let new := (fails.filter fun k => decide (k < 9) && !(s.bayFailed q).testBit k)
  let bad := (List.range 8).filter fun e => fails.contains e
  let spareOk := !fails.contains 8
  let s := s.setFld (R.ENG_BAY_MAP_failed (q / 8) (q % 8)) ((fails.filter (· < 9)).eraseDups.foldl (fun a k => a ||| 2 ^ k) 0)
  let s := (s.setFld (R.ENG_BAY_MAP_spare_ok (q / 8) (q % 8)) (bit spareOk)).count (R.ENG_CNT_count 0) new.length
  let set := fun (s : State) (sis slot ret : Nat) =>
    ((s.setFld (R.ENG_BAY_MAP_sistered (q / 8) (q % 8)) sis).setFld (R.ENG_BAY_MAP_slot (q / 8) (q % 8)) slot).setFld
      (R.ENG_BAY_MAP_retired (q / 8) (q % 8)) ret
  match bad with
  | [] =>
    let s := if new.contains 8 then s.count (R.ENG_CNT_count 8) 1 else s
    ((set s 0 0 0).recordBay q, stDone)
  | [e] =>
    if spareOk then
      let s := set s 1 e 0
      ((if new.contains e then s.sister q e 4 else s.recordBay q), stDegraded)
    else ((((set s 0 0 1).count (R.ENG_CNT_count 7) new.length).recordBay q), stFault)
  | _ => ((((set s 0 0 1).count (R.ENG_CNT_count 7) new.length).recordBay q), stFault)

/-- BAY_SELF_TEST (R305): the test of bay `bay` ends; `fails` are its engines 0 to 8 that failed. -/
def execBaySelfTest (bay : Nat) (fails : List Nat) (s : State) : Host.Outcome State Fault Refusal :=
  .next (match Store.get (fun _ => none) s.eng.tests bay with
    | none => s
    | some t =>
      let s := { s with eng := { s.eng with tests := Store.set (fun _ => none) s.eng.tests bay none } }
      let s := s.count (R.ENG_CNT_count 5) 1
      if t.kind = 1 then
        let (s, st) := s.testReturn bay fails
        s.showBays.endItems t.waiters ⟨st, 0, 0⟩
      else
        let s := if s.bayRetired bay then s else s.testInPlace bay fails
        (s.showBays.bentIn (bay / 8)).endItems t.waiters ⟨if s.bayRetired bay then stFault else if s.baySistered bay then stDegraded else stDone, 0, 0⟩)

/-- Whether work waits for a bay while every bay in service has both sides busy (R301). -/
def State.baysFull (s : State) : Bool :=
  ((s.dmg.regions.any fun e => e.2.state == 1) || !s.sch.again.isEmpty) &&
  (((List.range 64).filter s.bayIn).all fun q => !s.fillFree q && (s.synthOf q).isSome)

/-- BENT_WAKE (R301): the next sleeping bent in the order of R300 wakes; none whose zones are in CRIT or that the governor
has shed. -/
def execBentWake (s : State) : Host.Outcome State Fault Refusal :=
  let asleep := fun (b : Nat) => s.fld (R.ENG_BENT_STATUS_state b) == 0 && (Store.get (fun _ => none) s.eng.waking b).isNone &&
    !s.pwc.shed.contains b && (bentZones b).all fun z => s.fld (R.THM_ZONE_crit z) == 0
  .next (match (((List.range 8).map fun i => bentOrder.getD ((s.eng.lastBent + 1 + i) % 8) 0).find? asleep) with
    | some b => if s.fld R.PWC_STATUS_state = 0 ∧ s.baysFull = true then s.wakeBent b [] else s
    | none => s)

/-! ## Drains (R306, R312) -/

/-- Bay `q` begins its self-test. -/
def State.testBay (s : State) (q kind : Nat) (ws : List (Nat × Nat)) : State :=
  { s with eng := { s.eng with tests := Store.set (fun _ => none) s.eng.tests q (some ⟨kind, ws⟩) } }.showBays

/-- The drain of bay `q` ends. -/
def State.bayDrained (s : State) (q : Nat) (d : Drain) : State :=
  let s := { s with eng := { s.eng with bays := Store.set (fun _ => none) s.eng.bays q none } }
  if d.target = 4 then
    let s := ((s.setFld (R.ENG_BAY_MAP_retired (q / 8) (q % 8)) 1).count (R.ENG_CNT_count 2) 1).recordBay q
    let s := s.showBays
    let s := s.post 0x0582 q s.bayCount
    let s := if (List.range 8).all fun j => s.bayRetired (8 * (q / 8) + j) then s.retireBent (q / 8) 5 [] else s
    s.endItems d.waiters ⟨stDone, 0, 0⟩
  else s.testBay q (if d.target = 5 then 1 else 2) d.waiters

/-- DRAIN_COMPLETE (R306): the drain of bent `n`, or of bay `n`, ends when it is idle, or at 2 ms (`late`), when its regions end
as R304 states with `ready` rays written, by bay. -/
def execDrainComplete (bent : Bool) (n : Nat) (late : Bool) (ready : List (Nat × Nat)) (s : State) : Host.Outcome State Fault Refusal :=
  let bays := if bent then (List.range 8).map fun j => 8 * n + j else [n]
  .next (match Store.get (fun _ => none) (if bent then s.eng.bents else s.eng.bays) n with
    | none => s
    | some d =>
      if bays.any s.bayBusy && !late then s
      else
        let s := bays.foldl (fun t q => t.dropWork q ((ready.lookup q).getD 0)) s
        if bent then
          let s := { s with eng := { s.eng with bents := Store.set (fun _ => none) s.eng.bents n none } }
          let s := (s.bentOut n d.target d.cause).endItems d.waiters ⟨stDone, 0, 0⟩
          match Store.get (fun _ => none) s.eng.resume n with
          | some ws =>
            let s := { s with eng := { s.eng with resume := Store.set (fun _ => none) s.eng.resume n none } }
            if d.target = 3 then s.wakeBent n ws else s.endItems ws ⟨stFault, 0, 0⟩
          | none => s
        else s.bayDrained n d)

/-! ## Commands (R310, R312, R313) -/

/-- BAY_SERVICE on one bay: item `k` of command `id`. -/
def State.serviceBay (s : State) (id action q k : Nat) : State :=
  let start := fun (s : State) (target : Nat) =>
    let s := { s with eng := { s.eng with bays := Store.set (fun _ => none) s.eng.bays q (some ⟨target, 0, [(id, k)]⟩) } }
    (s.dropFill q).showBays
  if s.fld (R.ENG_BENT_STATUS_state (q / 8)) ≠ 1 ∨ (Store.get (fun _ => none) s.eng.bays q).isSome = true ∨
      (Store.get (fun _ => none) s.eng.tests q).isSome = true then
    s.itemDone id k ⟨stBusyRetry, 0, 0⟩
  else if action = 0 then
    if s.bayRetired q then s.itemDone id k ⟨stDone, 0, 0⟩ else start s 4
  else if action = 1 then
    if (s.synthOf q).isSome then start s 5 else (s.dropFill q).testBay q 1 [(id, k)]
  else if s.bayRetired q then s.itemDone id k ⟨stBusyRetry, 0, 0⟩
  else if (s.synthOf q).isSome then start s 6
  else (s.dropFill q).testBay q 2 [(id, k)]

/-- BAY_SERVICE (R310, R312). -/
def execBayService (id : Nat) (_bus : Bus) (s : State) : Host.Outcome State Fault Refusal :=
  .next (s.runOp id .bayService fun c s =>
    let m := c.p 8 8
    let action := c.pb 16 0 2
    let bays := setBits 64 m
    if action = 3 ∨ m = 0 then s.refuse c stBadParam 1
    else if action ≠ 1 ∧ ((List.range 64).all fun q => !s.bayIn q || m.testBit q) then s.refuse c stLimit 0
    else if s.deferFull c then s.refuse c stBusyRetry 0
    else
      let s := s.defer c bays.length
      (bays.zip (List.range bays.length)).foldl (fun t p => t.serviceBay id action p.1 p.2) s)

/-- BENT_SERVICE on one bent: item `k` of command `id`. -/
def State.serviceBent (s : State) (id b k : Nat) (ret : Bool) : State :=
  let st := s.fld (R.ENG_BENT_STATUS_state b)
  let item := fun (s : State) (v : Nat) => s.itemDone id k ⟨v, 0, 0⟩
  if st = 3 then item s stBusyRetry
  else if ret then
    if st = 2 then item s stBusyRetry
    else if st = 1 then item s (if popCount 8 (s.fld (R.ENG_BENT_STATUS_bays b)) = 8 then stDone else stDegraded)
    else s.wakeBent b [(id, k)]
  else if st = 4 then item s stDone
  else if st = 2 then
    let d := (Store.get (fun _ => none) s.eng.bents b).getD ⟨4, 1, []⟩
    { s with eng := { s.eng with bents := Store.set (fun _ => none) s.eng.bents b (some ⟨4, 1, d.waiters ++ [(id, k)]⟩) } }
  else if st = 1 then s.drainBent b 4 1 [(id, k)]
  else item (s.retireBent b 1 []) stDone

/-- BENT_SERVICE (R307, R310, R313). -/
def execBentService (id : Nat) (bus : Bus) (s : State) : Host.Outcome State Fault Refusal :=
  .next (s.runOp id .bentService fun c s =>
    let m := c.p 8 1
    let ret := c.flag 9 0
    let bents := setBits 8 m
    if ret = false ∧ m ≠ 0 ∧ ((List.range 64).all fun q => !s.bayIn q || m.testBit (q / 8)) then s.refuse c stLimit 0
    else if bents = [] then s.finishAs c []
    else if s.deferFull c then s.refuse c stBusyRetry 0
    else
      let s := s.defer c bents.length
      (bents.zip (List.range bents.length)).foldl (fun t p => t.serviceBent id p.1 p.2 ret) s)

end Sys2Proof.Machine
end

