-- ==== Sys2Proof/Machine/Cmd.lean ====
section
/-! DEFINITION. Command, completion and event rings: doorbells, fetch, dispatch, replies, events and the system commands
(chapter 3). -/

namespace Sys2Proof.Machine

open Sys2Proof

/-! ## Ring pairs -/

/-- The size of command ring `i` and of completion ring `i` (R61). -/
def State.sqSize (s : State) (i : Nat) : Nat := 2 ^ s.fld (R.CMD_SQ_CFG_log2size i)
def State.cqSize (s : State) (i : Nat) : Nat := 2 ^ s.fld (R.CMD_CQ_CFG_log2size i)
def State.evSize (s : State) (e : Nat) : Nat := 2 ^ s.fld (R.CMD_EVQ_CFG_log2size e)

/-- The slots a command in flight holds reserved (R63, R86). -/
def Cmd.reserved (c : Cmd) : Nat := (if c.defers then 2 else 1) - (if c.second then 1 else 0)

/-- The reserved slots of ring pair `i` (R86). -/
def State.reservedOf (s : State) (i : Nat) : Nat :=
  ((s.cmd.inflight.filter fun c => c.pair == i).map Cmd.reserved).sum

/-- The commands of ring `i` fetched and not finally replied. -/
def State.inflightOf (s : State) (i : Nat) : Nat := (s.cmd.inflight.filter fun c => c.pair == i).length

/-- The filled slots of completion ring `i`. -/
def State.filledOf (s : State) (i : Nat) : Nat :=
  (s.fld (R.CMD_CQ_STATE_tail i) + s.cqSize i - s.fld (R.CMD_CQ_HEAD_head i)) % s.cqSize i

/-- The last tail rung of command ring `i`. -/
def State.tailOf (s : State) (i : Nat) : Nat := Store.get (fun _ => 0) s.cmd.tails i

def State.setTail (s : State) (i v : Nat) : State :=
  { s with cmd := { s.cmd with tails := Store.set (fun _ => 0) s.cmd.tails i v } }

/-- A dropped access of client `f` is counted (R56, R60). -/
def State.drop (s : State) (f : Nat) : State := s.bump (R.HST_FN_DROPS_count f)

/-- Whether client `f` may reach `n` bytes of module DRAM now (R55, R58, R85). -/
def State.mayReach (s : State) (f ma n : Nat) : Bool :=
  f == 0 || (decide (s.fld (R.HST_FN_APERTURE_base f) * 0x1000000 ≤ ma) &&
    decide (ma + n ≤ (s.fld (R.HST_FN_APERTURE_base f) + s.fld (R.HST_FN_APERTURE_size f)) * 0x1000000))

/-- Reads for a ring of client `f` from host memory or module DRAM; none where the read fails, or
reaches outside its window and is dropped and counted (R55, R85). -/
def State.ringRead (s : State) (b : Bus) (f : Nat) (loc : Bool) (a n : Nat) : State × Option (List Byte) :=
  if loc then
    if s.mayReach f a n then
      match s.memRead a n with
      | (s, d, true) => (s, some d)
      | (s, _, false) => (s, none)
    else (s.drop f, none)
  else (s, busRead b a n)

/-- Writes to module DRAM for a ring of client `f`; a write outside its window is dropped and counted (R55, R85). -/
def State.ringStore (s : State) (f a : Nat) (d : List Byte) : State := if s.mayReach f a d.length then s.memWrite a d else s.drop f

/-- Writes for a ring of client `f`. -/
def State.ringWrite (s : State) (b : Bus) (f : Nat) (loc : Bool) (a : Nat) (d : List Byte) : State :=
  if loc then s.ringStore f a d else (s.hostWrite b f a d).1

/-- A refused doorbell: counted, and DOORBELL_REFUSED posted (R60). -/
def State.refuseDoorbell (s : State) (f off : Nat) : State := (s.drop f).post 0x0101 f off (some f)

/-- Whether a client's BAR0 view holds ring set `i` (R515). -/
def seesRing (client i : Nat) : Bool := decide (i < 256) && (client == 0 || i / 16 == client)

/-- CMD_SQ_ENABLE_WRITE (R64 to R66): a write of CMD_SQ_CFG[i]. -/
def State.sqCfgWrite (s : State) (i data : Nat) : State :=
  let was := s.fld (R.CMD_SQ_CFG_enable i)
  let halted := s.fld (R.CMD_SQ_CFG_halted i)
  let n := bitsOf data 8 4
  let s := if was = 0 ∧ 6 ≤ n ∧ n ≤ 12 then s.setFld (R.CMD_SQ_CFG_log2size i) n else s
  if data.testBit 0 then
    if halted = 1 then s.setFld (R.CMD_SQ_CFG_halted i) 0
    else if was = 0 then
      ((s.setFld (R.CMD_SQ_CFG_enable i) 1).setFld (R.CMD_SQ_HEAD_head i) 0).setTail i 0
    else s
  else (s.setFld (R.CMD_SQ_CFG_enable i) 0).setFld (R.CMD_SQ_CFG_halted i) 0

def execCmdSqEnableWrite (client i data : Nat) (s : State) : Host.Outcome State Fault Refusal :=
  .next (if seesRing client i then (s.bar0 client).sqCfgWrite i data else (s.bar0 client).drop client)

/-- CMD_CQ_ENABLE_WRITE (R64, R65, R67): a write of CMD_CQ_CFG[i]. -/
def State.cqCfgWrite (s : State) (i data : Nat) : State :=
  let was := s.fld (R.CMD_CQ_CFG_enable i)
  let n := bitsOf data 8 4
  let s := (s.setFld (R.CMD_CQ_CFG_vector i) (bitsOf data 16 6)).setFld (R.CMD_CQ_CFG_holdoff i) (bitsOf data 24 8)
  let s := if was = 0 ∧ 6 ≤ n ∧ n ≤ 12 then s.setFld (R.CMD_CQ_CFG_log2size i) n else s
  if data.testBit 0 then
    if was = 0 ∧ s.reservedOf i ≤ s.cqSize i - 1 then
      let s := ((s.setFld (R.CMD_CQ_CFG_enable i) 1).setFld (R.CMD_CQ_STATE_tail i) 0).setFld (R.CMD_CQ_HEAD_head i) 0
      let kept := s.cmd.replies.any fun r => 16 * r.client + r.ring == i
      { s with cmd := { s.cmd with catchUp := Store.set (fun _ => false) s.cmd.catchUp i kept } }
    else s
  else if s.fld (R.CMD_CQ_CFG_halted i) = 1 then
    ((s.setFld (R.CMD_CQ_CFG_enable i) 0).setFld (R.CMD_CQ_CFG_halted i) 0).setFld (R.CMD_CQ_CFG_closing i) 0
  else if was = 1 then s.setFld (R.CMD_CQ_CFG_closing i) 1
  else s

def execCmdCqEnableWrite (client i data : Nat) (s : State) : Host.Outcome State Fault Refusal :=
  .next (if seesRing client i then (s.bar0 client).cqCfgWrite i data else (s.bar0 client).drop client)

/-- COMPLETION_RING_CLOSED (R65): once the reserved slots of a closing ring reach 0, enable reads 0. -/
def execCompletionRingClosed (i : Nat) (s : State) : Host.Outcome State Fault Refusal :=
  .next (if s.fld (R.CMD_CQ_CFG_closing i) = 1 ∧ s.reservedOf i = 0 then
    (s.setFld (R.CMD_CQ_CFG_enable i) 0).setFld (R.CMD_CQ_CFG_closing i) 0 else s)

/-- Whether a client's BAR0 view holds event ring set `e` (R515). -/
def State.seesEventRing (s : State) (client e : Nat) : Bool :=
  decide (e < 16) && (client == 0 || s.fld (R.CMD_EVQ_CFG_owner e) == client)

/-- Whether client `f` may see an event (R81). -/
def State.maySee (s : State) (f : Nat) (e : Event) : Bool :=
  f == 0 ||
  ((s.reg (R.HST_FN_RIGHTS f)).toNat.testBit (e.code / 256) || e.code / 256 == 1) &&
  (match e.owner with
   | none => true
   | some o => o == f)

/-- Whether an event qualifies for event ring `q` (R81). -/
def State.eventReaches (s : State) (ev : Event) (q : Nat) : Bool :=
  s.fld (R.CMD_EVQ_CFG_enable q) == 1 && (s.reg (R.CMD_EVQ_MASK q)).toNat.testBit (ev.code / 256) &&
  s.maySee (s.fld (R.CMD_EVQ_CFG_owner q)) ev && ev.skip != some q && (ev.only.isNone || ev.only == some q)

/-- Announces each reset report that waits to the first enabled event ring that admits it (R493). -/
def State.postNotices (s : State) : State :=
  let ringOf := fun (e : Event) => (List.range 16).find? fun q => s.eventReaches e q
  let go := s.flt.notices.filterMap fun e => (ringOf e).map fun q => { e with only := some q }
  { s with
    flt := { s.flt with notices := s.flt.notices.filter fun e => (ringOf e).isNone }
    cmd := { s.cmd with events := s.cmd.events ++ go } }

/-- EVENT_RING_ENABLE_WRITE (R64, R82, R537): a write of CMD_EVQ_CFG[e]; only PF0 writes the owner. -/
def State.evCfgWrite (s : State) (client e data : Nat) : State :=
  let was := s.fld (R.CMD_EVQ_CFG_enable e)
  let n := bitsOf data 8 4
  let s := (s.setFld (R.CMD_EVQ_CFG_vector e) (bitsOf data 16 6)).setFld (R.CMD_EVQ_CFG_holdoff e) (bitsOf data 24 8)
  let s := if client = 0 then s.setFld (R.CMD_EVQ_CFG_owner e) (bitsOf data 12 4) else s
  let s := if was = 0 ∧ 6 ≤ n ∧ n ≤ 14 then s.setFld (R.CMD_EVQ_CFG_log2size e) n else s
  if data.testBit 0 then
    if s.fld (R.CMD_EVQ_CFG_halted e) = 1 then s.setFld (R.CMD_EVQ_CFG_halted e) 0
    else if was = 0 then
      let s := ((s.setFld (R.CMD_EVQ_CFG_enable e) 1).setFld (R.CMD_EVQ_STATE_tail e) 0).setFld (R.CMD_EVQ_STATE_lost e) 0
      { s with cmd := { s.cmd with
          evHeads := Store.set (fun _ => 0) s.cmd.evHeads e 0,
          lostSince := Store.set (fun _ => 0) s.cmd.lostSince e 0 } }
    else s
  else (s.setFld (R.CMD_EVQ_CFG_enable e) 0).setFld (R.CMD_EVQ_CFG_halted e) 0

def execEventRingEnableWrite (client e data : Nat) (s : State) : Host.Outcome State Fault Refusal :=
  .next (if s.seesEventRing client e then ((s.bar0 client).evCfgWrite client e data).postNotices else (s.bar0 client).drop client)

/-! ## Doorbells (R60) -/

/-- Whether another row takes a write at offset `off` of a doorbell page: the page's other doorbells, and what lies past the page. -/
def otherDoorbell (off : Nat) : Bool :=
  decide (4096 ≤ off) || off == 0x800 || off == 0x808 ||
    (decide (off % 8 = 0) && (off / 256 == 1 && decide (off < 0x180) || off / 256 == 2 && decide (off < 0x280) || off / 256 == 3 && decide (off < 0x340)))

/-- COMMAND_TAIL_DOORBELL: the latest tail is recorded, or the doorbell is refused. A write at an offset that the page's table does not
list is refused here. -/
def execCommandTailDoorbell (client page off value : Nat) (s : State) : Host.Outcome State Fault Refusal :=
  let i := 16 * client + off / 8
  let v := value % 2 ^ 32
  .next (if otherDoorbell off then s
    else if page = client ∧ off % 8 = 0 ∧ off < 0x80 ∧ s.fld (R.CMD_SQ_CFG_enable i) = 1 ∧ v < s.sqSize i then s.setTail i v
    else s.refuseDoorbell client off)

/-- COMPLETION_HEAD_DOORBELL: software returns completion slots. -/
def execCompletionHeadDoorbell (client page r value : Nat) (s : State) : Host.Outcome State Fault Refusal :=
  let i := 16 * client + r
  let v := value % 2 ^ 32
  .next (if page = client ∧ r < 16 ∧ s.fld (R.CMD_CQ_CFG_enable i) = 1 ∧ v < s.cqSize i then s.setFld (R.CMD_CQ_HEAD_head i) v
    else s.refuseDoorbell client (0x100 + 8 * r))

/-- EVENT_HEAD_DOORBELL: software returns event slots. -/
def execEventHeadDoorbell (client page e value : Nat) (s : State) : Host.Outcome State Fault Refusal :=
  let v := value % 2 ^ 32
  .next (if page = client ∧ e < 16 ∧ s.fld (R.CMD_EVQ_CFG_enable e) = 1 ∧ s.fld (R.CMD_EVQ_CFG_owner e) = client ∧ v < s.evSize e then
      { s with cmd := { s.cmd with evHeads := Store.set (fun _ => 0) s.cmd.evHeads e v } }
    else s.refuseDoorbell client (0x200 + 8 * e))

/-- FENCE_DOORBELL (R60, R192): the latest fence value is kept, whatever the layer's mode; refused where another client
owns the layer. -/
def execFenceDoorbell (client page k value : Nat) (s : State) : Host.Outcome State Fault Refusal :=
  .next (if page = client ∧ k < 8 ∧
      ¬ (s.fld (R.SCN_LAYER_STATUS_owned k) = 1 ∧ s.fld (R.SCN_LAYER_STATUS_owner k) ≠ client) then
      s.setFld (R.CLP_FENCE_VALUE_value k) (value % 2 ^ 32)
    else s.refuseDoorbell client (0x300 + 8 * k))

/-! ## Fetch (R62, R63, R66, R78) -/

/-- Whether the host interface is cut or sleeps: after a power failure or a SHUT, under the lockout, in HIBERNATE and DEEP
(R419, R425, R429, R438). -/
def State.hostCut (s : State) : Bool := s.pwc.failed || s.pwc.shut || s.pwc.locked || decide (2 ≤ s.fld R.PWC_STATUS_state)

/-- Whether fetch and dispatch rest: firmware restarts or boots, the host is cut, or the module is on its way to HIBERNATE or DEEP
(R441, R494). -/
def State.fwStopped (s : State) : Bool :=
  s.flt.fwRestarting || s.flt.boot != .up || s.hostCut || ((s.pwc.setting.map fun p => decide (2 ≤ p.2)).getD false)

/-- Whether command ring `i` has an entry to fetch and its completion ring takes replies (R63, R65 to R67). -/
def State.ringReady (s : State) (i : Nat) : Bool :=
  s.fld (R.CMD_SQ_CFG_enable i) == 1 && s.fld (R.CMD_SQ_CFG_halted i) == 0 &&
  s.fld (R.CMD_SQ_HEAD_head i) != s.tailOf i &&
  s.fld (R.CMD_CQ_CFG_enable i) == 1 && s.fld (R.CMD_CQ_CFG_closing i) == 0 && s.fld (R.CMD_CQ_CFG_halted i) == 0 &&
  !(Store.get (fun _ => false) s.cmd.catchUp i)

/-- The address of entry `n` of a ring whose base register holds `base`: location and address (R59). -/
def ringAddr (base : RegWord) (size n : Nat) : Bool × Nat := (base.toNat.testBit 0, (base.toNat / 4096) * 4096 + size * n)

/-- The packet at the head of command ring `i`; none where the read fails (R66). -/
def State.headPacket (s : State) (b : Bus) (i : Nat) : Option (List Byte) :=
  let (loc, a) := ringAddr (s.reg (R.CMD_SQ_BASE i)) 64 (s.fld (R.CMD_SQ_HEAD_head i))
  if loc then
    if !s.mayReach (i / 16) a 64 || (List.range 64).any fun j => s.maBad (a + j) then none
    else some ((List.range 64).map fun j => s.maByte (a + j))
  else busRead b a 64

/-- The reply slots an opcode needs: two where it can reply DEFERRED (R63). -/
def replySlots (opcode : Nat) : Nat :=
  match findOp opcode with
  | some o => if o.deferrable then 2 else 1
  | none => 1

/-- Whether the entry at the head of ring `i` can be fetched now. -/
def State.fetchable (s : State) (b : Bus) (i : Nat) : Bool :=
  s.ringReady i &&
  (let need := match s.headPacket b i with
    | some p => replySlots (leAt p 0 2)
    | none => 1
   decide (s.filledOf i + s.reservedOf i + need ≤ s.cqSize i - 1))

/-- The next fetchable ring of client `f`, in plain round robin after the ring it served last (R78). -/
def State.nextRing (s : State) (b : Bus) (f : Nat) : Option Nat :=
  let last := Store.get (fun _ => 15) s.cmd.lastRing f
  ((List.range 16).map fun k => 16 * f + (last + 1 + k) % 16).find? fun i => s.fetchable b i

/-- The ring that the arbitration serves next (R78): the administrative ring first, then weighted round robin among
clients; a client keeps its turn while it has commands of its weight left. -/
def State.pickRing (s : State) (b : Bus) : Option Nat :=
  if s.fetchable b 0 then some 0
  else
    let t := s.cmd.turnClient
    let order := (if s.cmd.turnLeft = 0 then [] else [t]) ++ (List.range 16).map fun k => (t + 1 + k) % 16
    order.findSome? fun f => s.nextRing b f

/-- The turn after a fetch from ring `i`; the administrative ring takes no turn. -/
def State.takeTurn (s : State) (i : Nat) : State :=
  if i = 0 then s else
  let f := i / 16
  let c := s.cmd
  let left := if f = c.turnClient ∧ c.turnLeft ≠ 0 then c.turnLeft - 1 else s.fld (R.HST_FN_CFG_weight f)
  { s with cmd := { c with turnClient := f, turnLeft := left, lastRing := Store.set (fun _ => 15) c.lastRing f (i % 16) } }

/-- Fetches the packet at the head of ring `i`. -/
def State.fetchRing (s : State) (b : Bus) (i : Nat) : State :=
  let head := s.fld (R.CMD_SQ_HEAD_head i)
  let (loc, a) := ringAddr (s.reg (R.CMD_SQ_BASE i)) 64 head
  match s.ringRead b (i / 16) loc a 64 with
  | (s, none) => (s.setFld (R.CMD_SQ_CFG_halted i) 1).post 0x0102 (i / 16) (i + head * 256) (some (i / 16))
  | (s, some p) =>
    let s := (s.setFld (R.CMD_SQ_HEAD_head i) ((head + 1) % s.sqSize i)).takeTurn i
    let f := i / 16
    let c : Cmd :=
      { id := s.cmd.nextId
        client := f
        ring := i % 16
        packet := p
        ranges := (s.reg (R.HST_FN_RIGHTS f)).toNat % 65536
        base := s.fld (R.HST_FN_APERTURE_base f)
        size := s.fld (R.HST_FN_APERTURE_size f)
        defers := replySlots (leAt p 0 2) == 2 }
    let k := s.cmd
    { s with cmd := { k with
        inflight := k.inflight ++ [c]
        nextId := k.nextId + 1
        fetched := Store.modify (fun _ => 0) k.fetched i (fun n => n + 1) } }

/-- COMMAND_FETCH: one entry is fetched, unless no ring can be served, the tracker of 4,096 commands is full (R491) or
firmware is restarting (R494). -/
def execCommandFetch (bus : Bus) (s : State) : Host.Outcome State Fault Refusal :=
  .next (if s.fwStopped || decide (4096 ≤ s.cmd.inflight.length) then s else
    match s.pickRing bus with
    | none => s
    | some i => s.fetchRing bus i)

/-! ## Dispatch (R69, R70, R79, R535) -/

/-- The lowest packet byte below 8 + `n` that holds a nonzero reserved bit of the parameters (R69). -/
def reservedByte (o : OpSpec) (params : List Byte) (n : Nat) : Option Nat :=
  (List.range n).findSome? fun j =>
    let b := (byteAt params j).toNat
    if (List.range 8).any fun k => b.testBit k && !(o.covers (8 * (8 + j) + k)) then some (8 + j) else none

/-- What the tests 1 to 3 of R535 say of a packet: refuse with a status and a detail, fault, or start with its parameters. -/
inductive Verdict where
  | refuse (status detail : Nat)
  | fault
  | start (params : List Byte)
deriving DecidableEq, Repr

/-- The tests of R535, 1 to 3, in order. -/
def Cmd.verdict (c : Cmd) (b : Bus) : Verdict :=
  match findOp c.opcode with
  | none => .refuse stBadOpcode 0
  | some o =>
    if c.client ≠ 0 ∧ (o.pf0 = true ∨ (c.opcode ≠ 0x0100 ∧ c.ranges.testBit (c.opcode / 256) = false)) then
      .refuse stNotPermitted 0
    else
      let len := (byteAt c.packet 3).toNat
      if bitsOf (byteAt c.packet 2).toNat 4 4 ≠ 0 then .refuse stBadParam 2
      else if c.indirect then
        if len = 0 then .refuse stBadParam 3
        else
          let a := leAt c.packet 8 8
          if a % 64 ≠ 0 then .refuse stBadParam 8
          else match busRead b a (8 * len) with
            | none => .fault
            | some d => match reservedByte o d (8 * len) with
              | some k => .refuse stBadParam k
              | none => .start d
      else if 7 < len ∨ (c.itemList = true ∧ len = 7) then .refuse stBadParam 3
      else
        let d := slice c.packet 8 (8 * len)
        match reservedByte o d (8 * len) with
        | some k => .refuse stBadParam k
        | none => .start d

/-- COMMAND_DISPATCH: the oldest fetched command is tested and started, refused, or failed before any effect. -/
def execCommandDispatch (bus : Bus) (s : State) : Host.Outcome State Fault Refusal :=
  .next (if s.fwStopped then s else
    match s.cmd.inflight.find? fun c => c.phase == .queued with
    | none => s
    | some c => match c.verdict bus with
      | .refuse st d => s.refuse c st d
      | .fault => s.failOne c stFault
      | .start d => s.setCmd { c with phase := .started, params := d })

/-! ## Replies (R67, R68, R74) -/

/-- Raises a vector, or lets it wait for the end of the holdoff period of its source (R68, R82). -/
def State.signal (s : State) (key client vector holdoff : Nat) : State :=
  if Store.get (fun _ => 0) s.cmd.holdUntil key ≤ s.ptp.f then
    let s := s.emit (.msix client vector)
    { s with cmd := { s.cmd with
        holdUntil := Store.set (fun _ => 0) s.cmd.holdUntil key (if holdoff = 0 then 0 else s.ptp.f + 1000 * holdoff),
        signalWaits := Store.set (fun _ => false) s.cmd.signalWaits key false } }
  else { s with cmd := { s.cmd with signalWaits := Store.set (fun _ => false) s.cmd.signalWaits key true } }

/-- The client, vector and holdoff of a signal source. -/
def State.vectorOf (s : State) (key : Nat) : Nat × Nat × Nat :=
  if key < 256 then (key / 16, s.fld (R.CMD_CQ_CFG_vector key), s.fld (R.CMD_CQ_CFG_holdoff key))
  else if key < 272 then
    (s.fld (R.CMD_EVQ_CFG_owner (key - 256)), s.fld (R.CMD_EVQ_CFG_vector (key - 256)), s.fld (R.CMD_EVQ_CFG_holdoff (key - 256)))
  else if key < 1024 then (s.fld (R.ETH_RXQ_CFG_owner (key - 512)), s.fld (R.ETH_RXQ_CFG_vector (key - 512)), 0)
  else (s.fld (R.ETH_TXQ_CFG_owner (key - 1024)), s.fld (R.ETH_TXQ_CFG_vector (key - 1024)), 0)

/-- MSIX_HOLDOFF_EXPIRY: at the end of a period in which a signal waited, the vector is raised once. -/
def execMsixHoldoffExpiry (key : Nat) (s : State) : Host.Outcome State Fault Refusal :=
  .next (if Store.get (fun _ => false) s.cmd.signalWaits key = true then
      let v := s.vectorOf key
      s.signal key v.1 v.2.1 v.2.2
    else s)

/-- The 32 bytes of a status reply written at PTP time `t`. -/
def Reply.bytes (r : Reply) (t : Nat) : List Byte :=
  leBytes 2 r.opcode ++ leBytes 2 r.status ++ leBytes 4 r.tag ++ leBytes 4 r.total ++ leBytes 4 r.done ++
  leBytes 4 r.failed ++ leBytes 4 r.detail ++ leBytes 8 (r.at_.getD t)

/-- The completion ring halts on a failed write; `kind` is 1 for a reply and 2 for the tail (R67). -/
def State.haltCq (s : State) (i idx kind : Nat) : State :=
  (s.setFld (R.CMD_CQ_CFG_halted i) 1).post 0x0102 (i / 16) (i + idx * 256 + kind * 0x1000000) (some (i / 16))

/-- A command leaves flight, or its DEFERRED reply has taken its second slot. -/
def State.replyWritten (s : State) (r : Reply) (i : Nat) : State :=
  let c := s.cmd
  let s := { s with cmd := { c with
    replies := c.replies.eraseP fun x => x.id == r.id && x.final == r.final && 16 * x.client + x.ring == i
    inflight := if r.final then c.inflight.filter fun d => d.id != r.id
      else c.inflight.map fun d => if d.id == r.id then { d with second := true } else d
    finals := if r.final then Store.modify (fun _ => 0) c.finals i (fun n => n + 1) else c.finals } }
  if s.cmd.replies.any fun x => 16 * x.client + x.ring == i then s
  else { s with cmd := { s.cmd with catchUp := Store.set (fun _ => false) s.cmd.catchUp i false } }

/-- The item-status list of a final reply is written before it; a list write that fails makes the reply HARDWARE_FAULT with its counts
unchanged (R74). -/
def State.writeList (s : State) (r : Reply) (fails : Bool) : State × Reply :=
  match s.cmdOf r.id with
  | some c =>
    if r.final && c.itemList && !c.items.isEmpty then
      if fails then (s, { r with status := stFault })
      else (s.emit (.hostWrite c.client c.listAddr ((c.items.filterMap id).flatMap Item.bytes)), r)
    else (s, r)
  | none => (s, r)

/-- REPLY_WRITE: the oldest pending reply of ring pair `i` is written after its item-status list, then the tail, then the vector is
raised. -/
def execReplyWrite (i : Nat) (fails : ReplyFails) (wbFails : Bool) (s : State) : Host.Outcome State Fault Refusal :=
  .next (if s.fld (R.CMD_CQ_CFG_enable i) = 1 ∧ s.fld (R.CMD_CQ_CFG_halted i) = 0 then
    match s.cmd.replies.find? fun r => 16 * r.client + r.ring == i with
    | none => s
    | some r =>
      let idx := s.fld (R.CMD_CQ_STATE_tail i)
      let (loc, a) := ringAddr (s.reg (R.CMD_CQ_BASE i)) 32 idx
      if fails.entry && !loc then s.haltCq i idx 1
      else
        let (s, r) := s.writeList r fails.list
        let d := r.bytes s.now
        let s := if loc then s.ringStore r.client a d else s.emit (.hostWrite r.client a d)
        let tail := (idx + 1) % s.cqSize i
        let s := (s.replyWritten r i).setFld (R.CMD_CQ_STATE_tail i) tail
        let wb := (s.reg (R.CMD_CQ_WB i)).toNat
        if wbFails && wb != 0 then s.haltCq i idx 2
        else
          let s := if wb = 0 then s else s.emit (.hostWrite r.client wb (leBytes 4 tail))
          if r.signal then
            let v := s.vectorOf i
            s.signal i v.1 v.2.1 v.2.2
          else s
    else s)

/-! ## Events (R81, R82, R537) -/

/-- The 16 bytes of an event entry. -/
def Event.bytes (e : Event) : List Byte := leBytes 2 e.code ++ leBytes 2 e.source ++ leBytes 4 e.data ++ leBytes 8 e.time

/-- Whether event ring `q` has a free slot; a ring of 2^n entries holds 2^n - 1 (R61). -/
def State.evRoom (s : State) (q : Nat) : Bool :=
  (s.fld (R.CMD_EVQ_STATE_tail q) + 1) % s.evSize q != Store.get (fun _ => 0) s.cmd.evHeads q

/-- An event is lost on ring `q` (R82). -/
def State.loseEvent (s : State) (q : Nat) : State :=
  let s := s.bump (R.CMD_EVQ_STATE_lost q)
  { s with cmd := { s.cmd with lostSince := Store.modify (fun _ => 0) s.cmd.lostSince q (fun n => n + 1) } }

/-- The event ring halts on a failed write, the event counts as lost, and RING_FAULT reaches the other rings (R537). -/
def State.haltEvq (s : State) (q idx : Nat) : State :=
  let s := (s.setFld (R.CMD_EVQ_CFG_halted q) 1).loseEvent q
  let o := s.fld (R.CMD_EVQ_CFG_owner q)
  { s with cmd := { s.cmd with events := s.cmd.events ++ [⟨0x0102, o, q + idx * 256 + 3 * 0x1000000, s.now, some o, some q, none⟩] } }

/-- Writes one entry at the tail of ring `q` that has room, with the tail write-back; the flag says whether both succeeded. -/
def State.writeEntry (s : State) (q : Nat) (ev : Event) (entryFails wbFails : Bool) : State × Bool :=
  let idx := s.fld (R.CMD_EVQ_STATE_tail q)
  let o := s.fld (R.CMD_EVQ_CFG_owner q)
  let (loc, a) := ringAddr (s.reg (R.CMD_EVQ_BASE q)) 16 idx
  let wb := (s.reg (R.CMD_EVQ_WB q)).toNat
  if (entryFails && !loc) then (s.haltEvq q idx, false)
  else
    let s := if loc then s.ringStore o a ev.bytes else s.emit (.hostWrite o a ev.bytes)
    if wbFails && wb != 0 then (s.haltEvq q idx, false)
    else
      let tail := (idx + 1) % s.evSize q
      let s := s.setFld (R.CMD_EVQ_STATE_tail q) tail
      (if wb = 0 then s else s.emit (.hostWrite o wb (leBytes 4 tail)), true)

/-- Raises the vector of event ring `q`. -/
def State.signalEvq (s : State) (q : Nat) : State :=
  let v := s.vectorOf (256 + q)
  s.signal (256 + q) v.1 v.2.1 v.2.2

/-- Writes EVENTS_LOST to ring `q` where events were lost and a slot is free (R82). -/
def State.writeLost (s : State) (q : Nat) (entryFails wbFails : Bool) : State :=
  let n := Store.get (fun _ => 0) s.cmd.lostSince q
  if n = 0 ∨ s.evRoom q = false ∨ s.fld (R.CMD_EVQ_CFG_halted q) = 1 then s
  else
    let (s', ok) := s.writeEntry q ⟨0x0103, q, n % 2 ^ 32, s.now, none, none, none⟩ entryFails wbFails
    if ok then ({ s' with cmd := { s'.cmd with lostSince := Store.set (fun _ => 0) s'.cmd.lostSince q 0 } } : State).signalEvq q else s'

/-- Delivers an event to ring `q`: lost where the ring is halted or full, else EVENTS_LOST first and then the entry. -/
def State.deliver (s : State) (ev : Event) (entryFails wbFails : Bool) (q : Nat) : State :=
  if s.fld (R.CMD_EVQ_CFG_halted q) = 1 ∨ s.evRoom q = false then s.loseEvent q
  else
    let s := s.writeLost q entryFails wbFails
    if s.fld (R.CMD_EVQ_CFG_halted q) = 1 ∨ s.evRoom q = false then s.loseEvent q
    else
      let (s', ok) := s.writeEntry q ev entryFails wbFails
      if ok then s'.signalEvq q else s'

/-- EVENT_WRITE: the oldest posted event goes to every ring that qualifies, or is counted as unrouted; with no event
posted, EVENTS_LOST goes to the rings that lost events and have room again. -/
def execEventWrite (entryFails wbFails : List Nat) (s : State) : Host.Outcome State Fault Refusal :=
  .next (if s.hostCut then s else match s.cmd.events with
    | [] => (List.range 16).foldl (fun s' q =>
        if s'.fld (R.CMD_EVQ_CFG_enable q) = 1 then s'.writeLost q (entryFails.contains q) (wbFails.contains q) else s') s
    | ev :: rest =>
      let s := { s with cmd := { s.cmd with events := rest } }
      let qs := (List.range 16).filter fun q => s.eventReaches ev q
      if qs.isEmpty then s.bump R.HST_EVT_UNROUTED_count
      else qs.foldl (fun s' q => s'.deliver ev (entryFails.contains q) (wbFails.contains q) q) s)

/-! ## System commands -/

/-- NOP (R84): replies DONE. -/
def execNop (id : Nat) (bus : Bus) (s : State) : Host.Outcome State Fault Refusal :=
  .next (s.runOp id .nop fun c s => s.finishOne c)

/-- FUNCTION_SET (R83, R85). -/
def execFunctionSet (id : Nat) (bus : Bus) (s : State) : Host.Outcome State Fault Refusal :=
  .next (s.runOp id .functionSet fun c s =>
    let f := c.pb 8 0 4
    let base := c.pb 12 0 12
    let size := c.pb 14 0 13
    if f = 0 ∨ s.present f = false then s.refuse c stBadParam 1
    else if 4096 < base + size then s.refuse c stLimit 12
    else
      let s := (s.setFld (R.HST_FN_CFG_weight f) (c.pb 9 0 4)).setFld (R.HST_FN_RIGHTS_ranges f) (c.pb 10 1 14)
      ((s.setFld (R.HST_FN_APERTURE_base f) base).setFld (R.HST_FN_APERTURE_size f) size).finishOne c)

end Sys2Proof.Machine
end

