-- ==== Sys2Proof/Machine/Inflate.lean ====
section
/-! DEFINITION. DEFLATE streams: decoding with resume (R392 to R394, R399, R400) and the encodings that the spec fixes
(R395 to R398). -/

namespace Sys2Proof.Machine

open Sys2Proof

/-! ## Check values (R393, R396) -/

/-- The running check value of a wrapper before the first byte. -/
def checkStart (wrapper : Nat) : Nat := if wrapper = 1 then 1 else 0xFFFFFFFF

/-- One byte of a running check value: CRC-32C for raw, Adler-32 for zlib, CRC-32 for gzip. -/
def checkByte (wrapper x : Nat) (b : Byte) : Nat :=
  if wrapper = 0 then crcByte 0x82F63B78 x b
  else if wrapper = 2 then crcByte 0xEDB88320 x b
  else
    let a := (x % 65536 + b.toNat) % 65521
    ((x / 65536 + a) % 65521) * 65536 + a

/-- The check value as the stream carries it. -/
def checkEnd (wrapper x : Nat) : Nat := if wrapper = 1 then x else x ^^^ 0xFFFFFFFF

/-! ## Bits and codes -/

/-- The bits of bytes, least significant first. -/
def toBits (l : List Byte) : List Bool := l.flatMap fun b => (List.range 8).map fun i => b.toNat.testBit i

/-- A number from bits, least significant first. -/
def bitsNat : List Bool → Nat
  | [] => 0
  | b :: r => bit b + 2 * bitsNat r

/-- Takes `n` bits as a number, least significant first; none where too few are left. -/
def takeBits (n : Nat) (l : List Bool) : Option (Nat × List Bool) :=
  let h := l.take n
  if h.length < n then none else some (bitsNat h, l.drop n)

/-- The result of reading one code. -/
inductive Coded where
  | short
  | bad
  | sym (s : Nat) (rest : List Bool)
deriving DecidableEq, Repr

/-- Reads a symbol of the canonical code with lengths `lens` (RFC 1951, 3.2.2): `code` has `len` bits so far, and the codes
of that length begin at `first`. -/
def readCode (lens : List Nat) : Nat → Nat → Nat → Nat → List Bool → Coded
  | 0, _, _, _, _ => .bad
  | _ + 1, _, _, _, [] => .short
  | fuel + 1, len, code, first, b :: rest =>
    let c := 2 * code + bit b
    let at_ := ((List.range lens.length).filter fun i => lens.getD i 0 == len)
    if c < first + at_.length then .sym (at_.getD (c - first) 0) rest
    else readCode lens fuel (len + 1) c (2 * (first + at_.length)) rest

/-- Reads a symbol. -/
def readSym (lens : List Nat) (bits : List Bool) : Coded := readCode lens 15 1 0 0 bits

/-- What is left of the code space after all codes, in units of 2^-15; negative where the lengths are over-subscribed. -/
def codeRoom (lens : List Nat) : Int := 32768 - ((lens.filter (· ≠ 0)).map fun l => (2 ^ (15 - l) : Int)).sum

/-- Whether code lengths may stand: complete, or, where `one` is set, a single code of one bit or none at all. -/
def lensOk (lens : List Nat) (one : Bool) : Bool :=
  codeRoom lens == 0 || (one && decide ((lens.filter (· ≠ 0)).length ≤ 1) && lens.all (· ≤ 1))

/-- Extra bits and base of a length symbol 257 to 285 (RFC 1951, 3.2.5). -/
def lengthCode (s : Nat) : Nat × Nat :=
  if s = 285 then (0, 258)
  else if s < 265 then (0, s - 254)
  else let e := (s - 261) / 4; (e, (4 + (s - 261) % 4) * 2 ^ e + 3)

/-- Extra bits and base of a distance symbol 0 to 29. -/
def distCode (s : Nat) : Nat × Nat := if s < 4 then (0, s + 1) else let e := s / 2 - 1; (e, (2 + s % 2) * 2 ^ e + 1)

/-- The code lengths of static blocks: literals and lengths, then distances. -/
def staticLens : List Nat :=
  List.replicate 144 8 ++ List.replicate 112 9 ++ List.replicate 24 7 ++ List.replicate 8 8 ++ List.replicate 30 5

/-- The order of the code-length code lengths. -/
def clOrder : List Nat := [16, 17, 18, 0, 8, 7, 9, 6, 10, 5, 11, 4, 12, 3, 13, 2, 14, 1, 15]

/-! ## The inflate unit -/

/-- An inflate unit's place in its stream. `phase`: 0 wrapper header, 1 gzip extra length, 2 extra bytes, 3 name, 4 comment,
5 header CRC, 6 block header, 7 stored lengths, 8 stored bytes, 9 dynamic counts, 10 code-length code, 11 code lengths,
12 symbols, 13 a match being copied, 14 trailer, 15 ended. -/
structure Infl where
  wrapper : Nat
  phase : Nat := 0
  last : Bool := false
  /-- Bytes or code lengths still to come. -/
  left : Nat := 0
  /-- Distance of the match being copied. -/
  dist : Nat := 0
  /-- Counts of literal, distance and code-length codes. -/
  nlit : Nat := 288
  ndist : Nat := 30
  nlen : Nat := 0
  flags : Nat := 0
  hcrc : Nat := 0xFFFFFFFF
  check : Nat
  total : Nat := 0
  totalIn : Nat := 0
  /-- Code lengths: the code-length code's 19, then those read; in phase 12 literals then distances. -/
  lens : List Nat := []
deriving DecidableEq, Repr

/-- A unit at work: its state, the bits ahead, the last output (newest first) and the bytes written by this job. -/
structure Unit_ where
  st : Infl
  bits : List Bool
  win : List Byte
  n : Nat := 0
deriving DecidableEq, Repr

/-- How one step of a unit ends. -/
inductive Turn where
  /-- It goes on. -/
  | go (u : Unit_)
  /-- It lacks source bits. -/
  | need
  /-- A byte is pending and the output space is full, or the cap is reached. -/
  | full
  | capped
  /-- A format error with its reason (R399). -/
  | error (reason : Nat)
  /-- The stream's end, its check value good or not. -/
  | done (u : Unit_) (ok : Bool)
deriving DecidableEq, Repr

/-- Writes one output byte, with `f` done to the state where there is room. -/
def Unit_.put (u : Unit_) (space cap : Nat) (b : Byte) (rest : List Bool) (f : Infl → Infl) : Turn :=
  if space ≤ u.n then .full
  else if cap ≠ 0 ∧ cap ≤ u.st.total then .capped
  else .go { st := f { u.st with check := checkByte u.st.wrapper u.st.check b, total := u.st.total + 1 },
             bits := rest, win := b :: u.win, n := u.n + 1 }

/-- Takes whole bytes of a header, with its CRC. -/
def Unit_.header (u : Unit_) (n : Nat) (f : List Byte → Infl → Except Nat Infl) : Turn :=
  match takeBits (8 * n) u.bits with
  | none => .need
  | some (v, rest) =>
    let d := leBytes n v
    match f d { u.st with hcrc := d.foldl (crcByte 0xEDB88320) u.st.hcrc } with
    | .ok st => .go { u with st := st, bits := rest }
    | .error e => .error e

/-- The next part of a gzip header from part `k` on (R392). -/
def gzipNext (st : Infl) (k : Nat) : Infl :=
  if k ≤ 1 ∧ st.flags.testBit 2 then { st with phase := 1 }
  else if k ≤ 3 ∧ st.flags.testBit 3 then { st with phase := 3 }
  else if k ≤ 4 ∧ st.flags.testBit 4 then { st with phase := 4 }
  else if k ≤ 5 ∧ st.flags.testBit 1 then { st with phase := 5 }
  else { st with phase := 6 }

/-- The wrapper's first header bytes. -/
def Unit_.wrapperStart (u : Unit_) : Turn :=
  if u.st.wrapper = 0 then .go { u with st := { u.st with phase := 6 } }
  else if u.st.wrapper = 1 then
    u.header 2 fun d st =>
      let cmf := (byteAt d 0).toNat
      let flg := (byteAt d 1).toNat
      if cmf % 16 ≠ 8 ∨ 7 < cmf / 16 ∨ (cmf * 256 + flg) % 31 ≠ 0 then .error 6
      else if flg.testBit 5 then .error 7
      else .ok { st with phase := 6 }
  else
    u.header 10 fun d st =>
      let f := (byteAt d 3).toNat
      if (byteAt d 0).toNat ≠ 0x1F ∨ (byteAt d 1).toNat ≠ 0x8B ∨ (byteAt d 2).toNat ≠ 8 ∨ 32 ≤ f then .error 6
      else .ok (gzipNext { st with flags := f } 1)

/-- The state after a block. -/
def Infl.blockEnd (st : Infl) : Infl := { st with phase := if st.last then 14 else 6, lens := [] }

/-- The bits from the next byte boundary on. -/
def alignBits (bits : List Bool) : List Bool := bits.drop (bits.length % 8)

/-- The start of a block. -/
def Unit_.blockStart (u : Unit_) : Turn :=
  match takeBits 3 u.bits with
  | none => .need
  | some (v, rest) =>
    let st := { u.st with last := v % 2 == 1 }
    match v / 2 with
    | 0 => .go { u with st := { st with phase := 7 }, bits := rest }
    | 1 => .go { u with st := { st with phase := 12, nlit := 288, ndist := 30, lens := staticLens }, bits := rest }
    | 2 => .go { u with st := { st with phase := 9 }, bits := rest }
    | _ => .error 1

/-- One code length of a dynamic block, with its repeats. -/
def Unit_.codeLength (u : Unit_) : Turn :=
  let st := u.st
  let have_ := st.lens.length - 19
  if have_ = st.nlit + st.ndist then
    let l := st.lens.drop 19
    if lensOk (l.take st.nlit) false && l.getD 256 0 != 0 && lensOk (l.drop st.nlit) true then
      .go { u with st := { st with phase := 12, lens := l } }
    else .error 3
  else
    match readSym (st.lens.take 19) u.bits with
    | .short => .need
    | .bad => .error 3
    | .sym s rest =>
      if s < 16 then .go { u with st := { st with lens := st.lens ++ [s] }, bits := rest }
      else
        let (extra, base) := if s = 16 then (2, 3) else if s = 17 then (3, 3) else (7, 11)
        match takeBits extra rest with
        | none => .need
        | some (v, rest) =>
          let n := base + v
          if (s = 16 ∧ have_ = 0) ∨ st.nlit + st.ndist < have_ + n then .error 3
          else
            let x := if s = 16 then st.lens.getLast?.getD 0 else 0
            .go { u with st := { st with lens := st.lens ++ List.replicate n x }, bits := rest }

/-- One symbol of a block. -/
def Unit_.symbol (u : Unit_) (space cap : Nat) : Turn :=
  let st := u.st
  match readSym (st.lens.take st.nlit) u.bits with
  | .short => .need
  | .bad => .error 4
  | .sym s rest =>
    if s < 256 then u.put space cap (BitVec.ofNat 8 s) rest id
    else if s = 256 then .go { u with st := st.blockEnd, bits := rest }
    else if 285 < s then .error 4
    else
      let (e, base) := lengthCode s
      match takeBits e rest with
      | none => .need
      | some (x, rest) =>
        match readSym (st.lens.drop st.nlit) rest with
        | .short => .need
        | .bad => .error 4
        | .sym d rest =>
          if 29 < d then .error 4
          else
            let (e2, base2) := distCode d
            match takeBits e2 rest with
            | none => .need
            | some (y, rest) =>
              if st.total < base2 + y then .error 5
              else .go { u with st := { st with phase := 13, left := base + x, dist := base2 + y }, bits := rest }

/-- The trailer (R393). -/
def Unit_.trailer (u : Unit_) (check : Nat) : Turn :=
  let st := u.st
  let now := checkEnd st.wrapper st.check
  let fin := { st with phase := 15 }
  if st.wrapper = 0 then .done { u with st := fin, bits := u.bits } (now == check)
  else
    match takeBits (if st.wrapper = 1 then 32 else 64) (alignBits u.bits) with
    | none => .need
    | some (v, rest) =>
      let ok := if st.wrapper = 1 then beNat (leBytes 4 v) == now else v % 2 ^ 32 == now && v / 2 ^ 32 == st.total % 2 ^ 32
      .done { u with st := fin, bits := rest } ok

/-- One step of an inflate unit. -/
def Unit_.turn (u : Unit_) (space cap check : Nat) : Turn :=
  let st := u.st
  match st.phase with
  | 0 => u.wrapperStart
  | 1 => u.header 2 fun d st => .ok { st with phase := 2, left := leNat d }
  | 2 => if st.left = 0 then .go { u with st := gzipNext st 3 } else u.header 1 fun _ st => .ok { st with left := st.left - 1 }
  | 3 => u.header 1 fun d st => .ok (if d = [0] then gzipNext st 4 else st)
  | 4 => u.header 1 fun d st => .ok (if d = [0] then gzipNext st 5 else st)
  | 5 =>
    let want := (st.hcrc ^^^ 0xFFFFFFFF) % 65536
    u.header 2 fun d st => if leNat d = want then .ok { st with phase := 6 } else .error 6
  | 6 => u.blockStart
  | 7 =>
    match takeBits 32 (alignBits u.bits) with
    | none => .need
    | some (v, rest) =>
      if v % 65536 + v / 65536 = 65535 then .go { u with st := { st with phase := 8, left := v % 65536 }, bits := rest } else .error 2
  | 8 =>
    if st.left = 0 then .go { u with st := st.blockEnd }
    else match takeBits 8 u.bits with
      | none => .need
      | some (v, rest) => u.put space cap (BitVec.ofNat 8 v) rest fun st => { st with left := st.left - 1 }
  | 9 =>
    match takeBits 14 u.bits with
    | none => .need
    | some (v, rest) =>
      let nl := 257 + v % 32
      let nd := 1 + v / 32 % 32
      if 286 < nl ∨ 30 < nd then .error 3
      else .go { u with
        st := { st with phase := 10, nlit := nl, ndist := nd, nlen := 4 + v / 1024, left := 0, lens := List.replicate 19 0 }
        bits := rest }
  | 10 =>
    if st.left = st.nlen then
      if lensOk st.lens false then .go { u with st := { st with phase := 11 } } else .error 3
    else match takeBits 3 u.bits with
      | none => .need
      | some (v, rest) =>
        .go { u with st := { st with left := st.left + 1, lens := st.lens.set (clOrder.getD st.left 0) v }, bits := rest }
  | 11 => u.codeLength
  | 12 => u.symbol space cap
  | 13 =>
    if st.left = 0 then .go { u with st := { st with phase := 12 } }
    else u.put space cap (u.win.getD (st.dist - 1) 0) u.bits fun st => { st with left := st.left - 1 }
  | 14 => u.trailer check
  | _ => .done u true

/-- Runs a unit until it can go on no more: its last state and how its last step ended. -/
def Unit_.run (space cap check : Nat) : Nat → Unit_ → Unit_ × Turn
  | 0, u => (u, .need)
  | fuel + 1, u =>
    match u.turn space cap check with
    | .go u' => Unit_.run space cap check fuel u'
    | t => (u, t)

/-! ## Jobs -/

/-- What a job on a unit comes to (R399, R400). -/
structure JobEnd where
  status : Nat
  reason : Nat := 0
  consumed : Nat := 0
  out : List Byte := []
  check : Nat := 0
  totalIn : Nat := 0
  totalOut : Nat := 0
  trailing : Bool := false
  bitsHeld : Nat := 0
  /-- The unit state and the window to be saved. -/
  save : Option (List Byte × List Byte) := none
deriving DecidableEq, Repr

/-- The unit state as its 4,032 context bytes, with their CRC-32C last (R400; log entry 31). -/
def sealState (d : List Byte) : List Byte :=
  let body := slice d 0 4028
  body ++ leBytes 4 (crc32c body)

/-- Whether saved unit state is good, for an operation and a wrapper (R399). -/
def stateOk (d : List Byte) (op wrapper : Nat) : Bool :=
  leAt d 4028 4 == crc32c (slice d 0 4028) && leAt d 0 1 == op && leAt d 1 1 == wrapper

/-- The bytes of an inflate unit's state with the source bits that it holds. -/
def Infl.bytes (st : Infl) (held : List Bool) : List Byte :=
  leBytes 1 0 ++ leBytes 1 st.wrapper ++ leBytes 1 st.phase ++ leBytes 1 (bit st.last) ++ leBytes 4 st.left ++ leBytes 4 st.dist ++
  leBytes 2 st.nlit ++ leBytes 2 st.ndist ++ leBytes 2 st.nlen ++ leBytes 2 st.flags ++ leBytes 4 st.hcrc ++ leBytes 4 st.check ++
  leBytes 8 st.total ++ leBytes 8 st.totalIn ++ leBytes 2 held.length ++ leBytes 32 (bitsNat held) ++ leBytes 2 st.lens.length ++
  st.lens.flatMap (leBytes 1)

/-- Reads an inflate unit's state back. -/
def Infl.ofBytes (d : List Byte) : Infl × List Bool :=
  let n := leAt d 44 2
  let v := leAt d 46 32
  ({ wrapper := leAt d 1 1, phase := leAt d 2 1, last := leAt d 3 1 == 1, left := leAt d 4 4, dist := leAt d 8 4
     nlit := leAt d 12 2, ndist := leAt d 14 2, nlen := leAt d 16 2, flags := leAt d 18 2, hcrc := leAt d 20 4
     check := leAt d 24 4, total := leAt d 28 8, totalIn := leAt d 36 8
     lens := (slice d 80 (leAt d 78 2)).map BitVec.toNat },
   (List.range n).map fun i => v.testBit i)

/-- The window as a context holds it: the last 32 KiB, oldest first (log entry 31). -/
def windowBytes (win : List Byte) : List Byte := (win.take 32768).reverse

/-- Runs an inflate job (R392 to R394, R399). -/
def inflateJob (st : Infl) (held : List Bool) (win src : List Byte) (space cap check : Nat) (final : Bool) : JobEnd :=
  let bits := held ++ toBits src
  let (u, t) := Unit_.run space cap check (4 * bits.length + 2 * space + 1000) ⟨st, bits, win, 0⟩
  let mk := fun (u : Unit_) (all : Bool) (status reason : Nat) (save trailing : Bool) =>
    -- a byte taken in part is consumed, and its other bits are held
    let ahead := min u.bits.length (8 * src.length)
    let used := if all then src.length else src.length - ahead / 8
    let hold := if all then u.bits else u.bits.take (u.bits.length - ahead / 8 * 8)
    let st' := { u.st with totalIn := st.totalIn + used }
    ({ status := status, reason := reason, consumed := used, out := (u.win.take u.n).reverse
       check := checkEnd st'.wrapper st'.check, totalIn := st'.totalIn, totalOut := st'.total
       trailing := trailing && st'.wrapper == 2 && decide (used < src.length)
       bitsHeld := hold.length
       save := if save then some (sealState (st'.bytes hold), windowBytes u.win) else none } : JobEnd)
  match t with
  | .done u' ok => if ok then mk u' false 0 0 false true else mk u' false 4 0 false false
  | .need => if final then mk u true 6 0 false false else mk u true 1 0 true false
  | .full => mk u false 2 0 true false
  | .capped => mk u false 3 0 false false
  | .error r => mk u false 5 r false false
  | .go u' => mk u' true 1 0 true false

/-- A new inflate stream. -/
def Infl.fresh (wrapper : Nat) : Infl := { wrapper := wrapper, check := checkStart wrapper }

/-- A whole raw stream inflated under a cap: an internal job (R98, R335). -/
def inflateWhole (src : List Byte) (cap check : Nat) : JobEnd := inflateJob (Infl.fresh 0) [] [] src (cap + 1) cap check true

/-! ## Deflate (R395 to R398) -/

/-- Bytes from bits, the last one filled with zeros. -/
def packBits : Nat → List Bool → List Byte
  | 0, _ => []
  | n + 1, l => if l = [] then [] else BitVec.ofNat 8 (bitsNat (l.take 8)) :: packBits n (l.drop 8)

/-- A number of `n` bits, least significant first. -/
def natBits (n x : Nat) : List Bool := (List.range n).map fun i => x.testBit i

/-- A static literal code, most significant bit first (RFC 1951, 3.2.6). -/
def staticLiteral (b : Byte) : List Bool :=
  if b.toNat < 144 then (natBits 8 (0x30 + b.toNat)).reverse else (natBits 9 (0x190 + b.toNat - 144)).reverse

/-- A stored block that begins `at_` bits into the output. -/
def storedBlock (at_ : Nat) (last : Bool) (d : List Byte) : List Bool :=
  let head := [last, false, false]
  head ++ List.replicate ((8 - (at_ + 3) % 8) % 8) false ++ natBits 16 d.length ++ natBits 16 (65535 - d.length) ++ toBits d

/-- A static block of literals only. -/
def staticBlock (last : Bool) (d : List Byte) : List Bool :=
  [last, true, false] ++ d.flatMap staticLiteral ++ List.replicate 7 false

/-- The pieces of an input that end every 65,535 bytes. -/
def blockPieces : Nat → List Byte → List (List Byte)
  | 0, _ => []
  | n + 1, d => if d.length ≤ 65535 then [d] else d.take 65535 :: blockPieces n (d.drop 65535)

/-- The encoding of a whole input without matches and without dynamic tables: for each block the shorter of the stored and
the static form, stored on a tie; a flush adds an empty stored block, which then is the last (R395, R398). -/
def deflatePlain (d : List Byte) (flush : Bool) : List Byte :=
  let pieces := if d = [] ∧ flush = true then [] else blockPieces (d.length + 1) d
  let n := pieces.length
  let bits := (pieces.zip (List.range n)).foldl (fun acc p =>
    let last := !flush && p.2 + 1 == n
    let a := storedBlock acc.length last p.1
    let b := staticBlock last p.1
    acc ++ (if a.length ≤ b.length then a else b)) []
  let bits := if flush then bits ++ storedBlock bits.length true [] else bits
  packBits (bits.length + 1) bits

/-- The wrapper's header (R396). -/
def deflateHeader (wrapper depth : Nat) : List Byte :=
  if wrapper = 1 then [0x78, if depth ≤ 1 then 0x01 else if depth ≤ 4 then 0x5E else if depth ≤ 8 then 0x9C else 0xDA]
  else if wrapper = 2 then [0x1F, 0x8B, 8, 0, 0, 0, 0, 0, 0, 255]
  else []

/-- The wrapper's trailer (R396). -/
def deflateTrailer (wrapper check total : Nat) : List Byte :=
  if wrapper = 1 then beBytes 4 check else if wrapper = 2 then leBytes 4 check ++ leBytes 4 total else []

end Sys2Proof.Machine
end

