-- ==== Sys2Proof/Machine/Engines.lean ====
section
/-! DEFINITION. The compression engine's jobs and the block engine (chapters 17 and 18). -/

namespace Sys2Proof.Machine

open Sys2Proof

/-! ## The domain of the two engines (R418, R423) -/

/-- The clock of a throttled part at a level, MHz, of 1 GHz (R423). -/
def partMhz (level : Nat) : Nat := [1000, 1000, 750, 750, 500, 500, 250, 250].getD level 250

/-- Domain `d` with clock `c` works, or sleeps at a depth. -/
def State.setPart (s : State) (d c depth : Nat) : State :=
  let s := s.setDomain d depth
  ((s.setFld (R.PWC_CLK_mhz c) (if depth = 0 then partMhz (s.levelOf [10, 15]) else 0)).setFld (R.PWC_CLK_running c)
    (bit (depth == 0))).setFld (R.PWC_CLK_level c) (s.levelOf [10, 15])

/-- Whether the decode pipes and the compression and block engines may work: the module is in RUN and zone 10 is not in CRIT (R419,
R435). -/
def State.enginesMay (s : State) : Bool := s.fld (R.THM_ZONE_crit 10) == 0 && s.fld R.PWC_STATUS_state == 0

/-! ## Units (R388, R389, R403) -/

/-- The job of unit `u`. -/
def State.unitJob (s : State) (u : Nat) : Option CmpJob := Store.get (fun _ => none) s.cmp.units u

/-- The ledger key of a byte-count term: 0 offered, 1 consumed, 2 left, 4 space, 5 produced, 6 unused (R403). -/
def cmpTerm (d c k : Nat) : Nat := 0x3000000 + 64 * (3 * d + (c - 1)) + k

/-- A compression count rises. -/
def State.countCmp (s : State) (j : CmpJob) (k : Nat) : State := s.bump (R.CMP_CNT_count j.dir (j.cls - 1) k)

/-- Whether a job of class 1 or 2 may take a unit of a direction while software jobs wait (R389). -/
def State.unitRoom (s : State) (dir : Nat) : Bool :=
  let sw := s.cmp.waiting.any fun j => j.dir == dir && j.cls == 3
  let held := ((List.range 12).filter fun v => match s.unitJob v with
    | some j => j.dir == dir && j.cls != 3
    | none => false).length
  let room := if dir = 0 then 8 - s.fld R.CMP_CFG_sw_inflate else 4 - s.fld R.CMP_CFG_sw_deflate
  !sw || decide (held < room)

/-- The waiting job that unit `u` would take (R389). -/
def State.pickJob (s : State) (u : Nat) : Option CmpJob :=
  let dir := if u < 8 then 0 else 1
  [1, 2, 3].findSome? fun c => s.cmp.waiting.find? fun j => j.dir == dir && j.cls == c && (c == 3 || s.unitRoom dir)

/-- A job waits for a unit. -/
def State.offerJob (s : State) (j : CmpJob) : State := { s with cmp := { s.cmp with waiting := s.cmp.waiting ++ [j] } }

/-- A job begins on unit `u`. -/
def State.beginJob (s : State) (u : Nat) (j : CmpJob) : State :=
  let s := s.setPart 25 27 0
  let s := { s with cmp := { s.cmp with
    waiting := s.cmp.waiting.erase j
    units := Store.set (fun _ => none) s.cmp.units u (some j) } }
  let s := ((s.setFld (R.CMP_UNIT_STATUS_busy u) 1).setFld (R.CMP_UNIT_STATUS_requester u) j.cls).setFld (R.CMP_UNIT_STATUS_client u) j.client
  let s := ((s.countCmp j 0).addTerm (cmpTerm j.dir j.cls 0) j.src).addTerm (cmpTerm j.dir j.cls 4) j.dst
  if s.ptp.f ≤ j.since + 100000 then s
  else
    let n := Store.get (fun _ => 0) s.cmp.waitSince j.cls + 1
    let post := s.mayPost (0x0A01000000 + j.cls) 10000000
    let s := (s.countCmp j 7).postLimited (0x0A01000000 + j.cls) 10000000 0x0A01 j.cls n
    { s with cmp := { s.cmp with waitSince := Store.set (fun _ => 0) s.cmp.waitSince j.cls (if post then 0 else n) } }

/-- Unit `u` is free again, after `consumed` source bytes and `produced` output bytes (R403). -/
def State.freeUnit (s : State) (u consumed produced : Nat) : State :=
  match s.unitJob u with
  | none => s
  | some j =>
    let t := fun (k : Nat) => cmpTerm j.dir j.cls k
    let s := { s with cmp := { s.cmp with units := Store.set (fun _ => none) s.cmp.units u none } }
    let s := (s.addTerm (t 1) consumed).addTerm (t 2) (j.src - consumed)
    let s := (s.addTerm (t 5) produced).addTerm (t 6) (j.dst - produced)
    s.setReg (R.CMP_UNIT_STATUS u) 0

/-- A job's outcome is counted, and a failure posted (R399; CMP_JOB_FAILED). -/
def State.countOutcome (s : State) (u : Nat) (j : CmpJob) (status reason : Nat) : State :=
  let s := s.countCmp j (if status ≤ 1 then 1 else if status ≤ 4 then status else 5)
  if status < 2 then s
  else
    let n := Store.get (fun _ => 0) s.cmp.failSince u + 1
    let post := s.mayPost (0x0A00000000 + u) 1000000
    let s := s.postLimited (0x0A00000000 + u) 1000000 0x0A00 u (status + j.cls * 8 + reason * 256 + min n 65535 * 65536)
    { s with cmp := { s.cmp with failSince := Store.set (fun _ => 0) s.cmp.failSince u (if post then 0 else n) } }

/-- A job on unit `u` ends without an outcome: aborted or faulted, with nothing read or written (R402; log entry 33). -/
def State.cutUnit (s : State) (u : Nat) : State :=
  match s.unitJob u with
  | none => s
  | some j => (s.countCmp j 6).freeUnit u 0 0

/-! ## Software jobs (R390, R391, R399 to R401) -/

/-- The fields of COMP_JOB. -/
structure CompArgs where
  src : Nat
  dst : Nat
  ctx : Nat
  srcLen : Nat
  dstLen : Nat
  check : Nat
  cap : Nat
  deflate : Bool
  wrapper : Nat
  resume : Bool
  final : Bool
  flush : Nat
  srcDram : Bool
  dstDram : Bool
  ctxDram : Bool
  dynamic : Bool
  depth : Nat
deriving DecidableEq, Repr

def Cmd.compArgs (c : Cmd) : CompArgs :=
  { src := c.p 8 8, dst := c.p 16 8, ctx := c.p 24 8, srcLen := c.p 32 4, dstLen := c.p 36 4, check := c.p 40 4, cap := c.p 44 4
    deflate := c.flag 48 0, wrapper := c.pb 48 1 2, resume := c.flag 48 3, final := c.flag 48 4, flush := c.pb 48 5 2
    srcDram := c.flag 49 0, dstDram := c.flag 49 1, ctxDram := c.flag 49 2, dynamic := c.flag 49 3, depth := c.pb 50 0 4 }

/-- Whether two ranges of the same address space meet. -/
def sameMeets (p q : Bool × Nat × Nat) : Bool :=
  p.1 == q.1 && decide (p.2.1 < q.2.1 + q.2.2) && decide (q.2.1 < p.2.1 + p.2.2)

/-- Why COMP_JOB is refused (R390): status and reason. -/
def CompArgs.fault (a : CompArgs) (c : Cmd) : Option (Nat × Nat) :=
  let rs := (a.srcDram, a.src, a.srcLen)
  let rd := (a.dstDram, a.dst, a.dstLen)
  let rc := (a.ctxDram, a.ctx, 36864)
  let out := fun (r : Bool × Nat × Nat) => r.1 && !c.inWindow r.2.1 r.2.2
  if a.wrapper = 3 ∨ (a.deflate = true ∧ a.flush = 3) ∨ 12 < a.depth ∨ 1073741824 < a.srcLen ∨ a.dstLen = 0 ∨ 1073741824 < a.dstLen then
    some (stBadParam, 1)
  else if a.ctx % 64 ≠ 0 then some (stBadParam, 2)
  else if (a.deflate = false ∧ a.flush ≠ 0) ∨ (a.deflate = true ∧ a.cap ≠ 0) then some (stBadParam, 3)
  else if sameMeets rs rd || sameMeets rs rc || sameMeets rd rc then some (stBadParam, 4)
  else if a.deflate = false ∧ a.srcLen = 0 then some (stBadParam, 5)
  else if out rs || out rd || out rc then some (stNotPermitted, 0)
  else none

/-- COMP_JOB (R390): the job waits for a unit. -/
def execCompJob (id : Nat) (_bus : Bus) (s : State) : Host.Outcome State Fault Refusal :=
  .next (s.runOp id .compJob fun c s =>
    let a := c.compArgs
    match a.fault c with
    | some (st, r) => s.refuse c st r
    | none =>
      (s.setCmd { c with phase := .running, items := [none] }).offerJob
        ⟨bit a.deflate, 3, a.srcLen, a.dstLen, s.ptp.f, c.client, [id], []⟩)

/-- The state of a deflate unit: wrapper, bytes in, bytes out, running check value, and what only the unit knows. -/
structure Defl where
  wrapper : Nat
  totalIn : Nat
  totalOut : Nat
  check : Nat
  inner : List Byte
deriving DecidableEq, Repr

def Defl.bytes (d : Defl) : List Byte :=
  leBytes 1 1 ++ leBytes 1 d.wrapper ++ leBytes 8 d.totalIn ++ leBytes 8 d.totalOut ++ leBytes 4 d.check ++
  leBytes 2 d.inner.length ++ d.inner

def Defl.ofBytes (b : List Byte) : Defl := ⟨leAt b 1 1, leAt b 2 8, leAt b 10 8, leAt b 18 4, slice b 24 (leAt b 22 2)⟩

/-- Runs a deflate job (R395 to R400); `taken` is how much of the source is consumed when the output space runs out. -/
def deflateJob (a : CompArgs) (old : Option (Defl × List Byte)) (src : List Byte) (taken : Nat) : JobEnd :=
  let params := [a.depth, bit a.dynamic, a.flush, bit a.final]
  let d := (old.map Prod.fst).getD ⟨a.wrapper, 0, 0, checkStart a.wrapper, []⟩
  let win := (old.map Prod.snd).getD []
  let plain := old.isNone && a.final && a.depth == 0 && !a.dynamic
  let body := if plain then deflatePlain src (a.flush != 0) else Config.deflate params d.inner src
  let sum := fun (n : Nat) => (src.take n).foldl (checkByte a.wrapper) d.check
  let head := if old.isNone then deflateHeader a.wrapper a.depth else []
  let tail := if a.final then deflateTrailer a.wrapper (checkEnd a.wrapper (sum src.length)) (d.totalIn + src.length) else []
  let out := head ++ body ++ tail
  let fits := decide (out.length ≤ a.dstLen)
  let n := if fits then src.length else taken % (src.length + 1)
  let out := out.take a.dstLen
  let d' : Defl := ⟨a.wrapper, d.totalIn + n, d.totalOut + out.length, sum n, (Config.deflateState params d.inner (src.take n)).take 4000⟩
  let win' := ((src.take n).reverse ++ win).take 32768
  { status := if !fits then 2 else if a.final then 0 else 1
    consumed := n, out := out, check := checkEnd a.wrapper d'.check, totalIn := d'.totalIn, totalOut := d'.totalOut
    save := if fits && a.final then none else some (sealState d'.bytes, windowBytes win') }

/-- The first 64 bytes of a context area (R400). -/
def JobEnd.record (e : JobEnd) (unit time : Nat) : List Byte :=
  leBytes 2 e.status ++ leBytes 2 e.reason ++ leBytes 4 e.consumed ++ leBytes 4 e.out.length ++ leBytes 4 e.check ++
  leBytes 8 e.totalIn ++ leBytes 8 e.totalOut ++ leBytes 1 (unit + 16 * bit e.save.isSome + 32 * bit e.trailing) ++
  leBytes 1 e.bitsHeld ++ List.replicate 6 0 ++ leBytes 8 time ++ List.replicate 16 0

/-- The context area that a job writes (R400). -/
def JobEnd.context (e : JobEnd) (unit time : Nat) : List Byte :=
  e.record unit time ++ match e.save with
    | some (st, win) => slice st 0 4032 ++ slice win 0 32768
    | none => []

/-- What job arguments come to on a source and, where resumed, a context area. -/
def CompArgs.work (a : CompArgs) (src ctx : List Byte) (taken : Nat) : JobEnd :=
  let st := slice ctx 64 4032
  let saved := (byteAt ctx 32).toNat.testBit 4
  let win := (slice ctx 4096 (min 32768 (leAt ctx (if a.deflate then 16 else 24) 8))).reverse
  if a.resume ∧ (saved = false ∨ stateOk st (bit a.deflate) a.wrapper = false) then { status := 7 }
  else if a.deflate then deflateJob a (if a.resume then some (Defl.ofBytes st, win) else none) src taken
  else
    let (u, held) := if a.resume then Infl.ofBytes st else (Infl.fresh a.wrapper, [])
    inflateJob u held (if a.resume then win else []) src a.dstLen a.cap a.check a.final

/-- The item of a job (R401). -/
def JobEnd.item (e : JobEnd) : Item :=
  if e.status ≤ 1 then ⟨stDone, 0, 0⟩
  else if e.status ≤ 3 then ⟨stLimit, e.status, 0⟩
  else ⟨stBadParam, if e.status = 5 then 16 + e.reason else e.status, 0⟩

/-- The end of a software job on unit `u` (R392 to R401): source and context are read, output and context written. -/
def State.endSoftware (s : State) (b : Bus) (u : Nat) (j : CmpJob) : State :=
  match s.cmdOf (j.who.headD 0) with
  | none => s.cutUnit u
  | some c =>
    let a := c.compArgs
    let fault := fun (s : State) => (s.cutUnit u).finishAs c [⟨stFault, 0, 0⟩]
    let (s, ctx, ok) := if a.resume then s.srcRead b c a.ctxDram a.ctx 36864 else (s, [], true)
    let (s, src, ok') := if ok then s.srcRead b c a.srcDram a.src a.srcLen else (s, [], false)
    if !ok' then fault s
    else
      let e := a.work src ctx s.freeVal
      let s := if a.deflate && e.status == 2 then s.nextFree else s
      let (s, ok) := if e.out = [] then (s, true) else s.dstWrite b c a.dstDram a.dst e.out
      let (s, ok') := if ok then s.dstWrite b c a.ctxDram a.ctx (e.context u s.now) else (s, false)
      if !ok' then fault s
      else ((s.countOutcome u j e.status e.reason).freeUnit u e.consumed e.out.length).finishAs c [e.item]

/-! ## The block engine (R404 to R415) -/

/-- The fields of BLIT_JOB. -/
structure BlitArgs where
  dst : Nat
  src : Nat
  dstPitch : Nat
  srcPitch : Nat
  dx : Nat
  dy : Nat
  sx : Nat
  sy : Nat
  w : Nat
  h : Nat
  op : Nat
  transparent : Bool
  wm : Bool
  format : Nat
  keyEnable : Nat
  wmRow : Nat
  value : Nat
  bg : Nat
  keyMin : Nat
  keyMax : Nat
deriving DecidableEq, Repr

def Cmd.blitArgs (c : Cmd) : BlitArgs :=
  { dst := c.pb 8 0 36, src := c.pb 16 0 36, dstPitch := 64 * c.p 24 2, srcPitch := 4 * c.p 26 2, dx := c.p 28 2, dy := c.p 30 2
    sx := c.p 32 2, sy := c.p 34 2, w := c.p 36 2, h := c.p 38 2, op := c.pb 40 0 2, transparent := c.flag 40 2, wm := c.flag 40 3
    format := c.pb 40 4 4, keyEnable := c.pb 41 0 4, wmRow := c.p 44 2, value := c.p 48 8, bg := c.p 56 8
    keyMin := c.p 64 8, keyMax := c.p 72 8 }

/-- Bytes of a texel (R405). -/
def BlitArgs.tb (a : BlitArgs) : Nat := texelBytes a.format

/-- Start of destination row `j` of the rectangle, and its bytes. -/
def BlitArgs.dstRow (a : BlitArgs) (j : Nat) : Nat × Nat := (a.dst + (a.dy + j) * a.dstPitch + a.dx * a.tb, a.w * a.tb)

/-- Start and bytes of what row `j` reads of the source. -/
def BlitArgs.srcRow (a : BlitArgs) (j : Nat) : Nat × Nat :=
  if a.op = 3 then
    let first := a.sx / 8
    (a.src + (a.sy + j) * a.srcPitch + first, (a.sx + a.w - 1) / 8 - first + 1)
  else (a.src + (a.sy + j) * a.srcPitch + a.sx * a.tb, a.w * a.tb)

/-- Whether the job reads a byte that lies within a destination row (R410). -/
def BlitArgs.overlaps (a : BlitArgs) : Bool :=
  a.op != 0 && (List.range a.h).any fun i => (List.range a.h).any fun j =>
    decide ((a.srcRow i).1 < (a.dstRow j).1 + (a.dstRow j).2) && decide ((a.dstRow j).1 < (a.srcRow i).1 + (a.srcRow i).2)

/-- The span of all rows of a surface. -/
def rowsSpan (row : Nat → Nat × Nat) (h : Nat) : Nat × Nat :=
  let a := (row 0).1
  let z := (row (h - 1)).1 + (row (h - 1)).2
  (a, z - a)

/-- Why BLIT_JOB is refused (R406). -/
def BlitArgs.fault (a : BlitArgs) (c : Cmd) : Option (Nat × Nat) :=
  let glyph := a.op == 3
  let unit := if glyph then 4 else 64
  if a.format < 8 ∨ 12 < a.format then some (stBadParam, 1)
  else if a.dst % 64 ≠ 0 ∨ (a.op ≠ 0 ∧ (a.src % unit ≠ 0 ∨ a.srcPitch % unit ≠ 0)) then some (stBadParam, 2)
  else if a.w = 0 ∨ 16384 < a.w ∨ a.h = 0 ∨ 16384 < a.h ∨ a.dstPitch < (a.dx + a.w) * a.tb ∨
      (a.op ≠ 0 ∧ a.srcPitch < (if glyph then ceilDiv (a.sx + a.w) 8 else (a.sx + a.w) * a.tb)) then some (stBadParam, 3)
  else if a.wm = true ∧ a.h ≤ a.wmRow then some (stBadParam, 4)
  else if (a.op = 2 ∨ (a.op = 3 ∧ a.transparent = false)) ∧ c.indirect = false then some (stBadParam, 5)
  else
    let d := rowsSpan a.dstRow a.h
    let r := rowsSpan a.srcRow a.h
    if c.inWindow d.1 d.2 = false ∨ (a.op ≠ 0 ∧ c.inWindow r.1 r.2 = false) then some (stNotPermitted, 0) else none

/-- Shows the block engine's status. -/
def State.showBlk (s : State) : State :=
  let s := s.setFld R.BLK_STATUS_waiting (min 511 s.blk.waiting.length)
  match s.blk.running with
  | some j => s.setFld R.BLK_STATUS_rows j.rows
  | none => ((s.setFld R.BLK_STATUS_busy 0).setFld R.BLK_STATUS_rows 0).setFld R.BLK_STATUS_op 0

/-- The ledger key of jobs fetched (R415). -/
def blkFetched : Nat := 0x3001000

/-- BLIT_JOB (R406): the job waits for the engine. -/
def execBlitJob (id : Nat) (_bus : Bus) (s : State) : Host.Outcome State Fault Refusal :=
  .next (s.runOp id .blitJob fun c s =>
    let a := c.blitArgs
    match a.fault c with
    | some (st, r) => s.refuse c st r
    | none =>
      if a.wm && s.deferFull c then s.refuse c stBusyRetry 0
      else
        let s := (s.setCmd { c with phase := .running, items := [none] }).addTerm blkFetched 1
        { s with blk := { s.blk with waiting := s.blk.waiting ++ [id] } }.showBlk)

/-- BLOCK_JOB_START (R404): the engine, idle, takes the waiting job that was fetched first. -/
def execBlockJobStart (s : State) : Host.Outcome State Fault Refusal :=
  .next (match s.blk.running, s.blk.waiting with
    | none, i :: rest =>
      if s.enginesMay = false then s
      else
        let id := rest.foldl min i
        match s.cmdOf id with
        | none => s
        | some c =>
          let a := c.blitArgs
          let s := (s.setPart 25 27 0).count (R.BLK_CNT_count 0) 1
          let s := { s with blk := { s.blk with waiting := s.blk.waiting.filter (· != id), running := some ⟨id, 0, a.overlaps⟩ } }
          (((s.setFld R.BLK_STATUS_busy 1).setFld R.BLK_STATUS_op a.op).setFld R.BLK_STATUS_client c.client).showBlk
    | _, _ => s)

/-- Whether a source texel is keyed (R41, R408). -/
def BlitArgs.keyed (a : BlitArgs) (word : Nat) : Bool :=
  let part := (List.range 4).filterMap fun i =>
    if a.keyEnable.testBit i then ((rawTexel a.format word).getD i none).map fun v => (i, v) else none
  !part.isEmpty && part.all fun p =>
    decide (bitsOf a.keyMin (16 * p.1) 16 ≤ p.2) && decide (p.2 ≤ bitsOf a.keyMax (16 * p.1) 16)

/-- The texels that a row writes, from the source bytes read for it: none keeps the destination's texel (R407 to R409). -/
def BlitArgs.texels (a : BlitArgs) (src : List Byte) : List (Option (List Byte)) :=
  (List.range a.w).map fun i =>
    if a.op = 0 then some (leBytes a.tb a.value)
    else if a.op = 3 then
      let x := a.sx % 8 + i
      if (byteAt src (x / 8)).toNat.testBit (7 - x % 8) then some (leBytes a.tb a.value)
      else if a.transparent then none else some (leBytes a.tb a.bg)
    else
      let t := slice src (i * a.tb) a.tb
      if a.op = 2 ∧ a.keyed (leNat t) = true then none else some t

/-- The runs of written texels: byte offset and bytes. -/
def texelRuns (tb : Nat) : Nat → List (Option (List Byte)) → List (Nat × List Byte)
  | _, [] => []
  | at_, none :: rest => texelRuns tb (at_ + tb) rest
  | at_, some d :: rest =>
    match texelRuns tb (at_ + tb) rest with
    | (o, e) :: more => if o = at_ + tb then (at_, d ++ e) :: more else (at_, d) :: (o, e) :: more
    | [] => [(at_, d)]

/-- `n` free bytes (R410). -/
def State.freeBytes (s : State) (n : Nat) : State × List Byte :=
  ({ s with free := s.free + n }, (List.range n).map fun i => BitVec.ofNat 8 (Config.freeNat (s.free + i)))

/-- Bytes written by the engine. -/
def State.countBlk (s : State) (n : Nat) : State :=
  let b := s.blk.bytes + n
  { s with blk := { s.blk with bytes := b % 1024 } }.bumpBy (R.BLK_CNT_count 5) (b / 1024)

/-- Writes row `j`; none where its source is read in error (R369, R414). -/
def State.blitRow (s : State) (a : BlitArgs) (overlap : Bool) (j : Nat) : State × Bool :=
  let (s, src, ok) := if a.op = 0 then (s, [], true) else s.memRead (a.srcRow j).1 (a.srcRow j).2
  if !ok then (s, false)
  else
    let base := (a.dstRow j).1
    if overlap then
      let (s, d) := s.freeBytes (a.dstRow j).2
      ((s.memWrite base d).countBlk d.length, true)
    else
      ((texelRuns a.tb 0 (a.texels src)).foldl (fun t (r : Nat × List Byte) => (t.memWrite (base + r.1) r.2).countBlk r.2.length) s, true)

/-- Writes rows up to, and without, row `stop`; the flag says whether none was read in error. -/
def State.blitRows (s : State) (a : BlitArgs) (j : BlkJob) (stop : Nat) : State × Bool :=
  (List.range (stop - j.rows)).foldl (fun (p : State × Bool) i =>
    if p.2 then
      match p.1.blitRow a j.overlap (j.rows + i) with
      | (s, true) => ({ s with blk := { s.blk with running := some { j with rows := j.rows + i + 1 } } }, true)
      | (s, false) => (s, false)
    else p) (s, true)

/-- The value of a block job's item (R414). -/
def BlkJob.value (j : BlkJob) : Nat := j.rows + bit j.overlap * 32768

/-- The block job of a command ends with a status. -/
def State.endBlit (s : State) (b : Bus) (c : Cmd) (j : BlkJob) (status : Nat) (cut : Option Nat) : State :=
  let s := if j.overlap then s.bump (R.BLK_CNT_count 2) else s
  let s := s.count (R.BLK_CNT_count (if status = stDone then 1 else 3)) 1
  let s := (((s.setFld R.BLK_LAST_rows j.rows).setFld R.BLK_LAST_overlap (bit j.overlap)).setFld R.BLK_LAST_client c.client).setFld R.BLK_LAST_TAG_tag c.tag
  let s := if status = stDone then s
    else s.postLimited 0x0B00000000 1000000 0x0B00 c.client (status + j.rows * 65536) (some c.client)
  s.finishAs c [⟨status, 0, j.value⟩] cut

/-- BLOCK_WATERMARK (R413): rows 0 to wm_row of the running job are written, and its DEFERRED reply follows. -/
def execBlockWatermark (s : State) : Host.Outcome State Fault Refusal :=
  .next (match s.blk.running with
    | none => s
    | some j =>
      match s.cmdOf j.cmd with
      | none => s
      | some c =>
        let a := c.blitArgs
        if a.wm = false ∨ c.phase = .deferred then s
        else
          let (t, ok) := s.blitRows a j (a.wmRow + 1)
          if !ok then s
          else
            let t := t.setCmd { c with phase := .deferred }
            let r : Reply := ⟨c.id, c.client, c.ring, c.opcode, stDeferred, c.tag, 1, 0, 0, 0, false, c.notify, some t.now⟩
            ({ t with cmd := { t.cmd with replies := t.cmd.replies ++ [r] } }.bump (R.BLK_CNT_count 4)).showBlk)

/-- BLOCK_JOB_END (R404, R414): the running job writes its remaining rows and ends, after its watermark where it has one. -/
def execBlockJobEnd (bus : Bus) (s : State) : Host.Outcome State Fault Refusal :=
  .next (match s.blk.running with
    | none => s
    | some j =>
      match s.cmdOf j.cmd with
      | none => s
      | some c =>
        let a := c.blitArgs
        let (t, ok) := s.blitRows a j a.h
        if ok && a.wm && c.phase != .deferred then s
        else
          let j := t.blk.running.getD j
          let t := { t with blk := { t.blk with running := none } }
          if ok then (t.endBlit bus c j stDone none).showBlk
          else (t.endBlit bus c j stFault none).showBlk)

/-- The running block-engine job ends with a status (R414). -/
def State.cutBlit (s : State) (status : Nat) : State :=
  match s.blk.running with
  | none => s
  | some j =>
    let s := { s with blk := { s.blk with running := none } }
    (match s.cmdOf j.cmd with
      | some c => s.endBlit {} c j status (some status)
      | none => s.count (R.BLK_CNT_count 3) 1).showBlk

/-- Every block-engine job ends with a status; a job that had not started counts as started and failed (R414, R415). -/
def State.abortBlits (s : State) (status : Nat) : State :=
  let waiting := s.blk.waiting
  let s := { s with blk := { s.blk with waiting := [] } }.cutBlit status
  (waiting.foldl (fun t id =>
    let t := t.count (R.BLK_CNT_count 0) 1
    match t.cmdOf id with
    | some c => t.endBlit {} c ⟨id, 0, false⟩ status (some status)
    | none => t.count (R.BLK_CNT_count 3) 1) s).showBlk

end Sys2Proof.Machine
end

