-- ==== Sys2Proof/Machine/Perf.lean ====
section
/-! DEFINITION. Performance counters, meters, snapshots and sampling (chapter 21). -/

namespace Sys2Proof.Machine

open Sys2Proof

/-- A BAR0 write outside the view of a client but PF0 is dropped and counted (R506, R515). -/
def State.pf0Write (s : State) (client : Nat) (f : State → State) : State := if client = 0 then f s else s.drop client

/-- A BAR0 read returns `data`; outside the view of a client but PF0 it returns zeros and has no effect (R515). -/
def State.pf0Read (s : State) (client off : Nat) (data : List Byte) (f : State → State) : State :=
  if client = 0 then (f s).emit (.readData client off data false)
  else s.emit (.readData client off (List.replicate data.length 0) false)

/-! ## Events and counters (R472 to R476) -/

/-- Where a counter sits: 0 bent, 1 uncore, 2 I/O die (R472). -/
def counterPlace (n : Nat) : Nat := if n < 128 then 0 else if n < 160 then 1 else 2

/-- The power domain of counter `n` (R472). -/
def counterDomain (n : Nat) : Nat := if n < 128 then 5 + n / 16 else if n < 144 then 13 else if n < 160 then 14 else 1

/-- The catalogue: place, number of instances (0 none), and whether the event counts an occupancy. -/
def pfcEvent (code : Nat) : Option (Nat × Nat × Bool) :=
  if code = 0x01 then some (0, 0, false)
  else if 0x02 ≤ code ∧ code ≤ 0x0A then some (0, 9, false)
  else if code = 0x10 ∨ code = 0x11 then some (0, 8, true)
  else if code = 0x20 then some (1, 0, false)
  else if code = 0x21 ∨ code = 0x22 then some (1, 5, false)
  else if code = 0x30 then some (1, 5, true)
  else if code = 0x40 ∨ code = 0x41 then some (2, 32, false)
  else if code = 0x50 then some (2, 32, true)
  else if 0x60 ≤ code ∧ code ≤ 0x62 then some (2, 16, false)
  else if code = 0x70 then some (2, 256, true)
  else if code = 0x71 then some (2, 256, false)
  else if code = 0x80 then some (2, 9, false)
  else if code = 0x81 then some (2, 16, false)
  else if code = 0x82 then some (2, 12, false)
  else if code = 0x83 then some (2, 0, false)
  else if 0x90 ≤ code ∧ code ≤ 0x92 then some (2, 16, false)
  else if code = 0x93 then some (2, 4, false)
  else none

/-- Whether counter `n` can count an event and instance (R476); code 0 is none. -/
def counterCan (n code inst : Nat) : Bool :=
  code == 0 || match pfcEvent code with
    | some (place, k, _) => place == counterPlace n && (k == 0 || decide (inst < k))
    | none => false

/-- Whether an event is an occupancy event. -/
def isOccupancy (code : Nat) : Bool := ((pfcEvent code).map fun e => e.2.2).getD false

/-- A write of PFC_CTL[n] (R474, R476): 32 bits; an overflow bit written 1 is cleared. -/
def State.putCtl (s : State) (n v : Nat) : State :=
  let code := bitsOf v 0 8
  let inst := bitsOf v 8 8
  let s := if counterCan n code inst then (s.setFld (R.PFC_CTL_event n) code).setFld (R.PFC_CTL_inst n) inst else s
  let s := (s.setFld (R.PFC_CTL_enable n) (bitsOf v 16 1)).setFld (R.PFC_CTL_chain n) (bitsOf v 18 1)
  let s := if v.testBit 17 && !isOccupancy (s.fld (R.PFC_CTL_event n)) then s else s.setFld (R.PFC_CTL_occ n) (bitsOf v 17 1)
  if v.testBit 19 then s.setFld (R.PFC_CTL_overflow n) 0 else s

/-- Whether counter `n` is the odd half of a chained pair (R473). -/
def State.chainedOdd (s : State) (n : Nat) : Bool := n % 2 == 1 && s.fld (R.PFC_CTL_chain (n - 1)) == 1

/-- Counter `n` wraps: overflow is set and PFC_OVERFLOW posted (R472). -/
def State.overflow (s : State) (n : Nat) : State :=
  (s.setFld (R.PFC_CTL_overflow n) 1).postLimited (0x0C00000000 + n) 1000000000 0x0C00 n
    (s.fld (R.PFC_CTL_event n) + s.fld (R.PFC_CTL_inst n) * 256)

/-- Counter `n` rises by `d`, with the carry of a chained pair (R472, R473). -/
def State.addCount (s : State) (n d : Nat) : State :=
  let v := s.fld (R.PFC_VAL_count n) + d
  let s := s.setFld (R.PFC_VAL_count n) v
  if v < 2 ^ 48 then s
  else if n % 2 = 0 ∧ s.fld (R.PFC_CTL_chain n) = 1 then
    let o := s.fld (R.PFC_VAL_count (n + 1)) + 1
    let s := s.setFld (R.PFC_VAL_count (n + 1)) o
    if o < 2 ^ 48 then s else s.overflow (n + 1)
  else s.overflow n

/-- COUNTER_EVENT (R472 to R475, R479). -/
def execCounterEvent (n amount : Nat) (s : State) : Host.Outcome State Fault Refusal :=
  let code := s.fld (R.PFC_CTL_event n)
  .next (if 256 ≤ n ∨ s.fld (R.PFC_CTL_enable n) = 0 ∨ s.fld R.PFC_GLOBAL_freeze = 1 ∨ code = 0 ∨ s.chainedOdd n = true ∨
      s.fld (R.PWC_DOMAIN_depth (counterDomain n)) ≠ 0 then s
    else if isOccupancy code = false then s.addCount n 1
    else if s.fld (R.PFC_CTL_occ n) = 0 then s.addCount n amount
    else if s.fld (R.PFC_THRESH_n n) < amount then s.addCount n 1
    else s)

/-- PFC_VAL_WRITE (R476). -/
def execPfcValWrite (client n value : Nat) (s : State) : Host.Outcome State Fault Refusal :=
  .next ((s.bar0 client).pf0Write client fun s =>
    if 256 ≤ n then s.drop client
    else if s.fld (R.PWC_DOMAIN_depth (counterDomain n)) ≠ 0 then s.holdWrite (counterDomain n) (R.PFC_VAL n) (2 ^ 48 - 1) (value % 2 ^ 48)
    else s.setFld (R.PFC_VAL_count n) value)

/-- What a read of counter `n` returns: the latched value where the read before was that of its even partner (R473). -/
def State.pairValue (s : State) (n : Nat) : Nat :=
  match s.pfc.latch with
  | some (k, x) => if k = n then x else s.fld (R.PFC_VAL_count n)
  | none => s.fld (R.PFC_VAL_count n)

/-- A read of an even chained counter latches the odd one (R473). -/
def State.latchPair (s : State) (n : Nat) : State :=
  if n % 2 = 0 ∧ s.fld (R.PFC_CTL_chain n) = 1 then
    { s with pfc := { s.pfc with latch := some (n + 1, s.fld (R.PFC_VAL_count (n + 1))) } }
  else s

/-- PFC_PAIR_LOW_READ (R473): a read of an even chained counter latches the odd one; the next read of that returns it. -/
def execPfcPairLowRead (client n : Nat) (s : State) : Host.Outcome State Fault Refusal :=
  .next (if 256 ≤ n then s.bar0 client
    else (s.bar0 client).pf0Read client (R.PFC_VAL n) (leBytes 8 (s.pairValue n)) fun t => t.latchPair n)

/-! ## Meters (R477) -/

/-- One meter's window ends with `n` bytes. -/
def State.endWindow (s : State) (m n : Nat) : State :=
  let s := (s.setFld (R.PFC_METER_LAST_bytes m) n).setFld (R.PFC_METER_MAX_bytes m) (max n (s.fld (R.PFC_METER_MAX_bytes m)))
  (s.setFld (R.PFC_METER_END_time m) s.now).bump (R.PFC_METER_WIN_windows m)

/-- METER_WINDOW_END (R477); windows that were abandoned begin again. -/
def execMeterWindowEnd (bytes : List Nat) (s : State) : Host.Outcome State Fault Refusal :=
  .next (if s.pfc.windowsOpen then (List.range 76).foldl (fun s' m => s'.endWindow m (bytes.getD m 0)) s
    else { s with pfc := { s.pfc with windowsOpen := true } })

/-- Every open window is abandoned (R477). -/
def State.abandonWindows (s : State) : State := { s with pfc := { s.pfc with windowsOpen := false } }

/-- A write of PFC_METER_CFG: a length outside the range is ignored. -/
def State.putMeterCfg (s : State) (data : Nat) : State :=
  let w := bitsOf data 0 20
  if w = 0 ∨ 1000000 < w then s else (s.setFld R.PFC_METER_CFG_window w).abandonWindows

/-- PFC_METER_CFG_WRITE (R477). -/
def execPfcMeterCfgWrite (client data : Nat) (s : State) : Host.Outcome State Fault Refusal :=
  .next ((s.bar0 client).pf0Write client fun s => s.putMeterCfg data)

/-! ## Snapshots (R478, R479) -/

/-- A snapshot at PTP time `t`; one within 8 ns of another is the same. -/
def State.snapshot (s : State) (t : Nat) : State :=
  let near := match s.pfc.lastSnap with
    | some u => decide (t ≤ u + 8)
    | none => false
  if near then s
  else
    let s := if s.fld R.PFC_GLOBAL_snap_valid = 1 then s.bump R.PFC_GLOBAL_snap_lost else s
    let s := (List.range 256).foldl (fun s' n => s'.setFld (R.PFC_SNAP_count n) (s'.fld (R.PFC_VAL_count n))) s
    let s := (List.range 76).foldl (fun s' m => s'.setFld (R.PFC_METER_SNAP_bytes m) (s'.fld (R.PFC_METER_LAST_bytes m))) s
    let s := (s.setFld R.PFC_SNAP_TIME_t t).setFld R.PFC_GLOBAL_snap_valid 1
    let s : State := { s with pfc := { s.pfc with lastSnap := some t } }
    if s.fld R.PFC_GLOBAL_hold = 1 then s.setFld R.PFC_GLOBAL_freeze 1 else s

/-- A write of PFC_GLOBAL: its fields, then a snapshot where snap is 1. -/
def State.writePfcGlobal (s : State) (data : Nat) : State :=
  let s := (s.setFld R.PFC_GLOBAL_freeze (bitsOf data 0 1)).setFld R.PFC_GLOBAL_hold (bitsOf data 2 1)
  let lost := s.fld R.PFC_GLOBAL_snap_lost
  let s := s.setFld R.PFC_GLOBAL_snap_lost (lost - (lost &&& bitsOf data 8 8))
  if data.testBit 1 then s.snapshot s.now else s

/-- PFC_SNAP_WRITE (R478). -/
def execPfcSnapWrite (client data : Nat) (s : State) : Host.Outcome State Fault Refusal :=
  .next ((s.bar0 client).pf0Write client fun s => s.writePfcGlobal (data ||| 2))

/-- PFC_FREEZE_WRITE (R479). -/
def execPfcFreezeWrite (client data : Nat) (s : State) : Host.Outcome State Fault Refusal :=
  .next ((s.bar0 client).pf0Write client fun s => s.writePfcGlobal data)

/-- PFC_SNAP_TIME_READ (R479). -/
def execPfcSnapTimeRead (client : Nat) (s : State) : Host.Outcome State Fault Refusal :=
  .next ((s.bar0 client).pf0Read client R.PFC_SNAP_TIME (leBytes 8 (s.fld R.PFC_SNAP_TIME_t)) fun s => s.setFld R.PFC_GLOBAL_snap_valid 0)

/-! ## Records (R480 to R483) -/

/-- The ledger key of the records made (R483). -/
def recordsMade : Nat := 0x3004000

/-- A record is dropped (R482). -/
def State.loseRecord (s : State) : State :=
  let s := s.count R.PFC_BUF_LOST_records 1
  let n := s.pfc.lostSince + 1
  let post := s.mayPost 0x0C0100000000 1000000
  let s := s.postLimited 0x0C0100000000 1000000 0x0C01 0 (min n 0xFFFFFFFF)
  { s with pfc := { s.pfc with lostSince := if post then 0 else n } }

/-- A record is made, unless PFC_BUF_BASE is 0; the sequence number goes into bytes 40 to 47 of a tagged one. -/
def State.makeRecord (s : State) (d : Nat → List Byte) : State :=
  if s.fld R.PFC_BUF_BASE_base = 0 then s
  else
    let s := (s.addTerm recordsMade 1)
    let q := s.pfc.seq
    let s := { s with pfc := { s.pfc with seq := q + 1 } }
    if 256 ≤ s.pfc.queue.length then s.loseRecord
    else { s with pfc := { s.pfc with queue := s.pfc.queue ++ [d q] } }

/-- One step of the 32-bit shift register x^32 + x^22 + x^2 + x + 1 (R480). -/
def shiftStep (x : Nat) : Nat :=
  (x * 2 + bit (((x.testBit 31 ^^ x.testBit 21) ^^ x.testBit 1) ^^ x.testBit 0)) % 2 ^ 32

/-- `n` steps of the shift register. -/
def shiftSteps : Nat → Nat → Nat
  | 0, x => x
  | n + 1, x => shiftSteps n (shiftStep x)

/-- The register of bay `q` after a seed. -/
def seedOf (seed q : Nat) : Nat :=
  let v := (seed ^^^ (q * 2 ^ 24)) % 2 ^ 32
  if v = 0 then 1 else v

/-- The registers of every bay are seeded (R480). -/
def State.seedBays (s : State) : State :=
  let seed := s.fld R.PFC_SAMPLE_SEED_seed
  { s with pfc := { s.pfc with shift := (List.range 64).foldl (fun m q => Store.set (fun q => seedOf 1 q) m q (seedOf seed q)) s.pfc.shift } }

/-- TAGGED_RAY_RECORD (R18, R480): an address that names no ray is never sampled. The register of the bay steps once a ray; the ray it ends on is tagged where its low k bits are
0. -/
def execTaggedRayRecord (bay rays flags region ray node slots tDirty : Nat) (offsets : List Nat) (s : State) :
    Host.Outcome State Fault Refusal :=
  .next (if 64 ≤ bay ∨ s.fld R.PFC_SAMPLE_CFG_tagged = 0 ∨ s.hx * s.hy ≤ ray / 256 ∨ s.views ≤ ray % 256 then s
    else
      let x := shiftSteps rays (Store.get (fun q => seedOf 1 q) s.pfc.shift bay)
      let s := { s with pfc := { s.pfc with shift := Store.set (fun q => seedOf 1 q) s.pfc.shift bay x } }
      if x % 2 ^ s.fld R.PFC_SAMPLE_CFG_k ≠ 0 then s
      else s.makeRecord fun q =>
        leBytes 1 1 ++ leBytes 1 (flags % 32) ++ leBytes 2 region ++ leBytes 5 ray ++ leBytes 1 bay ++ leBytes 1 node ++ leBytes 1 slots ++
        leBytes 8 tDirty ++ ((List.range 5).flatMap fun i => leBytes 4 (min (offsets.getD i 0) 0xFFFFFFFF)) ++ leBytes 8 q ++ List.replicate 16 0)

/-- PRECISE_RECORD (R481). -/
def execPreciseRecord (item source itemId latency : Nat) (s : State) : Host.Outcome State Fault Refusal :=
  .next (if s.fld R.PFC_SAMPLE_CFG_precise = 0 ∨ item = 0 ∨ 5 < item ∨ (s.fld R.PFC_SAMPLE_CFG_items).testBit (item - 1) = false ∨
      latency < 10 * s.fld R.PFC_SAMPLE_CFG_threshold then s
    else s.makeRecord fun _ =>
      leBytes 1 2 ++ leBytes 1 item ++ leBytes 2 source ++ leBytes 8 itemId ++ leBytes 4 (min latency 0xFFFFFFFF) ++ leBytes 8 s.now ++
      List.replicate 40 0)

/-- The number of record places of the buffer (R482). -/
def State.recordPlaces (s : State) : Nat := 2 ^ (s.fld R.PFC_BUF_SIZE_s - 6)

/-- The module address of record `i`. -/
def State.recordAddr (s : State) (i : Nat) : Nat := 4096 * s.fld R.PFC_BUF_BASE_base + 64 * (i % s.recordPlaces)

/-- RECORD_BUFFER_WRITE (R482). -/
def execRecordBufferWrite (s : State) : Host.Outcome State Fault Refusal :=
  .next (match s.pfc.queue with
    | [] => s
    | d :: rest =>
      let s := { s with pfc := { s.pfc with queue := rest } }
      let w := s.fld R.PFC_BUF_WR_index
      let next := (w + 1) % s.recordPlaces
      if next = s.fld R.PFC_BUF_RD_index then s.loseRecord
      else ((s.memWrite (s.recordAddr w) d).setFld R.PFC_BUF_WR_index next).count R.PFC_BUF_WRITTEN_records 1)

/-- A write of PFC_BUF_SIZE, or of PFC_BUF_BASE: both indices are 0 (R482). -/
def State.putBufCfg (s : State) (size : Bool) (data : Nat) : State :=
  let k := bitsOf data 0 5
  let s := if size then (if 16 ≤ k ∧ k ≤ 30 then s.setFld R.PFC_BUF_SIZE_s k else s) else s.setFld R.PFC_BUF_BASE_base (bitsOf data 0 24)
  (s.setFld R.PFC_BUF_WR_index 0).setFld R.PFC_BUF_RD_index 0

/-- PFC_BUF_CONFIG_WRITE (R482). -/
def execPfcBufConfigWrite (client : Nat) (size : Bool) (data : Nat) (s : State) : Host.Outcome State Fault Refusal :=
  .next ((s.bar0 client).pf0Write client fun s => s.putBufCfg size data)

/-! ## Commands (R484 to R486) -/

/-- One entry of PFC_PROGRAM for counter `n` (R484). -/
def State.programOne (s : State) (client n w : Nat) (clear : Bool) : State × Item :=
  let owner := s.fld (R.PFC_CTL_owner n)
  let free := s.fld (R.PFC_CTL_event n) == 0 && owner == 0
  if client ≠ 0 ∧ owner ≠ client ∧ free = false then (s, ⟨stNotPermitted, 0, 0⟩)
  else if counterCan n (bitsOf w 0 8) (bitsOf w 8 8) = false then (s, ⟨stBadParam, 1, 0⟩)
  else
    let s := ((s.putCtl n (bitsOf w 0 32)).setFld (R.PFC_THRESH_n n) (bitsOf w 32 16)).setFld (R.PFC_CTL_owner n) client
    (if clear then s.setFld (R.PFC_VAL_count n) 0 else s, ⟨stDone, 0, 0⟩)

/-- PFC_PROGRAM (R484). -/
def execPfcProgram (id : Nat) (bus : Bus) (s : State) : Host.Outcome State Fault Refusal :=
  .next (s.runOp id .pfcProgram fun c s =>
    let first := c.p 16 1
    let n := c.p 17 1 + 1
    if 256 < first + n then s.refuse c stBadParam 2
    else
      let (s, recs) := s.readRecords bus c false (c.p 8 8) 8 n
      let (s, items) := (List.range recs.length).foldl (fun (acc : State × List Item) k =>
        let (t, i) := acc.1.programOne c.client (first + k) (leNat (recs.getD k [])) (c.flag 18 0)
        (t, acc.2 ++ [i])) (s, [])
      s.finishAs c (items ++ List.replicate (n - items.length) ⟨stFault, 0, 0⟩))

/-- PFC_SNAPSHOT (R478, R485). -/
def execPfcSnapshot (id : Nat) (bus : Bus) (s : State) : Host.Outcome State Fault Refusal :=
  .next (s.runOp id .pfcSnapshot fun c s =>
    let s := s.snapshot s.now
    let d := leBytes 8 (s.fld R.PFC_SNAP_TIME_t) ++ ((List.range 256).flatMap fun n => leBytes 8 (s.fld (R.PFC_SNAP_count n))) ++
      ((List.range 76).flatMap fun m => leBytes 8 (s.fld (R.PFC_METER_SNAP_bytes m)))
    let (s, ok) := s.dstWrite bus c false (c.p 8 8) d
    if ok then s.finishOne c else s.failOne c stFault)

/-- The unread records. -/
def State.unread (s : State) : Nat := (s.fld R.PFC_BUF_WR_index + s.recordPlaces - s.fld R.PFC_BUF_RD_index) % s.recordPlaces

/-- The bytes of the oldest `n` unread records. -/
def State.unreadBytes (s : State) (n : Nat) : State × List Byte :=
  (List.range n).foldl (fun (acc : State × List Byte) i =>
    let (t, d, _) := acc.1.memRead (s.recordAddr (s.fld R.PFC_BUF_RD_index + i)) 64
    (t, acc.2 ++ d)) (s, [])

/-- `n` records have been moved: the read index passes them and the drain ends. -/
def State.drained (s : State) (id n : Nat) (ok : Bool) : State :=
  let s := s.setFld R.PFC_BUF_RD_index ((s.fld R.PFC_BUF_RD_index + n) % s.recordPlaces)
  { s with pfc := { s.pfc with drain := none } }.itemDone id 0 ⟨if ok then stDone else stFault, 0, n⟩

/-- Copies up to `n` unread records, stopping at a failed write. -/
def State.copyRecords (s : State) (b : Bus) (c : Cmd) (i : Nat) : Nat → State × Nat × Bool
  | 0 => (s, i, true)
  | n + 1 =>
    let (s, d, _) := s.memRead (s.recordAddr (s.fld R.PFC_BUF_RD_index + i)) 64
    let (s, ok) := s.dstWrite b c false (c.p 8 8 + 64 * i) d
    if ok then s.copyRecords b c (i + 1) n else (s, i, false)

/-- A gzip member of some bytes at depth 1 (R396, R486). -/
def gzipMember (d : List Byte) : List Byte :=
  deflateHeader 2 1 ++ Config.deflate [1, 0, 0, 1] [] d ++
  deflateTrailer 2 (checkEnd 2 (d.foldl (checkByte 2) (checkStart 2))) d.length

/-- The deflate unit has compressed the records of a drain (R486): as many as fit the destination are written. -/
def State.endDrain (s : State) (b : Bus) (id : Nat) : State × Nat × Nat :=
  match s.cmdOf id with
  | none => ({ s with pfc := { s.pfc with drain := none } }, 0, 0)
  | some c =>
    let (t, all) := s.unreadBytes s.unread
    let fits := fun (k : Nat) => decide ((gzipMember (all.take (64 * k))).length ≤ c.p 16 4)
    match ((List.range (s.unread + 1)).reverse.find? fits) with
    | none => (t.drained id 0 true, 0, 0)
    | some k =>
      let out := gzipMember (all.take (64 * k))
      let (t, ok) := t.dstWrite b c false (c.p 8 8) out
      (t.drained id (if ok then k else 0) ok, 64 * k, if ok then out.length else 0)

/-- SAMPLE_DRAIN (R486): the command starts, or, run again, moves the unread records. -/
def execSampleDrain (id : Nat) (bus : Bus) (s : State) : Host.Outcome State Fault Refusal :=
  .next (if s.pfc.drain = some id then
      match s.cmdOf id with
      | none => s
      | some c =>
        if c.flag 20 0 then s
        else
          let (s, n, ok) := s.copyRecords bus c 0 (min s.unread (c.p 16 4 / 64))
          s.drained id n ok
    else s.runOp id .sampleDrain fun c s =>
      let len := c.p 16 4
      if len < 64 ∨ 1073741824 < len then s.refuse c stBadParam 16
      else if s.pfc.drain.isSome || s.deferFull c then s.refuse c stBusyRetry 0
      else
        let s := s.defer c 1
        let s := { s with pfc := { s.pfc with drain := some id } }
        if c.flag 20 0 then
          s.offerJob { dir := 1, cls := 2, src := 64 * s.unread, dst := len, since := s.ptp.f, client := c.client, who := [id] }
        else s)

end Sys2Proof.Machine
end

