-- ==== Sys2Proof/Machine/Clamp.lean ====
section
/-! DEFINITION. Clamps and renderer fences (chapter 8), with the clamp's effect on the state of chapters 1, 2, 4, 5, 7 and 9. -/

namespace Sys2Proof.Machine

open Sys2Proof

/-! ## Boundaries (R182, R187) -/

/-- What segment `g` of the link holds beside its registers. -/
def State.seg (s : State) (g : Nat) : PnlSeg := Store.get (fun _ => {}) s.pnl.segs g

def State.setSeg (s : State) (g : Nat) (x : PnlSeg) : State :=
  { s with pnl := { s.pnl with segs := Store.set (fun _ => {}) s.pnl.segs g x } }

/-- A boundary of segment `g` has come at PTP time `t`. -/
def State.boundary (s : State) (g t : Nat) : State :=
  let s := { s with clp := { s.clp with boundary := Store.set (fun _ => none) s.clp.boundary g (some t) } }
  if g = 0 then
    let caps := s.glu.captures.map fun k => { k with frames := k.frames - 1 }
    { s with glu := { s.glu with captures := caps }
             clp := { s.clp with gridDue := s.dmg.pendGrid.isSome && s.sch.jobs.isEmpty } }
  else s

/-- The groups that take their boundaries from segment `g` (R182). -/
def State.groupsAt (s : State) (g : Nat) : List Nat :=
  (List.range 16).filter fun k => s.segOrZero (s.fld (R.CLP_GROUP_CFG_seg k)) == g

/-- Sets free_run of every group that takes its boundaries from segment `g`. -/
def State.showFree (s : State) (g : Nat) (on : Bool) : State :=
  (s.groupsAt g).foldl (fun s' k => s'.setFld (R.CLP_GROUP_STATUS_free_run k) (bit on)) s

/-- free_run of group `k` follows the segment that it uses now (R183). -/
def State.showGroupFree (s : State) (k : Nat) : State :=
  s.setFld (R.CLP_GROUP_STATUS_free_run k) (bit (s.seg (s.segOrZero (s.fld (R.CLP_GROUP_CFG_seg k)))).freeRun)

/-! ## The Trastos side (R103, R104) -/

def State.trsGroup (s : State) (g : Nat) : TrsGroup := Store.get (fun _ => {}) s.trs.groups g

def State.setTrsGroup (s : State) (g : Nat) (x : TrsGroup) : State :=
  { s with trs := { s.trs with groups := Store.set (fun _ => {}) s.trs.groups g x } }

/-- The commit group of stream slot `k`. -/
def State.slotGroup (s : State) (k : Nat) : Nat := s.fld (R.SCN_TRS_STREAM_group k)

/-- Frame `a` is at or before frame `c` (R95). -/
def frameAtOrBefore (a c : Nat) : Bool := decide ((c + 2 ^ 32 - a % 2 ^ 32) % 2 ^ 32 < 2 ^ 31)

/-- The lower of two scene frames (R95). -/
def lowerFrame (acc : Option Nat) (f : Nat) : Option Nat :=
  match acc with
  | none => some f
  | some a => if f != a && frameAtOrBefore f a then some f else some a

/-- The scene frames of group `g` for which a unit or a marker has arrived and that are past the last committed one. -/
def State.openFrames (s : State) (g : Nat) : List Nat :=
  let fs := (s.trsGroup g).markers.map Marker.frame ++ (s.trs.units.filter fun u => s.slotGroup u.slot == g).map TrsUnit.frame
  match (s.trsGroup g).committed with
  | none => fs
  | some c => fs.filter fun f => !frameAtOrBefore f c

/-- The staging scene frame of a group: the lowest open one, or the frame into which it was folded (R104, R105). -/
def State.stagingFrame (s : State) (g : Nat) : Option Nat :=
  match (s.trsGroup g).foldTo with
  | some f => some f
  | none => (s.openFrames g).foldl lowerFrame none

/-- The scene frame after the staging frame, for which a pipe may decode ahead (R123). -/
def State.aheadFrame (s : State) (g : Nat) : Option Nat :=
  match s.stagingFrame g with
  | none => none
  | some c => ((s.openFrames g).filter fun f => !frameAtOrBefore f c).foldl lowerFrame none

/-- Whether content of scene frame `f` of group `g` may be applied now (R104). -/
def State.mayApply (s : State) (g f : Nat) : Bool :=
  ((s.stagingFrame g).map (frameAtOrBefore f)).getD false || (((s.trsGroup g).committed).map (frameAtOrBefore f)).getD false

/-- The marker of the staging frame. -/
def State.stagingMarker (s : State) (g : Nat) : Option Marker :=
  (s.stagingFrame g).bind fun f => (s.trsGroup g).markers.find? fun m => m.frame == f

/-- The enabled stream slot with identifier `id`. -/
def State.slotOfStream (s : State) (id : Nat) : Option Nat :=
  (List.range 64).find? fun k => s.fld (R.SCN_TRS_STREAM_enable k) == 1 && s.fld (R.SCN_TRS_STREAM_stream_id k) == id

/-- Whether units 0 to `n - 1` of slot `k` for frame `f` are each delivered or lost (R103). -/
def State.unitsReady (s : State) (k f n : Nat) : Bool :=
  (List.range n).all fun i => s.trs.units.any fun u => u.slot == k && u.frame == f && u.unit == i && decide (2 ≤ u.stage)

/-- The layer that slot `k` feeds; none where it feeds no single layer. -/
def State.slotLayer (s : State) (k : Nat) : Option Nat :=
  if s.fld (R.SCN_TRS_STREAM_no_layer k) = 1 then none else some (s.fld (R.SCN_TRS_STREAM_layer k))

/-- The slots of a marker that are not ready; a fenced layer's stream is always ready (R191). -/
def State.lateSlots (s : State) (m : Marker) : List Nat :=
  m.entries.filterMap fun e =>
    match s.slotOfStream e.1 with
    | none => none
    | some k =>
      if s.unitsReady k m.frame e.2 || ((s.slotLayer k).map s.fenced).getD false then none else some k

/-! ## Due and ready (R184, R186) -/

/-- Whether group `g` is due at boundary time `t` (R184). -/
def State.due (s : State) (g t : Nat) : Bool :=
  match s.fld (R.CLP_GROUP_CFG_source g) with
  | 0 => match Store.get (fun _ => none) s.clp.arms g with
    | some (at_, _) => decide (at_ ≤ t)
    | none => false
  | 1 => true
  | _ => match s.stagingMarker g with
    | some m => decide (m.clampTime ≤ t)
    | none => false

/-- What keeps group `g` from being ready now (R186). -/
def State.late (s : State) (g : Nat) : Late :=
  let slots := if s.fld (R.CLP_GROUP_CFG_source g) = 2 then ((s.stagingMarker g).map s.lateSlots).getD [] else []
  let ls := slots.filterMap s.slotLayer
  { layers := ls.foldl (fun m n => m ||| 2 ^ n) 0
    vcf := s.fld R.SCN_VIEW_CTRL_group == g && s.scn.waiting.any fun w => w.2.1 == 1
    sqc := s.scn.waiting.any fun w => w.2.1 == 2 && w.2.2 == g
    copy := s.scn.copying.any fun f => f.group == g
    other := decide (ls.length < slots.length) }

def Late.ready (l : Late) : Bool := l.layers == 0 && !l.vcf && !l.sqc && !l.copy && !l.other

/-- The first contributor of CLAMP_LATE. -/
def Late.first (l : Late) : Nat :=
  match (setBits 64 l.layers).head? with
  | some n => n
  | none => if l.vcf then 64 else if l.sqc then 65 else if l.copy then 66 else 0

/-- The scene frame number that group `g` will commit next (R188). -/
def State.nextFrame (s : State) (g : Nat) : Nat :=
  if s.fld (R.CLP_GROUP_CFG_source g) = 2 then (s.stagingFrame g).getD 0
  else (s.fld (R.CLP_GROUP_FRAME_frame g) + 1) % 2 ^ 32

/-- Whether group `g` clamps with its wall (R195, R196). -/
def State.wallGroup (s : State) (g : Nat) : Bool :=
  s.fld (R.CLP_GROUP_CFG_wall g) == 1 && s.fld R.WVL_WALL_CFG_enable == 1 && s.fld (R.CLP_GROUP_STATUS_alone g) == 0

/-- The decision for wall group `g`: 0 none, 1 hold, 2 clamp. -/
def State.decisionOf (s : State) (g : Nat) : Nat := Store.get (fun _ => 0) s.clp.decision g

/-- The wall's frame period P, 1/64 ns (R324). -/
def State.wallPeriod (s : State) : Nat :=
  if s.pnl.rate = 0 then 0 else (64 * 10 ^ 11 + s.pnl.rate / 2) / s.pnl.rate

/-- The index of the wall boundary nearest to PTP time `t` (R324). -/
def State.boundaryIndex (s : State) (t : Nat) : Nat :=
  if s.wallPeriod = 0 then 0 else (2 * (64 * (t - s.wvl.base.getD 0)) + s.wallPeriod) / (2 * s.wallPeriod)

/-- The decision for wall group `g` at the boundary with index `n`: one that names another boundary does not count (R328). -/
def State.decisionAt (s : State) (g n : Nat) : Nat :=
  if Store.get (fun _ => 0) s.clp.decisionAt g = n then s.decisionOf g else 0

/-- What the cut-off of boundary `n` found of wall group `g`. -/
def State.sampleOf (s : State) (g n : Nat) : Option CutOff :=
  (Store.get (fun _ => none) s.clp.samples g).filter fun x => x.n == n

/-- Whether group `g` is due and what keeps it from being ready at the boundary at time `t`: as the cut-off found a wall group, as
the boundary finds every other (R186, R195). -/
def State.sampled (s : State) (g t : Nat) : Bool × Late :=
  match (if s.wallGroup g then s.sampleOf g (s.boundaryIndex t) else none) with
  | some x => (x.due, x.late)
  | none => (s.due g t, s.late g)

/-! ## Holding (R189, R196) -/

/-- Group `g` holds at this boundary; `l` is what keeps it from being ready, nothing where another module of the wall does. -/
def State.holdGroup (s : State) (g : Nat) (l : Late) : State :=
  let other := s.wallGroup g && l.ready
  let f := s.nextFrame g
  let first := !(Store.get (fun _ => false) (if other then s.clp.wallSaid else s.clp.lateSaid) g)
  let full := s.fld (R.CLP_GROUP_STATUS_holds g)
  let s := (s.setFld (R.CLP_GROUP_STATUS_holding g) 1).setFld (R.CLP_GROUP_STATUS_wall_held g) (bit other)
  let s := (s.setFld (R.CLP_GROUP_STATUS_vcf g) (bit l.vcf)).setFld (R.CLP_GROUP_STATUS_sqc g) (bit l.sqc)
  let s := (s.setFld (R.CLP_GROUP_STATUS_copy g) (bit l.copy)).setFld (R.CLP_GROUP_LATE_layers g) l.layers
  let s := (s.bump (R.CLP_GROUP_STATUS_holds g)).count (R.CLP_GROUP_CNT_count g 1) 1
  let s := if other then s.count (R.CLP_GROUP_CNT_count g 2) 1 else s
  let s := if first && other then
      ({ s with clp := { s.clp with wallSaid := Store.set (fun _ => false) s.clp.wallSaid g true } }).post 0x05A4 g
        (Store.get (fun _ => 0) s.clp.notReady g + f % 65536 * 65536)
    else if first then
      let s := { s with clp := { s.clp with
        lateSaid := Store.set (fun _ => false) s.clp.lateSaid g true
        lateLayers := Store.set (fun _ => 0) s.clp.lateLayers g l.layers } }
      let s := (setBits 64 l.layers).foldl (fun s' n => s'.setFld (R.SCN_LAYER_STATUS_late n) 1) s
      s.post 0x05A0 g (l.first + f % 65536 * 65536)
    else s
  let h := s.fld (R.CLP_GROUP_STATUS_holds g)
  let lim := s.fld (R.CLP_GROUP_CFG_hold_limit g)
  if lim ≠ 0 ∧ h ≠ full ∧ h % lim = 0 then s.post 0x05A1 g (h + f % 65536 * 65536) else s

/-- The group whose clamp applies check region `c`'s shadow definition (R164, R178). -/
def State.checkGroup (s : State) (c : Nat) : Nat :=
  let d := s.checkShadow c
  if d.enable then d.group else (s.checkAct c).group

/-- What this boundary finds for key `key` (g, or 16 + k) is kept for the application point (R34, R186). -/
def State.takeSnap (s : State) (key : Nat) : State :=
  let cs := (s.glu.dirty.filter fun c => s.checkGroup c == key).map fun c => (c, s.checkShadow c)
  { s with clp := { s.clp with due := { s.clp.due with
    snaps := s.clp.due.snaps.filter (fun x => x.key != key) ++ [⟨key, s.regs, cs, s.scn.releasing, s.nextFrame key⟩] } } }

/-- A decision for wall group `g` at boundary `n` or before is used up. -/
def State.dropDecision (s : State) (g n : Nat) : State :=
  if Store.get (fun _ => 0) s.clp.decisionAt g ≤ n then
    { s with clp := { s.clp with decision := Store.set (fun _ => 0) s.clp.decision g 0 } }
  else s

/-- Samples group `g` at its boundary at time `t`: it clamps, holds, or is not due; a wall group clamps where the decision for this
boundary says so (R184, R186, R195, R328). -/
def State.sampleGroup (s : State) (t g : Nat) : State :=
  let n := s.boundaryIndex t
  let (due, l) := s.sampled g t
  let go := if s.wallGroup g then s.decisionAt g n == 2 else due && l.ready
  let s := if go then
      ({ s with clp := { s.clp with due := { s.clp.due with groups := s.clp.due.groups ++ [(g, t)] } } }).takeSnap g
    else if due then s.holdGroup g l
    else (s.setFld (R.CLP_GROUP_STATUS_holding g) 0).setFld (R.CLP_GROUP_STATUS_wall_held g) 0
  s.dropDecision g n

/-! ## Fences at a boundary (R192, R193) -/

/-- Whether the fence of layer `k` has reached its wait value (R192). -/
def State.fenceReached (s : State) (k : Nat) : Bool :=
  decide ((s.fld (R.CLP_FENCE_VALUE_value k) + 2 ^ 32 - s.fld (R.CLP_FENCE_WAIT_value k)) % 2 ^ 32 < 2 ^ 31)

/-- Ends the arm of fenced layer `k`. -/
def State.endArm (s : State) (k : Nat) (i : Item) : State :=
  match Store.get (fun _ => none) s.clp.fences k with
  | none => s
  | some a =>
    let s := { s with clp := { s.clp with fences := Store.set (fun _ => none) s.clp.fences k none } }
    let s := (s.setFld (R.CLP_FENCE_STATE_armed k) 0).setFld (R.CLP_FENCE_STATE_frames_left k) 0
    s.itemDone a.cmd 0 i

/-- Layer `k` is to flip at the application point of this boundary. -/
def State.dueFlip (s : State) (k : Nat) : State :=
  ({ s with clp := { s.clp with due := { s.clp.due with flips := s.clp.due.flips ++ [k] } } }).takeSnap (16 + k)

/-- The armed fence `k` at a boundary of its segment (R193). -/
def State.sampleFence (s : State) (k : Nat) : State :=
  match Store.get (fun _ => none) s.clp.fences k with
  | none => s
  | some a =>
    let passed := a.passed + 1
    if s.fenceReached k then (s.dueFlip k).endArm k ⟨stDone, 0, 0⟩
    else if a.timeout ≠ 0 ∧ a.timeout ≤ passed then
      let any := s.fld (R.CLP_FENCE_STATE_flip_anyway k)
      let s := s.post 0x05A2 k (any + s.fld (R.CLP_FENCE_VALUE_value k) % 65536 * 65536)
      if any = 1 then (s.dueFlip k).endArm k ⟨stDone, 1, 0⟩ else s.endArm k ⟨stLimit, 1, 0⟩
    else
      let s := { s with clp := { s.clp with fences := Store.set (fun _ => none) s.clp.fences k (some { a with passed := passed }) } }
      if a.timeout = 0 then s else s.setFld (R.CLP_FENCE_STATE_frames_left k) (a.timeout - passed)

/-- CLAMP_BOUNDARY. -/
def execClampBoundary (seg : Nat) (s : State) : Host.Outcome State Fault Refusal :=
  .next (match Store.get (fun _ => none) s.clp.boundary seg with
    | none => s
    | some t =>
      let s := { s with clp := { s.clp with boundary := Store.set (fun _ => none) s.clp.boundary seg none } }
      let s := (s.groupsAt seg).foldl (fun s' g => s'.sampleGroup t g) s
      ((List.range 8).filter fun k => s.segOrZero (s.fld (R.CLP_FENCE_CFG_seg k)) == seg).foldl State.sampleFence s)

/-! ## Applying layers (R34, R39, R44, R204) -/

/-- The shadow registers that the application point makes active for a key: those that its boundary found (R34). -/
def State.snapOf (s : State) (key : Nat) : Snap :=
  (s.clp.due.snaps.find? fun x => x.key == key).getD
    ⟨key, s.regs, (s.glu.dirty.filter fun c => s.checkGroup c == key).map fun c => (c, s.checkShadow c), s.scn.releasing, s.nextFrame key⟩

/-- A shadow register as the boundary found it. -/
def Snap.reg (x : Snap) (off : Nat) : RegWord := Store.get resetReg x.regs off

/-- Copies a register's value at the boundary to its active value. -/
def State.takeShd (s : State) (x : Snap) (off : Nat) : State := s.setAct off (x.reg off)

/-- The registers of layer `n` that a clamp makes active. -/
def layerRegs (n : Nat) : List Nat :=
  [R.SCN_LAYER_CFG n, R.SCN_LAYER_SRC n, R.SCN_LAYER_DST n, R.SCN_LAYER_POS n, R.SCN_LAYER_ZA n, R.SCN_LAYER_ZB n,
   R.SCN_LAYER_ZC n, R.SCN_LAYER_ZK n, R.SCN_LAYER_BASE n, R.SCN_LAYER_PITCH n, R.SCN_LAYER_KEYMIN n, R.SCN_LAYER_KEYMAX n,
   R.SCN_LAYER_COLOUR n, R.SCN_LAYER_COLOUR_B n] ++
  (if n < 32 then ((List.range 4).map fun j => R.SCN_LAYER_MATRIX n j) ++ [R.SCN_LAYER_MATRIX8 n]
   else (List.range 256).map fun i => R.SCN_PALETTE (n - 32) i)

/-- Whether a change of layer `n` from `old` damages its footprint: any field but group, base and pitch (R39, R199). -/
def State.layerChanged (s old : State) (n : Nat) : Bool :=
  let plain := fun (l : Layer) => { l with group := 0, base := 0, pitch := 0 }
  plain (s.activeLayer n) != plain (old.activeLayer n) ||
  (decide (32 ≤ n) && (List.range 256).any fun i => s.act (R.SCN_PALETTE (n - 32) i) != old.act (R.SCN_PALETTE (n - 32) i))

/-! ## Decode streams (R119, R121, R122) -/

def State.decStream (s : State) (k : Nat) : Option DecStream := Store.get (fun _ => none) s.dec.streams k

def State.setDecStream (s : State) (k : Nat) (d : Option DecStream) : State :=
  { s with dec := { s.dec with streams := Store.set (fun _ => none) s.dec.streams k d } }

/-- The capacity C of a pipe (R119). -/
def pipeC : Nat := 2139095040

/-- The sum of the loads of pipe `p`, samples per second × 16; stream `but` left out. -/
def State.pipeLoad (s : State) (p but : Nat) : Nat :=
  ((List.range 64).map fun k =>
    if k = but then 0 else
    match s.decStream k with
    | some d => if d.pipe = p then d.load else 0
    | none => 0).sum

/-- Shows the load of pipe `p` (DEC_PIPE_LOAD). -/
def State.showPipe (s : State) (p : Nat) : State :=
  let n := ((List.range 64).filter fun k => match s.decStream k with
    | some d => d.pipe == p
    | none => false).length
  (s.setFld (R.DEC_PIPE_LOAD_load p) (ceilDiv (s.pipeLoad p 64 * 65536) (16 * pipeC))).setFld (R.DEC_PIPE_LOAD_streams p) n

/-- The pages that decode streams hold: first page and count; stream `but` left out. -/
def State.poolTaken (s : State) (but : Nat) : List (Nat × Nat) :=
  ((List.range 64).filterMap fun k => if k = but then none else s.decStream k).flatMap DecStream.runs

/-- Shows the free pages of the pool. -/
def State.showPool (s : State) : State :=
  s.setFld R.DEC_POOL_FREE_pages (256 * s.fld R.DEC_POOL_SIZE_mib - ((s.poolTaken 64).map Prod.snd).sum)

/-- Frees the assignment of decode stream `k` = 2 n + depth, and its pool space (R121). -/
def State.freeDecode (s : State) (k : Nat) : State :=
  match s.decStream k with
  | none => s
  | some d =>
    let s := ((s.setDecStream k none).showPipe d.pipe).showPool
    let n := k / 2
    if k % 2 = 0 then
      ((s.setFld (R.DEC_LAYER_CFG_assigned n) 0).setFld (R.DEC_LAYER_CFG_pipe n) 0).setFld (R.DEC_LAYER_CFG_rate n) 0
    else (s.setFld (R.DEC_LAYER_CFG_depth_assigned n) 0).setFld (R.DEC_LAYER_CFG_depth_pipe n) 0

/-- The shadow of layer `n`, as the boundary found it, becomes active; the ratios and steps in force follow a new size or ratio
(R34, R44, R136). -/
def State.applyLayer (s : State) (x : Snap) (n : Nat) : State :=
  let was := s.activeLayer n
  let s := (layerRegs n).foldl (fun s' o => s'.takeShd x o) s
  let l := s.activeLayer n
  let s := s.setFld (R.SCN_LAYER_STATUS_active n) (bit l.enable)
  let s := if isVideo n && (l.w, l.h, l.dw, l.dh) != (was.w, was.h, was.dw, was.dh) then
      let s := (s.setFld (R.SCN_LAYER_CFG_dh n) l.ratioX).setFld (R.SCN_LAYER_CFG_dv n) l.ratioY
      (s.setFld (R.SCN_LAYER_STEP_step_x n) l.stepX).setFld (R.SCN_LAYER_STEP_step_y n) l.stepY
    else s
  if s.scn.releasing.contains n && x.releasing.contains n && !l.enable then
    let s := (s.setFld (R.SCN_LAYER_STATUS_owned n) 0).setFld (R.SCN_LAYER_STATUS_owner n) 0
    let s := { s with scn := { s.scn with releasing := s.scn.releasing.filter fun y => y != n } }
    if isVideo n then (s.freeDecode (2 * n)).freeDecode (2 * n + 1) else s
  else s

/-- A picture of a layer in fence mode waits for its flip; `had` says that it replaces one that waited (R191). -/
def State.showStaged (s : State) (n : Nat) (had : Bool) : State :=
  if s.fenced n then
    (if had then s.bump (R.CLP_FENCE_STATE_replaced n) else s).setFld (R.CLP_FENCE_STATE_staged n) 1
  else s

/-- The jobs whose synthesis runs. -/
def State.synthJobs (s : State) : List Nat := (s.sch.jobs.filter fun j => j.stage == .synth).map Job.id

/-- The staged picture of decode stream `k` becomes active and its damage joins map `m`; the picture displaced stays until every
region whose synthesis has started is synthesised (R100, R123, R205). -/
def State.activatePicture (s : State) (m k : Nat) : State :=
  match s.decStream k with
  | none => s
  | some d =>
    let s := s.pend m (d.stagedDamage.flatMap Prod.snd)
    let gone := match d.staged, d.active with
      | some _, some old => [(old, s.synthJobs)]
      | _, _ => []
    s.setDecStream k (some { d with
      active := d.staged.orElse fun _ => d.active, staged := none, stagedDamage := [], retired := d.retired ++ gone })

/-- Pictures decoded ahead become the staged ones once their scene frame is the staging frame (R123, R191). -/
def State.promoteAhead (s : State) (g : Nat) : State :=
  match s.stagingFrame g with
  | none => s
  | some f =>
    (List.range 64).foldl (fun s' k =>
      match s'.decStream k with
      | none => s'
      | some d =>
        let mine := (List.range 64).any fun v => s'.slotGroup v == g && s'.slotLayer v == some (k / 2)
        if mine = false then s'
        else
          let come := d.aheadDamage.filter fun e => frameAtOrBefore e.1 f
          let d := { d with
            stagedDamage := d.stagedDamage ++ come, aheadDamage := d.aheadDamage.filter fun e => !frameAtOrBefore e.1 f }
          if d.ahead.isSome && frameAtOrBefore d.aheadFrame f then
            (s'.showStaged (k / 2) d.staged.isSome).setDecStream k
              (some { d with staged := d.ahead, stagedFrame := d.aheadFrame, ahead := none })
          else s'.setDecStream k (some d)) s

/-- Whether slot `v` still owes a unit of scene frame `f` for decode stream `k`: one that has begun, or that a marker names, and is
neither delivered nor lost. -/
def State.owes (s : State) (v k f : Nat) : Bool :=
  let type := 1 + k % 2
  s.slotLayer v == some (k / 2) && s.fld (R.SCN_TRS_STREAM_enable v) == 1 && (Store.get (fun _ => {}) s.trs.streams v).types.testBit (type - 1) &&
  ((s.trs.units.any fun u => u.slot == v && u.type == type && u.frame == f && decide (u.stage < 2)) ||
   ((s.trsGroup (s.slotGroup v)).markers.any fun m => m.frame == f && m.entries.any fun e =>
      e.1 == s.fld (R.SCN_TRS_STREAM_stream_id v) && !s.unitsReady v f e.2))

/-- Whether a height-field layer's pair of pictures of the staged scene frame is incomplete (R126). -/
def State.pairOpen (s : State) (n : Nat) : Bool :=
  (s.activeLayer n).kind == 1 && [(2 * n, 2 * n + 1), (2 * n + 1, 2 * n)].any fun e =>
    match s.decStream e.1 with
    | some d => d.staged.isSome && (List.range 64).any fun v => s.owes v e.2 d.stagedFrame
    | none => false

/-- Layer `n` takes its staged colour and depth pictures, with their damage in map `m`; an incomplete pair waits (R126). -/
def State.activatePictures (s : State) (m n : Nat) : State :=
  if isVideo n && !s.pairOpen n then (s.activatePicture m (2 * n)).activatePicture m (2 * n + 1) else s

/-! ## The parts of a clamp (R187 step 2) -/

/-- The staging copy of TILE-fed layer `n` becomes active: the two bases swap (R92). -/
def State.swapTiles (s : State) (g n : Nat) : State :=
  let rects := (s.trs.tiles.filter fun t => t.1 == n).map Prod.snd
  match s.tileSlot n, rects with
  | some k, _ :: _ =>
    let b := s.fld (R.SCN_LAYER_BASE_base n)
    let a := s.fld (R.SCN_TRS_ALTBASE_base k)
    let s := ((s.setFld (R.SCN_LAYER_BASE_base n) a).setActFld (R.SCN_LAYER_BASE_base n) a).setFld (R.SCN_TRS_ALTBASE_base k) b
    { s with trs := { s.trs with tiles := s.trs.tiles.filter fun t => t.1 != n }
             scn := { s.scn with copying := s.scn.copying ++ [⟨0, g, n, rects, []⟩] } }
  | none, _ :: _ =>
    -- R93: the binding is gone; its staging copy becomes active and nothing is copied forward
    let a := Store.get (fun _ => 0) s.trs.loose n
    let s := { s with trs := { s.trs with
      tiles := s.trs.tiles.filter fun t => t.1 != n
      loose := Store.set (fun _ => 0) s.trs.loose n 0 } }
    if a = 0 then s else (s.setFld (R.SCN_LAYER_BASE_base n) a).setActFld (R.SCN_LAYER_BASE_base n) a
  | _, _ => s

/-- The slope registers. -/
def slopeRegs : List Nat := (List.range 256).map R.SCN_VIEW_SLOPE

/-- The view state of the clamp of SCN_VIEW_CTRL.group: slopes, correction field, vcf_floor (R22 to R26, R30, R203). -/
def State.applyViews (s : State) (x : Snap) (g : Nat) : State :=
  let corr := fieldGet (x.reg R.SCN_VIEW_CTRL) R.SCN_VIEW_CTRL_corr_enable.lo R.SCN_VIEW_CTRL_corr_enable.w
  let s := if s.scn.vcfStale then
      let s := ((s.setFld R.SCN_VIEW_CTRL_corr_enable 0).setActFld R.SCN_VIEW_CTRL_corr_enable 0).post 0x0540 0 (s.vx + s.vy * 256)
      { s with scn := { s.scn with vcfStale := false } }
    else s.setActFld R.SCN_VIEW_CTRL_corr_enable corr
  let s := slopeRegs.foldl (fun s' o => s'.takeShd x o) s
  let s := s.takeShd x R.DMG_KERF_CFG
  let s := if s.scn.slopeLoaded then
      { (s.setFld R.SCN_VIEW_CTRL_sw_table 1) with scn := { (s.setFld R.SCN_VIEW_CTRL_sw_table 1).scn with slopeLoaded := false } }
    else s
  match s.scn.vcfRects with
  | [] => s
  | rs => { s with scn := { s.scn with vcfCopy := 1 - s.scn.vcfCopy, vcfRects := [], vcfRegions := [], copying := s.scn.copying ++ [⟨1, g, 0, rs, []⟩] } }

/-- The background words of R162. -/
def State.bgWords (s : State) : State :=
  (List.range 4).foldl (fun s' g =>
    s'.setFld (R.GLU_BG_WORD_word g) (plainWord s'.depth (s'.actFld (R.GLU_BG_r g)) (s'.actFld (R.GLU_BG_g g)) (s'.actFld (R.GLU_BG_b g)))) s

/-- GLU_CFG and GLU_BG become active (R159, R162). -/
def State.applyGlue (s : State) (x : Snap) : State :=
  let s := (List.range 4).foldl (fun s' g => s'.takeShd x (R.GLU_BG g)) (s.takeShd x R.GLU_CFG)
  s.bgWords

/-- The safe word of check region `c`. -/
def State.safeWord (s : State) (c : Nat) : State :=
  s.setFld (R.GLU_SQC_SAFE_WORD_word c)
    (plainWord s.depth (s.fld (R.GLU_SQC_SAFE_r c)) (s.fld (R.GLU_SQC_SAFE_g c)) (s.fld (R.GLU_SQC_SAFE_b c)))

/-- First comparisons of check region `c` that no running synthesis will settle count as unchecked (R177; log entry 15). -/
def State.settleLost (s : State) (c : Nat) : State :=
  let running := (s.sch.jobs.filter fun j => j.stage == .synth).map Job.region
  let lost := s.glu.pending.filter fun p => p.2 == c && !running.contains p.1
  let s := lost.foldl (fun s' _ => s'.countCheck c 6) s
  { s with glu := { s.glu with pending := s.glu.pending.filter fun p => !lost.contains p } }

/-- The disable of check region `c` reaches its clamp: substituted members become dirty, marks are cleared, and re-syntheses not
yet started are abandoned, their regions sent as ordinary ones (R173, R174). -/
def State.applyDisable (s : State) (c : Nat) : State :=
  let ms := (s.members (s.checkAct c)).filter fun r => s.glu.substituted.contains r
  let again := (s.sch.again.filter fun a => a.check == c).map Again.region ++
    (s.sch.jobs.filter fun j => j.again && (j.stage == .filling || j.stage == .filled) && (j.check.map Prod.fst) == some c).map Job.region
  let s := again.foldl State.requeue s
  let s := s.setFld (R.GLU_SQC_CTL_enable c) 0
  let s := ms.foldl (fun s' r => s'.clearSub r c) s
  (s.markAll ms).settleLost c

/-- Definition `d` of check region `c` becomes active (R164); a later one stays in shadow state. -/
def State.applyCheck (s : State) (c : Nat) (d : CheckDef) : State :=
  let s := if s.checkShadow c = d then { s with glu := { s.glu with dirty := s.glu.dirty.filter fun x => x != c } } else s
  if d.enable then
    let s := (s.setFld (R.GLU_SQC_CTL_enable c) 1).setFld (R.GLU_SQC_CTL_group c) d.group
    let s := (s.setFld (R.GLU_SQC_ORG_gx0 c) d.gx0).setFld (R.GLU_SQC_ORG_gy0 c) d.gy0
    let s := (s.setFld (R.GLU_SQC_SIZE_gw c) d.gw).setFld (R.GLU_SQC_SIZE_gh c) d.gh
    (s.setReg (R.GLU_SQC_SAFE c) (BitVec.ofNat 64 d.safe)).safeWord c
  else
    let s := if (s.checkAct c).enable then s.applyDisable c else s
    if s.glu.releasing.contains c then
      { (s.setFld (R.GLU_SQC_CTL_owned c) 0).setFld (R.GLU_SQC_CTL_owner c) 0 with
        glu := { s.glu with releasing := s.glu.releasing.filter fun x => x != c } }
    else s

/-- The signatures loaded for check region `c` take effect: its copies swap, and the entries are copied forward (R168). -/
def State.applySignatures (s : State) (g c : Nat) (ms : List Nat) : State :=
  let s := (s.setFld (R.GLU_SQC_CTL_copy c) (1 - s.fld (R.GLU_SQC_CTL_copy c))).setFld (R.GLU_SQC_CTL_loading c) 1
  { s with glu := { s.glu with loaded := Store.set (fun _ => []) s.glu.loaded c [] }
           scn := { s.scn with copying := s.scn.copying ++ [⟨2, g, c, [], ms⟩] } }

/-- Check definitions and signatures of the clamp of group `g`: a clamp that applies a definition or a disable also applies what is
loaded for it (R164, R168). -/
def State.applyChecks (s : State) (x : Snap) (g : Nat) : State :=
  let loaded := s.glu.loaded.filter fun e =>
    (x.checks.any fun d => d.1 == e.1) || ((s.checkAct e.1).group == g && (s.checkAct e.1).enable)
  let s := x.checks.foldl (fun s' d => s'.applyCheck d.1 d.2) s
  loaded.foldl (fun s' e => s'.applySignatures g e.1 e.2) s

/-- The scene frame of group `g` is committed and its frame number and time are shown (R104, R188, R197). -/
def State.commitFrame (s : State) (x : Snap) (g t : Nat) (bus : Bus) : State :=
  let f := x.frame
  let source := fieldGet (x.reg (R.CLP_GROUP_CFG g)) 0 2
  let walled := s.wallGroup g && source != 2
  let f := if walled then Store.get (fun _ => f) s.clp.decisionFrame g else f
  let s := (s.setFld (R.CLP_GROUP_FRAME_frame g) f).setFld (R.CLP_GROUP_TIME_time g) t
  let s := s.count (R.CLP_GROUP_CNT_count g 0) 1
  let s := (setBits 64 (Store.get (fun _ => 0) s.clp.lateLayers g)).foldl (fun s' n => s'.setFld (R.SCN_LAYER_STATUS_late n) 0) s
  let s := ((s.setFld (R.CLP_GROUP_LATE_layers g) 0).setFld (R.CLP_GROUP_STATUS_holds g) 0).setFld (R.CLP_GROUP_STATUS_holding g) 0
  let s := ((s.setFld (R.CLP_GROUP_STATUS_vcf g) 0).setFld (R.CLP_GROUP_STATUS_sqc g) 0).setFld (R.CLP_GROUP_STATUS_copy g) 0
  let s := s.setFld (R.CLP_GROUP_STATUS_wall_held g) 0
  let s := { s with clp := { s.clp with
    lateSaid := Store.set (fun _ => false) s.clp.lateSaid g false
    wallSaid := Store.set (fun _ => false) s.clp.wallSaid g false
    lateLayers := Store.set (fun _ => 0) s.clp.lateLayers g 0 } }
  if source = 2 then
    let left := (s.trsGroup g).markers.filter fun m => !frameAtOrBefore m.frame f
    let s := s.setTrsGroup g { committed := some f, markers := left, stagedAt := s.ptp.f }
    let s := { s with trs := { s.trs with
      units := s.trs.units.filter fun u => !(s.slotGroup u.slot == g && frameAtOrBefore u.frame f && decide (2 ≤ u.stage)) } }
    let s := s.promoteAhead g
    match s.stagingMarker g with
    | some m => if m.clampTime ≤ t then s.count (R.CLP_GROUP_CNT_count g 3) 1 else s
    | none => s
  else if source ≠ 0 then s
  else
    match Store.get (fun _ => none) s.clp.arms g with
    | some (_, id) =>
      let s := { s with clp := { s.clp with arms := Store.set (fun _ => none) s.clp.arms g none } }
      let s := s.setFld (R.CLP_GROUP_STATUS_armed g) 0
      (match id with
        | some k => s.itemDone k 0 ⟨stDone, 0, f⟩
        | none => s)
    | none => s

/-- Fence mode of the fenced layers in group `g` (R191, R198). -/
def State.applyFenceMode (s : State) (x : Snap) (g k : Nat) : State :=
  if s.actFld (R.SCN_LAYER_CFG_group k) ≠ g then s
  else
    let was := s.fenced k
    let mode := R.CLP_FENCE_CFG_fence_mode k
    let s := s.setActFld mode (fieldGet (x.reg mode.off) mode.lo mode.w)
    if was && !(s.fenced k) then
      let s := match Store.get (fun _ => none) s.clp.fences k with
        | some a =>
          let s := { s with clp := { s.clp with fences := Store.set (fun _ => none) s.clp.fences k none } }
          ((s.setFld (R.CLP_FENCE_STATE_armed k) 0).setFld (R.CLP_FENCE_STATE_frames_left k) 0).abort a.cmd stSoftware
        | none => s
      let s := s.setFld (R.CLP_FENCE_STATE_staged k) 0
      { s with clp := { s.clp with flipRegs := Store.set (fun _ => false) s.clp.flipRegs k false } }
    else s

/-- The shadow state of group `g` becomes active (R187 step 2). -/
def State.applyGroup (s : State) (x : Snap) (g : Nat) : State :=
  let mine := (List.range 64).filter fun n => s.actFld (R.SCN_LAYER_CFG_group n) == g && !(s.fenced n)
  let s := (List.range 8).foldl (fun s' k => s'.applyFenceMode x g k) s
  let s := mine.foldl (fun s' n => ((s'.applyLayer x n).activatePictures g n).swapTiles g n) s
  let s := if s.fld R.SCN_VIEW_CTRL_group = g then s.applyViews x g else s
  let s := if s.fld R.GLU_CFG_group = g then s.applyGlue x else s
  s.applyChecks x g

/-- Fenced layer `k` flips (R191, R193); what has come since the boundary, and a pair still incomplete, stay staged. -/
def State.applyFlip (s : State) (x : Snap) (k : Nat) : State :=
  let s := (s.applyLayer x k).activatePictures (16 + k) k
  let later := (layerRegs k).any fun o => s.reg o != x.reg o
  let waits := [2 * k, 2 * k + 1].any fun i => ((s.decStream i).bind DecStream.staged).isSome
  let s := s.setFld (R.CLP_FENCE_STATE_staged k) (bit (later || waits))
  { s with clp := { s.clp with flipRegs := Store.set (fun _ => false) s.clp.flipRegs k later } }

/-! ## After the active state has changed (R24, R39, R46, R187 step 3, R203 to R205, R207) -/

/-- Recomputes s_max and every kerf (R203, R204). -/
def State.reKerf (s : State) (smax : Nat) : State :=
  (List.range 64).foldl (fun s' n =>
    let z := (s'.activeLayer n).zmax
    (s'.setFld (R.DMG_LAYER_KERF_kerf n) (kerfOf z smax)).setFld (R.DMG_LAYER_KERF_zmax n) (ceilDiv z 256))
    (s.setFld R.DMG_SMAX_s_max smax)

/-- The regions of layer `n` before and after a change (R199, R204). -/
def State.bothFootprints (s old : State) (n : Nat) : List Nat :=
  old.footprint (old.activeLayer n) (old.kerf n) ++ s.footprint (s.activeLayer n) (s.kerf n)

/-- Region lists of `touched` are rebuilt: dropped layers are marked, counted and posted (R46). -/
def State.rebuildLists (s : State) (touched : List Nat) : State :=
  if touched.isEmpty then s
  else
    let fresh := (touched.eraseDups.flatMap s.droppedIn).map Layer.n
    let s := fresh.eraseDups.foldl (fun s' n => s'.setFld (R.SCN_LAYER_STATUS_dropped n) 1) s
    let all := s.regionDrops
    let s := s.showDrops
    let hit := all.filter fun p => !p.2.isEmpty
    match hit, fresh with
    | (r, _) :: _, _ :: _ =>
      let ls := (hit.flatMap Prod.snd).foldl (fun acc l => if acc.any (fun m => m.n == l.n) then acc else insertLayer l acc) []
      s.post 0x0500 (min 65535 hit.length) (r + ((ls.head?.map Layer.n).getD 0) * 65536 + ls.length % 64 * 4194304)
    | _, _ => s

/-- Whether the neighbour exists at the left, right, top and bottom edge of this module's tile (R332). -/
def State.seams (s : State) : Bool × Bool × Bool × Bool :=
  let on := s.fld R.WVL_WALL_CFG_enable == 1
  (on && s.fld R.WVL_WALL_CFG_x != 0, on && s.fld R.WVL_WALL_CFG_x != s.fld R.WVL_WALL_CFG_wx,
   on && s.fld R.WVL_WALL_CFG_y != 0, on && s.fld R.WVL_WALL_CFG_y != s.fld R.WVL_WALL_CFG_wy)

/-- Posts WALL_SCARF_SHORT for layer `n` where its kerf exceeds the scarf at a seam (R332). -/
def State.scarfCheck (s : State) (n : Nat) : State :=
  let l := s.activeLayer n
  let k := s.kerf n
  let (lft, rgt, top, bot) := s.seams
  let meets := (lft && decide (l.x0 - k ≤ 0)) || (rgt && decide ((s.hx : Int) ≤ l.x0 + l.dw + k)) ||
    (top && decide (l.y0 - k ≤ 0)) || (bot && decide ((s.hy : Int) ≤ l.y0 + l.dh + k))
  if l.enable && decide (s.fld R.WVL_WALL_CFG2_scarf < k) && meets then
    s.post 0x0D09 n (k % 4096 + s.fld R.WVL_WALL_CFG2_scarf * 4096)
  else s

/-- What follows once the active state has changed from `old`: kerfs, lists and damage (R187 step 3). -/
def State.afterApply (s old : State) (gs : List Nat) (flips : List Nat) : State :=
  let view := s.fld R.SCN_VIEW_CTRL_group
  let corr := s.actFld R.SCN_VIEW_CTRL_corr_enable
  let smax := if gs.contains view then s.slopeBound s.act (corr == 1) (s.actFld R.DMG_KERF_CFG_vcf_floor) else s.fld R.DMG_SMAX_s_max
  let s := s.reKerf smax
  let kerfs := (List.range 64).filter fun n => s.kerf n != old.kerf n
  let changed := (List.range 64).filter fun n => kerfs.contains n || s.layerChanged old n
  let touched := changed.flatMap fun n => s.bothFootprints old n
  -- one KERF_CHANGED per clamp
  let owner := fun n => if smax != old.fld R.DMG_SMAX_s_max then view else old.actFld (R.SCN_LAYER_CFG_group n)
  let s := (gs.filter fun g => kerfs.any fun n => owner n == g).foldl (fun s' g =>
    let ns := kerfs.filter fun n => owner n == g
    s'.post 0x05B1 g (ns.length + ((ns.map s'.kerf).foldl max 0) * 256)) s
  let s := s.rebuildLists touched
  -- damage: changed layers, pending maps, correction rectangles, backgrounds
  let maps := gs ++ flips.map fun k => 16 + k
  let pending := maps.flatMap fun m => Store.get (fun _ => []) s.dmg.maps m
  let vcf := if old.scn.vcfCopy != s.scn.vcfCopy then old.scn.vcfRegions else []
  let bg := s.allRegions.filter fun r => s.act (R.GLU_BG (s.segOfRegion r)) != old.act (R.GLU_BG (s.segOfRegion r))
  let s := s.markAll (touched ++ pending ++ vcf ++ (if gs.contains (s.fld R.GLU_CFG_group) then bg else []))
  let s := { s with dmg := { s.dmg with maps := maps.foldl (fun m k => Store.set (fun _ => []) m k []) s.dmg.maps } }
  let slopes := slopeRegs.any fun o => s.act o != old.act o
  let s := if slopes ∨ corr ≠ old.actFld R.SCN_VIEW_CTRL_corr_enable then s.wholeField 3 else s
  let s := if s.actFld R.GLU_CFG_dither ≠ old.actFld R.GLU_CFG_dither then s.wholeField 4 else s
  (List.range 64).foldl State.scarfCheck s

/-- Damage that waits for a flip of a layer no longer in fence mode waits for the next clamp of its group (R198). -/
def State.moveFenceMaps (s : State) : State :=
  ((List.range 8).filter fun k => !s.fenced k).foldl (fun s' k =>
    let rs := Store.get (fun _ => []) s'.dmg.maps (16 + k)
    let s' := s'.pend (s'.actFld (R.SCN_LAYER_CFG_group k)) rs
    { s' with dmg := { s'.dmg with maps := Store.set (fun _ => []) s'.dmg.maps (16 + k) [] } }) s

/-- Fills begun before the application point are discarded and begin again, each counted once: one that the clamp's damage has
already discarded since `old` is not counted again (R130). -/
def State.refill (s old : State) : State :=
  (s.sch.jobs.filter fun j => j.stage == .filling || j.stage == .filled).foldl (fun s' j =>
    let s' := s'.setJob { j with stage := .filling, texels := [] }
    if s'.fld (bayStat j.bay 5) = old.fld (bayStat j.bay 5) then s'.bump (bayStat j.bay 5) else s') s

/-- APPLICATION_POINT: the clamps and flips due take effect in one step (R187). -/
def execApplicationPoint (bus : Bus) (s : State) : Host.Outcome State Fault Refusal :=
  let d := s.clp.due
  .next (if d.groups.isEmpty && d.flips.isEmpty then s
    else
      let old := s
      let s := { s with clp := { s.clp with due := {} } }
      let gs := d.groups.map Prod.fst
      let s := gs.foldl (fun s' g => s'.applyGroup (old.snapOf g) g) s
      let s := d.flips.foldl (fun s' k => s'.applyFlip (old.snapOf (16 + k)) k) s
      let s := ((s.afterApply old gs d.flips).moveFenceMaps).refill old
      d.groups.foldl (fun s' g => s'.commitFrame (old.snapOf g.1) g.1 g.2 bus) s)

/-! ## Commands (R197, R198) -/

/-- CLAMP_ARM (R197). -/
def execClampArm (id : Nat) (bus : Bus) (s : State) : Host.Outcome State Fault Refusal :=
  .next (s.runOp id .clampArm fun c s =>
    let g := c.pb 16 0 4
    if s.fld (R.CLP_GROUP_CFG_source g) ≠ 0 then s.refuse c stBadParam 1
    else if (Store.get (fun _ => none) s.clp.arms g).isSome || s.deferFull c then s.refuse c stBusyRetry 0
    else
      let s := (s.defer c 1).setFld (R.CLP_GROUP_STATUS_armed g) 1
      { s with clp := { s.clp with arms := Store.set (fun _ => none) s.clp.arms g (some (c.p 8 8, some id)) } })

/-- FENCE_ARM (R193, R198). -/
def execFenceArm (id : Nat) (bus : Bus) (s : State) : Host.Outcome State Fault Refusal :=
  .next (s.runOp id .fenceArm fun c s =>
    let k := c.pb 14 0 3
    let t := c.p 12 2
    if s.fenced k = false then s.refuse c stBadParam 1
    else if s.mayUseLayer c.client k = false then s.refuse c stNotPermitted 0
    else if (Store.get (fun _ => none) s.clp.fences k).isSome || s.deferFull c then s.refuse c stBusyRetry 0
    else
      let s := (s.defer c 1).setFld (R.CLP_FENCE_WAIT_value k) (c.p 8 4)
      let s := ((s.setFld (R.CLP_FENCE_STATE_armed k) 1).setFld (R.CLP_FENCE_STATE_frames_left k) t).setFld (R.CLP_FENCE_STATE_flip_anyway k) (c.pb 15 0 1)
      { s with clp := { s.clp with fences := Store.set (fun _ => none) s.clp.fences k (some ⟨id, t, 0⟩) } })

end Sys2Proof.Machine
end

