-- ==== Sys2Proof/Machine/Lane.lean ====
section
/-! DEFINITION. The serial lanes: states, transmit taps and training (R276, R280 to R283, R287, R297). -/

namespace Sys2Proof.Machine

open Sys2Proof

/-! ## Transmit taps (R281, R282) -/

/-- The taps pre2, pre1, main and post1 of lane `i`, in codes. -/
def State.taps (s : State) (i : Nat) : List Int :=
  [sext 5 (s.fld (R.LAN_TXFFE_pre2 i)), sext 6 (s.fld (R.LAN_TXFFE_pre1 i)), (s.fld (R.LAN_TXFFE_main i) : Int),
   sext 6 (s.fld (R.LAN_TXFFE_post1 i))]

/-- Sets the taps of lane `i`. -/
def State.setTaps (s : State) (i : Nat) (t : List Int) : State :=
  let s := (s.setFld (R.LAN_TXFFE_pre2 i) (toField 5 (t.getD 0 0))).setFld (R.LAN_TXFFE_pre1 i) (toField 6 (t.getD 1 0))
  (s.setFld (R.LAN_TXFFE_main i) (toField 6 (t.getD 2 0))).setFld (R.LAN_TXFFE_post1 i) (toField 6 (t.getD 3 0))

/-- The range of tap `k`. -/
def tapRange (k : Nat) : Int × Int := [(-8, 8), (-24, 0), (24, 63), (-24, 0)].getD k (0, 0)

/-- Whether four taps meet their ranges and the sum limit of R281. -/
def tapsOk (t : List Int) : Bool :=
  (t.zip (List.range 4)).all (fun p => decide ((tapRange p.2).1 ≤ p.1) && decide (p.1 ≤ (tapRange p.2).2)) &&
  decide ((t.map Int.natAbs).sum ≤ 63)

/-- One request on tap `k`: 1 raises it, 2 lowers it; the new taps and the TAP_STATUS code (R254, R281). -/
def tapRequest (t : List Int) (k req : Nat) : List Int × Nat :=
  if req = 1 then
    let t' := t.set k (t.getD k 0 + 1)
    if tapsOk t' then (t', 1) else (t, 3)
  else if req = 2 then
    let t' := t.set k (t.getD k 0 - 1)
    if tapsOk t' then (t', 1) else (t, 2)
  else (t, 0)

/-- Four requests, taken in the order pre2, pre1, main, post1. -/
def tapRequests (t : List Int) (reqs : List Nat) : List Int × List Nat :=
  (List.range 4).foldl (fun acc k =>
    let r := tapRequest acc.1 k (reqs.getD k 0)
    (r.1, acc.2 ++ [r.2])) (t, [])

/-- The requests of TRAIN byte 3. -/
def tapBits (b : Nat) : List Nat := (List.range 4).map fun k => bitsOf b (2 * k) 2

/-- Four codes of TAP_STATUS in one byte. -/
def tapByte (l : List Nat) : Nat := (List.range 4).foldl (fun a k => a + l.getD k 0 * 4 ^ k) 0

/-- The transmit presets of R282. -/
def tapPreset (n : Nat) : List Int :=
  [[0, 0, 63, 0], [0, -4, 55, -4], [0, -8, 47, -8], [0, 0, 51, -12], [0, -6, 45, -12], [2, -8, 43, -10], [0, -12, 45, -6],
   [2, -10, 35, -16]].getD n [0, 0, 63, 0]

/-- Counts tap steps and refused requests (LAN_CNT[3], [4]). -/
def State.countTaps (s : State) (i : Nat) (codes : List Nat) : State :=
  (s.bumpBy (R.LAN_CNT_count i 3) (codes.filter fun c => c == 1).length).bumpBy (R.LAN_CNT_count i 4)
    (codes.filter fun c => c == 2 || c == 3).length

/-- The taps a lane last trained to, as its story-pole record holds them (R282; log entry 30). -/
def State.tapHistory (s : State) (i : Nat) : Option (List Int) :=
  (s.inForce 2 i).map fun r => (List.range 4).map fun k => sext 8 (byteAt r.body k).toNat

/-- The taps of a lane are recorded in the story pole (R282). -/
def State.recordTaps (s : State) (i : Nat) : State :=
  s.record { kind := 2, key := i, body := (s.taps i).map fun t => BitVec.ofNat 8 (toField 8 t) }

/-! ## Lane states -/

/-- The lane with panel group `q` and number `p` (R276). -/
def panelLane (q p : Nat) : Nat := 12 * q + p

/-- Sets a lane's state: entering ACTIVE but from QUIET makes its figures invalid until the next set (R287), and leaving
ACTIVE breaks a measurement that runs (R296). -/
def State.setLane (s : State) (i st : Nat) : State :=
  let was := s.fld (R.LAN_STATUS_state i)
  let s := s.setFld (R.LAN_STATUS_state i) st
  let s := if st = 3 ∧ was ≠ 3 ∧ was ≠ 4 then s.setFld (R.LAN_EYE_valid i) 0 else s
  if was = 3 ∧ st ≠ 3 then
    { s with lan := { s.lan with measures := s.lan.measures.map fun m => if m.lane == i && m.running then { m with broken := true } else m } }
  else s

/-- A lane begins training at 26.5625 GBd: taps from history, or from its preset, on an Ethernet lane the standard's (R282); precoding of
a panel lane as configured (R280). -/
def State.trainLane (s : State) (i : Nat) : State :=
  let s := (s.setLane i 2).bump (R.LAN_CNT_count i 0)
  let s := if i < 192 then s.setFld (R.LAN_STATUS_precoding i) (s.fld (R.LAN_CFG_precode i)) else s
  let s := s.setFld (R.LAN_STATUS_rate i) 425
  let n := s.fld (R.LAN_CFG_preset i)
  let preset := if 192 ≤ i ∧ i < 224 then Config.standardPreset n else tapPreset n
  s.setTaps i (if s.fld (R.LAN_CFG_use_history i) = 1 then (s.tapHistory i).getD preset else preset)

/-- A lane's training has ended well. -/
def State.laneTrained (s : State) (i : Nat) : State :=
  { s with lan := { s.lan with fails := Store.set (fun _ => 0) s.lan.fails i 0 } }

/-- A lane's training has failed: FAULT, counted, and LANE_TRAIN_FAIL posted. -/
def State.laneFailed (s : State) (i : Nat) : State :=
  let n := Store.get (fun _ => 0) s.lan.fails i + 1
  let s := (s.setLane i 5).bump (R.LAN_CNT_count i 1)
  { s with lan := { s.lan with fails := Store.set (fun _ => 0) s.lan.fails i n } }.post 0x0610 i (min n 255)

/-- What a PCIe or Ethernet lane's training under its standard leaves: codes that meet R281 are its taps, and are recorded (R282, R291,
R292). -/
def State.standardTaps (s : State) (i : Nat) (t : List Int) : State := if tapsOk t then (s.setTaps i t).recordTaps i else s

/-- Inversion detected, and precoding in force on transmit and receive (R277, R280). -/
def State.setCoding (s : State) (i : Nat) (inverted tx rx : Bool) : State :=
  ((s.setFld (R.LAN_STATUS_rx_inverted i) (bit inverted)).setFld (R.LAN_STATUS_precoding i) (bit tx)).setFld (R.LAN_STATUS_rx_precoding i) (bit rx)

/-- The symbol rate of a PCIe rate code, in 1/16 GBd. -/
def pcieSymbols (rate : Nat) : Nat := [0, 40, 80, 128, 256, 512, 512].getD rate 0

/-- Lane `i` of a host link that settles at a rate: ACTIVE as lane `l` of a link of `width` lanes, OFF past it; READY where the link is down.
Precoding serves 32 GT/s alone (R290, R291). -/
def State.settleLane (s : State) (i l rate width : Nat) (inverted tx rx : Bool) (taps : List Int) : State :=
  let s := s.setFld (R.LAN_STATUS_rate i) (if l < width then pcieSymbols rate else 0)
  if rate = 0 ∨ width ≤ l then (s.setLane i (if rate = 0 then 1 else 0)).setCoding i false false false
  else
    let five := rate == 5
    ((((s.bump (R.LAN_CNT_count i 0)).laneTrained i).setLane i 3).setCoding i inverted (tx && five) (rx && five)).standardTaps i taps

/-- The lanes that a mask of panel group `q` names. -/
def groupLanesOf (q m : Nat) : List Nat := (setBits 12 m).map (panelLane q)

end Sys2Proof.Machine
end

