-- ==== Sys2Proof/Machine/Panel.lean ====
section
/-! DEFINITION. The panel link: link states, lanes, training, link-up, credits, holds and faults on the wire (chapter 11). -/

namespace Sys2Proof.Machine

open Sys2Proof

/-! ## Shared pieces -/

/-- The link state (PNL_LINK_STATUS.state): 0 DOWN, 1 TRAIN, 2 DESCRIPTOR, 3 ACTIVE, 4 HALTED. -/
def State.link (s : State) : Nat := s.fld R.PNL_LINK_STATUS_state

/-- A protocol error of group `q` (R254): counted, PNL_PROTOCOL at most once per second. -/
def State.protocolError (s : State) (q code : Nat) : State :=
  (s.bump (R.PNL_GROUP_CNT_count q 11)).postLimited (0x0606000000 + q) 1000000000 0x0606 q code

/-- Sends a forward message on every group whose back-channel is locked. -/
def State.forwardAll (s : State) (type : Nat) (payload : List Byte) : State :=
  ((List.range 16).filter fun q => s.fld (R.PNL_GROUP_STATUS_bc_up q) == 1).foldl (fun s' q => s'.forward q type q payload) s

/-- A lane change of group `q` is announced: credit limits, plans and the event follow (R223, R272); where the group has entered or left
service, the entries of its segment move and all its groups are re-planned (R215). -/
def State.laneChange (s : State) (q cause : Nat) (served : Bool) : State :=
  let s := (List.range 16).foldl (fun s' c => s'.relimit q c) s
  let s := if served && s.servesSeg q (s.segOfGroup q) then s.remapSeg (s.segOfGroup q) (· == q) else s.replan q true
  s.post 0x0603 q (s.fld (R.PNL_GROUP_STATUS_lanes q) + cause * 4096)

/-- Group `q` leaves service (R266): the piece on the wire is closed at ray row `row`, of which `written` rays were sent, its
region goes back to its queue, and the credits are written off. -/
def State.groupLeave (s : State) (q row written : Nat) : State :=
  if s.groupIn q then ((s.abortPiece q row written (decide ((s.pg q).trained ≠ 0))).writeOff q).showService q false
  else s

/-- RESTART is sent and the panel's new baseline awaited (R266). -/
def State.restart (s : State) (q : Nat) : State :=
  let g := s.pg q
  (s.setPg q { g with restarting := true, lockOut := false }).forward q 0x86 q []

/-! ## Link states (R268, R271) -/

/-- Enters a link state and posts it. -/
def State.enterLink (s : State) (st cause : Nat) : State :=
  (s.setFld R.PNL_LINK_STATUS_state st).post 0x0600 0 (st + cause * 256)

/-- Lane quad `j` works, with its clock of 1.328125 GHz, or sleeps at a depth (R417, R418). -/
def State.setLaneQuad (s : State) (j depth : Nat) : State :=
  ((s.setDomain (19 + j) depth).setFld (R.PWC_CLK_mhz (21 + j)) (if depth = 3 then 0 else 1328)).setFld (R.PWC_CLK_running (21 + j))
    (bit (depth == 0))

/-- Enters TRAIN: every enabled lane trains; the others are off. -/
def State.enterTrain (s : State) (cause : Nat) : State :=
  let s := (List.range 4).foldl (fun t j => t.setLaneQuad j 0) (s.enterLink 1 cause)
  (List.range 16).foldl (fun s' q =>
    let g := s'.pg q
    let s' := s'.setPg q { g with trained := 0, training := 0, ready := 0, map := none }
    let s' := ((g.map.map LaneMap.waiters).getD []).foldl (fun t w => t.itemDone w.1 w.2 ⟨stDone, 0, 0⟩) s'
    let m := s'.fld (R.PNL_GROUP_CFG_lane_enable q)
    (List.range 12).foldl (fun t p => if m.testBit p then t.trainLane (panelLane q p) else t.setLane (panelLane q p) 0) s') s

/-- The link leaves ACTIVE (R271): every FILLING and SENDING region goes back to its queue, every credit is written off, and
no lane works. -/
def State.leaveActive (s : State) : State :=
  let was := (List.range 16).filter s.groupIn
  let s := (List.range 16).foldl (fun s' q => s'.dropPiece q) s
  let rs := (s.dmg.regions.filter fun e => e.2.state == 2 || e.2.state == 3 || e.2.state == 4).map Prod.fst
  let s := rs.foldl State.requeue s
  (List.range 16).foldl (fun s' q =>
    let s' := (s'.writeOff q).showService q false
    let s' := (s'.setFld (R.PNL_GROUP_STATUS_held q) 0).setFld (R.PNL_GROUP_STATUS_stalled q) 0
    let g := s'.pg q
    let s' := g.retrain.foldl (fun t w => t.itemDone w.1 w.2.1 ⟨stFault, 0, 0⟩) s'
    let s' := ((g.map.map LaneMap.waiters).getD []).foldl (fun t w => t.itemDone w.1 w.2 ⟨stDone, 0, 0⟩) s'
    s'.setPg q { s'.pg q with heldAt := none, longSaid := false, restarting := false, retrain := [], map := none }) s
  |>.replanAll (List.range 16) was.contains

/-- Leaves ACTIVE, if the link is in it, on the way to another state. -/
def State.leaveLink (s : State) : State := if s.link = 3 then s.leaveActive else s

/-- Every enabled lane of every group is trained. -/
def State.allTrained (s : State) : Bool :=
  (List.range 16).all fun q => (s.pg q).trained == s.fld (R.PNL_GROUP_CFG_lane_enable q)

/-- Each quad has a trained lane. -/
def State.quadsTrained (s : State) : Bool :=
  (List.range 4).all fun d => (List.range 4).any fun j => (s.pg (4 * d + j)).trained != 0

/-- LINK_LEAVE_ACTIVE (R271): every forward lane is lost, and the link trains again. -/
def execLinkLeaveActive (s : State) : Host.Outcome State Fault Refusal :=
  .next (if s.link = 3 then s.leaveActive.enterTrain 2 else s)

/-- The items that wait for the return of lanes `m` of group `q` end with `st` (R275). -/
def State.endReturns (s : State) (q m st : Nat) : State :=
  let g := s.pg q
  let s := s.setPg q { g with retrain := g.retrain.filter fun w => !m.testBit w.2.2 }
  (g.retrain.filter fun w => m.testBit w.2.2).foldl (fun t w => t.itemDone w.1 w.2.1 ⟨st, 0, 0⟩) s

/-- The lanes of `m` of group `q` have failed their training: their commands' items end (R275). -/
def State.failTraining (s : State) (q m : Nat) : State :=
  let s := (groupLanesOf q m).foldl State.laneFailed s
  (s.setPg q { s.pg q with training := 0 }).endReturns q m stFault

/-- The training limit of the panel link (R268): lanes not done are not working; the link goes to DESCRIPTOR or HALTED. In
another state the lanes that train again fail. -/
def State.panelTrainingLimit (s : State) : State :=
  if s.link = 1 then
    let s := (List.range 16).foldl (fun s' q =>
      s'.failTraining q (s'.fld (R.PNL_GROUP_CFG_lane_enable q) &&& (4095 - (s'.pg q).trained))) s
    s.enterLink (if s.quadsTrained then 2 else 4) 4
  else (List.range 16).foldl (fun s' q => if (s'.pg q).training = 0 then s' else s'.failTraining q (s'.pg q).training) s

/-- The retry of the panel link (R268): a HALTED link, or one that is DOWN under auto, trains; in another state failed lanes
do. -/
def State.panelRetry (s : State) : State :=
  if s.link = 4 ∨ (s.link = 0 ∧ s.fld R.PNL_LINK_CFG_auto = 1) then s.enterTrain 0
  else if s.link = 1 ∨ s.link = 0 then s
  else (List.range 16).foldl (fun s' q =>
    let m := ((List.range 12).filter fun p => s'.fld (R.LAN_STATUS_state (panelLane q p)) == 5 &&
      (s'.fld (R.PNL_GROUP_CFG_lane_enable q)).testBit p).foldl (fun a p => a + 2 ^ p) 0
    let g := s'.pg q
    (groupLanesOf q m).foldl State.trainLane (s'.setPg q { g with training := g.training ||| m })) s

/-! ## Lane changes (R272, R273) -/

/-- Group `q` is to change to the lanes of `mask` at a block A; LANE_MAP is sent, waking QUIET lanes (R272, R289). -/
def State.startMap (s : State) (q mask cause : Nat) (waiters : List (Nat × Nat)) : State :=
  let s := s.wakeLanes q
  let g := s.pg q
  let old := (g.map.map LaneMap.waiters).getD []
  let s := s.setPg q { g with map := some ⟨mask, cause, old ++ waiters⟩ }
  s.forward q 0x83 q (leBytes 2 mask ++ leBytes 4 (blockA s.pnl.linkedAt s.ptp.f))

/-- The lanes of group `q` after the change under way, if any. -/
def State.nextMask (s : State) (q : Nat) : Nat := ((s.pg q).map.map LaneMap.mask).getD (s.pg q).trained

/-- The working lanes in `m` are to be removed from group `q`. -/
def State.removeLanes (s : State) (q m cause : Nat) (waiters : List (Nat × Nat) := []) : State :=
  let now := s.nextMask q
  if now &&& m = 0 ∧ waiters = [] then s
  else if s.link = 0 ∨ s.link = 4 then
    -- no block A comes while nothing is sent
    waiters.foldl (fun t w => t.itemDone w.1 w.2 ⟨stDone, 0, 0⟩) (s.setPg q { s.pg q with trained := (s.pg q).trained &&& (4095 - m) })
  else s.startMap q (now &&& (4095 - m)) cause waiters

/-- Retrained lanes of group `q` go back at a block A chosen while no piece is on the wire (R273). -/
def State.returnLanes (s : State) (q : Nat) : State :=
  let g := s.pg q
  if g.ready = 0 ∨ g.wire.isSome = true ∨ g.map.isSome = true then s
  else
    let back := g.retrain.filter fun w => g.ready.testBit w.2.2
    let s := s.setPg q { g with ready := 0, retrain := g.retrain.filter fun w => !g.ready.testBit w.2.2 }
    s.startMap q (g.trained ||| g.ready) 5 (back.map fun w => (w.1, w.2.1))

/-- Block A of a lane change of panel group `q` (R272): `row` and `written` place a piece that loses its group. -/
def State.applyMap (s : State) (q row written : Nat) : State :=
  match (s.pg q).map with
  | none => s.returnLanes q
  | some m =>
    let g := s.pg q
    let gone := g.trained &&& (4095 - m.mask)
    let back := m.mask &&& (4095 - g.trained)
    let was := s.groupIn q
    let s := s.setPg q { g with map := none, trained := m.mask }
    let s := s.bumpBy (R.PNL_GROUP_CNT_count q 10) (popCount 12 gone)
    let s := (groupLanesOf q gone).foldl (fun t i => t.setLane i 1) s
    let s := (groupLanesOf q back).foldl (fun t i => t.setLane i 3) s
    let s := if s.groupIn q then
        (if s.fld (R.PNL_GROUP_CFG_min_lanes q) ≤ popCount 12 m.mask then s.showService q true else s.groupLeave q row written)
      else if s.canServe q then s.restart q
      else s
    let s := s.laneChange q m.cause (was != s.groupIn q)
    m.waiters.foldl (fun t w => t.itemDone w.1 w.2 ⟨stDone, 0, 0⟩) s

/-- A panel lane's alignment blocks fail their CRC in 4 consecutive blocks (R272). -/
def State.lanePanelFails (s : State) (q p : Nat) : State :=
  if s.link = 3 then s.removeLanes q (2 ^ p &&& s.nextMask q) 2 else s

/-! ## Back-channel messages (R254 to R257, R265, R268, R283) -/

/-- PROTOCOL_ERROR (R254, R294): a message with a bad CRC (code 1) or an unknown type (code 2) is dropped. -/
def execProtocolError (q code violations : Nat) (s : State) : Host.Outcome State Fault Refusal :=
  .next (let s := s.bumpBy (R.LAN_BC_STATUS_violations q) violations
    if code = 0 then s else s.protocolError q (if code = 2 then 2 else 1))

/-- BACKCHANNEL_CREDIT (R256, R257, R266): `count` is the credits returned since the group's start; blocks due by now take what there is,
before and after. -/
def execBackchannelCredit (q count : Nat) (m : CreditMark) (s : State) : Host.Outcome State Fault Refusal :=
  .next (if s.link ≠ 3 then s
    else
      let s := s.beginBlocks q m.due
      let g := s.pg q
      if m.baseline then
        let s := s.setPg q { g with base := count % 2 ^ 32 }
        if g.restarting then
          let s := s.setPg q { s.pg q with restarting := false, heldAt := none, longSaid := false }
          let s := s.setFld (R.PNL_GROUP_STATUS_held q) 0
          if s.canServe q then ((s.grant q).showService q true).laneChange q 6 true else s
        else s
      else
        let inc := (count % 2 ^ 32 + 2 ^ 32 - g.base) % 2 ^ 32
        let s := if g.outstanding < inc then s.protocolError q 3 else s
        let s := s.putCredits q { g with base := count % 2 ^ 32, r := g.r + min inc g.outstanding }
        if (s.pg q).available = 0 then s else (s.setFld (R.PNL_GROUP_STATUS_stalled q) 0).beginBlocks q m.due)

/-- BACKCHANNEL_STATUS (R255, R271, R272, R286): flag bit 0 is ray memory lost, bit 1 emitter fault. -/
def execBackchannelStatus (q flags lanes ucw worst : Nat) (s : State) : Host.Outcome State Fault Refusal :=
  .next (
    let s := if flags.testBit 0 then s.wholeField 6 else s
    let s := if worst < 12 then s.bumpBy (R.LAN_CNT_count (panelLane q worst) 6) ucw else s
    if s.link ≠ 3 then s
    else
      let now := s.nextMask q
      let off := now &&& (4095 - lanes % 4096)
      let s := (groupLanesOf q off).foldl (fun t i => t.bump (R.LAN_CNT_count i 7)) s
      let s : State := if off == 0 then s else s.removeLanes q off 1
      if worst < 12 ∧ s.fld (R.PNL_GROUP_CFG_ucw_limit q) < ucw ∧ (s.nextMask q).testBit worst = true then
        s.removeLanes q (2 ^ worst) 2
      else s)

/-- BACKCHANNEL_NAK (R208, R265). -/
def execBackchannelNak (q seq reason : Nat) (s : State) : Host.Outcome State Fault Refusal :=
  .next (if s.link ≠ 3 then s
    else
      let hit := ((s.pg q).pieces.filter fun p => p.seq == seq).getLast?
      if (hit.map Piece.stale).getD false then s
      else
        let rs := match hit with
          | some p => [p.region]
          | none => s.allRegions.filter fun r => s.servesSeg q (s.segOfRegion r)
        let s := (s.bump (R.PNL_GROUP_CNT_count q 3)).markAll rs
        let g := s.pg q
        let n := g.naksSince + 1
        if s.mayPost (0x0604000000 + q) 1000000 then
          (s.setPg q { g with naksSince := 0 }).postLimited (0x0604000000 + q) 1000000 0x0604 q
            (((hit.map Piece.region).getD 65535) + reason % 16 * 65536 + min n 4095 * 1048576)
        else s.setPg q { g with naksSince := n })

/-- TAP_STATUS (R254). -/
def State.tapStatus (s : State) (q lane : Nat) (codes : List Nat) : State :=
  s.forward q 0x82 q (leBytes 1 lane ++ leBytes 1 (tapByte codes))

/-- A TRAIN message of a lane that trains: taps, then done (R268, R281, R282). -/
def State.trainMessage (s : State) (i taps ctl : Nat) : State × List Nat :=
  if ctl.testBit 0 then (s.setTaps i (tapPreset (bitsOf ctl 1 3)), [0, 0, 0, 0])
  else
    let (t, codes) := tapRequests (s.taps i) (tapBits taps)
    ((s.setTaps i t).countTaps i codes, codes)

/-- An in-service tap request of lane `i` (R283): at most one step per tap per adaptation period. -/
def State.inServiceTaps (s : State) (i taps ctl : Nat) : State × List Nat :=
  let stepped := fun (k : Nat) => Store.get (fun _ => 0) s.lan.askedAt (4 * i + k)
  let soon := fun (k : Nat) => stepped k != 0 && decide (s.ptp.f + 1 < stepped k + 10000 * s.fld R.LAN_ADAPT_CFG_period)
  let reqs := (List.range 4).map fun k => if ctl.testBit 0 || soon k then 0 else (tapBits taps).getD k 0
  let waiting := Store.get (fun _ => []) s.lan.asked i
  let (_, codes) := tapRequests (tapRequests (s.taps i) waiting).1 reqs
  let took := fun (k : Nat) => codes.getD k 0 == 1
  let steps := (List.range 4).map fun k => if took k then reqs.getD k 0 else waiting.getD k 0
  let s := s.bumpBy (R.LAN_CNT_count i 4) (codes.filter fun c => c == 2 || c == 3).length
  ({ s with lan := { s.lan with
      asked := Store.set (fun _ => []) s.lan.asked i (if steps.all (· == 0) then [] else steps)
      askedAt := ((List.range 4).filter took).foldl (fun m k => Store.set (fun _ => 0) m (4 * i + k) (s.ptp.f + 1)) s.lan.askedAt } }, codes)

/-- BACKCHANNEL_TRAIN (R268, R281 to R283): `taps` is byte 3 of the message, `ctl` byte 4. -/
def execBackchannelTrain (q lane taps ctl : Nat) (s : State) : Host.Outcome State Fault Refusal :=
  let i := panelLane q lane
  let g := s.pg q
  .next (if 12 ≤ lane then s
    else if (s.link = 1 ∧ (s.fld (R.PNL_GROUP_CFG_lane_enable q)).testBit lane = true) ∨
        g.training.testBit lane = true then
      let (s, codes) := s.trainMessage i taps ctl
      let s := s.tapStatus q lane codes
      if ctl.testBit 4 && !(s.link == 1 && g.trained.testBit lane) then
        let s := s.laneTrained i
        if s.link = 1 then
          let s := (s.setPg q { g with trained := g.trained ||| 2 ^ lane }).endReturns q (2 ^ lane) stDone
          if s.allTrained then s.enterLink 2 0 else s
        else (s.setPg q { g with training := maskPut g.training lane false, ready := g.ready ||| 2 ^ lane }).returnLanes q
      else s
    else if s.link = 3 ∧ s.groupIn q = true ∧ g.trained.testBit lane = true then
      let (s, codes) := s.inServiceTaps i taps ctl
      s.tapStatus q lane codes
    else s)

/-! ## Holds (R259) -/

/-- HOLD_RECEIVED: the stream of group `q` stops at the end of the stripe; pause stripes follow. -/
def execHoldReceived (q : Nat) (s : State) : Host.Outcome State Fault Refusal :=
  .next (if s.link ≠ 3 ∨ s.fld (R.PNL_GROUP_STATUS_bc_up q) = 0 ∨ s.fld (R.PNL_GROUP_STATUS_held q) = 1 then s
    else
      let g := s.pg q
      ((s.setPg q { g with heldAt := some s.ptp.f, longSaid := false }).setFld (R.PNL_GROUP_STATUS_held q) 1).bump (R.PNL_GROUP_CNT_count q 4))

/-- RELEASE_RECEIVED: the stream goes on; a RELEASE with no HOLD before it is ignored. -/
def execReleaseReceived (q : Nat) (s : State) : Host.Outcome State Fault Refusal :=
  .next (if s.fld (R.PNL_GROUP_STATUS_held q) = 0 then s
    else
      let g := s.pg q
      let us := (s.ptp.f - g.heldAt.getD s.ptp.f) / 1000
      ((s.setPg q { g with heldAt := none, longSaid := false }).setFld (R.PNL_GROUP_STATUS_held q) 0).bumpBy (R.PNL_GROUP_CNT_count q 5) us)

/-- HOLD_LIMIT_EXPIRY: a hold past hold_limit posts PNL_HOLD_LONG once. -/
def execHoldLimitExpiry (q : Nat) (s : State) : Host.Outcome State Fault Refusal :=
  let g := s.pg q
  .next (if s.fld (R.PNL_GROUP_STATUS_held q) = 0 ∨ g.longSaid = true then s
    else (s.setPg q { g with longSaid := true }).post 0x0602 q ((s.ptp.f - g.heldAt.getD s.ptp.f) / 1000))

/-! ## Loss of the back-channel (R266, R294) -/

/-- BACKCHANNEL_LOCK_LOSS: no character lock for 10 µs; `row` and `written` place the piece on the wire. -/
def execBackchannelLockLoss (q row written : Nat) (s : State) : Host.Outcome State Fault Refusal :=
  .next (if s.fld (R.PNL_GROUP_STATUS_bc_up q) = 0 then s
    else
      let s := (s.setFld (R.PNL_GROUP_STATUS_bc_up q) 0).setFld (R.LAN_BC_STATUS_lock q) 0
      let s := s.setPg q { s.pg q with lockOut := true }
      if s.groupIn q then (s.groupLeave q row written).laneChange q 6 true else s)

/-- BACKCHANNEL_RELOCK: lock is found, at the first time or again; in ACTIVE the module sends RESTART. -/
def execBackchannelRelock (q : Nat) (inverted : Bool) (s : State) : Host.Outcome State Fault Refusal :=
  .next (if s.fld (R.PNL_GROUP_STATUS_bc_up q) = 1 then s
    else
      let s := (s.setFld (R.PNL_GROUP_STATUS_bc_up q) 1).setFld (R.LAN_BC_STATUS_lock q) 1
      let s := s.setFld (R.LAN_BC_STATUS_inverted q) (bit inverted)
      if s.link = 3 then s.restart q
      else s.setPg q { s.pg q with lockOut := false })

/-! ## Link-up (R13, R16, R22, R25, R28, R165, R203, R207, R214, R267, R269, R270) -/

/-- A parsed panel descriptor. -/
structure Desc where
  hx : Nat
  hy : Nat
  vx : Nat
  vy : Nat
  depth : Nat
  segments : Nat
  rate : Nat
  flags : Nat
  /-- x0, y0, width, height of each segment. -/
  segs : List (Nat × Nat × Nat × Nat)
  quads : Nat
  reportRows : Nat
  credits : List Nat
  teLatency : Nat
  epoch : Nat
  slopes : List Nat
deriving DecidableEq, Repr

/-- The descriptor in its bytes. -/
def parseDesc (b : List Byte) : Desc :=
  { hx := leAt b 4 2, hy := leAt b 6 2, vx := leAt b 8 1, vy := leAt b 9 1, depth := leAt b 10 1, segments := leAt b 11 1
    rate := leAt b 12 2, flags := leAt b 14 1
    segs := (List.range 4).map fun i => (leAt b (16 + 8 * i) 2, leAt b (18 + 8 * i) 2, leAt b (20 + 8 * i) 2, leAt b (22 + 8 * i) 2)
    quads := leAt b 48 2, reportRows := leAt b 50 2, credits := (List.range 16).map fun q => leAt b (52 + 2 * q) 2
    teLatency := leAt b 84 2, epoch := leAt b 88 8
    slopes := if (leAt b 14 1).testBit 0 then (List.range (min 256 (leAt b 8 1 * leAt b 9 1))).map fun w => leAt b (128 + 8 * w) 8 else [] }

/-- Whether two rectangles x0, y0, width, height overlap. -/
def segsOverlap (a b : Nat × Nat × Nat × Nat) : Bool :=
  decide (a.1 < b.1 + b.2.2.1) && decide (b.1 < a.1 + a.2.2.1) && decide (a.2.1 < b.2.1 + b.2.2.2) && decide (b.2.1 < a.2.1 + a.2.2.2)

/-- No two elements of a list overlap. -/
def noOverlap : List (Nat × Nat × Nat × Nat) → Bool
  | [] => true
  | a :: r => (r.all fun b => !segsOverlap a b) && noOverlap r

/-- Whether the segment map is valid (R16). -/
def Desc.segmapOk (d : Desc) : Bool :=
  let segs := d.segs.take d.segments
  let edge := fun (e lim : Nat) => e % 8 == 0 || e == lim
  let quads := (List.range d.segments).map fun g => bitsOf d.quads (4 * g) 4
  decide (1 ≤ d.segments) && decide (d.segments ≤ 4) &&
  segs.all (fun r => decide (1 ≤ r.2.2.1) && decide (1 ≤ r.2.2.2) && decide (r.1 + r.2.2.1 ≤ d.hx) && decide (r.2.1 + r.2.2.2 ≤ d.hy) &&
    edge r.1 d.hx && edge (r.1 + r.2.2.1) d.hx && edge r.2.1 d.hy && edge (r.2.1 + r.2.2.2) d.hy) &&
  noOverlap segs && ((segs.map fun r => r.2.2.1 * r.2.2.2).sum == d.hx * d.hy) &&
  quads.all (· != 0) && ((quads.map (popCount 4)).sum == popCount 4 (quads.foldl (· ||| ·) 0))

/-- The first condition of R13 that a descriptor breaks. -/
def Desc.fault (d : Desc) : Option Nat :=
  if d.hx < 1 ∨ 16384 < d.hx then some 1
  else if d.hy < 1 ∨ 16384 < d.hy then some 2
  else if d.vx < 1 ∨ 16 < d.vx then some 3
  else if d.vy < 1 ∨ 16 < d.vy then some 4
  else if 4294967296 < d.hx * d.hy * (d.vx * d.vy) then some 5
  else if d.depth ≠ 6 ∧ d.depth ≠ 8 ∧ d.depth ≠ 10 ∧ d.depth ≠ 12 then some 6
  else if d.rate < 2400 ∨ 24000 < d.rate then some 7
  else if d.segmapOk = false then some 8
  else none

/-- What R22, R165 and R270 compare. -/
def Desc.geometry (d : Desc) : Geometry :=
  ⟨d.hx, d.hy, d.vx, d.vy, d.depth,
   (d.segs.take d.segments).flatMap (fun r => [r.1, r.2.1, r.2.2.1, r.2.2.2]) ++
   (List.range d.segments).map (fun g => bitsOf d.quads (4 * g) 4)⟩

/-- R165: every check region is disabled in shadow and active state, its signatures invalid, its substituted members dirty. -/
def State.resetChecks (s : State) : State :=
  let defs := (List.range 256).flatMap fun c => [s.checkAct c, s.checkShadow c].filter CheckDef.enable
  let subs := s.glu.substituted
  let members := (defs.flatMap s.members).eraseDups
  let s := members.foldl State.clearValid s
  let (s, n) := s.disableChecks
  (s.markAll subs).post 0x0593 0 (n % 65536 + 65536)

/-- The geometry registers of an accepted descriptor (R15). -/
def State.putGeometry (s : State) (d : Desc) : State :=
  let s := (s.setFld R.PNL_GEOM_HOGELS_width d.hx).setFld R.PNL_GEOM_HOGELS_height d.hy
  let s := ((s.setFld R.PNL_GEOM_VIEWS_vx d.vx).setFld R.PNL_GEOM_VIEWS_vy d.vy).setFld R.PNL_GEOM_VIEWS_depth d.depth
  let s := (s.setFld R.PNL_GEOM_VIEWS_segments d.segments).setFld R.PNL_GEOM_VIEWS_valid 1
  let s := (List.range 4).foldl (fun s' g =>
    let r := if g < d.segments then d.segs.getD g (0, 0, 0, 0) else (0, 0, 0, 0)
    let s' := (s'.setFld (R.PNL_SEG_ORIGIN_x0 g) r.1).setFld (R.PNL_SEG_ORIGIN_y0 g) r.2.1
    (s'.setFld (R.PNL_SEG_SIZE_width g) r.2.2.1).setFld (R.PNL_SEG_SIZE_height g) r.2.2.2) s
  s.setReg R.PNL_SEG_QUADS (BitVec.ofNat 64 (d.quads % 2 ^ (4 * d.segments)))

/-- Writes a slope entry in shadow and active state. -/
def State.putSlope (s : State) (w v : Nat) : State :=
  let x := BitVec.ofNat 64 (bitsOf v 0 17 + bitsOf v 32 17 * 2 ^ 32)
  (s.setReg (R.SCN_VIEW_SLOPE w) x).setAct (R.SCN_VIEW_SLOPE w) x

/-- The kerfs that a new slope table gives, at acceptance (R203, R204). -/
def State.slopeKerfs (s : State) : State :=
  let old := s
  let g := s.fld R.SCN_VIEW_CTRL_group
  let s := s.reKerf (s.slopeBound s.act (s.actFld R.SCN_VIEW_CTRL_corr_enable == 1) (s.actFld R.DMG_KERF_CFG_vcf_floor))
  let ns := (List.range 64).filter fun n => s.kerf n != old.kerf n
  let touched := ns.flatMap fun n => s.bothFootprints old n
  let s := if ns.isEmpty then s else s.post 0x05B1 g (ns.length + ((ns.map s.kerf).foldl max 0) * 256)
  (s.rebuildLists touched).markAll touched

/-- The slope table at a link-up (R22); `prev` is the view grid of the previous accepted descriptor. -/
def State.linkSlopes (s : State) (d : Desc) (prev : Option (Nat × Nat)) : State :=
  let load := fun (s : State) => (List.range d.slopes.length).foldl (fun s' w => s'.putSlope w (d.slopes.getD w 0)) s
  let given := d.flags.testBit 0
  if prev.isSome && prev != some (d.vx, d.vy) then
    let s := load ((List.range 256).foldl (fun s' w => s'.putSlope w 0) s)
    let s := (s.setFld R.SCN_VIEW_CTRL_sw_table 0).post 0x0540 0 (d.vx + d.vy * 256)
    { s with scn := { s.scn with slopeLoaded := false } }.slopeKerfs
  else if s.fld R.SCN_VIEW_CTRL_sw_table = 1 then s
  else if given then
    let old := s
    let s := load s
    let diff := (List.range (d.vx * d.vy)).any fun w => s.act (R.SCN_VIEW_SLOPE w) != old.act (R.SCN_VIEW_SLOPE w)
    let s := (if diff then s.wholeField 3 else s).slopeKerfs
    -- the descriptor's table takes the place of what software wrote and no clamp has applied
    { s with scn := { s.scn with slopeLoaded := false } }
  else s

/-- The region grid at a link-up (R28, R29) and the test of a pending one (R32). -/
def State.linkGrid (s : State) : State :=
  let kept := s.gridOn && s.dmg.swGrid && (s.gridFault s.kx s.ky).isNone
  let pick := if kept then some (s.kx, s.ky) else s.defaultGrid.map fun k => (k, k)
  let s := if kept then s else { s with dmg := { s.dmg with swGrid := false } }
  let s := match pick with
    | some (kx, ky) => if s.gridOn && s.sameGrid kx ky then s else s.switchGrid kx ky
    | none =>
      let s := if s.gridOn then
          let s := s.clearGrid.disableChecks.1
          let s := (s.setFld R.DMG_REGION_GRID_kx_div8 0).setFld R.DMG_REGION_GRID_ky_div8 0
          ((s.setFld R.DMG_REGION_COUNT_gx 0).setFld R.DMG_REGION_COUNT_gy 0).showDrops
        else s
      s.post 0x0542 0 0
  match s.dmg.pendGrid with
  | none => s
  | some (kx, ky, id) =>
    match s.gridFault kx ky with
    | none => s
    | some (st, r) =>
      let s := { s with dmg := { s.dmg with pendGrid := none } }
      match s.cmdOf id with
      | some c => s.putReply c st 0 0 0 r
      | none => s

/-- Pins, of map entries and of queued entries, whose group no longer serves the region's segment are cleared (R214). -/
def State.dropPins (s : State) : State :=
  s.allRegions.foldl (fun s' r =>
    let lost := fun (p : Nat) => !s'.servesSeg p (s'.segOfRegion r)
    let x := s'.region r
    let s' := if (s'.pinOf r).any lost then s'.setFld (R.SCH_REGION_MAP_pin r) 0 else s'
    if x.state == 1 && x.pin.any lost then s'.setRegion r { x with pin := none } else s') s

/-- The unconfirmed regions of R270: those of the pieces kept, or every region of the segment where more than 512 pieces are. -/
def State.unconfirmedRegions (s : State) (q : Nat) : List Nat :=
  let g := s.pg q
  if 512 < ((g.old ++ g.pieces).filter g.unconfirmed).length then s.allRegions.filter fun r => s.servesSeg q (s.segOfRegion r)
  else (g.pieces.filter fun p => g.unconfirmed p && !p.stale).map Piece.region

/-- Every group starts with its grant (R258, R269): its count of returned credits begins at 0. -/
def State.startGroup (s : State) (q grant : Nat) : State :=
  let s := s.setFld (R.PNL_GROUP_CREDIT_granted q) grant
  let g := s.pg q
  let s := s.setPg q { g with base := 0, restarting := false, lockOut := false, creditShort := false, old := [] }
  (groupLanesOf q (s.pg q).trained).foldl (fun t i => (t.setLane i 3).recordTaps i) s

/-- Puts group `q` into service after the credit test of R266 and R267. -/
def State.serveGroup (s : State) (q : Nat) : State :=
  let grant := s.fld (R.PNL_GROUP_CREDIT_granted q)
  let need := max 16 (if s.gridOn then nRow (s.rowBytes (min s.kx s.hx)) else 0)
  let s := s.grant q
  if grant < need then
    let s := (s.setPg q { s.pg q with creditShort := true }).writeOff q
    s.post 0x0607 q (grant + need * 65536)
  else if s.canServe q then s.showService q true
  else s

/-- An acceptable descriptor takes effect (R269). -/
def State.acceptDesc (s : State) (d : Desc) (bytes : List Byte) : State :=
  let prev := s.scn.prev
  let same := prev == some d.geometry
  let kept := d.flags.testBit 1 && d.epoch == s.fld R.PNL_EPOCH_epoch && same
  let loose := if kept then (List.range 16).flatMap s.unconfirmedRegions else []
  let s := if prev.isSome && !same then s.resetChecks else s
  let s := match prev with
    | some g => if g.hx * g.hy = d.hx * d.hy then s else { s with scn := { s.scn with vcfStale := true } }
    | none => s
  let s := s.putGeometry d
  let s := { s with
    scn := { s.scn with prev := some d.geometry }
    pnl := { s.pnl with rate := d.rate, tePins := d.flags.testBit 2, rowReports := d.flags.testBit 3, grants := d.credits
                        teLatency := d.teLatency, reportRows := d.reportRows, accepted := bytes, linkedAt := s.ptp.f
                        segs := (List.range 4).foldl (fun m g => Store.modify (fun _ => {}) m g fun x =>
                          { x with teSeen := [], rowsSeen := [], early := none }) s.pnl.segs } }
  let s := (s.setFld R.PNL_EPOCH_epoch s.now).bump R.PNL_LINK_STATUS_linkups
  let s := s.forwardAll 0x81 (leBytes 2 0 ++ leBytes 8 s.now)
  let s := (List.range 16).foldl (fun s' q => s'.startGroup q (d.credits.getD q 0)) s
  let s := s.linkSlopes d (prev.map fun g => (g.vx, g.vy))
  let s := s.linkGrid.dropPins
  let s := (List.range 256).foldl State.safeWord s.bgWords
  let s := s.enterLink 3 0
  let s := (List.range 16).foldl State.serveGroup s
  let s := (List.range 16).foldl (fun s' q => (List.range 16).foldl (fun t c => t.relimit q c) s') s
  let s := ((List.range d.segments).foldl State.moveSeg s).replanAll (List.range 16) s.groupIn
  let s := (List.range 16).foldl State.showGroupFree s
  let s := match s.pnl.reset with
    | some (id, _) => { s with pnl := { s.pnl with reset := none } }.itemDone id 0 ⟨stDone, 0, 0⟩
    | none => s
  if kept then s.markAll loose else s.wholeField 2

/-- DESCRIPTOR_RECEIVED: a complete copy of the descriptor from group `q` (R269). -/
def execDescriptorReceived (q : Nat) (bytes : List Byte) (s : State) : Host.Outcome State Fault Refusal :=
  let n := bytes.length
  .next (if (s.link ≠ 2 ∧ s.link ≠ 3) ∨ s.fld (R.PNL_GROUP_STATUS_bc_up q) = 0 ∨ n < 4 then s
    else if crc32c (bytes.take (n - 4)) ≠ leAt bytes (n - 4) 4 then s.protocolError q 4
    else if s.link = 3 then (if bytes = s.pnl.accepted then s else s.leaveActive.enterTrain 3)
    else
      let d := parseDesc bytes
      match d.fault with
      | some k =>
        let s := (s.setFld R.PNL_LINK_STATUS_refused k).forwardAll 0x81 (leBytes 2 k ++ leBytes 8 0)
        s.post 0x0640 0 k
      | none => s.acceptDesc d bytes)

/-! ## Commands (R274, R275) -/

/-- LINK_RESET (R274). -/
def execLinkReset (id : Nat) (bus : Bus) (s : State) : Host.Outcome State Fault Refusal :=
  .next (s.runOp id .linkReset fun c s =>
    let retrain := c.flag 8 0
    let timeout := c.p 10 2
    if timeout = 0 then s.refuse c stBadParam 10
    else if retrain = false ∧ (s.link = 0 ∨ s.link = 4) then s.refuse c stBadParam 1
    else if s.deferFull c then s.refuse c stBusyRetry 0
    else
      let s := match s.pnl.reset with
        | some (old, _) => s.abort old stSoftware
        | none => s
      let s := s.defer c 1
      let s := { s with pnl := { s.pnl with reset := some (id, s.ptp.f + timeout * 1000000) } }
      let s := s.leaveLink
      if retrain then s.enterTrain 1 else s.enterLink 2 1)

/-- LINK_RESET_TIMEOUT (R274): the final reply is LIMIT_EXCEEDED with the state reached. -/
def execLinkResetTimeout (s : State) : Host.Outcome State Fault Refusal :=
  .next (match s.pnl.reset with
    | none => s
    | some (id, _) =>
      let st := s.link
      let s := { s with pnl := { s.pnl with reset := none } }
      match s.cmdOf id with
      | some c => s.failOne c stLimit st
      | none => s)

/-- LANE_SERVICE (R272, R273, R275). -/
def execLaneService (id : Nat) (_bus : Bus) (s : State) : Host.Outcome State Fault Refusal :=
  .next (s.runOp id .laneService fun c s =>
    let q := c.pb 8 0 4
    let m := c.pb 10 0 12
    let lanes := setBits 12 m
    if m = 0 then s.refuse c stBadParam 1
    else if s.deferFull c then s.refuse c stBusyRetry 0
    else
      let s := s.defer c lanes.length
      let item := fun (p : Nat) => popCount p m
      if c.flag 9 0 then
        let s := (lanes.filter fun p => !(s.fld (R.PNL_GROUP_CFG_lane_enable q)).testBit p).foldl
          (fun t p => t.itemDone id (item p) ⟨stFault, 0, 0⟩) s
        let on := lanes.filter fun p => (s.nextMask q).testBit p
        let s := on.foldl (fun t p => t.itemDone id (item p) ⟨stDone, 0, 0⟩) s
        let back := lanes.filter fun p => !on.contains p && (s.fld (R.PNL_GROUP_CFG_lane_enable q)).testBit p
        let g := s.pg q
        let s := s.setPg q { g with
          training := back.foldl (fun a p => maskPut a p true) g.training
          retrain := g.retrain ++ back.map fun p => (id, item p, p) }
        back.foldl (fun t p => t.trainLane (panelLane q p)) s
      else s.removeLanes q m 3 (lanes.map fun p => (id, item p)))

end Sys2Proof.Machine
end

