-- ==== Sys2Proof/Machine/Serial.lean ====
section
/-! DEFINITION. The serial lanes in service: idle states, adaptation, quality figures, measurements and tap moves (chapter
12). -/

namespace Sys2Proof.Machine

open Sys2Proof

/-- The working lanes of panel group `q`; a group out of service has none (R266). -/
def State.workingLanes (s : State) (q : Nat) : List Nat :=
  if s.groupIn q then (groupLanesOf q (s.pg q).trained).filter fun i => s.fld (R.LAN_STATUS_state i) == 3 else []

/-- Whether the group has neither selected work, nor a launch request, nor anything to send (R288). -/
def State.groupQuiet (s : State) (q : Nat) : Bool :=
  let g := s.pg q
  g.wire.isNone && g.requests.isEmpty && g.conts.isEmpty && g.map.isNone && !s.sch.jobs.any fun j => j.node / 16 == q

/-- QUIET_ENTRY (R288): group `q` has been idle for LAN_QUIET_CFG.idle; its working lanes enter QUIET together. -/
def execQuietEntry (q : Nat) (s : State) : Host.Outcome State Fault Refusal :=
  .next (
    let lanes := s.workingLanes q
    if s.link = 3 ∧ s.groupQuiet q = true ∧ (lanes.all fun i => s.fld (R.LAN_CFG_quiet_enable i) == 1) = true then
      lanes.foldl (fun t i => (t.setLane i 4).bump (R.LAN_CNT_count i 2)) s
    else s)

/-- A value one step nearer to another. -/
def toward (v goal : Int) : Int := if v < goal then v + 1 else if goal < v then v - 1 else v

/-- The codes of lane `i`'s receiver: CTLE, VGA, 12 DFE taps and 3 level thresholds (R284). -/
def State.putCodes (s : State) (i ctle vga : Nat) (dfe levels : List Int) : State :=
  let s := ((s.setFld (R.LAN_RXEQ_ctle i) (min ctle 15)).setFld (R.LAN_RXEQ_dfe1 i) (toField 8 (clampInt (-128) 127 (dfe.getD 0 0)))).setFld
    (R.LAN_RXEQ_vga i) (min vga 255)
  { s with lan := { s.lan with dfe := Store.set (fun _ => []) s.lan.dfe i (dfe.drop 1), levels := Store.set (fun _ => []) s.lan.levels i levels } }

/-- Codes one step nearer to the `n` codes asked for. -/
def codesToward (n : Nat) (now goal : List Int) : List Int := (List.range n).map fun k => toward (now.getD k 0) (goal.getD k 0)

/-- ADAPTATION_STEP (R284): the statistics of lane `i` ask for the codes named; in training they are taken at once, in ACTIVE
each moves one code per period. -/
def execAdaptationStep (i ctle : Nat) (goal : EqGoal) (vga : Nat) (s : State) : Host.Outcome State Fault Refusal :=
  .next (
    let st := s.fld (R.LAN_STATUS_state i)
    let full := fun (n : Nat) (l : List Int) => (List.range n).map fun k => l.getD k 0
    if i < 192 ∨ 256 ≤ i ∨ s.fld (R.LAN_CFG_adapt_freeze i) = 1 then s
    else if st = 2 then s.putCodes i ctle vga (full 12 goal.dfe) (full 3 goal.levels)
    else if st = 3 then
      let last := Store.get (fun _ => 0) s.lan.movedAt i
      if last ≠ 0 ∧ s.ptp.f + 1 < last + 10000 * s.fld R.LAN_ADAPT_CFG_period then s
      else
        let s := { s with lan := { s.lan with movedAt := Store.set (fun _ => 0) s.lan.movedAt i (s.ptp.f + 1) } }
        let held := sext 8 (s.fld (R.LAN_RXEQ_dfe1 i)) :: Store.get (fun _ => []) s.lan.dfe i
        s.putCodes i (toward (s.fld (R.LAN_RXEQ_ctle i)) (min ctle 15)).toNat (toward (s.fld (R.LAN_RXEQ_vga i)) (min vga 255)).toNat
          (codesToward 12 held goal.dfe) (codesToward 3 (Store.get (fun _ => []) s.lan.levels i) goal.levels)
    else s)

/-- The worst eye by area among (width, height) pairs: its number and figures. -/
def worstEye (eyes : List (Nat × Nat)) : Nat × Nat × Nat :=
  let at_ := fun (k : Nat) => eyes.getD k (0, 0)
  let area := fun (k : Nat) => (at_ k).1 * (at_ k).2
  let k := [1, 2].foldl (fun b k => if area k < area b then k else b) 0
  (k, (at_ k).1, (at_ k).2)

/-- EYE_SET_COMPLETE (R285 to R287): a full set of lane `i` gives the widths and heights of the three eyes, the residual error,
the symbols corrected in the last 10 ms and since the last set. -/
def execEyeSetComplete (i : Nat) (eyes : List (Nat × Nat)) (rms corrected since : Nat) (s : State) : Host.Outcome State Fault Refusal :=
  .next (
    let st := s.fld (R.LAN_STATUS_state i)
    if 256 ≤ i ∨ (st ≠ 3 ∧ st ≠ 4) then s
    else
      let (k, w, h) := worstEye eyes
      let w := min w 255
      let h := min h 255
      let s := ((s.setFld (R.LAN_EYE_width i) w).setFld (R.LAN_EYE_height i) h).setFld (R.LAN_EYE_eye i) k
      let s := (s.setFld (R.LAN_EYE_source i) (bit (i < 192))).setFld (R.LAN_EYE_valid i) 1
      let s := (s.setFld (R.LAN_RESID_rms i) (min rms 65535)).setFld (R.LAN_RESID_corrected i) (if i < 192 then 0 else min corrected 65535)
      let s := if i < 192 then s else s.bumpBy (R.LAN_CNT_count i 5) since
      let s := { s with lan := { s.lan with eyeAt := Store.set (fun _ => 0) s.lan.eyeAt i (s.ptp.f + 1) } }
      if w < s.fld R.LAN_EYE_ALARM_width ∨ h < s.fld R.LAN_EYE_ALARM_height then
        s.postLimited (0x0611000000 + i) 1000000000 0x0611 i (w + h * 256 + k * 65536)
      else s)

/-! ## LANE_MEASURE (R296) -/

/-- Items of command `id` start, at most 16 at a time; an item whose lane is not ACTIVE fails. -/
def State.startMeasures (s : State) (id : Nat) : State :=
  s.lan.measures.foldl (fun t m =>
    if m.cmd != id || m.running then t
    else if 16 ≤ (t.lan.measures.filter fun n => n.cmd == id && n.running).length then t
    else if t.fld (R.LAN_STATUS_state m.lane) = 3 then
      { t with lan := { t.lan with measures := t.lan.measures.map fun n => if n == m then { n with running := true } else n } }
    else
      ({ t with lan := { t.lan with measures := t.lan.measures.filter (· != m) } }).itemDone id m.item ⟨stFault, 1, 0⟩) s

/-- The running items of command `id` whose lane has left ACTIVE fail. -/
def State.breakMeasures (s : State) (id : Nat) : State :=
  (s.lan.measures.filter fun m => m.cmd == id && m.broken).foldl (fun t m =>
    ({ t with lan := { t.lan with measures := t.lan.measures.filter (· != m) } }).itemDone id m.item ⟨stFault, 1, 0⟩) s

/-- A running item ends with its figures: widths and heights of the three eyes, then rms. -/
def State.endMeasure (s : State) (b : Bus) (id : Nat) (r : Nat × List Nat) : State :=
  match s.lan.measures.find? (fun m => m.cmd == id && m.item == r.1 && m.running), s.cmdOf id with
  | some m, some c =>
    let s := { s with lan := { s.lan with measures := s.lan.measures.filter (· != m) } }
    let d := (List.range 6).map (fun k => BitVec.ofNat 8 (min (r.2.getD k 0) 255)) ++ leBytes 2 (min (r.2.getD 6 0) 65535) ++ leBytes 8 s.now
    let (s, ok) := s.dstWrite b c false (c.p 8 8 + 16 * r.1) d
    s.itemDone id r.1 ⟨if ok then stDone else stFault, 0, 0⟩
  | _, _ => s

/-- LANE_MEASURE (R296): the command starts, or items end with the figures `results` names by item. -/
def execLaneMeasure (id : Nat) (bus : Bus) (results : List (Nat × List Nat)) (s : State) : Host.Outcome State Fault Refusal :=
  .next (if s.lan.measures.any fun m => m.cmd == id then
      (results.foldl (fun t r => t.endMeasure bus id r) (s.breakMeasures id)).startMeasures id
    else s.runOp id .laneMeasure fun c s =>
      let first := c.p 16 2
      let count := c.p 18 2
      let e := c.pb 20 0 4
      if e < 6 ∨ 9 < e then s.refuse c stBadParam 20
      else if 256 ≤ first then s.refuse c stBadParam 16
      else if count = 0 ∨ 256 < first + count then s.refuse c stBadParam 18
      else if s.deferFull c then s.refuse c stBusyRetry 0
      else
        let ms := (List.range count).map fun k => (⟨id, k, first + k, false, false⟩ : Measure)
        let s := s.defer c count
        ({ s with lan := { s.lan with measures := s.lan.measures ++ ms } }).startMeasures id)

/-! ## Transmit taps by software (R283, R297) -/

/-- LANE_TX_SET (R281, R297). -/
def execLaneTxSet (id : Nat) (bus : Bus) (s : State) : Host.Outcome State Fault Refusal :=
  .next (s.runOp id .laneTxSet fun c s =>
    let first := c.p 8 2
    let count := c.p 10 2
    let goal : List Int := [sext 8 (c.p 12 1), sext 8 (c.p 13 1), (c.p 14 1 : Int), sext 8 (c.p 15 1)]
    let lanes := (List.range count).map (first + ·)
    if count = 0 then s.refuse c stBadParam 10
    else if 256 ≤ first then s.refuse c stBadParam 8
    else if 256 < first + count then s.refuse c stBadParam 10
    else if lanes.any fun i => decide (192 ≤ i) && decide (i < 224) then s.refuse c stBadParam 2
    else if tapsOk goal = false then s.refuse c stBadParam 1
    else
      let s := s.setCmd { c with phase := .running, items := List.replicate count none }
      (List.range count).foldl (fun t k =>
        let i := first + k
        if t.fld (R.LAN_STATUS_state i) = 2 then t.itemDone id k ⟨stBusyRetry, 0, 0⟩
        else if t.taps i = goal then t.itemDone id k ⟨stDone, 0, 0⟩
        else { t with lan := { t.lan with moves := t.lan.moves ++ [⟨id, k, i, goal⟩] } }) s)

/-- One code per tap towards a goal, tap by tap, where the limits of R281 allow it. -/
def tapsToward (t goal : List Int) : List Int :=
  (List.range 4).foldl (fun a k =>
    let b := a.set k (toward (a.getD k 0) (goal.getD k 0))
    if tapsOk b then b else a) t

/-- TX_TAP_STEP (R283, R297): an alignment block of lane `i` takes the in-service requests accepted, or the next step of a
LANE_TX_SET. -/
def execTxTapStep (i : Nat) (s : State) : Host.Outcome State Fault Refusal :=
  .next (
    let reqs := Store.get (fun _ => []) s.lan.asked i
    let s := if reqs = [] then s
      else
        let (t, codes) := tapRequests (s.taps i) reqs
        let s := { s with lan := { s.lan with asked := Store.set (fun _ => []) s.lan.asked i [] } }
        (s.setTaps i t).bumpBy (R.LAN_CNT_count i 3) (codes.filter fun c => c == 1).length
    match s.lan.moves.find? fun m => m.lane == i with
    | none => s
    | some m =>
      let drop := fun (s : State) => ({ s with lan := { s.lan with moves := s.lan.moves.filter (· != m) } } : State)
      if s.fld (R.LAN_STATUS_state i) = 2 then (drop s).itemDone m.cmd m.item ⟨stBusyRetry, 0, 0⟩
      else
        let old := s.taps i
        let new := tapsToward old m.taps
        let n := ((List.range 4).filter fun k => old.getD k 0 != new.getD k 0).length
        let s := (s.setTaps i new).bumpBy (R.LAN_CNT_count i 3) n
        if new = m.taps then (drop s).itemDone m.cmd m.item ⟨stDone, 0, 0⟩ else s)

end Sys2Proof.Machine
end

