-- ==== Sys2Proof/Machine/Crypto.lean ====
section
/-! DEFINITION. AES-128 decryption, the pattern decryption of Common Encryption, RFC 3394 key unwrap, the P-384 curve test, and
HKDF-SHA-384 (R108 to R110, R116, R117). -/

namespace Sys2Proof.Machine

open Sys2Proof

/-! ## AES-128 (FIPS 197) -/

/-- Multiplication by x in GF(2^8). -/
def gfDouble (b : Byte) : Byte := (b <<< 1) ^^^ (if b.msb then 0x1B else 0)

/-- Multiplication in GF(2^8). -/
def gfMul (a b : Byte) : Byte :=
  ((List.range 8).foldl (fun (p : Byte × Byte) i => (if b.getLsbD i then p.1 ^^^ p.2 else p.1, gfDouble p.2)) (0, a)).1

/-- The inverse in GF(2^8), 0 for 0: the 254th power. -/
def gfInv (a : Byte) : Byte :=
  let s := fun (x : Byte) => gfMul x x
  let a2 := s a
  let a4 := s a2
  let a8 := s a4
  let a16 := s a8
  let a32 := s a16
  let a64 := s a32
  gfMul a2 (gfMul a4 (gfMul a8 (gfMul a16 (gfMul a32 (gfMul a64 (s a64))))))

/-- SubBytes and its inverse on one byte. -/
def aesSub (a : Byte) : Byte :=
  let b := gfInv a
  b ^^^ b.rotateLeft 1 ^^^ b.rotateLeft 2 ^^^ b.rotateLeft 3 ^^^ b.rotateLeft 4 ^^^ 0x63

def aesInvSub (a : Byte) : Byte := gfInv (a.rotateLeft 1 ^^^ a.rotateLeft 3 ^^^ a.rotateLeft 6 ^^^ 0x05)

/-- The bytewise sum of two lists. -/
def xorBytes (a b : List Byte) : List Byte := (a.zip b).map fun p => p.1 ^^^ p.2

/-- The next round key from key `k` with round constant `rc`. -/
def aesNextKey (k : List Byte) (rc : Byte) : List Byte :=
  let w := fun (i : Nat) => slice k (4 * i) 4
  let t := [aesSub (byteAt k 13) ^^^ rc, aesSub (byteAt k 14), aesSub (byteAt k 15), aesSub (byteAt k 12)]
  let a := xorBytes (w 0) t
  let b := xorBytes (w 1) a
  let c := xorBytes (w 2) b
  a ++ b ++ c ++ xorBytes (w 3) c

/-- The round keys, last first. -/
def aesKeys (key : List Byte) : List (List Byte) :=
  ((List.range 10).foldl (fun (p : List (List Byte) × Byte) _ =>
    (aesNextKey (p.1.headD []) p.2 :: p.1, gfDouble p.2)) ([slice key 0 16], 1)).1

/-- InvShiftRows and InvSubBytes. -/
def aesInvRows (s : List Byte) : List Byte :=
  (List.range 16).map fun i => aesInvSub (byteAt s (i % 4 + 4 * ((i / 4 + 4 - i % 4) % 4)))

/-- InvMixColumns. -/
def aesInvColumns (s : List Byte) : List Byte :=
  (List.range 16).map fun i =>
    let c := i / 4 * 4
    let at_ := fun (k : Nat) => byteAt s (c + (i + k) % 4)
    gfMul 0x0E (at_ 0) ^^^ gfMul 0x0B (at_ 1) ^^^ gfMul 0x0D (at_ 2) ^^^ gfMul 0x09 (at_ 3)

/-- Decrypts one block under round keys, last first. -/
def aesDecryptWith (keys : List (List Byte)) (block : List Byte) : List Byte :=
  match keys with
  | [] => block
  | k :: rest =>
    let go := fun (p : List Byte × Nat) (key : List Byte) =>
      let t := xorBytes (aesInvRows p.1) key
      (if p.2 = 1 then t else aesInvColumns t, p.2 - 1)
    (rest.foldl go (xorBytes block k, rest.length)).1

/-- Decrypts one block under a key. -/
def aesDecrypt (key block : List Byte) : List Byte := aesDecryptWith (aesKeys key) block

/-! ## Common Encryption, cbcs (R108) -/

/-- Decrypts a protected range: `crypt` blocks, then `skip` blocks in clear, with the CBC chain from `prev`; `left` counts
the blocks left of the pattern's part, `on` says which part it is. -/
def cbcsRange (keys : List (List Byte)) (crypt skip : Nat) : Nat → Bool → Nat → List Byte → List Byte → List Byte
  | 0, _, _, _, d => d
  | fuel + 1, on, left, prev, d =>
    if d.length < 16 then d
    else if left = 0 then
      cbcsRange keys crypt skip fuel (!on) (if on then skip else crypt) prev d
    else
      let b := d.take 16
      if on then xorBytes (aesDecryptWith keys b) prev ++ cbcsRange keys crypt skip fuel on (left - 1) b (d.drop 16)
      else b ++ cbcsRange keys crypt skip fuel on (left - 1) prev (d.drop 16)

/-- The subsamples of an encryption extension: clear and protected bytes. -/
def cbcsSubsamples (ext : List Byte) : List (Nat × Nat) :=
  (List.range (leAt ext 34 2)).map fun i => (leAt ext (40 + 8 * i) 4, leAt ext (44 + 8 * i) 4)

/-- Decrypts a unit under its extension. -/
def cbcsUnit (key ext data : List Byte) : List Byte :=
  let keys := aesKeys key
  let iv := slice ext 16 16
  let crypt := (byteAt ext 32).toNat % 16
  let skip := (byteAt ext 32).toNat / 16
  ((cbcsSubsamples ext).foldl (fun (p : List Byte × List Byte) (n : Nat × Nat) =>
    let body := (p.2.drop n.1).take n.2
    (p.1 ++ p.2.take n.1 ++ cbcsRange keys crypt skip (2 * body.length + 2) true crypt iv body, p.2.drop (n.1 + n.2))) ([], data)).1

/-! ## RFC 3394 key unwrap (R110, R117) -/

/-- Unwraps a 24-byte wrapped key: the 16-byte key, or none where the integrity check fails. -/
def keyUnwrap (kek wrapped : List Byte) : Option (List Byte) :=
  let keys := aesKeys kek
  let step := fun (p : List Byte × List Byte × List Byte) (t : Nat) =>
    -- t counts down from 12; odd steps work on the first half
    let (a, r1, r2) := p
    let x := xorBytes a (beBytes 8 t)
    let b := aesDecryptWith keys (x ++ if t % 2 = 0 then r2 else r1)
    if t % 2 = 0 then (b.take 8, r1, b.drop 8) else (b.take 8, b.drop 8, r2)
  let (a, r1, r2) := ((List.range 12).map (12 - ·)).foldl step (slice wrapped 0 8, slice wrapped 8 8, slice wrapped 16 8)
  if a = List.replicate 8 0xA6 then some (r1 ++ r2) else none

/-! ## The P-384 curve (R116) -/

/-- The field prime and the coefficient b of P-384. -/
def p384 : Nat := 2 ^ 384 - 2 ^ 128 - 2 ^ 96 + 2 ^ 32 - 1
def p384b : Nat :=
  0xB3312FA7E23EE7E4988E056BE3F82D19181D9C6EFE8141120314088F5013875AC656398D8A2ED19D2A85C8EDD3EC2AEF

/-- Whether 97 bytes are an uncompressed SEC1 point of the curve. -/
def onCurve (d : List Byte) : Bool :=
  let x := beNat (slice d 1 48)
  let y := beNat (slice d 49 48)
  byteAt d 0 == 4 && decide (x < p384) && decide (y < p384) && (y * y) % p384 == (x * x * x + (p384 - 3) * x + p384b) % p384

/-! ## SHA-384, HMAC and HKDF (FIPS 180-4, RFC 2104, RFC 5869; R110) -/

/-- The round constants of SHA-384, 20 at a time: the first 64 bits of the fractional parts of the cube roots of the first 80 primes. -/
def shaKeys0 : List (BitVec 64) :=
  [0x428a2f98d728ae22, 0x7137449123ef65cd, 0xb5c0fbcfec4d3b2f, 0xe9b5dba58189dbbc, 0x3956c25bf348b538,
   0x59f111f1b605d019, 0x923f82a4af194f9b, 0xab1c5ed5da6d8118, 0xd807aa98a3030242, 0x12835b0145706fbe,
   0x243185be4ee4b28c, 0x550c7dc3d5ffb4e2, 0x72be5d74f27b896f, 0x80deb1fe3b1696b1, 0x9bdc06a725c71235,
   0xc19bf174cf692694, 0xe49b69c19ef14ad2, 0xefbe4786384f25e3, 0x0fc19dc68b8cd5b5, 0x240ca1cc77ac9c65]

def shaKeys1 : List (BitVec 64) :=
  [0x2de92c6f592b0275, 0x4a7484aa6ea6e483, 0x5cb0a9dcbd41fbd4, 0x76f988da831153b5, 0x983e5152ee66dfab,
   0xa831c66d2db43210, 0xb00327c898fb213f, 0xbf597fc7beef0ee4, 0xc6e00bf33da88fc2, 0xd5a79147930aa725,
   0x06ca6351e003826f, 0x142929670a0e6e70, 0x27b70a8546d22ffc, 0x2e1b21385c26c926, 0x4d2c6dfc5ac42aed,
   0x53380d139d95b3df, 0x650a73548baf63de, 0x766a0abb3c77b2a8, 0x81c2c92e47edaee6, 0x92722c851482353b]

def shaKeys2 : List (BitVec 64) :=
  [0xa2bfe8a14cf10364, 0xa81a664bbc423001, 0xc24b8b70d0f89791, 0xc76c51a30654be30, 0xd192e819d6ef5218,
   0xd69906245565a910, 0xf40e35855771202a, 0x106aa07032bbd1b8, 0x19a4c116b8d2d0c8, 0x1e376c085141ab53,
   0x2748774cdf8eeb99, 0x34b0bcb5e19b48a8, 0x391c0cb3c5c95a63, 0x4ed8aa4ae3418acb, 0x5b9cca4f7763e373,
   0x682e6ff3d6b2b8a3, 0x748f82ee5defb2fc, 0x78a5636f43172f60, 0x84c87814a1f0ab72, 0x8cc702081a6439ec]

def shaKeys3 : List (BitVec 64) :=
  [0x90befffa23631e28, 0xa4506cebde82bde9, 0xbef9a3f7b2c67915, 0xc67178f2e372532b, 0xca273eceea26619c,
   0xd186b8c721c0c207, 0xeada7dd6cde0eb1e, 0xf57d4f7fee6ed178, 0x06f067aa72176fba, 0x0a637dc5a2c898a6,
   0x113f9804bef90dae, 0x1b710b35131c471b, 0x28db77f523047d84, 0x32caab7b40c72493, 0x3c9ebe0a15c9bebc,
   0x431d67c49c100d4c, 0x4cc5d4becb3e42b6, 0x597f299cfc657e2a, 0x5fcb6fab3ad6faec, 0x6c44198c4a475817]

def shaKeys : List (BitVec 64) := shaKeys0 ++ shaKeys1 ++ shaKeys2 ++ shaKeys3

/-- The initial hash value of SHA-384. -/
def shaInit : List (BitVec 64) :=
  [0xcbbb9d5dc1059ed8, 0x629a292a367cd507, 0x9159015a3070dd17, 0x152fecd8f70e5939, 0x67332667ffc00b31,
   0x8eb44a8768581511, 0xdb0c2e0d64f98fa7, 0x47b5481dbefa4fa4]

/-- The big-endian number in `n` bytes from `i` on. -/
def beWord (d : List Byte) (i n : Nat) : Nat := (List.range n).foldl (fun a k => a * 256 + (byteAt d (i + k)).toNat) 0

/-- `n` as `k` bytes, most significant first. -/
def beBytes (k n : Nat) : List Byte := (leBytes k n).reverse

/-- A message padded to whole 128-byte blocks. -/
def shaPad (m : List Byte) : List Byte :=
  m ++ [0x80] ++ List.replicate ((239 - m.length % 128) % 128) 0 ++ beBytes 16 (8 * m.length)

/-- The message schedule of a block, word 0 first. -/
def shaSchedule (block : List Byte) : List (BitVec 64) :=
  let first := ((List.range 16).map fun i => BitVec.ofNat 64 (beWord block (8 * i) 8)).reverse
  ((List.range 64).foldl (fun (ws : List (BitVec 64)) _ =>
    let w := fun (k : Nat) => ws.getD k 0
    let s0 := (w 14).rotateRight 1 ^^^ (w 14).rotateRight 8 ^^^ (w 14 >>> 7)
    let s1 := (w 1).rotateRight 19 ^^^ (w 1).rotateRight 61 ^^^ (w 1 >>> 6)
    (s1 + w 6 + s0 + w 15) :: ws) first).reverse

/-- One round on the eight working words, with constant plus schedule word `x`. -/
def shaRound (v : List (BitVec 64)) (x : BitVec 64) : List (BitVec 64) :=
  let g := fun (k : Nat) => v.getD k 0
  let s1 := (g 4).rotateRight 14 ^^^ (g 4).rotateRight 18 ^^^ (g 4).rotateRight 41
  let ch := (g 4 &&& g 5) ^^^ (~~~ (g 4) &&& g 6)
  let t1 := g 7 + s1 + ch + x
  let s0 := (g 0).rotateRight 28 ^^^ (g 0).rotateRight 34 ^^^ (g 0).rotateRight 39
  let maj := (g 0 &&& g 1) ^^^ (g 0 &&& g 2) ^^^ (g 1 &&& g 2)
  [t1 + (s0 + maj), g 0, g 1, g 2, g 3 + t1, g 4, g 5, g 6]

/-- The hash value after one more block. -/
def shaBlock (h : List (BitVec 64)) (block : List Byte) : List (BitVec 64) :=
  let v := (shaKeys.zip (shaSchedule block)).foldl (fun v p => shaRound v (p.1 + p.2)) h
  (h.zip v).map fun p => p.1 + p.2

/-- SHA-384: 48 bytes. -/
def sha384 (m : List Byte) : List Byte :=
  let p := shaPad m
  (((List.range (p.length / 128)).foldl (fun h i => shaBlock h (slice p (128 * i) 128)) shaInit).flatMap fun w => beBytes 8 w.toNat).take 48

/-- HMAC-SHA-384 under a key of at most 128 bytes. -/
def hmac384 (key m : List Byte) : List Byte :=
  let k := key ++ List.replicate (128 - key.length) 0
  sha384 ((k.map fun b => b ^^^ 0x5C) ++ sha384 ((k.map fun b => b ^^^ 0x36) ++ m))

/-- The KEK of an ECDH shared secret: the first 16 bytes of HKDF-SHA-384 with a salt of 48 zero bytes and the info TRASTOS1 (R110). -/
def kekOf (secret : List Byte) : List Byte :=
  let info : List Byte := [0x54, 0x52, 0x41, 0x53, 0x54, 0x4F, 0x53, 0x31]
  (hmac384 (hmac384 (List.replicate 48 0) secret) (info ++ [1])).take 16

end Sys2Proof.Machine
end

