-- ==== Sys2Proof/Machine/Pipes.lean ====
section
/-! DEFINITION. Trastos units and the layer decode pipes (chapter 5, and what chapter 4 says of every unit). -/

namespace Sys2Proof.Machine

open Sys2Proof

/-! ## Units (R87, R96, R97, R103, R114) -/

/-- The client that a stream slot acts for (R91). -/
def State.slotOwner (s : State) (k : Nat) : Nat := s.fld (R.SCN_TRS_STREAM_owner k)

/-- The Trastos side of stream slot `k`. -/
def State.stream (s : State) (k : Nat) : Stream := Store.get (fun _ => {}) s.trs.streams k

def State.setStream (s : State) (k : Nat) (x : Stream) : State :=
  { s with trs := { s.trs with streams := Store.set (fun _ => {}) s.trs.streams k x } }

/-- Whether `u` is the unit that the triple names. -/
def TrsUnit.isOf (u : TrsUnit) (k f n : Nat) : Bool := u.slot == k && u.frame == f && u.unit == n

/-- The unit that a triple names. -/
def State.unitOf (s : State) (k f n : Nat) : Option TrsUnit := s.trs.units.find? fun u => u.isOf k f n

/-- Replaces the record of a unit. -/
def State.setUnit (s : State) (u : TrsUnit) : State :=
  { s with trs := { s.trs with units := s.trs.units.map fun v => if v.isOf u.slot u.frame u.unit then u else v } }

/-- Stream counter `k` of slot `v` rises (R114). -/
def State.countTrs (s : State) (v k d : Nat) : State := s.count (R.SCN_TRS_CNT_count v k) d

/-- The units of a slot that are in progress (R114). -/
def State.inProgress (s : State) (v : Nat) : Nat :=
  (s.trs.units.filter fun u => u.slot == v && u.begun && decide (u.stage < 2)).length

/-- Shows the units in progress of a slot. -/
def State.showProgress (s : State) (v : Nat) : State :=
  s.setFld (R.SCN_TRS_CNT_count v 11) (min 0xFFFFFFFF (s.inProgress v))

/-- The ledger key of the units started of slot `v` (R114). -/
def trsStarted (v : Nat) : Nat := 0x3002000 + v

/-- The decode stream 2 n + depth that a unit belongs to; none for a unit of another type. -/
def State.decKey (s : State) (u : TrsUnit) : Option Nat :=
  if u.type = 1 ∨ u.type = 2 then (s.slotLayer u.slot).map fun n => 2 * n + (u.type - 1) else none

/-! ## Concealment (R126, R127) -/

/-- Whether unit (f, n) comes after unit (g, m) of the same stream. -/
def unitAfter (f n g m : Nat) : Bool := if f = g then decide (m < n) else frameAtOrBefore g f

/-- The regions of a whole layer's footprint, and of a rectangle of its texels, as its shadow geometry will place them (R205). -/
def State.shadowWhole (s : State) (n : Nat) : List Nat := s.footprint (s.shadowLayer n) (s.shadowKerf n)
def State.shadowTexels (s : State) (n : Nat) (t : Rect) : List Nat :=
  let l := s.shadowLayer n
  if l.enable then s.regionsOf (l.mapTexels t) (s.shadowKerf n) else []

/-- The pictures and the damage of scene frame `f` of decode stream `k` are dropped: the layer keeps what it shows (R126). -/
def State.keepOld (s : State) (k f : Nat) : State :=
  match s.decStream k with
  | none => s
  | some d =>
    s.setDecStream k (some { d with
      staged := if d.stagedFrame == f then none else d.staged
      stagedDamage := d.stagedDamage.filter fun e => e.1 != f
      ahead := if d.aheadFrame == f then none else d.ahead
      aheadDamage := d.aheadDamage.filter fun e => e.1 != f })

/-- Whether layer `n` keeps both its pictures in scene frame `f` (R126). -/
def State.keeps (s : State) (n f : Nat) : Bool := (Store.get (fun _ => []) s.dec.kept n).contains f

/-- The scene frames kept for a layer, `f` the latest: those within 2^16 frames of it. -/
def framesWith (l : List Nat) (f : Nat) : List Nat :=
  (l.filter fun x => x != f && decide ((f + 2 ^ 32 - x % 2 ^ 32) % 2 ^ 32 < 2 ^ 16 ∨ (x + 2 ^ 32 - f % 2 ^ 32) % 2 ^ 32 < 2 ^ 16)) ++ [f]

/-- DEC_CONCEAL, once per scene frame and layer (R127). -/
def State.sayConceal (s : State) (k f cause : Nat) : State :=
  let n := k / 2
  let said := Store.get (fun _ => []) s.dec.said n
  if said.contains f then s
  else
    ({ s with dec := { s.dec with said := Store.set (fun _ => []) s.dec.said n (framesWith said f) } }).post 0x0570 n
      (cause + k % 2 * 16 + f % 65536 * 65536) (some (s.fld (R.SCN_LAYER_STATUS_owner n)))

/-- Decode stream `k`, fed by a stream of group `g`, conceals unit `u`, of cause `cause` (R126, R127): it keeps its picture and skips
what follows the unit, or the whole layer is damaged with the unit's scene frame. -/
def State.conceal (s : State) (g k : Nat) (u : TrsUnit) (cause : Nat) : State :=
  match s.decStream k with
  | none => s
  | some d =>
    let n := k / 2
    let f := u.frame
    let s := (s.bump (R.DEC_LAYER_STAT_concealed n)).sayConceal k f cause
    let s := if s.fld (R.DEC_LAYER_CFG_conceal n) = 0 then s.setDecStream k (some { d with skipping := d.skipping ++ [(f, u.unit)] })
      else if s.mayApply g f then s.setDecStream k (some { d with stagedDamage := d.stagedDamage ++ [(f, s.shadowWhole n)] })
      else s.setDecStream k (some { d with aheadDamage := d.aheadDamage ++ [(f, s.shadowWhole n)] })
    if (s.shadowLayer n).kind = 0 then s
    else
      -- R126: both pictures of the pair stay
      let s := { s with dec := { s.dec with kept := Store.set (fun _ => []) s.dec.kept n (framesWith (Store.get (fun _ => []) s.dec.kept n) f) } }
      (s.keepOld (2 * n) f).keepOld (2 * n + 1) f

/-- A unit is lost, of the cause that R96 numbers (R96, R97). -/
def State.loseUnit (s : State) (u : TrsUnit) (cause : Nat) : State :=
  let s := (s.setUnit { u with stage := 3, frags := [], data := [], crypto := [] })
  let s := if u.begun then (s.countTrs u.slot 9 1).showProgress u.slot else s
  let s := s.post 0x0561 u.slot (u.unit % 4096 + cause * 4096 + u.frame % 65536 * 65536) (some (s.slotOwner u.slot))
  match s.decKey u with
  | some k => s.conceal (s.slotGroup u.slot) k u (if cause = 5 then 3 else 1)
  | none => s

/-- A unit is delivered (R103). -/
def State.deliverUnit (s : State) (u : TrsUnit) : State :=
  let s := s.setUnit { u with stage := 2, frags := [], data := [], crypto := [] }
  let s := if u.begun then s.countTrs u.slot 8 1 else s
  let s := if u.apron then s.countTrs u.slot 15 1 else s
  s.showProgress u.slot

/-- The key that a unit's extension names among its owner's keys (R110). -/
def State.unitKey (s : State) (u : TrsUnit) : Option (List Byte) :=
  (List.range 128).findSome? fun k =>
    match Store.get (fun _ => none) s.trs.keys k with
    | some x => if x.owner == s.slotOwner u.slot && x.kid == slice u.crypto 0 16 then some x.key else none
    | none => none

/-- Malformed packets of a slot: counted by the caller, and posted at most once per millisecond (R89). -/
def State.postBad (s : State) (v reason : Nat) : State :=
  let x := s.stream v
  let first := if x.bad = 0 then reason else x.badReason
  let n := x.bad + 1
  if s.mayPost (0x056000000 + v) 1000000 then
    (s.setStream v { x with bad := 0, badReason := 0 }).postLimited (0x056000000 + v) 1000000 0x0560 v
      (first + min n 65535 * 65536) (some (s.slotOwner v))
  else s.setStream v { x with bad := n, badReason := first }

/-- The first packet of a unit, taken as accepted, counts as malformed after all (R109, R114). -/
def State.recountFirst (s : State) (v : Nat) : State :=
  let s := s.setFld (R.SCN_TRS_CNT_count v 1) (s.fld (R.SCN_TRS_CNT_count v 1) - 1)
  let k := (R.SCN_TRS_CNT_count v 1).off
  { s with ledger := Store.set (fun _ => 0) s.ledger k (s.term k - 1) }.countTrs v 5 1

/-- The clear bytes of a complete unit, or the state in which it is lost for its encryption (R108 to R110). -/
def State.openUnit (s : State) (u : TrsUnit) : Except State (List Byte) :=
  if u.encrypted = false then .ok u.data
  else
    let sum := ((cbcsSubsamples u.crypto).map fun p => p.1 + p.2).sum
    if (byteAt u.crypto 32).toNat % 16 = 0 ∨ sum ≠ u.data.length then .error (((s.recountFirst u.slot).postBad u.slot 6).loseUnit u 3)
    else match s.unitKey u with
      | some key => .ok (cbcsUnit key u.crypto u.data)
      | none =>
        let s := (s.countTrs u.slot 13 1).post 0x0562 u.slot (leAt u.crypto 0 4) (some (s.slotOwner u.slot))
        .error (s.loseUnit u 3)

/-! ## Assignment (R119, R121, R122, R128) -/

/-- Bytes of a picture of X × Y samples, `b` bytes each: chroma 0 monochrome, 1 4:2:0, 2 4:4:4 (R122). -/
def pictureBytes (chroma x y b : Nat) : Nat :=
  let n := x * y * b + (match chroma with
    | 0 => 0
    | 1 => 2 * ceilDiv x 2 * ceilDiv y 2 * b
    | _ => 2 * x * y * b)
  ceilDiv n 4096 * 4096

/-- The chroma code of a decode stream of layer `l`. -/
def Layer.chroma (l : Layer) (depth : Bool) : Nat := if depth then 0 else if l.format = 2 then 2 else 1

/-- Bits of a sample, and its bytes in the pool. -/
def Layer.sampleBits (l : Layer) (depth : Bool) : Nat := if depth then 12 else if l.format = 0 then 8 else 10
def Layer.sampleBytes (l : Layer) (depth : Bool) : Nat := if l.sampleBits depth = 8 then 1 else 2

/-- The load of a stream at `rate` pictures/s × 16, in units of C / 65,536 × 2^20, exactly: samples per second × 16. -/
def Layer.load16 (l : Layer) (depth : Bool) (rate : Nat) : Nat :=
  l.w * l.h * rate * (if l.chroma depth = 2 then 2 else 1)

/-- Runs kept in ascending order of their first page. -/
def insertRun (r : Nat × Nat) : List (Nat × Nat) → List (Nat × Nat)
  | [] => [r]
  | x :: l => if r.1 ≤ x.1 then r :: x :: l else x :: insertRun r l

/-- The free runs of a pool of pages `from_` to `size - 1` beside the taken runs, which ascend. -/
def gapsOf (size : Nat) : Nat → List (Nat × Nat) → List (Nat × Nat)
  | from_, [] => if from_ < size then [(from_, size - from_)] else []
  | from_, (a, n) :: l =>
    (if from_ < min a size then [(from_, min a size - from_)] else []) ++ gapsOf size (max from_ (a + n)) l

/-- The first `n` pages of some runs. -/
def takePages : Nat → List (Nat × Nat) → List (Nat × Nat)
  | _, [] => []
  | n, (a, m) :: l => if n = 0 then [] else (a, min n m) :: takePages (n - m) l

/-- Free pages of the pool for `n` pages: the lowest run that holds them all, else the lowest free pages (R122; log entry 239). -/
def State.poolFind (s : State) (n but : Nat) : Option (List (Nat × Nat)) :=
  let gaps := gapsOf (256 * s.fld R.DEC_POOL_SIZE_mib) 0 ((s.poolTaken but).foldl (fun l r => insertRun r l) [])
  if (gaps.map Prod.snd).sum < n then none
  else match gaps.find? fun g => decide (n ≤ g.2) with
    | some g => some [(g.1, n)]
    | none => some (takePages n gaps)

/-- Writes `d` from byte `o` on of a stream's space in the pool, page by page (R122). -/
def State.poolWrite (s : State) (base : Nat) (runs : List (Nat × Nat)) (o : Nat) (d : List Byte) : State :=
  (List.range (ceilDiv d.length 4096)).foldl (fun s' i => s'.memWrite (poolMa base runs (o + 4096 * i)) (slice d (4096 * i) 4096)) s

/-- The decode pipes wake, with what the hub holds for them (R418, R505). -/
def State.wakeDec (s : State) : State := if s.fld (R.PWC_DOMAIN_depth 24) = 0 then s else (s.setPart 24 26 0).showPool

/-- DECODE_ASSIGN (R119, R121, R122, R128). -/
def execDecodeAssign (id : Nat) (bus : Bus) (s : State) : Host.Outcome State Fault Refusal :=
  .next (s.runOp id .decodeAssign fun c s =>
    if s.fld (R.PWC_DOMAIN_depth 24) ≠ 0 ∧ s.enginesMay = false then s
    else
    let s := s.wakeDec
    let n := c.pb 8 0 5
    let depth := c.flag 9 0
    let k := 2 * n + bit depth
    let p := c.p 10 1
    let dpb := c.pb 11 0 5
    let rate := c.p 12 2
    let l := s.shadowLayer n
    let load := l.load16 depth rate
    let room := fun (q : Nat) => decide (s.pipeLoad q k + load ≤ 16 * pipeC)
    let pick := if p = 255 then (List.range 16).find? room else if p < 16 ∧ room p then some p else none
    let b := l.sampleBytes depth
    let refs := dpb * pictureBytes (l.chroma depth) l.w l.h b
    let outB := pictureBytes (l.chroma depth) l.pw l.ph b
    let pages := (refs + 3 * outB) / 4096
    let now := s.decStream k
    -- the assignment as it stands (R121)
    let same := fun (d : DecStream) => decide ((p = d.pipe ∨ p = 255) ∧ rate = d.rate ∧ refs = d.outAt ∧ outB = d.outBytes)
    if c.flag 9 1 then
      if s.mayUseLayer c.client n = false then s.refuse c stNotPermitted 0
      else if now.isSome && s.layerBusy n then s.refuse c stBadParam 4
      else (s.freeDecode k).finishOne c
    else if dpb = 0 ∨ 16 < dpb then s.refuse c stBadParam 11
    else if s.mayUseLayer c.client n = false then s.refuse c stNotPermitted 0
    else if s.layerBusy n && now.any same then s.finishOne c ((now.map DecStream.pipe).getD 0)
    else if pick = none ∧ (p < 16 ∨ p = 255) then s.refuse c stLimit 1
    else if s.layerBusy n then s.refuse c stBadParam 4
    else if s.poolFind pages k = none then s.refuse c stLimit 2
    else if depth = true ∧ l.kind = 0 then s.refuse c stBadParam 3
    else if (16 ≤ p ∧ p ≤ 254) ∨ rate < 16 ∨ 3840 < rate then s.refuse c stBadParam 5
    else if videoSizeOk l.w l.h = false then s.refuse c stLimit 3
    else match pick, s.poolFind pages k with
      | some q, some runs =>
        let s := s.freeDecode k
        let d : DecStream := { pipe := q, codec := 0, rate := rate, load := load, runs := runs, outAt := refs, outBytes := outB }
        let s := ((s.setDecStream k (some d)).showPipe q).showPool
        let s := if depth then (s.setFld (R.DEC_LAYER_CFG_depth_assigned n) 1).setFld (R.DEC_LAYER_CFG_depth_pipe n) q
          else ((s.setFld (R.DEC_LAYER_CFG_assigned n) 1).setFld (R.DEC_LAYER_CFG_pipe n) q).setFld (R.DEC_LAYER_CFG_rate n) rate
        s.finishOne c q
      | _, _ => s.refuse c stLimit 2)

/-! ## Decoding (R118, R120, R123, R124) -/

/-- The unit that pipe `p` decodes. -/
def State.pipeBusy (s : State) (p : Nat) : Option (Nat × Nat × Nat) := Store.get (fun _ => none) s.dec.busy p

def State.setPipe (s : State) (p : Nat) (x : Option (Nat × Nat × Nat)) : State :=
  { s with dec := { s.dec with busy := Store.set (fun _ => none) s.dec.busy p x } }

/-- Whether pipe `p` may start unit `u`: complete, of a stream assigned to it, of the staging frame or the one ahead. -/
def State.pipeMay (s : State) (p : Nat) (u : TrsUnit) : Bool :=
  u.stage == 1 && !u.started &&
  (match s.decKey u with
    | none => false
    | some k => match s.decStream k with
      | none => false
      | some d =>
        let g := s.slotGroup u.slot
        d.pipe == p && (s.mayApply g u.frame ||
          (s.aheadFrame g == some u.frame && (d.ahead.isNone || d.aheadFrame == u.frame))))

/-- A unit that a pipe skips or conceals is delivered with no picture (R127). -/
def State.skipUnit (s : State) (u : TrsUnit) (k : Nat) : State := (s.conceal (s.slotGroup u.slot) k u 4).deliverUnit u

/-- Whether unit `u` missed its clamp: its scene frame has been committed without it, or its group holds for that frame (R120). -/
def State.missedClamp (s : State) (u : TrsUnit) : Bool :=
  let g := s.slotGroup u.slot
  ((s.trsGroup g).committed.map (frameAtOrBefore u.frame)).getD false ||
  (s.fld (R.CLP_GROUP_STATUS_holding g) == 1 && s.stagingFrame g == some u.frame)

/-- A unit of pipe `p` that missed its clamp counts as late (R120). -/
def State.countLate (s : State) (p : Nat) (u : TrsUnit) : State :=
  if s.missedClamp u = false then s
  else
    let n := Store.get (fun _ => 0) s.dec.lateSince p + 1
    let post := s.mayPost (0x057100000 + p) 100000000
    let s := (s.bump (R.DEC_PIPE_LOAD_late p)).postLimited (0x057100000 + p) 100000000 0x0571 p n
    { s with dec := { s.dec with lateSince := Store.set (fun _ => 0) s.dec.lateSince p (if post then 0 else n) } }

/-- DECODE_START (R118, R120, R127): idle pipe `p` takes the first unit it may; `tool` is what the unit's headers name that no
pipe accepts (DEC_TOOL_UNSUPPORTED), 0 for none; `rap` marks a random-access point. -/
def execDecodeStart (p tool : Nat) (rap : Bool) (s : State) : Host.Outcome State Fault Refusal :=
  .next (if 16 ≤ p ∨ (s.pipeBusy p).isSome = true ∨ s.enginesMay = false then s
    else match s.trs.units.find? fun u => s.pipeMay p u with
      | none => s
      | some u =>
        let s := s.setPart 24 26 0
        match (s.countLate p u).openUnit u with
        | .error t => t
        | .ok _ =>
          match s.decKey u with
          | none => s
          | some k =>
            if tool ≠ 0 then ((s.countLate p u).post 0x0572 (k / 2) tool (some (s.fld (R.SCN_LAYER_STATUS_owner (k / 2))))).loseUnit u 5
            else
              let lost := ((s.decStream k).map DecStream.skipping).getD []
              let before := fun (e : Nat × Nat) => unitAfter u.frame u.unit e.1 e.2
              if lost.any before && !rap then (s.countLate p u).skipUnit u k
              else
                let s := match s.decStream k with
                  | some d => s.setDecStream k (some { d with skipping := d.skipping.filter fun e => !before e })
                  | none => s
                (s.setUnit { u with started := true }).setPipe p (some (u.slot, u.frame, u.unit)))

/-! ## Pre-shrink and output (R122, R125) -/

/-- Sample (i, j) of a plane of width `x`. -/
def sampleOf (src : List Nat) (x i j : Nat) : Nat := src.getD (j * x + i) 0

/-- A colour plane of X × Y samples reduced by dh × dv (R125). -/
def shrinkPlane (src : List Nat) (x y dh dv : Nat) : List Nat :=
  let n := dh * dv
  (List.range (ceilDiv y dv)).flatMap fun j => (List.range (ceilDiv x dh)).map fun i =>
    let sum := ((List.range dh).flatMap fun a => (List.range dv).map fun b =>
      sampleOf src x (min (i * dh + a) (x - 1)) (min (j * dv + b) (y - 1))).sum
    (sum + n / 2) / n

/-- A depth plane reduced by decimation (R125). -/
def decimatePlane (src : List Nat) (x y dh dv : Nat) : List Nat :=
  (List.range (ceilDiv y dv)).flatMap fun j => (List.range (ceilDiv x dh)).map fun i => sampleOf src x (i * dh) (j * dv)

/-- The bytes of an output picture of layer `l` (R122, R125). -/
def Layer.outPicture (l : Layer) (depth : Bool) (p : Picture) : List Byte :=
  let b := l.sampleBytes depth
  let dh := l.ratioX
  let dv := l.ratioY
  let bytes := fun (v : List Nat) => v.flatMap fun x => leBytes b x
  if depth then bytes (decimatePlane p.luma l.w l.h dh dv)
  else
    let cx := if l.format = 2 then l.w else ceilDiv l.w 2
    let cy := if l.format = 2 then l.h else ceilDiv l.h 2
    let cb := shrinkPlane p.cb cx cy dh dv
    let cr := shrinkPlane p.cr cx cy dh dv
    -- R125: a reduced 4:2:0 plane yields ceil(W'/2) x ceil(H'/2) samples
    let ox := if l.format = 2 then l.pw else ceilDiv l.pw 2
    let oy := if l.format = 2 then l.ph else ceilDiv l.ph 2
    let sx := ceilDiv cx dh
    bytes (shrinkPlane p.luma l.w l.h dh dv) ++
    (List.range oy).flatMap fun j => (List.range ox).flatMap fun i => leBytes b (sampleOf cb sx i j) ++ leBytes b (sampleOf cr sx i j)

/-- Whether a displaced active picture is still in use: a region whose synthesis started under it is not synthesised (R123, R130). -/
def State.stillUsed (s : State) (e : Nat × List Nat) : Bool := s.synthJobs.any fun i => e.2.contains i

/-- The output slot that a new picture takes: none of the active, the staged and the one ahead, and none still in use (R123). -/
def State.freeSlot (s : State) (d : DecStream) : Option Nat :=
  (List.range 3).find? fun i => d.active != some i && d.staged != some i && d.ahead != some i &&
    !(d.retired.any fun e => e.1 == i && s.stillUsed e)

/-- The record of a stream as a new picture of scene frame `f` finds it: the picture that it replaces is gone. -/
def State.makeRoom (s : State) (d : DecStream) (n f : Nat) (now : Bool) : DecStream :=
  let d := { d with retired := d.retired.filter s.stillUsed }
  if s.keeps n f then d else if now then { d with staged := none } else { d with ahead := none }

/-- Picture `p` of unit `u` is written and becomes the staged picture, or the one ahead; its damage becomes regions (R100, R123, R124,
R205). -/
def State.outputPicture (s : State) (k : Nat) (u : TrsUnit) (p : Picture) (whole : Bool) : State :=
  match s.decStream k with
  | none => s
  | some d0 =>
    let n := k / 2
    let now := s.mayApply (s.slotGroup u.slot) u.frame
    let d := s.makeRoom d0 n u.frame now
    let s := s.bump (R.DEC_LAYER_STAT_pictures n)
    -- a picture whose pair is kept is decoded into its references only (R126)
    if s.keeps n u.frame then s.setDecStream k (some d)
    else
      let slot := (s.freeSlot d).getD 0
      let l := s.shadowLayer n
      let s := s.poolWrite (s.fld R.DEC_POOL_BASE_base) d.runs (d.outAt + slot * d.outBytes) (l.outPicture (k % 2 == 1) p)
      let rs := match (if whole then none else u.damage) with
        | some (x, y, w, h) => s.shadowTexels n ⟨x, x + w, y, y + h⟩
        | none => s.shadowWhole n
      if now then
        (s.showStaged n d0.staged.isSome).setDecStream k
          (some { d with staged := some slot, stagedFrame := u.frame, stagedDamage := d.stagedDamage ++ [(u.frame, rs)] })
      else
        s.setDecStream k (some { d with ahead := some slot, aheadFrame := u.frame, aheadDamage := d.aheadDamage ++ [(u.frame, rs)] })

/-- Whether a picture of unit `u` finds room, which it does unless displaced pictures are still in use (R123). -/
def State.hasRoom (s : State) (k : Nat) (u : TrsUnit) : Bool :=
  match s.decStream k with
  | none => true
  | some d => s.keeps (k / 2) u.frame || (s.freeSlot (s.makeRoom d (k / 2) u.frame (s.mayApply (s.slotGroup u.slot) u.frame))).isSome

/-- Whether a decoded picture of a size, bit depth and chroma is what the layer takes (R118). -/
def Layer.takes (l : Layer) (depth : Bool) (w h bits chroma : Nat) : Bool :=
  w == l.w && h == l.h && bits == l.sampleBits depth && chroma == l.chroma depth

/-- PICTURE_OUTPUT (R118, R124 to R127): pipe `p` finishes its unit; `fault` is 2 for a syntax error and 4 for a missing reference. A
picture that the unit releases waits for an output picture that no region still reads. -/
def execPictureOutput (p fault : Nat) (d : Decoded) (s : State) : Host.Outcome State Fault Refusal :=
  .next (match s.pipeBusy p with
    | none => s
    | some (v, f, n) =>
      match s.unitOf v f n with
      | none => s.setPipe p none
      | some u =>
        match s.decKey u with
        | none => s.setPipe p none
        | some k =>
          if d.pic.isSome && !s.hasRoom k u then s
          else
            let s := (s.setPipe p none).countLate p u
            let l := s.shadowLayer (k / 2)
            if l.takes (k % 2 == 1) d.w d.h d.bits d.chroma = false then s.loseUnit u 5
            else
              let bad := fault = 2 ∨ fault = 4
              let s := if bad then s.conceal (s.slotGroup u.slot) k u fault else s
              let s := match d.pic with
                | none => s
                | some q => if bad ∧ s.fld (R.DEC_LAYER_CFG_conceal (k / 2)) = 0 then s else s.outputPicture k u q (decide bad)
              s.deliverUnit u)

end Sys2Proof.Machine
end

