-- ==== Sys2Proof/Machine/Trastos.lean ====
section
/-! DEFINITION. The Trastos scene stream (chapter 4): arrival, loss, tiles, records, markers, streams and keys. -/

namespace Sys2Proof.Machine

open Sys2Proof

/-! ## Packets (R87, R88) -/

/-- A packet header and where its payload lies. -/
structure TrsHead where
  sync : Nat
  version : Nat
  group : Nat
  type : Nat
  id : Nat
  flags : Nat
  seq : Nat
  frame : Nat
  time : Nat
  unit : Nat
  length : Nat
  offset : Nat
deriving DecidableEq, Repr

def TrsHead.of (d : List Byte) : TrsHead :=
  { sync := leAt d 0 2, version := bitsOf (leAt d 2 1) 0 4, group := bitsOf (leAt d 2 1) 4 4, type := leAt d 3 1, id := leAt d 4 2
    flags := leAt d 6 2, seq := leAt d 8 4, frame := leAt d 12 4, time := leAt d 16 8, unit := leAt d 24 2, length := leAt d 26 2
    offset := leAt d 28 4 }

def TrsHead.encrypted (h : TrsHead) : Bool := h.flags.testBit 0
def TrsHead.last (h : TrsHead) : Bool := h.flags.testBit 1
def TrsHead.apron (h : TrsHead) : Bool := h.flags.testBit 2
def TrsHead.extDamage (h : TrsHead) : Bool := h.flags.testBit 3
def TrsHead.extCrypto (h : TrsHead) : Bool := h.flags.testBit 4

/-- Where the encryption extension starts. -/
def TrsHead.cryptoAt (h : TrsHead) : Nat := 32 + (if h.extDamage then 8 else 0)

/-- Where the payload starts, by the subsample count `n` of the encryption extension. -/
def TrsHead.payloadAt (h : TrsHead) (n : Nat) : Nat := h.cryptoAt + (if h.extCrypto then 40 + 8 * n else 0)

/-- The subsample count of a packet's encryption extension. -/
def TrsHead.subsamples (h : TrsHead) (d : List Byte) : Nat := leAt d (h.cryptoAt + 34) 2

/-- The length that a packet states (R87). -/
def TrsHead.stated (h : TrsHead) (d : List Byte) : Nat := h.payloadAt (h.subsamples d) + h.length + 4

/-- The bit of STREAM_BIND's types that admits a payload type; none for a type that is not defined. -/
def typeBit (type : Nat) : Option Nat :=
  match type with
  | 0x01 => some 0
  | 0x02 => some 1
  | 0x10 => some 2
  | 0x11 => some 3
  | 0x12 => some 4
  | 0x20 => some 5
  | _ => none

/-- Whether reserved bits are 0 and the extensions and a COMMIT are as R88 requires. -/
def TrsHead.formOk (h : TrsHead) (d : List Byte) : Bool :=
  let x := h.cryptoAt
  let n := h.subsamples d
  decide (h.flags < 32) && (h.offset == 0 || (!h.extDamage && !h.extCrypto)) &&
  (!h.extDamage || h.type == 1 || h.type == 2) && (!(h.encrypted && h.offset == 0) || h.extCrypto) &&
  (!h.extCrypto || (decide (1 ≤ n) && decide (n ≤ 64) && leAt d (x + 33) 1 == 0 && leAt d (x + 36) 4 == 0)) &&
  (h.type != 0x20 || (h.offset == 0 && h.last))

/-! ## Sequence (R94, R96) -/

/-- How far sequence number `a` is ahead of `b`, modulo 2^32. -/
def seqAhead (a b : Nat) : Nat := (a + 2 ^ 32 - b % 2 ^ 32) % 2 ^ 32

def Hole.holds (h : Hole) (q : Nat) : Bool := decide (seqAhead q h.seq < h.n)

/-- What the sequence number of a packet says (R94). -/
inductive SeqTest where
  | first
  | ahead (d : Nat)
  | fill
  | fillLost
  | duplicate
  | stale
deriving DecidableEq, Repr

def Stream.test (x : Stream) (q : Nat) : SeqTest :=
  match x.smax with
  | none => .first
  | some m =>
    let d := seqAhead q m
    let back := 2 ^ 32 - d
    if d = 0 then .duplicate
    else if d ≤ 2 ^ 31 then .ahead d
    else if 4095 < back then .stale
    else if x.holes.any fun h => h.holds q then .fill
    else if x.lost.any fun h => h.holds q then .fillLost
    else if back < x.span then .duplicate
    else .stale

/-- Takes sequence number `q` out of the runs of `hs`. -/
def fillHole (hs : List Hole) (q : Nat) : List Hole :=
  hs.flatMap fun h =>
    if h.holds q then
      let k := seqAhead q h.seq
      (if k = 0 then [] else [{ h with n := k }]) ++ (if k + 1 = h.n then [] else [⟨(q + 1) % 2 ^ 32, h.n - k - 1, h.at_⟩])
    else [h]

/-- The lost runs that still reach into the receive window of `m`. -/
def keepLost (hs : List Hole) (m : Nat) : List Hole := hs.filter fun h => decide (seqAhead m (h.seq + h.n - 1) ≤ 4095)

/-- The stream after it accepts sequence number `q`, and how many numbers are lost at once (R94). -/
def Stream.accept (x : Stream) (q f : Nat) : Stream × Nat :=
  match x.test q with
  | .first => ({ x with smax := some q, span := 1 }, 0)
  | .ahead d =>
    let m := x.smax.getD 0
    let run : Hole := ⟨(m + 1) % 2 ^ 32, d - 1, f⟩
    let y := { x with smax := some q, span := min 4096 (x.span + d) }
    if d = 1 then ({ y with lost := keepLost y.lost q }, 0)
    else if d ≤ 65536 then ({ y with holes := y.holes ++ [run], lost := keepLost y.lost q }, 0)
    else ({ y with lost := keepLost (y.lost ++ [run]) q }, d - 1)
  | .fill => ({ x with holes := fillHole x.holes q }, 0)
  | .fillLost => ({ x with lost := fillHole x.lost q }, 0)
  | _ => (x, 0)

/-! ## Units being put together -/

/-- Inserts a fragment in the order of its offset. -/
def insertFrag (o : Nat) (d : List Byte) : List (Nat × List Byte) → List (Nat × List Byte)
  | [] => [(o, d)]
  | (p, e) :: r => if o < p then (o, d) :: (p, e) :: r else (p, e) :: insertFrag o d r

/-- The bytes of fragments without a gap from `pos` on; none where one is missing. -/
def joinFrags (pos : Nat) : List (Nat × List Byte) → Option (List Byte)
  | [] => some []
  | (o, d) :: r =>
    if pos < o then none
    else
      let e := d.drop (pos - o)
      (joinFrags (pos + e.length) r).map fun t => e ++ t

/-- A unit with one more fragment; it is complete when its last fragment and all before it are there. -/
def TrsUnit.add (u : TrsUnit) (h : TrsHead) (d payload : List Byte) (f : Nat) : TrsUnit :=
  if u.stage ≠ 0 then u
  else
    let frags := insertFrag h.offset payload u.frags
    let size := if h.last then some (h.offset + payload.length) else u.size
    let lo := if seqAhead u.lo h.seq < 2 ^ 31 then h.seq else u.lo
    let hi := if seqAhead h.seq u.hi < 2 ^ 31 then h.seq else u.hi
    let u := { u with frags := frags, size := size, lo := lo, hi := hi }
    let u := if h.offset ≠ 0 then u
      else
        { u with
          encrypted := h.encrypted
          damage := if h.extDamage then some (leAt d 32 2, leAt d 34 2, leAt d 36 2, leAt d 38 2) else none
          crypto := if h.extCrypto then slice d h.cryptoAt (40 + 8 * h.subsamples d) else [] }
    match size, joinFrags 0 frags with
    | some n, some b => if n ≤ b.length then { u with stage := 1, data := b.take n, frags := [], doneAt := f } else u
    | _, _ => u

/-- The bytes of the hold store in use (R106). -/
def State.holdUsed (s : State) : Nat :=
  (s.trs.units.map fun u => if u.stage = 0 then (u.frags.map fun f => f.2.length).sum else if u.stage = 1 then u.data.length else 0).sum

/-! ## Markers (R102) -/

/-- The marker that a COMMIT body holds, or the reason it is malformed (R102, R185). -/
def State.markerOf (s : State) (h : TrsHead) (b : List Byte) : Except Nat Marker :=
  let n := leAt b 2 2
  let entries := (List.range n).map fun i => (leAt b (16 + 4 * i) 2, leAt b (18 + 4 * i) 2)
  let ids := entries.map Prod.fst
  if s.fld (R.CLP_GROUP_CFG_source h.group) ≠ 2 then .error 12
  else if leAt b 0 1 % 16 ≠ h.group then .error 5
  else if leAt b 0 1 / 16 ≠ 0 ∨ leAt b 1 1 ≠ 0 ∨ leAt b 4 4 ≠ 0 ∨ 64 < n ∨ b.length ≠ 16 + 4 * n ∨ (entries.any fun e => decide (4096 < e.2)) = true then .error 6
  else if (ids.any fun i => match s.slotOfStream i with
      | none => true
      | some v => s.slotGroup v != h.group) = true ∨ ids.eraseDups.length ≠ ids.length then .error 10
  else .ok ⟨h.frame, leAt b 8 8, entries⟩

/-! ## Arrival (R89, R90, R94, R95, R106) -/

/-- What becomes of a packet: accepted, or the test it failed. -/
inductive Arrival where
  | accepted
  | bad (reason : Nat)
  | unknown
  | duplicate
  | late
  | horizon
  | full
deriving DecidableEq, Repr

/-- The tests of R89, in order, and R102, for a packet of stream slot `v`. -/
def State.trsTest (s : State) (v : Nat) (h : TrsHead) (d payload : List Byte) (fragment : Bool) : Arrival :=
  let x := s.stream v
  let g := s.slotGroup v
  if ((typeBit h.type).map fun b => x.types.testBit b).getD false = false ∨ h.group ≠ g then .bad 5
  else if h.formOk d = false then .bad 6
  else if h.encrypted = true ∧ (h.type = 0x11 ∨ h.type = 0x20) then .bad 7
  else if 16777216 < h.offset + h.length ∨ 4095 < h.unit then .bad 8
  else if fragment then .bad 9
  else
    let old := s.unitOf v h.frame h.unit
    match x.test h.seq with
    | .duplicate => .duplicate
    | .stale => .late
    | _ =>
      if (((s.trsGroup g).committed).map (frameAtOrBefore h.frame)).getD false then .late
      else if s.now + 1000000 * s.fld R.SCN_TRS_HORIZON_ms < h.time then .horizon
      else if (old.map fun u => u.stage == 1 || u.stage == 2).getD false && h.type != 0x20 then .duplicate
      else if h.type = 0x20 then
        match s.markerOf h payload with
        | .error r => .bad r
        | .ok m =>
          match (s.trsGroup g).markers.find? fun k => k.frame == h.frame with
          | none => .accepted
          | some k => if k = m then .duplicate else .bad 11
      else if (old.map fun u => u.stage == 3).getD false then .accepted
      else if 1048576 * s.fld R.SCN_TRS_HOLD_SIZE_mib < s.holdUsed + payload.length then .full
      else .accepted

/-- A unit is started by its first accepted packet (R114). -/
def State.beginUnit (s : State) (v : Nat) (h : TrsHead) : State × TrsUnit :=
  match s.unitOf v h.frame h.unit with
  | some u =>
    if u.begun then (s, u)
    else
      let u := { u with begun := true, type := h.type, apron := h.apron }
      (((s.setUnit u).addTerm (trsStarted v) 1).countTrs v 9 1, u)
  | none =>
    let u : TrsUnit := { slot := v, frame := h.frame, unit := h.unit, type := h.type, apron := h.apron, lo := h.seq, hi := h.seq }
    (({ s with trs := { s.trs with units := s.trs.units ++ [u] } }.addTerm (trsStarted v) 1).showProgress v, u)

/-- The effects of an accepted packet. -/
def State.trsAccept (s : State) (v : Nat) (h : TrsHead) (d payload : List Byte) : State :=
  let x := s.stream v
  let inLost := x.test h.seq == .fillLost
  let (y, gone) := x.accept h.seq s.ptp.f
  let s := ((s.setStream v y).countTrs v 1 1).countTrs v 7 gone
  let s := (s.setFld (R.SCN_TRS_CNT_count v 12) (s.fld (R.SCN_TRS_CNT_count v 12) + d.length)).addTerm (R.SCN_TRS_CNT v 12) d.length
  let (s, u) := s.beginUnit v h
  if u.stage ≠ 0 then s
  else if inLost then s.loseUnit u 1
  else if h.type = 0x20 then
    match s.markerOf h payload with
    | .ok m =>
      let x := s.trsGroup h.group
      (s.setTrsGroup h.group { x with markers := x.markers ++ [m] }).deliverUnit u
    | .error _ => s
  else s.setUnit (u.add h d payload s.ptp.f)

/-- A malformed packet of slot `v` is counted and posted (R89). -/
def State.trsBad (s : State) (v reason : Nat) : State := (s.countTrs v 5 1).postBad v reason

/-- A packet of no stream that takes it (R90). -/
def State.trsUnknown (s : State) (p : Nat) (h : TrsHead) : State × Arrival :=
  ((s.bump (R.SCN_TRS_UNKNOWN_count p)).postLimited (0x056500000 + p) 1000000000 0x0565 p h.id, .unknown)

/-- One packet from source `p` (R89, R90). -/
def State.trsArrive (s : State) (p : Nat) (d : List Byte) (fragment : Bool) : State × Arrival :=
  let h := TrsHead.of d
  let slot := s.slotOfStream h.id
  let early := if h.sync ≠ 0x7A53 ∨ h.version ≠ 1 then some 1
    else if h.stated d ≠ d.length ∨ 9000 < d.length then some 2
    else if crc32c (d.take (d.length - 4)) ≠ leAt d (d.length - 4) 4 then some 3
    else none
  match early, slot with
  | some r, some v => ((s.countTrs v 0 1).trsBad v r, .bad r)
  | some r, none => (s, .bad r)
  | none, none => s.trsUnknown p h
  | none, some v =>
    if (s.stream v).sources.testBit p = false then s.trsUnknown p h
    else
      let s := s.countTrs v 0 1
      let payload := slice d (h.payloadAt (h.subsamples d)) h.length
      let a := s.trsTest v h d payload fragment
      (match a with
        | .accepted => s.trsAccept v h d payload
        | .bad r => s.trsBad v r
        | .unknown => s
        | .duplicate => s.countTrs v 2 1
        | .late => s.countTrs v 3 1
        | .horizon => s.countTrs v 4 1
        | .full =>
          let s := s.countTrs v 6 1
          let n := s.trs.holdDrops + 1
          let post := s.mayPost 0x056300000 1000000
          let s := s.postLimited 0x056300000 1000000 0x0563 0 n
          { s with trs := { s.trs with holdDrops := if post then 0 else n } }, a)

/-! ## Loss (R96) -/

/-- Whether sequence number `q` lies between the packets of a unit. -/
def TrsUnit.spans (u : TrsUnit) (q : Nat) : Bool := decide (seqAhead q u.lo < 2 ^ 31) && decide (seqAhead u.hi q < 2 ^ 31)

/-- HOLE_LOSS_WAIT_EXPIRY (R96): the holes of slot `v` made together with its oldest are lost, and with them every unfinished
unit that has packets on both sides of one. -/
def execHoleLossWaitExpiry (v : Nat) (s : State) : Host.Outcome State Fault Refusal :=
  .next (match (s.stream v).holes with
    | [] => s
    | h :: _ =>
      let x := s.stream v
      let gone := x.holes.filter fun k => k.at_ == h.at_
      let left := x.holes.filter fun k => k.at_ != h.at_
      let s := s.setStream v { x with holes := left, lost := keepLost (x.lost ++ gone) (x.smax.getD 0) }
      let s := s.countTrs v 7 (gone.map Hole.n).sum
      let us := s.trs.units.filter fun u => u.slot == v && u.begun && u.stage == 0 && gone.any fun k => u.spans k.seq
      us.foldl (fun s' u => s'.loseUnit u 1) s)

/-- UNIT_INCOMPLETE_EXPIRY (R96 item 2). -/
def execUnitIncompleteExpiry (v f n : Nat) (s : State) : Host.Outcome State Fault Refusal :=
  let g := s.slotGroup v
  let entry := ((s.trsGroup g).markers.find? fun m => m.frame == f).bind fun m =>
    m.entries.find? fun e => e.1 == s.fld (R.SCN_TRS_STREAM_stream_id v)
  let past := (((s.trsGroup g).committed).map (frameAtOrBefore f)).getD false
  .next (if 64 ≤ v ∨ s.fld (R.SCN_TRS_STREAM_enable v) = 0 then s
    else match s.unitOf v f n with
      | some u =>
        if u.stage = 0 ∧ (past = true ∨ ((s.trsGroup g).markers.any fun m => m.frame == f) = true) then s.loseUnit u 2 else s
      | none =>
        -- no packet of it has come: it was never started (R114)
        match entry with
        | some (_, k) =>
          if n < k then
            let type := if (s.stream v).types.testBit 0 then 1 else if (s.stream v).types.testBit 1 then 2 else 0x10
            let u : TrsUnit := { slot := v, frame := f, unit := n, type := type, begun := false }
            { s with trs := { s.trs with units := s.trs.units ++ [u] } }.loseUnit u 2
          else s
        | none => s)

/-- TRS_MARKER_MISSING (R105): the staging frame of group `g`, without a marker, folds into the next frame that has one. -/
def execTrsMarkerMissing (g : Nat) (s : State) : Host.Outcome State Fault Refusal :=
  .next (match s.stagingFrame g with
    | none => s
    | some c =>
      let x := s.trsGroup g
      if x.markers.any fun m => m.frame == c then s
      else
        let later := (x.markers.map Marker.frame).filter fun f => !frameAtOrBefore f c
        match later.foldl lowerFrame none with
        | none => s
        | some t =>
          let folded := ((s.openFrames g).filter fun f => frameAtOrBefore f t && f != t).eraseDups
          let s := s.setTrsGroup g { x with foldTo := some t }
          (folded.foldl (fun s' f => s'.post 0x0564 g f) s).promoteAhead g)

/-! ## Inflated units (R92, R97 to R100) -/

/-- The wrapper header of a TILE, GEOMETRY or VCF unit. -/
structure Wrapper where
  x : Nat
  y : Nat
  w : Nat
  h : Nat
  wrapper : Nat
  check : Nat
  ok : Bool
deriving DecidableEq, Repr

def Wrapper.of (d : List Byte) : Wrapper :=
  let k := leAt d 8 1
  { x := leAt d 0 2, y := leAt d 2 2, w := leAt d 4 2, h := leAt d 6 2, wrapper := k % 4, check := leAt d 12 4
    ok := decide (16 ≤ d.length) && decide (k < 4) && leAt d 9 3 == 0 && (k == 1 || leAt d 12 4 == 0) }

/-- The inflated size of a unit's body (R98); none where its header breaks a rule of its type. -/
def State.bodySize (s : State) (u : TrsUnit) (a : Wrapper) : Option Nat :=
  if a.ok = false then none
  else if u.type = 0x11 then
    if a.x = 0 ∧ a.y = 0 ∧ a.h = 1 ∧ 1 ≤ a.w ∧ a.w ≤ 4096 then some (56 * a.w) else none
  else if a.w = 0 ∨ a.h = 0 then none
  else if u.type = 0x12 then
    if a.x + a.w ≤ s.hx ∧ a.y + a.h ≤ s.hy ∧ s.fld R.SCN_VCF_BASE_base ≠ 0 then some (4 * a.w * a.h) else none
  else
    let l := s.shadowLayer ((s.slotLayer u.slot).getD 0)
    if a.x + a.w ≤ l.w ∧ a.y + a.h ≤ l.h then some (a.w * a.h * texelBytes l.format) else none

/-- A unit that an inflate unit may take: complete, of the staging frame or before (R104). -/
def State.inflatable (s : State) (u : TrsUnit) : Bool :=
  u.stage == 1 && !u.started && (u.type == 0x10 || u.type == 0x11 || u.type == 0x12) && s.mayApply (s.slotGroup u.slot) u.frame

/-- Offers unit `u` of Trastos to inflate unit `n`; a unit whose header or key is bad is lost (R96). -/
def State.startInflate (s : State) (n : Nat) (u : TrsUnit) : State :=
  match s.openUnit u with
  | .error t => t
  | .ok d =>
    match s.bodySize u (Wrapper.of d) with
    | none => s.loseUnit u 5
    | some size =>
      let since := max u.doneAt (s.trsGroup (s.slotGroup u.slot)).stagedAt
      (s.setUnit { u with started := true }).beginJob n
        ⟨0, 1, d.length - 16, size, since, s.slotOwner u.slot, [u.slot, u.frame, u.unit], d⟩

/-- COMPRESSION_JOB_START (R388, R389): free unit `u` takes a complete Trastos unit, or a waiting job. -/
def execCompressionJobStart (u : Nat) (s : State) : Host.Outcome State Fault Refusal :=
  .next (if 12 ≤ u ∨ (s.unitJob u).isSome = true ∨ s.enginesMay = false then s
    else
      -- the writes that the hub holds for CBK apply before a unit takes work (R505)
      let s := s.applyHeld 25
      let mine := if u < 8 && s.unitRoom 0 then s.trs.units.find? s.inflatable else none
      match mine with
      | some x => s.startInflate u x
      | none => match s.pickJob u with
        | some j => s.beginJob u j
        | none => s)

/-- The rows of a TILE body go into the staging copy (R92, R98, R100). -/
def State.writeTile (s : State) (u : TrsUnit) (a : Wrapper) (body : List Byte) : State :=
  let n := (s.slotLayer u.slot).getD 0
  let l := s.shadowLayer n
  let tb := texelBytes l.format
  let base := 64 * s.fld (R.SCN_TRS_ALTBASE_base u.slot)
  let s := (List.range a.h).foldl (fun s' j =>
    s'.memWrite (base + (a.y + j) * l.pitch + a.x * tb) (slice body (j * a.w * tb) (a.w * tb))) s
  let r : Rect := ⟨a.x, a.x + a.w, a.y, a.y + a.h⟩
  { s.pendTexels n r with trs := { s.trs with tiles := s.trs.tiles ++ [(n, r)] } }

/-- The rows of a VCF body go into the staging copy (R26, R98). -/
def State.writeVcf (s : State) (a : Wrapper) (body : List Byte) : State :=
  ((List.range a.h).foldl (fun s' j => s'.vcfRow a.x (a.y + j) (slice body (4 * j * a.w) (4 * a.w))) s).vcfLoaded
    ⟨a.x, a.x + a.w, a.y, a.y + a.h⟩

/-- One record of a GEOMETRY unit, issued by the stream's owner: the state, and the status of a refusal (R99). -/
def State.geoRecord (s : State) (slot : Nat) (r : List Byte) : State × Option Nat :=
  let op := leAt r 0 2
  let p := fun (b n : Nat) => leAt r b n
  let n := bitsOf (p 16 1) 0 6
  let owner := s.slotOwner slot
  let bad := match findOp op with
    | some o => (reservedByte o (slice r 8 48) 48).isSome
    | none => true
  let right := owner == 0 || (s.reg (R.HST_FN_RIGHTS owner)).toNat.testBit (op / 256)
  let owned := owner == 0 || (s.fld (R.SCN_LAYER_STATUS_owned n) == 1 && s.fld (R.SCN_LAYER_STATUS_owner n) == owner)
  if (findOp op).isSome && !right then (s, some stNotPermitted)
  else if bad then (s, some stBadParam)
  else if !owned || s.actFld (R.SCN_LAYER_CFG_group n) != s.slotGroup slot then (s, some stNotPermitted)
  else if op = Op.layerGeometry.code then
    match s.layerGeometry owner p with
    | (t, some (st, _)) => (t, some st)
    | (t, none) => (t, none)
  else (s.layerColour n p, none)

/-- Whether the records of a body are of the two opcodes, with nothing reserved set and no table (R99). -/
def geoOk (body : List Byte) (n : Nat) : Bool :=
  (List.range n).all fun i =>
    let r := slice body (56 * i) 56
    (leAt r 0 2 == Op.layerGeometry.code || (leAt r 0 2 == Op.layerColour.code && !(leAt r 17 1).testBit 3)) && leAt r 2 6 == 0

/-- The records of a unit are applied in order; a refused one is posted and counted (R99). -/
def State.geoRecords (s : State) (slot : Nat) (body : List Byte) (n : Nat) : State :=
  (List.range n).foldl (fun s' i =>
    match s'.geoRecord slot (slice body (56 * i) 56) with
    | (t, none) => t
    | (t, some st) => (t.countTrs slot 14 1).post 0x0566 slot (i + st * 65536) (some (s'.slotOwner slot))) s

/-- What the inflate unit makes of a body (R98). -/
def Wrapper.inflate (a : Wrapper) (d : List Byte) (size : Nat) : JobEnd :=
  let body := d.drop 16
  if a.wrapper = 0 then { status := 0, consumed := body.length, out := body.take (size + 1) }
  else
    let e := inflateJob (Infl.fresh (a.wrapper - 1)) [] [] body (size + 1) size a.check true
    e

/-- Whether a unit was held for its scene frame, and is not yet applied (R104). -/
def State.wasHeld (s : State) (u : TrsUnit) : Bool :=
  u.stage == 1 && (u.type == 0x10 || u.type == 0x11 || u.type == 0x12) && decide (u.doneAt ≤ (s.trsGroup (s.slotGroup u.slot)).stagedAt)

/-- Whether a held unit that arrived before the held unit `u` of its group and frame is not yet applied (R104). -/
def State.heldBefore (s : State) (u : TrsUnit) : Bool :=
  s.wasHeld u && ((s.trs.units.takeWhile fun w => !(w.slot == u.slot && w.frame == u.frame && w.unit == u.unit)).any fun w =>
    s.wasHeld w && w.frame == u.frame && s.slotGroup w.slot == s.slotGroup u.slot)

/-- What a unit's write waits for: a copy-forward (R26, R92), or an earlier held unit (R104). -/
def State.unitWaits (s : State) (u : TrsUnit) : Bool :=
  s.heldBefore u || (u.type == 0x10 && s.isCopying 0 ((s.slotLayer u.slot).getD 0)) || (u.type == 0x12 && s.isCopying 1 0)

/-- UNIT_INFLATED (R92, R96 to R99, R104): inflate unit `n` completes the body of a Trastos unit; a TILE or VCF waits for the
copy-forward, and a held unit for those that arrived before it. -/
def execUnitInflated (n : Nat) (s : State) : Host.Outcome State Fault Refusal :=
  .next (match s.unitJob n with
    | none => s
    | some j =>
      if j.dir ≠ 0 ∨ j.cls ≠ 1 then s
      else
        let a := Wrapper.of j.data
        let e := a.inflate j.data j.dst
        let fin := fun (t : State) => (t.countOutcome n j e.status e.reason).freeUnit n e.consumed (min e.out.length j.dst)
        match s.unitOf (j.who.getD 0 0) (j.who.getD 1 0) (j.who.getD 2 0) with
        | none => fin s
        | some u =>
          if u.stage ≠ 1 then fin s
          else if s.unitWaits u then s
          else
            let s := fin s
            if e.status = 3 ∨ e.status = 4 ∨ j.dst < e.out.length then s.loseUnit u (if a.wrapper = 0 then 5 else 4)
            else if e.status ≠ 0 ∨ e.out.length ≠ j.dst ∨ s.bodySize u a ≠ some j.dst then s.loseUnit u 5
            else if u.type = 0x10 then (s.writeTile u a e.out).deliverUnit u
            else if u.type = 0x12 then (s.writeVcf a e.out).deliverUnit u
            else if geoOk e.out a.w then (s.geoRecords u.slot e.out a.w).deliverUnit u
            else s.loseUnit u 5)

/-! ## Binding (R91 to R93, R107, R115) -/

/-- Unbinds slot `v`: its unfinished units are discarded, and its alternate base is released (R93). -/
def State.unbind (s : State) (v : Nat) : State :=
  let s := s.countTrs v 10 (s.inProgress v)
  let s := { s with trs := { s.trs with units := s.trs.units.filter fun u => u.slot != v } }.showProgress v
  let s := match s.slotLayer v with
    | some n =>
      if s.tileSlot n = some v ∧ (s.trs.tiles.any fun t => t.1 == n) = true then
        { s with trs := { s.trs with loose := Store.set (fun _ => 0) s.trs.loose n (s.fld (R.SCN_TRS_ALTBASE_base v)) } }
      else s
    | none => s
  ((s.setReg (R.SCN_TRS_STREAM v) 0).setReg (R.SCN_TRS_ALTBASE v) 0).setStream v {}

/-- STREAM_BIND clears the counters of its slot; their ledger terms go on (R498). -/
def State.clearTrs (s : State) (v : Nat) : State := (List.range 16).foldl (fun s' k => s'.setReg (R.SCN_TRS_CNT v k) 0) s

/-- The packet byte at which a binding breaks R91, if it does. -/
def State.bindFault (s : State) (v id layer group types : Nat) (noLayer : Bool) : Option Nat :=
  let l := s.shadowLayer layer
  let has := fun (b : Nat) => types.testBit b
  if id = 0 then some 16
  else if (has 2 && (noLayer || isVideo layer)) || (has 0 && (noLayer || !(isVideo layer))) ||
      (has 1 && (noLayer || !(isVideo layer) || l.kind == 0)) || (has 4 && group != s.fld R.SCN_VIEW_CTRL_group) then some 22
  else if ((List.range 64).any fun k =>
      k != v && s.fld (R.SCN_TRS_STREAM_enable k) == 1 && s.fld (R.SCN_TRS_STREAM_stream_id k) == id) then some 16
  else none

/-- Whether slot `v` is bound by another client than `f` (R115). -/
def State.slotForeign (s : State) (v f : Nat) : Bool :=
  f != 0 && s.fld (R.SCN_TRS_STREAM_stream_id v) != 0 && s.slotOwner v != f

/-- Bytes `src` to `src + n - 1` of module DRAM go into `t`, to `dst` on, a texel rectangle's row at a time. -/
def State.carryTiles (s : State) (n src dst : Nat) (t : State) : State :=
  let l := s.shadowLayer n
  if src = 0 then t
  else
    (s.trs.tiles.filter fun r => r.1 == n).foldl (fun t r =>
      (List.range (r.2.y1 - r.2.y0).toNat).foldl (fun t j =>
        let at_ := (r.2.y0.toNat + j) * l.pitch + r.2.x0.toNat * texelBytes l.format
        t.memCopy (src + at_) (dst + at_) ((r.2.x1 - r.2.x0).toNat * texelBytes l.format)) t) t

/-- STREAM_BIND (R91 to R93, R107, R115). -/
def execStreamBind (id : Nat) (bus : Bus) (s : State) : Host.Outcome State Fault Refusal :=
  .next (s.runOp id .streamBind fun c s =>
    let v := c.pb 18 0 6
    let alt := c.pb 8 0 36
    let layer := c.pb 20 0 6
    let noLayer := c.flag 20 7
    let group := c.pb 21 0 4
    let types := c.pb 22 0 6
    let enable := c.flag 19 0
    let tile := types.testBit 2
    if c.flag 19 1 then
      if s.slotForeign v c.client then s.refuse c stNotPermitted 0
      else ((s.unbind v).clearTrs v).finishOne c
    else match s.bindFault v (c.p 16 2) layer group types noLayer with
      | some k => s.refuse c stBadParam k
      | none =>
        if enable = true ∧ s.fld R.SCN_TRS_HOLD_BASE_base = 0 then s.refuse c stBadParam 7
        else if s.slotForeign v c.client ∨ (noLayer = false ∧ s.mayUseLayer c.client layer = false) then s.refuse c stNotPermitted 0
        else if alt % 64 ≠ 0 ∨ (tile = true ∧ alt = 0) then s.refuse c stBadParam 4
        else
          let s := (s.unbind v).clearTrs v
          let s := (s.setFld (R.SCN_TRS_STREAM_stream_id v) (c.p 16 2)).setFld (R.SCN_TRS_STREAM_layer v) layer
          let s := (s.setFld (R.SCN_TRS_STREAM_no_layer v) (bit noLayer)).setFld (R.SCN_TRS_STREAM_enable v) (bit enable)
          let s := (s.setFld (R.SCN_TRS_STREAM_group v) group).setFld (R.SCN_TRS_STREAM_owner v) c.client
          let s := s.setStream v { types := types, sources := c.pb 24 0 9, codec := c.pb 23 0 1 }
          let s := if types.testBit 0 then s.setFld (R.DEC_LAYER_CFG_codec layer) (c.pb 23 0 1) else s
          let s := if tile && enable then
              let l := s.shadowLayer layer
              let s := s.setFld (R.SCN_TRS_ALTBASE_base v) (alt / 64)
              let held := 64 * Store.get (fun _ => 0) s.trs.loose layer
              let s := { s with trs := { s.trs with loose := Store.set (fun _ => 0) s.trs.loose layer 0 } }
              -- R93: tiles that wait for the clamp go on in the new staging copy
              s.carryTiles layer held alt (s.memCopy l.base alt (l.pitch * l.h))
            else s
          s.finishOne c)

/-! ## Submission (R113) -/

/-- Whether a command's read of `n` bytes at `addr` would succeed. -/
def State.canRead (s : State) (b : Bus) (c : Cmd) (isDram : Bool) (addr n : Nat) : Bool :=
  if isDram then c.inWindow addr n && !((linesOf addr n).any fun l => s.maBad (max l addr)) else !(busFails b addr n)

/-- Bytes as a command would read them, uncounted. -/
def State.peek (s : State) (b : Bus) (isDram : Bool) (addr n : Nat) : List Byte :=
  (List.range n).map fun j => if isDram then s.maByte (addr + j) else busByte b (addr + j)

/-- The item of a packet (R113). -/
def Arrival.item (a : Arrival) : Item :=
  match a with
  | .bad r => ⟨stBadParam, r, 0⟩
  | .unknown => ⟨stBadParam, 4, 0⟩
  | .duplicate => ⟨stBadParam, 10, 0⟩
  | .late => ⟨stBadParam, 11, 0⟩
  | .horizon => ⟨stBadParam, 11, 0⟩
  | .full => ⟨stDone, 0, 0⟩
  | .accepted => ⟨stDone, 0, 0⟩

/-- A packet that runs past its buffer fails test 2 of R89, or test 1 before it; `d` is what the buffer holds of its header. -/
def State.trsShort (s : State) (d : List Byte) : State :=
  let h := TrsHead.of d
  match s.slotOfStream h.id with
  | some v => (s.countTrs v 0 1).trsBad v (if h.sync ≠ 0x7A53 ∨ h.version ≠ 1 then 1 else 2)
  | none => s

/-- Walks a buffer of packets; `fuel` bounds their number. -/
def State.trsWalk (s : State) (b : Bus) (c : Cmd) (isDram : Bool) (addr bytes : Nat) : Nat → Nat → State × List Item
  | 0, _ => (s, [])
  | fuel + 1, at_ =>
    if bytes ≤ at_ then (s, [])
    else
      let a := addr + at_
      let fault := ((s.srcRead b c isDram a 32).1, [(⟨stFault, 0, 0⟩ : Item)])
      let short := fun (n : Nat) => (s.trsShort (s.peek b isDram a n), [(⟨stBadParam, 2, 0⟩ : Item)])
      if bytes < at_ + 36 then (if s.canRead b c isDram a (bytes - at_) then short (min 32 (bytes - at_)) else fault)
      else if s.canRead b c isDram a 32 = false then fault
      else
        let h := TrsHead.of (s.peek b isDram a 32)
        let na := a + h.cryptoAt + 34
        if h.extCrypto && decide (bytes < at_ + h.cryptoAt + 36) then short 32
        else if h.extCrypto && !(s.canRead b c isDram na 2) then fault
        else
          let n := if h.extCrypto then leNat (s.peek b isDram na 2) else 0
          let len := h.payloadAt n + h.length + 4
          if bytes < at_ + len then short 32
          else
            match s.srcRead b c isDram a len with
            | (s, _, false) => (s, [⟨stFault, 0, 0⟩])
            | (s, d, true) =>
              let (s, r) := s.trsArrive 8 d false
              let (s, items) := s.trsWalk b c isDram addr bytes fuel (at_ + ceilDiv len 8 * 8)
              (s, r.item :: items)

/-- TRASTOS_SUBMIT (R107, R113). -/
def execTrastosSubmit (id : Nat) (bus : Bus) (s : State) : Host.Outcome State Fault Refusal :=
  .next (s.runOp id .trastosSubmit fun c s =>
    let bytes := c.p 16 4
    if bytes = 0 ∨ 16777216 < bytes then s.refuse c stBadParam 16
    else if s.fld R.SCN_TRS_HOLD_BASE_base = 0 then s.refuse c stBadParam 7
    else
      let (s, items) := s.trsWalk bus c (c.flag 20 0) (c.p 8 8) bytes (bytes / 36 + 1) 0
      s.finishAs c items)

/-! ## Keys (R110, R111, R116, R117) -/

/-- Whether a key slot belongs to another client than `f`. -/
def keyForeign (k : Option KeySlot) (f : Nat) : Bool := (k.map fun x => x.owner != f).getD false

/-- KEK_ESTABLISH (R110, R116). -/
def execKekEstablish (id : Nat) (bus : Bus) (s : State) : Host.Outcome State Fault Refusal :=
  .next (s.runOp id .kekEstablish fun c s =>
    let k := c.pb 16 0 2
    match s.srcRead bus c false (c.p 8 8) 97 with
    | (s, _, false) => s.failOne c stFault
    | (s, d, true) =>
      if onCurve d = false then s.refuse c stBadParam 1
      else if keyForeign (Store.get (fun _ => none) s.trs.keks k) c.client then s.refuse c stNotPermitted 0
      else
        let key := kekOf ((List.range 48).map fun i => Config.ecdh d i)
        { s with trs := { s.trs with keks := Store.set (fun _ => none) s.trs.keks k (some ⟨c.client, [], key⟩) } }.finishOne c)

/-- KEY_LOAD (R110, R111, R117). -/
def execKeyLoad (id : Nat) (bus : Bus) (s : State) : Host.Outcome State Fault Refusal :=
  .next (s.runOp id .keyLoad fun c s =>
    let k := c.pb 8 0 7
    let old := Store.get (fun _ => none) s.trs.keys k
    let kek := Store.get (fun _ => none) s.trs.keks (c.pb 9 0 2)
    let put := fun (x : Option KeySlot) => { s with trs := { s.trs with keys := Store.set (fun _ => none) s.trs.keys k x } }
    let kid := slice c.params 8 16
    if c.flag 10 0 then
      if keyForeign old c.client then s.refuse c stNotPermitted 0 else (put none).finishOne c
    else match kek.bind fun q => keyUnwrap q.key (slice c.params 24 24) with
      | none => s.refuse c stBadParam 2
      | some key =>
        if (List.range 128).any fun j => j != k && (match Store.get (fun _ => none) s.trs.keys j with
            | some x => x.owner == c.client && x.kid == kid
            | none => false) then s.refuse c stBadParam 3
        else if keyForeign old c.client || keyForeign kek c.client then s.refuse c stNotPermitted 0
        else (put (some ⟨c.client, kid, key⟩)).finishOne c)

/-- KEY_PUBLIC_READ (R110). -/
def execKeyPublicRead (id : Nat) (bus : Bus) (s : State) : Host.Outcome State Fault Refusal :=
  .next (s.runOp id .keyPublicRead fun c s =>
    match s.dstWrite bus c false (c.p 8 8) ((List.range 97).map Config.publicKey) with
    | (s, true) => s.finishOne c
    | (s, false) => s.failOne c stFault)

end Sys2Proof.Machine
end

