-- ==== Sys2Proof/Machine/Wall.lean ====
section
/-! DEFINITION. Walls of modules: Worvel ports, frame lock, membership, the wall clamp, scarf relay (chapter 14). -/

namespace Sys2Proof.Machine

open Sys2Proof

/-! ## Place in the wall (R315, R316) -/

/-- What Worvel port `p` holds beside its registers. -/
def State.wp (s : State) (p : Nat) : WvlPort := Store.get (fun _ => {}) s.wvl.ports p

def State.setWp (s : State) (p : Nat) (x : WvlPort) : State :=
  { s with wvl := { s.wvl with ports := Store.set (fun _ => {}) s.wvl.ports p x } }

/-- Whether the module is part of a wall. -/
def State.walled (s : State) : Bool := s.fld R.WVL_WALL_CFG_enable == 1

/-- A module's number, from its coordinates. -/
def moduleNumber (x y : Nat) : Nat := 16 * y + x

def State.ownModule (s : State) : Nat := moduleNumber (s.fld R.WVL_WALL_CFG_x) (s.fld R.WVL_WALL_CFG_y)
def State.masterModule (s : State) : Nat := moduleNumber (s.fld R.WVL_WALL_CFG_mx) (s.fld R.WVL_WALL_CFG_my)
def State.alternateModule (s : State) : Nat := moduleNumber (s.fld R.WVL_WALL_CFG2_ax) (s.fld R.WVL_WALL_CFG2_ay)
def State.isMaster (s : State) : Bool := s.ownModule == s.masterModule
def State.isAlternate (s : State) : Bool := s.fld R.WVL_WALL_CFG_alt_valid == 1 && s.ownModule == s.alternateModule

/-- The coordinates that port `p` faces: 0 N, 1 E, 2 S, 3 W; none outside the wall (R316). -/
def State.facing (s : State) (p : Nat) : Option (Nat × Nat) :=
  let x := s.fld R.WVL_WALL_CFG_x
  let y := s.fld R.WVL_WALL_CFG_y
  match p with
  | 0 => if y = 0 then none else some (x, y - 1)
  | 1 => if x < s.fld R.WVL_WALL_CFG_wx then some (x + 1, y) else none
  | 2 => if y < s.fld R.WVL_WALL_CFG_wy then some (x, y + 1) else none
  | _ => if x = 0 then none else some (x - 1, y)

/-- The lane with Worvel port `p` and number `k` (R276). -/
def wvlLane (p k : Nat) : Nat := 224 + 8 * p + k

/-- The lanes that a mask of port `p` names. -/
def wvlLanes (p m : Nat) : List Nat := (setBits 8 m).map (wvlLane p)

/-- The groups with CLP_GROUP_CFG.wall = 1. -/
def State.wallGroups (s : State) : List Nat := (List.range 16).filter fun g => s.fld (R.CLP_GROUP_CFG_wall g) == 1

/-! ## Credits (R320) -/

/-- Credits that port `p` may still use (R258). -/
def WvlPort.available (x : WvlPort) : Nat := x.g + x.r - x.u - x.xa

/-- Credits used and not yet returned (R258). -/
def WvlPort.outstanding (x : WvlPort) : Nat := x.u - x.r - x.xo

/-- Sets port `p` and shows its credits. -/
def State.putWp (s : State) (p : Nat) (x : WvlPort) : State :=
  ((s.setWp p x).setFld (R.WVL_PORT_CREDIT_available p) (min 65535 x.available)).setFld (R.WVL_PORT_CREDIT_outstanding p)
    (min 65535 x.outstanding)

def State.portIn (s : State) (p : Nat) : Bool := s.fld (R.WVL_PORT_STATUS_in_service p) == 1

/-- A Worvel port count rises. -/
def State.countWvl (s : State) (p k d : Nat) : State := s.count (R.WVL_PORT_CNT_count p k) d

/-! ## Packets (R319) -/

/-- A Worvel packet, padded to whole stream slots. -/
def worvelPacket (type vc : Nat) (flood deflated : Bool) (origin hops seq : Nat) (payload : List Byte) : List Byte :=
  let h := leBytes 2 0xB7E5 ++ leBytes 1 type ++ leBytes 1 (vc + 2 * bit flood + 4 * bit deflated) ++ leBytes 2 payload.length ++
    leBytes 1 origin ++ leBytes 1 hops ++ leBytes 4 seq
  let d := h ++ leBytes 4 (crc32c h) ++ payload ++ leBytes 4 (crc32c payload)
  d ++ List.replicate ((10 - d.length % 10) % 10) 0

/-- A packet leaves port `p`. -/
def State.sendWvl (s : State) (p : Nat) (d : List Byte) : State := (s.emit (.worvel p d)).countWvl p 0 1

/-- The credits that the next `n` stream bytes of a start take. -/
def WvlPort.need (x : WvlPort) (n : Nat) : Nat := ceilDiv (x.sent + n) 256 - ceilDiv x.sent 256

/-- A packet that its credits cover leaves port `p`. -/
def State.spendWvl (s : State) (p : Nat) (d : List Byte) : State :=
  let x := s.wp p
  (s.putWp p { x with u := x.u + x.need d.length, sent := x.sent + d.length, stalled := false }).sendWvl p d

/-- A credit stall is counted once. -/
def State.stallWvl (s : State) (p : Nat) : State :=
  let x := s.wp p
  if x.stalled then s else (s.setWp p { x with stalled := true }).countWvl p 7 1

/-- The next sequence number of a type that this module originates. -/
def State.takeSeq (s : State) (type : Nat) : State × Nat :=
  let q := Store.get (fun _ => 0) s.wvl.seqOut type
  ({ s with wvl := { s.wvl with seqOut := Store.set (fun _ => 0) s.wvl.seqOut type ((q + 1) % 2 ^ 32) } }, q)

/-- A packet of this module, with hops 0. -/
def State.ownPacket (s : State) (type vc : Nat) (flood deflated : Bool) (payload : List Byte) : State × List Byte :=
  let (s, q) := s.takeSeq type
  (s, worvelPacket type vc flood deflated s.ownModule 0 q payload)

/-- Sends what waits at port `p`, control packets first, as far as the credits cover it (R320). -/
def State.pump (s : State) (p : Nat) : Nat → State
  | 0 => s
  | n + 1 =>
    let x := s.wp p
    if s.portIn p = false then s
    else match x.control, x.relay with
      | d :: rest, _ =>
        if x.need d.length ≤ x.available then (((s.setWp p { x with control := rest }).spendWvl p d).pump p n) else s.stallWvl p
      | [], e :: rest =>
        match e.form with
        | none => s
        | some (deflated, body) =>
          let (t, d) := (s.setWp p { x with relay := rest }).ownPacket 0x10 1 false deflated body
          if x.need d.length + 64 < x.available then ((t.spendWvl p d).countWvl p 5 1).pump p n else s.stallWvl p
      | [], [] => s

/-- Sends what waits at port `p`. -/
def State.pumpAll (s : State) (p : Nat) : State := s.pump p ((s.wp p).control.length + (s.wp p).relay.length)

/-- A control packet is ready at port `p`. -/
def State.control (s : State) (p : Nat) (d : List Byte) : State :=
  if s.portIn p then (let x := s.wp p; (s.setWp p { x with control := x.control ++ [d] }).pumpAll p) else s

/-- A packet goes to every port in service but `but`. -/
def State.spread (s : State) (but : Nat) (d : List Byte) : State :=
  (List.range 4).foldl (fun s' p => if p = but then s' else s'.control p d) s

/-- A flood packet of this module (R322). -/
def State.flood (s : State) (type : Nat) (payload : List Byte) : State :=
  let (s, d) := s.ownPacket type 0 true false payload
  s.spread 4 d

/-! ## The master in force (R323, R327, R336) -/

/-- Word `j` of the last SUMMARY of module `m`, and its byte `k`. -/
def State.peerByte (s : State) (m k : Nat) : Nat := bitsOf (s.reg (R.WVL_PEER m (k / 8))).toNat (8 * (k % 8)) 8

/-- `n` bytes of the last SUMMARY of module `m`, from byte `k` on. -/
def State.peerAt (s : State) (m k n : Nat) : Nat := leNat ((List.range n).map fun i => BitVec.ofNat 8 (s.peerByte m (k + i)))

/-- Whether module `m` is a member. -/
def State.member (s : State) (m : Nat) : Bool := (s.reg (R.WVL_PEER m 7)).toNat.testBit 0

/-- The neighbour at port `p`. -/
def State.neighbour (s : State) (p : Nat) : Nat := moduleNumber (s.fld (R.WVL_PORT_STATUS_nx p)) (s.fld (R.WVL_PORT_STATUS_ny p))

/-- Whether the route through port `p` ends at the alternate. -/
def State.viaAlternate (s : State) (p : Nat) : Bool :=
  if s.fld (R.WVL_PORT_STATUS_nhops p) = 0 then s.neighbour p != s.masterModule else bitOf (s.peerByte (s.neighbour p) 2) 2

/-- The port of the best route, with the hops it gives; the alternate takes none to itself. -/
def State.bestPort (s : State) : Option (Nat × Nat) :=
  (List.range 4).foldl (fun best p =>
    let h := s.fld (R.WVL_PORT_STATUS_nhops p) + 1
    if s.portIn p = false ∨ 31 ≤ h ∨ (s.isAlternate && s.viaAlternate p) = true then best
    else match best with
      | none => some (p, h)
      | some (q, k) => if h < k then some (p, h) else some (q, k)) none

/-- Sets the lock state and posts WALL_LOCK where it changes. -/
def State.setLock (s : State) (st cause : Nat) : State :=
  if s.fld R.WVL_WALL_STATUS_lock = st then s
  else (s.setFld R.WVL_WALL_STATUS_lock st).post 0x0D02 0 (st + 4 * cause)

/-- Sets or clears alone in every wall group. -/
def State.aloneGroups (s : State) (on : Bool) : State :=
  s.wallGroups.foldl (fun s' g => s'.setFld (R.CLP_GROUP_STATUS_alone g) (bit on)) s

/-- The module becomes alone (R336). -/
def State.goAlone (s : State) : State :=
  if s.fld R.WVL_WALL_STATUS_alone = 1 then s
  else
    let s := ((s.setFld R.WVL_WALL_STATUS_alone 1).aloneGroups true).post 0x0D04 0 1
    if s.fld R.WVL_WALL_STATUS_lock = 2 then s.setLock 3 2 else s

/-- The parent, the hops and the master followed are found again (R323, R327, R336). -/
def State.reroute (s : State) : State :=
  if s.walled = false then s
  else
    let best := if s.isMaster then none else s.bestPort
    let old := (List.range 4).find? fun p => s.fld (R.WVL_PORT_STATUS_parent p) == 1
    let parent := best.map Prod.fst
    let s := (List.range 4).foldl (fun s' p => s'.setFld (R.WVL_PORT_STATUS_parent p) (bit (parent == some p))) s
    let s := match parent with
      | some p => if old = some p then s else s.setWp p { s.wp p with offsets := [] }
      | none => s
    match best with
    | some (p, h) => (s.setFld R.WVL_WALL_STATUS_hops h).setFld R.WVL_WALL_STATUS_alternate (bit (s.viaAlternate p))
    | none =>
      if s.isMaster then
        { (s.setFld R.WVL_WALL_STATUS_hops 0).setFld R.WVL_WALL_STATUS_alternate 0 with wvl := { s.wvl with ofs := 0 } }
      else if s.isAlternate then (s.setFld R.WVL_WALL_STATUS_hops 0).setFld R.WVL_WALL_STATUS_alternate 1
      else ((s.setFld R.WVL_WALL_STATUS_hops 31).setFld R.WVL_WALL_STATUS_alternate 0).goAlone

/-- Whether the module acts as master: the master, or the alternate with no route to it. -/
def State.actsMaster (s : State) : Bool := s.walled && s.fld R.WVL_WALL_STATUS_hops == 0

/-- The master in force. -/
def State.masterInForce (s : State) : Nat :=
  if s.fld R.WVL_WALL_STATUS_alternate = 1 then s.alternateModule else s.masterModule

/-! ## Ports in and out of service (R317, R318, R320, R336) -/

/-- WVL_PORT_STATE. -/
def State.postPort (s : State) (p : Nat) : State :=
  s.post 0x0D00 p (bit (s.portIn p) + 16 * s.fld (R.WVL_PORT_STATUS_lanes p))

/-- Port `p` leaves service: credits and waiting packets are written off, a new parent is chosen. -/
def State.portLeaves (s : State) (p : Nat) : State :=
  let x := s.wp p
  let s := (s.countWvl p 9 x.control.length).countWvl p 6 x.relay.length
  let s := s.putWp p { x with xa := x.xa + x.available, xo := x.xo + x.outstanding, control := [], relay := [], stalled := false }
  let s := { s with cmp := { s.cmp with waiting := s.cmp.waiting.filter fun j => !(j.cls == 1 && j.dir == 1 && j.who.headD 4 == p) } }
  let s := ((s.setFld (R.WVL_PORT_STATUS_in_service p) 0).setFld (R.WVL_PORT_STATUS_nhops p) 255).reroute
  (s.post 0x0D03 p (let h := s.fld R.WVL_WALL_STATUS_hops; if h = 31 then 255 else h)).postPort p

/-- Port `p` enters service: 4,096 credits are granted. -/
def State.portEnters (s : State) (p : Nat) : State :=
  let x := s.wp p
  let s := s.putWp p { x with g := x.g + 4096, base := 0, sent := 0, drained := 0, linkedAt := s.ptp.f }
  ((s.setFld (R.WVL_PORT_STATUS_in_service p) 1).reroute).postPort p

/-- Shows the lanes of port `p` and takes it into or out of service. -/
def State.refreshPort (s : State) (p : Nat) : State :=
  let x := s.wp p
  let m := x.work &&& x.rx
  let lanes := s.fld (R.WVL_PORT_STATUS_lanes p)
  let s := (s.setFld (R.WVL_PORT_STATUS_lanes p) m).setFld (R.WVL_PORT_STATUS_count p) (popCount 8 m)
  let ok := s.fld (R.WVL_PORT_STATUS_hello_ok p) == 1 && m != 0 && decide (s.fld (R.WVL_PORT_CFG_min_lanes p) ≤ popCount 8 m)
  if ok && !s.portIn p then s.portEnters p
  else if !ok && s.portIn p then s.portLeaves p
  else if lanes = m then s else s.postPort p

/-! ## Lanes (R272, R273, R293, R316, R318) -/

/-- A control-codeword message of port `p`. -/
def State.messageWvl (s : State) (p type : Nat) (payload : List Byte) : State := s.emit (.worvel p (linkMessage type p payload))

/-- Lanes of port `p` begin training. -/
def State.trainWvl (s : State) (p m : Nat) : State :=
  let x := s.wp p
  let keep := fun (v : Nat) => v &&& (255 - m)
  let s := s.setWp p { x with work := keep x.work, rx := keep x.rx, training := x.training ||| m, ours := keep x.ours, theirs := keep x.theirs }
  (wvlLanes p m).foldl State.trainLane s

/-- LANE_MAP of this module's direction: the mask changes at a block A (R272, R318). -/
def State.mapWvl (s : State) (p mask : Nat) : State :=
  let s := s.setWp p { s.wp p with map := some mask }
  s.messageWvl p 0x83 (leBytes 2 mask ++ leBytes 4 (blockA (s.wp p).linkedAt s.ptp.f))

/-- A trained lane of port `p` joins at once while the port is out of service, and else at a block A (R273). -/
def State.wvlTrained (s : State) (p k : Nat) : State :=
  let x := s.wp p
  let s := ((s.setWp p { x with training := maskPut x.training k false, rx := x.rx ||| 2 ^ k }).laneTrained (wvlLane p k)).recordTaps (wvlLane p k)
  if s.portIn p then s.mapWvl p ((x.map.getD x.work) ||| 2 ^ k)
  else ((s.setWp p { s.wp p with work := x.work ||| 2 ^ k }).setLane (wvlLane p k) 3).refreshPort p

/-- WORVEL_TRAIN (R268, R281, R282, R293): the neighbour's request for this module's transmitter is answered with TAP_STATUS; a
lane is trained when both ends have sent done. -/
def execWorvelTrain (p lane taps ctl : Nat) (own : Option (Nat × Nat)) (inverted : Bool) (s : State) : Host.Outcome State Fault Refusal :=
  let i := wvlLane p lane
  .next (if 4 ≤ p ∨ 8 ≤ lane ∨ (s.wp p).training.testBit lane = false then s
    else
      let (s, codes) := s.trainMessage i taps ctl
      let s := s.messageWvl p 0x82 (leBytes 1 lane ++ leBytes 1 (tapByte codes))
      let s := if ctl.testBit 4 then s.setFld (R.LAN_STATUS_precoding i) (bit (ctl.testBit 5)) else s
      let s := match own with
        | some (reqs, back) =>
          let s := if back.testBit 4 then
              (s.setFld (R.LAN_STATUS_rx_inverted i) (bit inverted)).setFld (R.LAN_STATUS_rx_precoding i) (bit (back.testBit 5))
            else s
          s.messageWvl p 0x06 (leBytes 1 lane ++ leBytes 1 (reqs % 256) ++ leBytes 1 (back % 64))
        | none => s
      let x := s.wp p
      let x := { x with theirs := if ctl.testBit 4 then x.theirs ||| 2 ^ lane else x.theirs
                        ours := if (own.map fun o => o.2.testBit 4).getD false then x.ours ||| 2 ^ lane else x.ours }
      let s := s.setWp p x
      if x.ours.testBit lane && x.theirs.testBit lane then s.wvlTrained p lane else s)

/-- WORVEL_LANE_MAP (R318): the neighbour's direction changes its striping. -/
def execWorvelLaneMap (p mask : Nat) (s : State) : Host.Outcome State Fault Refusal :=
  .next (if 4 ≤ p ∨ s.walled = false then s else (s.setWp p { s.wp p with rx := mask % 256 }).refreshPort p)

/-- Lane `k` of port `p` is to be removed (R318). -/
def State.laneWvlFails (s : State) (p k : Nat) : State :=
  let x := s.wp p
  let m := x.map.getD x.work
  if 4 ≤ p ∨ m.testBit k = false then s else s.mapWvl p (maskPut m k false)

/-- Block A of a lane change of port `p`: removed lanes are counted and train again. -/
def State.applyWvlMap (s : State) (p : Nat) : State :=
  match (s.wp p).map with
  | none => s
  | some m =>
    let x := s.wp p
    let gone := x.work &&& (255 - m)
    let back := m &&& (255 - x.work)
    let s := s.setWp p { x with map := none, work := m }
    let s := (wvlLanes p back).foldl (fun t i => t.setLane i 3) s
    ((s.countWvl p 8 (popCount 8 gone)).trainWvl p gone).refreshPort p

/-- LANE_REMOVAL (R272, R318): lane `p` of panel group or Worvel port `q` fails. -/
def execLaneRemoval (worvel : Bool) (q p : Nat) (s : State) : Host.Outcome State Fault Refusal :=
  .next (if worvel then s.laneWvlFails q p else s.lanePanelFails q p)

/-- LANE_MAP_APPLY (R272, R273, R318). -/
def execLaneMapApply (worvel : Bool) (q row written : Nat) (s : State) : Host.Outcome State Fault Refusal :=
  .next (if worvel then (if q < 4 then s.applyWvlMap q else s)
    else if s.link = 0 ∨ s.link = 4 then s else s.applyMap q row written)

/-- TRAINING_LIMIT_EXPIRY (R268, R293). -/
def execTrainingLimitExpiry (who : TrainLimit) (s : State) : Host.Outcome State Fault Refusal :=
  .next (match who with
    | .panel => s.panelTrainingLimit
    | .worvel p lane =>
      let x := s.wp p
      if 4 ≤ p ∨ 8 ≤ lane ∨ x.training.testBit lane = false then s
      else (s.setWp p { x with training := maskPut x.training lane false, ours := maskPut x.ours lane false
                               theirs := maskPut x.theirs lane false }).laneFailed (wvlLane p lane)
    | .ethernet p =>
      if 8 ≤ p then s
      else ([208 + 2 * p, 209 + 2 * p].filter fun i => s.fld (R.LAN_STATUS_state i) == 2).foldl State.laneFailed s)

/-- HALTED_RETRY_EXPIRY (R268): failed lanes train again. -/
def execHaltedRetryExpiry (port : Option Nat) (s : State) : Host.Outcome State Fault Refusal :=
  .next (match port with
    | none => s.panelRetry
    | some p => if 4 ≤ p ∨ s.walled = false then s else
      s.trainWvl p (((List.range 8).filter fun k => s.fld (R.LAN_STATUS_state (wvlLane p k)) == 5).foldl (fun a k => a + 2 ^ k) 0))

/-- WORVEL_PORT_LOSS (R336): every lane of port `p` is lost, and trains again. -/
def execWorvelPortLoss (p : Nat) (s : State) : Host.Outcome State Fault Refusal :=
  .next (if 4 ≤ p ∨ (s.wp p).work = 0 then s
    else
      let m := (s.wp p).work
      let s := s.setWp p { s.wp p with map := none, rx := 0, stamps := none }
      ((s.setFld (R.WVL_PORT_STATUS_hello_ok p) 0).trainWvl p m).refreshPort p)

/-! ## HELLO (R317) -/

/-- The panel's rate in 0.01 Hz. -/
def State.panelRate (s : State) : Nat := s.pnl.rate

/-- HELLO_SEND. -/
def execHelloSend (p : Nat) (s : State) : Host.Outcome State Fault Refusal :=
  .next (if 4 ≤ p ∨ s.walled = false ∨ (s.wp p).work = 0 then s
    else
      let h := s.fld R.WVL_WALL_STATUS_hops
      let d := leBytes 4 (s.fld R.WVL_WALL_ID_id) ++ leBytes 1 (s.fld R.WVL_WALL_CFG_x + 16 * s.fld R.WVL_WALL_CFG_y) ++ leBytes 1 p ++
        leBytes 1 (if h = 31 then 255 else h) ++ leBytes 1 (bit (s.fld R.WVL_WALL_STATUS_lock == 2)) ++ leBytes 2 s.panelRate ++ leBytes 6 0
      let (s, b) := s.ownPacket 0x01 0 false false d
      if s.portIn p then s.control p b else s.sendWvl p b)

/-- The stream bytes of a packet have been drained: credits are returned for every 256 (R320). -/
def State.drainWvl (s : State) (p n : Nat) : State :=
  if s.portIn p then
    let x := s.wp p
    let y := { x with drained := x.drained + n }
    let s := s.setWp p y
    if y.drained / 256 = x.drained / 256 then s else s.messageWvl p 0x01 (leBytes 4 (y.drained / 256 % 2 ^ 32))
  else s

/-- A HELLO is checked (R317). -/
def State.helloIn (s : State) (p : Nat) (d : List Byte) : State :=
  let x := bitsOf (leAt d 4 1) 0 4
  let y := bitsOf (leAt d 4 1) 4 4
  let id := leAt d 0 4
  let port := leAt d 5 1
  let ok := id == s.fld R.WVL_WALL_ID_id && s.facing p == some (x, y) && port == (p + 2) % 4
  let s := (s.setFld (R.WVL_PORT_STATUS_nx p) x).setFld (R.WVL_PORT_STATUS_ny p) y
  let s := s.setFld (R.WVL_PORT_STATUS_nhops p) (leAt d 6 1)
  let s := s.setFld (R.WVL_PORT_STATUS_hello_ok p) (bit ok)
  if ok then
    let was := s.portIn p
    let s := (s.setWp p { s.wp p with strange := none }).refreshPort p
    if was then s.reroute else s
  else
    let seen := some (x + 16 * y, port, id)
    let s := if (s.wp p).strange = seen then s
      else (s.setWp p { s.wp p with strange := seen }).post 0x0D01 p (x + 16 * y + port % 4 * 256 + id % 65536 * 65536)
    s.refreshPort p

/-- HELLO_RECEIVED. -/
def execHelloReceived (p : Nat) (payload : List Byte) (s : State) : Host.Outcome State Fault Refusal :=
  .next (if 4 ≤ p ∨ s.walled = false ∨ (s.wp p).work = 0 ∨ payload.length ≠ 16 then s
    else ((s.countWvl p 1 1).drainWvl p 40).helloIn p payload)

/-- WORVEL_CREDIT (R320). -/
def execWorvelCredit (p count : Nat) (s : State) : Host.Outcome State Fault Refusal :=
  .next (if 4 ≤ p ∨ s.portIn p = false then s
    else
      let x := s.wp p
      let inc := (count % 2 ^ 32 + 2 ^ 32 - x.base) % 2 ^ 32
      (s.putWp p { x with base := count % 2 ^ 32, r := x.r + min inc x.outstanding }).pumpAll p)

/-! ## Time and frame lock (R323 to R325) -/

/-- TIME_EXCHANGE (R323): this module's timestamps are kept and sent. -/
def execTimeExchange (p cTx tTx cRx tRx : Nat) (s : State) : Host.Outcome State Fault Refusal :=
  .next (if 4 ≤ p ∨ s.portIn p = false then s
    else
      let s := s.setWp p { s.wp p with stamps := some (cTx % 2 ^ 32, tTx, cRx % 2 ^ 32, tRx) }
      let (s, d) := s.ownPacket 0x02 0 false false
        (leBytes 4 cTx ++ leBytes 8 tTx ++ leBytes 4 cRx ++ leBytes 8 tRx ++ leBytes 8 (toField 64 s.wvl.ofs))
      s.control p d)

/-- A TIME packet of the parent gives the offset from the master (R323). -/
def State.timeIn (s : State) (p : Nat) (d : List Byte) : State :=
  match (s.wp p).stamps with
  | none => s
  | some (cTx, tTx, cRx, tRx) =>
    if s.fld (R.WVL_PORT_STATUS_parent p) = 0 ∨ leAt d 0 4 ≠ cRx ∨ leAt d 12 4 ≠ cTx then s
    else
      let t1 : Int := leAt d 4 8
      let t2 : Int := tRx
      let t3 : Int := tTx
      let t4 : Int := leAt d 16 8
      let off := ((t2 - t1) - (t4 - t3)) / 2 - sext 32 (s.fld (R.WVL_PORT_ASYM_asym p))
      let x := s.wp p
      let l := ((sext 64 (leAt d 24 8) - off) :: x.offsets).take 16
      { s.setWp p { x with offsets := l } with wvl := { (s.setWp p { x with offsets := l }).wvl with ofs := l.sum / l.length } }

/-- PTP time of wall boundary `n`, 1/64 ns. -/
def State.wallTime64 (s : State) (n : Nat) : Nat := 64 * s.wvl.base.getD 0 + n * s.wallPeriod

/-- PTP time of wall boundary `n`. -/
def State.wallTime (s : State) (n : Nat) : Nat := s.wallTime64 n / 64

/-- The index of the next boundary (WVL_SCHED). -/
def State.nextBoundary (s : State) : Nat :=
  match s.wvl.base with
  | none => 0
  | some b => if s.now < b ∨ s.wallPeriod = 0 then 0 else 64 * (s.now - b) / s.wallPeriod + 1

/-- The error of a TE at PTP time `t` against the nearest boundary, 1/64 ns. -/
def State.teError (s : State) (t : Nat) : Int :=
  let x : Int := 64 * ((t : Int) - (s.wvl.base.getD 0 : Int))
  let p : Int := s.wallPeriod
  if p = 0 then 0 else x - (max 0 ((2 * x + p) / (2 * p))) * p

/-- Lock is gained or lost on the runs of good and bad frames (R325). -/
def State.judgeLock (s : State) : State :=
  let segs := List.range s.segCount
  let st := s.fld R.WVL_WALL_STATUS_lock
  if st = 2 then
    (if segs.any fun g => decide (4 ≤ Store.get (fun _ => 0) s.wvl.bad g) then s.setLock 3 1 else s)
  else if segs != [] && (segs.all fun g => decide (16 ≤ Store.get (fun _ => 0) s.wvl.good g)) && s.fld R.WVL_WALL_STATUS_alone == 0 then
    s.setLock 2 1
  else s

/-- A TE of segment `g` at PTP time `t` in a wall (R324, R325); `pin` says that it came by pin. -/
def State.wallTe (s : State) (g t : Nat) (pin : Bool) : State :=
  if s.walled = false ∨ s.wallPeriod = 0 then s
  else if pin = false then
    if s.wvl.noPinSaid ∨ s.pnl.tePins = true then s
    else { s with wvl := { s.wvl with noPinSaid := true } }.post 0x0D02 0 (s.fld R.WVL_WALL_STATUS_lock + 12)
  else
    let s := { s with wvl := { s.wvl with base := some (s.wvl.base.getD t) } }
    let e := s.teError t
    let far := decide (50 * 64 < e.natAbs)
    let locked := s.fld R.WVL_WALL_STATUS_lock == 2
    let move : Int :=
      if far && !locked then (if e < 0 then -e else (s.wallPeriod : Int) - e)
      else - clampInt (-3200) 3200 (e / 2)
    let w := s.wvl
    let ok := decide (e.natAbs ≤ 320)
    let s := { s with wvl := { w with
      shift := Store.modify (fun _ => 0) w.shift g (fun v => v + move)
      good := Store.modify (fun _ => 0) w.good g (fun n => if ok then n + 1 else 0)
      bad := Store.modify (fun _ => 0) w.bad g (fun n => if ok then 0 else n + 1)
      worst := max w.worst e.natAbs } }
    (s.setFld (R.WVL_TE_ERR_err g) (toField 32 e)).judgeLock

/-! ## Membership (R326) -/

/-- Counts the members. -/
def State.showMembers (s : State) : State :=
  s.setFld R.WVL_WALL_STATUS_members ((List.range 256).filter fun m => s.member m).length

/-- A member whose gate digest, wall-group mask, rate or lead differs from the master's is posted. -/
def State.checkMember (s : State) (m : Nat) : State :=
  let k := s.masterInForce
  if m = k ∨ s.member k = false then s
  else
    let diff := fun (at_ n : Nat) => s.peerAt m at_ n != s.peerAt k at_ n
    let code := if diff 16 4 then 1 else if diff 0 2 then 2 else if diff 30 2 then 3 else if diff 28 2 then 4 else 0
    if code = 0 then s else s.postLimited 0x0D07000000 (1000000 * s.fld R.WVL_SUMMARY_CFG_ms) 0x0D07 m code

/-- A SUMMARY of module `m` is kept. -/
def State.summaryIn (s : State) (m : Nat) (d : List Byte) : State :=
  let s := (List.range 6).foldl (fun s' j => s'.setReg (R.WVL_PEER m j) (BitVec.ofNat 64 (leAt d (8 * j) 8))) s
  let s := s.setReg (R.WVL_PEER m 6) (BitVec.ofNat 64 s.now)
  let s := if s.member m then s else ((s.setReg (R.WVL_PEER m 7) 1).showMembers).post 0x0D06 m 0
  s.checkMember m

/-- MEMBER_TIMEOUT (R326). -/
def execMemberTimeout (m : Nat) (s : State) : Host.Outcome State Fault Refusal :=
  .next (if 256 ≤ m ∨ s.member m = false then s
    else
      let s := ((s.setReg (R.WVL_PEER m 7) 0).showMembers).post 0x0D05 m 0
      { s with wvl := { s.wvl with votes := s.wvl.votes.filter fun v => v.origin != m } }.reroute)

/-! ## The wall clamp (R328 to R330) -/

/-- A vote replaces the one before it of its module and group. -/
def State.voteIn (s : State) (v : Vote) : State :=
  { s with wvl := { s.wvl with votes := s.wvl.votes.filter (fun u => !(u.group == v.group && u.origin == v.origin)) ++ [v] } }

/-- The clamp time of what group `g` would commit. -/
def State.ownClampTime (s : State) (g : Nat) : Nat :=
  match s.fld (R.CLP_GROUP_CFG_source g) with
  | 0 => ((Store.get (fun _ => none) s.clp.arms g).map Prod.fst).getD 0
  | 1 => 0
  | _ => ((s.stagingMarker g).map Marker.clampTime).getD 0

/-- This module's vote for group `g` at boundary `n`. -/
def State.castVote (s : State) (n g : Nat) : State :=
  let due := s.due g (s.wallTime n)
  let ready := due && (s.late g).ready
  let s := { s with clp := { s.clp with samples := Store.set (fun _ => none) s.clp.samples g (some ⟨n, due, s.late g⟩) } }
  let v : Vote := ⟨g, s.ownModule, n, ready, s.nextFrame g, s.ownClampTime g⟩
  (s.voteIn v).flood 0x03
    (leBytes 1 g ++ leBytes 1 (bit ready) ++ leBytes 2 0 ++ leBytes 4 v.frame ++ leBytes 8 v.clampTime ++ leBytes 8 n)

/-- VOTE_CUTOFF (R328). -/
def execVoteCutoff (n : Nat) (s : State) : Host.Outcome State Fault Refusal :=
  .next (if s.walled = false ∨ s.fld R.WVL_WALL_STATUS_alone = 1 then s else s.wallGroups.foldl (fun s' g => s'.castVote n g) s)

/-- A decision for group `g` at boundary `n`, with the agreed clamp time, reaches this module (R195, R328, R329). -/
def State.decisionIn (s : State) (g : Nat) (clamp : Bool) (notReady frame time n : Nat) : State :=
  if s.fld (R.CLP_GROUP_CFG_wall g) = 0 ∨ s.fld R.WVL_WALL_STATUS_alone = 1 then s
  else
    let own := s.nextFrame g
    let behind := s.fld (R.CLP_GROUP_CFG_source g) == 2 && own != frame && frameAtOrBefore own frame
    let s := s.setFld (R.CLP_GROUP_STATUS_alone g) (bit behind)
    { s with clp := { s.clp with
      decision := Store.set (fun _ => 0) s.clp.decision g (if clamp then 2 else 1)
      decisionFrame := Store.set (fun _ => 0) s.clp.decisionFrame g frame
      decisionAt := Store.set (fun _ => 0) s.clp.decisionAt g n
      decisionTime := Store.set (fun _ => 0) s.clp.decisionTime g time
      notReady := Store.set (fun _ => 0) s.clp.notReady g (notReady % 256) } }

/-- The members whose wall-group mask names group `g`. -/
def State.voters (s : State) (g : Nat) : List Nat :=
  (List.range 256).filter fun m =>
    if m = s.ownModule then s.fld (R.CLP_GROUP_CFG_wall g) == 1 else s.member m && bitOf (s.peerAt m 0 2) g

/-- The master decides for group `g` at boundary `n`. -/
def State.decideGroup (s : State) (n g : Nat) : State :=
  let who := s.voters g
  if who.isEmpty then s
  else
    let votes := s.wvl.votes.filter fun v => v.group == g && v.n == n && who.contains v.origin
    let f := votes.foldl (fun a v => if frameAtOrBefore a v.frame then v.frame else a) ((votes.head?.map Vote.frame).getD 0)
    let out := who.filter fun m => !(votes.any fun v => v.origin == m && v.ready && v.frame == f)
    let clamp := out.isEmpty
    let low := out.headD 0xFFFF
    let time := ((votes.filter fun v => v.frame == f).map Vote.clampTime).foldl max 0
    let s := s.flood 0x04
      (leBytes 1 g ++ leBytes 1 (bit clamp) ++ leBytes 2 low ++ leBytes 4 f ++ leBytes 8 time ++ leBytes 8 n)
    s.decisionIn g clamp low f time n

/-- MASTER_DECIDE (R328). -/
def execMasterDecide (n : Nat) (s : State) : Host.Outcome State Fault Refusal :=
  .next (if s.actsMaster = false then s
    else
      let s := (List.range 16).foldl (fun s' g => s'.decideGroup n g) s
      { s with wvl := { s.wvl with votes := s.wvl.votes.filter fun v => decide (n < v.n) } })

/-- WALL_DECISION_LOST (R330): a group without the DECISION holds. -/
def execWallDecisionLost (g n : Nat) (s : State) : Host.Outcome State Fault Refusal :=
  .next (if 16 ≤ g ∨ s.wallGroup g = false ∨ s.decisionAt g n ≠ 0 then s
    else { s with clp := { s.clp with
      decision := Store.set (fun _ => 0) s.clp.decision g 1
      decisionAt := Store.set (fun _ => 0) s.clp.decisionAt g n } }.post 0x0D08 g n)

/-! ## Scarf relay (R333 to R335) -/

/-- The ledger key of the packets taken for relay at port `p` (R334). -/
def relayTaken (p : Nat) : Nat := 0x3003000 + p

/-- Packet `d` is taken for relay at port `p`, or dropped where its queue is full. -/
def State.relayAt (s : State) (d : List Byte) (p : Nat) : State :=
  if s.portIn p = false then s
  else
    let s := s.addTerm (relayTaken p) 1
    let x := s.wp p
    if 4194304 < (x.relay.map fun e => e.data.length).sum + d.length then
      let s := s.countWvl p 6 1
      let n := x.dropsSince + 1
      let post := s.mayPost (0x0D0A000000 + p) 1000000
      (s.setWp p { x with dropsSince := if post then 0 else n }).postLimited (0x0D0A000000 + p) 1000000 0x0D0A p n
    else
      let squeeze := s.fld (R.WVL_PORT_CFG_compress p) == 1
      let e : Relay := ⟨x.nextRelay, d, if squeeze then none else some (false, d)⟩
      let s := s.setWp p { x with relay := x.relay ++ [e], nextRelay := x.nextRelay + 1 }
      if squeeze then s.offerJob { dir := 1, cls := 1, src := d.length, dst := 9000, since := s.ptp.f, who := [p, e.id], data := d }
      else s.pumpAll p

/-- A Trastos packet of slot `v` with apron = 1 that came by Ethernet is relayed (R333). -/
def State.relayScarf (s : State) (v : Nat) (d : List Byte) : State :=
  (setBits 4 (s.fld (R.WVL_RELAY_ports v))).foldl (fun s' p => s'.relayAt d p) s

/-- The form in which relay packet `id` of port `p` is sent is known. -/
def State.relayForm (s : State) (p id : Nat) (out : Option (List Byte)) : State :=
  let x := s.wp p
  let pick := fun (e : Relay) => match out with
    | some o => if o.length < e.data.length then some (true, o) else some (false, e.data)
    | none => some (false, e.data)
  (s.setWp p { x with relay := x.relay.map fun e => if e.id = id then { e with form := pick e } else e }).pumpAll p

/-- SCARF_DEFLATE_WAIT_EXPIRY (R335, R389): the oldest payload of port `p` that has found no deflate unit is sent uncompressed. -/
def execScarfDeflateWaitExpiry (p : Nat) (s : State) : Host.Outcome State Fault Refusal :=
  .next (match s.cmp.waiting.find? fun j => j.dir == 1 && j.cls == 1 && j.who.headD 4 == p with
    | none => s
    | some j => { s with cmp := { s.cmp with waiting := s.cmp.waiting.erase j } }.relayForm p (j.who.getD 1 0) none)

/-! ## Packets received (R319, R322) -/

/-- The payload length that a type has: none for an unknown type. -/
def wvlLength (type len : Nat) : Bool :=
  match type with
  | 0x01 => len == 16
  | 0x02 => len == 32
  | 0x03 => len == 24
  | 0x04 => len == 24
  | 0x05 => len == 48
  | 0x10 => decide (1 ≤ len) && decide (len ≤ 9000)
  | _ => false

/-- Whether a flood packet is newer than the last accepted of its origin and type (R322). -/
def State.newer (s : State) (type origin seq : Nat) : Bool :=
  origin != s.ownModule &&
  match Store.get (fun _ => none) s.wvl.seqIn (256 * type + origin) with
  | none => true
  | some q => let d := (seq + 2 ^ 32 - q) % 2 ^ 32; decide (1 ≤ d) && decide (d < 2 ^ 31)

/-- The payload of a good packet takes effect. -/
def State.payloadIn (s : State) (p type origin : Nat) (deflated : Bool) (d : List Byte) : State :=
  match type with
  | 0x01 => s.helloIn p d
  | 0x02 => s.timeIn p d
  | 0x03 => s.voteIn ⟨leAt d 0 1 % 16, origin, leAt d 16 8, bitOf (leAt d 1 1) 0, leAt d 4 4, leAt d 8 8⟩
  | 0x04 => if leAt d 0 1 < 16 then s.decisionIn (leAt d 0 1) (bitOf (leAt d 1 1) 0) (leAt d 2 2) (leAt d 4 4) (leAt d 8 8) (leAt d 16 8) else s
  | 0x05 => s.summaryIn origin d
  | _ =>
    if deflated then s.offerJob { dir := 0, cls := 2, src := d.length, dst := 9000, since := s.ptp.f, who := [9000, p], data := d }
    else (s.trsArrive 8 d false).1

/-- WORVEL_PACKET_RECEIVED (R319, R320, R322). -/
def execWorvelPacketReceived (p : Nat) (bytes : List Byte) (s : State) : Host.Outcome State Fault Refusal :=
  let type := leAt bytes 2 1
  let flags := leAt bytes 3 1
  let len := leAt bytes 4 2
  let origin := leAt bytes 6 1
  let hops := leAt bytes 7 1
  let seq := leAt bytes 8 4
  let d := slice bytes 16 len
  .next (if 4 ≤ p ∨ s.walled = false ∨ (s.wp p).work = 0 then s
    else
      let s := s.drainWvl p bytes.length
      if leAt bytes 0 2 ≠ 0xB7E5 ∨ crc32c (bytes.take 12) ≠ leAt bytes 12 4 then s.countWvl p 2 1
      else if bytes.length < 20 + len ∨ crc32c d ≠ leAt bytes (16 + len) 4 then s.countWvl p 3 1
      else
        let s := s.countWvl p 1 1
        if wvlLength type len = false ∨ (type ≠ 1 ∧ s.portIn p = false) then s
        else if bitOf flags 1 then
          if s.newer type origin seq = false then s.countWvl p 4 1
          else
            let s := { s with wvl := { s.wvl with seqIn := Store.set (fun _ => none) s.wvl.seqIn (256 * type + origin) (some seq) } }
            let s := if hops = 31 then s
              else s.spread p (worvelPacket type (flags % 2) true (bitOf flags 2) origin (hops + 1) seq d)
            s.payloadIn p type origin (bitOf flags 2) d
        else s.payloadIn p type origin (bitOf flags 2) d)

/-! ## WALL_CONFIGURE (R315, R316, R324, R337) -/

/-- Power domain WVL and its clock of 1.328125 GHz run, or sleep in D3. -/
def State.setWvlDomain (s : State) (on : Bool) : State :=
  ((s.setDomain 23 (if on then 0 else 3)).setFld (R.PWC_CLK_mhz 25) (if on then 1328 else 0)).setFld (R.PWC_CLK_running 25) (bit on)

/-- Port `p` is powered off, or its lanes train, as it faces. -/
def State.setPort (s : State) (on : Bool) (p : Nat) : State :=
  let s := s.setFld (R.WVL_PORT_STATUS_hello_ok p) 0
  if on && (s.facing p).isSome then
    let s := s.refreshPort p
    if (s.wp p).work = 0 then s.trainWvl p 255 else s
  else
    let x := s.wp p
    let s := (s.setWp p { x with work := 0, rx := 0, training := 0, ours := 0, theirs := 0, map := none, stamps := none, strange := none }).refreshPort p
    (wvlLanes p 255).foldl (fun t i => t.setLane i 0) s

/-- What the wall block forgets when the module joins or leaves. -/
def State.clearWall (s : State) (base : Option Nat) : State :=
  let s := (List.range 256).foldl (fun s' m => (List.range 8).foldl (fun t j => t.setReg (R.WVL_PEER m j) 0) s') s
  { s with wvl := { s.wvl with
    seqIn := [], votes := [], ofs := 0, base := base, good := [], bad := [], shift := [], worst := 0, noPinSaid := false } }

/-- WALL_CONFIGURE (R337). -/
def execWallConfigure (id : Nat) (bus : Bus) (s : State) : Host.Outcome State Fault Refusal :=
  .next (s.runOp id .wallConfigure fun c s =>
    let x := c.pb 12 0 4
    let y := c.pb 12 4 4
    let wx := c.pb 13 0 4
    let wy := c.pb 13 4 4
    let mx := c.pb 14 0 4
    let my := c.pb 14 4 4
    let ax := c.pb 15 0 4
    let ay := c.pb 15 4 4
    let on := c.flag 16 0
    let alt := c.flag 16 1
    if wx < x ∨ wy < y ∨ wx < mx ∨ wy < my ∨ (alt = true ∧ (wx < ax ∨ wy < ay ∨ (ax = mx ∧ ay = my))) then s.refuse c stBadParam 1
    else
      let put := fun (s : State) =>
        let s := ((s.setFld R.WVL_WALL_CFG_enable (bit on)).setFld R.WVL_WALL_CFG_alt_valid (bit alt)).setFld R.WVL_WALL_CFG_x x
        let s := ((s.setFld R.WVL_WALL_CFG_y y).setFld R.WVL_WALL_CFG_wx wx).setFld R.WVL_WALL_CFG_wy wy
        let s := ((s.setFld R.WVL_WALL_CFG_mx mx).setFld R.WVL_WALL_CFG_my my).setFld R.WVL_WALL_CFG2_ax ax
        ((s.setFld R.WVL_WALL_CFG2_ay ay).setFld R.WVL_WALL_CFG2_scarf (c.p 17 1)).setFld R.WVL_WALL_ID_id (c.p 8 4)
      let triggers := fun (s : State) => (List.range 4).foldl (fun s' k =>
        let s' := s'.setFld (R.TRIG_STATUS_wall k) (bit on)
        if on then s' else s'.setFld (R.TRIG_STATUS_armed k) 0) s
      if on then
        let s := triggers ((put s).setWvlDomain true)
        let s := s.clearWall (if c.p 24 8 = 0 then none else some (c.p 24 8))
        let s := ((s.setFld R.WVL_WALL_STATUS_members 0).setFld R.WVL_WALL_STATUS_lock 1).setFld R.WVL_WALL_STATUS_alone 0
        let s := (List.range 4).foldl (fun s' p => s'.setPort true p) (s.aloneGroups false)
        s.reroute.finishOne c
      else
        let s := (List.range 4).foldl (fun s' p => s'.setPort false p) s
        let s := (triggers ((put s).clearWall none)).aloneGroups true
        let s := s.setReg R.WVL_WALL_STATUS (resetReg R.WVL_WALL_STATUS)
        (s.setWvlDomain false).finishOne c)

end Sys2Proof.Machine
end

