-- ==== Sys2Proof/Machine/Ether.lean ====
section
/-! DEFINITION. Ethernet ports: rings, receiving, transmitting, gate lists, preemption (R338 to R344, R349, R355 to R360), and
Trastos packets as they arrive (R89, R112, R333). -/

namespace Sys2Proof.Machine

open Sys2Proof

/-! ## Ports (R338, R349) -/

/-- What Ethernet port `p` holds beside its registers. -/
def State.ep (s : State) (p : Nat) : EthPort := Store.get (fun _ => {}) s.eth.ports p

def State.setEp (s : State) (p : Nat) (x : EthPort) : State :=
  { s with eth := { s.eth with ports := Store.set (fun _ => {}) s.eth.ports p x } }

/-- An Ethernet port count rises (R358). -/
def State.countEth (s : State) (p k d : Nat) : State := s.count (R.ETH_PORT_CNT_count p k) d

/-- The MAC rate of a mode, bits per ns. -/
def modeRate (m : Nat) : Nat := if m = 1 ∨ m = 2 then 100 else 50

def State.ethRate (s : State) (p : Nat) : Nat := modeRate (s.fld (R.ETH_PORT_STATUS_mode p))

def State.ethUp (s : State) (p : Nat) : Bool := s.fld (R.ETH_PORT_STATUS_up p) == 1

/-- A time in 1/64 ns rounded half-up to ns (R349, R9). -/
def round64 (x : Int) : Nat := toField 64 ((x + 32) / 64)

/-- The ingress timestamp of a frame at the MII now, plus `frac`/64 ns (R349). -/
def State.ingress (s : State) (p frac : Nat) : Nat :=
  round64 (64 * (s.now : Int) + (frac % 64 : Nat) - (s.fld (R.ETH_TS_LAT_rx p) : Int) - sext 16 (s.fld (R.ETH_TS_ADJ_rx p)) -
    sext 32 (s.fld (R.ETH_TS_ASYM_asym p)))

/-- The egress timestamp of a frame at the MII now, plus `frac`/64 ns (R349). -/
def State.egress (s : State) (p frac : Nat) : Nat :=
  round64 (64 * (s.now : Int) + (frac % 64 : Nat) + (s.fld (R.ETH_TS_LAT_tx p) : Int) + sext 16 (s.fld (R.ETH_TS_ADJ_tx p)) -
    sext 32 (s.fld (R.ETH_TS_ASYM_asym p)))

/-- Port `p` goes down: no mode, no preemption (R338, R357). -/
def State.ethDown (s : State) (p : Nat) : State :=
  let was := s.ethUp p
  let s := ((s.setFld (R.ETH_PORT_STATUS_up p) 0).setFld (R.ETH_PORT_STATUS_mode p) 0).setFld (R.ETH_PORT_STATUS_preempt p) 0
  let s := s.setEp p { s.ep p with verify := 0, paused := [] }
  if was then s.post 0x0800 p 0 else s

/-- The lanes of port `p` train for a mode; the upper one is off in a one-lane mode, both in mode 0 (R276, R338). -/
def State.ethTrain (s : State) (p mode : Nat) : State :=
  let lower := 208 + 2 * p
  let s := if mode = 0 then s.setLane lower 0 else s.trainLane lower
  if mode = 0 ∨ mode = 3 ∨ mode = 4 then s.setLane (lower + 1) 0 else s.trainLane (lower + 1)

/-- A write of ETH_PORT_CFG.mode takes the port down at once and trains it (R338). -/
def State.setEthMode (s : State) (p mode : Nat) : State :=
  if 5 < mode then s else ((s.setFld (R.ETH_PORT_CFG_mode p) mode).ethDown p).ethTrain p mode

/-- Whether port `p` may come up in a mode. -/
def State.modeFits (s : State) (p mode : Nat) : Bool :=
  let cfg := s.fld (R.ETH_PORT_CFG_mode p)
  decide (1 ≤ mode) && decide (mode ≤ 4) && (cfg == mode || (cfg == 5 && (s.fld (R.ETH_PORT_CFG_an_abilities p)).testBit (mode - 1)))

/-- ETH_LINK_STATE (R277, R292, R338, R349). -/
def execEthLinkState (p : Nat) (up : Bool) (mode : Nat) (lanes : LinkLanes) (s : State) : Host.Outcome State Fault Refusal :=
  .next (if 8 ≤ p then s
    else if up = false then (if s.ethUp p then (s.ethDown p).ethTrain p (s.fld (R.ETH_PORT_CFG_mode p)) else s)
    else if s.modeFits p mode = false ∨ s.ethUp p = true then s
    else
      let two := decide (mode ≤ 2)
      let lower := 208 + 2 * p
      let s := (s.setFld (R.ETH_PORT_STATUS_up p) 1).setFld (R.ETH_PORT_STATUS_mode p) mode
      let s := (s.setFld (R.ETH_TS_LAT_rx p) (if two then 11920 else 14784)).setFld (R.ETH_TS_LAT_tx p) (if two then 3104 else 3920)
      let trained := fun (s : State) (l : Nat) =>
        (((s.laneTrained (lower + l)).setLane (lower + l) 3).setCoding (lower + l) (lanes.inverted.testBit l) (lanes.precoded.testBit l)
          (lanes.rxPrecoded.testBit l)).standardTaps (lower + l) (lanes.taps.getD l [])
      let s := if two then trained (trained s 0) 1 else (trained s 0).setLane (lower + 1) 0
      s.post 0x0800 p (1 + 2 * mode))

/-- PREEMPT_VERIFY_RETRY (R357): the outcome of a verify exchange. -/
def execPreemptVerifyRetry (p : Nat) (ok : Bool) (s : State) : Host.Outcome State Fault Refusal :=
  .next (if 8 ≤ p ∨ s.ethUp p = false ∨ s.fld (R.ETH_PORT_CFG_preempt_enable p) = 0 then s
    else
      let v := if ok then 1 else 2
      if (s.ep p).verify = v then s
      else ((s.setEp p { s.ep p with verify := v }).setFld (R.ETH_PORT_STATUS_preempt p) (bit ok)).post 0x0804 p (if ok then 1 else 2))

/-! ## Pauses (R339) -/

/-- A class of port `p` pauses for a number of quanta of 512 bit times; 0 ends its pause. -/
def State.pauseClass (s : State) (p c quanta : Nat) : State :=
  let x := s.ep p
  s.setEp p { x with paused := Store.set (fun _ => 0) x.paused c (if quanta = 0 then 0 else s.ptp.f + ceilDiv (512 * quanta) (s.ethRate p)) }

/-- PAUSE_RECEIVED (R339): a PAUSE, or a PFC with the classes that it names. -/
def execPauseReceived (p : Nat) (pause : Option Nat) (pfc : List (Nat × Nat)) (s : State) : Host.Outcome State Fault Refusal :=
  .next (if 8 ≤ p ∨ s.ethUp p = false then s
    else match pause with
      | some n => (List.range 8).foldl (fun t c => t.pauseClass p c (n % 65536)) (s.bumpBy (R.ETH_PORT_CNT_count p 12) (n % 65536))
      | none =>
        let pfc := pfc.filter fun e => decide (e.1 < 8)
        pfc.foldl (fun t e => t.pauseClass p e.1 (e.2 % 65536))
          (s.bumpBy (R.ETH_PORT_CNT_count p 12) (pfc.map fun e => e.2 % 65536).sum))

/-- Whether class `c` of port `p` is paused now. -/
def State.ethPaused (s : State) (p c : Nat) : Bool := decide (s.ptp.f < Store.get (fun _ => 0) (s.ep p).paused c)

/-! ## Frames as they are looked into (R341) -/

/-- What a received frame shows: its bytes without the FCS, the tag, the EtherType, and the layers above. -/
structure Net where
  d : List Byte
  tagged : Bool
  tci : Nat
  etype : Nat
  /-- 0 none, 1 IPv4, 2 IPv6, and where its header starts. -/
  ip : Nat
  at_ : Nat
  proto : Nat
  /-- Where the UDP or TCP header starts, and the bytes from there that the IP header counts. -/
  l4 : Nat
  l4Len : Nat
  fragment : Bool
  /-- Not the first fragment: no ports. -/
  later : Bool
deriving DecidableEq, Repr

def Net.of (d : List Byte) : Net :=
  let tagged := beNat (slice d 12 2) == 0x8100
  let at_ := if tagged then 18 else 14
  let etype := beNat (slice d (at_ - 2) 2)
  let ip := if etype = 0x0800 ∧ bitsOf (leAt d at_ 1) 4 4 = 4 then 1 else if etype = 0x86DD then 2 else 0
  let ihl := if ip = 1 then 4 * bitsOf (leAt d at_ 1) 0 4 else if ip = 2 then 40 else 0
  let len := if ip = 1 then beNat (slice d (at_ + 2) 2) - ihl else if ip = 2 then beNat (slice d (at_ + 4) 2) else 0
  let fragWord := if ip = 1 then beNat (slice d (at_ + 6) 2) else 0
  { d := d, tagged := tagged, tci := if tagged then beNat (slice d 14 2) else 0, etype := etype, ip := ip, at_ := at_
    proto := if ip = 1 then leAt d (at_ + 9) 1 else if ip = 2 then leAt d (at_ + 6) 1 else 256
    l4 := at_ + ihl, l4Len := len, fragment := fragWord % 0x4000 != 0, later := fragWord % 0x2000 != 0 }

def Net.multicast (n : Net) : Bool := (byteAt n.d 0).toNat.testBit 0

/-- The ones' complement sum of bytes taken as 16-bit words. -/
def onesSum : List Byte → Nat
  | [] => 0
  | [a] => a.toNat * 256
  | a :: b :: r => a.toNat * 256 + b.toNat + onesSum r

/-- A sum folded to 16 bits; 0xFFFF is a good checksum. -/
def onesFold (x : Nat) : Nat :=
  let y := x / 65536 + x % 65536
  y / 65536 + y % 65536

/-- Whether an IPv4 header checksum is good. -/
def Net.ip4Ok (n : Net) : Bool := n.ip == 1 && onesFold (onesSum (slice n.d n.at_ (n.l4 - n.at_))) == 0xFFFF

/-- The IP addresses, source then destination. -/
def Net.addresses (n : Net) : List Byte := if n.ip = 1 then slice n.d (n.at_ + 12) 8 else slice n.d (n.at_ + 8) 32

def Net.isL4 (n : Net) : Bool := n.ip != 0 && !n.later && (n.proto == 6 || n.proto == 17)

/-- Whether the UDP or TCP checksum can be tested, and whether it is good. -/
def Net.l4Check (n : Net) : Bool × Bool :=
  let off := if n.proto = 17 then 6 else 16
  let whole := n.isL4 && !n.fragment && decide (n.l4 + n.l4Len ≤ n.d.length) && decide (8 ≤ n.l4Len)
  if !whole || (n.proto == 17 && beNat (slice n.d (n.l4 + off) 2) == 0) then (false, false)
  else
    let pseudo := onesSum n.addresses + n.proto + n.l4Len
    (true, onesFold (pseudo + onesSum (slice n.d n.l4 n.l4Len)) == 0xFFFF)

/-- The destination port. -/
def Net.port (n : Net) : Nat := beNat (slice n.d (n.l4 + 2) 2)

/-- Whether it is a PTP message (R341 step 3). -/
def Net.isPtp (n : Net) : Bool := n.etype == 0x88F7 || (n.isL4 && n.proto == 17 && (n.port == 319 || n.port == 320))

/-- The Toeplitz hash of some bytes under a 40-byte key. -/
def toeplitz (key data : List Byte) : Nat :=
  let k := beNat key
  let w := data.length
  let x := beNat data
  (List.range (8 * w)).foldl (fun h i => if x.testBit (8 * w - 1 - i) then h ^^^ ((k >>> (288 - i)) % 2 ^ 32) else h) 0

/-- The address filter (R341 step 2). -/
def State.addressOk (s : State) (p : Nat) (n : Net) : Bool :=
  let dst := beNat (slice n.d 0 6)
  let hit := fun (k : Nat) => s.fld (R.ETH_ADDR_enable p k) == 1 && s.fld (R.ETH_ADDR_mac p k) == dst
  (dst == 0xFFFFFFFFFFFF && s.fld (R.ETH_PORT_CFG_bcast p) == 1) ||
  (List.range 72).any (fun k => (decide (8 ≤ k) == n.multicast) && hit k) ||
  (n.multicast && s.fld (R.ETH_PORT_CFG_all_multi p) == 1) || s.fld (R.ETH_PORT_CFG_promisc p) == 1

/-- Filter rule `k` of port `p`: its 128 bits. -/
def State.ethRule (s : State) (p k : Nat) : Nat := (s.reg (R.ETH_RULE p k 0)).toNat + (s.reg (R.ETH_RULE p k 1)).toNat * 2 ^ 64

/-- Whether a rule is enabled and matches (R341 step 5). -/
def ruleMatches (r : Nat) (n : Net) : Bool :=
  r.testBit 127 &&
  (!r.testBit 52 || bitsOf r 0 16 == n.etype) &&
  (!r.testBit 53 || (n.tagged && bitsOf r 16 12 == n.tci % 4096)) &&
  (!r.testBit 54 || (n.ip != 0 && bitsOf r 28 8 == n.proto)) &&
  (!r.testBit 55 || (n.isL4 && bitsOf r 36 16 == n.port))

/-- The ring that the hash of a frame selects (R341 step 6). -/
def State.hashRing (s : State) (p : Nat) (n : Net) : Nat :=
  let key := (List.range 10).flatMap fun j => leBytes 4 (s.fld (R.ETH_HASH_KEY_word p j))
  let ports := if n.isL4 && !n.fragment then slice n.d n.l4 4 else []
  let h := toeplitz key (n.addresses ++ ports) % 64
  bitsOf (s.reg (R.ETH_HASH_IND p (h / 4))).toNat (8 * (h % 4)) 6

/-! ## Trastos packets (R89, R112, R333) -/

/-- A datagram on the Trastos port reaches ingest; an accepted apron packet that came by Ethernet is relayed. -/
def State.trsFromNet (s : State) (p : Nat) (d : List Byte) (fragment : Bool) : State :=
  match s.trsArrive p d fragment with
  | (t, .accepted) =>
    let h := TrsHead.of d
    if h.apron && decide (p < 8) then
      match s.slotOfStream h.id with
      | some v => t.relayScarf v d
      | none => t
    else t
  | (t, _) => t

/-- TRASTOS_PACKET_ARRIVAL. -/
def execTrastosPacketArrival (source : Nat) (bytes : List Byte) (fragment : Bool) (s : State) : Host.Outcome State Fault Refusal :=
  .next (if 8 ≤ source ∨ s.fld R.SCN_TRS_CFG_enable = 0 then s else s.trsFromNet source bytes fragment)

/-! ## Rings (R340, R342, R343, R359) -/

/-- The entry of a ring at index `n`: location and address. -/
def State.rxEntry (s : State) (r n : Nat) : Bool × Nat := ringAddr (s.reg (R.ETH_RXQ_BASE r)) 16 n
def State.txEntry (s : State) (t n : Nat) : Bool × Nat := ringAddr (s.reg (R.ETH_TXQ_BASE t)) 16 n

def State.rxTail (s : State) (r : Nat) : Nat := Store.get (fun _ => 0) s.eth.rxTails r
def State.txTail (s : State) (t : Nat) : Nat := Store.get (fun _ => 0) s.eth.txTails t

/-- Ledger keys of transmit ring `t`: 0 fetched, 1 written back, 2 discarded (R358). -/
def txTerm (t k : Nat) : Nat := 0x3005000 + 4 * t + k

/-- A write-back has moved the head of a ring: the head write-back and the vector follow. -/
def State.headMoved (s : State) (b : Bus) (f wb head key vector : Nat) : State :=
  let s := if wb = 0 then s else (s.hostWrite b f wb (leBytes 4 head)).1
  s.signal key f vector 0

/-- Ring `r` is full: the frame is dropped and counted (R341). -/
def State.ringFull (s : State) (p r : Nat) : State :=
  let s := s.countEth p 8 1
  let n := Store.get (fun _ => 0) s.eth.fullSince r + 1
  let post := s.mayPost (0x0803000000 + r) 1000000
  let s := s.postLimited (0x0803000000 + r) 1000000 0x0803 r n (some (s.fld (R.ETH_RXQ_CFG_owner r)))
  { s with eth := { s.eth with fullSince := Store.set (fun _ => 0) s.eth.fullSince r (if post then 0 else n) } }

/-- The flags of a receive write-back. -/
def rxFlags (n : Net) (how : Nat) : Nat :=
  let (checked, ok) := n.l4Check
  bit n.ip4Ok + 2 * bit checked + 4 * bit ok + 8 * bit n.tagged + 16 * bit (how == 34) + 32 * n.ip + 128 * bit n.multicast + 256 * how

/-- A frame goes to ring `r` of port `p` (R341, R342); `how` says which step chose it, `time` is its ingress timestamp. -/
def State.toRing (s : State) (b : Bus) (p r how time : Nat) (n : Net) : State :=
  if 512 ≤ r ∨ r / 64 ≠ p ∨ s.fld (R.ETH_RXQ_CFG_enable r) = 0 then s.countEth p 7 1
  else
    let strip := n.tagged && s.fld (R.ETH_PORT_CFG_strip p) == 1
    let d := if strip then n.d.take 12 ++ n.d.drop 16 else n.d
    if 256 * s.fld (R.ETH_RXQ_CFG_buf r) < d.length then s.countEth p 7 1
    else
      let head := s.fld (R.ETH_RXQ_HEAD_head r)
      if head = s.rxTail r then s.ringFull p r
      else
        let f := s.fld (R.ETH_RXQ_CFG_owner r)
        let (loc, a) := s.rxEntry r head
        match s.ringRead b f loc a 16 with
        | (s, none) => s.ringFull p r
        | (s, some e) =>
          let s := s.ringWrite b f loc (if loc then leAt e 0 8 % 2 ^ 36 else leAt e 0 8) d
          let back := leBytes 8 time ++ leBytes 2 d.length ++ leBytes 2 (rxFlags n how) ++ leBytes 2 (if strip then n.tci else 0) ++
            leBytes 1 0 ++ leBytes 1 128
          let s := s.ringWrite b f loc a back
          let next := (head + 1) % 2 ^ s.fld (R.ETH_RXQ_CFG_log2size r)
          let s := (s.setFld (R.ETH_RXQ_HEAD_head r) next).countEth p 1 1
          s.headMoved b f (s.fld (R.ETH_RXQ_WB_addr r)) next (512 + r) (s.fld (R.ETH_RXQ_CFG_vector r))

/-- Steps 5 to 7 of R341, with the first enabled rule that matches, if one does. -/
def State.steerTo (s : State) (b : Bus) (p time : Nat) (n : Net) : Option Nat → State
  | some k =>
    let r := s.ethRule p k
    if r.testBit 56 then s.countEth p 6 1 else s.toRing b p (bitsOf r 57 9) k time n
  | none =>
    if s.fld (R.ETH_PORT_CFG_hash_enable p) = 1 ∧ n.ip ≠ 0 then s.toRing b p (64 * p + s.hashRing p n) 32 time n
    else s.toRing b p (64 * p + s.fld (R.ETH_PORT_CFG_default_ring p)) 33 time n

/-- Steps 5 to 7 of R341. -/
def State.steer (s : State) (b : Bus) (p time : Nat) (n : Net) : State :=
  s.steerTo b p time n ((List.range 32).find? fun k => ruleMatches (s.ethRule p k) n)

/-- ETH_FRAME_RECEIVED (R341, R342, R349): a frame of port `p`, FCS included, whose timestamp point is `frac`/64 ns past now. -/
def execEthFrameReceived (p : Nat) (bus : Bus) (bytes : List Byte) (frac : Nat) (s : State) : Host.Outcome State Fault Refusal :=
  .next (if 8 ≤ p ∨ s.ethUp p = false then s
    else
      let s := s.countEth p 0 1
      let len := bytes.length
      let d := bytes.take (len - 4)
      let n := Net.of d
      if len < 64 ∨ s.fld (R.ETH_PORT_CFG2_max_frame p) < len ∨ crc32 d ≠ leAt bytes (len - 4) 4 then s.countEth p 3 1
      else if s.addressOk p n = false then s.countEth p 4 1
      else
        let time := s.ingress p frac
        if s.fld (R.ETH_PORT_CFG_ptp_steer p) = 1 ∧ n.isPtp = true then
          s.toRing bus p (64 * p + s.fld (R.ETH_PORT_CFG_ptp_ring p)) 34 time n
        else if s.fld R.SCN_TRS_CFG_enable = 1 ∧ n.isL4 = true ∧ n.proto = 17 ∧ n.port = s.fld R.SCN_TRS_CFG_udp_port then
          let (checked, ok) := n.l4Check
          if (n.ip == 1 && !n.ip4Ok) || (checked && !ok) then s.countEth p 5 1
          else (s.countEth p 2 1).trsFromNet p (slice n.d (n.l4 + 8) (beNat (slice n.d (n.l4 + 4) 2) - 8)) n.fragment
        else s.steer bus p time n)

/-! ## Transmitting (R343, R344, R356, R357) -/

/-- The descriptor at the head of transmit ring `t` is written back. -/
def State.txBack (s : State) (b : Bus) (t status time : Nat) : State :=
  let f := s.fld (R.ETH_TXQ_CFG_owner t)
  let head := s.fld (R.ETH_TXQ_HEAD_head t)
  let (loc, a) := s.txEntry t head
  let s := s.ringWrite b f loc a (leBytes 8 time ++ leBytes 2 status ++ List.replicate 5 0 ++ leBytes 1 128)
  let next := (head + 1) % 2 ^ s.fld (R.ETH_TXQ_CFG_log2size t)
  let s := ((s.setFld (R.ETH_TXQ_HEAD_head t) next).addTerm (txTerm t 0) 1).addTerm (txTerm t 1) 1
  s.headMoved b f (s.fld (R.ETH_TXQ_WB_addr t)) next (1024 + t) (s.fld (R.ETH_TXQ_CFG_vector t))

/-- Whether class `c` of port `p` is preemptable and preemption is active (R357). -/
def State.preemptable (s : State) (p c : Nat) : Bool :=
  s.fld (R.ETH_PORT_STATUS_preempt p) == 1 && (s.fld (R.ETH_PORT_CFG2_preemptable p)).testBit c

/-- The bits that must fit a window before a frame of `n` bytes, FCS included, starts: all of an express frame, a first fragment
of a preemptable one. -/
def State.startBits (s : State) (p c n : Nat) : Nat :=
  let k := if s.preemptable p c then min n (64 * (s.fld (R.ETH_PORT_CFG_frag p) + 1)) else n
  8 * (k + 20)

/-- Whether a frame of `n` bytes of class `c` can never be sent under the active list (R356, R357). -/
def State.oversize (s : State) (p c n : Nat) : Bool :=
  match (s.ep p).gates.active with
  | none => false
  | some l => !alwaysOpen l.timeline c &&
      decide (((windowsOf l.timeline c).foldl max 0) * s.ethRate p < s.startBits p c n)

/-- The last Set-And-Hold-MAC or Set-And-Release-MAC at or before the present entry holds preemptable traffic (R357). -/
def Gates.holds (g : Gates) (now : Nat) : Bool :=
  match g.active with
  | none => false
  | some l =>
    let tl := l.timeline
    let i := entryAt tl (g.phase l now)
    let past := (tl.drop (i + 1) ++ tl.take (i + 1)).reverse
    ((past.find? fun e => bitsOf e.1 8 2 != 0).map fun e => bitsOf e.1 8 2 == 1).getD false

/-- Whether a frame of `n` bytes of class `c` may start now (R339, R343, R356, R357). -/
def State.ethMayStart (s : State) (p c n : Nat) : Bool :=
  !s.ethPaused p c && !(s.preemptable p c && (s.ep p).gates.holds s.now) &&
  match (s.ep p).gates.openFor c s.now with
  | none => true
  | some t => decide (0 < t) && decide (s.startBits p c n ≤ t * s.ethRate p)

/-- What becomes of a descriptor at the head of a ring. -/
inductive TxFate where
  | wait
  | back (status : Nat)
  | send (buffer length : Nat) (stamp tag : Bool) (tci : Nat)
deriving DecidableEq, Repr

/-- The fate of descriptor `e` of class `c` at port `p`; no descriptor is one that could not be read. -/
def State.txFate (s : State) (p c : Nat) (e : Option (List Byte)) : TxFate :=
  if s.ethUp p = false then .back 3
  else match e with
    | none => .back 4
    | some e =>
      let len := leAt e 8 2
      let tag := bitOf (leAt e 10 1) 1
      let lim := s.fld (R.ETH_PORT_CFG2_max_frame p) - (if tag then 8 else 4)
      let n := len + (if tag then 8 else 4)
      if len < 60 ∨ lim < len then .back 2
      else if s.oversize p c n then .back 1
      else if s.ethMayStart p c n then .send (leAt e 0 8) len (bitOf (leAt e 10 1) 0) tag (leAt e 12 2)
      else .wait

/-- A frame was written back WINDOW_OVERSIZE (R356). -/
def State.postOversize (s : State) (p t : Nat) : State :=
  let n := (s.ep p).oversizeSince + 1
  let post := s.mayPost (0x0802000000 + p) 1000000
  let s := (s.countEth p 10 1).postLimited (0x0802000000 + p) 1000000 0x0802 p (t + min n 65535 * 65536)
  s.setEp p { s.ep p with oversizeSince := if post then 0 else n }

/-- Whether transmit ring `t` has a descriptor at its head. -/
def State.txReady (s : State) (t : Nat) : Bool :=
  s.fld (R.ETH_TXQ_CFG_enable t) == 1 && s.fld (R.ETH_TXQ_HEAD_head t) != s.txTail t

/-- The descriptor at the head of transmit ring `t`. -/
def State.txHead (s : State) (b : Bus) (t : Nat) : State × Option (List Byte) :=
  let (loc, a) := s.txEntry t (s.fld (R.ETH_TXQ_HEAD_head t))
  s.ringRead b (s.fld (R.ETH_TXQ_CFG_owner t)) loc a 16

/-- The frame at the head of ring `t` is sent; `overran` and `cuts` say what the wire saw (R356, R357). -/
def State.txSend (s : State) (b : Bus) (p t buffer length : Nat) (stamp tag : Bool) (tci frac : Nat) (overran : Bool) (cuts : Nat) : State :=
  let f := s.fld (R.ETH_TXQ_CFG_owner t)
  let loc := (s.txEntry t 0).1
  match s.ringRead b f loc (if loc then buffer % 2 ^ 36 else buffer) length with
  | (s, none) => s.txBack b t 4 0
  | (s, some d) =>
    let d := if tag then d.take 12 ++ beBytes 2 0x8100 ++ beBytes 2 tci ++ d.drop 12 else d
    let s := (s.emit (.ethFrame p (d ++ leBytes 4 (crc32 d)))).countEth p 9 1
    let s := if overran then s.bump (R.ETH_PORT_CNT_count p 13) else s
    let s := if s.preemptable p (t % 8) then s.bumpBy (R.ETH_PORT_CNT_count p 14) cuts else s
    s.txBack b t 0 (if stamp then s.egress p frac else 0)

/-- What the head of class `c` of port `p` comes to, where it does not wait: its ring and fate. -/
def State.txPick (s : State) (b : Bus) (p c : Nat) : Option (Nat × TxFate) :=
  let t := 8 * p + c
  if s.txReady t then
    match (s.txHead b t).1.txFate p c (s.txHead b t).2 with
    | .wait => none
    | fate => some (t, fate)
  else none

/-- ETH_FRAME_TRANSMIT (R343, R344, R356): the highest class of port `p` whose head can start, or is to be written back
unsent. -/
def execEthFrameTransmit (p : Nat) (bus : Bus) (frac : Nat) (overran : Bool) (cuts : Nat) (s : State) :
    Host.Outcome State Fault Refusal :=
  .next (if 8 ≤ p then s
    else match (List.range 8).reverse.findSome? (s.txPick bus p) with
      | none => s
      | some (t, .send buffer length stamp tag tci) => (s.txHead bus t).1.txSend bus p t buffer length stamp tag tci frac overran cuts
      | some (t, .back st) => (if st = 1 then (s.txHead bus t).1.postOversize p t else (s.txHead bus t).1).txBack bus t st 0
      | some (_, .wait) => s)

/-- Heads that a new list can never send are written back (R356). -/
def State.dropOversize (s : State) (b : Bus) (p : Nat) : State :=
  (List.range 8).foldl (fun s' c =>
    let t := 8 * p + c
    if s'.txReady t then
      let (s'', e) := s'.txHead b t
      match s''.txFate p c e with
      | .back 1 => (s''.postOversize p t).txBack b t 1 0
      | _ => s'
    else s') s

/-! ## Doorbells and ring commands (R60, R344, R359) -/

/-- ETH_TX_TAIL_DOORBELL. -/
def execEthTxTailDoorbell (client page value : Nat) (s : State) : Host.Outcome State Fault Refusal :=
  let v := value % 2 ^ 32
  let t := bitsOf v 16 6
  let tail := bitsOf v 0 16
  .next (if page = client ∧ v < 2 ^ 22 ∧ s.fld (R.ETH_TXQ_CFG_enable t) = 1 ∧ s.fld (R.ETH_TXQ_CFG_owner t) = client ∧
      tail < 2 ^ s.fld (R.ETH_TXQ_CFG_log2size t) then
      { s with eth := { s.eth with txTails := Store.set (fun _ => 0) s.eth.txTails t tail } }
    else s.refuseDoorbell client 0x800)

/-- ETH_RX_TAIL_DOORBELL. -/
def execEthRxTailDoorbell (client page value : Nat) (s : State) : Host.Outcome State Fault Refusal :=
  let v := value % 2 ^ 32
  let r := bitsOf v 16 9
  let tail := bitsOf v 0 16
  .next (if page = client ∧ v < 2 ^ 25 ∧ s.fld (R.ETH_RXQ_CFG_enable r) = 1 ∧ s.fld (R.ETH_RXQ_CFG_owner r) = client ∧
      tail < 2 ^ s.fld (R.ETH_RXQ_CFG_log2size r) then
      { s with eth := { s.eth with rxTails := Store.set (fun _ => 0) s.eth.rxTails r tail } }
    else s.refuseDoorbell client 0x808)

/-- Every descriptor of ring `t` not yet started is written back RING_DISABLED (R344). -/
def State.drainTx (s : State) (b : Bus) (t : Nat) : Nat → State
  | 0 => s
  | n + 1 => if s.txReady t then (s.txBack b t 5 0).drainTx b t n else s

/-- A ring is disabled and unowned. -/
def State.closeRx (s : State) (r : Nat) : State :=
  let s := ((s.setReg (R.ETH_RXQ_CFG r) 0).setReg (R.ETH_RXQ_BASE r) 0).setReg (R.ETH_RXQ_WB r) 0
  { (s.setReg (R.ETH_RXQ_HEAD r) 0) with eth := { s.eth with rxTails := Store.set (fun _ => 0) s.eth.rxTails r 0 } }

def State.closeTx (s : State) (t : Nat) : State :=
  let s := ((s.setReg (R.ETH_TXQ_CFG t) 0).setReg (R.ETH_TXQ_BASE t) 0).setReg (R.ETH_TXQ_WB t) 0
  { (s.setReg (R.ETH_TXQ_HEAD t) 0) with eth := { s.eth with txTails := Store.set (fun _ => 0) s.eth.txTails t 0 } }

/-- Ring `t` is disabled with no write-back: its descriptors are discarded and counted (R344). -/
def State.discardTx (s : State) (t : Nat) : State :=
  if s.fld (R.ETH_TXQ_CFG_enable t) = 0 then s
  else
    let size := 2 ^ s.fld (R.ETH_TXQ_CFG_log2size t)
    let n := (s.txTail t + size - s.fld (R.ETH_TXQ_HEAD_head t)) % size
    (((s.addTerm (txTerm t 0) n).addTerm (txTerm t 2) n).bumpBy (R.ETH_PORT_CNT_count (t / 8) 11) n).closeTx t

/-- ETH_RING_SET (R359). -/
def execEthRingSet (id : Nat) (bus : Bus) (s : State) : Host.Outcome State Fault Refusal :=
  .next (s.runOp id .ethRingSet fun c s =>
    let r := c.pb 16 0 9
    let tx := c.flag 18 0
    let on := c.flag 18 1
    let n := c.pb 19 0 4
    let owner := c.pb 20 0 4
    let buf := c.pb 21 0 7
    let there := !tx || decide (r < 64)
    let cfg := if tx then R.ETH_TXQ_CFG r else R.ETH_RXQ_CFG r
    let held := there && (s.reg cfg).toNat.testBit 0
    if c.client ≠ 0 ∧ (owner ≠ c.client ∨ (held = true ∧ bitsOf (s.reg cfg).toNat 12 4 ≠ c.client)) then s.refuse c stNotPermitted 0
    else if there = false ∨ (on = true ∧ (n < 6 ∨ 14 < n ∨ (tx = false ∧ (buf < 2 ∨ 64 < buf)))) then s.refuse c stBadParam 1
    else if on = true ∧ held = true then s.refuse c stBusyRetry 0
    else if on then
      let base := BitVec.ofNat 64 (c.p 8 8 / 4096 * 4096 + c.p 8 8 % 2)
      let word := BitVec.ofNat 64 (1 + n * 256 + owner * 4096 + (if tx then 0 else buf * 65536) + c.pb 22 0 6 * 2 ^ 24)
      let s := if tx then
          (((s.closeTx r).setReg (R.ETH_TXQ_BASE r) base).setReg (R.ETH_TXQ_CFG r) word).setFld (R.ETH_TXQ_WB_addr r) (c.p 24 8)
        else (((s.closeRx r).setReg (R.ETH_RXQ_BASE r) base).setReg (R.ETH_RXQ_CFG r) word).setFld (R.ETH_RXQ_WB_addr r) (c.p 24 8)
      s.finishOne c
    else if tx then (((s.drainTx bus r 16384).closeTx r)).finishOne c
    else (s.closeRx r).finishOne c)

/-! ## Gate lists (R355, R356, R360) -/

/-- The registers that show port `p`'s lists. -/
def State.showEthList (s : State) (p : Nat) : State :=
  let g := (s.ep p).gates
  let es := (g.active.map GateList.entries).getD []
  let s := (List.range 128).foldl (fun s' e =>
    let x := es.getD e (0, 0)
    s'.setReg (R.ETH_GATE_ACTIVE p e) (BitVec.ofNat 64 (x.1 + x.2 * 65536))) s
  let s := s.setFld (R.ETH_GATE_CYCLE_ns p) ((g.active.map GateList.cycle).getD 0)
  let s := (s.setFld (R.ETH_GATE_STATUS_entries p) es.length).setFld (R.ETH_GATE_STATUS_anchor p) ((g.active.map GateList.anchor).getD 0)
  let s := (s.setFld (R.ETH_PORT_STATUS_list p) (bit g.active.isSome)).setFld (R.ETH_PORT_STATUS_pending p) (bit g.waiting.isSome)
  (s.setFld (R.ETH_GATE_START_time p) g.start).setFld (R.ETH_GATE_PENDING_time p) g.waitStart

/-- The pending list of port `p` starts at PTP time `t` (R355, R356). -/
def State.startEthList (s : State) (b : Bus) (p t : Nat) : State :=
  let g := (s.ep p).gates
  match g.waiting with
  | none => s
  | some l =>
    let s := s.setEp p { s.ep p with gates := { active := if l.entries.isEmpty then none else some l, start := t } }
    let s := (s.showEthList p).dropOversize b p
    let mask := ((s.cmdOf l.cmd).map fun c => c.p 28 1).getD 0
    s.itemDone l.cmd (popCount p mask) ⟨stDone, 0, 0⟩

/-- ETH_GATE_LIST_START (R355): the pending PTP-anchored list of port `p` starts. -/
def execEthGateListStart (p : Nat) (bus : Bus) (s : State) : Host.Outcome State Fault Refusal :=
  .next (if 8 ≤ p then s
    else match (s.ep p).gates.waiting with
      | none => s
      | some l => if l.anchor = 1 then s else s.startEthList bus p (s.ep p).gates.waitStart)

/-- ETH_GATE_LIST_SET (R355, R360). -/
def execEthGateListSet (id : Nat) (bus : Bus) (s : State) : Host.Outcome State Fault Refusal :=
  .next (s.runOp id .ethGateListSet fun c s =>
    let base := c.p 16 8
    let cycle := c.p 24 4
    let ports := c.p 28 1
    let count := c.p 29 1
    let anchor := c.pb 30 0 1
    let remove := c.flag 30 1
    if !remove && (count == 0 || decide (128 < count) || decide (cycle < 1000) || decide (1000000000 < cycle)) then s.refuse c stBadParam 1
    else if ports = 0 then s.refuse c stBadParam 3
    else
      let (s, recs) := if remove then (s, []) else s.readRecords bus c false (c.p 8 8) 8 count
      if !remove && recs.length != count then s.failOne c stFault
      else
        let words := recs.map leNat
        if words.any fun w => decide (bitsOf w 16 32 < 10) then s.refuse c stBadParam 1
        else if words.any fun w => bitsOf w 8 2 == 3 || bitsOf w 10 6 != 0 || bitsOf w 48 16 != 0 then s.refuse c stBadParam 2
        else if s.deferFull c then s.refuse c stBusyRetry 0
        else
          let l : GateList := ⟨words.map fun w => (bitsOf w 0 16, bitsOf w 16 32), base, cycle, anchor, id⟩
          let past := decide (base < s.now) && anchor == 0
          let n := if past && !remove then (s.now - base) / cycle + 1 else 0
          let start := if anchor = 1 then 0 else if remove then max base s.now else base + n * cycle
          let s := s.defer c (popCount 8 ports)
          (setBits 8 ports).foldl (fun s' p =>
            let s' := match (s'.ep p).gates.waiting with
              | some old => s'.abort old.cmd stSoftware
              | none => s'
            let x := s'.ep p
            let s' := (s'.setEp p { x with gates := { x.gates with waiting := some l, waitStart := start } }).showEthList p
            if past && !remove then s'.post 0x0801 p (min n 0xFFFFFFFF) else s') s)

end Sys2Proof.Machine
end

