-- ==== Sys2Proof/Machine/Story.lean ====
section
/-! DEFINITION. Calibration, ageing, truing, the story pole and firmware images (chapter 20). -/

namespace Sys2Proof.Machine

open Sys2Proof

/-! ## Commits (R445, R457) -/

/-- CAL_COMMIT, at most once per 10 s per kind. -/
def State.postCommit (s : State) (kind key : Nat) : State :=
  let n := Store.get (fun _ => 0) s.cal.since kind + 1
  if s.mayPost (0x0300000000 + kind) 10000000000 then
    ({ s with cal := { s.cal with since := Store.set (fun _ => 0) s.cal.since kind 0 } }).postLimited (0x0300000000 + kind)
      10000000000 0x0300 kind (key + min n 65535 * 65536)
  else { s with cal := { s.cal with since := Store.set (fun _ => 0) s.cal.since kind n } }

/-- The DAC of item `i` against its target. -/
def State.showSlew (s : State) (i : Nat) : State :=
  s.setFld (R.CAL_ITEM_STATE_slewing i) (bit (s.fld (R.CAL_ITEM_STATE_dac i) != s.fld (R.CAL_ITEM_STATE_target i)))

/-- The plan of a margin-plan record: offset in 5 mV, ceiling in 25 MHz and worst δ in ppm (log entry 30). -/
def planOf (body : List Byte) : Nat × Nat × Nat := (leAt body 0 1, leAt body 1 1, leAt body 2 2)

/-- The least-squares slope of `ys` over `xs`, as a fraction with a positive denominator; none where it has no meaning. -/
def leastSquares (xs ys : List Int) : Option (Int × Int) :=
  let n : Int := xs.length
  let sx := xs.sum
  let sy := ys.sum
  let sxy := ((xs.zip ys).map fun p => p.1 * p.2).sum
  let sxx := (xs.map fun x => x * x).sum
  let d := n * sxx - sx * sx
  if xs.length < 2 ∨ d ≤ 0 then none else some (n * sxy - sx * sy, d)

/-- days_left of bent `b` (R452) from its last four plans, with the offset moved by the change of δ since the last plan. -/
def State.daysLeft (s : State) (b : Nat) : Nat :=
  let recs := (s.recordsOf 4 b).take 4
  let plans := recs.map fun r => planOf r.body
  let offs := plans.map fun p => (5 * p.1 : Int)
  let t0 := ((recs.getLast?.map Record.time).getD 0 : Int)
  match leastSquares (recs.map fun r => (r.time : Int) - t0) offs with
  | none => 4095
  | some (num, den) =>
    if num ≤ 0 then 4095
    else
      let (o, _, dp) := plans.headD (0, 0, 0)
      let moved := match leastSquares (plans.map fun p => (p.2.2 : Int)) offs with
        | some (a, c) => (a * ((s.fld (R.CAL_BENT_AGE_delta b) : Int) - dp), c)
        | none => (0, 1)
      -- (150 mV - offset now) / slope, in days of 86,400 s
      let left := (150 - 5 * (o : Int)) * moved.2 - moved.1
      if left ≤ 0 then 0 else min 4095 (left * den / (moved.2 * num * 86400000000000)).toNat

/-- The number of bents in service. -/
def State.bentsIn (s : State) : Nat := ((List.range 8).filter fun b => s.fld (R.ENG_BENT_STATUS_state b) == 1).length

/-- A bent at the end of its margin is retired with cause 2, but for the last one in service (R452). -/
def State.marginOut (s : State) (b : Nat) : State :=
  let st := s.fld (R.ENG_BENT_STATUS_state b)
  if st = 4 then s
  else if st = 1 ∧ s.bentsIn ≤ 1 then s.post 0x0311 b 0
  else
    let s := s.bump (R.CAL_CNT_count 6)
    if st = 1 then s.drainBent b 4 2 []
    else if st = 2 then
      let d := (Store.get (fun _ => none) s.eng.bents b).getD ⟨4, 2, []⟩
      { s with eng := { s.eng with bents := Store.set (fun _ => none) s.eng.bents b (some { d with target := 4, cause := 2 }) } }
    else s.retireBent b 2 []

/-- Shows days_left of bent `b` and acts on it (R452). -/
def State.showDays (s : State) (b : Nat) : State :=
  let d := s.daysLeft b
  let low := decide (d < s.fld R.CAL_TRUE_CFG_warn_days)
  let s := (s.setFld (R.CAL_BENT_PLAN_days_left b) d).setFld (R.CAL_BENT_PLAN_low b) (bit low)
  let s := if low then s.postLimited (0x0311000000 + b) 86400000000000 0x0311 b d else s
  if d ≤ s.fld R.CAL_TRUE_CFG_retire_days then s.marginOut b else s

/-- A truing outcome of bent `b` (R454, R468): its register, its event, its item. -/
def State.trueOutcome (s : State) (b o status : Nat) : State :=
  let s := s.setFld (R.CAL_TRUE_OUTCOME_outcome b) o
  let s := s.post 0x0310 b (o + s.fld (R.CAL_BENT_PLAN_offset b) * 8 + s.fld (R.CAL_BENT_PLAN_ceiling b) * 256)
  let s := if o = 2 then s.bump (R.CAL_CNT_count 5) else s
  match s.cal.pass with
  | some p =>
    let s := s.setFld R.CAL_TRUE_STATUS_done (s.fld R.CAL_TRUE_STATUS_done ||| (if o = 4 then 0 else 2 ^ b))
    match p.cmd with
    | some id => s.itemDone id ((p.named.findIdx? (· == b)).getD 0) ⟨status, 0, o⟩
    | none => s
  | none => s

/-- A committed record takes effect (R445, R451, R466, R467). -/
def State.applyRecord (s : State) (n : NewRecord) : State :=
  let s := if n.rolledBack then
      (s.bump (R.CAL_CNT_count 2)).post 0x0301 (if n.kind = 1 then 1 else if n.kind = 3 then 2 else 3) (n.key + n.depth * 65536)
    else s
  if n.copied then s
  else if n.kind = 1 then
    let s := s.setFld (R.CAL_ITEM_STATE_target n.key) (leAt n.body 0 2)
    let s := ((s.setFld (R.CAL_ITEM_COUNT_count n.key) (s.fld (R.CAL_ITEM_COUNT_count n.key) + 1)).setFld (R.CAL_ITEM_TIME_time n.key) s.now).showSlew n.key
    let s := if n.rolledBack then s else (s.bump (R.CAL_CNT_count 0)).postCommit 1 n.key
    s.endItems n.waiters ⟨stDone, 0, if n.rolledBack then 0 else s.fld (R.CAL_ITEM_COUNT_count n.key)⟩
  else if n.kind = 3 then
    let j := n.key / 4
    let s := (s.setFld (R.DMC_TRAIN_TIME_time j) s.now).setFld (R.DMC_QUAD_STATUS_history j)
      (s.fld (R.DMC_QUAD_STATUS_history j) ||| 2 ^ (n.key % 4))
    let s := if n.rolledBack then s else s.setFld (R.DMC_QUAD_STATUS_stale j) (maskPut (s.fld (R.DMC_QUAD_STATUS_stale j)) (n.key % 4) false)
    (if n.rolledBack then s else (s.bump (R.CAL_CNT_count 1)).postCommit 2 n.key).endItems n.waiters ⟨stDone, 0, 0⟩
  else if n.kind = 4 then
    let b := n.key
    let (o, c, _) := planOf n.body
    let s := ((s.setFld (R.CAL_BENT_PLAN_offset b) o).setFld (R.CAL_BENT_PLAN_ceiling b) c).showDays b
    let st := s.fld (R.ENG_BENT_STATUS_state b)
    if n.rolledBack then
      if st = 3 then s.wakeBent b n.waiters
      else if st = 2 then { s with eng := { s.eng with resume := Store.set (fun _ => none) s.eng.resume b (some n.waiters) } }
      else s.endItems n.waiters ⟨stDone, 0, 0⟩
    else
      let s := (s.bump (R.CAL_CNT_count 4)).trueOutcome b 1 stDone
      if s.fld (R.ENG_BENT_STATUS_state b) = 3 then s.wakeBent b [] else s
  else s.endItems n.waiters ⟨stDone, 0, 0⟩

/-! ## The journal (R456 to R460) -/

/-- The bytes that a record takes: whole pages. -/
def recordBytes (body : List Byte) : Nat := ceilDiv (32 + body.length + 16) 256 * 256

/-- Shows the erased sectors, and the wear of the good ones. -/
def State.showSectors (s : State) : State :=
  let w := fun (k : Nat) => Store.get (fun _ => 0) s.spl.wear k
  let good := (List.range 1024).filter fun k => !s.spl.bad.contains k
  let erased := good.filter fun k => !s.spl.written.contains k && s.spl.erasing != some k
  let s := (s.setFld R.SPL_STATUS_free (min 1023 erased.length)).setFld R.SPL_STATUS_retired (min 1023 s.spl.bad.length)
  (s.setFld R.SPL_WEAR_max ((List.range 1024).foldl (fun m k => max m (w k)) 0)).setFld R.SPL_WEAR_MIN_min
    (good.foldl (fun m k => min m (w k)) (w (good.headD 0)))

/-- The next erased good sector after the open one, in circular order (R458). -/
def State.nextSector (s : State) : Option Nat :=
  let from_ := (s.spl.written.getLast?.map (· + 1)).getD 0
  ((List.range 1024).map fun i => (from_ + i) % 1024).find? fun k =>
    !s.spl.bad.contains k && !s.spl.written.contains k && s.spl.erasing != some k

/-- Takes room for `n` bytes in the open sector, opening the next one where it has none; 64 bytes are the sector header. -/
def State.takeRoom (s : State) (n : Nat) : State :=
  let open_ := s.spl.written.getLast?
  if open_.isSome ∧ (s.spl.bad.contains (open_.getD 0)) = false ∧ s.spl.used + n ≤ 65536 then
    { s with spl := { s.spl with used := s.spl.used + n } }
  else
    match s.nextSector with
    | some k => { s with spl := { s.spl with written := s.spl.written ++ [k], used := 64 + n } }
    | none => s

/-- The oldest record to be written is programmed, or, once it has been, its marker is (R457). -/
def State.commitRecord (s : State) : State :=
  match s.spl.queue with
  | [] => s
  | n :: rest =>
    if s.fld R.SPL_STATUS_read_only = 1 then s
    else if s.spl.programmed = false then
      let s := s.takeRoom (recordBytes n.body)
      { s with spl := { s.spl with programmed := true } }.showSectors
    else
      let seq := s.fld R.SPL_SEQ_seq + 1
      let r : Record := ⟨n.kind, n.key, n.rolledBack, n.copied, n.body, seq, n.time.getD s.now, n.source, s.spl.written.getLast?.getD 0⟩
      let b := s.spl.bytes + recordBytes n.body
      let s := { s with spl := { s.spl with queue := rest, programmed := false, records := s.spl.records ++ [r], bytes := b % 1024 } }
      let s := ((s.setFld R.SPL_SEQ_seq seq).bump (R.SPL_CNT_count 0)).bumpBy (R.SPL_CNT_count 1) (b / 1024)
      (s.setFld R.SPL_STATUS_first_use 0).applyRecord n

/-- RECORD_COMMIT (R457). -/
def execRecordCommit (s : State) : Host.Outcome State Fault Refusal := .next s.commitRecord

/-- A wear record of sector `k` (R458, R459; log entry 30). -/
def State.recordWear (s : State) (k count : Nat) (retired : Bool) : State :=
  s.record { kind := 11, key := k, body := leBytes 4 count ++ leBytes 1 (bit retired) }

/-- JOURNAL_RECLAIM (R458): with fewer than 8 erased sectors, or records more than 2 years old in it, the oldest sector is
reclaimed. -/
def execJournalReclaim (s : State) : Host.Outcome State Fault Refusal :=
  .next (match s.spl.written with
    | [] => s
    | k :: more =>
      let old := match s.spl.records.find? fun r => r.sector == k with
        | some r => decide (r.time + 2 * 365 * 86400000000000 < s.now)
        | none => false
      if s.spl.erasing.isSome ∨ more = [] ∨ s.fld R.SPL_STATUS_read_only = 1 ∨ (8 ≤ s.fld R.SPL_STATUS_free ∧ old = false) then s
      else
        let keep := s.spl.records.filter fun r => r.sector == k && ((s.recordsOf r.kind r.key).take 4).contains r
        let s := keep.foldl (fun t r => t.record
          { kind := r.kind, key := r.key, body := r.body, rolledBack := r.rolledBack, copied := true, source := r.seq, time := some r.time }) s
        let s := (s.bumpBy (R.SPL_CNT_count 3) keep.length).recordWear k (Store.get (fun _ => 0) s.spl.wear k + 1) false
        { s with spl := { s.spl with erasing := some k } })

/-- SECTOR_ERASE_DONE (R458): the erase ends once the records copied forward are written. -/
def execSectorEraseDone (s : State) : Host.Outcome State Fault Refusal :=
  .next (match s.spl.erasing with
    | none => s
    | some k =>
      if s.spl.queue.any fun n => n.copied then s
      else
        let s := { s with spl := { s.spl with
          erasing := none, written := s.spl.written.filter (· != k), records := s.spl.records.filter fun r => r.sector != k
          wear := Store.modify (fun _ => 0) s.spl.wear k (· + 1) } }
        ((s.bump (R.SPL_CNT_count 2)).setFld R.SPL_STATUS_erase_redone 0).showSectors)

/-- SPL_SECTOR_RETIRED (R459): a program in the open sector fails its verify, or, with `erase`, the erase in progress does. -/
def execSplSectorRetired (erase : Bool) (s : State) : Host.Outcome State Fault Refusal :=
  .next (match (if erase then s.spl.erasing else if s.spl.queue = [] then none else s.spl.written.getLast?) with
    | none => s
    | some k =>
      let s := { s with spl := { s.spl with
        bad := s.spl.bad ++ [k], erasing := if erase then none else s.spl.erasing
        programmed := if erase then s.spl.programmed else false } }
      let s := (s.bump (R.SPL_CNT_count 5)).showSectors
      let s := s.post 0x0400 0 (k + s.fld R.SPL_STATUS_retired * 1024)
      let good := 1024 - s.spl.bad.length
      if good < 16 ∧ s.fld R.SPL_STATUS_read_only = 0 then
        let ws := s.spl.queue.flatMap NewRecord.waiters
        let s := (s.bumpBy (R.SPL_CNT_count 6) s.spl.queue.length).setFld R.SPL_STATUS_read_only 1
        ({ s with spl := { s.spl with queue := [], programmed := false } }.post 0x0401 0 good).endItems ws ⟨stFault, 0, 0⟩
      else s.recordWear k (Store.get (fun _ => 0) s.spl.wear k) true)

/-! ## Class A and DRAM calibration (R444 to R448, R466) -/

/-- Whether a commit of item `i` must wait (R445 step 3). -/
def State.tooSoon (s : State) (last : Option Nat) : Bool :=
  match last with
  | none => false
  | some t => decide (s.now < t + s.fld R.CAL_CFG_min_commit * 60000000000)

/-- A class A calibration of item `i` with target `t` (R445); `run` is the CAL_RUN item that asked for it. -/
def State.calibrateItem (s : State) (i t : Nat) (run : Option (Nat × Nat)) : State :=
  let ws := run.toList
  let last := if s.fld (R.CAL_ITEM_COUNT_count i) = 0 then none else some (s.fld (R.CAL_ITEM_TIME_time i))
  if t = s.fld (R.CAL_ITEM_STATE_target i) then s.endItems ws ⟨stDone, 0, s.fld (R.CAL_ITEM_COUNT_count i)⟩
  else if s.fld R.SPL_STATUS_read_only = 1 then (s.bump (R.CAL_CNT_count 7)).endItems ws ⟨stFault, 0, 0⟩
  else if run.isNone && s.tooSoon last then s.bump (R.CAL_CNT_count 7)
  else s.record { kind := 1, key := i, body := leBytes 2 t ++ leBytes 4 (s.fld (R.CAL_ITEM_COUNT_count i) + 1), waiters := ws }

/-- DRAM trims of quad and point `key` derived by gathering (R379, R445). -/
def State.calibrateDram (s : State) (key : Nat) (trims : List Byte) : State :=
  let now := s.inForce 3 key
  let moved := match now with
    | none => true
    | some r => (trims.zip r.body).any fun p => decide (p.1.toNat + 2 ≤ p.2.toNat) || decide (p.2.toNat + 2 ≤ p.1.toNat)
  if s.fld R.CAL_CFG_auto_dram = 0 ∨ s.cal.frozenDram.contains key = true ∨ moved = false then s
  else if s.fld R.SPL_STATUS_read_only = 1 ∨ s.tooSoon (now.map Record.time) = true then s.bump (R.CAL_CNT_count 7)
  else s.record { kind := 3, key := key, body := trims }

/-- CALIBRATION (R444, R445, R448, R466): an item's statistic is measured and gives `trims` (one value for class A); `met` says
that its measuring condition was met. -/
def execCalibration (dram : Bool) (key : Nat) (trims : List Nat) (met : Bool) (s : State) : Host.Outcome State Fault Refusal :=
  .next (if dram then (if met then s.calibrateDram key (trims.map (BitVec.ofNat 8)) else s)
    else if 128 ≤ key then s
    else match s.cal.runs.find? fun r => r.2.2 == key with
    | some r =>
      let s := { s with cal := { s.cal with runs := s.cal.runs.filter (· != r) } }
      if met then s.calibrateItem key (trims.headD 0 % 16384) (some (r.1, r.2.1)) else s.itemDone r.1 r.2.1 ⟨stLimit, 2, 0⟩
    | none =>
      if met = false ∨ s.fld R.CAL_CFG_auto_a = 0 ∨ s.fld (R.CAL_ITEM_STATE_freeze key) = 1 then s
      else s.calibrateItem key (trims.headD 0 % 16384) none)

/-- TRIM_SLEW_TICK (R444, R446): item `i` moves 1 LSB towards its target; `atTemp` is the target that its temperature table
gives now. -/
def execTrimSlewTick (i : Nat) (atTemp : Option Nat) (s : State) : Host.Outcome State Fault Refusal :=
  .next (if 128 ≤ i then s
    else
      let s := match atTemp with
        | some t => s.setFld (R.CAL_ITEM_STATE_target i) t
        | none => s
      let d := s.fld (R.CAL_ITEM_STATE_dac i)
      let t := s.fld (R.CAL_ITEM_STATE_target i)
      (s.setFld (R.CAL_ITEM_STATE_dac i) (if d < t then d + 1 else if t < d then d - 1 else d)).showSlew i)

/-- CAL_RUN (R466). -/
def execCalRun (id : Nat) (_bus : Bus) (s : State) : Host.Outcome State Fault Refusal :=
  .next (s.runOp id .calRun fun c s =>
    let first := c.pb 8 0 7
    let count := c.p 9 1
    if count = 0 ∨ 128 < first + count then s.refuse c stBadParam 1
    else if s.deferFull c then s.refuse c stBusyRetry 0
    else
      let s := s.defer c count
      (List.range count).foldl (fun t k =>
        if t.fld (R.CAL_ITEM_STATE_freeze (first + k)) = 1 then t.itemDone id k ⟨stBusyRetry, 1, 0⟩
        else { t with cal := { t.cal with runs := t.cal.runs ++ [(id, k, first + k)] } }) s)

/-! ## Ageing and truing (R450 to R454, R468) -/

/-- The worst of the δ readings and its pair. -/
def worstDelta (ds : List Nat) : Nat × Nat :=
  (List.range ds.length).foldl (fun a k => if a.1 < ds.getD k 0 then (ds.getD k 0, k) else a) (0, 0)

/-- The readings of bent `b` are shown. -/
def State.showAge (s : State) (b : Nat) (ds : List Nat) : State :=
  let (d, p) := worstDelta (ds.take 4)
  (s.setFld (R.CAL_BENT_AGE_delta b) (min d 65535)).setFld (R.CAL_BENT_AGE_pair b) p

/-- AGEING_MEASURE (R450): the pairs of bent `b` read `deltas`, ppm; a bent whose domain is off is not measured. -/
def execAgeingMeasure (b : Nat) (deltas : List Nat) (s : State) : Host.Outcome State Fault Refusal :=
  .next (if s.bentOn b = false ∨ 8 ≤ b then s
    else ((s.showAge b deltas).record { kind := 5, key := b, body := deltas.flatMap (leBytes 4) }).showDays b)

/-- Whether R308 forbids a pass: fewer than 7 bents would be left in service. -/
def State.passForbidden (s : State) : Bool :=
  decide (((List.range 8).filter fun b => s.fld (R.ENG_BENT_STATUS_state b) == 1 || s.fld (R.ENG_BENT_STATUS_state b) == 0).length < 8)

/-- Whether limiting or a zone above level 2 keeps a scheduled pass waiting (R453). -/
def State.passHot (s : State) : Bool :=
  s.fld R.PWC_STATUS_limiting == 1 || (List.range 16).any fun z => decide (2 < s.fld (R.THM_ZONE_level z))

/-- A pass starts over `bents` (R453). -/
def State.startPass (s : State) (cmd : Option Nat) (bents : List Nat) : State :=
  let s := (List.range 8).foldl (fun t b => t.setFld (R.CAL_TRUE_OUTCOME_outcome b) 0) s
  let s := ((s.setFld R.CAL_TRUE_STATUS_running 1).setFld R.CAL_TRUE_STATUS_waiting 0).setFld R.CAL_TRUE_STATUS_done 0
  let s := { s.bump (R.CAL_CNT_count 3) with cal := { s.cal with pass := some ⟨cmd, bents, bents, none, false⟩ } }
  ((List.range 8).filter fun b => s.fld (R.ENG_BENT_STATUS_state b) == 0).foldl (fun t b => t.wakeBent b []) s

/-- TRUING_PASS_DUE (R453): a scheduled pass starts, or waits. -/
def execTruingPassDue (s : State) : Host.Outcome State Fault Refusal :=
  .next (if s.fld R.CAL_TRUE_CFG_interval = 0 ∨ s.cal.pass.isSome = true then s
    else if s.passForbidden || s.passHot then s.setFld R.CAL_TRUE_STATUS_waiting 1
    else s.startPass none (List.range 8))

/-- The pass ends. -/
def State.endPass (s : State) : State :=
  { s.setFld R.CAL_TRUE_STATUS_running 0 with cal := { s.cal with pass := none } }

/-- The pass takes its next bent, skipping frozen and retired ones (R453). -/
def State.takeBent (s : State) (p : Pass) : Nat → State
  | 0 => s.endPass
  | fuel + 1 =>
    match p.todo with
    | [] => s.endPass
    | b :: rest =>
      let p' : Pass := { p with todo := rest, cur := none, planned := false }
      let st := s.fld (R.ENG_BENT_STATUS_state b)
      if st = 4 ∨ s.cal.frozenBents.contains b = true then
        ({ s with cal := { s.cal with pass := some p' } }.trueOutcome b 3 stBusyRetry).takeBent p' fuel
      else if st = 1 then
        let s := { s.setFld R.CAL_TRUE_STATUS_bent b with cal := { s.cal with pass := some { p' with cur := some b } } }
        s.drainBent b 3 0 []
      else s

/-- A bent in TRUING goes back under its old plan. -/
def State.returnBent (s : State) (b : Nat) : State :=
  if s.fld (R.ENG_BENT_STATUS_state b) = 3 then s.wakeBent b []
  else if s.fld (R.ENG_BENT_STATUS_state b) = 2 then
    { s with eng := { s.eng with resume := Store.set (fun _ => none) s.eng.resume b (some []) } }
  else s

/-- TRUING_BENT (R451 to R454): the pass goes on. Once its bent is drained, `offset` is the lowest offset that passed at the
target ceiling, `ceiling` the highest that passed at 150 mV less the guard, `deltas` the readings of its pairs. -/
def execTruingBent (offset ceiling : Option Nat) (deltas : List Nat) (s : State) : Host.Outcome State Fault Refusal :=
  .next (match s.cal.pass with
    | none => s
    | some p =>
      match p.cur with
      | none => s.takeBent p 9
      | some b =>
        let st := s.fld (R.ENG_BENT_STATUS_state b)
        if st = 4 then (if p.planned then s else s.trueOutcome b 3 stBusyRetry).takeBent p 9
        else if st = 1 then s.takeBent p 9
        else if st ≠ 3 ∨ p.planned = true then s
        else
          let s := s.showAge b deltas
          let g := s.fld R.CAL_TRUE_CFG_guard
          let plan := match offset, ceiling with
            | some v, c => if v + g ≤ 30 then some (v + g, 48) else c.map fun x => (30, x)
            | none, c => c.map fun x => (30, x)
          match plan with
          | some (o, c) =>
            if s.fld R.SPL_STATUS_read_only = 1 then
              (((s.bump (R.CAL_CNT_count 7)).trueOutcome b 2 stFault).returnBent b)
            else
              let s := { s with cal := { s.cal with pass := some { p with planned := true } } }
              s.record { kind := 4, key := b, body := leBytes 1 o ++ leBytes 1 c ++ leBytes 2 (worstDelta (deltas.take 4)).1 }
          | none =>
            if s.bentsIn = 0 then ((s.post 0x0311 b 0).trueOutcome b 2 stFault).returnBent b
            else ((s.bump (R.CAL_CNT_count 6)).trueOutcome b 3 stBusyRetry).retireBent b 2 [])

/-- A pass is stopped by heat or power (R454): the bent in it keeps its old plan, the others are not reached. -/
def State.stopPass (s : State) (status : Nat) : State :=
  match s.cal.pass with
  | none => s
  | some p =>
    let s := match p.cur with
      | some b =>
        if p.planned && s.fld (R.CAL_TRUE_OUTCOME_outcome b) == 1 then s
        else
          let q := s.spl.queue.filter fun (n : NewRecord) => !(n.kind == 4 && n.key == b && !n.rolledBack)
          let s := { s with spl := { s.spl with queue := q, programmed := if q = s.spl.queue then s.spl.programmed else false } }
          (s.trueOutcome b 2 status).returnBent b
      | none => s
    (p.todo.foldl (fun t b => t.trueOutcome b 4 status) s).endPass

/-- TRUING_RUN (R308, R468). -/
def execTruingRun (id : Nat) (_bus : Bus) (s : State) : Host.Outcome State Fault Refusal :=
  .next (s.runOp id .truingRun fun c s =>
    let m := c.p 8 1
    let bents := setBits 8 (if m = 0 then 255 else m)
    if s.passForbidden then s.refuse c stLimit 0
    else if s.cal.pass.isSome ∨ s.deferFull c = true then s.refuse c stBusyRetry 0
    else (s.defer c bents.length).startPass (some id) bents)

/-! ## Rollback (R467) -/

/-- The content to restore for record kind `kind` and key `key`, `depth` generations back or the factory's. -/
def State.oldContent (s : State) (kind key depth : Nat) : Option (List Byte × Nat) :=
  if depth = 255 then
    if kind = 1 ∧ key < 128 then some (leBytes 2 (fieldGet (resetReg (R.CAL_ITEM_STATE key)) 16 14) ++ leBytes 4 0, 0)
    else if kind = 4 ∧ key < 8 then
      let r := resetReg (R.CAL_BENT_PLAN key)
      some (leBytes 1 (fieldGet r 0 5) ++ leBytes 1 (fieldGet r 8 6) ++ leBytes 2 0, 0)
    else none
  else if 1 ≤ depth ∧ depth ≤ 3 then ((s.recordsOf kind key)[depth]?).map fun r => (r.body, r.seq)
  else none

/-- Sets or clears freeze (R448, R467). -/
def State.setFreeze (s : State) (kind key : Nat) (on : Bool) : State :=
  let put := fun (l : List Nat) => if on then (l ++ [key]).eraseDups else l.filter (· != key)
  if kind = 1 then s.setFld (R.CAL_ITEM_STATE_freeze key) (bit on)
  else if kind = 2 then { s with cal := { s.cal with frozenDram := put s.cal.frozenDram } }
  else { s with cal := { s.cal with frozenBents := put s.cal.frozenBents } }

/-- CAL_ROLLBACK on one key: item `k` of command `id`. -/
def State.rollKey (s : State) (id kind depth key k : Nat) (freeze unfreeze : Bool) : State :=
  let rk := [0, 1, 3, 4].getD kind 0
  let lim := [0, 128, 16, 8].getD kind 0
  if lim ≤ key then s.itemDone id k ⟨stBadParam, 2, 0⟩
  else if depth = 0 then
    let s := if freeze then s.setFreeze kind key true else if unfreeze then s.setFreeze kind key false else s
    s.itemDone id k ⟨stDone, 0, 0⟩
  else match s.oldContent rk key depth with
  | none => s.itemDone id k ⟨stBadParam, 2, 0⟩
  | some (body, seq) =>
    if kind = 3 ∧ s.fld (R.ENG_BENT_STATUS_state key) = 1 ∧ s.passForbidden = true then s.itemDone id k ⟨stBusyRetry, 0, 0⟩
    else if s.fld R.SPL_STATUS_read_only = 1 then (s.bump (R.SPL_CNT_count 6)).itemDone id k ⟨stFault, 0, 0⟩
    else
      let s := if freeze then s.setFreeze kind key true else if unfreeze then s.setFreeze kind key false else s
      let s := if kind = 3 ∧ s.fld (R.ENG_BENT_STATUS_state key) = 1 then s.drainBent key 3 0 [] else s
      let body := if kind = 1 then body.take 2 ++ leBytes 4 (s.fld (R.CAL_ITEM_COUNT_count key) + 1) else body
      s.record { kind := rk, key := key, body := body, rolledBack := true, source := seq, waiters := [(id, k)], depth := depth }

/-- CAL_ROLLBACK (R467). -/
def execCalRollback (id : Nat) (_bus : Bus) (s : State) : Host.Outcome State Fault Refusal :=
  .next (s.runOp id .calRollback fun c s =>
    let kind := c.pb 8 0 2
    let depth := c.p 9 1
    let count := c.p 14 2
    if (c.flag 10 0 && c.flag 10 1) || kind == 0 || (depth == 255 && kind == 2) then s.refuse c stBadParam 1
    else if count = 0 then s.refuse c stBadParam 14
    else if s.deferFull c then s.refuse c stBusyRetry 0
    else
      let s := s.defer c count
      (List.range count).foldl (fun t k => t.rollKey id kind depth (c.p 12 2 + k) k (c.flag 10 0) (c.flag 10 1)) s)

/-! ## Reading records (R469) -/

/-- The bytes of a record, whole: header, body, padding and marker, padded to 4 KiB. -/
def Record.bytes (r : Record) : List Byte :=
  let head := leBytes 1 r.kind ++ leBytes 1 (bit r.rolledBack + 2 * bit r.copied) ++ leBytes 2 r.key ++ leBytes 2 r.body.length ++
    leBytes 2 0 ++ leBytes 8 r.seq ++ leBytes 8 r.time ++ leBytes 8 r.source
  let pages := recordBytes r.body
  let pad := List.replicate (pages - 48 - r.body.length) (255 : Byte)
  let mark := leBytes 4 0x53504C43 ++ leBytes 8 r.seq ++ leBytes 4 (crc32c (head ++ r.body))
  head ++ r.body ++ pad ++ mark ++ List.replicate (4096 - pages) 255

/-- SPL_READ (R469). -/
def execSplRead (id : Nat) (bus : Bus) (s : State) : Host.Outcome State Fault Refusal :=
  .next (s.runOp id .splRead fun c s =>
    let n := c.pb 20 0 5
    if n = 0 ∨ 16 < n then s.refuse c stBadParam 20
    else
      let recs := (s.recordsOf (c.p 16 1) (c.p 18 2)).take n
      let (s, items) := s.writeRecords bus c false (c.p 8 8) (recs.map fun r => (r.bytes, (⟨stDone, 0, 0⟩ : Item)))
      s.finishAs c items)

/-! ## Firmware images (R463, R464, R470, R471) -/

/-- Bytes of a firmware slot. -/
def slotBytes : Nat := 24 * 1024 * 1024

/-- The byte at offset `o` of slot `k`; erased flash reads 0xFF. -/
def State.slotByte (s : State) (k o : Nat) : Byte :=
  if s.spl.shipped.contains k then Config.shippedImage o else Store.get (fun _ => 255) s.spl.slots (k * slotBytes + o)

/-- A little-endian field of the header of slot `k`. -/
def State.slotField (s : State) (k o n : Nat) : Nat := leNat ((List.range n).map fun j => s.slotByte k (o + j))

/-- Whether slot `k` holds an image that R463 accepts; the signature and digest of the image as shipped are good (log
entry 35). -/
def State.slotOk (s : State) (k : Nat) : Bool :=
  decide (s.fld R.SPL_FW_STATUS_fuse ≤ s.slotField k 16 2) &&
  (s.spl.shipped.contains k ||
    (s.slotField k 0 4 == 0x43525648 && decide (s.slotField k 4 4 ≤ slotBytes - 512) &&
      Config.imageOk ((List.range 208).map (s.slotByte k)) (s.spl.slots.filter fun e => decide (k * slotBytes ≤ e.1) && decide (e.1 < (k + 1) * slotBytes))))

/-- The version of slot `k`, 0 where its image is not valid. -/
def State.showVersion (s : State) (k : Nat) : State := s.setFld (R.SPL_FW_VER_version k) (if s.slotOk k then s.slotField k 8 8 else 0)

/-- The slot that is not the active one. -/
def State.otherSlot (s : State) : Nat := 1 - s.fld R.SPL_FW_STATUS_active

/-- FW_WRITE (R470). -/
def execFwWrite (id : Nat) (bus : Bus) (s : State) : Host.Outcome State Fault Refusal :=
  .next (s.runOp id .fwWrite fun c s =>
    let off := c.p 16 4
    let n := c.p 20 4
    if off % 4096 ≠ 0 then s.refuse c stBadParam 16
    else if n % 4096 ≠ 0 ∨ n = 0 ∨ 1048576 < n then s.refuse c stBadParam 20
    else if slotBytes < off + n then s.refuse c stBadParam 1
    else if s.spl.trialMark ∨ s.fld R.SPL_FW_STATUS_trial = 1 ∨ s.deferFull c = true then s.refuse c stBusyRetry 0
    else
      let k := s.otherSlot
      let s := s.defer c 1
      let s := if off = 0 then
          { s with spl := { s.spl with slots := s.spl.slots.filter fun e => !(decide (k * slotBytes ≤ e.1) && decide (e.1 < (k + 1) * slotBytes)) } }
        else s
      let s := (s.setFld R.SPL_FW_STATUS_verified 0).setFld (R.SPL_FW_VER_version k) 0
      let s := { s with spl := { s.spl with shipped := s.spl.shipped.filter (· != k) } }
      match busRead bus (c.p 8 8) n with
      | none => s.itemDone id 0 ⟨stFault, 0, 0⟩
      | some d =>
        let put := fun (m : Store Byte) (e : Byte × Nat) => Store.set (fun _ => (255 : Byte)) m (k * slotBytes + off + e.2) e.1
        let s := { s with spl := { s.spl with slots := (d.zip (List.range n)).foldl put s.spl.slots } }
        s.itemDone id 0 ⟨stDone, 0, 0⟩)

/-- FW_ACTIVATE (R464, R471). -/
def execFwActivate (id : Nat) (bus : Bus) (s : State) : Host.Outcome State Fault Refusal :=
  .next (s.runOp id .fwActivate fun c s =>
    let action := c.pb 8 0 2
    if action = 0 then
      if s.slotOk s.otherSlot then
        let s := (s.setFld R.SPL_FW_STATUS_verified 1).showVersion s.otherSlot
        { s with spl := { s.spl with trialMark := true } }.finishOne c
      else s.failOne c stFault
    else if action = 1 then
      if s.fld R.SPL_FW_STATUS_trial = 0 then s.refuse c stBadParam 1
      else
        let k := s.spl.running
        let s := (s.setFld R.SPL_FW_STATUS_active k).setFld R.SPL_FW_STATUS_trial 0
        let s := if (s.slotByte k 18).toNat.testBit 0 then
            s.setFld R.SPL_FW_STATUS_fuse (max (s.fld R.SPL_FW_STATUS_fuse) (s.slotField k 16 2)) else s
        (s.record { kind := 12, key := k, body := leBytes 8 (s.slotField k 8 8) }).finishOne c
    else if action = 2 then { s with spl := { s.spl with trialMark := false } }.finishOne c
    else s.refuse c stBadParam 8)

end Sys2Proof.Machine
end

