-- ==== Sys2Proof/Machine/Dram.lean ====
section
/-! DEFINITION. Module DRAM as requests, channels and quads: queues, refresh, self-refresh, operating points, training,
map-out and windows (chapter 16). -/

namespace Sys2Proof.Machine

open Sys2Proof

/-! ## Requests (R365, R367 to R372) -/

/-- The queue of channel `k`, oldest first. -/
def State.chQueue (s : State) (k : Nat) : List DramReq := Store.get (fun _ => []) s.dmc.queues k

/-- Replaces the queue of channel `k` and shows its length (R372). -/
def State.setQueue (s : State) (k : Nat) (l : List DramReq) : State :=
  ({ s with dmc := { s.dmc with queues := Store.set (fun _ => []) s.dmc.queues k l } }).setFld (R.DMC_CH_CNT_count k 3) l.length

/-- The state of quad `j`: 0 active, 1 entering self-refresh, 2 in it, 3 changing point, 4 full training, 5 gathering. -/
def State.quadState (s : State) (j : Nat) : Nat := s.fld (R.DMC_QUAD_STATUS_state j)

def State.setQuad (s : State) (j v : Nat) : State := s.setFld (R.DMC_QUAD_STATUS_state j) v

/-- Whether new requests to channel `k` are held (R375, R377, R379, R387). -/
def State.chHeld (s : State) (k : Nat) : Bool :=
  let st := s.quadState (k / 8)
  st == 2 || st == 3 || st == 4 || s.dmc.returning == some k

/-- Whether a WINDOW_SET holds requests to an address (R384). -/
def State.spanHeld (s : State) (ma : Nat) : Bool := s.dmc.spans.any fun p => decide (p.1 ≤ ma) && decide (ma < p.1 + p.2)

/-- Counts a request that never enters a queue: unmapped, or on a channel out of service (R365, R382). -/
def State.refuseAccess (s : State) (w : DramWait) : State :=
  let s := s.countAccess w.ma w.write false
  if w.write then s else s.emit (.dramRead w.ma (List.replicate 64 0) true)

/-- Takes a request into the queue of its channel. A write changes the content here, and a read takes the content here, so
that a read returns the last write accepted before it (R370). -/
def State.acceptReq (s : State) (w : DramWait) (win k bank row : Nat) : State :=
  let s := s.count (R.DMC_CH_CNT_count k 0) 1
  let part := w.write && decide (w.data.length < 64)
  let s := if part && s.fld (R.DMC_WIN_CFG_iecc win) == 1 then s.bump (R.DMC_CH_CNT_count k 11) else s
  let base := w.ma / 64 * 64
  let s := if w.write then s.putBytes w.ma (w.data.take (base + 64 - w.ma)) else s
  let data := if w.write then [] else (List.range 64).map fun i => s.maByte (base + i)
  s.setQueue k (s.chQueue k ++ [⟨base, win, bank, row, w.write, w.urgent, data, s.ptp.f⟩])

/-- Offers a request to its channel: none where it must wait at its port. -/
def State.offer (s : State) (w : DramWait) : Option State :=
  if s.spanHeld w.ma then none
  else match s.placeOf w.ma with
    | .at_ win k bank row _ =>
      if s.chHeld k ∨ 64 ≤ (s.chQueue k).length then none else some (s.acceptReq w win k bank row)
    | _ => some (s.refuseAccess w)

/-- Waiting requests that no longer have to wait enter their queues, oldest first. -/
def State.takeWaiting (s : State) : State :=
  let r := s.dmc.waiting.foldl (fun (p : State × List DramWait) w =>
    match p.1.offer w with
    | some t => (t, p.2)
    | none => (p.1, p.2 ++ [w])) (s, [])
  { r.1 with dmc := { r.1.dmc with waiting := r.2 } }

/-- DRAM_REQUEST_ACCEPT (R370, R371, R375): a request enters its queue, waits at its port, or is in error. -/
def execDramRequestAccept (ma : Nat) (write urgent : Bool) (data : List Byte) (s : State) : Host.Outcome State Fault Refusal :=
  .next (
    let w : DramWait := ⟨ma, write, urgent, data⟩
    -- a request that arrives before the self-refresh command abandons the entry
    let s := match s.placeOf ma with
      | .at_ _ k _ _ _ =>
        if s.quadState (k / 8) = 1 then s.setQuad (k / 8) 0
        else if s.quadState (k / 8) = 2 then s.bump (R.DMC_CH_CNT_count k 12)
        else s
      | _ => s
    match s.offer w with
    | some t => t
    | none => { s with dmc := { s.dmc with waiting := s.dmc.waiting ++ [w] } })

/-- Whether a request hits the open row of its bank. -/
def State.rowHit (s : State) (k : Nat) (r : DramReq) : Bool :=
  Store.get (fun _ => none) s.dmc.openRows (16 * k + r.bank) == some r.row

/-- The request that channel `k` serves next, as its place in the queue, and whether the age cap promoted it (R370). -/
def State.chooseReq (s : State) (k : Nat) : Option (Nat × Bool) :=
  let q := s.chQueue k
  let drain := Store.get (fun _ => false) s.dmc.draining k
  match q.findIdx? fun r => decide (r.at_ + 100 * s.fld R.DMC_CFG_age_cap < s.ptp.f) with
  | some i => some (i, true)
  | none =>
    let open_ := fun (r : DramReq) => r.write || !drain
    let steps : List (DramReq → Bool) :=
      [fun r => r.urgent && s.rowHit k r, fun r => r.urgent, fun r => open_ r && s.rowHit k r, open_, fun _ => true]
    (steps.findSome? fun p => q.findIdx? p).map fun i => (i, false)

/-- Whether channel `k` drains its writes: from 24 queued writes until 8 remain. -/
def State.drainWrites (s : State) (k : Nat) : State :=
  let n := ((s.chQueue k).filter DramReq.write).length
  let was := Store.get (fun _ => false) s.dmc.draining k
  let on := if 24 ≤ n then true else if n ≤ 8 then false else was
  { s with dmc := { s.dmc with draining := Store.set (fun _ => false) s.dmc.draining k on } }

/-- An uncorrectable read of channel `k` (R369, R382). -/
def State.uncorrectable (s : State) (k : Nat) (link : Bool) : State :=
  let s := s.bump (R.DMC_CH_CNT_count k 10)
  let times := ((Store.get (fun _ => []) s.dmc.ueTimes k).filter fun t => decide (s.ptp.f < t + 1000000000)) ++ [s.ptp.f]
  let n := Store.get (fun _ => 0) s.dmc.ueSince k + 1
  let post := s.mayPost (0x0901000000 + k) 1000000
  let s := { s with dmc := { s.dmc with
    ueTimes := Store.set (fun _ => []) s.dmc.ueTimes k times
    ueSince := Store.set (fun _ => 0) s.dmc.ueSince k (if post then 0 else n) } }
  s.postLimited (0x0901000000 + k) 1000000 0x0901 k (min n 65535 + 65536 * bit link)

/-- DRAM_REQUEST_SERVE (R367 to R370). -/
def execDramRequestServe (ch linkFixed inlineFixed bad : Nat) (s : State) : Host.Outcome State Fault Refusal :=
  .next (if 32 ≤ ch then s else
    let s := s.drainWrites ch
    match s.chooseReq ch with
    | none => s
    | some (i, aged) =>
      match (s.chQueue ch)[i]? with
      | none => s
      | some r =>
        let inline := s.fld (R.DMC_WIN_CFG_iecc r.window) == 1
        let link := s.fld R.DMC_CFG_link_ecc == 1
        let s := if aged then s.bump (R.DMC_CH_CNT_count ch 5) else s
        let s := if s.rowHit ch r then s.bump (R.DMC_CH_CNT_count ch 4) else s
        let s := { s with dmc := { s.dmc with openRows := Store.set (fun _ => none) s.dmc.openRows (16 * ch + r.bank) (some r.row) } }
        let s := if link then s.bumpBy (R.DMC_CH_CNT_count ch 8) linkFixed else s
        let s := if inline && !r.write then s.bumpBy (R.DMC_CH_CNT_count ch 9) inlineFixed else s
        let lost := (bad == 1 && inline && !r.write) || (bad == 2 && link)
        let s := (s.setQueue ch ((s.chQueue ch).eraseIdx i)).count (R.DMC_CH_CNT_count ch (if r.write then 2 else 1)) 1
        let s := if r.write then (if lost then s.bump (R.DMC_CH_CNT_count ch 10) else s)
          else (if lost then s.uncorrectable ch (bad == 2) else s).emit (.dramRead r.ma r.data lost)
        s.takeWaiting)

/-! ## Refresh and self-refresh (R373 to R375) -/

/-- The refreshes owed to bank `b` of channel `k`; negative where pulled in. -/
def State.owedOf (s : State) (k b : Nat) : Int := Store.get (fun _ => 0) s.dmc.owed (16 * k + b)

def State.setOwed (s : State) (k b : Nat) (v : Int) : State :=
  { s with dmc := { s.dmc with owed := Store.set (fun _ => 0) s.dmc.owed (16 * k + b) v } }

/-- REFRESH_DUE (R373): the next bank in round robin; postponed while requests to it are queued, forced at 8, pulled in
while the channel is idle. -/
def execRefreshDue (ch : Nat) (s : State) : Host.Outcome State Fault Refusal :=
  .next (if 32 ≤ ch ∨ s.quadState (ch / 8) = 2 ∨ (s.fld R.DMC_CH_OK_ok).testBit ch = false then s else
    let b := Store.get (fun _ => 0) s.dmc.nextBank ch
    let s := { s with dmc := { s.dmc with nextBank := Store.set (fun _ => 0) s.dmc.nextBank ch ((b + 1) % 16) } }
    let o := s.owedOf ch b + 1
    if (s.chQueue ch).isEmpty then (s.bumpBy (R.DMC_CH_CNT_count ch 6) (o + 8).toNat).setOwed ch b (-8)
    else if (s.chQueue ch).any fun r => r.bank == b then
      if o < 8 then s.setOwed ch b o
      else ((s.bump (R.DMC_CH_CNT_count ch 6)).bump (R.DMC_CH_CNT_count ch 7)).setOwed ch b (o - 1)
    else if 0 < o then (s.bumpBy (R.DMC_CH_CNT_count ch 6) o.toNat).setOwed ch b 0
    else s.setOwed ch b o)

/-- MR4_POLL (R373): the refresh rate that a device reports; it sets the interval at which refreshes fall due. -/
def execMr4Poll (ch rate : Nat) (s : State) : Host.Outcome State Fault Refusal :=
  .next (if 32 ≤ ch ∨ s.quadState (ch / 8) = 2 then s
    else { s with dmc := { s.dmc with mr4 := Store.set (fun _ => 0) s.dmc.mr4 ch rate } })

/-- The channels of quad `j`. -/
def quadChannels (j : Nat) : List Nat := (List.range 8).map fun i => 8 * j + i

/-- Every postponed refresh of quad `j` is issued (R374). -/
def State.payRefreshes (s : State) (j : Nat) : State :=
  (quadChannels j).foldl (fun s k => (List.range 16).foldl (fun t b =>
    (t.bumpBy (R.DMC_CH_CNT_count k 6) (t.owedOf k b).toNat).setOwed k b 0) s) s

/-- Whether no request of quad `j` is queued. -/
def State.quadIdle (s : State) (j : Nat) : Bool := (quadChannels j).all fun k => (s.chQueue k).isEmpty

/-- Whether a request that waits at its port maps to quad `j`. -/
def State.quadWanted (s : State) (j : Nat) : Bool :=
  s.dmc.waiting.any fun w => match s.placeOf w.ma with
    | .at_ _ k _ _ _ => k / 8 == j
    | _ => false

/-- The clock of quad `j` runs at half the data rate of its point, or stands (R417). -/
def State.setQuadClock (s : State) (j : Nat) (on : Bool) : State :=
  (s.setFld (R.PWC_CLK_mhz (14 + j)) (if on then s.fld (R.DMC_OP_rate (s.fld (R.DMC_QUAD_STATUS_point j))) / 2 else 0)).setFld
    (R.PWC_CLK_running (14 + j)) (bit on)

/-- The self-refresh command of quad `j`; its domain enters D2 (R418). -/
def State.sleepQuad (s : State) (j : Nat) : State :=
  (((s.payRefreshes j).setQuad j 2).setDomain (15 + j) 2).setQuadClock j false

/-- SELF_REFRESH_ENTRY (R374, R375): the entry begins, then its command is issued. -/
def execSelfRefreshEntry (quad : Nat) (s : State) : Host.Outcome State Fault Refusal :=
  .next (if 4 ≤ quad ∨ s.quadIdle quad = false then s
    else if s.quadState quad = 0 then s.setQuad quad 1
    else if s.quadState quad = 1 then s.sleepQuad quad
    else s)

/-- The package sensors of quad `j` are converted at once after its exit (R431). -/
def State.samplePackages (s : State) (j : Nat) : State :=
  { s with pwc := { s.pwc with sensors := [88 + 2 * j, 89 + 2 * j].foldl (fun m n => Store.modify (fun _ => {}) m n fun x => { x with next := 0 }) s.pwc.sensors } }

/-- Quad `j` is out of self-refresh. -/
def State.wakeQuad (s : State) (j : Nat) : State := (((s.setQuad j 0).setDomain (15 + j) 0).setQuadClock j true).samplePackages j

/-- SELF_REFRESH_EXIT (R375): the exit that a waiting request began is complete. -/
def execSelfRefreshExit (quad : Nat) (s : State) : Host.Outcome State Fault Refusal :=
  .next (if s.quadState quad = 2 ∧ s.quadWanted quad = true then (s.wakeQuad quad).takeWaiting else s)

/-! ## Operating points (R376 to R378, R380, R385, R423) -/

/-- The fastest DRAM point that a throttle level allows. -/
def pointCeiling (level : Nat) : Nat := [0, 0, 0, 1, 1, 2, 2, 3].getD level 3

/-- The ceiling of quad `j` now. -/
def State.quadCeiling (s : State) (j : Nat) : Nat := pointCeiling (s.levelOf [11 + j, 15])

def State.changeOf (s : State) (j : Nat) : Option OpChange := Store.get (fun _ => none) s.dmc.changes j

def State.setChange (s : State) (j : Nat) (c : Option OpChange) : State :=
  { s with dmc := { s.dmc with changes := Store.set (fun _ => none) s.dmc.changes j c } }

/-- A thermal-forced change stops the measuring or training that runs on quad `j` (R380, R386). -/
def State.stopTraining (s : State) (j : Nat) : State :=
  let st := s.quadState j
  if st = 4 ∨ st = 5 then
    let p := s.fld (R.DMC_QUAD_STATUS_point j)
    let s := s.setFld (R.DMC_QUAD_STATUS_stale j) (maskPut (s.fld (R.DMC_QUAD_STATUS_stale j)) p true)
    let s := (s.post 0x0904 j p).setQuad j 0
    let ws := Store.get (fun _ => []) s.dmc.gathers j
    let ts := (s.dmc.trains.filter fun t => t.quad == j).map fun t => (t.cmd, t.item)
    let s := { s with dmc := { s.dmc with
      gathers := Store.set (fun _ => []) s.dmc.gathers j []
      trains := s.dmc.trains.filter fun t => t.quad != j } }
    s.endItems (ws ++ ts) ⟨stThermal, 0, 0⟩
  else s

/-- A change of quad `j` to point `p` is asked for; it replaces the pending target (R378). -/
def State.askPoint (s : State) (j p : Nat) (thermal : Bool) (w : Option (Nat × Nat)) : State :=
  let old := ((s.changeOf j).bind OpChange.waiter).toList
  let s := s.endItems old ⟨if thermal then stThermal else stSoftware, 0, 0⟩
  if s.quadState j ≠ 3 ∧ p = s.fld (R.DMC_QUAD_STATUS_point j) then
    (s.setChange j none).endItems w.toList ⟨stDone, 0, 0⟩
  else
    let s := s.setChange j (some ⟨p, thermal, w⟩)
    if thermal then s.stopTraining j else s

/-- The ceiling of quad `j` may have changed: a fall past its point is a thermal-forced change (R424). -/
def State.retimeQuad (s : State) (j : Nat) : State :=
  let c := s.quadCeiling j
  let s := s.setFld (R.PWC_CLK_level (14 + j)) (s.levelOf [11 + j, 15])
  let goal := ((s.changeOf j).map OpChange.point).getD (s.fld (R.DMC_QUAD_STATUS_point j))
  if goal < c then s.askPoint j c true none else s

/-- OP_POINT_CHANGE (R377, R380): a change starts and holds new requests; once the queues are empty it ends at its point. -/
def execOpPointChange (quad : Nat) (s : State) : Host.Outcome State Fault Refusal :=
  .next (match s.changeOf quad with
    | none => s
    | some c =>
      let st := s.quadState quad
      if st = 0 ∨ st = 1 ∨ st = 2 then s.setQuad quad 3
      else if st ≠ 3 ∨ s.quadIdle quad = false then s
      else
        let s := (s.payRefreshes quad).setChange quad none
        let same := c.point == s.fld (R.DMC_QUAD_STATUS_point quad)
        let s := if same then s else
          (s.setFld (R.DMC_QUAD_STATUS_fsp quad) (1 - s.fld (R.DMC_QUAD_STATUS_fsp quad))).setFld (R.DMC_QUAD_STATUS_point quad) c.point
        let s := s.wakeQuad quad
        let s := if same then s else s.post 0x0903 quad (c.point + 4 * bit c.thermal)
        s.takeWaiting.endItems c.waiter.toList ⟨stDone, 0, 0⟩)

/-- DRAM_OP_SET (R378, R385, R423): a point past the ceiling is served as the ceiling's point, and its item fails. -/
def execDramOpSet (id : Nat) (_bus : Bus) (s : State) : Host.Outcome State Fault Refusal :=
  .next (s.runOp id .dramOpSet fun c s =>
    let quads := setBits 4 (c.pb 8 0 4)
    let p := c.pb 9 0 2
    if quads = [] then s.refuse c stBadParam 1
    else if s.deferFull c then s.refuse c stBusyRetry 0
    else
      let s := s.defer c quads.length
      (quads.zip (List.range quads.length)).foldl (fun t (q : Nat × Nat) =>
        let lim := t.quadCeiling q.1
        if p < lim then (t.itemDone id q.2 ⟨stThermal, 0, 0⟩).askPoint q.1 lim false none
        else t.askPoint q.1 p false (some (id, q.2))) s)

/-! ## Channels out of service (R382, R387) -/

/-- Shows the channels in service, their capacity, and the windows with a hole. -/
def State.showChannels (s : State) (ok : Nat) : State :=
  let n := popCount 32 ok
  let s := ((s.setFld R.DMC_CH_OK_ok ok).setFld R.DMC_CAP_channels n).setFld R.DMC_CAP_gib (2 * n)
  (List.range 8).foldl (fun t w =>
    let c0 := t.fld (R.DMC_WIN_CFG_c0 w)
    let full := (List.range (2 ^ t.fld (R.DMC_WIN_CFG_e w))).all fun i => ok.testBit (c0 + i)
    t.setFld (R.DMC_WIN_CFG_holed w) (bit (t.fld (R.DMC_WIN_CFG_enable w) == 1 && !full))) s

/-- The queued requests of channel `k` complete in error (R382). -/
def State.failQueue (s : State) (k : Nat) : State :=
  let q := s.chQueue k
  (q.foldl (fun t r =>
    let t := t.count (R.DMC_CH_CNT_count k (if r.write then 2 else 1)) 1
    if r.write then t else t.emit (.dramRead r.ma (List.replicate 64 0) true)) s).setQueue k []

/-- Channel `k` leaves service (R382). -/
def State.mapOut (s : State) (k cause : Nat) : State :=
  let s := s.failQueue k
  let ok := s.fld R.DMC_CH_OK_ok
  let s := s.showChannels (maskPut ok k false)
  let s := s.record { kind := 8, key := k, body := [1] }
  (s.post 0x0900 k (cause + 256 * popCount 32 (maskPut ok k false))).takeWaiting

/-- CHANNEL_MAP_OUT (R382). -/
def execChannelMapOut (ch cause : Nat) (s : State) : Host.Outcome State Fault Refusal :=
  .next (
    let many := decide (s.fld R.DMC_CFG_ue_limit <
      ((Store.get (fun _ => []) s.dmc.ueTimes ch).filter fun t => decide (s.ptp.f < t + 1000000000)).length)
    if 32 ≤ ch ∨ (s.fld R.DMC_CH_OK_ok).testBit ch = false then s
    else if cause = 1 ∨ (cause = 2 ∧ many = true) then s.mapOut ch cause
    else s)

/-- Every byte of channel `k` is zero. -/
def State.zeroChannel (s : State) (k : Nat) : State :=
  { s with dram := s.dram.filter fun e => e.1 / (16 * 65536 * 2048) != k }

/-- CHANNEL_SERVICE (R387): a removal, or a training and then the return. -/
def execChannelService (id : Nat) (bus : Bus) (trained : Bool) (s : State) : Host.Outcome State Fault Refusal :=
  .next (s.runOpAgain id .channelService fun c s =>
    let k := c.pb 8 0 5
    let ok := s.fld R.DMC_CH_OK_ok
    if c.flag 9 0 = false then
      if ok = 2 ^ k then s.refuse c stLimit 0
      else (if ok.testBit k then s.mapOut k 3 else s).finishOne c
    else if c.phase = .started then
      { s.hold c with dmc := { s.dmc with returning := some k } }
    else if (s.chQueue k).isEmpty = false then s
    else
      let s := { s with dmc := { s.dmc with returning := none } }
      if trained then
        let s := ((s.zeroChannel k).showChannels (ok ||| 2 ^ k)).record { kind := 8, key := k, body := [0] }
        s.takeWaiting.finishOne c
      else s.takeWaiting.failOne c stFault)

/-! ## Training (R379 to R381, R386) -/

/-- The figures of channel `k` in service: width and height of the read and write eye, and the residual (CAL_DRAM_FIG). -/
def State.setFigures (s : State) (k figures : Nat) : State :=
  if (s.fld R.DMC_CH_OK_ok).testBit k then
    { s.setReg (R.CAL_DRAM_FIG k) (BitVec.ofNat 64 (figures % 2 ^ 48 + 2 ^ 60)) with
      dmc := { s.dmc with figAt := Store.set (fun _ => 0) s.dmc.figAt k (s.ptp.f + 1) } }
  else s

/-- GATHERING_STEP (R379, R380): a step of quad `quad` starts, or ends with the trims named and the figures of its eight channels. -/
def execGatheringStep (quad : Nat) (trims : List Byte) (figures : List Nat) (s : State) : Host.Outcome State Fault Refusal :=
  .next (if 4 ≤ quad then s else
    let st := s.quadState quad
    let p := s.fld (R.DMC_QUAD_STATUS_point quad)
    let ws := Store.get (fun _ => []) s.dmc.gathers quad
    if st = 0 ∧ s.changeOf quad = none then s.setQuad quad 5
    else if st = 2 ∧ s.changeOf quad = none ∧ ws ≠ [] then (s.wakeQuad quad).setQuad quad 5
    else if st = 5 then
      let s := (List.range 8).foldl (fun t i => t.setFigures (8 * quad + i) (figures.getD i 0)) (s.setQuad quad 0)
      let s := { s with dmc := { s.dmc with gathers := Store.set (fun _ => []) s.dmc.gathers quad [] } }
      let s := if (s.fld (R.DMC_QUAD_STATUS_stale quad)).testBit p then
          s.record { kind := 3, key := 4 * quad + p, body := trims }
        else s.calibrateDram (4 * quad + p) trims
      s.endItems ws ⟨stDone, 0, 0⟩
    else s)

/-- The next item of full training that may go on: it starts, or ends with the channels `fails` failed (R386). -/
def State.trainNext (s : State) (id : Nat) (fails : List Nat) (trims : List Byte) : State :=
  match s.dmc.trains.find? fun t => t.cmd == id with
  | none => s
  | some t =>
    let j := t.quad
    let st := s.quadState j
    if st = 4 then
      if s.quadIdle j = false then s
      else
        let bad := fails.filter fun k => k / 8 == j
        let s := { s with dmc := { s.dmc with trains := s.dmc.trains.filter (· != t) } }
        let s := s.record { kind := 3, key := 4 * j + t.point, body := trims }
        let s := bad.foldl (fun u k => if (u.fld R.DMC_CH_OK_ok).testBit k then u.mapOut k 1 else u) s
        let s := if s.dmc.trains.any fun u => u.quad == j then s else (s.wakeQuad j).takeWaiting
        s.itemDone t.cmd t.item ⟨if bad = [] then stDone else stFault, 0, 0⟩
    else if (st = 0 ∨ st = 2) ∧ s.changeOf j = none then (s.wakeQuad j).setQuad j 4
    else s

/-- DRAM_TRAIN (R386). -/
def execDramTrain (id : Nat) (_bus : Bus) (fails : List Nat) (trims : List Byte) (s : State) : Host.Outcome State Fault Refusal :=
  .next (if s.dmc.trains.any fun t => t.cmd == id then s.trainNext id fails trims
    else s.runOp id .dramTrain fun c s =>
      let pairs := (setBits 4 (c.pb 8 0 4)).flatMap fun j => (setBits 4 (c.pb 9 0 4)).map fun k => (j, k)
      if pairs = [] then s.finishAs c []
      else if s.deferFull c then s.refuse c stBusyRetry 0
      else
        let s := s.defer c pairs.length
        let numbered := pairs.zip (List.range pairs.length)
        if c.flag 10 0 then
          let ts := numbered.map fun p => (⟨id, p.2, p.1.1, p.1.2⟩ : TrainItem)
          ({ s with dmc := { s.dmc with trains := s.dmc.trains ++ ts } }).trainNext id [] []
        else
          numbered.foldl (fun t p =>
            if p.1.2 = t.fld (R.DMC_QUAD_STATUS_point p.1.1) then
              { t with dmc := { t.dmc with gathers := Store.modify (fun _ => []) t.dmc.gathers p.1.1 (· ++ [(id, p.2)]) } }
            else t.itemDone id p.2 ⟨stBadParam, 2, 0⟩) s)

/-! ## Windows (R363, R384) -/

/-- Whether two ranges meet. -/
def rangesMeet (a n b m : Nat) : Bool := decide (a < b + m) && decide (b < a + n)

/-- The reason for which a new definition of window `w` is refused (R384); 0 is none. -/
def State.windowFault (s : State) (w : Nat) (ecc : Bool) (e c0 base row0 rows512 : Nat) : Nat :=
  let rows := rows512 * 512
  let size := 2 ^ e * rows * 32768 / (if ecc then 8 else 1) * (if ecc then 7 else 1) / 0x1000000
  if 5 < e ∨ c0 % 2 ^ e ≠ 0 ∨ 32 < c0 + 2 ^ e ∨ row0 % 512 ≠ 0 ∨ rows512 = 0 ∨ 65536 < row0 + rows ∨
      (ecc = true ∧ rows % 4096 ≠ 0) ∨ 4096 < base + size then 1
  else if (List.range 8).any fun v =>
      v != w && s.fld (R.DMC_WIN_CFG_enable v) == 1 &&
      (rangesMeet base size (s.fld (R.DMC_WIN_BASE_base v)) (s.fld (R.DMC_WIN_BASE_size v)) ||
        (rangesMeet c0 (2 ^ e) (s.fld (R.DMC_WIN_CFG_c0 v)) (2 ^ s.fld (R.DMC_WIN_CFG_e v)) &&
          rangesMeet row0 rows (s.fld (R.DMC_WIN_ROWS_row0 v)) (512 * s.fld (R.DMC_WIN_ROWS_rows512 v)))) then 2
  else if (List.range (2 ^ e)).any fun i => !(s.fld R.DMC_CH_OK_ok).testBit (c0 + i) then 3
  else 0

/-- The span of window `w` as it is defined. -/
def State.windowSpan (s : State) (w : Nat) : Nat × Nat :=
  if s.fld (R.DMC_WIN_CFG_enable w) = 1 then
    (s.fld (R.DMC_WIN_BASE_base w) * 0x1000000, s.fld (R.DMC_WIN_BASE_size w) * 0x1000000)
  else (0, 0)

/-- WINDOW_SET (R384): held until the queued requests of the old and new spans complete. -/
def execWindowSet (id : Nat) (bus : Bus) (s : State) : Host.Outcome State Fault Refusal :=
  .next (s.runOpAgain id .windowSet fun c s =>
    let w := c.pb 8 0 3
    let on := c.flag 9 0
    let ecc := c.flag 9 3
    let e := c.pb 10 0 3
    let c0 := c.pb 11 0 5
    let base := c.pb 12 0 12
    let row0 := c.p 14 2
    let rows := c.p 16 1
    let why := if on then s.windowFault w ecc e c0 base row0 rows else 0
    if why ≠ 0 then ({ s with dmc := { s.dmc with spans := [] } }).takeWaiting.refuse c stBadParam why
    else
      let size := 2 ^ e * (rows * 512) * 32768 / (if ecc then 8 else 1) * (if ecc then 7 else 1) / 0x1000000
      let spans := [s.windowSpan w, if on then (base * 0x1000000, size * 0x1000000) else (0, 0)]
      let s := { s with dmc := { s.dmc with spans := spans } }
      if (List.range 32).any fun k => (s.chQueue k).any fun r => s.spanHeld r.ma then s.hold c
      else
        let s := s.setFld (R.DMC_WIN_CFG_enable w) (bit on)
        let s := if on then
            let s := ((s.setFld (R.DMC_WIN_CFG_order w) (c.pb 9 1 2)).setFld (R.DMC_WIN_CFG_iecc w) (bit ecc)).setFld (R.DMC_WIN_CFG_e w) e
            let s := ((s.setFld (R.DMC_WIN_CFG_c0 w) c0).setFld (R.DMC_WIN_CFG_holed w) 0).setFld (R.DMC_WIN_BASE_base w) base
            ((s.setFld (R.DMC_WIN_BASE_size w) size).setFld (R.DMC_WIN_ROWS_row0 w) row0).setFld (R.DMC_WIN_ROWS_rows512 w) rows
          else s
        ({ s with dmc := { s.dmc with spans := [] } }).takeWaiting.finishOne c)

end Sys2Proof.Machine
end

