-- ==== Sys2Proof/Machine/Time.lean ====
section
/-! DEFINITION. Network time, triggers and capture inputs (R324, R345 to R354). -/

namespace Sys2Proof.Machine

open Sys2Proof

/-! ## Triggers (R350 to R353) -/

/-- Trigger `t` beside its registers. The registers hold the staged values, their active copies the applied ones (R351). -/
def State.trig (s : State) (t : Nat) : Trig := Store.get (fun _ => {}) s.tim.trigs t

def State.setTrig (s : State) (t : Nat) (x : Trig) : State :=
  { s with tim := { s.tim with trigs := Store.set (fun _ => {}) s.tim.trigs t x } }

/-- The pin of trigger `t` takes a level. -/
def State.drive (s : State) (t : Nat) (level : Bool) : State := (s.setTrig t { s.trig t with level := level }).emit (.pin t level)

/-- What the pin does at a fire: a pulse, or a change of level (R350). -/
def State.firePin (s : State) (t : Nat) : State :=
  if s.actFld (R.TRIG_CFG_pin t) = 0 then s
  else if s.actFld (R.TRIG_CFG_toggle t) = 1 then s.drive t (!(s.trig t).level)
  else (s.drive t true).drive t false

/-- The groups that a fire at `at_` arms; the others it names are counted (R350). -/
def State.fireClamps (s : State) (t at_ : Nat) : State :=
  (setBits 16 (s.actFld (R.TRIG_ACT_groups t))).foldl (fun s' g =>
    if s'.fld (R.CLP_GROUP_CFG_source g) = 0 ∧ (Store.get (fun _ => none) s'.clp.arms g).isNone then
      { s'.setFld (R.CLP_GROUP_STATUS_armed g) 1 with
        clp := { s'.clp with arms := Store.set (fun _ => none) s'.clp.arms g (some (at_, none)) } }
    else s'.bump (R.TRIG_STATUS_skipped t)) s

/-- Trigger `t` fires at PTP time `at_` (R350, R351). -/
def State.fire (s : State) (b : Bus) (t at_ : Nat) : State :=
  let s := s.firePin t
  let s := if s.actFld (R.TRIG_ACT_snap t) = 1 then s.snapshot at_ else s
  let s := (setBits 8 (s.actFld (R.TRIG_ACT_eth_start t))).foldl (fun s' p =>
    match (s'.ep p).gates.waiting with
    | some l => if l.anchor = 1 then s'.startEthList b p at_ else s'
    | none => s') s
  let s := (s.fireClamps t at_).bump (R.TRIG_STATUS_fires t)
  let period := s.actFld (R.TRIG_PERIOD_ns t)
  if period = 0 then s.setFld (R.TRIG_STATUS_armed t) 0 else s.setTrig t { s.trig t with next := at_ + period }

/-- The next fire time of a period from `start` that lies in the future, and the number of periods before it (R353). -/
def State.nextFire (s : State) (start period : Nat) : Nat × Nat :=
  if s.now < start then (start, 0) else let n := (s.now - start) / period + 1; (start + n * period, n)

/-- Whether trigger `t` belongs to frame sync (R352). -/
def State.isFsync (s : State) (t : Nat) : Bool := decide (t < 4) && s.walled

/-- TRIGGER_ARM_WRITE (R351 to R353): a write of TRIG_CFG[t]. -/
def State.armTrigger (s : State) (b : Bus) (t data : Nat) : State :=
  let s := s.setReg (R.TRIG_CFG t) (BitVec.ofNat 64 (bitsOf data 0 4 + bitsOf data 16 16 * 65536))
  if data.testBit 0 then
    let s := [R.TRIG_CFG t, R.TRIG_ACT t, R.TRIG_START t, R.TRIG_PERIOD t].foldl State.applyShd s
    let s := s.setFld (R.TRIG_STATUS_armed t) 1
    let start := s.actFld (R.TRIG_START_ns t)
    let period := s.actFld (R.TRIG_PERIOD_ns t)
    if s.now ≤ start then s.setTrig t { s.trig t with next := start }
    else if period = 0 then (s.fire b t s.now).post 0x0806 t 0
    else
      let (next, n) := s.nextFire start period
      (s.setTrig t { s.trig t with next := next }).post 0x0806 t (min n 0xFFFFFFFF)
  else
    let s := s.applyShd (R.TRIG_CFG t)
    (s.setFld (R.TRIG_STATUS_armed t) 0).drive t (s.actFld (R.TRIG_CFG_idle t) == 1)

def execTriggerArmWrite (client t data : Nat) (bus : Bus) (s : State) : Host.Outcome State Fault Refusal :=
  .next ((s.bar0 client).pf0Write client fun s => if 8 ≤ t then s.drop client else if s.isFsync t then s else s.armTrigger bus t data)

/-- TRIGGER_FIRE (R324, R350): the fire time of trigger `t` has come; in a wall triggers 0 to 3 give FSYNC. -/
def execTriggerFire (t : Nat) (bus : Bus) (s : State) : Host.Outcome State Fault Refusal :=
  .next (if 8 ≤ t then s
    else if s.isFsync t then (if t < s.segCount then (s.drive t true).drive t false else s)
    else if s.fld (R.TRIG_STATUS_armed t) = 0 then s
    else s.fire bus t (s.trig t).next)

/-! ## The clock (R346 to R348) -/

/-- The offset O in ns. -/
def State.offset (s : State) : Int := ((s.ptp.oSec * 1000000000 + s.ptp.oNs : Nat) : Int)

/-- Sets the offset O; its seconds are taken modulo 2^48. -/
def State.setOffset (s : State) (o : Int) : State :=
  let v := toField 128 o
  let s := { s with ptp := { s.ptp with oSec := v / 1000000000 % 2 ^ 48, oNs := v % 1000000000 } }
  (s.setFld R.PTP_OFS_ns s.ptp.oNs |>.setFld R.PTP_OFS_sec s.ptp.oSec).setFld R.PTP_OFS_XSEC_sec (s.ptp.oSec / 2 ^ 32)

/-- A list's gates stay as they are until its first cycle boundary after the new time (R348). -/
def Gates.restart (g : Gates) (before now : Nat) : Gates :=
  match g.active with
  | some l =>
    if l.anchor = 0 ∧ l.cycle ≠ 0 then
      let m := match g.ahead l before with
        | e :: _ => e.1
        | [] => 0
      { g with held := some m, start := if now < l.base then l.base else l.base + ((now - l.base) / l.cycle + 1) * l.cycle }
    else g
  | none => g

/-- PTP time has jumped from `before` (R348): triggers, gate lists and meters are looked at again. -/
def State.stepped (s : State) (b : Bus) (before : State) : State :=
  let d := s.ptpTotal - before.ptpTotal
  let s := (s.post 0x0805 0 (toField 32 (clampInt (-2147483648) 2147483647 d))).abandonWindows
  let s := (List.range 16).foldl (fun s' q => s'.setGates q ((s'.gates q).restart before.now s.now)) s
  let s := (List.range 8).foldl (fun s' p =>
    let x := s'.ep p
    (s'.setEp p { x with gates := x.gates.restart before.now s.now }).showEthList p) s
  (List.range 8).foldl (fun s' t =>
    if s'.isFsync t || s'.fld (R.TRIG_STATUS_armed t) == 0 || decide (s'.now ≤ (s'.trig t).next) then s'
    else
      let start := s'.actFld (R.TRIG_START_ns t)
      let period := s'.actFld (R.TRIG_PERIOD_ns t)
      let s' := s'.fire b t s'.now
      if period = 0 then s' else s'.setTrig t { s'.trig t with next := (s'.nextFire start period).1 }) s

/-- Load O (R347). -/
def State.loadO (s : State) (bus : Bus) : State :=
  let carry := if s.ptp.stNs < 1000000000 then 0 else 1
  let o := (s.ptp.stSec + carry) % 2 ^ 48 * 1000000000 + (s.ptp.stNs - carry * 1000000000)
  ((s.setOffset (o : Nat)).bump R.PTP_CNT_steps).stepped bus s

/-- PTP_LOAD_O (R347). -/
def execPtpLoadO (client : Nat) (bus : Bus) (s : State) : Host.Outcome State Fault Refusal :=
  .next ((s.bar0 client).pf0Write client fun s => s.loadO bus)

/-- Step (R347). -/
def State.stepTime (s : State) (bus : Bus) : State :=
  let v := sext 64 (s.fld R.PTP_STEP_ns)
  if s.ptpTotal + v < 0 ∨ s.offset + v < 0 then s.bump R.PTP_CNT_ignored
  else ((s.setOffset (s.offset + v)).bump R.PTP_CNT_steps).stepped bus s

/-- PTP_STEP (R347). -/
def execPtpStep (client : Nat) (bus : Bus) (s : State) : Host.Outcome State Fault Refusal :=
  .next ((s.bar0 client).pf0Write client fun s => s.stepTime bus)

/-- Load ρ (R347). -/
def State.loadRho (s : State) : State :=
  let s := s.setOffset (s.offset + s.ptpCorr)
  let s := { s with ptp := { s.ptp with a := s.ptp.f, rho := s.ptp.stRho } }
  (s.setFld R.PTP_ANCHOR_a s.ptp.a).setFld R.PTP_RATE_rho (toField 40 s.ptp.rho)

/-- PTP_LOAD_RHO (R347). -/
def execPtpLoadRho (client : Nat) (s : State) : Host.Outcome State Fault Refusal :=
  .next ((s.bar0 client).pf0Write client State.loadRho)

/-- PTP_NOW: nanoseconds and the low seconds of PTP time. -/
def State.nowWord (s : State) : Nat :=
  let t := toField 128 s.ptpTotal
  t % 1000000000 + (t / 1000000000) % 2 ^ 32 * 2 ^ 32

/-- A read of PTP_NOW latches the high seconds (R346). -/
def State.latchXsec (s : State) : State :=
  let x := toField 128 s.ptpTotal / 1000000000 / 2 ^ 32 % 2 ^ 16
  { s.setFld R.PTP_NOW_XSEC_sec x with ptp := { s.ptp with xsec := x } }

/-- PTP_NOW_READ (R346). -/
def execPtpNowRead (client : Nat) (s : State) : Host.Outcome State Fault Refusal :=
  .next ((s.bar0 client).pf0Read client R.PTP_NOW (leBytes 8 s.nowWord) State.latchXsec)

/-! ## Capture inputs (R354) -/

def State.capIn (s : State) (c : Nat) : CapIn := Store.get (fun _ => {}) s.tim.caps c

/-- Sets capture input `c` and shows its FIFO. -/
def State.setCap (s : State) (c : Nat) (x : CapIn) : State :=
  let s := { s with tim := { s.tim with caps := Store.set (fun _ => {}) s.tim.caps c x } }
  let s := s.setFld (R.CAP_STATUS_entries c) x.fifo.length
  match x.fifo with
  | [] => (s.setFld (R.CAP_STATUS_edge c) 0).setFld (R.CAP_TIME_time c) 0
  | (t, up) :: _ => (s.setFld (R.CAP_STATUS_edge c) (bit up)).setFld (R.CAP_TIME_time c) t

/-- CAPTURE_EDGE (R354). -/
def execCaptureEdge (c : Nat) (rising : Bool) (s : State) : Host.Outcome State Fault Refusal :=
  let x := s.capIn c
  .next (if 4 ≤ c ∨ s.fld (R.CAP_CFG_enable c) = 0 ∨ s.fld (if rising then R.CAP_CFG_rising c else R.CAP_CFG_falling c) = 0 then s
    else if (match x.last with
      | some f => decide (s.ptp.f ≤ f + 8)
      | none => false) then s.bump (R.CAP_STATUS_glitches c)
    else if 16 ≤ x.fifo.length then
      let n := x.dropped + 1
      let post := s.mayPost (0x0807000000 + c) 1000000
      ((s.bump (R.CAP_STATUS_overflows c)).postLimited (0x0807000000 + c) 1000000 0x0807 c n).setCap c { x with dropped := if post then 0 else n }
    else s.setCap c { x with fifo := x.fifo ++ [(s.now, rising)], last := some s.ptp.f })

/-- A read of CAP_TIME removes the oldest entry (R354). -/
def State.takeEdge (s : State) (c : Nat) : State := s.setCap c { s.capIn c with fifo := (s.capIn c).fifo.drop 1 }

/-- CAP_TIME_READ (R354). -/
def execCapTimeRead (client c : Nat) (s : State) : Host.Outcome State Fault Refusal :=
  .next (if 4 ≤ c then s.bar0 client
    else (s.bar0 client).pf0Read client (R.CAP_TIME c) (leBytes 8 (s.fld (R.CAP_TIME_time c))) fun s => s.takeEdge c)

end Sys2Proof.Machine
end

