-- ==== Sys2Proof/Machine/Jobs.lean ====
section
/-! DEFINITION. The end of a compression job on any unit (R335, R388 to R403, R486). -/

namespace Sys2Proof.Machine

open Sys2Proof

/-- A scarf payload has been inflated under its cap: it goes on as a received packet, or counts as a payload CRC failure
(R335). A raw stream carries no check value. -/
def State.endScarfInflate (s : State) (u p : Nat) (j : CmpJob) : State :=
  let e := inflateWhole j.data 9000 0
  let status := if e.status = 4 then 0 else e.status
  let s := (s.countOutcome u j status e.reason).freeUnit u e.consumed (min e.out.length j.dst)
  if status = 0 then (s.trsArrive 8 e.out false).1 else s.countWvl p 3 1

/-- A scarf payload has been compressed with static tables; the smaller form is sent (R335). -/
def State.endScarfDeflate (s : State) (u p id : Nat) (j : CmpJob) : State :=
  let out := Config.deflate [1, 0, 0, 1] [] j.data
  let fits := decide (out.length ≤ j.dst)
  let s := (s.countOutcome u j (if fits then 0 else 2) 0).freeUnit u j.src (min out.length j.dst)
  s.relayForm p id (if fits then some out else none)

/-- The drain's deflate unit has done its work (R486). -/
def State.endCapture (s : State) (b : Bus) (u : Nat) (j : CmpJob) : State :=
  let (s, consumed, produced) := s.endDrain b (j.who.headD 0)
  (s.countOutcome u j 0 0).freeUnit u consumed produced

/-- COMPRESSION_JOB_END (R399, R401): the job of unit `u` ends. A Trastos unit's job ends with UNIT_INFLATED. -/
def execCompressionJobEnd (u : Nat) (bus : Bus) (s : State) : Host.Outcome State Fault Refusal :=
  .next (match s.unitJob u with
    | none => s
    | some j =>
      if j.cls = 3 then s.endSoftware bus u j
      else if j.dir = 0 then (if j.cls = 2 then s.endScarfInflate u (j.who.getD 1 0) j else s)
      else if j.cls = 1 then s.endScarfDeflate u (j.who.getD 0 0) (j.who.getD 1 0) j
      else s.endCapture bus u j)

end Sys2Proof.Machine
end

