-- ==== Sys2Proof/Machine/Heat.lean ====
section
/-! DEFINITION. Throttle levels, temperature sensors, thermal zones and the cut at SHUT (R423, R424, R430 to R440, R442, R443). -/

namespace Sys2Proof.Machine

open Sys2Proof

/-! ## Throttled clocks (R423, R424) -/

/-- A level may have changed: every throttled part that runs takes its clock or its ceiling. -/
def State.retimeAll (s : State) : State :=
  let s := (List.range 8).foldl State.retimeBent s
  let s := (List.range 2).foldl (fun t d => if t.fld (R.PWC_DOMAIN_depth (13 + d)) = 0 then t.setNoc d 0 else t) s
  let s := if s.fld (R.PWC_DOMAIN_depth 24) = 0 then s.setPart 24 26 0 else s
  let s := if s.fld (R.PWC_DOMAIN_depth 25) = 0 then s.setPart 25 27 0 else s
  (List.range 4).foldl State.retimeQuad s

/-! ## Sensors (R430 to R434, R436) -/

/-- The zone of sensor `n` (R430). -/
def sensorZone (n : Nat) : Nat :=
  if n < 64 then n / 8 else if n < 68 then 8 else if n < 72 then 9 else if n < 88 then 10 else if n < 96 then 11 + (n - 88) / 2 else 15

/-- The sensors of zone `z`. -/
def zoneSensors (z : Nat) : List Nat := (List.range 104).filter fun n => sensorZone n == z

/-- Whether sensor `n` sits in a DRAM package. -/
def isDramSensor (n : Nat) : Bool := decide (88 ≤ n) && decide (n < 96)

def State.sensor (s : State) (n : Nat) : Sensor := Store.get (fun _ => {}) s.pwc.sensors n

def State.setSensor (s : State) (n : Nat) (x : Sensor) : State :=
  { s with pwc := { s.pwc with sensors := Store.set (fun _ => {}) s.pwc.sensors n x } }

/-- The threshold of state `k` of sensor `n`, 1 WARN to 3 CRIT, and 4 SHUT, in 1/256 °C (R433). -/
def State.threshold (s : State) (n k : Nat) : Int :=
  256 * (([s.fld (R.THM_THRESH_warn n), s.fld (R.THM_THRESH_hot n), s.fld (R.THM_THRESH_crit n),
    s.fld (R.THM_THRESH_shut n)].getD (k - 1) 0 : Nat) : Int)

/-- The state of sensor `n`, its temperature in 1/256 °C, and the state of a zone's worst sensor. -/
def State.sensorState (s : State) (n : Nat) : Nat := s.fld (R.THM_TEMP_state n)
def State.sensorTemp (s : State) (n : Nat) : Int := sext 16 (s.fld (R.THM_TEMP_temp n))
def State.zoneState (s : State) (z : Nat) : Nat := ((zoneSensors z).map s.sensorState).foldl max 0

/-- Rise over the window that ends now, 1/256 °C, and the window, ns: against the latest sample at least 50 ms old (R436). -/
def Sensor.rise (x : Sensor) (f : Nat) (t : Int) : Option (Int × Nat) :=
  (x.samples.find? fun p => decide (p.at_ + 50000000 ≤ f)).map fun p => (t - p.t, f - p.at_)

/-- The samples to be kept: 15 for the exit rule, and all back to the newest that is 50 ms old. -/
def keptSamples (l : List Sample) (f : Nat) : List Sample :=
  l.take (max 15 (((l.findIdx? fun p => decide (p.at_ + 50000000 ≤ f)).getD l.length) + 1))

/-- Whether sensor `n` with history `x` may leave state `k` downward (R434). -/
def State.mayLeave (s : State) (n k : Nat) (x : Sensor) : Bool :=
  let m := s.fld R.THM_CFG_dwell_n
  let low := s.threshold n k - 256 * (s.fld (R.THM_THRESH_hyst n) : Int)
  decide (m ≤ x.samples.length) && ((x.samples.take m).all fun p => decide (p.t ≤ low)) &&
  decide (x.entered.getD (k - 1) 0 + 10000000 * s.fld R.THM_CFG_dwell_10ms ≤ s.ptp.f)

/-- THM_THRESHOLD of sensor `n`. -/
def State.postThreshold (s : State) (n st : Nat) (entry : Bool) : State :=
  s.post 0x0200 n (st + 4 * bit entry + s.fld (R.THM_TEMP_temp n) * 65536)

/-- Sensor `n` leaves its states downward, as far as it may. -/
def State.leaveStates (n : Nat) (x : Sensor) : Nat → State → State
  | 0, s => s
  | fuel + 1, s =>
    let st := s.sensorState n
    if st ≠ 0 ∧ s.mayLeave n st x = true then
      ((s.setFld (R.THM_TEMP_state n) (st - 1)).postThreshold n (st - 1) false).leaveStates n x fuel
    else s

/-! ## Zones (R435, R436) -/

/-- The worst sensor of a zone: the highest state, then the highest temperature. -/
def State.showWorst (s : State) (z : Nat) : State :=
  let better := fun (a n : Nat) =>
    decide (s.sensorState a < s.sensorState n) || (s.sensorState a == s.sensorState n && decide (s.sensorTemp a < s.sensorTemp n))
  match zoneSensors z with
  | [] => s
  | n :: ns => s.setFld (R.THM_ZONE_worst z) (ns.foldl (fun a m => if better a m then m else a) n)

/-- A pass that heat or the governor forbids ends (R454). -/
def State.checkPass (s : State) (status : Nat) : State := if s.passHot then s.stopPass status else s

/-- Zone `z` takes a level; THM_ZONE_LEVEL goes out at most once per step_ms. -/
def State.setLevel (s : State) (z level : Nat) (began ended : Bool) : State :=
  let old := s.fld (R.THM_ZONE_level z)
  let s := s.setFld (R.THM_ZONE_level z) level
  let s := if old < level then s.bump (R.THM_CNT_count 5) else s
  let s := if level ≠ old ∨ began = true ∨ ended = true then
      s.postLimited (0x0202000000 + z) (1000000 * s.fld R.THM_CFG_step_ms) 0x0202 z (level + 8 * bit began + 16 * bit ended)
    else s
  if level = old then s else (s.retimeAll).checkPass stThermal

/-- Bent `b` drains and goes ASLEEP; one on its way into service goes back at once. -/
def State.sleepBent (s : State) (b status : Nat) : State :=
  match Store.get (fun _ => none) s.eng.waking b with
  | some ws =>
    let s := { s with eng := { s.eng with
      waking := Store.set (fun _ => none) s.eng.waking b none
      tests := (List.range 8).foldl (fun m j => Store.set (fun _ => none) m (8 * b + j) none) s.eng.tests } }
    (s.bentOut b 0 0).endItems ws ⟨status, 0, 0⟩
  | none => if s.fld (R.ENG_BENT_STATUS_state b) = 1 then s.drainBent b 0 0 [] else s

/-- A compression job has been cut off: a command ends with `status`, a Trastos unit waits for a unit again, a scarf payload is
sent as it is or is lost (R402, R435). -/
def State.jobCut (s : State) (j : CmpJob) (status : Nat) : State :=
  if j.cls = 3 then s.abort (j.who.headD 0) status
  else if j.dir = 1 then
    if j.cls = 2 then { s with pfc := { s.pfc with drain := none } }.abort (j.who.headD 0) status
    else s.relayForm (j.who.getD 0 0) (j.who.getD 1 0) none
  else if j.cls = 2 then s.countWvl (j.who.getD 1 0) 3 1
  else match s.unitOf (j.who.getD 0 0) (j.who.getD 1 0) (j.who.getD 2 0) with
    | some w => s.setUnit { w with started := false }
    | none => s

/-- The job of compression unit `u` is cut off. -/
def State.cutJob (s : State) (u status : Nat) : State :=
  match s.unitJob u with
  | none => s
  | some j => (s.cutUnit u).jobCut j status

/-- Every pipe stops; the units in decode are lost (R96 item 5, R435, R494). -/
def State.cutPipes (s : State) : State :=
  (List.range 16).foldl (fun t p =>
    match t.pipeBusy p with
    | some (v, f, n) =>
      let t := t.setPipe p none
      match t.unitOf v f n with
      | some u => t.loseUnit u 5
      | none => t
    | none => t) s

/-- The CRIT action of zone `z` begins (R435). -/
def State.critBegins (s : State) (z : Nat) : State :=
  let s := (s.setFld (R.THM_ZONE_crit z) 1).setLevel z 7 true false
  let sleep := fun (s : State) (bs : List Nat) => bs.foldl (fun t b => t.sleepBent b stThermal) s
  if z < 8 then s.sleepBent z stThermal
  else if z < 10 then sleep s ((List.range 4).map fun i => 4 * (z - 8) + i)
  else if z = 10 then
    let s := (List.range 12).foldl (fun t u => t.cutJob u stThermal) (s.cutPipes.cutBlit stThermal)
    (s.setPart 24 26 3).setPart 25 27 3
  else if z = 15 then
    let on := (List.range 8).filter fun b => s.fld (R.ENG_BENT_STATUS_state b) == 1
    sleep s ((List.range 8).filter fun b => some b != on.head?)
  else s

/-- The surge hold of zone `z` is in force while one of its sensors has surged within 100 ms. -/
def State.showHold (s : State) (z : Nat) : State :=
  s.setFld (R.THM_ZONE_surge_hold z) (bit ((zoneSensors z).any fun n =>
    (s.sensor n).surge != 0 && decide (s.ptp.f < (s.sensor n).surge - 1 + 100000000)))

/-- The zone's side of a sample: `before` was the state of its worst sensor (R435). -/
def State.zoneAfter (s : State) (z before : Nat) : State :=
  let now := s.zoneState z
  let level := s.fld (R.THM_ZONE_level z)
  let crit := s.fld (R.THM_ZONE_crit z)
  if now = 3 ∧ crit = 0 then s.critBegins z
  else if crit = 1 ∧ now < 2 then (s.setFld (R.THM_ZONE_crit z) 0).setLevel z level false true
  else if now = 2 ∧ before < 2 then s.setLevel z (min 7 (level + 1)) false false
  else s

/-! ## The cut (R425, R438) -/

/-- Queued requests of channel `k` are abandoned; they count as completed in error (R372, R425). -/
def State.abandonQueue (s : State) (k : Nat) : State :=
  ((s.chQueue k).foldl (fun t r => t.count (R.DMC_CH_CNT_count k (if r.write then 2 else 1)) 1) s).setQueue k []

/-- The entry that closes a command in flight (R491, R492). -/
def State.entryOf (s : State) (c : Cmd) (status : Nat) : ReportEntry :=
  let isDone := fun (x : Option Item) => (x.map Item.isDone).getD false
  let first := (c.items.findIdx? fun x => !isDone x).getD c.items.length
  { client := c.client, ring := c.ring, opcode := c.opcode, tag := c.tag, total := c.allItems.length
    done := (c.items.filter isDone).length, first := first, status := status
    deferred := c.second || c.phase == .deferred
    map := ((List.range 64).filter fun k => isDone (c.items.getD (first + k) none)).foldl (fun a k => a + 2 ^ k) 0 }

/-- The commands of the clients in `fs` that are in flight are closed: their entries stand for their final replies (R86, R491). -/
def State.closeCommands (s : State) (fs : List Nat) (status : Nat) : State × List ReportEntry :=
  let cs := s.cmd.inflight.filter fun c => fs.contains c.client
  let k := s.cmd
  ({ s with cmd := { k with
      inflight := k.inflight.filter fun c => !fs.contains c.client
      replies := k.replies.filter fun r => !fs.contains r.client
      finals := cs.foldl (fun m c => Store.modify (fun _ => 0) m c.pair (· + 1)) k.finals } },
   cs.map fun c => s.entryOf c status)

/-- All clients. -/
def allClients : List Nat := List.range 16

/-- The clock of power domain `d` (R417). -/
def domainClock (d : Nat) : Nat :=
  if d = 1 then 3 else if d = 2 then 18 else if d < 5 then 19 else if d < 13 then d + 1 else if d < 15 then d - 9
  else if d < 19 then d - 1 else d + 2

/-- Power domain `d` and its clock go off. -/
def State.offDomain (s : State) (d : Nat) : State :=
  ((s.setDomain d 3).setFld (R.PWC_CLK_mhz (domainClock d)) 0).setFld (R.PWC_CLK_running (domainClock d)) 0

/-- Bursts stop, the quads enter self-refresh with their requests abandoned, every domain but AON and MGT goes off, and the DRAM
rail with its content (R425, R438). -/
def State.cutPower (s : State) : State :=
  let s := (List.range 16).foldl (fun t q => t.dropPiece q) s
  let s := (List.range 32).foldl State.abandonQueue s
  let s := (List.range 4).foldl State.sleepQuad s
  let s := (List.range 24).foldl (fun t d => t.offDomain (d + 2)) s
  { s with dram := [], dmc := { s.dmc with waiting := [] } }

/-- MGT goes off. -/
def State.cutMgt (s : State) : State := s.offDomain 1

/-- A record that is being programmed: firmware writes one as soon as it waits (R457). -/
def State.nvmBusy (s : State) : Bool := !s.spl.queue.isEmpty && s.fld R.SPL_STATUS_read_only == 0

/-- Sensor `n` reaches SHUT (R438, R439): every command in flight is closed with ABORTED_BY_THERMAL. -/
def State.shutTrip (s : State) (n : Nat) : State :=
  if s.pwc.shut || s.pwc.locked || decide (104 ≤ n) then s
  else
    let busy := s.nvmBusy
    let s := (s.setFld R.THM_SHUT_CAUSE_sensor n).setFld R.THM_SHUT_CAUSE_valid 1
    let s := ((s.setFld R.THM_SHUT_CAUSE_nvm_wait (bit busy)).setFld R.THM_SHUT_CAUSE_late_cut 0).setFld
      R.THM_SHUT_CAUSE_erase_suspended (bit s.spl.erasing.isSome)
    let (s, es) := (s.bump (R.THM_CNT_count 6)).closeCommands allClients stThermal
    let s := { s with flt := { s.flt with closed := s.flt.closed ++ es }, pwc := { s.pwc with shut := true } }.cutPower
    if busy then s else s.cutMgt

/-! ## Conversions (R430 to R436) -/

/-- Whether sensor `n` can be converted now (R430, R431). -/
def State.convertible (s : State) (n : Nat) : Bool :=
  decide (n < 104) && s.fld (R.PWC_DOMAIN_depth 1) == 0 && !s.pwc.locked &&
  !(isDramSensor n && s.quadState ((n - 88) / 2) == 2)

/-- Time from a conversion of sensor `n` to its next scheduled one, ns (R431). With THM_CFG.mode 1, the NLF-1280's: 1 ms while it is within
5 °C below a threshold, else 10 ms. With mode 0: 0.25 · m / r within min_ms and max_ms, m its margin to the next threshold above. -/
def State.samplePeriod (s : State) (n : Nat) : Nat :=
  let t := s.sensorTemp n
  let above := ((List.range 4).map fun k => s.threshold n (k + 1)).filter fun x => decide (t < x)
  if s.fld R.THM_CFG_mode = 1 then
    if above.any fun x => decide (x ≤ t + 5 * 256) then 1000000 else 10000000
  else
    let m := match above with
      | [] => 0
      | x :: xs => (xs.foldl min x - t).toNat
    max (1000000 * s.fld R.THM_CFG_min_ms) (min (1000000 * s.fld R.THM_CFG_max_ms) (m * 10 * 1000000000 / (4 * 256 * s.fld (R.THM_THRESH_rise n))))

/-- The next scheduled conversion of sensor `n` is one period away. -/
def State.schedule (s : State) (n : Nat) : State := s.setSensor n { s.sensor n with next := s.ptp.f + s.samplePeriod n }

/-- Sensor `n` is converted and reads `t`, in 1/256 °C. -/
def State.convert (s : State) (n : Nat) (t : Int) : State :=
  if s.convertible n = false then s
  else
    let z := sensorZone n
    let before := s.zoneState z
    let x := s.sensor n
    let first := x.samples.isEmpty
    let rise := x.rise s.ptp.f t
    let s := (s.bump (R.THM_CNT_count 0)).setFld (R.THM_TEMP_temp n) (toField 16 t)
    let s := (s.setFld (R.THM_TEMP_valid n) 1).setFld (R.THM_TEMP_base_only n) (bit first)
    let x := { x with samples := keptSamples (⟨s.ptp.f, t, s.now⟩ :: x.samples) s.ptp.f }
    let st := s.sensorState n
    let into := ((List.range 4).filter fun k => k == 0 || decide (s.threshold n k ≤ t)).foldl max 0
    let x := if st < into then { x with entered := (List.range 3).map fun k => if st ≤ k ∧ k < into then s.ptp.f else x.entered.getD k 0 } else x
    -- R436: dT / dt above the limit of rise / 10 °C/s
    let surge := match rise with
      | some (d, w) => decide (256 * (s.fld (R.THM_THRESH_rise n) : Int) * (w : Int) < d * 10000000000)
      | none => false
    let x := if surge then { x with surge := s.ptp.f + 1 } else x
    let s := s.setSensor n x
    let s := if st < into then
        ((s.setFld (R.THM_TEMP_state n) into).bump (R.THM_CNT_count into)).postThreshold n into true
      else s.leaveStates n x 3
    let s := s.zoneAfter z before
    let s := if surge then
        let level := min 7 (s.fld (R.THM_ZONE_level z) + 2)
        let s := (s.bump (R.THM_CNT_count 4)).setLevel z level false false
        match rise with
        | some (d, w) => s.post 0x0201 n (min 65535 (d * 10000000000 / (256 * (w : Int))).toNat + level * 65536)
        | none => s
      else s
    let s := (s.showHold z).showWorst z
    if isDramSensor n && decide (s.threshold n 4 ≤ t) then s.shutTrip n else s

/-- SENSOR_CONVERSION (R2, R430 to R436): sensor `n` reads `t`, in 1/256 °C. In compatibility mode it is converted at its scheduled times
only; in native mode also on demand. -/
def execSensorConversion (n : Nat) (t : Int) (s : State) : Host.Outcome State Fault Refusal :=
  .next (if s.convertible n = false ∨ (s.fld R.THM_CFG_mode = 1 ∧ s.ptp.f < (s.sensor n).next) then s else (s.convert n t).schedule n)

/-- ZONE_STEP (R435, R436): a step of zone `z`. The level rises while its worst sensor is in HOT or above, and falls each tenth step
at normal, unless a surge holds it. -/
def execZoneStep (z : Nat) (s : State) : Host.Outcome State Fault Refusal :=
  .next (if 16 ≤ z then s
    else
      let s := s.showHold z
      let st := s.zoneState z
      let level := s.fld (R.THM_ZONE_level z)
      let ticks := Store.get (fun _ => 0) s.pwc.zoneTicks z
      let put := fun (s : State) (n : Nat) => { s with pwc := { s.pwc with zoneTicks := Store.set (fun _ => 0) s.pwc.zoneTicks z n } }
      if 2 ≤ st then (put s 0).setLevel z (min 7 (level + 1)) false false
      else if st = 1 then put s 0
      else if ticks < 9 then put s (ticks + 1)
      else if s.fld (R.THM_ZONE_surge_hold z) = 1 ∨ level = 0 then s
      else (put s 0).setLevel z (level - 1) false false)

/-- SHUT_TRIP (R438, R439): the comparator of sensor `n` finds SHUT. -/
def execShutTrip (n : Nat) (s : State) : Host.Outcome State Fault Refusal := .next (s.shutTrip n)

/-- SHUT_NVM_PROGRAM_END (R439): the page program that MGT was kept for ends, or, with `late`, a comparator reaches SHUT + 3 °C in the
middle of it. Either way MGT goes off. -/
def execShutNvmProgramEnd (late : Bool) (s : State) : Host.Outcome State Fault Refusal :=
  .next (if s.pwc.shut = false ∨ s.fld (R.PWC_DOMAIN_depth 1) = 3 then s
    else if late then
      -- the page is torn: the record lacks its marker
      { s.setFld R.THM_SHUT_CAUSE_late_cut 1 with spl := { s.spl with programmed := !s.spl.queue.isEmpty } }.cutMgt
    else s.commitRecord.cutMgt)

/-! ## Commands (R442, R443) -/

/-- THERMAL_SET (R433, R442). -/
def execThermalSet (id : Nat) (bus : Bus) (s : State) : Host.Outcome State Fault Refusal :=
  .next (s.runOp id .thermalSet fun c s =>
    let first := c.pb 8 0 7
    let count := c.pb 9 0 7
    let warn := c.p 10 1
    let hot := c.p 11 1
    let crit := c.p 12 1
    let shut := c.p 13 1
    let hyst := c.pb 14 0 4
    let rise := c.p 15 1
    if 104 < first + count then s.refuse c stBadParam 1
    else if count = 0 then s.refuse c stBadParam 9
    else if ¬ (warn < hot ∧ hot < crit ∧ crit < shut) ∨ shut < 100 ∨ 125 < shut ∨ hyst < 1 ∨ 10 < hyst ∨ rise < 5 then s.refuse c stBadParam 2
    else
      let word := BitVec.ofNat 64 (warn + hot * 2 ^ 8 + crit * 2 ^ 16 + shut * 2 ^ 24 + hyst * 2 ^ 32 + rise * 2 ^ 40)
      let s := (List.range count).foldl (fun t i => t.setReg (R.THM_THRESH (first + i)) word) s
      s.finishAs c (List.replicate count ⟨stDone, 0, 0⟩))

/-- The record of sensor `n` after its conversion, or, with `stale`, without one (R443). -/
def State.sensorRecord (s : State) (n : Nat) (stale : Bool) (rise : Option (Int × Nat)) : List Byte :=
  let rate := match rise with
    | some (d, w) => d * 100000000000 / (256 * (w : Int))
    | none => 0
  leBytes 2 (s.fld (R.THM_TEMP_temp n)) ++ leBytes 1 (s.sensorState n) ++
  leBytes 1 (bit stale + 2 * s.fld (R.THM_TEMP_base_only n)) ++ leBytes 4 (toField 32 rate) ++
  leBytes 8 (((s.sensor n).samples.head?.map Sample.time).getD 0)

/-- Converts sensors from `n` on, one per reading, and gathers their records. -/
def State.sampleSensors (s : State) (n : Nat) : List Int → State × List (List Byte × Item)
  | [] => (s, [])
  | t :: ts =>
    let stale := !s.convertible n
    let x := s.sensor n
    let rise := if stale then (match x.samples with
        | p :: ps => ({ x with samples := ps } : Sensor).rise p.at_ p.t
        | [] => none)
      else x.rise s.ptp.f t
    -- R431: an extra conversion does not move the schedule of mode 1
    let s := s.convert n t
    let s := if stale ∨ s.fld R.THM_CFG_mode = 1 then s else s.schedule n
    let d := s.sensorRecord n stale rise
    let (s, rest) := s.sampleSensors (n + 1) ts
    (s, (d, ⟨stDone, 0, 0⟩) :: rest)

/-- THERMAL_SAMPLE (R443, R536): the sensors named read `temps`. -/
def execThermalSample (id : Nat) (bus : Bus) (temps : List Int) (s : State) : Host.Outcome State Fault Refusal :=
  .next (s.runOp id .thermalSample fun c s =>
    let first := c.pb 16 0 7
    let count := c.pb 17 0 7
    if 104 < first + count then s.refuse c stBadParam 1
    else if count = 0 then s.refuse c stBadParam 17
    else
      let (s, rs) := s.sampleSensors first ((List.range count).map fun i => temps.getD i 0)
      if (s.cmdOf id).isNone then s
      else
        let (s, items) := s.writeRecords bus c false (c.p 8 8) rs
        s.finishAs c items)

end Sys2Proof.Machine
end

