-- ==== Sys2Proof/Machine/Power.lean ====
section
/-! DEFINITION. Input power, the governor, sleep depths, module states and power failure (R418 to R422, R425 to R429, R441, R519). -/

namespace Sys2Proof.Machine

open Sys2Proof

/-! ## The supply monitor and the governor (R421, R422) -/

/-- The power tier at `vin` mV, from tier `t`: a tier is left once VIN is 0.5 V past its boundary (R421). -/
def tierAt (t vin : Nat) : Nat :=
  if 18000 ≤ vin then 0
  else if 17500 ≤ vin then (if t = 0 then 0 else 1)
  else if 12000 ≤ vin then 1
  else if 11500 ≤ vin then (if t = 2 then 2 else 1)
  else 2

/-- VIN_SAMPLE (R421): AON measures `vin` mV, and an input power of `pin` times 10 mW over the last 1 ms. -/
def execVinSample (vin pin : Nat) (s : State) : Host.Outcome State Fault Refusal :=
  .next (if s.pwc.locked then s
    else
      let t := tierAt (s.fld R.PWC_STATUS_tier) vin
      let s' := ((s.setFld R.PWC_VIN_vin vin).setFld R.PWC_VIN_pin pin).setFld R.PWC_STATUS_tier t
      if t = s.fld R.PWC_STATUS_tier then s' else s'.post 0x0203 0 (t + vin / 100 * 65536))

/-- The input power limit in force, W (R421). -/
def State.powerLimit (s : State) : Nat :=
  let tier := [420, 260, 120].getD (s.fld R.PWC_STATUS_tier) 120
  let own := s.fld R.PWC_CFG_plimit
  if own = 0 then tier else min tier own

/-- Shows what the governor does; PWR_LIMIT follows a change of limiting, with the input power in W. -/
def State.showGovernor (s : State) (watts : Nat) : State :=
  let g := s.fld R.PWC_STATUS_gov_level
  let n := s.pwc.shed.length
  let lim := bit (g != 0 || n != 0)
  let was := s.fld R.PWC_STATUS_limiting
  let s := (s.setFld R.PWC_STATUS_shed n).setFld R.PWC_STATUS_limiting lim
  if lim = was then s else s.post 0x0204 0 (lim + g * 2 + n * 16 + watts * 65536)

/-- The bent that the governor sheds next: at least one stays in service (R422). -/
def State.toShed (s : State) : Option Nat :=
  if s.bentsIn ≤ 1 then none else [7, 3, 6, 2, 5, 1, 4, 0].find? fun b => s.fld (R.ENG_BENT_STATUS_state b) == 1

/-- GOVERNOR_STEP (R422 to R424): rule `rule` of R422 finds an input power of `p` times 10 mW over the time that it states. -/
def execGovernorStep (rule p : Nat) (s : State) : Host.Outcome State Fault Refusal :=
  let g := s.fld R.PWC_STATUS_gov_level
  let lim := 100 * s.powerLimit
  let put := fun (s : State) (g : Nat) => ((s.setFld R.PWC_STATUS_gov_level g).showGovernor (p / 100)).retimeAll.checkPass stPower
  .next (
    if rule = 1 ∧ lim < p ∧ g < 7 then put s (g + 1)
    else if rule = 2 ∧ 12 * lim < 10 * p ∧ g < 7 then put s (min 7 (g + 2))
    else if rule = 3 ∧ lim < p ∧ g = 7 then
      match s.toShed with
      | none => s
      | some b => put ({ s with pwc := { s.pwc with shed := b :: s.pwc.shed } }.drainBent b 0 0 []) g
    else if rule = 4 ∧ 100 * p < 85 * lim then
      match s.pwc.shed with
      | b :: rest =>
        let s := { s with pwc := { s.pwc with shed := rest } }
        let may := s.fld (R.ENG_BENT_STATUS_state b) == 0 && s.fld R.PWC_STATUS_state == 0 &&
          (bentZones b).all fun z => s.fld (R.THM_ZONE_crit z) == 0
        put (if may then s.wakeBent b [] else s) g
      | [] => if g = 0 then s else put s (g - 1)
    else s)

/-! ## Domains that sleep on their own (R418) -/

/-- Whether the compression and block engines have no job. -/
def State.enginesIdle (s : State) : Bool :=
  ((List.range 12).all fun u => (s.unitJob u).isNone) && s.cmp.waiting.isEmpty && s.blk.running.isNone && s.blk.waiting.isEmpty

/-- Whether no pipe decodes and no unit waits for one. -/
def State.pipesIdle (s : State) : Bool :=
  (List.range 16).all fun p => (s.pipeBusy p).isNone && !s.trs.units.any fun u => s.pipeMay p u

/-- The number of bents that are awake: in service or on their way. -/
def State.bentsAwake (s : State) : Nat :=
  ((List.range 8).filter fun b => s.fld (R.ENG_BENT_STATUS_state b) == 1 || (Store.get (fun _ => none) s.eng.waking b).isSome).length

/-- Whether bent `b` has no region and no test to run. -/
def State.bentIdle (s : State) (b : Nat) : Bool :=
  (List.range 8).all fun j => !s.bayBusy (8 * b + j) && (Store.get (fun _ => none) s.eng.tests (8 * b + j)).isNone

/-- Whether bent `b` is asleep or retired, and not on its way into service. -/
def State.bentDown (s : State) (b : Nat) : Bool :=
  (s.fld (R.ENG_BENT_STATUS_state b) == 0 || s.fld (R.ENG_BENT_STATUS_state b) == 4) && (Store.get (fun _ => none) s.eng.waking b).isNone

/-- Whether domain `d` may enter a depth on its own now: the condition of the wake table. The idle times of the table have passed
when the command comes (log entry 18). -/
def State.maySleep (s : State) (d depth : Nat) : Bool :=
  if d = 3 ∨ d = 4 then depth == 3 && (List.range 8).all fun p => s.fld (R.ETH_PORT_CFG_mode p) == 0
  else if 5 ≤ d ∧ d ≤ 12 then
    let b := d - 5
    if depth = 1 then s.bentIdle b
    else depth == 3 && (s.bentDown b ||
      (s.bentIdle b && s.fld (R.ENG_BENT_STATUS_state b) == 1 && decide (s.fld R.ENG_PLACE_CFG_awake_min < s.bentsAwake)))
  else if d = 13 ∨ d = 14 then
    if depth = 1 then true else depth == 3 && (List.range 4).all fun i => s.bentDown (4 * (d - 13) + i)
  else if 15 ≤ d ∧ d ≤ 18 then depth == 2 && s.quadState (d - 15) == 2
  else if 19 ≤ d ∧ d ≤ 22 then
    let qs := (List.range 4).map fun i => 4 * (d - 19) + i
    if depth = 1 then qs.all fun q => (s.workingLanes q).isEmpty
    else depth == 3 && (s.link == 0 || qs.all fun q => (List.range 4).all fun g => !s.servesSeg q g)
  else if d = 23 then depth == 3 && !s.walled
  else if d = 24 then
    if depth = 1 then s.pipesIdle else depth == 3 && s.pipesIdle && (List.range 128).all fun k => (s.decStream k).isNone
  else if d = 25 then (depth == 1 || depth == 3) && s.enginesIdle
  else false

/-- DOMAIN_SLEEP (R301, R418): domain `d` enters a depth; a bent beyond awake_min goes ASLEEP. -/
def execDomainSleep (d depth : Nat) (s : State) : Host.Outcome State Fault Refusal :=
  .next (if depth ≤ s.fld (R.PWC_DOMAIN_depth d) ∨ 3 < depth ∨ s.maySleep d depth = false then s
    else if 5 ≤ d ∧ d ≤ 12 ∧ depth = 3 ∧ s.fld (R.ENG_BENT_STATUS_state (d - 5)) = 1 then s.bentOut (d - 5) 0 0
    else
      let s := (s.setDomain d depth).setFld (R.PWC_CLK_running (domainClock d)) 0
      if depth = 1 then s else s.setFld (R.PWC_CLK_mhz (domainClock d)) 0)

/-! ## Power failure (R425, R426, R429, R519) -/

/-- Power fails: every command in flight is closed with ABORTED_BY_POWER, and what is not needed to finish the story pole is cut. -/
def State.powerFails (s : State) : State :=
  if s.pwc.failed || s.pwc.shut || s.pwc.locked then s
  else
    let (s, es) := s.closeCommands allClients stPower
    let s := ((s.setReg R.PWC_PFAIL 0).setFld R.PWC_PFAIL_occurred 1)
    { s with
      flt := { s.flt with closed := s.flt.closed ++ es }
      pwc := { s.pwc with failed := true, failedAt := s.ptp.f, recordDone := false } }.cutPower

/-- POWER_FAILURE (R425): VIN has been below vin_fail for 2 µs. -/
def execPowerFailure (s : State) : Host.Outcome State Fault Refusal := .next s.powerFails

/-- VIN_OVERVOLTAGE (R519): VIN has been above 41.0 V for 2 µs; the input stage opens, which is a power failure. -/
def execVinOvervoltage (s : State) : Host.Outcome State Fault Refusal := .next s.powerFails

/-- POWER_FAIL_RECORD_COMMIT (R426, R447): firmware finishes the record being programmed and commits the power-fail record: VIN, input
power, commands cut, PTP time (log entry 30). Records not yet begun are not written. -/
def execPowerFailRecordCommit (s : State) : Host.Outcome State Fault Refusal :=
  .next (if s.pwc.failed = false ∨ s.pwc.recordDone = true ∨ s.pwc.locked = true ∨ s.fld (R.PWC_DOMAIN_depth 1) ≠ 0 then s
    else
      let s := if s.spl.programmed then s.commitRecord else s
      let body := leBytes 2 (s.fld R.PWC_VIN_vin) ++ leBytes 2 (s.fld R.PWC_VIN_pin) ++ leBytes 4 s.flt.closed.length ++ leBytes 8 s.now
      let s := { s with spl := { s.spl with queue := [{ kind := 9, key := 0, body := body }], programmed := false } }
      let s := s.commitRecord.commitRecord
      let ok := s.spl.queue.isEmpty
      let s := { s with spl := { s.spl with queue := [], programmed := false }, pwc := { s.pwc with recordDone := true } }
      if ok then s.setFld R.PWC_PFAIL_committed 1 else s)

/-- The time since the shed, in 10 µs, saturating (PWC_PFAIL.held_us). -/
def State.noteHeld (s : State) : State :=
  if s.pwc.failed then s.setFld R.PWC_PFAIL_held_us (min 65535 ((s.ptp.f - s.pwc.failedAt) / 10000)) else s

/-- Every domain goes off; a record being programmed lacks its marker (R429). -/
def State.lockOut (s : State) : State :=
  let s := s.noteHeld.cutPower.cutMgt
  { s with
    spl := { s.spl with programmed := !s.spl.queue.isEmpty }
    flt := { s.flt with boot := .dark }
    pwc := { s.pwc with locked := true } }

/-- UNDERVOLTAGE_LOCKOUT (R429): VIN falls below 4.0 V. -/
def execUndervoltageLockout (s : State) : Host.Outcome State Fault Refusal := .next (if s.pwc.locked then s else s.lockOut)

/-! ## Module states (R419, R441) -/

/-- The module state changes. -/
def State.setPowerState (s : State) (st : Nat) : State :=
  ({ s.setFld R.PWC_STATUS_state st with pwc := { s.pwc with setting := none } }).post 0x0205 0 st

/-- The work of entering STANDBY begins: link DOWN, bents asleep (R419). -/
def State.startStandby (s : State) : State :=
  let s := if s.link = 0 then s else s.leaveLink.enterLink 0 1
  (List.range 8).foldl (fun t b => t.sleepBent b stPower) s

/-- Whether the domains that STANDBY switches off may be off now. -/
def State.standbyReady (s : State) : Bool :=
  s.pipesIdle && s.enginesIdle && ((List.range 8).all s.bentDown) && ((List.range 4).all s.quadIdle)

/-- STANDBY is reached: bents, DEC, CBK and the panel lanes off, quads in self-refresh. -/
def State.enterStandby (s : State) : State :=
  let s := ((s.setPart 24 26 3).setPart 25 27 3)
  let s := (List.range 4).foldl (fun t j => (t.sleepQuad j).setLaneQuad j 3) s
  (List.range 2).foldl (fun t d => t.setNoc d 3) s

/-- RUN is asked for: the bents that stay awake wake up, and the panel link trains where auto is 1 (R301, R419). -/
def State.startRun (s : State) : State :=
  let bents := (bentOrder.filter fun b => s.fld (R.ENG_BENT_STATUS_state b) == 0 && !s.pwc.shed.contains b &&
    (bentZones b).all fun z => s.fld (R.THM_ZONE_crit z) == 0).take (s.fld R.ENG_PLACE_CFG_awake_min)
  let s := (List.range 4).foldl State.wakeQuad s
  let s := bents.foldl (fun t b => t.wakeBent b []) s
  if s.fld R.PNL_LINK_CFG_auto = 1 ∧ s.link = 0 then s.enterTrain 1 else s

/-- The module sheds for HIBERNATE, with MGT kept in D2, or for DEEP, with DRAM content lost (R419, R441). -/
def State.shed (s : State) (st : Nat) : State :=
  let kept := s.dram
  let s := s.cutPower
  let s := if st = 2 then ({ s with dram := kept }.setDomain 1 2).setFld (R.PWC_CLK_running 3) 0 else s.cutMgt
  s.setPowerState st

/-- Every deferred command ends with ABORTED_BY_POWER, and with `all` every command but `id` (R441). -/
def State.endForPower (s : State) (id : Nat) (all : Bool) : State :=
  let ids := (s.cmd.inflight.filter fun c => c.id != id && c.isOpen && (all || c.phase == .deferred)).map Cmd.id
  let s := if all then s.abortBlits stPower else s
  ids.foldl (fun t i => t.abort i stPower) s

/-- POWER_STATE_SET (R419, R441). Run again, it goes on: STANDBY and RUN end once their domains have reached their depths; HIBERNATE
and DEEP end the commands still in flight after 10 ms (`late`), reply DONE, and shed once that reply is written. -/
def execPowerStateSet (id : Nat) (bus : Bus) (late : Bool) (s : State) : Host.Outcome State Fault Refusal :=
  .next (match s.pwc.setting with
    | some (i, st) =>
      if i ≠ id then s
      else if st = 0 then
        if (List.range 8).any fun b => (Store.get (fun _ => none) s.eng.waking b).isSome then s
        else (s.setPowerState 0).itemDone id 0 ⟨stDone, 0, 0⟩
      else if st = 1 then
        if s.standbyReady then (s.enterStandby.setPowerState 1).itemDone id 0 ⟨stDone, 0, 0⟩ else s
      else match s.cmdOf id with
        | none => s.shed st
        | some c =>
          if c.phase = .replied then s
          else
            let s := if late then s.endForPower id true else s
            if s.cmd.inflight.any fun d => d.id != id && d.isOpen then s else s.finishOne c
    | none => s.runOp id .powerStateSet fun c s =>
      let st := c.pb 8 0 2
      let wake := c.pb 9 0 3
      let timer := c.p 16 8
      if st = s.fld R.PWC_STATUS_state then s.finishOne c
      else if 2 ≤ st then
        if wake = 0 then s.refuse c stBadParam 1
        else if wake.testBit 2 = true ∧ (timer = 0 ∨ 2 ^ 40 < timer) then s.refuse c stBadParam 16
        else
          let s := { s with pwc := { s.pwc with setting := some (id, st), wake := wake, timer := timer } }
          (s.hold c).endForPower id false
      else if s.deferFull c then s.refuse c stBusyRetry 0
      else
        let s := { s.defer c 1 with pwc := { s.pwc with setting := some (id, st) } }
        if st = 1 then s.startStandby else s.startRun)

end Sys2Proof.Machine
end

