-- ==== Sys2Proof/Machine/Reset.lean ====
section
/-! DEFINITION. Resets: cold, warm, function-level and block-level, their causes and the reports they leave (R47, R53, R54, R420,
R428, R429, R440, R487 to R497, R500, R501, R520, R521, R527). -/

namespace Sys2Proof.Machine

open Sys2Proof

/-! ## What a warm reset keeps (R489, R511) -/

/-- A calibration item of AON: 0 to 3, the PTP PLL and every sensor (R446). -/
def isAonItem (i : Nat) : Bool := decide (i < 4) || i == 21 || decide (24 ≤ i)

/-- Registers that keep their whole value across a warm reset beside those that the register map marks: zones (R437), the geometry
(R15), the largest correction (R203), the wall configuration. -/
def keptRegs : List String :=
  ["THM_ZONE", "PNL_GEOM_HOGELS", "PNL_GEOM_VIEWS", "PNL_SEG_ORIGIN", "PNL_SEG_SIZE", "PNL_SEG_QUADS", "DMG_VCF_MAX",
    "WVL_WALL_CFG", "WVL_WALL_CFG2", "WVL_WALL_ID"]

/-- Registers that keep their value while the DRAM rail stays on: windows and operating points. -/
def railRegs : List String := ["DMC_WIN_CFG", "DMC_WIN_BASE", "DMC_WIN_ROWS", "DMC_QUAD_STATUS"]

/-- Fields that keep their value beside the RWS fields. -/
def keptFields : List (String × String) :=
  [("THM_TEMP", "state"), ("PWC_DOMAIN", "wakes"), ("PNL_LINK_STATUS", "linkups"), ("HST_LINK_STATUS", "bifurcated"),
    ("SPL_FW_STATUS", "active"), ("SPL_FW_STATUS", "trial"), ("SPL_FW_STATUS", "fuse")]

/-- Array elements that keep their value: shutdowns and resets ignored, and breach counts (R235). -/
def keptElement (name : String) (ix : List Nat) : Bool :=
  (name == "THM_CNT" && decide (6 ≤ ix.getD 0 0)) || (name == "SCH_CLASS_CNT" && ix.getD 2 0 == 5)

/-- The bits of a register element that a warm reset keeps. -/
def keptMask (r : RegSpec) (ix : List Nat) (rail : Bool) : RegWord :=
  if r.kept || keptRegs.contains r.name || (rail && railRegs.contains r.name) || keptElement r.name ix then BitVec.allOnes 64
  else (r.fields.map fun f =>
    if f.access == .rws || keptFields.contains (r.name, f.name) || (r.name == "CAL_ITEM_STATE" && f.name == "dac" && isAonItem (ix.headD 0))
      then fieldMask f.lo f.width else 0).foldl (· ||| ·) 0

/-- The register file after a warm reset. -/
def keptStore (regs : Store RegWord) (rail : Bool) : Store RegWord :=
  regs.filterMap fun e =>
    let m := match findReg e.1 with
      | some (r, ix, _) => keptMask r ix rail
      | none => 0
    let v := (e.2 &&& m) ||| (resetReg e.1 &&& ~~~ m)
    if v = resetReg e.1 then none else some (e.1, v)

/-- The story pole as a reset leaves it: records not yet begun are gone, one that was programmed lacks its marker, and an erase
that had not begun is forgotten (R458, R460). -/
def SplState.afterReset (p : SplState) : SplState :=
  let waits := p.queue.any fun n => n.copied || (n.kind == 11 && some n.key == p.erasing)
  { p with
    queue := if p.programmed then (p.queue.take 1).map fun n => { n with waiters := [] } else []
    programmed := p.programmed && !p.queue.isEmpty
    erasing := if waits then none else p.erasing
    bytes := 0 }

/-! ## Terms are closed before they are reset (R224, R258, R403, R415, R483, R490) -/

/-- Every class node: credit 0 with the difference in Z, virtual time 0, and nothing but its credit terms (R219, R224). -/
def State.zeroNodes (s : State) : State :=
  let put := fun (m : Store Node) (e : Nat × Node) =>
    let x := e.2.setCredit 0
    Store.set (fun _ => ({} : Node)) m e.1 { e := x.e, s := x.s, h := x.h, l := x.l, z := x.z }
  { s with sch := { s.sch with nodes := s.sch.nodes.foldl put [] } }

/-- Regions in flight are requeued, and queued entries discarded (R490). -/
def State.dropRegions (s : State) : State :=
  let s := (List.range 16).foldl (fun t q => t.dropPiece q) s.leaveLink
  let rs := (s.dmg.regions.filter fun e => e.2.state == 2 || e.2.state == 3 || e.2.state == 4).map Prod.fst
  let s := (rs.foldl State.requeue s).discardEntries
  let s := { s with dmg := { s.dmg with regions := [] } }
  (List.range 16).foldl State.writeOff s.zeroNodes

/-- The engines' jobs are cut off (R402, R414). -/
def State.cutEngines (s : State) (status : Nat) : State :=
  (List.range 12).foldl (fun t u => t.cutJob u status) (s.abortBlits status)

/-- A reset ends the truing pass (R454): the bent in progress gets outcome 5, those not yet taken 4. -/
def State.cutPass (s : State) : State :=
  match s.cal.pass with
  | none => s
  | some p =>
    let s := match p.cur with
      | some b => if p.planned && s.fld (R.CAL_TRUE_OUTCOME_outcome b) == 1 then s else s.setFld (R.CAL_TRUE_OUTCOME_outcome b) 5
      | none => s
    (p.todo.foldl (fun t b => t.setFld (R.CAL_TRUE_OUTCOME_outcome b) 4) s).endPass

/-- The Ethernet rings in `rs` and `ts` are disabled with no write-back (R344), and how many descriptors were discarded. -/
def State.cutEthRings (s : State) (rs ts : List Nat) : State × Nat :=
  let n := fun (s : State) => ((List.range 8).map fun p => s.fld (R.ETH_PORT_CNT_count p 11)).sum
  let t := rs.foldl State.closeRx (ts.foldl (fun t x => (t.discardTx x).closeTx x) s)
  (t, n t - n s)

/-- Every term of the ledger as it stands once the warm reset has stopped everything. -/
def State.closeTerms (s : State) (status : Nat) : State × Nat :=
  let s := (List.range 4).foldl (fun t p => if t.portIn p then t.portLeaves p else t) s
  let s := (s.cutEngines status).cutPipes.dropRegions.disableChecks.1
  let s := (List.range 64).foldl (fun t v => if t.fld (R.SCN_TRS_STREAM_stream_id v) = 0 then t else t.unbind v) s
  let s := (List.range 32).foldl State.abandonQueue s
  let s := s.pfc.queue.foldl (fun t _ => t.loseRecord) s
  s.cutPass.cutEthRings (List.range 512) (List.range 64)

/-! ## Reports (R488, R491 to R493) -/

/-- FLT_RESET_STATUS and FLT_RESET_TIME show the module report. -/
def State.showReport (s : State) : State :=
  match s.flt.report with
  | none => s.setFld R.FLT_RESET_STATUS_report_ready 0
  | some r =>
    let s := ((s.setFld R.FLT_RESET_STATUS_level r.level).setFld R.FLT_RESET_STATUS_cause r.cause).setFld R.FLT_RESET_STATUS_dram_lost (bit r.dramLost)
    let s := ((s.setFld R.FLT_RESET_STATUS_power_fail (bit r.powerFail)).setFld R.FLT_RESET_STATUS_shutdown (bit r.shutdown)).setFld
      R.FLT_RESET_STATUS_nvm_interrupted (bit r.interrupted)
    (s.setFld R.FLT_RESET_STATUS_entries (min 65535 r.entries.length)).setFld R.FLT_RESET_TIME_time r.time

/-- The truing outcomes of the eight bents, 3 bits each. -/
def State.outcomes (s : State) : Nat := ((List.range 8).map fun b => s.fld (R.CAL_TRUE_OUTCOME_outcome b) * 8 ^ b).sum

/-- The announcement of a report waits for an event ring (R493). -/
def State.announce (s : State) (r : Report) (client : Option Nat) : State :=
  let e : Event := ⟨0x0E00, client.getD 0xFFFF, r.level + r.cause * 8 + min 65535 r.entries.length * 65536, s.now, client, none, none⟩
  { s with flt := { s.flt with notices := s.flt.notices ++ [e] } }

/-! ## Cold reset (R53, R463, R488, R528, R532) -/

/-- What a cold reset of cause 1 or 2 leaves outside the register file: the queue, what has left the module and the story pole. -/
def State.afterCold (s : State) (cause : Nat) (p : Straps) : State :=
  let failed := cause == 2 && s.fld R.PWC_PFAIL_committed == 1
  let fell := p.refSel && !p.refOk
  { State.reset with
    pending := s.pending
    out := s.out
    free := s.free
    spl := s.spl.afterReset
    pin := { refSel := p.refSel, smbAddr := p.addr % 4, refFallback := fell }
    flt := {
      boot := if p.pinLow then .held else .verify
      pinLow := p.pinLow
      report := some { level := 1, cause := cause, dramLost := true, powerFail := failed, cut := if failed then s.flt.closed.length else 0 }
      afterBoot := if fell then [(0x0104, 0, 1)] else [] } }

/-- The state after a cold reset: reset values, but for the story pole and the fuses, with the straps sampled. -/
def State.coldReset (s : State) (cause : Nat) (p : Straps) : State :=
  let t := s.afterCold cause p
  let t := (t.setReg R.PFC_SAMPLE_SEED (s.reg R.PFC_SAMPLE_SEED)).setFld R.SPL_FW_STATUS_active (s.fld R.SPL_FW_STATUS_active)
  let t := (t.setFld R.SPL_FW_STATUS_trial (s.fld R.SPL_FW_STATUS_trial)).setFld R.SPL_FW_STATUS_fuse (s.fld R.SPL_FW_STATUS_fuse)
  let t := (t.setFld (R.HST_LINK_STATUS_bifurcated 0) (bit p.hostBif)).setFld (R.HST_LINK_STATUS_bifurcated 1) (bit p.hostBif)
  t.showReport

/-- COLD_RESET (R487, R488): the cause is 1, or 2 after a power failure that did not recover. -/
def execColdReset (cause : Nat) (straps : Straps) (s : State) : Host.Outcome State Fault Refusal :=
  .next (if cause = 1 ∨ cause = 2 then s.coldReset cause straps else s)

/-- POWER_ON (R429, R487, R521): VIN has risen through the lockout and has stayed at 6.0 V or above for 1 ms. -/
def execPowerOn (straps : Straps) (s : State) : Host.Outcome State Fault Refusal :=
  .next (if s.pwc.locked then s.coldReset (if s.pwc.failed then 2 else 1) straps else s)

/-- VIN_REVERSED (R520): a reversed input holds no state; its correction is a cold reset. -/
def execVinReversed (on : Bool) (straps : Straps) (s : State) : Host.Outcome State Fault Refusal :=
  .next (if on then
      let s := if s.pwc.locked then s else s.lockOut
      { s with pwc := { s.pwc with vinReversed := true } }
    else if s.pwc.vinReversed then s.coldReset 1 straps
    else s)

/-! ## Warm reset (R489 to R491) -/

/-- The state that a warm reset leaves of `s`, whose commands and terms are closed: what R489 keeps, with the report. -/
def State.afterWarm (s : State) (lost : Bool) (rep : Report) : State :=
  let sensors := s.pwc.sensors.foldl (fun m e => Store.set (fun _ => ({} : Sensor)) m e.1 { e.2 with samples := [], next := 0 }) []
  let groups := s.pnl.groups.foldl (fun m e => Store.set (fun _ => ({} : PnlGroup)) m e.1
    { g := e.2.g, r := e.2.r, u := e.2.u, xa := e.2.xa, xo := e.2.xo }) []
  let ports := s.wvl.ports.foldl (fun m e => Store.set (fun _ => ({} : WvlPort)) m e.1
    { g := e.2.g, r := e.2.r, u := e.2.u, xa := e.2.xa, xo := e.2.xo }) []
  { State.reset with
    pending := s.pending
    out := s.out
    free := s.free
    regs := keptStore s.regs (!lost)
    ledger := s.ledger
    dram := if lost then [] else s.dram
    cmd := { fetched := s.cmd.fetched, finals := s.cmd.finals, nextId := s.cmd.nextId }
    ptp := { s.ptp with xsec := 0 }
    flt := { boot := if s.flt.pinLow then .held else .verify, pinLow := s.flt.pinLow, report := some rep }
    scn := { prev := s.scn.prev }
    sch := { nodes := s.sch.nodes, nextJob := s.sch.nextJob }
    pnl := { groups := groups }
    spl := s.spl.afterReset
    pwc := { sensors := sensors, zoneTicks := s.pwc.zoneTicks }
    cal := { frozenBents := s.cal.frozenBents, frozenDram := s.cal.frozenDram }
    wvl := { ports := ports, base := s.wvl.base }
    pin := s.pin }

/-- A warm reset: commands are closed in the report, terms are closed, and what R489 keeps stays. -/
def State.warmReset (s : State) (cause : Nat) : State :=
  let lost := s.pwc.failed || s.pwc.shut || s.fld R.PWC_STATUS_state == 3
  let status := if s.pwc.failed then stPower else if s.pwc.shut then stThermal else stReset
  let powerFail := s.pwc.failed
  let cutPass := s.cal.pass.isSome
  let (s, es) := s.closeCommands allClients status
  let (s, discarded) := s.closeTerms status
  let s := (List.range 8).foldl (fun t k => if (t.trig k).level then t.emit (.pin k false) else t) s
  let entries := s.flt.closed ++ es
  let rep : Report :=
    { level := 2, cause := cause, dramLost := lost, powerFail := powerFail
      shutdown := s.fld R.THM_SHUT_CAUSE_valid == 1, truingCut := cutPass, time := s.now, f := s.ptp.f
      cut := entries.length, truing := s.outcomes, ethDiscarded := discarded
      shutSensor := s.fld R.THM_SHUT_CAUSE_sensor, entries := entries }
  ((s.afterWarm lost rep).bump (R.FLT_CNT_count 0)).showReport

/-- Whether a warm reset may come from the running module: not in a power failure, after a SHUT or under the lockout (R428, R429,
R440). -/
def State.mayReset (s : State) : Bool := !s.pwc.failed && !s.pwc.shut && !s.pwc.locked

/-- WARM_RESET (R487, R489): the causes 3 to 7 and 10; those of R428 and R440 have rows of their own. -/
def execWarmReset (cause : Nat) (s : State) : Host.Outcome State Fault Refusal :=
  .next (if ([3, 4, 5, 6, 7, 10].contains cause && s.mayReset) = true then s.warmReset cause else s)

/-- POWER_FAIL_RECOVERY (R428): VIN has been 0.4 V above vin_fail for 10 ms before the lockout. -/
def execPowerFailRecovery (s : State) : Host.Outcome State Fault Refusal :=
  .next (if s.pwc.failed = true ∧ s.pwc.locked = false then (s.noteHeld.setFld R.PWC_PFAIL_recovered 1).warmReset 8 else s)

/-- RESET_PIN_ASSERT (R420, R440, R527): RESET_N has been low for 100 ns, or, with `low` false, rises. `cool` says that every comparator
reads below SHUT − 10 °C. -/
def execResetPinAssert (low cool : Bool) (s : State) : Host.Outcome State Fault Refusal :=
  let set := fun (s : State) (v : Bool) => { s with flt := { s.flt with pinLow := v } }
  .next (if low then
      if s.flt.pinLow ∨ s.pwc.locked = true ∨ (s.pwc.failed = true ∧ s.pwc.recordDone = false) then s
      else if s.pwc.shut then
        if cool then (set s true).warmReset 9 else set (s.bump (R.THM_CNT_count 7)) true
      else if s.pwc.failed then s
      else
        let st := s.fld R.PWC_STATUS_state
        (set s true).warmReset (if st = 2 then 6 else if st = 3 then 7 else 3)
    else
      let s := set s false
      let s := { s with pin := { s.pin with tap := match s.pin.tap with
        | .other _ => .bypass
        | t => t } }
      if s.flt.boot = .held then { s with flt := { s.flt with boot := .verify } } else s)

/-! ## Leaving HIBERNATE and DEEP (R420, R530) -/

/-- A wake source takes the module out of HIBERNATE or DEEP, if it is enabled; the reset pin always does. -/
def State.wake (s : State) (source : Nat) : State :=
  let st := s.fld R.PWC_STATUS_state
  if s.mayReset = true ∧ (st = 2 ∨ st = 3) ∧ (source = 3 ∨ (source < 3 ∧ s.pwc.wake.testBit source = true)) then
    s.warmReset (if st = 2 then 6 else 7)
  else s

/-- HIBERNATE_WAKE (R420): source 0 an SMBus WAKE, 1 an edge on capture input 0, 2 the AON timer, 3 the reset pin. -/
def execHibernateWake (source : Nat) (s : State) : Host.Outcome State Fault Refusal := .next (s.wake source)

/-- AON_TIMER_EXPIRY (R420, R441): the time set in POWER_STATE_SET has passed. -/
def execAonTimerExpiry (s : State) : Host.Outcome State Fault Refusal := .next (s.wake 2)

/-! ## What waits for a command that is gone -/

/-- Whether command `id` is in flight with no final reply known. -/
def State.openId (s : State) (id : Nat) : Bool := ((s.cmdOf id).map Cmd.isOpen).getD false

/-- Whether a gate list waits for a command that is gone. -/
def State.listGone (s : State) (g : Gates) : Bool := (g.waiting.map fun l => !s.openId l.cmd).getD false

/-- Everything that waited for a command which is no longer open is cancelled (R489, R494); `was` is the state before the commands
ended. -/
def State.forget (s was : State) (status : Nat) : State :=
  let gone := fun (id : Nat) => !s.openId id
  -- clamps, fences, gate lists, the pending grid, loads and captures
  let s := (List.range 16).foldl (fun t g =>
    match Store.get (fun _ => none) t.clp.arms g with
    | some (_, some id) =>
      if gone id then
        { t.setFld (R.CLP_GROUP_STATUS_armed g) 0 with clp := { t.clp with arms := Store.set (fun _ => none) t.clp.arms g none } }
      else t
    | _ => t) s
  let s := (List.range 8).foldl (fun t k =>
    match Store.get (fun _ => none) t.clp.fences k with
    | some a => if gone a.cmd then t.endArm k ⟨status, 0, 0⟩ else t
    | none => t) s
  let s := (List.range 16).foldl (fun t q =>
    if t.listGone (t.gates q) then t.setGates q { t.gates q with waiting := none, waitStart := 0 } else t) s
  let s := (List.range 8).foldl (fun t p =>
    let x := t.ep p
    if t.listGone x.gates then (t.setEp p { x with gates := { x.gates with waiting := none, waitStart := 0 } }).showEthList p else t) s
  let keepGrid := (s.dmg.pendGrid.map fun g => !gone g.2.2).getD true
  let s := { s with
    dmg := { s.dmg with pendGrid := if keepGrid then s.dmg.pendGrid else none }
    scn := { s.scn with waiting := s.scn.waiting.filter fun w => !gone w.1 }
    glu := { s.glu with captures := s.glu.captures.filter fun x => !gone x.cmd }
    eng := { s.eng with probes := s.eng.probes.filter fun p => !gone p.cmd }
    lan := { s.lan with moves := s.lan.moves.filter fun m => !gone m.cmd, measures := s.lan.measures.filter fun m => !gone m.cmd }
    pnl := { s.pnl with reset := s.pnl.reset.filter fun r => !gone r.1 }
    cal := { s.cal with runs := s.cal.runs.filter fun r => !gone r.1, pass := s.cal.pass.map fun (p : Pass) => { p with cmd := p.cmd.filter fun id => !gone id } }
    pfc := { s.pfc with drain := s.pfc.drain.filter fun id => !gone id } }
  -- a module state on its way
  let stop := (s.pwc.setting.map fun p => was.openId p.1 && gone p.1).getD false
  let s := if stop then { s with pwc := { s.pwc with setting := none } } else s
  -- engine jobs
  let mine := fun (j : CmpJob) => (j.cls == 3 || (j.cls == 2 && j.dir == 1)) && gone (j.who.headD 0)
  let s := (List.range 12).foldl (fun t u => if ((t.unitJob u).map mine).getD false then t.cutUnit u else t) s
  let s := { s with cmp := { s.cmp with waiting := s.cmp.waiting.filter fun j => !mine j } }
  let s := if ((s.blk.running.map fun j => gone j.cmd).getD false) then s.cutBlit status else s
  let (out, rest) := s.blk.waiting.partition gone
  let s := out.foldl (fun t _ => (t.count (R.BLK_CNT_count 0) 1).count (R.BLK_CNT_count 3) 1) { s with blk := { s.blk with waiting := rest } }
  -- module DRAM: training, returning channels and held spans
  let s := { s with dmc := { s.dmc with trains := s.dmc.trains.filter fun x => !gone x.cmd } }
  let s := (List.range 4).foldl (fun t j =>
    if t.quadState j = 4 ∧ (t.dmc.trains.any fun x => x.quad == j) = false then t.wakeQuad j else t) s
  let runs := fun (op : Op) => s.cmd.inflight.any fun c => c.opcode == op.code && c.phase == .running
  ({ s with dmc := { s.dmc with
    returning := if runs .channelService then s.dmc.returning else none
    spans := if runs .windowSet then s.dmc.spans else [] } }.showBlk).takeWaiting

/-! ## Function-level reset (R47, R54, R93, R111, R344, R489, R493) -/

/-- Registers `lo` to `lo + n - 1` take their reset values. -/
def State.clearRegs (s : State) (lo n : Nat) : State :=
  { s with regs := s.regs.filter fun e => !(decide (lo ≤ e.1) && decide (e.1 < lo + n)) }

/-- Client `f`'s command, completion and event rings, and its HST_FN registers, are reset. -/
def State.clearRings (s : State) (f : Nat) : State :=
  let evs := (List.range 16).filter fun e => s.fld (R.CMD_EVQ_CFG_owner e) == f
  let here := s.fld (R.HST_FN_CFG_present f)
  let s := evs.foldl (fun t e => t.clearRegs (R.CMD_EVQ_BASE e) 64) (s.clearRegs (R.CMD_SQ_BASE (16 * f)) 1024)
  let s := (s.clearRegs (R.HST_FN_CFG f) 16).setFld (R.HST_FN_CFG_present f) here
  let ring := fun (i : Nat) => i / 16 == f
  let vec := fun (k : Nat) => (decide (k < 256) && ring k) || (decide (256 ≤ k) && decide (k < 272) && evs.contains (k - 256))
  let k := s.cmd
  { s with cmd := { k with
    tails := k.tails.filter fun e => !ring e.1
    catchUp := k.catchUp.filter fun e => !ring e.1
    lastRing := k.lastRing.filter fun e => e.1 != f
    turnLeft := if k.turnClient = f then 0 else k.turnLeft
    evHeads := k.evHeads.filter fun e => !evs.contains e.1
    lostSince := k.lostSince.filter fun e => !evs.contains e.1
    holdUntil := k.holdUntil.filter fun e => !vec e.1
    signalWaits := k.signalWaits.filter fun e => !vec e.1 } }

/-- Client `f`'s layers, check regions, streams, counters and keys are disabled and released. -/
def State.releaseAll (s : State) (f : Nat) : State :=
  let s := (List.range 64).foldl (fun t n =>
    if t.fld (R.SCN_LAYER_STATUS_owned n) = 1 ∧ t.fld (R.SCN_LAYER_STATUS_owner n) = f then t.releaseLayer n else t) s
  let s := (List.range 256).foldl (fun t c =>
    if t.fld (R.GLU_SQC_CTL_owned c) = 1 ∧ t.fld (R.GLU_SQC_CTL_owner c) = f then
      let t := t.setCheckShadow c { t.checkShadow c with enable := false }
      { t with glu := { t.glu with releasing := t.glu.releasing ++ [c] } }
    else t) s
  let s := (List.range 64).foldl (fun t v =>
    if t.fld (R.SCN_TRS_STREAM_stream_id v) ≠ 0 ∧ t.slotOwner v = f then t.unbind v else t) s
  let s := (List.range 256).foldl (fun t n =>
    if t.fld (R.PFC_CTL_owner n) = f then ((t.setReg (R.PFC_CTL n) 0).setReg (R.PFC_THRESH n) 0).setReg (R.PFC_VAL n) 0 else t) s
  let mine := fun (e : Nat × Option KeySlot) => (e.2.map fun k => k.owner == f).getD false
  { s with
    trs := { s.trs with keks := s.trs.keks.filter fun e => !mine e, keys := s.trs.keys.filter fun e => !mine e }
    hst := { s.hst with readLatch := s.hst.readLatch.filter fun e => e.1 != f, writeStage := s.hst.writeStage.filter fun e => e.1 % 16 != f } }

/-- A function-level reset of client `f`, or what R54 asks for when the client ceases to be present. -/
def State.resetClient (s : State) (f cause : Nat) : State :=
  let was := s
  let (s, es) := s.closeCommands [f] stReset
  let s := (s.forget was stReset).releaseAll f
  let rs := (List.range 512).filter fun r => s.fld (R.ETH_RXQ_CFG_enable r) == 1 && s.fld (R.ETH_RXQ_CFG_owner r) == f
  let ts := (List.range 64).filter fun t => s.fld (R.ETH_TXQ_CFG_enable t) == 1 && s.fld (R.ETH_TXQ_CFG_owner t) == f
  let (s, discarded) := s.cutEthRings rs ts
  let s := (s.clearRings f).bump (R.FLT_CNT_count 1)
  let rep : Report :=
    { level := 3, cause := cause, client := f, time := s.now, f := s.ptp.f, cut := es.length, truing := s.outcomes
      ethDiscarded := discarded, entries := es }
  let s := { s with flt := { s.flt with fnReports := Store.set (fun _ => none) s.flt.fnReports f (some rep) } }
  let s := (s.setFld (R.FLT_FN_REPORT_entries f) (min 65535 es.length)).setFld (R.FLT_FN_REPORT_held f) 1
  (s.announce rep (some f)).postNotices

/-- FUNCTION_LEVEL_RESET (R487, R489): an FLR of a client that is present, or with `linkB` a hot reset or link-down reset of link B,
which is client 8's. -/
def execFunctionLevelReset (f : Nat) (linkB : Bool) (s : State) : Host.Outcome State Fault Refusal :=
  .next (if s.hostCut then s
    else if linkB then (if s.bifurcated then s.resetClient 8 12 else s)
    else if f < 16 ∧ s.present f = true then s.resetClient f 11
    else s)

/-- PERST_ASSERT (R487, R527): the PCIe fundamental reset of link A or B. -/
def execPerstAssert (linkB : Bool) (s : State) : Host.Outcome State Fault Refusal :=
  .next (if linkB then (if (s.bifurcated && !s.hostCut) = true then s.resetClient 8 12 else s)
    else if s.mayReset then s.warmReset 4 else s)

/-- TotalVFs of PF0's SR-IOV capability (R54). -/
def totalVFs (twoLinks : Bool) : Nat := if twoLinks then 14 else 15

/-- Whether client `f` is present under these settings (R54). -/
def presentWith (twoLinks vfEnable : Bool) (numVFs : Nat) (linkBUp : Bool) (f : Nat) : Bool :=
  if f = 0 then true
  else if twoLinks then
    if f = 8 then linkBUp else vfEnable && decide ((if f < 8 then f else f - 1) ≤ min numVFs (totalVFs true))
  else vfEnable && decide (f ≤ min numVFs (totalVFs false))

/-- New settings of R54; each client that ceases to be present is reset. -/
def State.setPresence (s : State) (vfEnable : Bool) (numVFs : Nat) (linkBUp : Bool) : State :=
  let now := presentWith s.bifurcated vfEnable numVFs linkBUp
  let s' := { s with hst := { s.hst with vfEnable := vfEnable, numVFs := numVFs, linkBUp := linkBUp } }
  (List.range 16).foldl (fun t f =>
    let was := t.present f
    let t := t.setFld (R.HST_FN_CFG_present f) (bit (now f))
    if was && !now f then t.resetClient f (if s.bifurcated && f == 8 then 12 else 11) else t) s'

/-- CLIENT_PRESENCE_CHANGE (R54, R489). -/
def execClientPresenceChange (vfEnable : Bool) (numVFs : Nat) (linkBUp : Bool) (s : State) : Host.Outcome State Fault Refusal :=
  .next (if s.hostCut then s else s.setPresence vfEnable numVFs linkBUp)

/-- The widths at which a host link settles (R53). -/
def linkWidths (twoLinks : Bool) : List Nat := if twoLinks then [1, 2, 4, 8] else [1, 2, 4, 8, 16]

/-- HOST_LINK_TRAINED (R52 to R54, R280, R291): link 0 (A) or 1 (B) settles at a rate code of HST_LINK_STATUS and a width; below 16 GT/s
HOST_LINK_SLOW goes out. -/
def execHostLinkTrained (link rate width : Nat) (flit : Bool) (lanes : LinkLanes) (s : State) : Host.Outcome State Fault Refusal :=
  .next (if s.hostCut ∨ 1 < link ∨ (link = 1 ∧ s.bifurcated = false) ∨ 6 < rate ∨ (rate ≠ 0 ∧ (linkWidths s.bifurcated).contains width = false) then s
    else
      let width := if rate = 0 then 0 else width
      let s := ((s.setFld (R.HST_LINK_STATUS_rate link) rate).setFld (R.HST_LINK_STATUS_width link) width).setFld (R.HST_LINK_STATUS_flit link)
        (bit (flit && rate != 0))
      let s := (List.range (if s.bifurcated then 8 else 16)).foldl (fun t l =>
        t.settleLane (192 + 8 * link + l) l rate width (lanes.inverted.testBit l) (lanes.precoded.testBit l)
          (lanes.rxPrecoded.testBit l) (lanes.taps.getD l [])) s
      let s := if 0 < rate ∧ rate < 4 then s.post 0x0100 link rate else s
      if link = 1 then s.setPresence s.hst.vfEnable s.hst.numVFs (decide (rate ≠ 0)) else s)

/-! ## Block-level resets (R494, R501) -/

/-- The firmware block is reset (R494): every command in flight but `but` ends, and firmware restarts. -/
def State.resetFirmware (s : State) (cause : Nat) (but : Option Nat) : State :=
  let was := s
  let ids := (s.cmd.inflight.filter fun c => c.isOpen && some c.id != but).map Cmd.id
  let s := s.abortBlits stReset
  let sw := fun (j : CmpJob) => j.cls == 3 || (j.cls == 2 && j.dir == 1)
  let s := (List.range 12).foldl (fun t u => if ((t.unitJob u).map sw).getD false then t.cutJob u stReset else t) s
  let s := ids.foldl (fun t id => t.abort id stReset) s
  let s := (s.forget was stReset).cutPass
  let s := { s with flt := { s.flt with fwRestarting := true } }
  ((s.bump (R.FLT_CNT_count 2)).bump (R.FLT_CNT_count 3)).post 0x0E01 0 (cause + min 65535 ids.length * 65536)

/-- FIRMWARE_WATCHDOG_EXPIRY (R494). -/
def execFirmwareWatchdogExpiry (s : State) : Host.Outcome State Fault Refusal :=
  .next (if s.flt.boot ≠ .up ∨ s.flt.fwRestarting = true ∨ s.hostCut = true then s else s.resetFirmware 14 none)

/-- The compression and block engines are reset (R494): their commands end with ABORTED_BY_RESET. -/
def State.resetEngines (s : State) : State :=
  let s := s.cutEngines stReset
  let ws := s.cmp.waiting
  let s := ws.foldl (fun t j => t.jobCut j stReset) { s with cmp := { s.cmp with waiting := [] } }
  let ids := (s.cmd.inflight.filter fun c =>
    c.isOpen && c.phase != .queued && (c.opcode == Op.compJob.code || c.opcode == Op.blitJob.code || c.opcode == Op.sampleDrain.code)).map Cmd.id
  let s := ids.foldl (fun t id => t.abort id stReset) s
  { s with pfc := { s.pfc with drain := none } }

/-- BLOCK_RESET (R494, R501): for block 3, the reply comes with the restarted firmware. -/
def execBlockReset (id : Nat) (bus : Bus) (s : State) : Host.Outcome State Fault Refusal :=
  .next (s.runOp id .blockReset fun c s =>
    let block := c.pb 8 0 2
    if block = 0 then s.refuse c stBadParam 1
    else if block = 1 then (s.cutPipes.bump (R.FLT_CNT_count 2)).finishOne c
    else if block = 2 then (s.resetEngines.bump (R.FLT_CNT_count 2)).finishOne c
    else (s.hold c).resetFirmware 13 (some id))

/-- MODULE_RESET (R500): the command stands in the report with its one item done. -/
def execModuleReset (id : Nat) (bus : Bus) (s : State) : Host.Outcome State Fault Refusal :=
  .next (s.runOp id .moduleReset fun c s =>
    if c.p 8 4 ≠ 0x52535457 then s.refuse c stBadParam 1
    else (s.setCmd { c with phase := .running, items := [some ⟨stDone, 0, 0⟩] }).warmReset 5)

/-! ## Internal faults (R496, R497) -/

/-- STATE_RAM_PARITY_ERROR (R497): a RAM that can be rebuilt is, and counted; any other error is a warm reset with INTERNAL_FAULT
after it. -/
def execStateRamParityError (rebuildable : Bool) (ram addr : Nat) (s : State) : Host.Outcome State Fault Refusal :=
  .next (if rebuildable then s.bump (R.FLT_CNT_count 6)
    else if s.mayReset then
      let t := (s.warmReset 10).bump (R.FLT_CNT_count 7)
      { t with flt := { t.flt with afterBoot := t.flt.afterBoot ++ [(0x0E03, ram, addr % 65536)] } }
    else s)

/-- UNCORE_FAULT (R307, R496): the four bents of ray die `die` are retired; `ready` gives the rays written by bay. -/
def execUncoreFault (die : Nat) (ready : List (Nat × Nat)) (s : State) : Host.Outcome State Fault Refusal :=
  .next (if 2 ≤ die then s else (List.range 4).foldl (fun t j => t.retireBent (4 * die + j) 3 ready) s)

end Sys2Proof.Machine
end

