-- ==== Sys2Proof/Machine/Boot.lean ====
section
/-! DEFINITION. The boot: firmware images, the scan of the journal, and what stands when the module is up (R301, R309, R381, R416 to
R419, R446, R460 to R464, R489, R493, R512). -/

namespace Sys2Proof.Machine

open Sys2Proof

/-! ## Firmware (R463, R464, R494, R501) -/

/-- Clock `c` runs at `mhz`. -/
def State.runClock (s : State) (c mhz : Nat) : State := (s.setFld (R.PWC_CLK_mhz c) mhz).setFld (R.PWC_CLK_running c) 1

/-- The clocks of AON and MGT run (R417). -/
def State.startClocks (s : State) : State :=
  ((((s.runClock 0 0).runClock 1 8).runClock 2 156).runClock 3 800).runClock 20 1000

/-- Firmware is back after a block reset: the BLOCK_RESET that asked for it is answered (R501). -/
def State.firmwareBack (s : State) (b : Bus) : State :=
  let s := { s with flt := { s.flt with fwRestarting := false } }
  match s.cmd.inflight.find? fun c => c.opcode == Op.blockReset.code && c.phase == .running with
  | some c => s.finishOne c
  | none => s

/-- The boot ROM takes a slot (R463): the one marked for a trial at a warm reset, else the active one; the other one where that
fails. An unconfirmed trial is over (R464). -/
def State.bootVerify (s : State) (b : Bus) : State :=
  let again := s.flt.fwRestarting
  if again = false ∧ s.flt.boot ≠ .verify then s
  else
    let active := s.fld R.SPL_FW_STATUS_active
    let warm := ((s.flt.report.map fun r => decide (2 ≤ r.level)).getD false)
    let trial := s.spl.trialMark && !again && warm
    let want := if trial then 1 - active else active
    let late := s.fld R.SPL_FW_STATUS_trial == 1 || s.spl.fallbackCause == 2
    let pick := if s.slotOk want then some want else if s.slotOk (1 - want) then some (1 - want) else none
    match pick with
    | none => { s with flt := { s.flt with boot := .failed } }
    | some k =>
      let cause := if k ≠ want then 1 else if late then 2 else 0
      let s := (s.setFld R.SPL_FW_STATUS_trial (bit (trial && k == want))).setFld R.SPL_FW_STATUS_fallback (bit (cause != 0))
      let s := ((s.setFld R.SPL_FW_STATUS_verified 0).showVersion 0).showVersion 1
      let s := s.setFld R.GLB_FW_VER_version (s.slotField k 8 8)
      let s := { s with spl := { s.spl with
        running := k, fallbackCause := cause % 2, trialMark := s.spl.trialMark && !trial } }
      if again then (if cause = 0 then s else s.post 0x0402 k cause).firmwareBack b
      else
        let s := s.startClocks
        { s with flt := { s.flt with
          boot := .scan
          afterBoot := s.flt.afterBoot ++ (if cause = 0 then [] else [(0x0402, k, cause)]) } }

/-- FIRMWARE_BOOT_VERIFY (R463, R464, R494): at a boot, or where firmware restarts. -/
def execFirmwareBootVerify (bus : Bus) (s : State) : Host.Outcome State Fault Refusal := .next (s.bootVerify bus)

/-- TRIAL_CONFIRM_EXPIRY (R464): 600 s without a confirmation; the next boot takes the previous slot. -/
def execTrialConfirmExpiry (s : State) : Host.Outcome State Fault Refusal :=
  .next (if s.fld R.SPL_FW_STATUS_trial = 1 then
      { s.setFld R.SPL_FW_STATUS_trial 0 with spl := { s.spl with fallbackCause := 2 } }
    else s)

/-! ## The journal (R460 to R462, R512) -/

/-- What an interruption has left in the journal (R460), and whether the factory page can be read (R461, R462). -/
def State.scanJournal (s : State) (factoryBad : Bool) : State :=
  let torn := if s.spl.programmed then s.spl.queue.head? else none
  let s := match torn with
    | some n => ((s.setFld R.SPL_LAST_BAD_kind n.kind).setFld R.SPL_LAST_BAD_key n.key).bump (R.SPL_CNT_count 4)
    | none => s
  let s := (s.setFld R.SPL_STATUS_interrupted (bit torn.isSome)).setFld R.SPL_STATUS_erase_redone (bit s.spl.erasing.isSome)
  let s := { s with spl := { s.spl with queue := [], programmed := false } }
  let s := s.setFld R.SPL_STATUS_read_only (bit (decide (1008 < s.spl.bad.length)))
  let s := (s.setFld R.SPL_STATUS_first_use (bit s.spl.records.isEmpty)).setFld R.SPL_STATUS_factory_bad (bit factoryBad)
  let s := (s.setFld R.SPL_SEQ_seq ((s.spl.records.map Record.seq).foldl max 0)).showSectors
  if factoryBad then
    let s := (s.setReg R.GLB_SERIAL 0).setFld R.GLB_STEP_page_format 0
    (List.range 8).foldl (fun t b => (t.setFld (R.CAL_BENT_PLAN_offset b) 10).setFld (R.CAL_BENT_PLAN_ceiling b) 40) s
  else s

/-- The record in force of a class A item: its target, count and time; outside AON, and at a cold reset, its DAC (R446). -/
def State.bootItem (s : State) (cold : Bool) (i : Nat) : State :=
  match s.inForce 1 i with
  | none => s
  | some r =>
    let s := s.setFld (R.CAL_ITEM_STATE_target i) (leAt r.body 0 2)
    let s := (s.setFld (R.CAL_ITEM_COUNT_count i) (leAt r.body 2 4)).setFld (R.CAL_ITEM_TIME_time i) r.time
    (if cold || !isAonItem i then s.setFld (R.CAL_ITEM_STATE_dac i) (leAt r.body 0 2) else s).showSlew i

/-- The plan, the ageing and the state of bent `b` (R309, R450, R451). -/
def State.bootBent (s : State) (b : Nat) : State :=
  let s := match s.inForce 5 b with
    | some r => s.showAge b ((List.range 4).map fun k => leAt r.body (4 * k) 4)
    | none => s
  let s := match s.inForce 4 b with
    | some r =>
      let (o, c, _) := planOf r.body
      let s := (s.setFld (R.CAL_BENT_PLAN_offset b) o).setFld (R.CAL_BENT_PLAN_ceiling b) c
      let d := s.daysLeft b
      (s.setFld (R.CAL_BENT_PLAN_days_left b) d).setFld (R.CAL_BENT_PLAN_low b) (bit (decide (d < s.fld R.CAL_TRUE_CFG_warn_days)))
    | none => s
  match s.inForce 7 b with
  | some r =>
    if leAt r.body 0 1 = 4 then (s.setFld (R.ENG_BENT_STATUS_state b) 4).setFld (R.ENG_BENT_STATUS_cause b) (leAt r.body 1 1) else s
  | none => s

/-- The failed-engine map of bay `q`: the record in force, or the factory page's (R309). -/
def State.bootBay (s : State) (q : Nat) : State :=
  let off := R.ENG_BAY_MAP (q / 8) (q % 8)
  let v := match s.inForce 6 q with
    | some r => BitVec.ofNat 64 (leAt r.body 0 4)
    | none => if s.fld R.SPL_STATUS_factory_bad = 1 then resetReg off else Config.factoryReg off
  -- the reserved bits and in_service are not the map's
  s.setReg off (v &&& 0xBFFF)

/-- What the records in force give the registers (R309, R382, R446, R460, R512). -/
def State.applyJournal (s : State) (cold : Bool) : State :=
  let s := (List.range 128).foldl (fun t i => t.bootItem cold i) s
  let s := (List.range 64).foldl State.bootBay ((List.range 8).foldl State.bootBent s)
  let s := (List.range 16).foldl (fun t k =>
    match t.inForce 3 k with
    | some r => (t.setFld (R.DMC_TRAIN_TIME_time (k / 4)) (max r.time (t.fld (R.DMC_TRAIN_TIME_time (k / 4))))).setFld
        (R.DMC_QUAD_STATUS_history (k / 4)) (t.fld (R.DMC_QUAD_STATUS_history (k / 4)) ||| 2 ^ (k % 4))
    | none => t) s
  let out := (List.range 32).filter fun k => ((s.inForce 8 k).map fun r => leAt r.body 0 1 == 1).getD false
  s.showChannels (out.foldl (fun m k => maskPut m k false) 0xFFFFFFFF)

/-! ## Module DRAM, domains and links -/

/-- The quads leave self-refresh at their points; after a loss of content each channel has been verified and, where that failed,
trained: `fails` are the channels whose training failed, `trained` the points trained, by key 4 j + k, with their trims (R381, R489). -/
def State.bootDram (s : State) (lost : Bool) (fails : List Nat) (trained : List (Nat × List Byte)) : State :=
  let s := if lost then
      let s := (trained.filter fun e => decide (e.1 < 16)).foldl (fun t e => t.record { kind := 3, key := e.1, body := e.2 }) s
      fails.foldl (fun t k => if k < 32 ∧ (t.fld R.DMC_CH_OK_ok).testBit k = true then t.mapOut k 1 else t) s
    else s
  (List.range 4).foldl (fun t j => (t.wakeQuad j).retimeQuad j) s

/-- Domains and links as RUN begins: the NoC, the bents that stay awake, the panel link under auto, the ports with a mode, and the
Worvel ports of a wall (R301, R416 to R419, R489). -/
def State.bootDomains (s : State) : State :=
  let s := ((s.setNoc 0 0).setNoc 1 0).runClock 18 1000
  let s := (s.setPart 24 26 3).setPart 25 27 3
  let may := bentOrder.filter fun b => s.fld (R.ENG_BENT_STATUS_state b) != 4 && (bentZones b).all fun z => s.fld (R.THM_ZONE_crit z) == 0
  let first := may.take (s.fld R.ENG_PLACE_CFG_awake_min)
  let s := (List.range 8).foldl (fun t b =>
    if first.contains b then t.wakeBent b [] else (t.setDomain (5 + b) 3).setBentClock b 0) s.showBays
  let ports := (List.range 8).filter fun p => s.fld (R.ETH_PORT_CFG_mode p) != 0
  let s := if ports.isEmpty then (s.offDomain 3).offDomain 4 else s.runClock 19 1250
  let s := ports.foldl (fun t p => t.ethTrain p (t.fld (R.ETH_PORT_CFG_mode p))) s
  let s := (List.range 4).foldl (fun t p => t.setPort t.walled p) (s.setWvlDomain s.walled)
  if s.fld R.PNL_LINK_CFG_auto = 1 then s.enterTrain 0 else (List.range 4).foldl (fun t j => t.setLaneQuad j 3) s

/-- The module is up: its report stands, and what waited for the boot is posted (R460, R493). -/
def State.bootDone (s : State) : State :=
  let torn := s.fld R.SPL_STATUS_interrupted == 1 || s.fld R.SPL_STATUS_erase_redone == 1
  let rep : Option Report := s.flt.report.map fun r => { r with
    interrupted := torn
    truing := s.outcomes
    kindKey := s.fld R.SPL_LAST_BAD_kind + s.fld R.SPL_LAST_BAD_key % 256 * 256 }
  let s := s.flt.afterBoot.foldl (fun t e => t.post e.1 e.2.1 e.2.2) s
  let s := { s with flt := { s.flt with boot := .up, report := rep, afterBoot := [] } }
  let s := ((s.setFld R.SPL_STATUS_ready 1).showReport).setFld R.FLT_RESET_STATUS_report_ready (bit rep.isSome)
  match rep with
  | some r => (s.announce r none).postNotices
  | none => s

/-- JOURNAL_BOOT_SCAN (R460): firmware has scanned the journal; with it the boot ends. `factoryBad` says that both copies of the
factory page fail. -/
def execJournalBootScan (factoryBad : Bool) (fails : List Nat) (trained : List (Nat × List Byte)) (s : State) :
    Host.Outcome State Fault Refusal :=
  .next (if s.flt.boot ≠ .scan then s
    else
      let cold := ((s.flt.report.map fun r => r.level == 1).getD true)
      let lost := ((s.flt.report.map fun r => r.dramLost).getD true)
      let shut := ((s.flt.report.map fun r => r.cause == 9).getD false)
      let s := (s.scanJournal factoryBad).applyJournal cold
      let s := if shut then s.record { kind := 10, key := 0, body := leBytes 4 (s.reg R.THM_SHUT_CAUSE).toNat } else s
      ((s.bootDram (cold || lost) fails trained).bootDomains).bootDone)

end Sys2Proof.Machine
end

