-- ==== Sys2Proof/Machine/Ledger.lean ====
section
/-! DEFINITION. The ledger record, the summaries that carry its digest, and post-reset reports as commands read them (R86, R114, R177,
R209, R224, R237, R258, R311, R319, R326, R334, R336, R358, R372, R403, R415, R483, R492, R493, R498, R499, R502, R503). -/

namespace Sys2Proof.Machine

open Sys2Proof

/-! ## The sections of the record (R498) -/

/-- A section of the record: its entries, and whether every invariant of it holds. -/
structure Section where
  entries : List (List Byte)
  ok : Bool
deriving DecidableEq, Repr

/-- Terms of 64 bits. -/
def terms64 (l : List Nat) : List Byte := l.flatMap (leBytes 8)

/-- A term of 128 bits, two's complement. -/
def term128 (v : Int) : List Byte := leBytes 16 (toField 128 v)

/-- The ledger's value of a counter. -/
def State.led (s : State) (l : Loc) : Nat := s.term l.off

/-- Section 1 (R86): a ring pair. -/
def State.pairTerms (s : State) (i : Nat) : List Nat :=
  let cs := s.cmd.inflight.filter fun c => c.pair == i
  let two := (cs.filter fun c => c.defers).length
  [Store.get (fun _ => 0) s.cmd.fetched i, Store.get (fun _ => 0) s.cmd.finals i, two, cs.length - two,
    (cs.filter fun c => c.second).length, s.reservedOf i, s.filledOf i, s.cqSize i]

/-- The invariants of R86 on the terms of a pair. -/
def pairHolds (t : List Nat) : Bool :=
  let x := fun k => t.getD k 0
  x 0 == x 1 + x 2 + x 3 && x 5 + x 4 == 2 * x 2 + x 3 && decide (x 6 + x 5 ≤ x 7 - 1)

def State.section1 (s : State) : Section :=
  let ts := (List.range 256).map s.pairTerms
  ⟨ts.map terms64, ts.all pairHolds⟩

/-- Section 2 (R114): a stream slot; counter 11 is the level of units in progress. -/
def State.streamTerms (s : State) (v : Nat) : List Nat :=
  ((List.range 16).map fun k => if k = 11 then s.inProgress v else s.led (R.SCN_TRS_CNT_count v k)) ++ [s.term (trsStarted v)]

def streamHolds (t : List Nat) : Bool :=
  let x := fun k => t.getD k 0
  x 0 == x 1 + x 2 + x 3 + x 4 + x 5 + x 6 && x 16 == x 8 + x 9 + x 10 + x 11

def State.section2 (s : State) : Section :=
  let ts := (List.range 64).map s.streamTerms
  ⟨ts.map terms64, ts.all streamHolds⟩

/-- Section 3 (R177): a check region, with its pending first comparisons and re-syntheses. -/
def State.checkTerms (s : State) (c : Nat) : List Nat :=
  let first := (s.glu.pending.filter fun p => p.2 == c).length
  let again := (s.sch.again.filter fun a => a.check == c).length +
    (s.sch.jobs.filter fun j => j.again && j.stage != .buffered && (j.check.map Prod.fst) == some c).length
  ((List.range 7).map fun k => s.led (R.GLU_SQC_CNT_count c k)) ++ [s.led (R.GLU_SQC_CNT_count c 8), first, again]

def checkHolds (t : List Nat) : Bool :=
  let x := fun k => t.getD k 0
  x 0 == x 1 + x 2 + x 6 + x 8 && x 2 == x 3 + x 4 + x 5 + x 7 + x 9

def State.section3 (s : State) : Section :=
  let ts := (List.range 256).map s.checkTerms
  ⟨ts.map terms64, ts.all checkHolds⟩

/-- The regions of the active grid in state `k` (DMG_STATE_CNT). -/
def State.regionsIn (s : State) (k : Nat) : Nat :=
  let listed := (s.dmg.regions.filter fun e => e.2.state == k && decide (e.1 < s.regionCount)).length
  if k = 0 then s.regionCount - (s.dmg.regions.filter fun e => e.2.state != 0 && decide (e.1 < s.regionCount)).length else listed

/-- Section 4 (R209). -/
def State.section4 (s : State) : Section :=
  let d := fun k => s.regionsIn k
  let n := fun k => s.led (R.DMG_CNT_count k)
  ⟨[terms64 ((List.range 5).map d ++ (List.range 10).map n ++ [0])],
    d 0 + d 1 + d 2 + d 3 + d 4 == s.regionCount && n 0 == n 1 + n 2 + n 3 && n 2 + n 4 + n 5 == n 6 + n 7 + d 1 &&
      n 6 == n 9 + n 4 + n 5 + d 2 + d 3 + d 4⟩

/-- Section 5 (R224): the credit terms of a class node, equal modulo 2^96. -/
def Node.terms (x : Node) : List Int := [x.credit, x.e, x.s, x.h, x.l, x.z]

def Node.holds (x : Node) : Bool := (x.credit - (x.e - x.s - x.h + x.l - x.z)) % (2 ^ 96 : Int) == 0

def State.section5 (s : State) : Section :=
  let ns := (List.range 256).map s.node
  ⟨ns.map fun x => x.terms.flatMap term128, ns.all Node.holds⟩

/-- The entries queued at a class node (SCH_CLASS_CNT, k = 6). -/
def State.queuedAt (s : State) (k : Nat) : Nat := (s.entriesOf k).length

/-- Section 6 (R237). -/
def State.classTerms (s : State) (k : Nat) : List Nat :=
  ((List.range 6).map fun j => s.led (R.SCH_CLASS_CNT_count (k / 16) (k % 16) j)) ++ [s.queuedAt k]

def classHolds (t : List Nat) : Bool :=
  let x := fun k => t.getD k 0
  x 0 + x 4 == x 1 + x 2 + x 3 + x 6

def State.section6 (s : State) : Section :=
  let ts := (List.range 256).map s.classTerms
  let sum := fun k => (ts.map fun t => t.getD k 0).sum
  let n := fun k => s.led (R.DMG_CNT_count k)
  ⟨ts.map terms64, ts.all classHolds && sum 3 == sum 4 && sum 0 == n 2 + n 4 + n 5 && sum 1 == n 6 && sum 2 == n 7⟩

/-- A credit pool (R258): the terms G, U, R, Xa and Xo, with what they leave available and outstanding, and whether neither is
negative. -/
def poolTerms (g u r xa xo : Nat) : List Nat := [g, u, r, xa, xo, g + r - u - xa, u - r - xo]

def poolHolds (g u r xa xo : Nat) : Bool := decide (u + xa ≤ g + r) && decide (r + xo ≤ u)

/-- Section 7 (R258). -/
def State.section7 (s : State) : Section :=
  let gs := (List.range 16).map s.pg
  ⟨gs.map fun g => terms64 (poolTerms g.g g.u g.r g.xa g.xo), gs.all fun g => poolHolds g.g g.u g.r g.xa g.xo⟩

/-- Section 8 (R311). -/
def State.section8 (s : State) : Section :=
  let n := fun k => s.led (R.ENG_CNT_count k)
  ⟨[terms64 ((List.range 9).map n ++ (List.range 64).map fun q => (s.reg (R.ENG_BAY_MAP (q / 8) (q % 8))).toNat)],
    n 0 == n 1 + n 7 + n 8 && decide (n 3 ≤ n 1) &&
      (List.range 64).all fun q => s.fld (R.ENG_BAY_MAP_in_service (q / 8) (q % 8)) == 0 || s.slotsServed q⟩

/-- Section 9 (R320, R334): a Worvel port. -/
def State.section9 (s : State) : Section :=
  let relay := fun p => [s.term (relayTaken p), s.led (R.WVL_PORT_CNT_count p 5), s.led (R.WVL_PORT_CNT_count p 6), (s.wp p).relay.length]
  ⟨(List.range 4).map fun p => let x := s.wp p; terms64 (poolTerms x.g x.u x.r x.xa x.xo ++ relay p),
    (List.range 4).all fun p =>
      let x := s.wp p
      let t := relay p
      poolHolds x.g x.u x.r x.xa x.xo && t.getD 0 0 == t.getD 1 0 + t.getD 2 0 + t.getD 3 0⟩

/-- The terms of transmit ring `t` (R358); a descriptor is in flight only within one step. -/
def State.ringTerms (s : State) (t : Nat) : List Nat := [s.term (txTerm t 0), s.term (txTerm t 1), s.term (txTerm t 2), 0]

/-- Section 10 (R358), by entries: per port its counters, then its eight rings. -/
def State.section10 (s : State) : Section :=
  let n := fun p k => s.led (R.ETH_PORT_CNT_count p k)
  let rings := fun p => (List.range 8).map fun i => s.ringTerms (8 * p + i)
  ⟨(List.range 8).flatMap fun p => terms64 ((List.range 9).map (n p)) :: (rings p).map terms64,
    (List.range 8).all fun p =>
      n p 0 == n p 1 + n p 2 + n p 3 + n p 4 + n p 5 + n p 6 + n p 7 + n p 8 &&
      (rings p).all fun t => t.getD 0 0 == t.getD 1 0 + t.getD 2 0⟩

/-- Section 11 (R372): a channel. -/
def State.section11 (s : State) : Section :=
  let ts := (List.range 32).map fun k => ((List.range 3).map fun j => s.led (R.DMC_CH_CNT_count k j)) ++ [(s.chQueue k).length]
  ⟨ts.map terms64, ts.all fun t => t.getD 0 0 == t.getD 1 0 + t.getD 2 0 + t.getD 3 0⟩

/-- Section 12 (R403): a direction and a requester class. -/
def State.cmpTerms (s : State) (d c : Nat) : List Nat :=
  let js := ((List.range 12).filterMap s.unitJob).filter fun j => j.dir == d && j.cls == c
  let t := fun k => s.term (cmpTerm d c k)
  [t 0, t 1, t 2, (js.map CmpJob.src).sum, t 4, t 5, t 6, (js.map CmpJob.dst).sum]

def State.section12 (s : State) : Section :=
  let ts := [0, 1].flatMap fun d => [1, 2, 3].map fun c => s.cmpTerms d c
  ⟨ts.map terms64, ts.all fun t =>
    t.getD 0 0 == t.getD 1 0 + t.getD 2 0 + t.getD 3 0 && t.getD 4 0 == t.getD 5 0 + t.getD 6 0 + t.getD 7 0⟩

/-- Section 13 (R415). -/
def State.section13 (s : State) : Section :=
  let n := fun k => s.led (R.BLK_CNT_count k)
  let running := bit s.blk.running.isSome
  let waiting := s.blk.waiting.length
  ⟨[terms64 [s.term blkFetched, n 0, n 1, n 3, running, waiting]],
    n 0 == n 1 + n 3 + running && n 0 + waiting == s.term blkFetched⟩

/-- Section 14 (R483). -/
def State.section14 (s : State) : Section :=
  let w := s.led R.PFC_BUF_WRITTEN_records
  let l := s.led R.PFC_BUF_LOST_records
  ⟨[terms64 [s.term recordsMade, w, l, s.pfc.queue.length]], s.term recordsMade == w + l + s.pfc.queue.length⟩

/-- The sections of the record, in order. -/
def State.ledgerSections (s : State) : List Section :=
  [s.section1, s.section2, s.section3, s.section4, s.section5, s.section6, s.section7, s.section8, s.section9, s.section10,
    s.section11, s.section12, s.section13, s.section14]

/-! ## The record (R498, R499, R503) -/

/-- The mask of the sections of which an invariant fails. -/
def State.broken (s : State) : Nat :=
  ((s.ledgerSections.zip (List.range 14)).map fun e => if e.1.ok then 0 else 2 ^ e.2).sum

/-- Whether client `f` reads entry `j` of section `k`: PF0 reads all; another client reads of the rings, streams, check regions and
Ethernet rings only its own (R503). -/
def State.ownsEntry (s : State) (f k j : Nat) : Bool :=
  f == 0 ||
  match k with
  | 1 => j / 16 == f
  | 2 => s.fld (R.SCN_TRS_STREAM_stream_id j) != 0 && s.slotOwner j == f
  | 3 => s.fld (R.GLU_SQC_CTL_owned j) == 1 && s.fld (R.GLU_SQC_CTL_owner j) == f
  | 10 => j % 9 == 0 || s.fld (R.ETH_TXQ_CFG_owner (8 * (j / 9) + j % 9 - 1)) == f
  | _ => true

/-- A section as client `f` receives it: an entry that is not its own is all zeros. -/
def State.sectionFor (s : State) (f k : Nat) (x : Section) : List Byte :=
  (x.entries.zip (List.range x.entries.length)).flatMap fun e => if s.ownsEntry f k e.2 then e.1 else List.replicate e.1.length 0

/-- Bytes 64 to 90,615 of the record for client `f`. -/
def State.ledgerBody (s : State) (f : Nat) : List Byte :=
  (s.ledgerSections.zip (List.range 14)).flatMap fun e => s.sectionFor f (e.2 + 1) e.1

/-- The header of the record over a body. -/
def State.ledgerHeader (s : State) (body : List Byte) : List Byte :=
  leBytes 4 90616 ++ leBytes 2 1 ++ leBytes 2 14 ++ leBytes 8 s.now ++ leBytes 8 s.ptp.f ++ leBytes 4 s.broken ++
    leBytes 4 (crc32c body) ++ leBytes 4 (s.fld (R.FLT_CNT_count 0)) ++ List.replicate 28 0

/-- A snapshot is counted, and a broken one counted and posted (R499). -/
def State.countSnapshot (s : State) : State :=
  let m := s.broken
  let s := s.bump (R.FLT_CNT_count 4)
  if m = 0 then s else (s.bump (R.FLT_CNT_count 5)).post 0x0E02 0 m

/-- LEDGER_SNAPSHOT (R498, R499, R503): the reply's detail holds the broken mask. -/
def execLedgerSnapshot (id : Nat) (bus : Bus) (s : State) : Host.Outcome State Fault Refusal :=
  .next (s.runOp id .ledgerSnapshot fun c s =>
    let body := s.ledgerBody c.client
    let m := s.broken
    let record := s.ledgerHeader body ++ body
    let (s, ok) := s.countSnapshot.dstWrite bus c (c.flag 16 0) (c.p 8 8) record
    let i : Item := ⟨if ok then stDone else stFault, 0, 0⟩
    s.putReply { c with items := [some i] } (if ok then stDone else stFault) 1 (bit i.isDone) (1 - bit i.isDone) m)

/-! ## Summaries (R319, R326, R336, R499) -/

/-- The gate digest (R326): for lane groups 0 to 15 the cycle, anchor, count and entries of the active list, 8 zero bytes without one. -/
def State.gateDigest (s : State) : Nat :=
  crc32c ((List.range 16).flatMap fun q => match (s.gates q).active with
    | none => List.replicate 8 0
    | some l => leBytes 4 l.cycle ++ leBytes 2 l.anchor ++ leBytes 2 l.entries.length ++
        l.entries.flatMap fun e => leBytes 8 (e.1 + e.2 * 65536))

/-- First mismatches of all check regions, and underruns of all groups, so far. -/
def State.mismatches (s : State) : Nat := ((List.range 256).map fun c => s.led (R.GLU_SQC_CNT_count c 2)).sum
def State.underruns (s : State) : Nat := ((List.range 16).map fun q => s.led (R.PNL_GROUP_CNT_count q 2)).sum

/-- The payload of a SUMMARY (R319). -/
def State.summary (s : State) : List Byte :=
  leBytes 2 (s.wallGroups.map fun g => 2 ^ g).sum ++
  leBytes 1 (bit (s.fld R.WVL_WALL_STATUS_lock == 2) + 2 * s.fld R.WVL_WALL_STATUS_alone + 4 * s.fld R.WVL_WALL_STATUS_alternate +
    8 * bit (s.broken == 0)) ++
  leBytes 1 s.bayCount ++ leBytes 4 s.glu.substituted.length ++ leBytes 4 (s.mismatches - s.wvl.lastMismatches) ++
  leBytes 4 (s.underruns - s.wvl.lastUnderruns) ++ leBytes 4 s.gateDigest ++ leBytes 4 (crc32c (s.ledgerBody 0)) ++
  leBytes 4 s.wvl.worst ++ leBytes 2 (s.fld R.CLP_WALL_LEAD_us) ++ leBytes 2 s.panelRate ++ List.replicate 16 0

/-- A module that has regained a route is alone no longer (R336). -/
def State.leaveAlone (s : State) : State :=
  if s.fld R.WVL_WALL_STATUS_alone = 1 ∧ s.fld R.WVL_WALL_STATUS_hops < 31 then
    ((s.setFld R.WVL_WALL_STATUS_alone 0).aloneGroups false).post 0x0D04 0 0
  else s

/-- SUMMARY_SEND (R326): a summary period ends. -/
def execSummarySend (s : State) : Host.Outcome State Fault Refusal :=
  .next (if s.walled = false then s
    else
      let s := s.leaveAlone
      let d := s.summary
      let s := s.countSnapshot
      let s := { s with wvl := { s.wvl with lastMismatches := s.mismatches, lastUnderruns := s.underruns, worst := 0 } }
      (s.summaryIn s.ownModule d).flood 0x05 d)

/-! ## Reports (R492, R493, R502) -/

/-- An entry of a report. -/
def ReportEntry.bytes (e : ReportEntry) : List Byte :=
  leBytes 1 e.client ++ leBytes 1 e.ring ++ leBytes 2 e.opcode ++ leBytes 4 e.tag ++ leBytes 4 e.total ++ leBytes 4 e.done ++
    leBytes 4 e.first ++ leBytes 2 e.status ++ leBytes 2 (bit e.deferred) ++ leBytes 8 e.map

/-- The header of a report. -/
def Report.header (r : Report) : List Byte :=
  leBytes 4 (64 + 32 * r.entries.length) ++ leBytes 1 r.level ++ leBytes 1 r.cause ++ leBytes 1 r.client ++
    leBytes 1 (bit r.dramLost + 2 * bit r.powerFail + 4 * bit r.shutdown + 8 * bit r.interrupted + 16 * bit r.truingCut) ++
    leBytes 8 r.time ++ leBytes 8 r.f ++ leBytes 4 r.entries.length ++ leBytes 4 r.cut ++ leBytes 4 r.truing ++
    leBytes 4 r.ethDiscarded ++ leBytes 2 r.kindKey ++ leBytes 1 r.shutSensor ++ List.replicate 21 0

/-- What REPORT_READ writes into `n` bytes for client `f`. -/
def Report.written (r : Report) (f n : Nat) : List Byte :=
  r.header ++ ((r.entries.filter fun e => f == 0 || e.client == f).take ((n - 64) / 32)).flatMap ReportEntry.bytes

/-- The report of a scope: the module's, or that of client `f`. -/
def State.reportOf (s : State) (own : Bool) (f : Nat) : Option Report :=
  if own then Store.get (fun _ => none) s.flt.fnReports f else s.flt.report

/-- A report is discarded. -/
def State.releaseReport (s : State) (own : Bool) (f : Nat) : State :=
  if own then
    { s with flt := { s.flt with fnReports := Store.set (fun _ => none) s.flt.fnReports f none } }.setReg (R.FLT_FN_REPORT f) 0
  else { s with flt := { s.flt with report := none } }.showReport

/-- REPORT_READ (R502). -/
def execReportRead (id : Nat) (bus : Bus) (s : State) : Host.Outcome State Fault Refusal :=
  .next (s.runOp id .reportRead fun c s =>
    let own := c.flag 20 0
    let n := c.p 16 4
    if n < 64 then s.refuse c stBadParam 1
    else
      let r := (s.reportOf own c.client).getD { level := 0, cause := 0 }
      let (s, ok) := s.hostWrite bus c.client (c.p 8 8) (r.written c.client n)
      let s := if ok && c.flag 20 1 then s.releaseReport own c.client else s
      if ok then s.finishOne c else s.failOne c stFault)

end Sys2Proof.Machine
end

