-- ==== Sys2Proof/Machine/Pins.lean ====
section
/-! DEFINITION. SMBus, the alert pin, the TAP and the reference clock (R420, R429, R528 to R532). -/

namespace Sys2Proof.Machine

open Sys2Proof

/-- The number of the pin SMB_ALERT_N among the pins of `Output.pin`. -/
def alertPin : Nat := 8

/-- Whether the host interface is in service: its domain is awake, nothing has cut it, and the module has booted. -/
def State.hostInService (s : State) : Bool := s.fld (R.PWC_DOMAIN_depth 2) == 0 && !s.hostCut && s.flt.boot == .up

/-- Bits [5:3] of STATUS: shutdown latched, boot failed, REF fallback (R529). -/
def State.alertBits (s : State) : Nat := bit s.pwc.shut + 2 * bit (s.flt.boot == .failed) + 4 * bit s.pin.refFallback

/-- The SMBus byte STATUS (R529). -/
def State.statusByte (s : State) : Nat := s.fld R.PWC_STATUS_state % 4 + 4 * bit s.hostInService + 8 * s.alertBits

/-- The module's SMBus address. -/
def State.smbAddress (s : State) : Nat := 0x58 + s.pin.smbAddr

/-- The alert is released; the bits stay as they are. -/
def State.releaseAlert (s : State) : State :=
  if s.pin.alert then { s with pin := { s.pin with alert := false } }.emit (.pin alertPin true) else s

/-- SMBUS_STATUS_READ (R529): a read of STATUS, or with `ara` of the Alert Response Address, which the module answers with its own
address in bits [7:1] while its alert is low. Under the lockout nothing answers (R429). -/
def execSmbusStatusRead (ara : Bool) (s : State) : Host.Outcome State Fault Refusal :=
  .next (if s.pwc.locked then s
    else if ara then
      if s.pin.alert then s.releaseAlert.emit (.smbus (leBytes 1 (2 * s.smbAddress))) else s
    else s.releaseAlert.emit (.smbus (leBytes 1 s.statusByte)))

/-- The word BOOT_STATUS (R529). -/
def State.bootStatus (s : State) : Nat :=
  if s.pwc.shut then 4
  else match s.flt.boot with
    | .failed => 2
    | .up => if s.fld R.SPL_STATUS_factory_bad = 1 then 3 else 1
    | _ => 0

/-- An SMBus read of a word. -/
def State.smbusWord (s : State) (v : Nat) : State := if s.pwc.locked then s else s.emit (.smbus (leBytes 2 v))

/-- SMBUS_BOOT_STATUS (R529). -/
def execSmbusBootStatus (s : State) : Host.Outcome State Fault Refusal := .next (s.smbusWord s.bootStatus)

/-- The highest temperature of the sensors with a valid sample, in 1/256 °C; of all, where none has one. -/
def State.highestTemp (s : State) : Int :=
  let valid := (List.range 104).filter fun n => s.fld (R.THM_TEMP_valid n) == 1
  let ts := (if valid.isEmpty then List.range 104 else valid).map fun n => sext 16 (s.fld (R.THM_TEMP_temp n))
  ts.foldl max (-32768)

/-- SMBUS_TEMP_MAX (R529). -/
def execSmbusTempMax (s : State) : Host.Outcome State Fault Refusal := .next (s.smbusWord (toField 16 s.highestTemp))

/-- SMBUS_VIN (R529). -/
def execSmbusVin (s : State) : Host.Outcome State Fault Refusal := .next (s.smbusWord (s.fld R.PWC_VIN_vin))

/-- SMBUS_WAKE (R420, R530): other data than 0xA5 does nothing. -/
def execSmbusWake (data : Nat) (s : State) : Host.Outcome State Fault Refusal :=
  .next (if data = 0xA5 ∧ s.pwc.locked = false then s.wake 0 else s)

/-- SMB_ALERT (R529): the bits [5:3] of STATUS are compared with those last seen. -/
def execSmbAlert (s : State) : Host.Outcome State Fault Refusal :=
  .next (if s.pwc.locked then s
    else
      let rose := (List.range 3).any fun i => s.alertBits.testBit i && !(s.pin.seen.testBit i)
      let t : State := { s with pin := { s.pin with seen := s.alertBits, alert := s.pin.alert || rose } }
      if rose && !s.pin.alert then t.emit (.pin alertPin false) else t)

/-- JTAG_INSTRUCTION (R531): code 0 is BYPASS, 1 IDCODE; any other instruction, loaded with RESET_N high, acts as BYPASS. -/
def execJtagInstruction (code : Nat) (s : State) : Host.Outcome State Fault Refusal :=
  let tap : Tap := if code = 0 then .bypass else if code = 1 then .idcode else if s.flt.pinLow then .other code else .bypass
  .next { s with pin := { s.pin with tap := tap } }

/-- REF_FALLBACK (R532): the REF input is lost in service. -/
def execRefFallback (s : State) : Host.Outcome State Fault Refusal :=
  .next (if s.pin.refSel = true ∧ s.pin.refFallback = false then
      { s with pin := { s.pin with refFallback := true } }.post 0x0104 0 0
    else s)

end Sys2Proof.Machine
end

