-- ==== Sys2Proof/Machine/Te.lean ====
section
/-! DEFINITION. TE, emission rows and free run (R183, R255, R260 to R263). -/

namespace Sys2Proof.Machine

open Sys2Proof

/-- The nominal panel-frame period of the last accepted descriptor, ns; 60 Hz before the first (R183). -/
def State.framePeriod (s : State) : Nat := if s.pnl.rate = 0 then 16666667 else 100000000000 / s.pnl.rate

/-- Whether segment `g` exists. -/
def State.hasSeg (s : State) (g : Nat) : Bool := s.geomValid && decide (g < s.segCount)

/-- The APL registers of segment `g` take their latest values, and PARAM is sent (R263). -/
def State.applyParams (s : State) (g : Nat) : State :=
  let due := (s.seg g).aplDue
  if due.isEmpty then s
  else
    let s := s.setSeg g { s.seg g with aplDue := [] }
    due.foldl (fun s' i =>
      let s' := s'.applyShd (R.PNL_SEG_PARAM g i)
      (s'.groupsOf g).foldl (fun t q => t.forward q 0x84 g (leBytes 2 i ++ leBytes 4 (t.actFld (R.PNL_SEG_PARAM_value g i)))) s') s

/-- Whether APL values of segment `g` apply at its TE: no row reports, or APPLY_ROW not below the segment's last row (R263). -/
def State.appliesAtTe (s : State) (g : Nat) : Bool :=
  let (_, y0, _, h) := s.segRect g
  !s.pnl.rowReports || decide (y0 + h - 1 ≤ s.fld (R.PNL_APPLY_ROW_row g))

/-- TE-anchored gate lists of the groups of segment `g`, in service or not, restart at entry 0 (R226). -/
def State.restartLists (s : State) (g t : Nat) : State :=
  ((List.range 16).filter fun q => s.servesSeg q g).foldl (fun s' q =>
    let x := s'.gates q
    match x.active with
    | some l => if l.anchor = 1 then s'.setGates q { x with start := t } else s'
    | none => s') s

/-- A TE of segment `g` at PTP time `t` is accepted (R182, R183, R226, R261, R263, R325). -/
def State.acceptTe (s : State) (g t : Nat) (pin : Bool) : State :=
  let x := s.seg g
  let s := s.setSeg g { x with lastTe := some (if pin then s.ptp.f else s.ptp.f - s.pnl.teLatency), byPin := pin, freeRun := false }
  let s := if x.freeRun then s.showFree g false else s
  let s := (s.setFld (R.PNL_SEG_TE_TIME_time g) t).setFld (R.PNL_SEG_FRAME_frame g) (s.fld (R.PNL_SEG_FRAME_frame g) + 1)
  let s := s.bump (R.PNL_SEG_TE_CNT_count g (if pin then 0 else 1))
  let s := if s.appliesAtTe g then s.applyParams g else s
  let s := (s.restartLists g t).wallTe g t pin
  s.boundary g t

/-- The frame count of a TE message is adopted where it differs (R261). -/
def State.adoptCount (s : State) (g frame : Nat) : State :=
  let old := s.fld (R.PNL_SEG_FRAME_frame g)
  if frame % 2 ^ 32 = old then s
  else
    ((s.setFld (R.PNL_SEG_FRAME_frame g) frame).bump (R.PNL_SEG_TE_CNT_count g 3)).post 0x0605 g ((frame % 2 ^ 32 + 2 ^ 32 - old) % 2 ^ 32)

/-- Whether segment `g` takes its TE from its pin now (R260). -/
def State.teFromPin (s : State) (g : Nat) : Bool :=
  match s.fld (R.PNL_TE_CFG_source g) with
  | 1 => true
  | 2 => false
  | _ => s.pnl.tePins && match (s.seg g).lastPin with
    | some f => decide (s.ptp.f ≤ f + 2 * s.framePeriod)
    | none => false

/-- TE_PIN_EDGE (R260, R526): an edge on the pin of segment `g`. -/
def execTePinEdge (g : Nat) (rising : Bool) (s : State) : Host.Outcome State Fault Refusal :=
  .next (if s.hasSeg g = false ∨ bit (!rising) ≠ s.fld (R.PNL_TE_CFG_edge g) then s
    else
      let x := s.seg g
      let glitch := match x.lastTe with
        | some f => decide (2 * (s.ptp.f - f) < s.framePeriod)
        | none => false
      if glitch then s.bump (R.PNL_SEG_TE_CNT_count g 2)
      else
        let s := s.setSeg g { x with lastPin := some s.ptp.f, early := none }
        if s.teFromPin g = false then s
        else
          let s := s.acceptTe g s.now true
          -- a message that came up to half a period ahead belongs to this edge
          match x.early with
          | some (f, n) => if 2 * (s.ptp.f - f) ≤ s.framePeriod then s.adoptCount g n else s
          | none => s)

/-- BACKCHANNEL_TE (R255, R260, R261): a TE message of segment `g` with the panel's frame count. -/
def execBackchannelTe (g frame : Nat) (s : State) : Host.Outcome State Fault Refusal :=
  .next (if s.hasSeg g = false ∨ (s.seg g).teSeen.contains (frame % 2 ^ 32) = true then s
    else
      let s := s.setSeg g { s.seg g with teSeen := (frame % 2 ^ 32 :: (s.seg g).teSeen).take 256 }
      let x := s.seg g
      let f := s.ptp.f
      let near := x.byPin && match x.lastTe with
        | some p => decide (2 * (f - p) ≤ s.framePeriod)
        | none => false
      if near then s.adoptCount g frame
      else if s.teFromPin g then s.setSeg g { x with early := some (f, frame % 2 ^ 32) }
      else (s.acceptTe g (s.now - s.pnl.teLatency) false).adoptCount g frame)

/-- BACKCHANNEL_ROW (R255, R262, R263). -/
def execBackchannelRow (g row frame : Nat) (s : State) : Host.Outcome State Fault Refusal :=
  .next (if s.hasSeg g = false ∨ (s.seg g).rowsSeen.contains (frame, row) = true then s
    else
      let line := s.fld (R.PNL_APPLY_ROW_row g)
      let before := match (s.seg g).rowsSeen.head? with
        | some (f, r) => f == frame && decide (line ≤ r)
        | none => false
      let s := s.setSeg g { s.seg g with rowsSeen := ((frame, row) :: (s.seg g).rowsSeen).take 256 }
      let s := (s.setFld (R.PNL_SEG_ROW_row g) row).setFld (R.PNL_SEG_ROW_present g) 1
      if line ≤ row ∧ before = false ∧ s.appliesAtTe g = false then s.applyParams g else s)

/-- FREE_RUN_ENTRY (R183). -/
def execFreeRunEntry (g : Nat) (s : State) : Host.Outcome State Fault Refusal :=
  .next (if (s.hasSeg g = false ∧ g ≠ 0) ∨ (s.seg g).freeRun = true then s
    else
      ((s.setSeg g { s.seg g with freeRun := true }).showFree g true).post 0x05A3 g (if s.geomValid then 2 else 1))

/-- FREE_RUN_BOUNDARY (R183, R261). -/
def execFreeRunBoundary (g : Nat) (s : State) : Host.Outcome State Fault Refusal :=
  .next (if (s.seg g).freeRun = false then s
    else (s.setFld (R.PNL_SEG_FRAME_frame g) (s.fld (R.PNL_SEG_FRAME_frame g) + 1)).boundary g s.now)

end Sys2Proof.Machine
end

