-- ==== Sys2Proof/Machine/HostWrite.lean ====
section
/-! DEFINITION. BAR0 reads and writes of registers without a row of their own, the status mirror, the lock bits, BAR4, the ring
windows, and the wake of a power domain with the writes that the hub holds for it (R11, R34, R38, R40, R54 to R59, R64, R92, R107,
R185, R223, R263, R338, R352, R418, R505 to R509, R513 to R516). -/

namespace Sys2Proof.Machine

open Sys2Proof

/-! ## Views (R56, R508, R515) -/

/-- Where a client's BAR0 offset leads: an offset of the register map, and whether the client may write there. -/
def State.viewOf (s : State) (client off : Nat) : Option (Nat × Bool) :=
  if client = 0 then (if off < 0x2000000 then some (off, true) else none)
  else if off < 0x10000 then some (off, false)
  else if 0x80000 ≤ off ∧ off < 0x80400 then some (R.CMD_SQ_BASE (16 * client) + (off - 0x80000), true)
  else if 0x88000 ≤ off ∧ off < 0x88400 ∧ s.fld (R.CMD_EVQ_CFG_owner ((off - 0x88000) / 64)) = client then
    some (R.CMD_EVQ_BASE 0 + (off - 0x88000), true)
  else none

/-- Whether an offset lies in the page of the status mirror. -/
def inMirror (off : Nat) : Bool := decide (0x1000 ≤ off) && decide (off < 0x1100)

/-- Whether a client's windows can be reached: it is present and its link is not cut (R54, R419). -/
def State.reachable (s : State) (client : Nat) : Bool := !s.hostCut && s.present client

/-! ## What a read returns (R505, R507, R511) -/

/-- The gate entry of a list in force now; 0 without one. -/
def Gates.entryNow (g : Gates) (now : Nat) : Nat :=
  match g.active with
  | none => 0
  | some l => entryAt l.timeline (g.phase l now)

/-- The start of the current cycle. -/
def Gates.cycleStart (g : Gates) (now : Nat) : Nat :=
  match g.active with
  | none => 0
  | some l => if now < g.start then g.start else now - g.phase l now

/-- An age in ms, saturating in 12 bits, of something that happened at F = `at_` - 1; all ones where it never has. -/
def State.ageOf (s : State) (at_ : Nat) : Nat := if at_ = 0 then 0 else min 4095 ((s.ptp.f - (at_ - 1)) / 1000000)

/-- ENG_BAY_STATE of bay `q`. -/
def State.bayState (s : State) (q : Nat) : Nat :=
  let fill := bit (s.fillOf q).isSome
  match s.synthOf q with
  | none => fill * 2 ^ 18
  | some j =>
    let held := (j.ready * 3 * s.depth) / 8 - ((j.rows.take j.sent).map List.length).sum
    j.region % 65536 + (if j.pieces && j.started then 3 else if j.started then 2 else 1) * 2 ^ 16 + fill * 2 ^ 18 +
      bit j.cpr2 * 2 ^ 19 + min 1024 (ceilDiv held 1024) * 2 ^ 20

/-- SCH_GROUP_STATUS of group `q`. -/
def State.schStatus (s : State) (q : Nat) : Nat :=
  s.groupLanes q + s.segOfGroup q % 4 * 16 + bit (s.groupIn q) * 64 + bit (s.gates q).waiting.isSome * 128 +
    (s.gates q).entryNow s.now % 64 * 256 + min 15 (s.inFlight q) * 65536

/-- SCH_CLASS_STATE of a node. -/
def State.nodeStatus (s : State) (q c : Nat) : Nat :=
  let x := s.node (16 * q + c)
  bit (s.eligible q c) + 2 * bit x.planned + 4 * bit x.unusable + min 65535 (x.selected / 1024) * 65536

/-- The content of register element `e`, row `r` and indices `ix` of the map, as a read by a client at this instant returns it: the
stored word, or with the fields that follow the rest of the state. -/
def State.readReg (s : State) (client : Nat) (r : RegSpec) (ix : List Nat) (e : Nat) : RegWord :=
  let i := ix.getD 0 0
  let j := ix.getD 1 0
  let w := s.reg e
  let put := fun (l : Loc) (v : Nat) => fieldSet w l.lo l.w v
  let num := fun (v : Nat) => BitVec.ofNat 64 v
  if r.base = R.GLB_CLIENT then num (client + 16 * bit (client != 0) + 32 * bit (client == 8 && s.bifurcated))
  else if r.base = R.CMD_SQ_HEAD 0 then put (R.CMD_SQ_HEAD_inflight i) (s.inflightOf i)
  else if r.base = R.CMD_CQ_STATE 0 then put (R.CMD_CQ_STATE_reserved i) (s.reservedOf i)
  else if r.base = R.FLT_INFLIGHT then num (s.cmd.inflight.length + bit (decide (4096 ≤ s.cmd.inflight.length)) * 65536)
  else if r.base = R.HST_FN_CFG 0 then put (R.HST_FN_CFG_deferred i) (s.deferredOf i)
  else if r.base = R.DMG_STATE_CNT 0 then num (s.regionsIn i)
  else if r.base = R.DMG_REGION_STATE 0 then
    (if i < s.regionCount then num ((s.region i).state + min 255 (s.region i).coalesced * 256) else 0)
  else if r.base = R.ENG_BAY_STATE 0 0 then num (s.bayState (8 * i + j))
  else if r.base = R.SCH_GROUP_STATUS 0 then num (s.schStatus i)
  else if r.base = R.SCH_GROUP_CAP 0 then num (min 65535 (laneRate (s.groupLanes i) / 10000000))
  else if r.base = R.SCH_CLASS_CREDIT 0 0 then num (toField 32 ((s.node (16 * i + j)).credit / 65536))
  else if r.base = R.SCH_CLASS_STATE 0 0 then num (s.nodeStatus i j)
  else if r.base = R.SCH_CLASS_CNT 0 0 0 ∧ ix.getD 2 0 = 6 then num (s.queuedAt (16 * i + j))
  else if r.base = R.SCH_REGION_MAP 0 then
    (if i < s.regionCount then put (R.SCH_REGION_MAP_now_group i) (s.groupFor i (s.pinOf i)) else w)
  else if r.base = R.SCH_GATE_START 0 then num ((s.gates i).cycleStart s.now)
  else if r.base = R.SCH_GATE_PENDING 0 then num (if (s.gates i).waiting.isSome then (s.gates i).waitStart else 0)
  else if r.base = R.WVL_SCHED then num s.nextBoundary
  else if r.base = R.ETH_PORT_STATUS 0 then
    let paused := ((List.range 8).map fun c => bit (s.ethPaused i c) * 2 ^ c).sum
    fieldSet (put (R.ETH_PORT_STATUS_paused i) paused) 16 7 ((s.ep i).gates.entryNow s.now)
  else if r.base = R.ETH_GATE_START 0 then num ((s.ep i).gates.cycleStart s.now)
  else if r.base = R.PTP_FREE then num s.ptp.f
  else if r.base = R.PTP_NOW_NS then num s.now
  else if r.base = R.PTP_NOW then num s.nowWord
  else if r.base = R.THM_TEMP 0 then
    put (R.THM_TEMP_age i) (s.ageOf (((Store.get (fun _ => ({} : Sensor)) s.pwc.sensors i).samples.head?.map fun x => x.at_ + 1).getD 0))
  else if r.base = R.LAN_EYE 0 then put (R.LAN_EYE_age i) (s.ageOf (Store.get (fun _ => 0) s.lan.eyeAt i))
  else if r.base = R.CAL_DRAM_FIG 0 then put (R.CAL_DRAM_FIG_age i) (s.ageOf (Store.get (fun _ => 0) s.dmc.figAt i))
  else if r.base = R.CMP_UNIT_STATUS 0 then
    -- how far a running job has come is open: a free value up to what it may produce or take
    match s.unitJob i with
    | none => w
    | some x => put (R.CMP_UNIT_STATUS_done_kib i) (s.freeVal % ((if x.dir = 0 then x.dst else x.src) / 1024 + 1))
  else w

/-- The source of mirror word `k`, 3 to 63 (R514). -/
def mirrorSource (k : Nat) : Nat :=
  if k < 12 then [R.PWC_STATUS, R.FLT_RESET_STATUS, R.PNL_LINK_STATUS, R.SPL_STATUS, R.WVL_WALL_STATUS, R.DMC_CAP, R.ENG_PLACE_CFG,
    R.CAL_TRUE_STATUS, R.FLT_INFLIGHT].getD (k - 3) 0
  else if k < 16 then R.PNL_SEG_FRAME (k - 12)
  else if k < 32 then R.PNL_GROUP_STATUS (k - 16)
  else if k < 48 then R.CLP_GROUP_STATUS (k - 32)
  else if k < 56 then R.ETH_PORT_STATUS (k - 48)
  else if k < 60 then R.WVL_PORT_STATUS (k - 56)
  else R.DMC_QUAD_STATUS (k - 60)

/-- What a read of register element `e` returns. -/
def State.readAt (s : State) (client e : Nat) : Nat :=
  match findReg e with
  | some (r, ix, _) => (s.readReg client r ix e).toNat
  | none => 0

/-- The words 3 to 63 of the mirror, as PF0 sees them. -/
def State.mirrorNow (s : State) : List Nat := (List.range 61).map fun k => s.readAt 0 (mirrorSource (k + 3)) % 2 ^ 32

/-- Word `k` of the mirror for a client, which reads 0 for what its view does not show. -/
def State.mirrorWord (s : State) (client : Nat) (words : List Nat) (k : Nat) : Nat :=
  if k = 0 then s.now % 2 ^ 32
  else if k = 1 then s.now / 2 ^ 32
  else if k = 2 then s.hst.mirrorCount % 2 ^ 32
  else if client = 0 then words.getD (k - 3) 0 else 0

/-- The change count of the mirror is brought up to date: one for each word that differs from what the last read saw, and as many more
as changed and changed back in between, which is free. -/
def State.countChanges (s : State) : State :=
  let words := s.mirrorNow
  let last := if s.hst.mirrorWords.isEmpty then State.reset.mirrorNow else s.hst.mirrorWords
  let n := ((words.zip last).filter fun e => e.1 != e.2).length
  ({ s with hst := { s.hst with mirrorCount := s.hst.mirrorCount + n + s.freeVal % 2 ^ 16, mirrorWords := words } }).nextFree

/-- A read of `len` bytes of the mirror, all at one instant (R514). -/
def State.mirrorRead (s : State) (client off len : Nat) : State :=
  let s := s.countChanges
  let words := s.mirrorNow
  let page := (List.range 64).flatMap fun k => leBytes 4 (s.mirrorWord client words k)
  s.emit (.readData client off (slice page (off - 0x1000) (min len (0x1100 - off))) false)

/-- STATUS_MIRROR_READ. -/
def execStatusMirrorRead (client off len : Nat) (s : State) : Host.Outcome State Fault Refusal :=
  .next (if s.reachable client = false ∨ inMirror off = false then s else (s.bar0 client).mirrorRead client off len)

/-- What a read of a register does beside returning it (R346, R354, R473, R479). -/
def State.readEffect (s : State) (r : RegSpec) (i : Nat) : State :=
  if r.base = R.PTP_NOW then s.latchXsec
  else if r.base = R.CAP_TIME 0 then s.takeEdge i
  else if r.base = R.PFC_VAL 0 then s.latchPair i
  else if r.base = R.PFC_SNAP_TIME then s.setFld R.PFC_GLOBAL_snap_valid 0
  else s

/-- A 4-byte read of map offset `o`: of the low half of a 64-bit register, which latches the high half, of a latched half, or of any
other word. -/
def State.readWord (s : State) (client off o : Nat) : State :=
  let t := s.bar0 client
  let reply := fun (t : State) (v : Nat) => t.emit (.readData client off (leBytes 4 v) false)
  let latched := match Store.get (fun _ => none) s.hst.readLatch client with
    | some h => if h.off + 4 = o then some h.value else none
    | none => none
  match latched, findReg o with
  | some v, _ => reply t v
  | none, none => reply t 0
  | none, some (r, ix, b) =>
    let w := if r.base = R.PFC_VAL 0 then s.pairValue (ix.getD 0 0) else (s.readReg client r ix (o - b)).toNat
    if r.bytes = 8 ∧ b = 0 ∧ r.base ≠ R.ETH_RULE 0 0 0 then
      let t := t.readEffect r (ix.getD 0 0)
      reply { t with hst := { t.hst with readLatch := Store.set (fun _ => none) t.hst.readLatch client (some ⟨o, w / 2 ^ 32⟩) } } w
    else reply t (w / 2 ^ (8 * b))

/-- LOW_HALF_READ_LATCH (R507): a 4-byte read, which must be aligned. -/
def execLowHalfReadLatch (client off : Nat) (s : State) : Host.Outcome State Fault Refusal :=
  .next (if s.reachable client = false ∨ off % 4 ≠ 0 then s
    else if inMirror off then (s.bar0 client).mirrorRead client off 4
    else match s.viewOf client off with
      | none => (s.bar0 client).emit (.readData client off (leBytes 4 0) false)
      | some (o, _) => (s.readWord client off o).nextFree)

/-! ## What a write changes (R11, R509, R513) -/

/-- Whether a rule of the map takes a value. -/
def ruleTakes : Rule → Nat → Bool
  | .any, _ => true
  | .range a b, v => decide (a ≤ v) && decide (v ≤ b)
  | .zeroOr a b, v => v == 0 || (decide (a ≤ v) && decide (v ≤ b))

/-- Whether the block of a map offset is locked. -/
def State.blockLocked (s : State) (e : Nat) : Bool := (s.fld R.GLB_LOCK_lock).testBit (e / 0x100000)

/-- Whether an enabled stream is bound to commit group `g`. -/
def State.groupFed (s : State) (g : Nat) : Bool :=
  (List.range 64).any fun v => s.fld (R.SCN_TRS_STREAM_enable v) == 1 && s.fld (R.SCN_TRS_STREAM_group v) == g

/-- Whether value `v` is taken by a field now, beside what the map's rule says. -/
def State.fieldTakes (s : State) (r : RegSpec) (ix : List Nat) (f : Field) (v : Nat) : Bool :=
  let i := ix.getD 0 0
  if r.base = R.CMD_SQ_BASE 0 then s.fld (R.CMD_SQ_CFG_enable i) == 0
  else if r.base = R.CMD_CQ_BASE 0 then s.fld (R.CMD_CQ_CFG_enable i) == 0
  else if r.base = R.CMD_EVQ_BASE 0 then s.fld (R.CMD_EVQ_CFG_enable i) == 0
  -- a layer enabled in shadow or active state keeps its kind, format and sizes (R48)
  else if r.base = R.SCN_LAYER_CFG 0 ∧ f.lo = 4 then formatOk i v && !s.layerBusy i
  else if r.base = R.SCN_LAYER_CFG 0 ∧ f.lo = 1 then (v == 0 || isVideo i) && !s.layerBusy i
  else if r.base = R.SCN_LAYER_SRC 0 then !s.layerBusy i
  else if r.base = R.SCN_LAYER_BASE 0 then (s.tileSlot i).isNone
  else if r.base = R.SCN_TRS_CFG ∧ f.lo = 0 then v == 0 || s.fld R.SCN_TRS_HOLD_BASE_base != 0
  else if r.base = R.CLP_GROUP_CFG 0 ∧ f.lo = 0 then v == 2 || s.fld (R.CLP_GROUP_CFG_source i) != 2 || !s.groupFed i
  else if r.base = R.HST_FN_RIGHTS 0 then i != 0
  else if r.base = R.LAN_CFG 0 ∧ f.lo = 0 then decide (i < 192)
  else if r.base = R.TRIG_START 0 ∨ r.base = R.TRIG_PERIOD 0 ∨ r.base = R.TRIG_ACT 0 then !s.isFsync i
  else if r.base = R.PFC_BUF_RD then
    let places := s.recordPlaces
    let rd := s.fld R.PFC_BUF_RD_index
    decide (v < places) && decide ((v + places - rd) % places ≤ s.unread)
  else true

/-- A field after a write of `val` under `mask`. -/
def State.putField (s : State) (r : RegSpec) (ix : List Nat) (e : Nat) (mask val : RegWord) (w : RegWord) (f : Field) : RegWord :=
  let m := mask &&& fieldMask f.lo f.width
  let n := (w &&& ~~~ m) ||| (val &&& m)
  let v := fieldGet n f.lo f.width
  let plain := if ruleTakes f.rule v && s.fieldTakes r ix f v then n else w
  match f.access with
  | .ro | .wo => w
  | .rw1c => w &&& ~~~ (val &&& m)
  | .rwl => if s.blockLocked e then w else plain
  | .rw | .rws | .shd | .apl => plain

/-- Whether the register takes the word as a whole: the depth bound of a layer and the ratios of an enabled one (R38, R48), a window
within 64 GiB (R83). -/
def State.wordTakes (s : State) (r : RegSpec) (ix : List Nat) (e : Nat) (w : RegWord) : Bool :=
  let i := ix.getD 0 0
  if [R.SCN_LAYER_POS 0, R.SCN_LAYER_DST 0, R.SCN_LAYER_ZA 0, R.SCN_LAYER_ZB 0, R.SCN_LAYER_ZC 0, R.SCN_LAYER_ZK 0].contains r.base then
    let new := (s.setReg e w).shadowLayer i
    let old := s.shadowLayer i
    new.depthOk && !(s.layerBusy i && (new.ratioX != old.ratioX || new.ratioY != old.ratioY))
  else if r.base = R.HST_FN_APERTURE 0 then decide (fieldGet w 0 12 + fieldGet w 16 13 ≤ 4096)
  else true

/-- A register element after a write. -/
def State.putWord (s : State) (r : RegSpec) (ix : List Nat) (e : Nat) (mask val : RegWord) : RegWord :=
  let w := r.fields.foldl (s.putField r ix e mask val) (s.reg e)
  if s.wordTakes r ix e w then w else s.reg e

/-- The layer whose shadow state a register holds (R34). -/
def layerOfReg (r : RegSpec) (ix : List Nat) : Option Nat :=
  let i := ix.getD 0 0
  if R.SCN_LAYER_CFG 0 ≤ r.base ∧ r.base < R.SCN_LAYER_STATUS 0 then some i
  else if r.base = R.SCN_LAYER_MATRIX 0 0 ∨ r.base = R.SCN_LAYER_MATRIX8 0 ∨ r.base = R.SCN_LAYER_COLOUR_B 0 then some i
  else if r.base = R.SCN_PALETTE 0 0 then some (32 + i)
  else none

/-- A change of a group's source ends its pending arm (R185). -/
def State.endArms (s : State) (g : Nat) : State :=
  match Store.get (fun _ => none) s.clp.arms g with
  | none => s
  | some (_, id) =>
    let s := { s with clp := { s.clp with arms := Store.set (fun _ => none) s.clp.arms g none } }.setFld (R.CLP_GROUP_STATUS_armed g) 0
    match id with
    | some k => s.abort k stSoftware
    | none => s

/-- What follows from the write of register element `e`, of which `old` is the word before and `val` what was written. -/
def State.afterWrite (s : State) (r : RegSpec) (ix : List Nat) (old : RegWord) (val : Nat) : State :=
  let i := ix.getD 0 0
  let j := ix.getD 1 0
  match layerOfReg r ix with
  | some n => s.touchLayer n
  | none =>
    if r.base = R.SCN_VIEW_SLOPE 0 then { s with scn := { s.scn with slopeLoaded := true } }
    else if r.base = R.SCN_VCF_BASE then (if s.blockLocked r.base then s else s.setReg R.DMG_VCF_MAX 0)
    else if r.base = R.DEC_POOL_SIZE then s.showPool
    else if r.base = R.CLP_GROUP_CFG 0 then
      let s := (if fieldGet old 0 2 = s.fld (R.CLP_GROUP_CFG_source i) then s else s.endArms i).showGroupFree i
      let wall := s.fld (R.CLP_GROUP_CFG_wall i)
      if fieldGet old 4 1 = wall then s
      else s.setFld (R.CLP_GROUP_STATUS_alone i) (if wall = 1 then s.fld R.WVL_WALL_STATUS_alone else 0)
    else if r.base = R.SCH_CLASS_SLOPE 0 0 ∨ r.base = R.SCH_CLASS_LIMIT 0 0 then (s.relimit i j).replan i
    else if r.base = R.PNL_LINK_CFG then
      (if s.link = 0 ∧ s.fld R.PNL_LINK_CFG_auto = 1 ∧ s.fld R.PWC_STATUS_state = 0 ∧ s.flt.boot = .up then s.enterTrain 0 else s)
    else if r.base = R.PNL_SEG_PARAM 0 0 then
      let x := s.seg i
      s.setSeg i { x with aplDue := (x.aplDue.filter fun k => k != j) ++ [j] }
    else if r.base = R.ETH_PORT_CFG 0 then s.setEthMode i (bitsOf val 0 3)
    else if r.base = R.WVL_PORT_CFG 0 then s.refreshPort i
    else if r.base = R.THM_ZONE 0 then (s.retimeAll).checkPass stThermal
    else if r.base = R.CMD_EVQ_MASK 0 then s.postNotices
    else if r.base = R.PFC_SAMPLE_SEED then s.seedBays
    else if r.base = R.PFC_SAMPLE_CFG then (if old.getLsbD 0 = false ∧ s.fld R.PFC_SAMPLE_CFG_tagged = 1 then s.seedBays else s)
    else s

/-- A write of a register that does more, or other, than store its fields; none for every other register. -/
def State.ownWrite (s : State) (client : Nat) (r : RegSpec) (ix : List Nat) (mask val : Nat) : Option State :=
  let i := ix.getD 0 0
  if r.base = R.GLB_LOCK then some (s.setFld R.GLB_LOCK_lock (s.fld R.GLB_LOCK_lock ||| bitsOf val 0 24))
  else if r.base = R.CMD_SQ_CFG 0 then some (s.sqCfgWrite i val)
  else if r.base = R.CMD_CQ_CFG 0 then some (s.cqCfgWrite i val)
  else if r.base = R.CMD_EVQ_CFG 0 then some (s.evCfgWrite client i val).postNotices
  else if r.base = R.THM_SHUT_CAUSE then some (if val.testBit 7 then s else s.setReg R.THM_SHUT_CAUSE 0)
  else if r.base = R.ENG_BAY_STAT 0 0 0 then some (s.setReg (R.ENG_BAY_STAT i (ix.getD 1 0) (ix.getD 2 0)) 0)
  else if r.base = R.TRIG_CFG 0 then some (if s.isFsync i then s else s.armTrigger {} i val)
  else if r.base = R.PTP_CMD then
    some (match val % 4 with
      | 1 => s.loadO {}
      | 2 => s.stepTime {}
      | 3 => s.loadRho
      | _ => s)
  else if r.base = R.PTP_OFS then
    let p := s.ptp
    let p := if mask.testBit 0 then { p with stNs := bitsOf val 0 30 } else p
    some { s with ptp := if mask.testBit 32 then { p with stSec := p.stSec / 2 ^ 32 * 2 ^ 32 + bitsOf val 32 32 } else p }
  else if r.base = R.PTP_OFS_XSEC then
    some { s with ptp := { s.ptp with stSec := s.ptp.stSec % 2 ^ 32 + bitsOf val 0 16 * 2 ^ 32 } }
  else if r.base = R.PTP_RATE then
    let old := toField 40 s.ptp.stRho
    let v := (if mask.testBit 0 then bitsOf val 0 32 else bitsOf old 0 32) + (if mask.testBit 32 then bitsOf val 32 8 else bitsOf old 32 8) * 2 ^ 32
    some { s with ptp := { s.ptp with stRho := sext 40 v } }
  else if r.base = R.PFC_GLOBAL then some (s.writePfcGlobal val)
  else if r.base = R.PFC_CTL 0 then some (s.putCtl i val)
  else if r.base = R.PFC_METER_CFG then some (s.putMeterCfg val)
  else if r.base = R.PFC_BUF_BASE then some (s.putBufCfg false val)
  else if r.base = R.PFC_BUF_SIZE then some (s.putBufCfg true val)
  else if r.base = R.PFC_METER_MAX 0 then
    some (if mask = 2 ^ 64 - 1 ∧ val = 2 ^ 64 - 1 then s.setReg (R.PFC_METER_MAX i) 0 else s)
  else none

/-- A write to register element `e` takes effect. -/
def State.writeNow (s : State) (client : Nat) (r : RegSpec) (ix : List Nat) (e mask val : Nat) : State :=
  match s.ownWrite client r ix mask val with
  | some t => t
  | none => (s.setReg e (s.putWord r ix e (BitVec.ofNat 64 mask) (BitVec.ofNat 64 val))).afterWrite r ix (s.reg e) val

/-! ## Registers of sleeping domains (R416, R505) -/

/-- The power domain that a register lies in, where it can sleep: the bents, the lane quads and Ethernet and Worvel lanes, Ethernet,
Worvel, the decode pipes, the engines, and the counters of a bent or an uncore. -/
def regDomain (e : Nat) : Option Nat :=
  let b := e / 0x100000
  if b = 7 then some 24
  else if b = 8 then (if e < R.ENG_PLACE_CFG then some (5 + (e - 0x800000) / 0x10000) else none)
  else if b = 0xD then
    (if R.PNL_GROUP_CFG 0 ≤ e ∧ e < R.PNL_GROUP_CFG 16 then some (19 + (e - R.PNL_GROUP_CFG 0) / 128) else none)
  else if b = 0xE then
    let i := (e - R.LAN_CFG 0) / 0x400
    if i < 192 then some (19 + i / 48) else if i < 208 then none else if i < 224 then some 4 else if i < 256 then some 23 else none
  else if b = 0xF then some 23
  else if b = 0x10 then some 3
  else if b = 0x13 ∨ b = 0x14 then some 25
  else if R.PFC_CTL 0 ≤ e ∧ e < R.PFC_CTL 256 then
    (let d := counterDomain ((e - R.PFC_CTL 0) / 16); if 5 ≤ d then some d else none)
  else none

/-- The state with what the hub holds for one register applied. -/
def State.withHeld (s : State) (e : Nat) : State :=
  (s.hst.held.filter fun w => w.off == e).foldl
    (fun t w => t.setReg w.off ((t.reg w.off &&& ~~~ BitVec.ofNat 64 w.mask) ||| BitVec.ofNat 64 w.value)) s

/-- A write to register element `e`: at once, or held while its domain sleeps. -/
def State.writeElem (s : State) (client : Nat) (r : RegSpec) (ix : List Nat) (e mask val : Nat) : State :=
  let asleep := match regDomain e with
    | some d => if s.fld (R.PWC_DOMAIN_depth d) = 0 then none else some d
    | none => none
  match asleep with
  | none => s.writeNow client r ix e mask val
  | some d =>
    let before := s.withHeld e
    let old := (before.reg e).toNat
    let new := ((before.writeNow client r ix e mask val).reg e).toNat
    let changed := old ^^^ new
    s.holdWrite d e changed (new &&& changed)

/-! ## Sizes, halves and wide registers (R506 to R508) -/

/-- All bytes of an access of `n` bytes at byte `b` of an element. -/
def byteMask (b n : Nat) : Nat := (2 ^ (8 * n) - 1) * 2 ^ (8 * b)

/-- The low half of a 64-bit register is staged for a client. -/
def State.stageHalf (s : State) (client e v : Nat) : State :=
  { s with hst := { s.hst with writeStage := Store.set (fun _ => none) s.hst.writeStage (16 * e + client) (some ⟨e, v⟩) } }

/-- A write of the high half takes the staged low half with it. -/
def State.writeHigh (s : State) (client : Nat) (r : RegSpec) (ix : List Nat) (e v : Nat) : State :=
  match Store.get (fun _ => none) s.hst.writeStage (16 * e + client) with
  | none => s.writeElem client r ix e (byteMask 4 4) (v * 2 ^ 32)
  | some h =>
    let s := { s with hst := { s.hst with writeStage := Store.set (fun _ => none) s.hst.writeStage (16 * e + client) none } }
    s.writeElem client r ix e (byteMask 0 8) (h.value + v * 2 ^ 32)

/-- A part of a 128-bit register is staged; the part with the highest 4 bytes applies all that is staged. -/
def State.writeWide (s : State) (client : Nat) (r : RegSpec) (ix : List Nat) (e part n v : Nat) : State :=
  let st := Store.get (fun _ => 0) s.hst.wideStage e
  let bits := byteMask part n
  let value := (st % 2 ^ 128 &&& (2 ^ 128 - 1 - bits)) ||| (v * 2 ^ (8 * part))
  let parts := (st / 2 ^ 128) ||| (if n = 8 then 3 else 1) * 2 ^ (part / 4)
  let keep := fun (s : State) (x : Nat) => { s with hst := { s.hst with wideStage := Store.set (fun _ => 0) s.hst.wideStage e x } }
  if parts.testBit 3 then
    let mask := fun (h : Nat) => (if parts.testBit (2 * h) then byteMask 0 4 else 0) + (if parts.testBit (2 * h + 1) then byteMask 4 4 else 0)
    let put := fun (s : State) (h : Nat) => s.writeElem client r ((ix.take 2) ++ [h]) (e + 8 * h) (mask h) (bitsOf value (64 * h) 64)
    put (put (keep s 0) 0) 1
  else keep s (value + parts * 2 ^ 128)

/-- A write of `n` bytes at map offset `o`, none of which is in another register than the rest; none where no register is there. -/
def State.writePart (s : State) (client o n v : Nat) : Option State :=
  if inMirror o then some s
  else match findReg o with
    | none => none
    | some (r, ix, b) =>
      let e := o - b
      if r.base = R.ETH_RULE 0 0 0 then
        let h := ix.getD 2 0
        some (s.writeWide client r ix (e - 8 * h) (8 * h + b) n v)
      else if r.bytes = 8 ∧ n = 4 then
        let staged := r.fields.any fun f => f.access == .rw || f.access == .rws || f.access == .shd
        if b = 0 then some (if staged then s.stageHalf client e v else s.writeElem client r ix e (byteMask 0 4) v)
        else some (s.writeHigh client r ix e v)
      else some (s.writeElem client r ix e (byteMask b n) (v * 2 ^ (8 * b)))

/-- A BAR0 write of 4 or 8 bytes with all its bytes enabled, aligned to its size; what no register takes is dropped and counted. -/
def State.bar0Write (s : State) (client off size : Nat) (whole : Bool) (data : Nat) : State :=
  let s := s.bar0 client
  if whole = false ∨ (size ≠ 4 ∧ size ≠ 8) ∨ off % size ≠ 0 then s.drop client
  else match s.viewOf client off with
    | none => s.drop client
    | some (o, false) => if inMirror o || (findReg o).isSome then s else s.drop client
    | some (o, true) =>
      let v := data % 2 ^ (8 * size)
      let one := match findReg o with
        | some (r, _, b) => size == 4 || (r.bytes == 8 && b == 0)
        | none => size == 4
      if one then (s.writePart client o size v).getD (s.drop client)
      else
        match s.writePart client o 4 (v % 2 ^ 32) with
        | none => ((s.writePart client (o + 4) 4 (v / 2 ^ 32)).getD s).drop client
        | some t => (t.writePart client (o + 4) 4 (v / 2 ^ 32)).getD (t.drop client)

/-- REGISTER_WRITE (R506 to R509). -/
def execRegisterWrite (client off size : Nat) (whole : Bool) (data : Nat) (s : State) : Host.Outcome State Fault Refusal :=
  .next (if s.reachable client then s.bar0Write client off size whole data else s)

/-- LOW_HALF_WRITE_STAGE (R507). -/
def execLowHalfWriteStage (client off data : Nat) (s : State) : Host.Outcome State Fault Refusal :=
  .next (if s.reachable client then s.bar0Write client off 4 true data else s)

/-- GLB_LOCK_WRITE (R513): PF0 sets lock bits; another client's write is ignored, as its view of GLB is read only. -/
def execGlbLockWrite (client data : Nat) (s : State) : Host.Outcome State Fault Refusal :=
  .next (if s.reachable client then s.bar0Write client R.GLB_LOCK 4 true data else s)

/-! ## BAR4 and the ring windows (R58, R59) -/

/-- The first module address and the bytes of a client's DRAM window (R58). -/
def State.dramWindow (s : State) (f : Nat) : Nat × Nat :=
  if f = 0 then (0, 2 ^ 36) else (s.fld (R.HST_FN_APERTURE_base f) * 0x1000000, s.fld (R.HST_FN_APERTURE_size f) * 0x1000000)

/-- BAR4_ACCESS (R58). -/
def execBar4Access (client off : Nat) (write : Bool) (data : List Byte) (len : Nat) (s : State) : Host.Outcome State Fault Refusal :=
  let (base, size) := s.dramWindow client
  .next (if s.reachable client = false then s
    else if write then
      let d := data.take (size - off)
      let s := if d.isEmpty then s else s.memWrite (base + off) d
      if d.length = data.length then s else s.drop client
    else
      let n := min len (size - off)
      let (s, d, ok) := s.memRead (base + off) n
      s.emit (.readData client off (d ++ List.replicate (len - n) 0) (!ok)))

/-- What a read of `n` bytes through the window of command ring `r` of client `page` returns: the entries of a ring in module DRAM, and 0
elsewhere (R56, R59). -/
def State.ringWindowRead (s : State) (client page r off n : Nat) : List Byte :=
  let i := 16 * page + r
  let (loc, a) := ringAddr (s.reg (R.CMD_SQ_BASE i)) 64 0
  (List.range n).map fun k =>
    if s.reachable client && (client == 0 || page == client) && decide (page < 16) && decide (r < 16) && loc && decide (off + k < 64 * s.sqSize i) &&
        s.mayReach client (a + off + k) 1 then s.maByte (a + off + k) else 0

/-- RING_WINDOW_WRITE (R59): a write to the window of command ring `r` in the area of client `page`. -/
def execRingWindowWrite (client page r off : Nat) (data : List Byte) (s : State) : Host.Outcome State Fault Refusal :=
  let i := 16 * page + r
  let (loc, a) := ringAddr (s.reg (R.CMD_SQ_BASE i)) 64 0
  .next (if s.reachable client = false then s
    else if (client = 0 ∨ page = client) ∧ page < 16 ∧ r < 16 ∧ loc = true ∧ off + data.length ≤ 64 * s.sqSize i ∧
        s.mayReach client (a + off) data.length = true then
      s.memWrite (a + off) data
    else s.drop client)

/-! ## Waking a power domain (R418) -/

/-- The Ethernet domains wake: a held write to a mode takes effect as the write of a mode does (R338). -/
def State.wakeEth (s : State) : State :=
  let modes := (List.range 8).filter fun p => s.hst.held.any fun w => w.off == R.ETH_PORT_CFG p && w.mask % 8 != 0
  let s := (((s.setDomain 3 0).setDomain 4 0).setFld (R.PWC_CLK_mhz 19) 1250).setFld (R.PWC_CLK_running 19) 1
  modes.foldl (fun t p => t.setEthMode p (t.fld (R.ETH_PORT_CFG_mode p))) s

/-- Domain `d`, which sleeps, wakes as the wake table gives. -/
def State.wakeDomain (s : State) (d : Nat) : State :=
  if d = 3 ∨ d = 4 then s.wakeEth
  else if 5 ≤ d ∧ d ≤ 12 then
    if s.fld (R.PWC_DOMAIN_depth d) = 1 then s.ungate d (d + 1)
    else if s.fld (R.ENG_BENT_STATUS_state (d - 5)) = 0 then s.wakeBent (d - 5) []
    else s
  else if d = 13 ∨ d = 14 then s.setNoc (d - 13) 0
  else if 15 ≤ d ∧ d ≤ 18 then (s.wakeQuad (d - 15)).takeWaiting
  else if 19 ≤ d ∧ d ≤ 22 then s.setLaneQuad (d - 19) 0
  else if d = 23 then s.setWvlDomain true
  else if d = 24 then (if s.enginesMay then s.wakeDec else s)
  else if d = 25 then (if s.enginesMay then s.setPart 25 27 0 else s)
  else s

/-- DOMAIN_WAKE (R418): a request finds domain `d` asleep. AON never sleeps, and MGT and HST only with the module. -/
def execDomainWake (d : Nat) (s : State) : Host.Outcome State Fault Refusal :=
  .next (if s.hostCut ∨ 26 ≤ d ∨ s.fld (R.PWC_DOMAIN_depth d) = 0 ∨
      (s.fld R.PWC_STATUS_state = 1 ∧ ¬ (d = 3 ∨ d = 4 ∨ d = 23)) then s
    else s.wakeDomain d)

end Sys2Proof.Machine
end

