-- ==== Sys2Proof/Machine/Dispatch.lean ====
section
/-! DEFINITION. One arm per command: each calls its meaning. -/

namespace Sys2Proof.Machine

open Sys2Proof

def exec (i : Instr) (s : State) : Host.Outcome State Fault Refusal :=
  match i with
  | .registerWrite client off size whole data => Sys2Proof.Machine.execRegisterWrite client off size whole data s
  | .lowHalfReadLatch client off => Sys2Proof.Machine.execLowHalfReadLatch client off s
  | .lowHalfWriteStage client off data => Sys2Proof.Machine.execLowHalfWriteStage client off data s
  | .statusMirrorRead client off len => Sys2Proof.Machine.execStatusMirrorRead client off len s
  | .glbLockWrite client data => Sys2Proof.Machine.execGlbLockWrite client data s
  | .cmdSqEnableWrite client idx data => Sys2Proof.Machine.execCmdSqEnableWrite client idx data s
  | .cmdCqEnableWrite client idx data => Sys2Proof.Machine.execCmdCqEnableWrite client idx data s
  | .completionRingClosed idx => Sys2Proof.Machine.execCompletionRingClosed idx s
  | .eventRingEnableWrite client e data => Sys2Proof.Machine.execEventRingEnableWrite client e data s
  | .commandTailDoorbell client page off value => Sys2Proof.Machine.execCommandTailDoorbell client page off value s
  | .completionHeadDoorbell client page r value => Sys2Proof.Machine.execCompletionHeadDoorbell client page r value s
  | .eventHeadDoorbell client page e value => Sys2Proof.Machine.execEventHeadDoorbell client page e value s
  | .fenceDoorbell client page k value => Sys2Proof.Machine.execFenceDoorbell client page k value s
  | .ethTxTailDoorbell client page value => Sys2Proof.Machine.execEthTxTailDoorbell client page value s
  | .ethRxTailDoorbell client page value => Sys2Proof.Machine.execEthRxTailDoorbell client page value s
  | .commandFetch bus => Sys2Proof.Machine.execCommandFetch bus s
  | .commandDispatch bus => Sys2Proof.Machine.execCommandDispatch bus s
  | .replyWrite idx fails wbFails => Sys2Proof.Machine.execReplyWrite idx fails wbFails s
  | .msixHoldoffExpiry key => Sys2Proof.Machine.execMsixHoldoffExpiry key s
  | .eventWrite entryFails wbFails => Sys2Proof.Machine.execEventWrite entryFails wbFails s
  | .nop id bus => Sys2Proof.Machine.execNop id bus s
  | .functionSet id bus => Sys2Proof.Machine.execFunctionSet id bus s
  | .hostLinkTrained link rate width flit lanes => Sys2Proof.Machine.execHostLinkTrained link rate width flit lanes s
  | .clientPresenceChange vfEnable numVFs linkBUp => Sys2Proof.Machine.execClientPresenceChange vfEnable numVFs linkBUp s
  | .viewSlopeLoad id bus => Sys2Proof.Machine.execViewSlopeLoad id bus s
  | .viewCorrectionLoad id bus => Sys2Proof.Machine.execViewCorrectionLoad id bus s
  | .regionGridSet id bus => Sys2Proof.Machine.execRegionGridSet id bus s
  | .regionGridSwitch bus => Sys2Proof.Machine.execRegionGridSwitch bus s
  | .layerDefine id bus => Sys2Proof.Machine.execLayerDefine id bus s
  | .layerGeometry id bus => Sys2Proof.Machine.execLayerGeometry id bus s
  | .layerColour id bus => Sys2Proof.Machine.execLayerColour id bus s
  | .regionLayersRead id bus => Sys2Proof.Machine.execRegionLayersRead id bus s
  | .trastosPacketArrival source bytes fragment => Sys2Proof.Machine.execTrastosPacketArrival source bytes fragment s
  | .holeLossWaitExpiry v => Sys2Proof.Machine.execHoleLossWaitExpiry v s
  | .unitIncompleteExpiry v f n => Sys2Proof.Machine.execUnitIncompleteExpiry v f n s
  | .unitInflated u => Sys2Proof.Machine.execUnitInflated u s
  | .trsMarkerMissing g => Sys2Proof.Machine.execTrsMarkerMissing g s
  | .streamBind id bus => Sys2Proof.Machine.execStreamBind id bus s
  | .trastosSubmit id bus => Sys2Proof.Machine.execTrastosSubmit id bus s
  | .kekEstablish id bus => Sys2Proof.Machine.execKekEstablish id bus s
  | .keyLoad id bus => Sys2Proof.Machine.execKeyLoad id bus s
  | .keyPublicRead id bus => Sys2Proof.Machine.execKeyPublicRead id bus s
  | .decodeAssign id bus => Sys2Proof.Machine.execDecodeAssign id bus s
  | .decodeStart p tool rap => Sys2Proof.Machine.execDecodeStart p tool rap s
  | .pictureOutput p fault d => Sys2Proof.Machine.execPictureOutput p fault d s
  | .regionSelect => Sys2Proof.Machine.execRegionSelect s
  | .fillComplete bay => Sys2Proof.Machine.execFillComplete bay s
  | .synthesisStart bay => Sys2Proof.Machine.execSynthesisStart bay s
  | .demandLineArrival bay lines clocks => Sys2Proof.Machine.execDemandLineArrival bay lines clocks s
  | .launchRequest bay => Sys2Proof.Machine.execLaunchRequest bay s
  | .pieceReady region => Sys2Proof.Machine.execPieceReady region s
  | .rayBufferDrained bay clocks => Sys2Proof.Machine.execRayBufferDrained bay clocks s
  | .synthesisEnd bay bus => Sys2Proof.Machine.execSynthesisEnd bay bus s
  | .rayProbe id bus => Sys2Proof.Machine.execRayProbe id bus s
  | .checkRegionDefine id bus => Sys2Proof.Machine.execCheckRegionDefine id bus s
  | .sqcSignatureLoad id bus => Sys2Proof.Machine.execSqcSignatureLoad id bus s
  | .sqcCapture id bus => Sys2Proof.Machine.execSqcCapture id bus s
  | .captureTimeout id bus => Sys2Proof.Machine.execCaptureTimeout id bus s
  | .clampBoundary seg => Sys2Proof.Machine.execClampBoundary seg s
  | .applicationPoint bus => Sys2Proof.Machine.execApplicationPoint bus s
  | .copyForwardDone kind who => Sys2Proof.Machine.execCopyForwardDone kind who s
  | .freeRunEntry g => Sys2Proof.Machine.execFreeRunEntry g s
  | .freeRunBoundary g => Sys2Proof.Machine.execFreeRunBoundary g s
  | .clampArm id bus => Sys2Proof.Machine.execClampArm id bus s
  | .fenceArm id bus => Sys2Proof.Machine.execFenceArm id bus s
  | .layerDamage id bus => Sys2Proof.Machine.execLayerDamage id bus s
  | .regionDirty id bus => Sys2Proof.Machine.execRegionDirty id bus s
  | .burstStart b => Sys2Proof.Machine.execBurstStart b s
  | .burstEnd q => Sys2Proof.Machine.execBurstEnd q s
  | .gateCloseSplit q rows => Sys2Proof.Machine.execGateCloseSplit q rows s
  | .classCreditTick => Sys2Proof.Machine.execClassCreditTick s
  | .gateListStart q => Sys2Proof.Machine.execGateListStart q s
  | .accountingIntervalEnd => Sys2Proof.Machine.execAccountingIntervalEnd s
  | .delayBreach r => Sys2Proof.Machine.execDelayBreach r s
  | .histogramSample => Sys2Proof.Machine.execHistogramSample s
  | .classSet id bus => Sys2Proof.Machine.execClassSet id bus s
  | .guaranteeSet id bus => Sys2Proof.Machine.execGuaranteeSet id bus s
  | .regionMapSet id bus => Sys2Proof.Machine.execRegionMapSet id bus s
  | .gateListSet id bus => Sys2Proof.Machine.execGateListSet id bus s
  | .schedStatsRead id bus => Sys2Proof.Machine.execSchedStatsRead id bus s
  | .backchannelCredit q count m => Sys2Proof.Machine.execBackchannelCredit q count m s
  | .backchannelTe g frame => Sys2Proof.Machine.execBackchannelTe g frame s
  | .tePinEdge g rising => Sys2Proof.Machine.execTePinEdge g rising s
  | .backchannelRow g row frame => Sys2Proof.Machine.execBackchannelRow g row frame s
  | .backchannelStatus q flags lanes ucw worst => Sys2Proof.Machine.execBackchannelStatus q flags lanes ucw worst s
  | .backchannelNak q seq reason => Sys2Proof.Machine.execBackchannelNak q seq reason s
  | .backchannelTrain q lane taps ctl => Sys2Proof.Machine.execBackchannelTrain q lane taps ctl s
  | .descriptorReceived q bytes => Sys2Proof.Machine.execDescriptorReceived q bytes s
  | .holdReceived q => Sys2Proof.Machine.execHoldReceived q s
  | .releaseReceived q => Sys2Proof.Machine.execReleaseReceived q s
  | .holdLimitExpiry q => Sys2Proof.Machine.execHoldLimitExpiry q s
  | .underrun q row => Sys2Proof.Machine.execUnderrun q row s
  | .backchannelLockLoss q row written => Sys2Proof.Machine.execBackchannelLockLoss q row written s
  | .backchannelRelock q inverted => Sys2Proof.Machine.execBackchannelRelock q inverted s
  | .laneRemoval worvel q p => Sys2Proof.Machine.execLaneRemoval worvel q p s
  | .laneMapApply worvel q row written => Sys2Proof.Machine.execLaneMapApply worvel q row written s
  | .trainingLimitExpiry who => Sys2Proof.Machine.execTrainingLimitExpiry who s
  | .haltedRetryExpiry port => Sys2Proof.Machine.execHaltedRetryExpiry port s
  | .linkLeaveActive => Sys2Proof.Machine.execLinkLeaveActive s
  | .linkReset id bus => Sys2Proof.Machine.execLinkReset id bus s
  | .laneService id bus => Sys2Proof.Machine.execLaneService id bus s
  | .quietEntry q => Sys2Proof.Machine.execQuietEntry q s
  | .adaptationStep idx ctle goal vga => Sys2Proof.Machine.execAdaptationStep idx ctle goal vga s
  | .eyeSetComplete idx eyes rms corrected since => Sys2Proof.Machine.execEyeSetComplete idx eyes rms corrected since s
  | .laneMeasure id bus results => Sys2Proof.Machine.execLaneMeasure id bus results s
  | .laneTxSet id bus => Sys2Proof.Machine.execLaneTxSet id bus s
  | .engineFault bay slots check ready => Sys2Proof.Machine.execEngineFault bay slots check ready s
  | .lockstepWatchdogExpiry bay slot ready => Sys2Proof.Machine.execLockstepWatchdogExpiry bay slot ready s
  | .baySelfTest bay fails => Sys2Proof.Machine.execBaySelfTest bay fails s
  | .bentWake => Sys2Proof.Machine.execBentWake s
  | .bentClockChange b => Sys2Proof.Machine.execBentClockChange b s
  | .drainComplete bent n late ready => Sys2Proof.Machine.execDrainComplete bent n late ready s
  | .bentRetireImmediate b cause ready => Sys2Proof.Machine.execBentRetireImmediate b cause ready s
  | .bayService id bus => Sys2Proof.Machine.execBayService id bus s
  | .bentService id bus => Sys2Proof.Machine.execBentService id bus s
  | .wallConfigure id bus => Sys2Proof.Machine.execWallConfigure id bus s
  | .helloSend p => Sys2Proof.Machine.execHelloSend p s
  | .helloReceived p payload => Sys2Proof.Machine.execHelloReceived p payload s
  | .worvelPacketReceived p bytes => Sys2Proof.Machine.execWorvelPacketReceived p bytes s
  | .worvelCredit p count => Sys2Proof.Machine.execWorvelCredit p count s
  | .timeExchange p cTx tTx cRx tRx => Sys2Proof.Machine.execTimeExchange p cTx tTx cRx tRx s
  | .summarySend => Sys2Proof.Machine.execSummarySend s
  | .memberTimeout m => Sys2Proof.Machine.execMemberTimeout m s
  | .voteCutoff n => Sys2Proof.Machine.execVoteCutoff n s
  | .masterDecide n => Sys2Proof.Machine.execMasterDecide n s
  | .wallDecisionLost g n => Sys2Proof.Machine.execWallDecisionLost g n s
  | .worvelPortLoss p => Sys2Proof.Machine.execWorvelPortLoss p s
  | .ethFrameReceived p bus bytes frac => Sys2Proof.Machine.execEthFrameReceived p bus bytes frac s
  | .ethFrameTransmit p bus frac overran cuts => Sys2Proof.Machine.execEthFrameTransmit p bus frac overran cuts s
  | .pauseReceived p pause pfc => Sys2Proof.Machine.execPauseReceived p pause pfc s
  | .ethLinkState p up mode lanes => Sys2Proof.Machine.execEthLinkState p up mode lanes s
  | .preemptVerifyRetry p ok => Sys2Proof.Machine.execPreemptVerifyRetry p ok s
  | .ethGateListStart p bus => Sys2Proof.Machine.execEthGateListStart p bus s
  | .ethRingSet id bus => Sys2Proof.Machine.execEthRingSet id bus s
  | .ethGateListSet id bus => Sys2Proof.Machine.execEthGateListSet id bus s
  | .ptpLoadO client bus => Sys2Proof.Machine.execPtpLoadO client bus s
  | .ptpStep client bus => Sys2Proof.Machine.execPtpStep client bus s
  | .ptpLoadRho client => Sys2Proof.Machine.execPtpLoadRho client s
  | .triggerArmWrite client t data bus => Sys2Proof.Machine.execTriggerArmWrite client t data bus s
  | .triggerFire t bus => Sys2Proof.Machine.execTriggerFire t bus s
  | .captureEdge c rising => Sys2Proof.Machine.execCaptureEdge c rising s
  | .capTimeRead client c => Sys2Proof.Machine.execCapTimeRead client c s
  | .ptpNowRead client => Sys2Proof.Machine.execPtpNowRead client s
  | .dramRequestAccept ma write urgent data => Sys2Proof.Machine.execDramRequestAccept ma write urgent data s
  | .dramRequestServe ch linkFixed inlineFixed bad => Sys2Proof.Machine.execDramRequestServe ch linkFixed inlineFixed bad s
  | .refreshDue ch => Sys2Proof.Machine.execRefreshDue ch s
  | .mr4Poll ch rate => Sys2Proof.Machine.execMr4Poll ch rate s
  | .selfRefreshEntry quad => Sys2Proof.Machine.execSelfRefreshEntry quad s
  | .selfRefreshExit quad => Sys2Proof.Machine.execSelfRefreshExit quad s
  | .opPointChange quad => Sys2Proof.Machine.execOpPointChange quad s
  | .gatheringStep quad trims figures => Sys2Proof.Machine.execGatheringStep quad trims figures s
  | .channelMapOut ch cause => Sys2Proof.Machine.execChannelMapOut ch cause s
  | .windowSet id bus => Sys2Proof.Machine.execWindowSet id bus s
  | .dramOpSet id bus => Sys2Proof.Machine.execDramOpSet id bus s
  | .dramTrain id bus fails trims => Sys2Proof.Machine.execDramTrain id bus fails trims s
  | .channelService id bus trained => Sys2Proof.Machine.execChannelService id bus trained s
  | .compressionJobStart u => Sys2Proof.Machine.execCompressionJobStart u s
  | .compressionJobEnd u bus => Sys2Proof.Machine.execCompressionJobEnd u bus s
  | .scarfDeflateWaitExpiry p => Sys2Proof.Machine.execScarfDeflateWaitExpiry p s
  | .compJob id bus => Sys2Proof.Machine.execCompJob id bus s
  | .blitJob id bus => Sys2Proof.Machine.execBlitJob id bus s
  | .blockJobStart => Sys2Proof.Machine.execBlockJobStart s
  | .blockWatermark => Sys2Proof.Machine.execBlockWatermark s
  | .blockJobEnd bus => Sys2Proof.Machine.execBlockJobEnd bus s
  | .vinSample vin pin => Sys2Proof.Machine.execVinSample vin pin s
  | .governorStep rule p => Sys2Proof.Machine.execGovernorStep rule p s
  | .domainSleep d depth => Sys2Proof.Machine.execDomainSleep d depth s
  | .domainWake d => Sys2Proof.Machine.execDomainWake d s
  | .powerFailure => Sys2Proof.Machine.execPowerFailure s
  | .powerFailRecordCommit => Sys2Proof.Machine.execPowerFailRecordCommit s
  | .powerFailRecovery => Sys2Proof.Machine.execPowerFailRecovery s
  | .undervoltageLockout => Sys2Proof.Machine.execUndervoltageLockout s
  | .powerOn straps => Sys2Proof.Machine.execPowerOn straps s
  | .vinOvervoltage => Sys2Proof.Machine.execVinOvervoltage s
  | .vinReversed on straps => Sys2Proof.Machine.execVinReversed on straps s
  | .powerStateSet id bus late => Sys2Proof.Machine.execPowerStateSet id bus late s
  | .hibernateWake source => Sys2Proof.Machine.execHibernateWake source s
  | .aonTimerExpiry => Sys2Proof.Machine.execAonTimerExpiry s
  | .sensorConversion n t => Sys2Proof.Machine.execSensorConversion n t s
  | .zoneStep z => Sys2Proof.Machine.execZoneStep z s
  | .shutTrip n => Sys2Proof.Machine.execShutTrip n s
  | .shutNvmProgramEnd late => Sys2Proof.Machine.execShutNvmProgramEnd late s
  | .thermalSet id bus => Sys2Proof.Machine.execThermalSet id bus s
  | .thermalSample id bus temps => Sys2Proof.Machine.execThermalSample id bus temps s
  | .calibration dram key trims met => Sys2Proof.Machine.execCalibration dram key trims met s
  | .trimSlewTick idx atTemp => Sys2Proof.Machine.execTrimSlewTick idx atTemp s
  | .ageingMeasure b deltas => Sys2Proof.Machine.execAgeingMeasure b deltas s
  | .truingPassDue => Sys2Proof.Machine.execTruingPassDue s
  | .truingBent offset ceiling deltas => Sys2Proof.Machine.execTruingBent offset ceiling deltas s
  | .recordCommit => Sys2Proof.Machine.execRecordCommit s
  | .journalReclaim => Sys2Proof.Machine.execJournalReclaim s
  | .sectorEraseDone => Sys2Proof.Machine.execSectorEraseDone s
  | .splSectorRetired erase => Sys2Proof.Machine.execSplSectorRetired erase s
  | .journalBootScan factoryBad fails trained => Sys2Proof.Machine.execJournalBootScan factoryBad fails trained s
  | .firmwareBootVerify bus => Sys2Proof.Machine.execFirmwareBootVerify bus s
  | .trialConfirmExpiry => Sys2Proof.Machine.execTrialConfirmExpiry s
  | .calRun id bus => Sys2Proof.Machine.execCalRun id bus s
  | .calRollback id bus => Sys2Proof.Machine.execCalRollback id bus s
  | .truingRun id bus => Sys2Proof.Machine.execTruingRun id bus s
  | .splRead id bus => Sys2Proof.Machine.execSplRead id bus s
  | .fwWrite id bus => Sys2Proof.Machine.execFwWrite id bus s
  | .fwActivate id bus => Sys2Proof.Machine.execFwActivate id bus s
  | .counterEvent n amount => Sys2Proof.Machine.execCounterEvent n amount s
  | .pfcValWrite client n value => Sys2Proof.Machine.execPfcValWrite client n value s
  | .pfcPairLowRead client n => Sys2Proof.Machine.execPfcPairLowRead client n s
  | .meterWindowEnd bytes => Sys2Proof.Machine.execMeterWindowEnd bytes s
  | .pfcMeterCfgWrite client data => Sys2Proof.Machine.execPfcMeterCfgWrite client data s
  | .pfcSnapWrite client data => Sys2Proof.Machine.execPfcSnapWrite client data s
  | .pfcFreezeWrite client data => Sys2Proof.Machine.execPfcFreezeWrite client data s
  | .pfcSnapTimeRead client => Sys2Proof.Machine.execPfcSnapTimeRead client s
  | .taggedRayRecord bay rays flags region ray node slots tDirty offsets => Sys2Proof.Machine.execTaggedRayRecord bay rays flags region ray node slots tDirty offsets s
  | .preciseRecord item source itemId latency => Sys2Proof.Machine.execPreciseRecord item source itemId latency s
  | .recordBufferWrite => Sys2Proof.Machine.execRecordBufferWrite s
  | .pfcBufConfigWrite client size data => Sys2Proof.Machine.execPfcBufConfigWrite client size data s
  | .pfcProgram id bus => Sys2Proof.Machine.execPfcProgram id bus s
  | .pfcSnapshot id bus => Sys2Proof.Machine.execPfcSnapshot id bus s
  | .sampleDrain id bus => Sys2Proof.Machine.execSampleDrain id bus s
  | .coldReset cause straps => Sys2Proof.Machine.execColdReset cause straps s
  | .warmReset cause => Sys2Proof.Machine.execWarmReset cause s
  | .functionLevelReset f linkB => Sys2Proof.Machine.execFunctionLevelReset f linkB s
  | .resetPinAssert low cool => Sys2Proof.Machine.execResetPinAssert low cool s
  | .perstAssert linkB => Sys2Proof.Machine.execPerstAssert linkB s
  | .firmwareWatchdogExpiry => Sys2Proof.Machine.execFirmwareWatchdogExpiry s
  | .stateRamParityError rebuildable ram addr => Sys2Proof.Machine.execStateRamParityError rebuildable ram addr s
  | .uncoreFault die ready => Sys2Proof.Machine.execUncoreFault die ready s
  | .moduleReset id bus => Sys2Proof.Machine.execModuleReset id bus s
  | .blockReset id bus => Sys2Proof.Machine.execBlockReset id bus s
  | .reportRead id bus => Sys2Proof.Machine.execReportRead id bus s
  | .ledgerSnapshot id bus => Sys2Proof.Machine.execLedgerSnapshot id bus s
  | .smbusStatusRead ara => Sys2Proof.Machine.execSmbusStatusRead ara s
  | .smbusBootStatus => Sys2Proof.Machine.execSmbusBootStatus s
  | .smbusTempMax => Sys2Proof.Machine.execSmbusTempMax s
  | .smbusVin => Sys2Proof.Machine.execSmbusVin s
  | .smbusWake data => Sys2Proof.Machine.execSmbusWake data s
  | .smbAlert => Sys2Proof.Machine.execSmbAlert s
  | .jtagInstruction code => Sys2Proof.Machine.execJtagInstruction code s
  | .refFallback => Sys2Proof.Machine.execRefFallback s
  | .linkResetTimeout => Sys2Proof.Machine.execLinkResetTimeout s
  | .protocolError q code violations => Sys2Proof.Machine.execProtocolError q code violations s
  | .worvelTrain p lane taps ctl own inverted => Sys2Proof.Machine.execWorvelTrain p lane taps ctl own inverted s
  | .worvelLaneMap p mask => Sys2Proof.Machine.execWorvelLaneMap p mask s
  | .txTapStep idx => Sys2Proof.Machine.execTxTapStep idx s
  | .bar4Access client off write data len => Sys2Proof.Machine.execBar4Access client off write data len s
  | .ringWindowWrite client page r off data => Sys2Proof.Machine.execRingWindowWrite client page r off data s

end Sys2Proof.Machine
end

