-- ==== Sys2Proof/Machine/Step.lean ====
section
/-! DEFINITION. One step of the block: the command at the front of the queue, or one tick of the module clock. -/

namespace Sys2Proof.Machine

open Sys2Proof

/-- The block without a command: one nanosecond of F passes (R345; log entry 7). -/
def idle (s : State) : State := { s with ptp := { s.ptp with f := s.ptp.f + 1 } }

/-- One step: the oldest waiting command runs on the state with the queue's rest; an empty queue is one tick. -/
def step (s : State) : Host.Outcome State Fault Refusal :=
  match s.pending with
  | [] => .next (idle s)
  | c :: rest => exec c { s with pending := rest }

/-- The state with the command that a table word spells in front of its queue; no row of the table gives bits. -/
def State.withFetchWord (s : State) (nbits w : Nat) : State :=
  match decodeTableWord nbits w with
  | none => s
  | some c => { s with pending := c :: s.pending }

end Sys2Proof.Machine
end

