-- ==== Sys2Proof/Safety.lean ====
section
/-! DEFINITION. What a safe run is: no step of it faults or is refused, and every store keeps its canonical form. -/

namespace Sys2Proof

open Sys2Proof.Machine

/-- A memory is in canonical form: addresses strictly rising, and no entry equal to what an unlisted address reads as, 0
(log entry 5). -/
def Memory.wf (m : List Host.Cell) : Bool := Store.wf (fun _ => (0 : Byte)) m

/-- The register file, its active copy, the ledger and module DRAM are in canonical form. -/
def Canonical (s : State) : Prop :=
  Store.wf resetReg s.regs = true ∧ Store.wf resetReg s.active = true ∧
  Store.wf (fun _ => 0) s.ledger = true ∧ Memory.wf s.dram = true

/-- A run of `n` steps from `s` ends in a state, with no fault and no refusal on its way. -/
def SafeRun (n : Nat) (s : State) : Prop := ∃ t, core.run n s = .next t

end Sys2Proof
end

