-- ==== Sys2Proof/Certificates/Slice0/Obligations.lean ====
section
/-! DEFINITION. The statements for the provers, family by family, and the words in which they speak of a command's effect. -/

namespace Sys2Proof.Machine

open Sys2Proof

/-- Command `c`, in flight under `id` with opcode `op`, has been dispatched and may start (R76, R79). -/
abbrev Startable (s : State) (id : Nat) (op : Op) (c : Cmd) : Prop :=
  s.cmdOf id = some c ∧ c.opcode = op.code ∧ c.phase = .started ∧ s.mayStart c = true

/-- Every register element but those listed reads as before. -/
def OtherRegs (s t : State) (es : List Nat) : Prop := ∀ e, e ∉ es → t.reg e = s.reg e

/-- Every active value but those listed reads as before. -/
def OtherActs (s t : State) (es : List Nat) : Prop := ∀ e, e ∉ es → t.act e = s.act e

/-- Every ledger term but those listed is as before. -/
def OtherTerms (s t : State) (ks : List Nat) : Prop := ∀ k, k ∉ ks → t.term k = s.term k

/-- The registers that count accesses to module DRAM (R365, R372, R382). -/
def dramCounts : List Nat :=
  R.DMC_UNMAPPED :: (List.range 8).map R.DMC_WIN_HOLES ++ (List.range 32).flatMap fun k => (List.range 16).map (R.DMC_CH_CNT k)

/-- Whether a write of `n` bytes from module address `ma` on may change the physical byte `key`: one of the bytes' places, or
one of the check bytes of its 64-byte access (R363 to R367). -/
def State.touched (s : State) (ma n key : Nat) : Bool :=
  (List.range n).any fun j => match s.placeOf (ma + j) with
    | .at_ w ch bank row col =>
      key == physKey ch bank row col || (s.fld (R.DMC_WIN_CFG_iecc w) == 1 && (List.range 64).any fun i =>
        key == checkKey ch bank (s.fld (R.DMC_WIN_ROWS_row0 w)) (s.fld (R.DMC_WIN_ROWS_rows512 w) * 512)
          (row - s.fld (R.DMC_WIN_ROWS_row0 w)) (col / 64) + i)
    | _ => false

/-- Every bay, class node, check region, region, decode stream and pipe that the records of the scheduler, the square checks,
the regions and the decode pipes name is one that exists, and the grid has at most 65,536 regions, so that what is counted for it lands in its own register. -/
def State.inBounds (s : State) : Bool :=
  (s.sch.jobs.all fun j => decide (j.bay < 64) && decide (j.node < 256) && j.check.all fun x => decide (x.1 < 256)) &&
  (s.sch.again.all fun a => decide (a.check < 256) && decide (a.node < 256)) &&
  (s.glu.pending.all fun p => decide (p.2 < 256)) && (s.glu.dirty.all fun c => decide (c < 256)) &&
  (s.glu.loaded.all fun e => decide (e.1 < 256)) &&
  (s.dmg.regions.all fun e => decide (e.1 < 65536) && decide (e.2.node < 256)) &&
  (s.dec.streams.all fun e => decide (e.1 < 64) && e.2.all fun d => decide (d.pipe < 16)) &&
  decide (s.regionCount ≤ 65536) && (s.gridOn || s.regionCount == 0)

end Sys2Proof.Machine

open Sys2Proof Sys2Proof.Machine

/-- For every state whose queue holds a command c in front, step is exec of c on the state with the rest of the queue. With an
empty queue the step is one tick of the module clock, which changes F alone: this tick is the model's choice (log entry 7). -/
def Obligations.StepRunsTheFrontCommand : Prop :=
  (∀ (s : State) (c : Instr) (rest : List Instr), s.pending = c :: rest → step s = exec c { s with pending := rest }) ∧
  (∀ (s : State), s.pending = [] → step s = .next { s with ptp := { s.ptp with f := s.ptp.f + 1 } })

/-- From every state whose register file, active copy, ledger terms and module DRAM are in canonical form (keys strictly rising,
no entry equal to what an unlisted key reads as), every step, whatever command is in front of the queue, answers a state in
which they are in canonical form. -/
def Obligations.StepKeepsStoresCanonical : Prop :=
  ∀ s t : State, Canonical s → step s = .next t → Canonical t

/-- For every command and state exec answers a next state with the queue as it was (log entry 8: no row of the table stops the
block). So from every state the run of as many steps as commands wait ends in a state whose queue is empty, and a run of any
length is safe. -/
def Obligations.CommandsNeverStopAndTheQueueDrains : Prop :=
  (∀ (c : Instr) (s : State), ∃ t, exec c s = .next t ∧ t.pending = s.pending) ∧
  (∀ s : State, ∃ t, core.run s.pending.length s = .next t ∧ t.pending = []) ∧
  (∀ (n : Nat) (s : State), SafeRun n s)

/-- At reset the register file, its active copy, the ledger and module DRAM are canonical, no command waits, no command is in
flight and nothing has left the module. The identity and capability registers, the ring sizes, client 0's presence, rights,
DRAM window 0, the class precedence 15 - c, the lane enables, the DRAM channels in service, the layer flags premul and
limited, the dither mode and the PFC and FLT registers hold the reset values of their field maps. -/
def Obligations.ResetLeavesTheStatedRegisterValues : Prop :=
  (Canonical State.reset) ∧
  (State.reset.pending = [] ∧ State.reset.cmd.inflight = [] ∧ State.reset.out = [] ∧ State.reset.dram = []) ∧
  (State.reset.reg R.GLB_ID = 0x25605646 ∧ State.reset.fld R.GLB_CAPS_engines = 576 ∧
     State.reset.fld R.GLB_CAPS_lanes = 256 ∧ State.reset.fld R.GLB_CAPS_channels = 32 ∧ State.reset.fld R.GLB_CAPS_layers = 64) ∧
  (∀ i, i < 16 → State.reset.fld (R.CMD_SQ_CFG_log2size i) = 6 ∧ State.reset.fld (R.CMD_CQ_CFG_log2size i) = 6 ∧
     State.reset.fld (R.CMD_EVQ_CFG_log2size i) = 6 ∧ State.reset.fld (R.CMD_SQ_CFG_enable i) = 0) ∧
  ((∀ f, f < 16 → State.reset.present f = (f == 0)) ∧ State.reset.fld (R.HST_FN_RIGHTS_ranges 0) = 0x3FFF) ∧
  (∀ q c, q < 16 → c < 16 → State.reset.fld (R.SCH_CLASS_PREC_precedence c) = 15 - c ∧
     State.reset.fld (R.SCH_CLASS_SLOPE_idle_slope q c) = 65535 ∧ State.reset.fld (R.PNL_GROUP_CFG_lane_enable q) = 4095) ∧
  (∀ n, n < 64 → State.reset.fld (R.SCN_LAYER_CFG_premul n) = 1 ∧ State.reset.fld (R.SCN_LAYER_CFG_limited n) = 1 ∧
     State.reset.fld (R.SCN_LAYER_CFG_enable n) = 0) ∧
  (State.reset.fld R.DMC_CH_OK_ok = 0xFFFFFFFF ∧ State.reset.windowOf 0 = some 0 ∧ State.reset.windowOf 0x1000000000 = none ∧
     State.reset.fld R.GLU_CFG_dither = 2 ∧ State.reset.fld R.PFC_SAMPLE_SEED_seed = 1 ∧
     State.reset.fld R.FLT_RESET_STATUS_level = 1 ∧ State.reset.fld R.FLT_RESET_STATUS_cause = 1)

/-- A write of CMD_SQ_CFG with enable = 1 to a ring that is neither enabled nor halted enables it with head and tail 0 and takes a
size of 6 to 12; to an enabled ring that is halted it only clears halted, with head and size kept; with enable = 0 it disables
the ring and clears halted. A completion ring that is not enabled is enabled with head and tail 0, and with the vector and
holdoff written, where its reserved slots fit the size; an enabled one that is not halted starts to close on enable = 0, and
stays enabled; one that closes with no slot reserved reads disabled at COMPLETION_RING_CLOSED. An event ring that is neither
enabled nor halted is enabled with tail and lost 0, its owner written by client 0 alone; enable = 0 disables it. A write of a
command or completion ring by a client that does not see the ring is dropped and counted. Every register but those of the
ring, or the count of drops, stays, and so does every part of the state that the rings' own records, the record of lost
events, the read latches and waiting writes, and the counters' latch are no part of. -/
def Obligations.RingEnableWritesStartAndStopRings : Prop :=
  (∀ (s : State) (client i data : Nat),
    seesRing client i = true → s.fld (R.CMD_SQ_CFG_enable i) = 0 → s.fld (R.CMD_SQ_CFG_halted i) = 0 → data.testBit 0 = true →
    ∃ t, exec (.cmdSqEnableWrite client i data) s = .next t ∧
      t.fld (R.CMD_SQ_CFG_enable i) = 1 ∧ t.fld (R.CMD_SQ_HEAD_head i) = 0 ∧ t.tailOf i = 0 ∧
      t.fld (R.CMD_SQ_CFG_log2size i) =
      (if 6 ≤ bitsOf data 8 4 ∧ bitsOf data 8 4 ≤ 12 then bitsOf data 8 4 else s.fld (R.CMD_SQ_CFG_log2size i)) ∧
      OtherRegs s t [R.CMD_SQ_CFG i, R.CMD_SQ_HEAD i] ∧ t = { s with regs := t.regs, cmd := t.cmd, hst := t.hst, pfc := t.pfc }) ∧
  (∀ (s : State) (client i data : Nat),
    seesRing client i = true → s.fld (R.CMD_SQ_CFG_enable i) = 1 → s.fld (R.CMD_SQ_CFG_halted i) = 1 → data.testBit 0 = true →
    ∃ t, exec (.cmdSqEnableWrite client i data) s = .next t ∧
      t.fld (R.CMD_SQ_CFG_halted i) = 0 ∧ t.fld (R.CMD_SQ_CFG_enable i) = 1 ∧
      t.fld (R.CMD_SQ_HEAD_head i) = s.fld (R.CMD_SQ_HEAD_head i) ∧
      t.fld (R.CMD_SQ_CFG_log2size i) = s.fld (R.CMD_SQ_CFG_log2size i) ∧ OtherRegs s t [R.CMD_SQ_CFG i] ∧
      t = { s with regs := t.regs, hst := t.hst, pfc := t.pfc }) ∧
  (∀ (s : State) (client i data : Nat),
    seesRing client i = true → data.testBit 0 = false →
    ∃ t, exec (.cmdSqEnableWrite client i data) s = .next t ∧
      t.fld (R.CMD_SQ_CFG_halted i) = 0 ∧ t.fld (R.CMD_SQ_CFG_enable i) = 0 ∧ OtherRegs s t [R.CMD_SQ_CFG i] ∧
      t = { s with regs := t.regs, hst := t.hst, pfc := t.pfc }) ∧
  (∀ (s : State) (client i data : Nat),
    seesRing client i = true → s.fld (R.CMD_CQ_CFG_enable i) = 0 → data.testBit 0 = true →
    s.reservedOf i ≤ 2 ^ (if 6 ≤ bitsOf data 8 4 ∧ bitsOf data 8 4 ≤ 12 then bitsOf data 8 4 else s.fld (R.CMD_CQ_CFG_log2size i)) - 1 →
    ∃ t, exec (.cmdCqEnableWrite client i data) s = .next t ∧
      t.fld (R.CMD_CQ_CFG_enable i) = 1 ∧ t.fld (R.CMD_CQ_STATE_tail i) = 0 ∧ t.fld (R.CMD_CQ_HEAD_head i) = 0 ∧
      t.fld (R.CMD_CQ_CFG_vector i) = bitsOf data 16 6 ∧ t.fld (R.CMD_CQ_CFG_holdoff i) = bitsOf data 24 8 ∧
      OtherRegs s t [R.CMD_CQ_CFG i, R.CMD_CQ_STATE i, R.CMD_CQ_HEAD i] ∧
      t = { s with regs := t.regs, cmd := t.cmd, hst := t.hst, pfc := t.pfc }) ∧
  (∀ (s : State) (client i data : Nat),
    seesRing client i = true → s.fld (R.CMD_CQ_CFG_enable i) = 1 → s.fld (R.CMD_CQ_CFG_halted i) = 0 → data.testBit 0 = false →
    ∃ t, exec (.cmdCqEnableWrite client i data) s = .next t ∧
      t.fld (R.CMD_CQ_CFG_closing i) = 1 ∧ t.fld (R.CMD_CQ_CFG_enable i) = 1 ∧ OtherRegs s t [R.CMD_CQ_CFG i] ∧
      t = { s with regs := t.regs, hst := t.hst, pfc := t.pfc }) ∧
  (∀ (s : State) (i : Nat),
    s.fld (R.CMD_CQ_CFG_closing i) = 1 → s.reservedOf i = 0 →
    ∃ t, exec (.completionRingClosed i) s = .next t ∧
      t.fld (R.CMD_CQ_CFG_enable i) = 0 ∧ t.fld (R.CMD_CQ_CFG_closing i) = 0 ∧ OtherRegs s t [R.CMD_CQ_CFG i] ∧
      t = { s with regs := t.regs }) ∧
  (∀ (s : State) (client e data : Nat),
    s.seesEventRing client e = true → data.testBit 0 = false →
    ∃ t, exec (.eventRingEnableWrite client e data) s = .next t ∧
      t.fld (R.CMD_EVQ_CFG_enable e) = 0 ∧ t.fld (R.CMD_EVQ_CFG_halted e) = 0 ∧ OtherRegs s t [R.CMD_EVQ_CFG e] ∧
      t = { s with regs := t.regs, cmd := t.cmd, flt := t.flt, hst := t.hst, pfc := t.pfc }) ∧
  (∀ (s : State) (client e data : Nat),
    s.seesEventRing client e = true → data.testBit 0 = true → s.fld (R.CMD_EVQ_CFG_enable e) = 0 →
    s.fld (R.CMD_EVQ_CFG_halted e) = 0 →
    ∃ t, exec (.eventRingEnableWrite client e data) s = .next t ∧
      t.fld (R.CMD_EVQ_CFG_enable e) = 1 ∧ t.fld (R.CMD_EVQ_STATE_tail e) = 0 ∧ t.fld (R.CMD_EVQ_STATE_lost e) = 0 ∧
      t.fld (R.CMD_EVQ_CFG_owner e) = (if client = 0 then bitsOf data 12 4 else s.fld (R.CMD_EVQ_CFG_owner e)) ∧
      OtherRegs s t [R.CMD_EVQ_CFG e, R.CMD_EVQ_STATE e] ∧
      t = { s with regs := t.regs, cmd := t.cmd, flt := t.flt, hst := t.hst, pfc := t.pfc }) ∧
  (∀ (s : State) (client i data : Nat),
    seesRing client i = false →
    ∃ t, exec (.cmdSqEnableWrite client i data) s = .next t ∧
      exec (.cmdCqEnableWrite client i data) s = .next t ∧
      t.fld (R.HST_FN_DROPS_count client) = min (s.fld (R.HST_FN_DROPS_count client) + 1) (2 ^ 32 - 1) ∧
      OtherRegs s t [R.HST_FN_DROPS client] ∧ t = { s with regs := t.regs, hst := t.hst, pfc := t.pfc })

/-- A doorbell that a client rings on its own page for a ring of its own that is enabled, with a value below the ring's size,
records the command tail, the completion head, the event head or the Ethernet tail; a fence doorbell records the 32-bit fence
value of a layer that no other client owns. Nothing else changes. A doorbell on another client's page, or a write at an offset
of the page that has no doorbell, changes no pointer: the writing client's drop count (the model's choice, log entry 52) rises
by 1 (saturating) and DOORBELL_REFUSED is posted with the client and the doorbell's offset. -/
def Obligations.DoorbellsMoveRingPointersOrAreRefused : Prop :=
  (∀ (s : State) (client r value : Nat),
    r < 16 → s.fld (R.CMD_SQ_CFG_enable (16 * client + r)) = 1 → value % 2 ^ 32 < s.sqSize (16 * client + r) →
    ∃ t, exec (.commandTailDoorbell client client (8 * r) value) s = .next t ∧
      t.tailOf (16 * client + r) = value % 2 ^ 32 ∧ (∀ j, j ≠ 16 * client + r → t.tailOf j = s.tailOf j) ∧
      t.cmd = { s.cmd with tails := t.cmd.tails } ∧ t = { s with cmd := t.cmd }) ∧
  (∀ (s : State) (client r value : Nat),
    r < 16 → s.fld (R.CMD_CQ_CFG_enable (16 * client + r)) = 1 → value % 2 ^ 32 < s.cqSize (16 * client + r) →
    ∃ t, exec (.completionHeadDoorbell client client r value) s = .next t ∧
      t.fld (R.CMD_CQ_HEAD_head (16 * client + r)) = value % 2 ^ 32 ∧ OtherRegs s t [R.CMD_CQ_HEAD (16 * client + r)] ∧
      t = { s with regs := t.regs }) ∧
  (∀ (s : State) (client e value : Nat),
    e < 16 → s.fld (R.CMD_EVQ_CFG_enable e) = 1 → s.fld (R.CMD_EVQ_CFG_owner e) = client → value % 2 ^ 32 < s.evSize e →
    ∃ t, exec (.eventHeadDoorbell client client e value) s = .next t ∧
      Store.get (fun _ => 0) t.cmd.evHeads e = value % 2 ^ 32 ∧
      (∀ j, j ≠ e → Store.get (fun _ => 0) t.cmd.evHeads j = Store.get (fun _ => 0) s.cmd.evHeads j) ∧
      t.cmd = { s.cmd with evHeads := t.cmd.evHeads } ∧ t = { s with cmd := t.cmd }) ∧
  (∀ (s : State) (client k value : Nat),
    k < 8 → (s.fld (R.SCN_LAYER_STATUS_owned k) = 1 → s.fld (R.SCN_LAYER_STATUS_owner k) = client) →
    ∃ t, exec (.fenceDoorbell client client k value) s = .next t ∧
      t.fld (R.CLP_FENCE_VALUE_value k) = value % 2 ^ 32 ∧ OtherRegs s t [R.CLP_FENCE_VALUE k] ∧ t = { s with regs := t.regs }) ∧
  (∀ (s : State) (client value : Nat),
    value < 2 ^ 22 → s.fld (R.ETH_TXQ_CFG_enable (value / 65536)) = 1 → s.fld (R.ETH_TXQ_CFG_owner (value / 65536)) = client →
    value % 65536 < 2 ^ s.fld (R.ETH_TXQ_CFG_log2size (value / 65536)) →
    ∃ t, exec (.ethTxTailDoorbell client client value) s = .next t ∧
      Store.get (fun _ => 0) t.eth.txTails (value / 65536) = value % 65536 ∧
      (∀ j, j ≠ value / 65536 → Store.get (fun _ => 0) t.eth.txTails j = Store.get (fun _ => 0) s.eth.txTails j) ∧
      t.eth = { s.eth with txTails := t.eth.txTails } ∧ t = { s with eth := t.eth }) ∧
  (∀ (s : State) (client value : Nat),
    value < 2 ^ 25 → s.fld (R.ETH_RXQ_CFG_enable (value / 65536)) = 1 → s.fld (R.ETH_RXQ_CFG_owner (value / 65536)) = client →
    value % 65536 < 2 ^ s.fld (R.ETH_RXQ_CFG_log2size (value / 65536)) →
    ∃ t, exec (.ethRxTailDoorbell client client value) s = .next t ∧
      Store.get (fun _ => 0) t.eth.rxTails (value / 65536) = value % 65536 ∧
      (∀ j, j ≠ value / 65536 → Store.get (fun _ => 0) t.eth.rxTails j = Store.get (fun _ => 0) s.eth.rxTails j) ∧
      t.eth = { s.eth with rxTails := t.eth.rxTails } ∧ t = { s with eth := t.eth }) ∧
  (∀ (s : State) (client page r value : Nat),
    page ≠ client → r < 16 →
    ∃ t, exec (.commandTailDoorbell client page (8 * r) value) s = .next t ∧
      exec (.completionHeadDoorbell client page r value) s = .next (s.refuseDoorbell client (0x100 + 8 * r)) ∧
      exec (.eventHeadDoorbell client page r value) s = .next (s.refuseDoorbell client (0x200 + 8 * r)) ∧
      exec (.fenceDoorbell client page r value) s = .next (s.refuseDoorbell client (0x300 + 8 * r)) ∧
      t.fld (R.HST_FN_DROPS_count client) = min (s.fld (R.HST_FN_DROPS_count client) + 1) (2 ^ 32 - 1) ∧
      t.cmd.events = s.cmd.events ++ [⟨0x0101, client % 65536, 8 * r % 4294967296, s.now, some client, none, none⟩] ∧
      OtherRegs s t [R.HST_FN_DROPS client] ∧ t.cmd = { s.cmd with events := t.cmd.events } ∧
      t = { s with regs := t.regs, cmd := t.cmd }) ∧
  (∀ (s : State) (client page value : Nat),
    page ≠ client →
    ∃ t, exec (.ethTxTailDoorbell client page value) s = .next t ∧
      exec (.ethRxTailDoorbell client page value) s = .next (s.refuseDoorbell client 0x808) ∧
      t.fld (R.HST_FN_DROPS_count client) = min (s.fld (R.HST_FN_DROPS_count client) + 1) (2 ^ 32 - 1) ∧
      t.cmd.events = s.cmd.events ++ [⟨0x0101, client % 65536, 0x800, s.now, some client, none, none⟩] ∧
      OtherRegs s t [R.HST_FN_DROPS client] ∧ t = { s with regs := t.regs, cmd := t.cmd }) ∧
  (∀ (s : State) (client page off value : Nat),
    off < 4096 → otherDoorbell off = false → 0x80 ≤ off ∨ off % 8 ≠ 0 →
    ∃ t, exec (.commandTailDoorbell client page off value) s = .next t ∧
      t = s.refuseDoorbell client off ∧
      t.fld (R.HST_FN_DROPS_count client) = min (s.fld (R.HST_FN_DROPS_count client) + 1) (2 ^ 32 - 1) ∧
      t.cmd.events = s.cmd.events ++ [⟨0x0101, client % 65536, off, s.now, some client, none, none⟩] ∧
      OtherRegs s t [R.HST_FN_DROPS client] ∧ t.cmd = { s.cmd with events := t.cmd.events } ∧
      t = { s with regs := t.regs, cmd := t.cmd })

/-- Where firmware runs, fewer than 4,096 commands are in flight and arbitration picks a ring, that ring can be fetched from; a
readable head packet enters flight at the end, under the next identity and with the client's rights and aperture of that
moment, and the ring's head moves on by one modulo its size. A head packet that cannot be read halts the ring and posts
RING_FAULT. Dispatch takes the oldest command not yet dispatched: one that passes the tests of R535 is started with its
parameters, one that fails them gets a final reply with no items, its status and its detail, and one whose parameter block the
bus fails gets HARDWARE_FAULT with one item failed (the model's reading, log entry 27). Nothing else changes but the arbiter's
turn and the fetch count. -/
def Obligations.FetchAndDispatchTakeCommandsInOrder : Prop :=
  (∀ (s : State) (bus : Bus) (i : Nat) (p : List Byte),
    s.fwStopped = false → s.cmd.inflight.length < 4096 → s.pickRing bus = some i → s.headPacket bus i = some p →
    ∃ t, exec (.commandFetch bus) s = .next t ∧
      s.fetchable bus i = true ∧ t.fld (R.CMD_SQ_HEAD_head i) = (s.fld (R.CMD_SQ_HEAD_head i) + 1) % s.sqSize i ∧
      t.cmd.inflight = s.cmd.inflight ++ [{
    id := s.cmd.nextId, client := i / 16, ring := i % 16, packet := p,
    ranges := (s.reg (R.HST_FN_RIGHTS (i / 16))).toNat % 65536, base := s.fld (R.HST_FN_APERTURE_base (i / 16)),
    size := s.fld (R.HST_FN_APERTURE_size (i / 16)), defers := replySlots (leAt p 0 2) == 2 }] ∧
      t.cmd.nextId = s.cmd.nextId + 1 ∧ t.cmd.replies = s.cmd.replies ∧ t.cmd.events = s.cmd.events ∧
      OtherRegs s t [R.CMD_SQ_HEAD i] ∧ t = { s with regs := t.regs, cmd := t.cmd }) ∧
  (∀ (s : State) (bus : Bus) (i : Nat),
    s.fwStopped = false → s.cmd.inflight.length < 4096 → s.pickRing bus = some i → s.headPacket bus i = none →
    ∃ t, exec (.commandFetch bus) s = .next t ∧
      t.fld (R.CMD_SQ_CFG_halted i) = 1 ∧
      t.cmd.events = s.cmd.events ++ [⟨0x0102, i / 16 % 65536, (i + s.fld (R.CMD_SQ_HEAD_head i) * 256) % 4294967296, s.now,
    some (i / 16), none, none⟩] ∧
      t.cmd.inflight = s.cmd.inflight ∧ OtherRegs s t [R.CMD_SQ_CFG i] ∧ t.cmd = { s.cmd with events := t.cmd.events } ∧
      t = { s with regs := t.regs, cmd := t.cmd }) ∧
  (∀ (s : State) (bus : Bus) (c : Cmd) (d : List Byte),
    s.fwStopped = false → s.cmd.inflight.find? (fun c => c.phase == .queued) = some c → c.verdict bus = .start d →
    ∃ t, exec (.commandDispatch bus) s = .next t ∧
      t.cmd.inflight = s.cmd.inflight.map (fun x => if x.id = c.id then { c with phase := .started, params := d } else x) ∧
      t.cmd = { s.cmd with inflight := t.cmd.inflight } ∧ t = { s with cmd := t.cmd }) ∧
  (∀ (s : State) (bus : Bus) (c : Cmd) (st d : Nat),
    s.fwStopped = false → s.cmd.inflight.find? (fun c => c.phase == .queued) = some c → c.verdict bus = .refuse st d →
    ∃ t, exec (.commandDispatch bus) s = .next t ∧
      t.cmd.replies = s.cmd.replies ++ [⟨c.id, c.client, c.ring, c.opcode, st, c.tag, 0, 0, 0, d % 65536, true, c.notify, none⟩] ∧
      t.cmd.inflight = s.cmd.inflight.map (fun x => if x.id = c.id then { c with phase := .replied } else x) ∧
      t.cmd = { s.cmd with inflight := t.cmd.inflight, replies := t.cmd.replies } ∧ t = { s with cmd := t.cmd }) ∧
  (∀ (s : State) (bus : Bus) (c : Cmd),
    s.fwStopped = false → s.cmd.inflight.find? (fun c => c.phase == .queued) = some c → c.verdict bus = .fault →
    ∃ t, exec (.commandDispatch bus) s = .next t ∧
      t = s.failOne c stFault ∧
      t.cmd.replies = s.cmd.replies ++ [⟨c.id, c.client, c.ring, c.opcode, stFault, c.tag, 1, 0, 1, detailOf [⟨stFault, 0, 0⟩], true, c.notify, none⟩] ∧
      t = { s with cmd := t.cmd })

/-- The oldest reply of a completion ring that is enabled, not halted and in client memory, where it is final, asks no signal and
has no item list, is written as 32 bytes at the tail entry; the tail moves on modulo the size and is written back where
CMD_CQ_WB is not 0; the reply is gone and its command leaves flight. Where its packet has an item list, its items are written
to the list's address first; where that write fails, nothing of the list is written and the entry carries HARDWARE_FAULT. A
reply write that fails halts the ring, posts RING_FAULT and writes nothing. At the end of a holdoff period in which a signal
waited, the source's vector is raised once, and the next period of its holdoff begins. The oldest event, where it reaches one
ring that is not halted, has room, has lost none, is in client memory with no write-back and has no holdoff period running, is
written as 16 bytes at its tail, the tail moves on, and the vector is raised; an event that reaches no ring is counted as
unrouted and gone. No register but those named changes. -/
def Obligations.RepliesAndEventsAreWrittenToTheirRings : Prop :=
  (∀ (s : State) (i : Nat) (r : Reply),
    s.fld (R.CMD_CQ_CFG_enable i) = 1 → s.fld (R.CMD_CQ_CFG_halted i) = 0 →
    s.cmd.replies.find? (fun x => 16 * x.client + x.ring == i) = some r → r.signal = false → r.final = true →
    (s.reg (R.CMD_CQ_BASE i)).toNat.testBit 0 = false → (s.cmdOf r.id).all (fun c => !c.itemList || c.items.isEmpty) = true →
    ∃ t, exec (.replyWrite i {} false) s = .next t ∧
      t.out = (if (s.reg (R.CMD_CQ_WB i)).toNat = 0 then [] else [.hostWrite r.client (s.reg (R.CMD_CQ_WB i)).toNat
      (leBytes 4 ((s.fld (R.CMD_CQ_STATE_tail i) + 1) % s.cqSize i))]) ++
    .hostWrite r.client ((s.reg (R.CMD_CQ_BASE i)).toNat / 4096 * 4096 + 32 * s.fld (R.CMD_CQ_STATE_tail i)) (r.bytes s.now) :: s.out ∧
      t.fld (R.CMD_CQ_STATE_tail i) = (s.fld (R.CMD_CQ_STATE_tail i) + 1) % s.cqSize i ∧
      t.cmd.inflight = s.cmd.inflight.filter (fun d => d.id != r.id) ∧
      t.cmd.replies = s.cmd.replies.eraseP (fun x => x.id == r.id && x.final == r.final && 16 * x.client + x.ring == i) ∧
      t.cmd.events = s.cmd.events ∧ OtherRegs s t [R.CMD_CQ_STATE i] ∧ t = { s with out := t.out, regs := t.regs, cmd := t.cmd }) ∧
  (∀ (s : State) (i : Nat) (r : Reply),
    s.fld (R.CMD_CQ_CFG_enable i) = 1 → s.fld (R.CMD_CQ_CFG_halted i) = 0 →
    s.cmd.replies.find? (fun x => 16 * x.client + x.ring == i) = some r → (s.reg (R.CMD_CQ_BASE i)).toNat.testBit 0 = false →
    ∃ t, exec (.replyWrite i { entry := true } false) s = .next t ∧
      t.fld (R.CMD_CQ_CFG_halted i) = 1 ∧
      t.cmd.events = s.cmd.events ++ [⟨0x0102, i / 16 % 65536, (i + s.fld (R.CMD_CQ_STATE_tail i) * 256 + 0x1000000) % 4294967296,
      s.now, some (i / 16), none, none⟩] ∧
      t.cmd = { s.cmd with events := t.cmd.events } ∧ OtherRegs s t [R.CMD_CQ_CFG i] ∧ t = { s with regs := t.regs, cmd := t.cmd }) ∧
  (∀ (s : State) (i : Nat) (r : Reply) (c : Cmd) (fails : Bool),
    s.fld (R.CMD_CQ_CFG_enable i) = 1 → s.fld (R.CMD_CQ_CFG_halted i) = 0 →
    s.cmd.replies.find? (fun x => 16 * x.client + x.ring == i) = some r → s.cmdOf r.id = some c → c.itemList = true →
    c.items ≠ [] → r.signal = false → r.final = true → (s.reg (R.CMD_CQ_BASE i)).toNat.testBit 0 = false →
    (s.reg (R.CMD_CQ_WB i)).toNat = 0 →
    ∃ t, exec (.replyWrite i { list := fails } false) s = .next t ∧
      (fails = false → t.out =
    .hostWrite r.client ((s.reg (R.CMD_CQ_BASE i)).toNat / 4096 * 4096 + 32 * s.fld (R.CMD_CQ_STATE_tail i)) (r.bytes s.now) ::
    .hostWrite c.client c.listAddr ((c.items.filterMap id).flatMap Item.bytes) :: s.out) ∧
      (fails = true → t.out =
    .hostWrite r.client ((s.reg (R.CMD_CQ_BASE i)).toNat / 4096 * 4096 + 32 * s.fld (R.CMD_CQ_STATE_tail i))
      (({ r with status := stFault } : Reply).bytes s.now) :: s.out) ∧
      t.fld (R.CMD_CQ_STATE_tail i) = (s.fld (R.CMD_CQ_STATE_tail i) + 1) % s.cqSize i ∧
      t.cmd.inflight = s.cmd.inflight.filter (fun d => d.id != r.id) ∧ OtherRegs s t [R.CMD_CQ_STATE i] ∧
      t = { s with out := t.out, regs := t.regs, cmd := t.cmd }) ∧
  (∀ (s : State) (key : Nat),
    Store.get (fun _ => false) s.cmd.signalWaits key = true → Store.get (fun _ => 0) s.cmd.holdUntil key ≤ s.ptp.f →
    ∃ t, exec (.msixHoldoffExpiry key) s = .next t ∧
      t.out = .msix (s.vectorOf key).1 (s.vectorOf key).2.1 :: s.out ∧ Store.get (fun _ => false) t.cmd.signalWaits key = false ∧
      Store.get (fun _ => 0) t.cmd.holdUntil key = (if (s.vectorOf key).2.2 = 0 then 0 else s.ptp.f + 1000 * (s.vectorOf key).2.2) ∧
      t.cmd = { s.cmd with signalWaits := t.cmd.signalWaits, holdUntil := t.cmd.holdUntil } ∧
      t = { s with out := t.out, cmd := t.cmd }) ∧
  (∀ (s : State) (ef wf : List Nat) (ev : Event) (rest : List Event) (q : Nat),
    s.hostCut = false → s.cmd.events = ev :: rest → (List.range 16).filter (fun k => s.eventReaches ev k) = [q] →
    s.fld (R.CMD_EVQ_CFG_halted q) = 0 → s.evRoom q = true → Store.get (fun _ => 0) s.cmd.lostSince q = 0 →
    (s.reg (R.CMD_EVQ_BASE q)).toNat.testBit 0 = false → (s.reg (R.CMD_EVQ_WB q)).toNat = 0 → ef.contains q = false →
    Store.get (fun _ => 0) s.cmd.holdUntil (256 + q) ≤ s.ptp.f →
    ∃ t, exec (.eventWrite ef wf) s = .next t ∧
      t.out = .msix (s.fld (R.CMD_EVQ_CFG_owner q)) (s.fld (R.CMD_EVQ_CFG_vector q)) ::
      .hostWrite (s.fld (R.CMD_EVQ_CFG_owner q))
        ((s.reg (R.CMD_EVQ_BASE q)).toNat / 4096 * 4096 + 16 * s.fld (R.CMD_EVQ_STATE_tail q)) ev.bytes :: s.out ∧
      t.fld (R.CMD_EVQ_STATE_tail q) = (s.fld (R.CMD_EVQ_STATE_tail q) + 1) % s.evSize q ∧ t.cmd.events = rest ∧
      OtherRegs s t [R.CMD_EVQ_STATE q] ∧ t = { s with out := t.out, regs := t.regs, cmd := t.cmd }) ∧
  (∀ (s : State) (ef wf : List Nat) (ev : Event) (rest : List Event),
    s.hostCut = false → s.cmd.events = ev :: rest → (∀ q, q < 16 → s.eventReaches ev q = false) →
    ∃ t, exec (.eventWrite ef wf) s = .next t ∧
      t.fld R.HST_EVT_UNROUTED_count = min (s.fld R.HST_EVT_UNROUTED_count + 1) (2 ^ 32 - 1) ∧
      t.cmd = { s.cmd with events := rest } ∧ OtherRegs s t [R.HST_EVT_UNROUTED] ∧ t = { s with regs := t.regs, cmd := t.cmd })

/-- A command that ends with all items DONE puts one final reply of status DONE with every item counted done and detail 0, and
changes no register; one whose first item that is neither DONE nor DEGRADED_COMPLETION stands after items DONE replies
COMPLETED_WITH_FAILED_ITEMS with the items done and failed counted, and the detail gives that item's index and its status in a
byte. A deferred command puts a DEFERRED reply with the total and keeps an open item for each. A dispatched NOP ends DONE with
one item and changes no register. A dispatched FUNCTION_SET of a present client other than 0 with an aperture within 4,096
units writes its weight, rights and aperture and ends DONE; for client 0 or an absent one it is refused with BAD_PARAM and
reason 1; an aperture past the end is refused with LIMIT_EXCEEDED. Either refusal counts no items and changes only the
command's records. No register other than those named changes. -/
def Obligations.ReplyCountsStatusAndDetailFollowTheItems : Prop :=
  (∀ (s : State) (c : Cmd) (items : List Item),
    (∀ i, i ∈ items → i.status = stDone) →
    (s.finishAs c items).cmd.replies = s.cmd.replies ++ [⟨c.id, c.client, c.ring, c.opcode, stDone, c.tag, items.length,
      items.length, 0, 0, true, c.notify, none⟩] ∧
    (s.finishAs c items).regs = s.regs ∧ (s.finishAs c items).out = s.out) ∧
  (∀ (s : State) (c : Cmd) (good : List Item) (bad : Item) (rest : List Item),
    (∀ i, i ∈ good → i.status = stDone) → bad.status ≠ stDone → bad.status ≠ stDegraded → good.length < 2 ^ 24 →
    (s.finishAs c (good ++ bad :: rest)).cmd.replies = s.cmd.replies ++ [⟨c.id, c.client, c.ring, c.opcode, stFailedItems, c.tag,
      (good ++ bad :: rest).length, ((good ++ bad :: rest).filter Item.isDone).length,
      (good ++ bad :: rest).length - ((good ++ bad :: rest).filter Item.isDone).length,
      good.length + (bad.status / 256 % 16 * 16 + bad.status % 16) * 0x1000000, true, c.notify, none⟩] ∧
    (s.finishAs c (good ++ bad :: rest)).regs = s.regs) ∧
  (∀ (s : State) (c : Cmd) (total : Nat) (aux : List Nat),
    (s.defer c total aux).cmd.replies = s.cmd.replies ++ [⟨c.id, c.client, c.ring, c.opcode, stDeferred, c.tag, total, 0, 0, 0, false, false, none⟩] ∧
    (s.defer c total aux).cmd.inflight = s.cmd.inflight.map (fun x => if x.id = c.id then { c with phase := .deferred, items := List.replicate total none, aux := aux } else x)) ∧
  (∀ (s : State) (bus : Bus) (id : Nat) (c : Cmd),
    Startable s id .nop c →
    ∃ t, exec (.nop id bus) s = .next t ∧
      t = s.finishOne c ∧ OtherRegs s t [] ∧ t = { s with out := t.out, cmd := t.cmd }) ∧
  (∀ (s : State) (bus : Bus) (id : Nat) (c : Cmd),
    Startable s id .functionSet c → c.pb 8 0 4 ≠ 0 → s.present (c.pb 8 0 4) = true → c.pb 12 0 12 + c.pb 14 0 13 ≤ 4096 →
    ∃ t, exec (.functionSet id bus) s = .next t ∧
      t.fld (R.HST_FN_CFG_weight (c.pb 8 0 4)) = c.pb 9 0 4 ∧ t.fld (R.HST_FN_RIGHTS_ranges (c.pb 8 0 4)) = c.pb 10 1 14 ∧
      t.fld (R.HST_FN_APERTURE_base (c.pb 8 0 4)) = c.pb 12 0 12 ∧ t.fld (R.HST_FN_APERTURE_size (c.pb 8 0 4)) = c.pb 14 0 13 ∧
      t.present (c.pb 8 0 4) = true ∧
      OtherRegs s t [R.HST_FN_CFG (c.pb 8 0 4), R.HST_FN_RIGHTS (c.pb 8 0 4), R.HST_FN_APERTURE (c.pb 8 0 4)] ∧
      t.cmd = (s.finishOne c).cmd ∧ t.out = (s.finishOne c).out ∧ t = { s with out := t.out, regs := t.regs, cmd := t.cmd }) ∧
  (∀ (s : State) (bus : Bus) (id : Nat) (c : Cmd),
    Startable s id .functionSet c → (c.pb 8 0 4 = 0 ∨ s.present (c.pb 8 0 4) = false) →
    ∃ t, exec (.functionSet id bus) s = .next t ∧
      t.cmd.replies = s.cmd.replies ++ [⟨c.id, c.client, c.ring, c.opcode, stBadParam, c.tag, 0, 0, 0, 1, true, c.notify, none⟩] ∧
      t = { s with cmd := t.cmd }) ∧
  (∀ (s : State) (bus : Bus) (id : Nat) (c : Cmd),
    Startable s id .functionSet c → c.pb 8 0 4 ≠ 0 → s.present (c.pb 8 0 4) = true → 4096 < c.pb 12 0 12 + c.pb 14 0 13 →
    ∃ t, exec (.functionSet id bus) s = .next t ∧
      t.cmd.replies = s.cmd.replies ++ [⟨c.id, c.client, c.ring, c.opcode, stLimit, c.tag, 0, 0, 0, 12, true, c.notify, none⟩] ∧
      t = { s with cmd := t.cmd })

/-- For a client that can reach BAR0: a write that is partial, misaligned or not of 4 or 8 bytes is dropped and counted. Another
client's 4-byte write of a register of the first 4 KiB, which its view shows read only, and PF0's to GLB_ID, change no
register; PF0's to GLB_SCRATCH stores its word; PF0's at an offset that holds no register and is not in the mirror is dropped
and counted. A low half of CMD_SQ_BASE is staged and, where the ring is not enabled, takes effect with the high half.
SCN_VCF_BASE, one word wide, is not staged: written by PF0 it takes the word, with DMG_VCF_MAX cleared, but keeps both where
its lock bit is set. PF0 sets bits of GLB_LOCK and clears none; another client's write changes nothing. A register of the
sleeping Worvel keeps its word while the write is held. A 4-byte read of GLB_LOCK answers its word; of the low half of
PTP_FREE, with nothing latched, it answers the low half and latches the high half, which the next read of the high half
returns. A whole mirror read of a client other than PF0 gives the time, the change count and zeros. -/
def Obligations.RegisterAccessesFollowTheirHalvesLocksAndViews : Prop :=
  (∀ (s : State) (client off size data : Nat) (whole : Bool),
    s.reachable client = true → whole = false ∨ (size ≠ 4 ∧ size ≠ 8) ∨ off % size ≠ 0 →
    ∃ t, exec (.registerWrite client off size whole data) s = .next t ∧
      t = (s.bar0 client).drop client ∧ t.fld (R.HST_FN_DROPS_count client) = satAdd 32 (s.fld (R.HST_FN_DROPS_count client)) 1 ∧
      OtherRegs s t [R.HST_FN_DROPS client] ∧ t = { s with regs := t.regs, hst := t.hst, pfc := t.pfc }) ∧
  (∀ (s : State) (client off data : Nat),
    s.reachable client = true → client ≠ 0 → off < 0x1000 → off % 4 = 0 → (findReg off).isSome = true →
    ∃ t, exec (.registerWrite client off 4 true data) s = .next t ∧
      t = s.bar0 client ∧ t = { s with hst := t.hst, pfc := t.pfc }) ∧
  (∀ (s : State) (data : Nat),
    s.reachable 0 = true →
    ∃ t, exec (.registerWrite 0 R.GLB_SCRATCH 4 true data) s = .next t ∧
      t.fld R.GLB_SCRATCH_value = data % 2 ^ 32 ∧ OtherRegs s t [R.GLB_SCRATCH] ∧
      t = { s with regs := t.regs, hst := t.hst, pfc := t.pfc }) ∧
  (∀ (s : State) (data : Nat),
    s.reachable 0 = true →
    ∃ t, exec (.registerWrite 0 R.GLB_ID 4 true data) s = .next t ∧
      OtherRegs s t [] ∧ t = { s with regs := t.regs, hst := t.hst, pfc := t.pfc }) ∧
  (∀ (s : State) (off data : Nat),
    s.reachable 0 = true → off % 4 = 0 → off < 0x2000000 → inMirror off = false → findReg off = none →
    ∃ t, exec (.registerWrite 0 off 4 true data) s = .next t ∧
      t = (s.bar0 0).drop 0 ∧ t = { s with regs := t.regs, hst := t.hst, pfc := t.pfc }) ∧
  (∀ (s : State) (data : Nat),
    s.reachable 0 = true →
    ∃ t, exec (.lowHalfWriteStage 0 R.SCN_VCF_BASE data) s = .next t ∧
      Store.get (fun _ => none) t.hst.writeStage (16 * R.SCN_VCF_BASE) = Store.get (fun _ => none) s.hst.writeStage (16 * R.SCN_VCF_BASE) ∧
      (s.blockLocked R.SCN_VCF_BASE = true → t.reg R.SCN_VCF_BASE = s.reg R.SCN_VCF_BASE ∧ t.reg R.DMG_VCF_MAX = s.reg R.DMG_VCF_MAX) ∧
      (s.blockLocked R.SCN_VCF_BASE = false → t.fld R.SCN_VCF_BASE_base = data % 2 ^ 24 ∧ t.reg R.DMG_VCF_MAX = 0) ∧
      OtherRegs s t [R.SCN_VCF_BASE, R.DMG_VCF_MAX] ∧
      t = { s with out := t.out, regs := t.regs, active := t.active, ledger := t.ledger, dram := t.dram, cmd := t.cmd, hst := t.hst, ptp := t.ptp, flt := t.flt, scn := t.scn, sch := t.sch, eng := t.eng, clp := t.clp, pnl := t.pnl, lan := t.lan, spl := t.spl, cal := t.cal, wvl := t.wvl, dmc := t.dmc, cmp := t.cmp, pfc := t.pfc, eth := t.eth, tim := t.tim }) ∧
  (∀ (s : State) (i low : Nat),
    s.reachable 0 = true → i < 256 →
    ∃ t, exec (.lowHalfWriteStage 0 (R.CMD_SQ_BASE i) low) s = .next t ∧
      Store.get (fun _ => none) t.hst.writeStage (16 * R.CMD_SQ_BASE i) = some ⟨R.CMD_SQ_BASE i, low % 2 ^ 32⟩ ∧ t.regs = s.regs ∧
      t = { s with hst := t.hst, pfc := t.pfc }) ∧
  (∀ (s : State) (i low high : Nat),
    s.reachable 0 = true → i < 256 → s.fld (R.CMD_SQ_CFG_enable i) = 0 → low < 2 ^ 32 → high < 2 ^ 32 →
    Store.get (fun _ => none) s.hst.writeStage (16 * R.CMD_SQ_BASE i) = some ⟨R.CMD_SQ_BASE i, low⟩ →
    ∃ t, exec (.registerWrite 0 (R.CMD_SQ_BASE i + 4) 4 true high) s = .next t ∧
      t.fld (R.CMD_SQ_BASE_base i) = (low + high * 2 ^ 32) / 4096 ∧ t.fld (R.CMD_SQ_BASE_loc i) = low % 2 ∧
      Store.get (fun _ => none) t.hst.writeStage (16 * R.CMD_SQ_BASE i) = none ∧ OtherRegs s t [R.CMD_SQ_BASE i] ∧
      t = { s with regs := t.regs, hst := t.hst, pfc := t.pfc }) ∧
  (∀ (s : State) (data : Nat),
    s.reachable 0 = true →
    ∃ t, exec (.glbLockWrite 0 data) s = .next t ∧
      t.fld R.GLB_LOCK_lock = (s.fld R.GLB_LOCK_lock ||| data % 2 ^ 24) ∧ OtherRegs s t [R.GLB_LOCK] ∧
      t = { s with regs := t.regs, hst := t.hst, pfc := t.pfc }) ∧
  (∀ (s : State) (client data : Nat),
    s.reachable client = true → client ≠ 0 →
    ∃ t, exec (.glbLockWrite client data) s = .next t ∧
      t = s.bar0 client ∧ t = { s with hst := t.hst, pfc := t.pfc }) ∧
  (∀ (s : State) (data : Nat),
    s.reachable 0 = true → s.fld (R.PWC_DOMAIN_depth 23) ≠ 0 →
    ∃ t, exec (.registerWrite 0 R.WVL_SUMMARY_CFG 4 true data) s = .next t ∧
      OtherRegs s t [] ∧ t.hst.held.length = s.hst.held.length + 1 ∧
      (∀ w, w ∈ t.hst.held.drop s.hst.held.length → w.domain = 23 ∧ w.off = R.WVL_SUMMARY_CFG) ∧
      t = { s with regs := t.regs, hst := t.hst, pfc := t.pfc }) ∧
  (∀ (s : State) (client : Nat),
    s.reachable client = true → Store.get (fun _ => none) s.hst.readLatch client = none →
    ∃ t, exec (.lowHalfReadLatch client R.GLB_LOCK) s = .next t ∧
      t.out = .readData client R.GLB_LOCK (leBytes 4 (s.reg R.GLB_LOCK).toNat) false :: s.out ∧ t.regs = s.regs ∧
      t = { s with out := t.out, free := t.free, hst := t.hst, pfc := t.pfc }) ∧
  (∀ (s : State),
    s.reachable 0 = true →
    ∃ t, exec (.lowHalfReadLatch 0 R.PTP_FREE) s = .next t ∧
      (Store.get (fun _ => none) s.hst.readLatch 0 = none → t.out = .readData 0 R.PTP_FREE (leBytes 4 (s.ptp.f % 2 ^ 64)) false :: s.out ∧
      Store.get (fun _ => none) t.hst.readLatch 0 = some ⟨R.PTP_FREE, s.ptp.f % 2 ^ 64 / 2 ^ 32⟩) ∧
      t.regs = s.regs ∧ t = { s with out := t.out, free := t.free, hst := t.hst, pfc := t.pfc }) ∧
  (∀ (s : State) (v : Nat),
    s.reachable 0 = true → Store.get (fun _ => none) s.hst.readLatch 0 = some ⟨R.PTP_FREE, v⟩ →
    ∃ t, exec (.lowHalfReadLatch 0 (R.PTP_FREE + 4)) s = .next t ∧
      t.out = .readData 0 (R.PTP_FREE + 4) (leBytes 4 v) false :: s.out ∧ Store.get (fun _ => none) t.hst.readLatch 0 = none ∧
      t.regs = s.regs ∧ t = { s with out := t.out, free := t.free, hst := t.hst, pfc := t.pfc }) ∧
  (∀ (s : State) (client : Nat),
    s.reachable client = true → client ≠ 0 →
    ∃ t, exec (.statusMirrorRead client 0x1000 256) s = .next t ∧
      t.out = .readData client 0x1000 (leBytes 8 s.now ++ leBytes 4 (t.hst.mirrorCount % 2 ^ 32) ++ leBytes 244 0) false :: s.out ∧
      s.hst.mirrorCount ≤ t.hst.mirrorCount ∧ t.hst.mirrorWords = s.mirrorNow ∧ t.regs = s.regs ∧
      t = { s with out := t.out, free := t.free, hst := t.hst, pfc := t.pfc })

/-- Where the host is not cut: host link A settles at a rate and, where up, at a width it can have, shown in its status and by its
lanes (ACTIVE within the width, OFF past it, READY where the link is down; the module's transmitter precodes at 32 GT/s alone,
rate 5; inverted lanes as found), and HST_LINK_SLOW is posted at rates 1 to 3 alone. A change of the VF and link settings that
takes no present client away makes each of the 16 clients present as the new settings say. A sleeping domain 19 to 22 of a
lane quad wakes with depth 0, a wake counted and its clock running at 1,328 MHz, where the module is not in STANDBY. Registers
other than those named stay. -/
def Obligations.LinksClientsAndDomainsComeAndGo : Prop :=
  (∀ (s : State) (link rate width inverted precoded rxPrecoded : Nat) (flit : Bool) (taps : List (List Int)),
    s.hostCut = false → link = 0 → rate ≤ 6 → rate = 0 ∨ (linkWidths s.bifurcated).contains width = true →
    ∃ t, exec (.hostLinkTrained link rate width flit ⟨inverted, precoded, rxPrecoded, taps⟩) s = .next t ∧
      t.fld (R.HST_LINK_STATUS_rate 0) = rate ∧ t.fld (R.HST_LINK_STATUS_width 0) = (if rate = 0 then 0 else width) ∧
      t.fld (R.HST_LINK_STATUS_flit 0) = bit (flit && rate != 0) ∧
      (∀ l, l < (if s.bifurcated then 8 else 16) → t.fld (R.LAN_STATUS_state (192 + l)) = (if rate = 0 then 1 else if l < width then 3 else 0)) ∧
      (∀ l, l < (if s.bifurcated then 8 else 16) → t.fld (R.LAN_STATUS_precoding (192 + l)) = bit (decide (l < width) && precoded.testBit l && rate == 5)) ∧
      (∀ l, l < (if s.bifurcated then 8 else 16) → l < width → rate ≠ 0 → t.fld (R.LAN_STATUS_rx_inverted (192 + l)) = bit (inverted.testBit l)) ∧
      t.cmd.events = s.cmd.events ++ (if 0 < rate ∧ rate < 4 then [⟨0x0100, 0, rate, s.now, none, none, none⟩] else []) ∧
      OtherRegs s t (R.HST_LINK_STATUS 0 :: R.SPL_CNT 6 :: (List.range 16).flatMap fun l => [R.LAN_STATUS (192 + l), R.LAN_CNT (192 + l) 0, R.LAN_EYE (192 + l), R.LAN_TXFFE (192 + l)]) ∧
      t = { s with regs := t.regs, cmd := t.cmd, lan := t.lan, spl := t.spl }) ∧
  (∀ (s : State) (vfEnable linkBUp : Bool) (numVFs : Nat),
    s.hostCut = false → (∀ f, f < 16 → s.present f = true → presentWith s.bifurcated vfEnable numVFs linkBUp f = true) →
    ∃ t, exec (.clientPresenceChange vfEnable numVFs linkBUp) s = .next t ∧
      (∀ f, f < 16 → t.present f = presentWith s.bifurcated vfEnable numVFs linkBUp f) ∧
      t.hst = { s.hst with vfEnable := vfEnable, numVFs := numVFs, linkBUp := linkBUp } ∧
      OtherRegs s t ((List.range 16).map R.HST_FN_CFG) ∧ t = { s with regs := t.regs, hst := t.hst }) ∧
  (∀ (s : State) (j : Nat),
    j < 4 → s.hostCut = false → s.fld (R.PWC_DOMAIN_depth (19 + j)) ≠ 0 → s.fld R.PWC_STATUS_state ≠ 1 → s.hst.held = [] →
    ∃ t, exec (.domainWake (19 + j)) s = .next t ∧
      t.fld (R.PWC_DOMAIN_depth (19 + j)) = 0 ∧
      t.fld (R.PWC_DOMAIN_wakes (19 + j)) = satAdd (R.PWC_DOMAIN_wakes (19 + j)).w (s.fld (R.PWC_DOMAIN_wakes (19 + j))) 1 ∧
      t.fld (R.PWC_CLK_mhz (21 + j)) = 1328 ∧ t.fld (R.PWC_CLK_running (21 + j)) = 1 ∧
      OtherRegs s t [R.PWC_DOMAIN (19 + j), R.PWC_CLK (21 + j)] ∧ t = { s with regs := t.regs })

/-- A dispatched VIEW_SLOPE_LOAD of 1 to 256 views within the field, with a bus that delivers every byte, writes su and sv of each
of its views from bits 16:0 and 48:32 of its 8-byte record, and only the shadow. A VIEW_CORRECTION_LOAD that fits the field,
from client memory that delivers every byte, with a base set, no copy-forward running and its group not put down to clamp,
writes each of its rows into the copy that is not active, records its rectangle and its regions for the next clamp and replies
with one item per row; while a copy-forward runs it waits and writes nothing. When a copy-forward of the correction field
ends, each row of each of its rectangles has been copied from the active copy to the other; when one of a check's signatures
ends, each member's 8 bytes have been, and loading is 0; the record of the copy is gone. A load changes no byte of module DRAM
outside its rows; registers but the slopes, the running maximum, the check's control word and the access counters stay. -/
def Obligations.ViewLoadsWriteSlopesAndTheStagingCopy : Prop :=
  (∀ (s : State) (bus : Bus) (id : Nat) (c : Cmd),
    Startable s id .viewSlopeLoad c → 0 < c.p 18 2 → c.p 18 2 ≤ 256 → c.p 16 1 + c.p 18 2 ≤ s.views → bus.bad = [] →
    ∃ t, exec (.viewSlopeLoad id bus) s = .next t ∧
      (∀ w, w < c.p 18 2 →
      t.fld (R.SCN_VIEW_SLOPE_su (c.p 16 1 + w)) =
        bitsOf (leNat ((List.range 8).map fun j => busByte bus (c.p 8 8 + 8 * w + j))) 0 17 ∧
      t.fld (R.SCN_VIEW_SLOPE_sv (c.p 16 1 + w)) =
        bitsOf (leNat ((List.range 8).map fun j => busByte bus (c.p 8 8 + 8 * w + j))) 32 17) ∧
      OtherRegs s t ((List.range (c.p 18 2)).map fun w => R.SCN_VIEW_SLOPE (c.p 16 1 + w)) ∧
      t.scn = { s.scn with slopeLoaded := true } ∧ t.cmd = (s.finishAs c (List.replicate (c.p 18 2) ⟨stDone, 0, 0⟩)).cmd ∧
      t = { s with out := t.out, regs := t.regs, cmd := t.cmd, scn := t.scn }) ∧
  (∀ (s : State) (bus : Bus) (id : Nat) (c : Cmd),
    Startable s id .viewCorrectionLoad c → c.p 20 2 ≠ 0 → c.p 22 2 ≠ 0 → c.p 16 2 + c.p 20 2 ≤ s.hx → c.p 18 2 + c.p 22 2 ≤ s.hy →
    s.fld R.SCN_VCF_BASE_base ≠ 0 → s.isCopying 1 0 = false → s.clampDue (s.fld R.SCN_VIEW_CTRL_group) = false → bus.bad = [] →
    c.flag 24 0 = false →
    ∃ t, exec (.viewCorrectionLoad id bus) s = .next t ∧
      t.dram = ((List.range (c.p 22 2)).foldl (fun u y =>
      u.memWrite (s.vcfAddr (1 - s.scn.vcfCopy) + 4 * ((c.p 18 2 + y) * s.hx + c.p 16 2))
        ((List.range (4 * c.p 20 2)).map fun j => busByte bus (c.p 8 8 + 4 * c.p 20 2 * y + j))) s).dram ∧
      (∀ key, (∀ y, y < c.p 22 2 → s.touched (s.vcfAddr (1 - s.scn.vcfCopy) + 4 * ((c.p 18 2 + y) * s.hx + c.p 16 2)) (4 * c.p 20 2) key = false) →
      t.phys key = s.phys key) ∧
      t.scn.vcfRects = s.scn.vcfRects ++ [⟨c.p 16 2, c.p 16 2 + c.p 20 2, c.p 18 2, c.p 18 2 + c.p 22 2⟩] ∧
      t.scn.vcfRegions = (s.scn.vcfRegions ++ s.regionsOf ⟨c.p 16 2, c.p 16 2 + c.p 20 2, c.p 18 2, c.p 18 2 + c.p 22 2⟩ 0).eraseDups ∧
      t.scn = { s.scn with vcfRects := t.scn.vcfRects, vcfRegions := t.scn.vcfRegions, waiting := s.scn.waiting.filter fun w => w.1 != id } ∧
      t.cmd.replies = (s.finishAs c (List.replicate (c.p 22 2) ⟨stDone, 0, 0⟩)).cmd.replies ∧
      OtherRegs s t (R.DMG_VCF_MAX :: dramCounts) ∧
      t = { s with regs := t.regs, ledger := t.ledger, dram := t.dram, cmd := t.cmd, scn := t.scn }) ∧
  (∀ (s : State) (bus : Bus) (id : Nat) (c : Cmd),
    Startable s id .viewCorrectionLoad c → c.p 20 2 ≠ 0 → c.p 22 2 ≠ 0 → c.p 16 2 + c.p 20 2 ≤ s.hx → c.p 18 2 + c.p 22 2 ≤ s.hy →
    s.fld R.SCN_VCF_BASE_base ≠ 0 → s.isCopying 1 0 = true →
    ∃ t, exec (.viewCorrectionLoad id bus) s = .next t ∧
      t.cmd = (s.hold c).cmd ∧
      t.scn.waiting = s.scn.waiting.filter (fun w => w.1 != c.id) ++ [(c.id, 1, s.fld R.SCN_VIEW_CTRL_group)] ∧
      t.scn = { s.scn with waiting := t.scn.waiting } ∧ t = { s with cmd := t.cmd, scn := t.scn }) ∧
  (∀ (s : State) (f : CopyFwd),
    s.scn.copying.find? (fun x => x.kind == 1 && x.who == 0) = some f → f.kind = 1 →
    ∃ t, exec (.copyForwardDone 1 0) s = .next t ∧
      t.dram = (f.rects.foldl (fun u r => (List.range (r.y1 - r.y0).toNat).foldl (fun v j =>
      v.memWrite (s.vcfAddr (1 - s.scn.vcfCopy) + 4 * ((r.y0.toNat + j) * s.hx + r.x0.toNat))
        (v.memRead (s.vcfAddr s.scn.vcfCopy + 4 * ((r.y0.toNat + j) * s.hx + r.x0.toNat)) (4 * (r.x1 - r.x0).toNat)).2.1) u) s).dram ∧
      t.scn = { s.scn with copying := s.scn.copying.erase f } ∧ OtherRegs s t dramCounts ∧
      t = { s with regs := t.regs, ledger := t.ledger, dram := t.dram, cmd := t.cmd, scn := t.scn }) ∧
  (∀ (s : State) (f : CopyFwd) (k : Nat),
    s.scn.copying.find? (fun x => x.kind == 2 && x.who == k) = some f → f.kind = 2 → f.who = k →
    ∃ t, exec (.copyForwardDone 2 k) s = .next t ∧
      t.dram = (f.members.foldl (fun u r =>
      u.memWrite (4096 * s.fld R.GLU_SQC_TABLE_BASE_base + (1 - s.fld (R.GLU_SQC_CTL_copy k)) * 524288 + 8 * r)
        (u.memRead (4096 * s.fld R.GLU_SQC_TABLE_BASE_base + s.fld (R.GLU_SQC_CTL_copy k) * 524288 + 8 * r) 8).2.1) s).dram ∧
      t.fld (R.GLU_SQC_CTL_loading k) = 0 ∧ t.scn = { s.scn with copying := s.scn.copying.erase f } ∧
      OtherRegs s t (R.GLU_SQC_CTL k :: dramCounts) ∧
      t = { s with regs := t.regs, ledger := t.ledger, dram := t.dram, cmd := t.cmd, scn := t.scn })

/-- A dispatched REGION_GRID_SET of a grid the geometry does not allow is refused with the status and reason of the first failing
case, and nothing else changes; with no grid pending, the active grid again is DONE at once; another allowed one, with room to
defer, replies DEFERRED with one item and pends, and the active grid stays. REGION_GRID_SWITCH, due, with a pended grid the
geometry allows, no job anywhere, and no boundary, clamp or flip waiting, makes the pended grid active with its column and row
counts; every region of it is QUEUED, the region map is at its reset values, and no grid pends. REGION_DIRTY of a block within
the grid marks its regions once, and with the whole-field flag every region, and ends DONE. -/
def Obligations.RegionGridIsSetAtABoundaryWithEveryRegionDirty : Prop :=
  (∀ (s : State) (bus : Bus) (id : Nat) (c : Cmd) (st r : Nat),
    Startable s id .regionGridSet c → s.gridFault (c.p 8 2) (c.p 10 2) = some (st, r) →
    ∃ t, exec (.regionGridSet id bus) s = .next t ∧
      t = s.refuse c st r ∧ t = { s with cmd := t.cmd }) ∧
  (∀ (s : State) (bus : Bus) (id : Nat) (c : Cmd),
    Startable s id .regionGridSet c → s.gridFault (c.p 8 2) (c.p 10 2) = none → s.dmg.pendGrid = none →
    s.sameGrid (c.p 8 2) (c.p 10 2) = true →
    ∃ t, exec (.regionGridSet id bus) s = .next t ∧
      t = s.finishOne c ∧ t = { s with out := t.out, cmd := t.cmd }) ∧
  (∀ (s : State) (bus : Bus) (id : Nat) (c : Cmd),
    Startable s id .regionGridSet c → s.gridFault (c.p 8 2) (c.p 10 2) = none → s.dmg.pendGrid = none →
    s.sameGrid (c.p 8 2) (c.p 10 2) = false → s.inBounds = true → s.deferFull c = false →
    ∃ t, exec (.regionGridSet id bus) s = .next t ∧
      t.dmg.pendGrid = some (c.p 8 2, c.p 10 2, id) ∧ t.cmd = (s.defer c 1).cmd ∧
      t.fld R.DMG_REGION_GRID_kx_div8 = s.fld R.DMG_REGION_GRID_kx_div8 ∧
      t.fld R.DMG_REGION_GRID_ky_div8 = s.fld R.DMG_REGION_GRID_ky_div8 ∧
      t = { s with regs := t.regs, ledger := t.ledger, cmd := t.cmd, dmg := t.dmg, sch := t.sch, pnl := t.pnl }) ∧
  (∀ (s : State) (bus : Bus) (kx ky id : Nat),
    s.dmg.pendGrid = some (kx, ky, id) → s.inBounds = true → s.gridFault kx ky = none → s.clp.gridDue = true → s.sch.jobs = [] →
    Store.get (fun _ => none) s.clp.boundary 0 = none → s.clp.due.groups = [] → s.clp.due.flips = [] →
    ∃ t, exec (.regionGridSwitch bus) s = .next t ∧
      t.kx = kx ∧ t.ky = ky ∧ t.gx = ceilDiv s.hx kx ∧ t.gy = ceilDiv s.hy ky ∧ (∀ r, r < t.gx * t.gy → (t.region r).state = 1) ∧
      (∀ r, r < 65536 → t.reg (R.SCH_REGION_MAP r) = resetReg (R.SCH_REGION_MAP r)) ∧ t.dmg.pendGrid = none ∧
      t.clp.gridDue = false ∧
      t = { s with regs := t.regs, ledger := t.ledger, cmd := t.cmd, scn := t.scn, dmg := t.dmg, sch := t.sch, glu := t.glu, clp := t.clp, dec := t.dec, pnl := t.pnl }) ∧
  (∀ (s : State) (bus : Bus) (id : Nat) (c : Cmd),
    Startable s id .regionDirty c → s.gridOn = true → c.flag 8 0 = false → c.p 16 2 ≠ 0 → c.p 18 2 ≠ 0 →
    c.p 12 2 + c.p 16 2 ≤ s.gx → c.p 14 2 + c.p 18 2 ≤ s.gy →
    ∃ t, exec (.regionDirty id bus) s = .next t ∧
      t = (s.markAll (s.regionBlock (c.p 12 2) (c.p 12 2 + c.p 16 2) (c.p 14 2) (c.p 14 2 + c.p 18 2))).finishOne c ∧
      t = { s with regs := t.regs, ledger := t.ledger, cmd := t.cmd, dmg := t.dmg, sch := t.sch }) ∧
  (∀ (s : State) (bus : Bus) (id : Nat) (c : Cmd),
    Startable s id .regionDirty c → s.gridOn = true → c.flag 8 0 = true →
    ∃ t, exec (.regionDirty id bus) s = .next t ∧
      t = (s.wholeField 7).finishOne c ∧
      t = { s with regs := t.regs, ledger := t.ledger, cmd := t.cmd, dmg := t.dmg, sch := t.sch })

/-- A dispatched LAYER_DEFINE that no test of the chapter stops writes enable, kind, premul, format, group, priority, source and
destination sizes of its layer and, of a graphic layer, base and pitch; an unowned layer becomes the client's, and a release
that waits is withdrawn (the model's choice, log entry 245). With the release flag enable is cleared and the layer waits for
the clamp that makes it unowned. A LAYER_GEOMETRY whose values fit their widths and the depth bound writes position, plane and
thickness. A LAYER_COLOUR writes keys, colour and key enables and, on a video layer, preset and range; with the table flag
also, from memory that the bus reads, the 9 matrix terms of a video layer or the 256 entries of the palette of a graphic layer
of format 12. Each of the three is refused NOT_PERMITTED for a layer that another client owns, with detail 0 (the model's
choice, log entry 246). Every one of these ends the command; a fenced layer is marked staged. No active value, no register but
those named, no ledger term but the reads' and no memory changes. -/
def Obligations.LayerCommandsWriteOnlyTheShadowOfTheirLayer : Prop :=
  (∀ (s : State) (bus : Bus) (id : Nat) (c : Cmd) (n : Nat) (new : Layer),
    Startable s id .layerDefine c → n = c.pb 16 0 6 → s.mayUseLayer c.client n = true → c.flag 17 7 = false →
    defineFault n (c.pb 17 0 4) (c.pb 17 4 1) (c.pb 8 0 36) (c.p 20 2) (c.p 22 2) (c.p 24 2) (c.p 26 2) (c.p 28 2) = none →
    (isVideo n = true → videoSizeOk (c.p 20 2) (c.p 22 2) = true) →
    new = { s.shadowLayer n with kind := c.pb 17 4 1, format := c.pb 17 0 4, w := c.p 20 2, h := c.p 22 2, dw := c.p 24 2, dh := c.p 26 2 } →
    s.layerBusy n = false → (isVideo n = false → s.tileSlot n = none) → (isVideo n = true → new.shrinkFault = none) →
    new.depthOk = true →
    ∃ t, exec (.layerDefine id bus) s = .next t ∧
      t.fld (R.SCN_LAYER_CFG_enable n) = c.pb 17 6 1 ∧ t.fld (R.SCN_LAYER_CFG_kind n) = c.pb 17 4 1 ∧
      t.fld (R.SCN_LAYER_CFG_premul n) = c.pb 17 5 1 ∧ t.fld (R.SCN_LAYER_CFG_format n) = c.pb 17 0 4 ∧
      t.fld (R.SCN_LAYER_CFG_group n) = c.pb 18 0 4 ∧ t.fld (R.SCN_LAYER_CFG_priority n) = c.pb 19 0 6 ∧
      t.fld (R.SCN_LAYER_SRC_width n) = c.p 20 2 ∧ t.fld (R.SCN_LAYER_SRC_height n) = c.p 22 2 ∧
      t.fld (R.SCN_LAYER_DST_width_m1 n) = c.p 24 2 - 1 ∧ t.fld (R.SCN_LAYER_DST_height_m1 n) = c.p 26 2 - 1 ∧
      (isVideo n = false → t.fld (R.SCN_LAYER_BASE_base n) = c.pb 8 0 36 / 64 ∧ t.fld (R.SCN_LAYER_PITCH_pitch n) = c.p 28 2) ∧
      t.fld (R.SCN_LAYER_STATUS_owned n) = 1 ∧
      t.fld (R.SCN_LAYER_STATUS_owner n) = (if s.fld (R.SCN_LAYER_STATUS_owned n) = 1 then s.fld (R.SCN_LAYER_STATUS_owner n) else c.client % 16) ∧
      (s.fenced n = true → t.fld (R.CLP_FENCE_STATE_staged n) = 1) ∧
      t.scn = { s.scn with releasing := s.scn.releasing.filter fun x => x != n } ∧
      OtherRegs s t [R.SCN_LAYER_CFG n, R.SCN_LAYER_SRC n, R.SCN_LAYER_DST n, R.SCN_LAYER_BASE n, R.SCN_LAYER_PITCH n,
      R.SCN_LAYER_STATUS n, R.CLP_FENCE_STATE n] ∧
      t.cmd = (s.finishOne c).cmd ∧ t = { s with regs := t.regs, cmd := t.cmd, scn := t.scn, clp := t.clp }) ∧
  (∀ (s : State) (bus : Bus) (id : Nat) (c : Cmd) (n : Nat),
    Startable s id .layerDefine c → n = c.pb 16 0 6 → s.mayUseLayer c.client n = true → c.flag 17 7 = true →
    ∃ t, exec (.layerDefine id bus) s = .next t ∧
      t.fld (R.SCN_LAYER_CFG_enable n) = 0 ∧ (s.fenced n = true → t.fld (R.CLP_FENCE_STATE_staged n) = 1) ∧
      t.scn = { s.scn with releasing := s.scn.releasing.filter (fun x => x != n) ++ [n] } ∧
      OtherRegs s t [R.SCN_LAYER_CFG n, R.CLP_FENCE_STATE n] ∧ t.cmd = (s.finishOne c).cmd ∧
      t = { s with regs := t.regs, cmd := t.cmd, scn := t.scn, clp := t.clp }) ∧
  (∀ (s : State) (bus : Bus) (id : Nat) (c : Cmd),
    Startable s id .layerDefine c → s.mayUseLayer c.client (c.pb 16 0 6) = false →
    ∃ t, exec (.layerDefine id bus) s = .next t ∧
      t = s.refuse c stNotPermitted 0 ∧ t = { s with cmd := t.cmd }) ∧
  (∀ (s : State) (bus : Bus) (id : Nat) (c : Cmd),
    Startable s id .layerColour c → s.mayUseLayer c.client (c.pb 16 0 6) = false →
    ∃ t, exec (.layerColour id bus) s = .next t ∧
      t = s.refuse c stNotPermitted 0 ∧ t = { s with cmd := t.cmd }) ∧
  (∀ (s : State) (bus : Bus) (id : Nat) (c : Cmd),
    Startable s id .layerGeometry c → s.mayUseLayer c.client (c.pb 16 0 6) = false →
    ∃ t, exec (.layerGeometry id bus) s = .next t ∧
      t = s.refuse c stNotPermitted 0 ∧ t = { s with cmd := t.cmd }) ∧
  (∀ (s : State) (bus : Bus) (id : Nat) (c : Cmd) (n : Nat),
    Startable s id .layerGeometry c → n = c.pb 16 0 6 → s.mayUseLayer c.client n = true → fitsSigned 24 (c.p 24 4) = true →
    fitsSigned 22 (c.p 28 4) = true → fitsSigned 22 (c.p 32 4) = true → fitsSigned 20 (c.p 36 4) = true →
    (c.p 36 4 ≠ 0 → s.fld (R.SCN_LAYER_CFG_kind n) = 1) →
    ({ s.shadowLayer n with x0 := sext 16 (c.p 18 2), y0 := sext 16 (c.p 20 2), a := sext 24 (c.p 24 4), b := sext 22 (c.p 28 4), c := sext 22 (c.p 32 4), k := sext 20 (c.p 36 4) } : Layer).depthOk = true →
    ∃ t, exec (.layerGeometry id bus) s = .next t ∧
      t.fld (R.SCN_LAYER_POS_x0 n) = c.p 18 2 ∧ t.fld (R.SCN_LAYER_POS_y0 n) = c.p 20 2 ∧
      t.fld (R.SCN_LAYER_ZA_a n) = c.p 24 4 % 2 ^ 24 ∧ t.fld (R.SCN_LAYER_ZB_b n) = c.p 28 4 % 2 ^ 22 ∧
      t.fld (R.SCN_LAYER_ZC_c n) = c.p 32 4 % 2 ^ 22 ∧ t.fld (R.SCN_LAYER_ZK_k n) = c.p 36 4 % 2 ^ 20 ∧
      (s.fenced n = true → t.fld (R.CLP_FENCE_STATE_staged n) = 1) ∧
      OtherRegs s t [R.SCN_LAYER_POS n, R.SCN_LAYER_ZA n, R.SCN_LAYER_ZB n, R.SCN_LAYER_ZC n, R.SCN_LAYER_ZK n, R.CLP_FENCE_STATE n] ∧
      t.cmd = (s.finishOne c).cmd ∧ t = { s with regs := t.regs, cmd := t.cmd, clp := t.clp }) ∧
  (∀ (s : State) (bus : Bus) (id : Nat) (c : Cmd) (n : Nat),
    Startable s id .layerColour c → n = c.pb 16 0 6 → s.mayUseLayer c.client n = true → c.flag 17 3 = false →
    ∃ t, exec (.layerColour id bus) s = .next t ∧
      (isVideo n = true → t.fld (R.SCN_LAYER_CFG_preset n) = bitsOf (c.p 17 1) 0 2 ∧ t.fld (R.SCN_LAYER_CFG_limited n) = bitsOf (c.p 17 1) 2 1) ∧
      (isVideo n = false → t.reg (R.SCN_LAYER_CFG n) = s.reg (R.SCN_LAYER_CFG n)) ∧
      (s.fenced n = true → t.fld (R.CLP_FENCE_STATE_staged n) = 1) ∧ t.reg (R.SCN_LAYER_KEYMIN n) = BitVec.ofNat 64 (c.p 20 8) ∧
      t.reg (R.SCN_LAYER_KEYMAX n) = BitVec.ofNat 64 (c.p 28 8) ∧ t.fld (R.SCN_LAYER_COLOUR_r n) = c.p 36 2 ∧
      t.fld (R.SCN_LAYER_COLOUR_g n) = c.p 38 2 ∧ t.fld (R.SCN_LAYER_COLOUR_B_b n) = c.p 40 2 ∧
      t.fld (R.SCN_LAYER_COLOUR_B_key_enable n) = bitsOf (c.p 18 1) 0 4 ∧
      OtherRegs s t [R.SCN_LAYER_CFG n, R.SCN_LAYER_KEYMIN n, R.SCN_LAYER_KEYMAX n, R.SCN_LAYER_COLOUR n, R.SCN_LAYER_COLOUR_B n, R.CLP_FENCE_STATE n] ∧
      t.cmd = (s.finishOne c).cmd ∧ t = { s with regs := t.regs, cmd := t.cmd, clp := t.clp }) ∧
  (∀ (s : State) (bus : Bus) (id : Nat) (c : Cmd) (n : Nat),
    Startable s id .layerColour c → n = c.pb 16 0 6 → s.mayUseLayer c.client n = true → c.flag 17 3 = true → isVideo n = false →
    s.fld (R.SCN_LAYER_CFG_format n) = 12 → busFails bus (c.p 8 8) 1024 = false →
    ∃ t, exec (.layerColour id bus) s = .next t ∧
      (s.fenced n = true → t.fld (R.CLP_FENCE_STATE_staged n) = 1) ∧
      (∀ i, i < 256 → t.fld (R.SCN_PALETTE_entry (n - 32) i) = leNat ((List.range 4).map fun j => busByte bus (c.p 8 8 + 4 * i + j))) ∧
      OtherRegs s t ((List.range 256).map (R.SCN_PALETTE (n - 32)) ++ [R.SCN_LAYER_KEYMIN n, R.SCN_LAYER_KEYMAX n, R.SCN_LAYER_COLOUR n, R.SCN_LAYER_COLOUR_B n, R.CLP_FENCE_STATE n]) ∧
      t.cmd = (s.finishOne c).cmd ∧ t = { s with regs := t.regs, cmd := t.cmd, clp := t.clp }) ∧
  (∀ (s : State) (bus : Bus) (id : Nat) (c : Cmd) (n : Nat),
    Startable s id .layerColour c → n = c.pb 16 0 6 → s.mayUseLayer c.client n = true → c.flag 17 3 = true → isVideo n = true →
    busFails bus (c.p 8 8) 18 = false →
    ∃ t, exec (.layerColour id bus) s = .next t ∧
      (s.fenced n = true → t.fld (R.CLP_FENCE_STATE_staged n) = 1) ∧
      (∀ i, i < 9 → 
      (t.shadowLayer n).matrix[i]? = some (sext 16 (leNat ((List.range 2).map fun j => busByte bus (c.p 8 8 + 2 * i + j))))) ∧
      OtherRegs s t ((List.range 4).map (R.SCN_LAYER_MATRIX n) ++ [R.SCN_LAYER_MATRIX8 n, R.SCN_LAYER_CFG n, R.SCN_LAYER_KEYMIN n, R.SCN_LAYER_KEYMAX n, R.SCN_LAYER_COLOUR n, R.SCN_LAYER_COLOUR_B n, R.CLP_FENCE_STATE n]) ∧
      t.cmd = (s.finishOne c).cmd ∧ t = { s with regs := t.regs, cmd := t.cmd, clp := t.clp })

/-- A mark of a CLEAN region, of number below 65,536, queues it with coalesced 0 from now on and counts it in DMG_CNT[0] and [2];
one of a QUEUED region adds 1 to coalesced, saturating, and counts it in DMG_CNT[1]; one of a region SENDING makes it SENDING
and dirty and counts it in DMG_CNT[3]; no other region changes. A dispatched LAYER_DAMAGE of a rectangle within the source of
a layer that its client may use ends DONE: with the now flag it marks the regions that the enabled layer's mapped rectangle,
by its active values, touches under its kerf; without it, with a grid in force, it adds those of the shadow values to the map
of the layer's next clamp. A REGION_LAYERS_READ of 1 to 4,096 regions of the grid, with no item list, to a bus that takes
every byte, writes one record per region, 8 bytes of the layers drawn and 8 of those dropped, at rising addresses, and ends
DONE with an item for each. -/
def Obligations.DamageAndLayerListsFollowTheGeometry : Prop :=
  (∀ (s : State) (r : Nat),
    (s.region r).state = 0 → r < 65536 →
    ((s.mark r).region r).state = 1 ∧ ((s.mark r).region r).coalesced = 0 ∧ ((s.mark r).region r).since = s.ptp.f ∧
    (s.mark r).fld (R.DMG_CNT_count 0) = min (s.fld (R.DMG_CNT_count 0) + 1) (2 ^ 32 - 1) ∧
    (s.mark r).fld (R.DMG_CNT_count 2) = min (s.fld (R.DMG_CNT_count 2) + 1) (2 ^ 32 - 1) ∧
    (∀ k, k ≠ r → (s.mark r).region k = s.region k)) ∧
  (∀ (s : State) (r : Nat),
    (s.region r).state = 1 →
    ((s.mark r).region r) = { s.region r with coalesced := satAdd 8 (s.region r).coalesced 1 } ∧
    (s.mark r).fld (R.DMG_CNT_count 1) = min (s.fld (R.DMG_CNT_count 1) + 1) (2 ^ 32 - 1) ∧
    (∀ k, k ≠ r → (s.mark r).region k = s.region k) ∧ (s.mark r).sch = s.sch) ∧
  (∀ (s : State) (r : Nat),
    (s.region r).state = 3 →
    ((s.mark r).region r) = { s.region r with state := 4 } ∧
    (s.mark r).fld (R.DMG_CNT_count 3) = min (s.fld (R.DMG_CNT_count 3) + 1) (2 ^ 32 - 1) ∧
    (∀ k, k ≠ r → (s.mark r).region k = s.region k) ∧ (s.mark r).sch = s.sch) ∧
  (∀ (s : State) (bus : Bus) (id : Nat) (c : Cmd) (n : Nat) (l : Layer),
    Startable s id .layerDamage c → n = c.pb 8 0 6 → c.flag 9 0 = true → l = s.activeLayer n → c.p 16 2 ≠ 0 → c.p 18 2 ≠ 0 →
    c.p 12 2 + c.p 16 2 ≤ l.w → c.p 14 2 + c.p 18 2 ≤ l.h → s.mayUseLayer c.client n = true → l.enable = true →
    ∃ t, exec (.layerDamage id bus) s = .next t ∧
      t = (s.markAll (s.regionsOf (l.mapTexels ⟨c.p 12 2, c.p 12 2 + c.p 16 2, c.p 14 2, c.p 14 2 + c.p 18 2⟩) (s.kerf n))).finishOne c ∧
      t = { s with regs := t.regs, ledger := t.ledger, cmd := t.cmd, dmg := t.dmg, sch := t.sch }) ∧
  (∀ (s : State) (bus : Bus) (id : Nat) (c : Cmd) (n : Nat),
    Startable s id .layerDamage c → n = c.pb 8 0 6 → c.flag 9 0 = false → c.p 16 2 ≠ 0 → c.p 18 2 ≠ 0 →
    c.p 12 2 + c.p 16 2 ≤ (s.shadowLayer n).w → c.p 14 2 + c.p 18 2 ≤ (s.shadowLayer n).h → s.mayUseLayer c.client n = true →
    (s.shadowLayer n).enable = true → s.gridOn = true →
    ∃ t, exec (.layerDamage id bus) s = .next t ∧
      t.cmd = (s.finishOne c).cmd ∧
      Store.get (fun _ => []) t.dmg.maps (s.mapOf n) = (Store.get (fun _ => []) s.dmg.maps (s.mapOf n) ++
      s.regionsOf ((s.shadowLayer n).mapTexels ⟨c.p 12 2, c.p 12 2 + c.p 16 2, c.p 14 2, c.p 14 2 + c.p 18 2⟩) (s.shadowKerf n)).eraseDups ∧
      t.dmg = { s.dmg with maps := t.dmg.maps } ∧ t = { s with out := t.out, cmd := t.cmd, dmg := t.dmg }) ∧
  (∀ (s : State) (bus : Bus) (id : Nat) (c : Cmd),
    Startable s id .regionLayersRead c → 0 < c.p 18 2 → c.p 18 2 ≤ 4096 → s.gridOn = true → c.p 16 2 + c.p 18 2 ≤ s.regionCount →
    bus.bad = [] → c.itemList = false →
    ∃ t, exec (.regionLayersRead id bus) s = .next t ∧
      t.out = ((List.range (c.p 18 2)).map fun i => Output.hostWrite c.client (c.p 8 8 + 16 * i)
      (leBytes 8 (layerMask (s.layerList (c.p 16 2 + i))) ++ leBytes 8 (layerMask (s.droppedIn (c.p 16 2 + i))))).reverse ++ s.out ∧
      t.cmd = (s.finishAs c (List.replicate (c.p 18 2) ⟨stDone, 0, 0⟩)).cmd ∧ t = { s with out := t.out, cmd := t.cmd })

/-- With Trastos enabled, a good packet of no bound stream is counted as unknown at its port, and no stream, unit or other
register changes. A packet of a bound stream and allowed source that is no apron and passes every test is counted as received
and accepted, advances its stream's sequence window, and its unit is there. The oldest holes of a stream with no units, at the
end of their wait, are lost with every number counted. An unfinished unit of an enabled stream and a marked frame is lost at
its limit and its loss posted. An unmarked staging frame folds into the next marked one, and no unit changes. A TILE unit
whose job ends with its body inflated to the size it states, and which need not wait, is delivered; its inflate unit is free,
and no byte of module DRAM outside its rows in the staging copy changes. -/
def Obligations.TrastosPacketsBecomeUnitsOrAreCountedAndLost : Prop :=
  (∀ (s : State) (p : Nat) (d : List Byte) (fragment : Bool),
    p < 8 → s.fld R.SCN_TRS_CFG_enable = 1 → (TrsHead.of d).sync = 0x7A53 → (TrsHead.of d).version = 1 →
    (TrsHead.of d).stated d = d.length → d.length ≤ 9000 → crc32c (d.take (d.length - 4)) = leAt d (d.length - 4) 4 →
    s.slotOfStream (TrsHead.of d).id = none →
    ∃ t, exec (.trastosPacketArrival p d fragment) s = .next t ∧
      t.fld (R.SCN_TRS_UNKNOWN_count p) = satAdd 32 (s.fld (R.SCN_TRS_UNKNOWN_count p)) 1 ∧ OtherRegs s t [R.SCN_TRS_UNKNOWN p] ∧
      t.trs = s.trs ∧ t = { s with regs := t.regs, cmd := t.cmd }) ∧
  (∀ (s : State) (p v : Nat) (d : List Byte),
    p < 8 → s.fld R.SCN_TRS_CFG_enable = 1 → (TrsHead.of d).sync = 0x7A53 → (TrsHead.of d).version = 1 →
    (TrsHead.of d).stated d = d.length → d.length ≤ 9000 → crc32c (d.take (d.length - 4)) = leAt d (d.length - 4) 4 →
    s.slotOfStream (TrsHead.of d).id = some v → (s.stream v).sources.testBit p = true →
    (s.countTrs v 0 1).trsTest v (TrsHead.of d) d (slice d ((TrsHead.of d).payloadAt ((TrsHead.of d).subsamples d)) (TrsHead.of d).length) false = .accepted →
    (TrsHead.of d).apron = false →
    ∃ t, exec (.trastosPacketArrival p d false) s = .next t ∧
      t.fld (R.SCN_TRS_CNT_count v 0) = satAdd 32 (s.fld (R.SCN_TRS_CNT_count v 0)) 1 ∧
      t.fld (R.SCN_TRS_CNT_count v 1) = satAdd 32 (s.fld (R.SCN_TRS_CNT_count v 1)) 1 ∧
      t.stream v = ((s.stream v).accept (TrsHead.of d).seq s.ptp.f).1 ∧
      (t.unitOf v (TrsHead.of d).frame (TrsHead.of d).unit).isSome = true ∧
      t = { s with regs := t.regs, ledger := t.ledger, cmd := t.cmd, trs := t.trs, dec := t.dec }) ∧
  (∀ (s : State) (v : Nat) (h : Hole) (rest : List Hole),
    v < 64 → (s.stream v).holes = h :: rest → s.trs.units = [] →
    ∃ t, exec (.holeLossWaitExpiry v) s = .next t ∧
      (t.stream v).holes = (s.stream v).holes.filter (fun k => k.at_ != h.at_) ∧
      t.fld (R.SCN_TRS_CNT_count v 7) = satAdd 32 (s.fld (R.SCN_TRS_CNT_count v 7)) (((s.stream v).holes.filter fun k => k.at_ == h.at_).map Hole.n).sum ∧
      (∀ k, k ≠ v → t.stream k = s.stream k) ∧ OtherRegs s t [R.SCN_TRS_CNT v 7] ∧
      t = { s with regs := t.regs, ledger := t.ledger, cmd := t.cmd, trs := t.trs, dec := t.dec }) ∧
  (∀ (s : State) (v f n : Nat) (u : TrsUnit),
    v < 64 → s.fld (R.SCN_TRS_STREAM_enable v) = 1 → s.unitOf v f n = some u → u.stage = 0 →
    (s.trsGroup (s.slotGroup v)).markers.any (fun m => m.frame == f) = true →
    ∃ t, exec (.unitIncompleteExpiry v f n) s = .next t ∧
      (t.unitOf v f n).map TrsUnit.stage = some 3 ∧
      (⟨0x0561, v, (n % 4096 + 8192 + f % 65536 * 65536) % 2 ^ 32, s.now, some (s.slotOwner v), none, none⟩ : Event) ∈ t.cmd.events ∧
      t.trs.units = s.trs.units.map (fun x => if x.isOf v f n then { u with stage := 3, frags := [], data := [], crypto := [] } else x) ∧
      t = { s with regs := t.regs, ledger := t.ledger, cmd := t.cmd, trs := t.trs, dec := t.dec }) ∧
  (∀ (s : State) (g c x : Nat),
    s.stagingFrame g = some c → (s.trsGroup g).markers.any (fun m => m.frame == c) = false →
    (((s.trsGroup g).markers.map Marker.frame).filter fun f => !frameAtOrBefore f c).foldl lowerFrame none = some x →
    ∃ t, exec (.trsMarkerMissing g) s = .next t ∧
      (t.trsGroup g).foldTo = some x ∧ (t.trsGroup g).markers = (s.trsGroup g).markers ∧
      (∀ k, k ≠ g → t.trsGroup k = s.trsGroup k) ∧ t.trs.units = s.trs.units ∧
      t = { s with regs := t.regs, cmd := t.cmd, trs := t.trs, dec := t.dec }) ∧
  (∀ (s : State) (n : Nat) (j : CmpJob) (u : TrsUnit) (a : Wrapper) (e : JobEnd) (t1 : State),
    n < 8 → s.unitJob n = some j → j.dir = 0 → j.cls = 1 → a = Wrapper.of j.data → e = a.inflate j.data j.dst →
    s.unitOf (j.who.getD 0 0) (j.who.getD 1 0) (j.who.getD 2 0) = some u → u.stage = 1 → u.type = 0x10 → s.unitWaits u = false →
    e.out.length = j.dst → t1 = (s.countOutcome n j e.status e.reason).freeUnit n e.consumed j.dst →
    t1.bodySize u a = some j.dst → e.status = 0 → s.inBounds = true →
    ∃ t, exec (.unitInflated n) s = .next t ∧
      t.unitJob n = none ∧ (t.unitOf u.slot u.frame u.unit).map TrsUnit.stage = some 2 ∧
      (∀ key, (∀ r, r < a.h → s.touched (64 * s.fld (R.SCN_TRS_ALTBASE_base u.slot) + (a.y + r) * (s.shadowLayer ((s.slotLayer u.slot).getD 0)).pitch +
      a.x * texelBytes (s.shadowLayer ((s.slotLayer u.slot).getD 0)).format)
      (a.w * texelBytes (s.shadowLayer ((s.slotLayer u.slot).getD 0)).format) key = false) → t.phys key = s.phys key) ∧
      (∀ v, v ≠ n → t.unitJob v = s.unitJob v) ∧
      t = { s with regs := t.regs, ledger := t.ledger, dram := t.dram, cmd := t.cmd, scn := t.scn, dmg := t.dmg, clp := t.clp, trs := t.trs, dec := t.dec, cmp := t.cmp })

/-- With the decode domain awake, a dispatched DECODE_ASSIGN of a video stream that has no assignment, of a layer its client may
use that is not enabled, with a dpb of 1 to 16, a rate of 16 to 3,840, a size allowed, room on the pipe it names and in the
pool, gives the stream its pipe, rate and pages, shows them and ends DONE with the pipe as value; with the free flag, of a
layer that is not enabled, it gives them back; without it, a dpb outside 1 to 16 is refused with reason 11 and nothing else
changes. An idle pipe takes the first unit it may, here an unencrypted one before whose clamp it is, of a stream that skips
nothing, and holds it. A finished unit of the layer's shape that releases no picture is delivered, with memory and streams as
they were; one that releases a picture, of a frame that may apply, on a layer neither fenced nor keeping that frame, counts
it, writes no byte outside the 4 KiB pages of the picture's place in the pool, and makes the picture the staged one with its
damage. Other streams and pipes stay. -/
def Obligations.DecodePipesTakeUnitsAndShowPictures : Prop :=
  (∀ (s : State) (bus : Bus) (id k n q refs outB : Nat) (runs : List (Nat × Nat)) (c : Cmd) (l : Layer),
    Startable s id .decodeAssign c → s.fld (R.PWC_DOMAIN_depth 24) = 0 → n = c.pb 8 0 5 → c.flag 9 0 = false →
    c.flag 9 1 = false → k = 2 * n → s.decStream k = none → l = s.shadowLayer n → 1 ≤ c.pb 11 0 5 → c.pb 11 0 5 ≤ 16 →
    s.mayUseLayer c.client n = true → q = c.p 10 1 → q < 16 → s.pipeLoad q k + l.load16 false (c.p 12 2) ≤ 16 * pipeC →
    s.layerBusy n = false → refs = c.pb 11 0 5 * pictureBytes (l.chroma false) l.w l.h (l.sampleBytes false) →
    outB = pictureBytes (l.chroma false) l.pw l.ph (l.sampleBytes false) → s.poolFind ((refs + 3 * outB) / 4096) k = some runs →
    16 ≤ c.p 12 2 → c.p 12 2 ≤ 3840 → videoSizeOk l.w l.h = true →
    ∃ t, exec (.decodeAssign id bus) s = .next t ∧
      t.decStream k = some {
    pipe := q, codec := 0, rate := c.p 12 2, load := l.load16 false (c.p 12 2), runs := runs, outAt := refs, outBytes := outB } ∧
      t.fld (R.DEC_LAYER_CFG_assigned n) = 1 ∧ t.fld (R.DEC_LAYER_CFG_pipe n) = q ∧ t.fld (R.DEC_LAYER_CFG_rate n) = c.p 12 2 ∧
      t.cmd = (s.finishOne c q).cmd ∧ (∀ j, j ≠ k → t.decStream j = s.decStream j) ∧
      OtherRegs s t [R.DEC_PIPE_LOAD q, R.DEC_POOL_FREE, R.DEC_LAYER_CFG n] ∧
      t = { s with out := t.out, regs := t.regs, cmd := t.cmd, dec := t.dec }) ∧
  (∀ (s : State) (bus : Bus) (id : Nat) (c : Cmd),
    Startable s id .decodeAssign c → s.fld (R.PWC_DOMAIN_depth 24) = 0 → c.flag 9 1 = true →
    s.mayUseLayer c.client (c.pb 8 0 5) = true → s.layerBusy (c.pb 8 0 5) = false →
    ∃ t, exec (.decodeAssign id bus) s = .next t ∧
      t.decStream (2 * c.pb 8 0 5 + bit (c.flag 9 0)) = none ∧
      (∀ j, j ≠ 2 * c.pb 8 0 5 + bit (c.flag 9 0) → t.decStream j = s.decStream j) ∧ t.cmd.replies = (s.finishOne c).cmd.replies ∧
      t = { s with out := t.out, regs := t.regs, cmd := t.cmd, dec := t.dec }) ∧
  (∀ (s : State) (bus : Bus) (id : Nat) (c : Cmd),
    Startable s id .decodeAssign c → s.fld (R.PWC_DOMAIN_depth 24) = 0 → c.flag 9 1 = false → c.pb 11 0 5 = 0 ∨ 16 < c.pb 11 0 5 →
    ∃ t, exec (.decodeAssign id bus) s = .next t ∧
      t = s.refuse c stBadParam 11 ∧ t = { s with cmd := t.cmd }) ∧
  (∀ (s : State) (p k : Nat) (rap : Bool) (u : TrsUnit) (d : DecStream),
    p < 16 → s.pipeBusy p = none → s.enginesMay = true → s.hst.held = [] → s.trs.units.find? (fun u => s.pipeMay p u) = some u →
    u.encrypted = false → s.decKey u = some k → s.decStream k = some d → d.skipping = [] → s.missedClamp u = false →
    ∃ t, exec (.decodeStart p 0 rap) s = .next t ∧
      t.pipeBusy p = some (u.slot, u.frame, u.unit) ∧ (t.unitOf u.slot u.frame u.unit).map TrsUnit.started = some true ∧
      (∀ q, q ≠ p → t.pipeBusy q = s.pipeBusy q) ∧ (∀ j, t.decStream j = s.decStream j) ∧
      OtherRegs s t [R.PWC_DOMAIN 24, R.PWC_CLK 26] ∧ t = { s with regs := t.regs, trs := t.trs, dec := t.dec }) ∧
  (∀ (s : State) (p k v f n w h bits chroma : Nat) (u : TrsUnit),
    s.pipeBusy p = some (v, f, n) → s.unitOf v f n = some u → s.decKey u = some k →
    (s.shadowLayer (k / 2)).takes (k % 2 == 1) w h bits chroma = true →
    ∃ t, exec (.pictureOutput p 0 ⟨w, h, bits, chroma, none⟩) s = .next t ∧
      t.pipeBusy p = none ∧ (t.unitOf v f n).map TrsUnit.stage = some 2 ∧ t.dram = s.dram ∧ (∀ j, t.decStream j = s.decStream j) ∧
      t = { s with regs := t.regs, ledger := t.ledger, cmd := t.cmd, trs := t.trs, dec := t.dec }) ∧
  (∀ (s : State) (p k v f n w h bits chroma slot : Nat) (u : TrsUnit) (d : DecStream) (q : Picture),
    p < 16 → s.pipeBusy p = some (v, f, n) → s.unitOf v f n = some u → s.decKey u = some k → s.decStream k = some d →
    (s.shadowLayer (k / 2)).takes (k % 2 == 1) w h bits chroma = true → s.mayApply (s.slotGroup u.slot) u.frame = true →
    s.fenced (k / 2) = false → s.keeps (k / 2) u.frame = false → d.retired = [] →
    s.freeSlot { d with staged := none } = some slot →
    ∃ t, exec (.pictureOutput p 0 ⟨w, h, bits, chroma, some q⟩) s = .next t ∧
      t.pipeBusy p = none ∧ (t.unitOf v f n).map TrsUnit.stage = some 2 ∧
      t.fld (R.DEC_LAYER_STAT_pictures (k / 2)) = satAdd 32 (s.fld (R.DEC_LAYER_STAT_pictures (k / 2))) 1 ∧
      ((t.decStream k).bind DecStream.staged) = some slot ∧ (t.decStream k).map DecStream.stagedFrame = some u.frame ∧
      (t.decStream k).map DecStream.stagedDamage = some (d.stagedDamage ++ [(u.frame, match u.damage with
      | some (x, y, w, h) => s.shadowTexels (k / 2) ⟨x, x + w, y, y + h⟩
      | none => s.shadowWhole (k / 2))]) ∧
      (∀ key, (List.range (ceilDiv ((s.shadowLayer (k / 2)).outPicture (k % 2 == 1) q).length 4096)).all (fun i =>
      !(s.touched (poolMa (s.fld R.DEC_POOL_BASE_base) d.runs (d.outAt + slot * d.outBytes + 4096 * i)) 4096 key)) = true → t.phys key = s.phys key) ∧
      t = { s with regs := t.regs, ledger := t.ledger, dram := t.dram, cmd := t.cmd, trs := t.trs, dec := t.dec })

/-- A dispatched STREAM_BIND that passes its tests, without the TILE type, writes its slot's binding, clears the slot's counts and
starts its stream afresh, and replies DONE; with stream_id 0 it is refused with BAD_PARAM and reason 16. A TRASTOS_SUBMIT from
client memory of one packet, without an encryption extension, that fills its buffer of 36 to 9,000 bytes ends with the one
item that the packet's arrival from source 8 gives. A KEK_ESTABLISH of a point on the curve, for a slot that no other client
holds, keeps the key derived from the ECDH secret (a free value, log entry 34) for its client. A KEY_LOAD under a KEK of its
client, where no key slot is held, keeps the unwrapped key, or is refused with reason 2 where it does not unwrap; with the
clear flag it clears its client's own key slot, and is refused NOT_PERMITTED for another's. A KEY_PUBLIC_READ with no item
list, to memory that takes it, writes the 97 bytes of the module's public key (free values) and ends DONE. -/
def Obligations.StreamsAreBoundAndKeysHeldByTheirClients : Prop :=
  (∀ (s : State) (bus : Bus) (id v : Nat) (c : Cmd),
    Startable s id .streamBind c → v = c.pb 18 0 6 → c.flag 19 1 = false →
    s.bindFault v (c.p 16 2) (c.pb 20 0 6) (c.pb 21 0 4) (c.pb 22 0 6) (c.flag 20 7) = none →
    (c.flag 19 0 = true → s.fld R.SCN_TRS_HOLD_BASE_base ≠ 0) → s.slotForeign v c.client = false →
    c.flag 20 7 = true ∨ s.mayUseLayer c.client (c.pb 20 0 6) = true → c.pb 8 0 36 % 64 = 0 → (c.pb 22 0 6).testBit 2 = false →
    c.client < 16 →
    ∃ t, exec (.streamBind id bus) s = .next t ∧
      t.fld (R.SCN_TRS_STREAM_stream_id v) = c.p 16 2 ∧ t.fld (R.SCN_TRS_STREAM_layer v) = c.pb 20 0 6 ∧
      t.fld (R.SCN_TRS_STREAM_enable v) = bit (c.flag 19 0) ∧ t.fld (R.SCN_TRS_STREAM_group v) = c.pb 21 0 4 ∧
      t.fld (R.SCN_TRS_STREAM_owner v) = c.client ∧
      t.stream v = { types := c.pb 22 0 6, sources := c.pb 24 0 9, codec := c.pb 23 0 1 } ∧
      (∀ k, k < 16 → t.reg (R.SCN_TRS_CNT v k) = 0) ∧ (∀ k, k ≠ v → t.stream k = s.stream k) ∧
      OtherRegs s t ([R.SCN_TRS_STREAM v, R.SCN_TRS_ALTBASE v, R.DEC_LAYER_CFG (c.pb 20 0 6)] ++ (List.range 16).map (R.SCN_TRS_CNT v)) ∧
      t.cmd.replies = (s.finishOne c).cmd.replies ∧ t = { s with regs := t.regs, ledger := t.ledger, cmd := t.cmd, trs := t.trs }) ∧
  (∀ (s : State) (bus : Bus) (id : Nat) (c : Cmd),
    Startable s id .streamBind c → c.flag 19 1 = false → c.p 16 2 = 0 →
    ∃ t, exec (.streamBind id bus) s = .next t ∧
      t = s.refuse c stBadParam 16 ∧ t = { s with cmd := t.cmd }) ∧
  (∀ (s t1 : State) (bus : Bus) (id : Nat) (c : Cmd) (d : List Byte) (r : Arrival),
    Startable s id .trastosSubmit c → 36 ≤ c.p 16 4 → c.p 16 4 ≤ 9000 → s.fld R.SCN_TRS_HOLD_BASE_base ≠ 0 → c.flag 20 0 = false →
    busRead bus (c.p 8 8) (c.p 16 4) = some d → (TrsHead.of d).extCrypto = false →
    (TrsHead.of d).payloadAt 0 + (TrsHead.of d).length + 4 = c.p 16 4 → s.trsArrive 8 d false = (t1, r) →
    ∃ t, exec (.trastosSubmit id bus) s = .next t ∧
      t = t1.finishAs c [r.item] ∧ t = { s with regs := t.regs, ledger := t.ledger, cmd := t.cmd, trs := t.trs, dec := t.dec }) ∧
  (∀ (s : State) (bus : Bus) (id : Nat) (c : Cmd) (d : List Byte),
    Startable s id .kekEstablish c → busRead bus (c.p 8 8) 97 = some d → onCurve d = true →
    keyForeign (Store.get (fun _ => none) s.trs.keks (c.pb 16 0 2)) c.client = false →
    ∃ t, exec (.kekEstablish id bus) s = .next t ∧
      Store.get (fun _ => none) t.trs.keks (c.pb 16 0 2) = some ⟨c.client, [], kekOf ((List.range 48).map fun i => Config.ecdh d i)⟩ ∧
      t.trs = { s.trs with keks := t.trs.keks } ∧ t.cmd = (s.finishOne c).cmd ∧ t.regs = s.regs ∧
      t = { s with out := t.out, cmd := t.cmd, trs := t.trs }) ∧
  (∀ (s : State) (bus : Bus) (id : Nat) (c : Cmd) (q : KeySlot),
    Startable s id .keyLoad c → c.flag 10 0 = false → Store.get (fun _ => none) s.trs.keks (c.pb 9 0 2) = some q →
    q.owner = c.client → (∀ j, j < 128 → Store.get (fun _ => none) s.trs.keys j = none) →
    ∃ t, exec (.keyLoad id bus) s = .next t ∧
      Store.get (fun _ => none) t.trs.keys (c.pb 8 0 7) = (keyUnwrap q.key (slice c.params 24 24)).map (fun key => ⟨c.client, slice c.params 8 16, key⟩) ∧
      t.trs = { s.trs with keys := t.trs.keys } ∧
      t.cmd = (if (keyUnwrap q.key (slice c.params 24 24)).isSome then s.finishOne c else s.refuse c stBadParam 2).cmd ∧
      t = { s with out := t.out, cmd := t.cmd, trs := t.trs }) ∧
  (∀ (s : State) (bus : Bus) (id : Nat) (c : Cmd) (x : KeySlot),
    Startable s id .keyLoad c → c.flag 10 0 = true → Store.get (fun _ => none) s.trs.keys (c.pb 8 0 7) = some x →
    ∃ t, exec (.keyLoad id bus) s = .next t ∧
      (x.owner ≠ c.client → t = s.refuse c stNotPermitted 0) ∧
      (x.owner = c.client → Store.get (fun _ => none) t.trs.keys (c.pb 8 0 7) = none ∧ t.cmd = (s.finishOne c).cmd) ∧
      t = { s with out := t.out, cmd := t.cmd, trs := t.trs }) ∧
  (∀ (s : State) (bus : Bus) (id : Nat) (c : Cmd),
    Startable s id .keyPublicRead c → busFails bus (c.p 8 8) 97 = false → c.itemList = false →
    ∃ t, exec (.keyPublicRead id bus) s = .next t ∧
      t.out = .hostWrite c.client (c.p 8 8) ((List.range 97).map Config.publicKey) :: s.out ∧ t.cmd = (s.finishOne c).cmd ∧
      t = { s with out := t.out, cmd := t.cmd })

/-- A completed fill holds module DRAM as it stands, with the demand past the budget of 4,096 lines, counted where there is any. A
filled region of no check, in a bay that synthesises nothing, starts synthesis: its rows are made from the fill's texels under
the state as it then is, its rays counted, and it is SENDING; no other region changes. Lines that arrive for a synthesis are
read from module DRAM as it then stands, lower the demand and are counted; a drained ray buffer of a job in pieces counts its
stall. An unchecked job in synthesis, not in pieces, asks for its launch once and joins its group's requests, and its
continuations where it has started; so does the next piece of a job in pieces whose rows are all made, fit and are not all
sent. At the end of a synthesis with no demand, check or capture the job is buffered with every ray ready and the CRC of its
rows as signature. A dispatched RAY_PROBE of 1 to 4,096 rays of the field, with a grid, a bay to probe and no other probe,
takes that bay and its fill side; once that bay, in service, fills and synthesises nothing, it writes one record per ray, to a
bus that takes every byte, and ends with an item for each, DEGRADED_COMPLETION where the bay sistered. Registers other than
the bay's counts and the counts of DRAM accesses stay. -/
def Obligations.BaysFillSynthesiseAndAskToLaunch : Prop :=
  (∀ (s : State) (bay : Nat) (j : Job),
    s.sch.jobs.find? (fun j => j.bay == bay && j.stage == .filling) = some j → demandLines 4096 (s.footprintLines j.region) = 0 →
    ∃ t, exec (.fillComplete bay) s = .next t ∧
      t.sch.jobs = s.sch.jobs.map (fun x => if x.id = j.id then { j with stage := .filled, texels := s.dram, overBudget := false, demand := 0 } else x) ∧
      t.sch = { s.sch with jobs := t.sch.jobs } ∧ t = { s with sch := t.sch }) ∧
  (∀ (s : State) (bay : Nat) (j : Job),
    s.sch.jobs.find? (fun j => j.bay == bay && j.stage == .filling) = some j → demandLines 4096 (s.footprintLines j.region) ≠ 0 →
    ∃ t, exec (.fillComplete bay) s = .next t ∧
      (t.job? j.id).map Job.stage = some .filled ∧ (t.job? j.id).map Job.overBudget = some true ∧
      (t.job? j.id).map Job.demand = some (demandLines 4096 (s.footprintLines j.region)) ∧
      t.fld (bayStat bay 1) = satAdd 32 (s.fld (bayStat bay 1)) 1 ∧ OtherRegs s t [(bayStat bay 1).off] ∧
      t = { s with regs := t.regs, cmd := t.cmd, sch := t.sch }) ∧
  (∀ (s : State) (bay : Nat) (j : Job),
    s.sch.jobs.find? (fun j => j.bay == bay && j.stage == .filled) = some j → s.synthOf bay = none → j.again = false →
    s.checkOf j.region = none →
    ∃ t, exec (.synthesisStart bay) s = .next t ∧
      (t.job? j.id).map Job.stage = some .synth ∧
      (t.job? j.id).map Job.rows = some (s.synthesise (s.underNow j.region) j.texels j.region (s.phaseOf j.region)) ∧
      (t.job? j.id).map Job.rays = some ((s.regionRect j.region).2.2.1 * (s.regionRect j.region).2.2.2 * s.views) ∧
      (t.job? j.id).map Job.under = some (some (s.underNow j.region)) ∧
      t.region j.region = { s.region j.region with state := 3 } ∧ (∀ r, r ≠ j.region → t.region r = s.region r) ∧ t.glu = s.glu ∧
      OtherRegs s t dramCounts ∧
      t = { s with regs := t.regs, ledger := t.ledger, cmd := t.cmd, dmg := t.dmg, sch := t.sch, glu := t.glu }) ∧
  (∀ (s : State) (bay clocks : Nat) (lines : List Nat) (j : Job) (u : Under),
    s.synthOf bay = some j → lines ≠ [] → j.under = some u → bay < 64 →
    ∃ t, exec (.demandLineArrival bay lines clocks) s = .next t ∧
      t.sch.jobs = s.sch.jobs.map (fun x => if x.id = j.id then { j with
      texels := lines.foldl s.fetchLine j.texels, demand := j.demand - lines.length
      rows := j.rows.take j.sent ++ (s.synthesise u (lines.foldl s.fetchLine j.texels) j.region j.phase).drop j.sent } else x) ∧
      t.fld (bayStat bay 2) = satAdd 32 (s.fld (bayStat bay 2)) lines.length ∧
      t.fld (bayStat bay 3) = satAdd 32 (s.fld (bayStat bay 3)) (clocks / 64) ∧
      OtherRegs s t [(bayStat bay 2).off, (bayStat bay 3).off] ∧ t = { s with regs := t.regs, sch := t.sch }) ∧
  (∀ (s : State) (bay clocks : Nat) (j : Job),
    s.synthOf bay = some j → j.pieces = true →
    ∃ t, exec (.rayBufferDrained bay clocks) s = .next t ∧
      t.fld (bayStat bay 3) = satAdd 32 (s.fld (bayStat bay 3)) (clocks / 64) ∧ OtherRegs s t [(bayStat bay 3).off] ∧
      t = { s with regs := t.regs }) ∧
  (∀ (s : State) (bay : Nat) (j : Job),
    s.synthOf bay = some j → j.asked = false → j.pieces = false → j.check = none →
    ∃ t, exec (.launchRequest bay) s = .next t ∧
      (t.job? j.id).map Job.asked = some true ∧ (t.job? j.id).map Job.ready = some (max j.ready j.launchAt) ∧
      (t.pg (j.node / 16)).requests = (s.pg (j.node / 16)).requests ++ [j.id] ∧
      (t.pg (j.node / 16)).conts = (s.pg (j.node / 16)).conts ++ (if j.started then [j.id] else []) ∧
      (∀ q, q ≠ j.node / 16 → t.pg q = s.pg q) ∧ t = { s with sch := t.sch, pnl := t.pnl }) ∧
  (∀ (s : State) (r : Nat) (j : Job),
    s.jobOf r = some j → j.pieces = true → j.asked = false → j.stage = .buffered → j.pieceFits = true →
    j.nextPiece ≠ j.rows.length → j.cut = false →
    ∃ t, exec (.pieceReady r) s = .next t ∧
      (t.job? j.id).map Job.asked = some true ∧
      (t.job? j.id).map Job.ready = some (max j.ready ((j.nextPiece + j.newRows) * j.rowRays)) ∧
      (t.job? j.id).map Job.ends = some (j.ends ++ [j.nextPiece + j.newRows]) ∧
      (t.pg (j.node / 16)).requests = (s.pg (j.node / 16)).requests ++ [j.id] ∧
      (t.pg (j.node / 16)).conts = (s.pg (j.node / 16)).conts ++ (if j.started then [j.id] else []) ∧
      OtherRegs s t (if j.nextPiece = 0 then [] else [(bayStat j.bay 4).off]) ∧
      t = { s with regs := t.regs, sch := t.sch, pnl := t.pnl }) ∧
  (∀ (s : State) (bay : Nat) (bus : Bus) (j : Job),
    s.synthOf bay = some j → j.demand = 0 → j.check = none → j.caps = [] →
    ∃ t, exec (.synthesisEnd bay bus) s = .next t ∧
      (t.job? j.id).map Job.stage = some .buffered ∧ (t.job? j.id).map Job.ready = some j.rays ∧
      (t.job? j.id).map Job.signature = some (crc32c j.rows.flatten) ∧
      t.fld (bayStat bay 0) = satAdd 32 (s.fld (bayStat bay 0)) 1 ∧ OtherRegs s t [(bayStat bay 0).off] ∧
      t = { s with regs := t.regs, sch := t.sch, pnl := t.pnl }) ∧
  (∀ (s : State) (bus : Bus) (id : Nat) (c : Cmd) (bay p : Nat),
    Startable s id .rayProbe c → s.geomValid = true → c.pb 16 0 40 / 256 < s.hx * s.hy → c.pb 16 0 40 % 256 < s.views →
    0 < c.p 24 2 → c.p 24 2 ≤ 4096 → c.pb 16 0 40 / 256 * s.views + c.pb 16 0 40 % 256 + c.p 24 2 ≤ s.hx * s.hy * s.views →
    s.gridOn = true → s.probeBay = some (bay, p) → s.fillFree bay = true → s.eng.probes = [] →
    ∃ t, exec (.rayProbe id bus) s = .next t ∧
      t.eng.probes = [⟨id, bay, c.pb 16 0 40 / 256 * s.views + c.pb 16 0 40 % 256, c.p 24 2,
      some (t.underRays (c.pb 16 0 40 / 256 * s.views + c.pb 16 0 40 % 256) (c.p 24 2)), false⟩] ∧
      t.eng.lastBent = p ∧ t.cmd.replies = s.cmd.replies ∧ OtherRegs s t dramCounts ∧
      t = { s with regs := t.regs, ledger := t.ledger, dram := t.dram, cmd := t.cmd, eng := t.eng }) ∧
  (∀ (s : State) (bus : Bus) (id : Nat) (c : Cmd) (p : Probe) (u : Under),
    s.cmdOf id = some c → c.opcode = Op.rayProbe.code → c.phase = .running → s.eng.probes = [p] → p.cmd = id → p.under = some u →
    s.bayIn p.bay = true → s.fillOf p.bay = none → s.synthOf p.bay = none → bus.bad = [] → c.itemList = false →
    ∃ t, exec (.rayProbe id bus) s = .next t ∧
      t.out = ((List.range p.count).map fun i => (Output.hostWrite c.client
      (c.p 8 8 + ((List.range i).map fun k => (s.probeRecord u (p.first + k) (u.vcf.getD k (0, 0))).length).sum)
      (s.probeRecord u (p.first + i) (u.vcf.getD i (0, 0))))).reverse ++ s.out ∧
      t.cmd = (s.finishAs c (List.replicate p.count ⟨if p.sistered then stDegraded else stDone, 0, 0⟩)).cmd ∧ t.eng.probes = [] ∧
      t = { s with out := t.out, cmd := t.cmd, eng := t.eng })

/-- At the end of a first synthesis with no demand or capture, whose check had a valid entry at its start: an equal signature
counts a match, the burst is marked checked and the job buffered; an unequal one counts a mismatch, shows the signature and
the region, ends the job, and the region waits to be synthesised again on another bay. A second synthesis that mismatches, of
a region not substituted and still in its check, makes every row the safe word, counts in GLU_SQC_CNT[4] and posts
SQC_SUBSTITUTED. A disabling CHECK_REGION_DEFINE of a client that may use the check clears enable in its shadow alone and ends
DONE; an enabling one, of a free check that meets every test, sets the shadow, zeroes its counts, is owned, and changes no
byte of module DRAM but the entries of its members. A SQC_SIGNATURE_LOAD of entries of an enabled check, from client memory
that delivers every byte, with no copy-forward and no clamp of its group due, writes its entries into the copy not active,
notes the members and ends with an item for each. A dispatched SQC_CAPTURE of 1 to 4,096 regions, with room, replies DEFERRED
and waits for its regions; at CAPTURE_TIMEOUT, when its frames have run out, it is gone and its open items are LIMIT_EXCEEDED
with reason 1. Registers other than those of the check, of the last mismatch, the bay's count and the counts of DRAM accesses
stay. -/
def Obligations.SquareChecksCompareResynthesiseAndSubstitute : Prop :=
  (∀ (s : State) (bay : Nat) (bus : Bus) (j : Job) (c : Nat),
    s.synthOf bay = some j → j.demand = 0 → j.check = some (c, true, crc32c j.rows.flatten) → j.again = false → j.caps = [] →
    s.glu.substituted.contains j.region = false → bay < 64 → c < 256 →
    ∃ t, exec (.synthesisEnd bay bus) s = .next t ∧
      t.fld (R.GLU_SQC_CNT_count c 1) = satAdd 32 (s.fld (R.GLU_SQC_CNT_count c 1)) 1 ∧
      (t.job? j.id).map Job.checked = some true ∧ (t.job? j.id).map Job.stage = some .buffered ∧
      t.glu = { s.glu with pending := s.glu.pending.filter fun p => p != (j.region, c) } ∧
      OtherRegs s t [(bayStat bay 0).off, R.GLU_SQC_CNT c 1] ∧
      t = { s with regs := t.regs, ledger := t.ledger, dmg := t.dmg, sch := t.sch, glu := t.glu, pnl := t.pnl }) ∧
  (∀ (s : State) (bay : Nat) (bus : Bus) (j : Job) (c x : Nat),
    s.synthOf bay = some j → j.demand = 0 → j.check = some (c, true, x) → x ≠ crc32c j.rows.flatten → j.again = false →
    j.caps = [] → bay < 64 → c < 256 →
    ∃ t, exec (.synthesisEnd bay bus) s = .next t ∧
      t.fld (R.GLU_SQC_CNT_count c 2) = satAdd 32 (s.fld (R.GLU_SQC_CNT_count c 2)) 1 ∧
      t.fld R.GLU_SQC_LAST_GOT_sig = crc32c j.rows.flatten % 2 ^ 32 ∧ t.fld R.GLU_SQC_LAST_WHERE_region = j.region % 65536 ∧
      t.sch.again = s.sch.again ++ [⟨j.region, j.node, c, bay⟩] ∧ t.job? j.id = none ∧
      OtherRegs s t [(bayStat bay 0).off, R.GLU_SQC_CNT c 2, R.GLU_SQC_LAST_EXPECT, R.GLU_SQC_LAST_GOT, R.GLU_SQC_LAST_WHERE] ∧
      t = { s with regs := t.regs, ledger := t.ledger, cmd := t.cmd, dmg := t.dmg, sch := t.sch, glu := t.glu, pnl := t.pnl }) ∧
  (∀ (s : State) (bay : Nat) (bus : Bus) (j : Job) (c x : Nat),
    s.synthOf bay = some j → j.demand = 0 → j.check = some (c, true, x) → x ≠ crc32c j.rows.flatten → j.again = true →
    j.caps = [] → s.glu.substituted.contains j.region = false → s.inCheck (s.checkAct c) j.region = true → bay < 64 → c < 256 →
    ∃ t, exec (.synthesisEnd bay bus) s = .next t ∧
      (t.job? j.id).map Job.safe = some true ∧
      (t.job? j.id).map Job.rows = some (j.rows.map fun _ => sameRow (3 * s.depth) (s.fld (R.GLU_SQC_SAFE_WORD_word c)) j.rowRays) ∧
      t.fld (R.GLU_SQC_CNT_count c 4) = satAdd 32 (s.fld (R.GLU_SQC_CNT_count c 4)) 1 ∧
      t.glu.substituted = s.glu.substituted ++ [j.region] ∧
      t.cmd.events = s.cmd.events ++ [⟨0x0591, c % 65536, (j.region + j.bay * 65536) % 2 ^ 32, s.now, none, none, none⟩] ∧
      OtherRegs s t [(bayStat bay 0).off, R.GLU_SQC_CNT c 4, R.GLU_SQC_CNT c 7, R.GLU_SQC_CTL c, R.GLU_SQC_LAST_EXPECT, R.GLU_SQC_LAST_GOT, R.GLU_SQC_LAST_WHERE] ∧
      t = { s with regs := t.regs, ledger := t.ledger, cmd := t.cmd, dmg := t.dmg, sch := t.sch, glu := t.glu, pnl := t.pnl }) ∧
  (∀ (s : State) (bus : Bus) (id : Nat) (c : Cmd),
    Startable s id .checkRegionDefine c → s.mayUseCheck c.client (c.p 8 1) = true → c.flag 9 0 = false →
    ∃ t, exec (.checkRegionDefine id bus) s = .next t ∧
      Store.get (fun _ => {}) t.glu.shadow (c.p 8 1) = { s.checkShadow (c.p 8 1) with enable := false } ∧
      t.glu.dirty = (if s.glu.dirty.contains (c.p 8 1) then s.glu.dirty else s.glu.dirty ++ [c.p 8 1]) ∧
      (∀ k, k ≠ c.p 8 1 → Store.get (fun _ => {}) t.glu.shadow k = Store.get (fun _ => {}) s.glu.shadow k) ∧
      t.cmd = (s.finishOne c).cmd ∧ t = { s with out := t.out, cmd := t.cmd, glu := t.glu }) ∧
  (∀ (s : State) (bus : Bus) (id : Nat) (c : Cmd) (k : Nat) (d : CheckDef),
    Startable s id .checkRegionDefine c → k = c.p 8 1 →
    d = ⟨true, c.pb 10 0 4, c.p 12 2, c.p 14 2, c.p 16 2, c.p 18 2, c.p 20 6⟩ → s.mayUseCheck c.client k = true →
    c.flag 9 0 = true →
    (∀ x, x < 256 → x ≠ k → ((s.checkShadow x).enable && (s.checkShadow x).overlaps d) = false ∧ ((s.checkAct x).enable && (s.checkAct x).overlaps d) = false) →
    d.gw ≠ 0 → d.gh ≠ 0 → d.gx0 + d.gw ≤ s.gx → d.gy0 + d.gh ≤ s.gy → s.fld R.GLU_SQC_TABLE_BASE_base ≠ 0 → s.gridOn = true →
    (s.checkShadow k).enable = false → (s.checkAct k).enable = false → (∀ r, r ∈ s.members d → s.regionBytes r ≤ 1048576) →
    ∃ t, exec (.checkRegionDefine id bus) s = .next t ∧
      Store.get (fun _ => {}) t.glu.shadow k = d ∧ (∀ i, i < 9 → t.fld (R.GLU_SQC_CNT_count k i) = 0) ∧
      t.fld (R.GLU_SQC_CTL_owned k) = 1 ∧
      (∀ key, (∀ r, r ∈ s.members d → s.touched (s.sigAddr 0 r) 8 key = false ∧ s.touched (s.sigAddr 1 r) 8 key = false) → t.phys key = s.phys key) ∧
      t.cmd.replies = (s.finishOne c).cmd.replies ∧
      OtherRegs s t (R.GLU_SQC_CTL k :: (List.range 9).map (R.GLU_SQC_CNT k) ++ dramCounts) ∧
      t = { s with regs := t.regs, ledger := t.ledger, dram := t.dram, cmd := t.cmd, glu := t.glu }) ∧
  (∀ (s : State) (bus : Bus) (id : Nat) (c : Cmd) (k : Nat),
    Startable s id .sqcSignatureLoad c → k = c.p 16 1 → s.mayUseCheck c.client k = true → (s.checkShadow k).enable = true →
    c.p 24 4 ≠ 0 → c.p 20 4 + c.p 24 4 ≤ (s.checkShadow k).gw * (s.checkShadow k).gh → s.isCopying 2 k = false →
    s.clampDue (s.checkShadow k).group = false → c.flag 17 0 = false → bus.bad = [] →
    ∃ t, exec (.sqcSignatureLoad id bus) s = .next t ∧
      t.dram = (((((s.members (s.checkShadow k)).drop (c.p 20 4)).take (c.p 24 4)).zip (List.range (c.p 24 4))).foldl (fun u e =>
      u.memWrite (s.sigAddr (1 - s.fld (R.GLU_SQC_CTL_copy k)) e.1)
        (leBytes 8 (leNat ((List.range 8).map fun i => busByte bus (c.p 8 8 + 8 * e.2 + i)) % 2 ^ 33))) s).dram ∧
      Store.get (fun _ => []) t.glu.loaded k = (Store.get (fun _ => []) s.glu.loaded k ++
      ((s.members (s.checkShadow k)).drop (c.p 20 4)).take (c.p 24 4)).eraseDups ∧
      t.cmd.replies = (s.finishAs c (List.replicate (c.p 24 4) ⟨stDone, 0, 0⟩)).cmd.replies ∧ OtherRegs s t dramCounts ∧
      t = { s with regs := t.regs, ledger := t.ledger, dram := t.dram, cmd := t.cmd, scn := t.scn, glu := t.glu }) ∧
  (∀ (s : State) (bus : Bus) (id : Nat) (c : Cmd),
    Startable s id .sqcCapture c → 0 < c.p 18 2 → c.p 18 2 ≤ 4096 → c.p 22 2 ≠ 0 → s.gridOn = true →
    c.p 16 2 + c.p 18 2 ≤ s.regionCount → s.glu.captures.length < 16 → s.deferFull c = false →
    ∃ t, exec (.sqcCapture id bus) s = .next t ∧
      t.cmd = (s.defer c (c.p 18 2)).cmd ∧
      t.glu.captures = s.glu.captures ++ [⟨id, c.p 16 2, (List.range (c.p 18 2)).map fun i => c.p 16 2 + i, c.p 22 2, c.p 8 8⟩] ∧
      (c.flag 20 0 = false → t = { s with cmd := t.cmd, glu := t.glu }) ∧
      t = { s with regs := t.regs, ledger := t.ledger, cmd := t.cmd, dmg := t.dmg, sch := t.sch, glu := t.glu }) ∧
  (∀ (s : State) (bus : Bus) (id : Nat) (k : Capture),
    s.glu.captures.find? (fun x => x.cmd == id && x.frames == 0) = some k →
    ∃ t, exec (.captureTimeout id bus) s = .next t ∧
      t.glu.captures = s.glu.captures.filter (fun x => x.cmd != id) ∧
      t = k.open_.foldl (fun u r => u.itemDone id (r - k.first) ⟨stLimit, 1, 0⟩) { s with glu := { s.glu with captures := t.glu.captures } } ∧
      t = { s with out := t.out, cmd := t.cmd, glu := t.glu })

/-- A dispatched CLAMP_ARM of a command-driven group not armed, with room for it, replies DEFERRED, keeps the time and shows the
group armed; of a group of another source it is refused with BAD_PARAM and reason 1. A dispatched FENCE_ARM of a fenced layer
that its client may use, not armed, with room for it, replies DEFERRED and keeps wait value, timeout and flip flag.
CLAMP_BOUNDARY, with a boundary of its segment there, takes each group of that segment that does not clamp with a wall: one
not due shows no hold and keeps its hold count and frame; one due and ready is put down to clamp at the boundary's time; one
due and not ready holds, its hold counts rise by 1 and the late layers and the copy are shown. A fence of the segment that has
reached its wait value is put down to flip and its arm ends. APPLICATION_POINT with one group, outside a wall, and no flip put
down shows the frame number that the boundary found and its time, clears its holds, counts the clamp, and makes the
configuration, sizes, position, plane and thickness of each of the group's layers 8 to 63, as the boundary found them, active;
layers 8 to 63 of other groups keep those active values, and nothing more is due. -/
def Obligations.ClampsAndFencesTakeEffectAtBoundaries : Prop :=
  (∀ (s : State) (bus : Bus) (id : Nat) (c : Cmd) (g : Nat),
    Startable s id .clampArm c → g = c.pb 16 0 4 → s.fld (R.CLP_GROUP_CFG_source g) = 0 →
    Store.get (fun _ => none) s.clp.arms g = none → s.deferFull c = false →
    ∃ t, exec (.clampArm id bus) s = .next t ∧
      t.cmd = (s.defer c 1).cmd ∧ Store.get (fun _ => none) t.clp.arms g = some (c.p 8 8, some id) ∧
      (∀ k, k ≠ g → Store.get (fun _ => none) t.clp.arms k = Store.get (fun _ => none) s.clp.arms k) ∧
      t.fld (R.CLP_GROUP_STATUS_armed g) = 1 ∧ OtherRegs s t [R.CLP_GROUP_STATUS g] ∧ t.clp = { s.clp with arms := t.clp.arms } ∧
      t = { s with regs := t.regs, cmd := t.cmd, clp := t.clp }) ∧
  (∀ (s : State) (bus : Bus) (id : Nat) (c : Cmd),
    Startable s id .clampArm c → s.fld (R.CLP_GROUP_CFG_source (c.pb 16 0 4)) ≠ 0 →
    ∃ t, exec (.clampArm id bus) s = .next t ∧
      t = s.refuse c stBadParam 1 ∧ t = { s with cmd := t.cmd }) ∧
  (∀ (s : State) (bus : Bus) (id : Nat) (c : Cmd) (k : Nat),
    Startable s id .fenceArm c → k = c.pb 14 0 3 → s.fenced k = true → s.mayUseLayer c.client k = true →
    Store.get (fun _ => none) s.clp.fences k = none → s.deferFull c = false →
    ∃ t, exec (.fenceArm id bus) s = .next t ∧
      t.cmd = (s.defer c 1).cmd ∧ t.fld (R.CLP_FENCE_WAIT_value k) = c.p 8 4 ∧ t.fld (R.CLP_FENCE_STATE_armed k) = 1 ∧
      t.fld (R.CLP_FENCE_STATE_frames_left k) = c.p 12 2 ∧ t.fld (R.CLP_FENCE_STATE_flip_anyway k) = c.pb 15 0 1 ∧
      Store.get (fun _ => none) t.clp.fences k = some ⟨id, c.p 12 2, 0⟩ ∧
      OtherRegs s t [R.CLP_FENCE_WAIT k, R.CLP_FENCE_STATE k] ∧ t.clp = { s.clp with fences := t.clp.fences } ∧
      t = { s with regs := t.regs, cmd := t.cmd, clp := t.clp }) ∧
  (∀ (s : State) (seg g at_ : Nat),
    Store.get (fun _ => none) s.clp.boundary seg = some at_ → g < 16 → s.segOrZero (s.fld (R.CLP_GROUP_CFG_seg g)) = seg →
    s.wallGroup g = false → s.due g at_ = false →
    ∃ t, exec (.clampBoundary seg) s = .next t ∧
      t.fld (R.CLP_GROUP_STATUS_holding g) = 0 ∧ t.fld (R.CLP_GROUP_STATUS_holds g) = s.fld (R.CLP_GROUP_STATUS_holds g) ∧
      (s.clp.due.groups.any (fun e => e.1 == g) = false → t.clp.due.groups.any (fun e => e.1 == g) = false) ∧
      Store.get (fun _ => none) t.clp.boundary seg = none ∧
      t.fld (R.CLP_GROUP_FRAME_frame g) = s.fld (R.CLP_GROUP_FRAME_frame g) ∧
      t = { s with regs := t.regs, ledger := t.ledger, cmd := t.cmd, clp := t.clp }) ∧
  (∀ (s : State) (seg g at_ : Nat),
    Store.get (fun _ => none) s.clp.boundary seg = some at_ → g < 16 → s.segOrZero (s.fld (R.CLP_GROUP_CFG_seg g)) = seg →
    s.due g at_ = true → s.wallGroup g = false → (s.late g).ready = true →
    ∃ t, exec (.clampBoundary seg) s = .next t ∧
      (g, at_) ∈ t.clp.due.groups ∧ t.fld (R.CLP_GROUP_STATUS_holds g) = s.fld (R.CLP_GROUP_STATUS_holds g) ∧
      t = { s with regs := t.regs, ledger := t.ledger, cmd := t.cmd, clp := t.clp }) ∧
  (∀ (s : State) (seg g at_ : Nat),
    Store.get (fun _ => none) s.clp.boundary seg = some at_ → g < 16 → s.segOrZero (s.fld (R.CLP_GROUP_CFG_seg g)) = seg →
    s.due g at_ = true → s.wallGroup g = false → (s.late g).ready = false →
    ∃ t, exec (.clampBoundary seg) s = .next t ∧
      t.fld (R.CLP_GROUP_STATUS_holding g) = 1 ∧
      t.fld (R.CLP_GROUP_STATUS_holds g) = satAdd (R.CLP_GROUP_STATUS_holds g).w (s.fld (R.CLP_GROUP_STATUS_holds g)) 1 ∧
      t.fld (R.CLP_GROUP_CNT_count g 1) = satAdd 32 (s.fld (R.CLP_GROUP_CNT_count g 1)) 1 ∧
      t.fld (R.CLP_GROUP_LATE_layers g) = (s.late g).layers ∧ t.fld (R.CLP_GROUP_STATUS_copy g) = bit (s.late g).copy ∧
      t = { s with regs := t.regs, ledger := t.ledger, cmd := t.cmd, clp := t.clp }) ∧
  (∀ (s : State) (seg k at_ : Nat) (a : Arm),
    Store.get (fun _ => none) s.clp.boundary seg = some at_ → k < 8 → s.segOrZero (s.fld (R.CLP_FENCE_CFG_seg k)) = seg →
    Store.get (fun _ => none) s.clp.fences k = some a → s.fenceReached k = true →
    ∃ t, exec (.clampBoundary seg) s = .next t ∧
      k ∈ t.clp.due.flips ∧ Store.get (fun _ => none) t.clp.fences k = none ∧ t.fld (R.CLP_FENCE_STATE_armed k) = 0 ∧
      t.fld (R.CLP_FENCE_STATE_frames_left k) = 0 ∧ t = { s with regs := t.regs, ledger := t.ledger, cmd := t.cmd, clp := t.clp }) ∧
  (∀ (s : State) (bus : Bus) (g at_ n : Nat),
    s.clp.due.groups = [(g, at_)] → s.clp.due.flips = [] → g < 16 → 8 ≤ n → n < 64 → s.actFld (R.SCN_LAYER_CFG_group n) = g →
    s.wallGroup g = false → s.inBounds = true →
    ∃ t, exec (.applicationPoint bus) s = .next t ∧
      t.clp.due = {} ∧ t.fld (R.CLP_GROUP_FRAME_frame g) = (s.snapOf g).frame % 2 ^ 32 ∧
      t.fld (R.CLP_GROUP_TIME_time g) = at_ % 2 ^ 64 ∧ t.fld (R.CLP_GROUP_STATUS_holds g) = 0 ∧
      t.fld (R.CLP_GROUP_STATUS_holding g) = 0 ∧
      t.fld (R.CLP_GROUP_CNT_count g 0) = satAdd 32 (s.fld (R.CLP_GROUP_CNT_count g 0)) 1 ∧
      t.act (R.SCN_LAYER_CFG n) = (s.snapOf g).reg (R.SCN_LAYER_CFG n) ∧
      t.act (R.SCN_LAYER_SRC n) = (s.snapOf g).reg (R.SCN_LAYER_SRC n) ∧
      t.act (R.SCN_LAYER_DST n) = (s.snapOf g).reg (R.SCN_LAYER_DST n) ∧
      t.act (R.SCN_LAYER_POS n) = (s.snapOf g).reg (R.SCN_LAYER_POS n) ∧
      t.act (R.SCN_LAYER_ZA n) = (s.snapOf g).reg (R.SCN_LAYER_ZA n) ∧
      t.act (R.SCN_LAYER_ZB n) = (s.snapOf g).reg (R.SCN_LAYER_ZB n) ∧
      t.act (R.SCN_LAYER_ZC n) = (s.snapOf g).reg (R.SCN_LAYER_ZC n) ∧
      t.act (R.SCN_LAYER_ZK n) = (s.snapOf g).reg (R.SCN_LAYER_ZK n) ∧
      t.fld (R.SCN_LAYER_STATUS_active n) = fieldGet ((s.snapOf g).reg (R.SCN_LAYER_CFG n)) (R.SCN_LAYER_CFG_enable n).lo (R.SCN_LAYER_CFG_enable n).w ∧
      t = { s with regs := t.regs, active := t.active, ledger := t.ledger, cmd := t.cmd, scn := t.scn, dmg := t.dmg, sch := t.sch, glu := t.glu, clp := t.clp, trs := t.trs, dec := t.dec, pnl := t.pnl }) ∧
  (∀ (s : State) (bus : Bus) (g at_ n : Nat),
    s.clp.due.groups = [(g, at_)] → s.clp.due.flips = [] → 8 ≤ n → n < 64 → s.actFld (R.SCN_LAYER_CFG_group n) ≠ g →
    ∃ t, exec (.applicationPoint bus) s = .next t ∧
      (∀ o, o ∈ [R.SCN_LAYER_CFG n, R.SCN_LAYER_SRC n, R.SCN_LAYER_DST n, R.SCN_LAYER_POS n, R.SCN_LAYER_ZA n, R.SCN_LAYER_ZB n, R.SCN_LAYER_ZC n, R.SCN_LAYER_ZK n] →
      t.act o = s.act o) ∧
      t.clp.due = {} ∧
      t = { s with regs := t.regs, active := t.active, ledger := t.ledger, cmd := t.cmd, scn := t.scn, dmg := t.dmg, sch := t.sch, glu := t.glu, clp := t.clp, trs := t.trs, dec := t.dec, pnl := t.pnl })

/-- With no grid change pending, the first qualifying group after the one served last takes the oldest-tagged entry of its
eligible class, where nothing of that node waits to be synthesised again, to the chosen bay: the region is FILLING and no
other changes, the node's tag clock takes the entry's tag, its selected bytes rise by the region's, and one job is added. A
credit tick leaves a node whose gate is closed as it was; with the gate open, no hold and a backlog, a node on the wire loses
the send slope's share and any other gains the idle slope's, within the limits. At the end of an accounting interval with
nothing on the wire each class's debt is brought forward and every node's open time and sent bytes are 0, its credit kept; a
piece that alone is on the wire adds the bytes of it sent since it was last counted, a number between what was counted and the
whole piece that no rule states (a free value, log entry 244), and keeps it as counted. A queued entry not yet marked and past
its class's delay bound is marked and counted, and posted once in its period. A histogram sample adds each node's depth and
keeps its credit. Registers other than the counts, debts and delays of the scheduler, and the domains, clocks and lanes that a
selection wakes, stay. -/
def Obligations.SchedulerSelectsAndKeepsCreditByClass : Prop :=
  (∀ (s : State) (q cl r bay p : Nat),
    s.dmg.pendGrid = none → ((List.range 16).map fun i => (s.sch.lastGroup + 1 + i) % 16).find? s.qualifies = some q →
    s.pickClass q = some cl → s.sch.again.find? (fun a => a.node == 16 * q + cl) = none → s.firstEntry (16 * q + cl) = some r →
    s.chooseBay (fun _ => true) = some (bay, p) → s.hst.held = [] →
    ∃ t, exec (.regionSelect) s = .next t ∧
      t.region r = { s.region r with state := 2 } ∧ (∀ k, k ≠ r → t.region k = s.region k) ∧
      t.sch.jobs = s.sch.jobs ++ [{
    id := s.sch.nextJob, region := r, node := 16 * q + cl, bay := bay, bytes := s.regionBytes r, left := s.regionBytes r }] ∧
      (t.node (16 * q + cl)).v = (s.region r).tag ∧
      (t.node (16 * q + cl)).selected = (s.node (16 * q + cl)).selected + s.regionBytes r ∧ t.sch.lastGroup = q ∧
      t.eng.lastBent = p ∧
      OtherRegs s t ([R.SCH_RQ_DELAY r, R.DMG_CNT 6, R.SCH_CLASS_CNT q cl 1] ++ (List.range 32).map R.PWC_DOMAIN ++ (List.range 32).map R.PWC_CLK ++
      (List.range 256).map R.LAN_STATUS) ∧
      t = { s with regs := t.regs, ledger := t.ledger, hst := t.hst, dmg := t.dmg, sch := t.sch, eng := t.eng }) ∧
  (∀ (s : State) (q c : Nat),
    q < 16 → c < 16 → s.gateOpen q c = false →
    ∃ t, exec (.classCreditTick) s = .next t ∧
      t.node (16 * q + c) = s.node (16 * q + c) ∧ t = { s with sch := t.sch }) ∧
  (∀ (s : State) (q c : Nat),
    q < 16 → c < 16 → s.gateOpen q c = true → s.fld (R.PNL_GROUP_STATUS_held q) = 0 →
    ((s.pg q).wire.any fun w => w.node == 16 * q + c) = true → s.backlogged (16 * q + c) = true →
    ∃ t, exec (.classCreditTick) s = .next t ∧
      t.node (16 * q + c) = ({ s.node (16 * q + c) with
    openTime := (s.node (16 * q + c)).openTime + 8, credit := (s.node (16 * q + c)).credit - perTick (s.slopes q c).2,
    s := (s.node (16 * q + c)).s + perTick (s.slopes q c).2 } : Node).bound (s.limits q c).1 (s.limits q c).2 ∧
      t = { s with sch := t.sch }) ∧
  (∀ (s : State) (q c : Nat),
    q < 16 → c < 16 → s.gateOpen q c = true → s.fld (R.PNL_GROUP_STATUS_held q) = 0 →
    ((s.pg q).wire.any fun w => w.node == 16 * q + c) = false → s.backlogged (16 * q + c) = true →
    ∃ t, exec (.classCreditTick) s = .next t ∧
      t.node (16 * q + c) = ({ s.node (16 * q + c) with
    openTime := (s.node (16 * q + c)).openTime + 8, credit := (s.node (16 * q + c)).credit + perTick (s.slopes q c).1,
    e := (s.node (16 * q + c)).e + perTick (s.slopes q c).1 } : Node).bound (s.limits q c).1 (s.limits q c).2 ∧
      t = { s with sch := t.sch }) ∧
  (∀ (s : State) (c q : Nat),
    c < 16 → q < 16 → (∀ k, k < 16 → (s.pg k).wire = none) →
    ∃ t, exec (.accountingIntervalEnd) s = .next t ∧
      t.fld (R.SCH_CLASS_DEBT_bytes c) = (s.debtAfter c).1 % 2 ^ (R.SCH_CLASS_DEBT_bytes c).w ∧
      (t.node (16 * q + c)).openTime = 0 ∧ (t.node (16 * q + c)).sent = 0 ∧
      (t.node (16 * q + c)).credit = (s.node (16 * q + c)).credit ∧ OtherRegs s t ((List.range 16).map R.SCH_CLASS_DEBT) ∧
      t = { s with regs := t.regs, cmd := t.cmd, sch := t.sch, pnl := t.pnl }) ∧
  (∀ (s : State) (q n : Nat) (w : Wire),
    q < 16 → (s.pg q).wire = some w → w.node = 16 * q + n → n < 16 → w.counted ≤ w.bytes w.rows →
    (∀ k, k < 16 → k ≠ q → (s.pg k).wire = none) →
    ∃ t, exec (.accountingIntervalEnd) s = .next t ∧
      t.fld (R.SCH_CLASS_DEBT_bytes n) = ((s.setNode w.node { s.node w.node with
      sent := (s.node w.node).sent + (s.sentNow w - w.counted) }).debtAfter n).1 % 2 ^ (R.SCH_CLASS_DEBT_bytes n).w ∧
      w.counted ≤ s.sentNow w ∧ s.sentNow w ≤ w.bytes w.rows ∧ (t.pg q).wire = some { w with counted := s.sentNow w } ∧
      t.free = s.free + 1 ∧ (t.node w.node).sent = 0 ∧ OtherRegs s t ((List.range 16).map R.SCH_CLASS_DEBT) ∧
      t = { s with free := t.free, regs := t.regs, cmd := t.cmd, sch := t.sch, pnl := t.pnl }) ∧
  (∀ (s : State) (r : Nat),
    (s.region r).state = 1 → (s.region r).late = false → s.fld (R.SCH_CLASS_GUAR_max_delay ((s.region r).node % 16)) ≠ 0 →
    s.fld (R.SCH_CLASS_GUAR_max_delay ((s.region r).node % 16)) * 10000 < s.ptp.f - (s.region r).since → (s.region r).node < 256 →
    ∃ t, exec (.delayBreach r) s = .next t ∧
      t.region r = { s.region r with late := true } ∧
      t.fld (R.SCH_CLASS_CNT_count ((s.region r).node / 16) ((s.region r).node % 16) 5) =
      satAdd 32 (s.fld (R.SCH_CLASS_CNT_count ((s.region r).node / 16) ((s.region r).node % 16) 5)) 1 ∧
      (Store.get (fun _ => 0) s.sch.breaches (2 * ((s.region r).node % 16) + 1) = 0 → t.cmd.events = s.cmd.events ++
      [⟨0x0701, (s.region r).node % 16, (2 ^ ((s.region r).node / 16) + 2 * 65536) % 2 ^ 32, s.now, none, none, none⟩]) ∧
      OtherRegs s t [R.SCH_CLASS_CNT ((s.region r).node / 16) ((s.region r).node % 16) 5] ∧
      t = { s with regs := t.regs, ledger := t.ledger, cmd := t.cmd, dmg := t.dmg, sch := t.sch }) ∧
  (∀ (s : State) (k : Nat),
    k < 256 →
    ∃ t, exec (.histogramSample) s = .next t ∧
      (t.node k).depthHist = histAdd (s.node k).depthHist (s.entriesOf k).length ∧
      (s.entriesOf k = [] → (t.node k).delayHist = (s.node k).delayHist) ∧ (t.node k).credit = (s.node k).credit ∧
      t = { s with regs := t.regs, sch := t.sch })

/-- A dispatched CLASS_SET writes slopes and limits of its class in every group of its mask and brings its credit within the
limits. GUARANTEE_SET writes precedence, rate and delay bound where class 0 keeps the highest precedence. REGION_MAP_SET of a
block within the grid, with a weight that is not 0, writes class, group, pin and weight of each region of its block, but
fails, with reason 2, those whose segment the group of a pin does not serve, which keep theirs, and changes no other region's.
GATE_LIST_SET of a list of 1 to 64 good entries that the bus delivers, anchored to PTP, with a cycle of 1 us to 1 s, whose
start has not passed, with room and with no list waiting in any group, pends it in every group of its mask and replies
DEFERRED with an item for each. A pending list of 1 to 64 entries becomes active at GATE_LIST_START, its entries, number and
cycle shown. SCHED_STATS_READ, to a bus that takes every byte, writes 128 bytes for each node of its groups; with the clear
flag it then clears their histograms and keeps their credit. Registers not named, and but the counts of planning, stay. -/
def Obligations.SchedulerCommandsWriteClassesGuaranteesMapsAndGates : Prop :=
  (∀ (s : State) (bus : Bus) (id : Nat) (c : Cmd) (q : Nat),
    Startable s id .classSet c → q < 16 → (c.p 8 2).testBit q = true →
    ∃ t, exec (.classSet id bus) s = .next t ∧
      t.fld (R.SCH_CLASS_SLOPE_idle_slope q (c.pb 10 0 4)) = c.p 12 2 ∧
      t.fld (R.SCH_CLASS_SLOPE_send_slope q (c.pb 10 0 4)) = c.p 14 2 ∧
      t.fld (R.SCH_CLASS_LIMIT_hicredit q (c.pb 10 0 4)) = c.p 16 2 ∧
      t.fld (R.SCH_CLASS_LIMIT_locredit q (c.pb 10 0 4)) = c.p 18 2 ∧
      (t.node (16 * q + c.pb 10 0 4)).credit = clampInt (-((c.p 18 2 * 256 * 65536 : Nat) : Int)) ((c.p 16 2 * 256 * 65536 : Nat) : Int) (s.node (16 * q + c.pb 10 0 4)).credit ∧
      t.cmd.replies = (s.finishAs c ((setBits 16 (c.p 8 2)).map fun _ => ⟨stDone, 0, 0⟩)).cmd.replies ∧
      OtherRegs s t ((List.range 16).flatMap fun g => [R.SCH_CLASS_SLOPE g (c.pb 10 0 4), R.SCH_CLASS_LIMIT g (c.pb 10 0 4), R.SCH_GROUP_CNT g 2]) ∧
      t = { s with regs := t.regs, cmd := t.cmd, sch := t.sch }) ∧
  (∀ (s : State) (bus : Bus) (id : Nat) (c : Cmd),
    Startable s id .guaranteeSet c → (c.pb 8 0 4 = 0 → ∀ i, i < 15 → s.prec (i + 1) ≤ c.pb 9 0 4) →
    (c.pb 8 0 4 ≠ 0 → c.pb 9 0 4 ≤ s.prec 0) →
    ∃ t, exec (.guaranteeSet id bus) s = .next t ∧
      t.prec (c.pb 8 0 4) = c.pb 9 0 4 ∧ t.fld (R.SCH_CLASS_GUAR_min_rate (c.pb 8 0 4)) = c.p 10 2 ∧
      t.fld (R.SCH_CLASS_GUAR_max_delay (c.pb 8 0 4)) = c.p 12 2 ∧ t.cmd.replies = (s.finishOne c).cmd.replies ∧
      OtherRegs s t (R.SCH_CLASS_PREC (c.pb 8 0 4) :: R.SCH_CLASS_GUAR (c.pb 8 0 4) :: (List.range 16).map fun g => R.SCH_GROUP_CNT g 2) ∧
      t = { s with regs := t.regs, cmd := t.cmd, dmg := t.dmg, sch := t.sch }) ∧
  (∀ (s : State) (bus : Bus) (id : Nat) (c : Cmd) (r : Nat),
    Startable s id .regionMapSet c → s.gridOn = true → c.p 16 2 ≠ 0 → c.p 18 2 ≠ 0 → c.p 12 2 + c.p 16 2 ≤ s.gx →
    c.p 14 2 + c.p 18 2 ≤ s.gy → c.p 22 1 ≠ 0 →
    r ∈ s.regionBlock (c.p 12 2) (c.p 12 2 + c.p 16 2) (c.p 14 2) (c.p 14 2 + c.p 18 2) →
    (c.flag 21 0 = true → s.servesSeg (c.pb 20 4 4) (s.segOfRegion r) = true) →
    ∃ t, exec (.regionMapSet id bus) s = .next t ∧
      t.fld (R.SCH_REGION_MAP_class r) = c.pb 20 0 4 ∧ t.fld (R.SCH_REGION_MAP_group r) = c.pb 20 4 4 ∧
      t.fld (R.SCH_REGION_MAP_pin r) = bit (c.flag 21 0) ∧ t.fld (R.SCH_REGION_MAP_weight r) = c.p 22 1 ∧
      t.cmd = (s.finishAs c ((s.regionBlock (c.p 12 2) (c.p 12 2 + c.p 16 2) (c.p 14 2) (c.p 14 2 + c.p 18 2)).map fun x =>
      if !(c.flag 21 0) || s.servesSeg (c.pb 20 4 4) (s.segOfRegion x) then ⟨stDone, 0, 0⟩ else ⟨stBadParam, 2, 0⟩)).cmd ∧
      OtherRegs s t ((s.regionBlock (c.p 12 2) (c.p 12 2 + c.p 16 2) (c.p 14 2) (c.p 14 2 + c.p 18 2)).map R.SCH_REGION_MAP) ∧
      t = { s with out := t.out, regs := t.regs, cmd := t.cmd }) ∧
  (∀ (s : State) (bus : Bus) (id : Nat) (c : Cmd) (q : Nat),
    Startable s id .gateListSet c → q < 16 → (c.p 28 2).testBit q = true → c.flag 31 1 = false → 0 < c.pb 30 0 7 →
    c.pb 30 0 7 ≤ 64 → 1000 ≤ c.p 24 4 → c.p 24 4 ≤ 1000000000 → bus.bad = [] →
    (∀ i, i < c.pb 30 0 7 → 100 ≤ bitsOf (leNat ((List.range 8).map fun j => busByte bus (c.p 8 8 + 8 * i + j))) 16 32 ∧ bitsOf (leNat ((List.range 8).map fun j => busByte bus (c.p 8 8 + 8 * i + j))) 48 16 = 0) →
    s.now ≤ c.p 16 8 → s.deferFull c = false → (∀ g, (s.gates g).waiting = none) →
    ∃ t, exec (.gateListSet id bus) s = .next t ∧
      (t.gates q).waiting = some ⟨(List.range (c.pb 30 0 7)).map (fun i =>
      (bitsOf (leNat ((List.range 8).map fun j => busByte bus (c.p 8 8 + 8 * i + j))) 0 16,
       bitsOf (leNat ((List.range 8).map fun j => busByte bus (c.p 8 8 + 8 * i + j))) 16 32)), c.p 16 8, c.p 24 4, c.pb 31 0 1, id⟩ ∧
      (t.gates q).waitStart = c.p 16 8 ∧ (t.gates q).active = (s.gates q).active ∧
      (∀ g, (c.p 28 2).testBit g = false → t.gates g = s.gates g) ∧ t.cmd = (s.defer c (popCount 16 (c.p 28 2))).cmd ∧
      t = { s with cmd := t.cmd, sch := t.sch }) ∧
  (∀ (s : State) (q : Nat) (l : GateList),
    (s.gates q).waiting = some l → l.entries ≠ [] → l.entries.length ≤ 64 → q < 16 →
    ∃ t, exec (.gateListStart q) s = .next t ∧
      t.gates q = {
    active := some l, waiting := none, waitStart := 0,
    start := (if l.anchor = 0 then (s.gates q).waitStart else s.fld (R.PNL_SEG_TE_TIME_time (s.segOfGroup q))) } ∧
      (∀ g, g ≠ q → t.gates g = s.gates g) ∧ t.fld (R.SCH_GATE_STATUS_present q) = 1 ∧
      t.fld (R.SCH_GATE_STATUS_entries q) = l.entries.length % 64 ∧
      t.fld (R.SCH_GATE_CYCLE_ns q) = l.cycle % 2 ^ (R.SCH_GATE_CYCLE_ns q).w ∧
      (∀ e, e < 64 → t.reg (R.SCH_GATE_ACTIVE q e) = BitVec.ofNat 64 ((l.entries.getD e (0, 0)).1 + (l.entries.getD e (0, 0)).2 * 65536)) ∧
      OtherRegs s t ((List.range 64).map (R.SCH_GATE_ACTIVE q) ++ [R.SCH_GATE_CYCLE q, R.SCH_GATE_STATUS q, R.SCH_GROUP_CNT q 2]) ∧
      t = { s with regs := t.regs, cmd := t.cmd, sch := t.sch }) ∧
  (∀ (s : State) (bus : Bus) (id : Nat) (c : Cmd),
    Startable s id .schedStatsRead c → c.flag 18 0 = false → c.flag 18 1 = false → bus.bad = [] → c.itemList = false →
    (∀ k, (s.node k).depthHist.length = 16 ∧ (s.node k).delayHist.length = 16) →
    ∃ t, exec (.schedStatsRead id bus) s = .next t ∧
      t.out = ((List.range (16 * popCount 16 (c.p 16 2))).map fun i =>
      Output.hostWrite c.client (c.p 8 8 + 128 * i)
        (histBytes (s.node (16 * ((setBits 16 (c.p 16 2)).getD (i / 16) 0) + i % 16)).depthHist ++
         histBytes (s.node (16 * ((setBits 16 (c.p 16 2)).getD (i / 16) 0) + i % 16)).delayHist)).reverse ++ s.out ∧
      t.cmd = (s.finishAs c (List.replicate (16 * popCount 16 (c.p 16 2)) ⟨stDone, 0, 0⟩)).cmd ∧
      t = { s with out := t.out, cmd := t.cmd }) ∧
  (∀ (s : State) (bus : Bus) (id : Nat) (c : Cmd) (k : Nat),
    Startable s id .schedStatsRead c → c.flag 18 0 = false → bus.bad = [] → c.flag 18 1 = true → k < 256 →
    (c.p 16 2).testBit (k / 16) = true →
    ∃ t, exec (.schedStatsRead id bus) s = .next t ∧
      (t.node k).depthHist = List.replicate 16 0 ∧ (t.node k).delayHist = List.replicate 16 0 ∧
      (t.node k).credit = (s.node k).credit ∧
      t = { s with out := t.out, regs := t.regs, ledger := t.ledger, dram := t.dram, cmd := t.cmd, sch := t.sch })

/-- In a lane group in service that sends nothing and is not held, the next burst, whose first row the credits cover, starts: its
header is sent under the group's sequence number, one credit is taken, the piece is on the wire and kept among the last 512. A
stripe of the coder goes out masked, masked codewords counted, or, where a data word has no mask, pauses the group's data for
that stripe, counted. Without the credits the group shows a stall, counted once. At the end of a piece whose rows are made and
covered by credits, its rows and trailer are sent, the further credits taken and the wire is free; the last piece of a region
ends its job and makes a SENDING region CLEAN. A gate close after some rows of a piece, where they are made and covered, sends
them with the split trailer and CUT, counts the split and leaves a continuation. An underrun completes its row, sends CUT and
puts a SENDING region back in its queue, counted. None of these happens in a group that is held, and other groups and other
regions keep their records. -/
def Obligations.RegionBurstsStartEndSplitAndUnderrunOnTheWire : Prop :=
  (∀ (s : State) (q : Nat) (j : Job) (stripes : List Stripe),
    q < 16 → s.groupIn q = true → (s.pg q).wire = none → s.fld (R.PNL_GROUP_STATUS_held q) = 0 → s.nextBurst q = some j →
    j.node / 16 = q → ceilDiv (40 + j.rowBytes) 4096 ≤ (s.pg q).available →
    ∃ t, exec (.burstStart ⟨q, stripes⟩) s = .next t ∧
      (stripes = [] → t.out = .stream q (s.burstHeader j j.sent j.pieceRows (s.pg q).seq) :: s.out) ∧
      (t.pg q).wire = some ⟨j.id, j.region, j.node, j.sent, j.pieceRows, j.rowBytes, (s.pg q).seq, j.sent != 0, 1, 0⟩ ∧
      (t.pg q).pieces.map Piece.seq = ((s.pg q).pieces.map Piece.seq ++ [(s.pg q).seq]).drop ((s.pg q).pieces.length + 1 - 512) ∧
      (t.pg q).seq = ((s.pg q).seq + 1) % 2 ^ 32 ∧ (t.pg q).u = (s.pg q).u + 1 ∧ t.fld (R.PNL_GROUP_STATUS_bursting q) = 1 ∧
      t.fld (R.PNL_GROUP_STATUS_stalled q) = 0 ∧ (t.job? j.id).map Job.started = some true ∧ (∀ k, k ≠ q → t.pg k = s.pg k) ∧
      OtherRegs s t [R.PNL_GROUP_STATUS q, R.PNL_GROUP_CREDIT q, R.PNL_GROUP_CNT q 0, R.PNL_GROUP_CNT q 1, R.PNL_GROUP_CNT q 7, R.PNL_GROUP_CNT q 8, R.SCH_GROUP_CNT q 0] ∧
      t = { s with out := t.out, regs := t.regs, ledger := t.ledger, sch := t.sch, pnl := t.pnl }) ∧
  (∀ (s : State) (q : Nat) (j : Job) (stripes : List Stripe),
    s.groupIn q = true → (s.pg q).wire = none → s.fld (R.PNL_GROUP_STATUS_held q) = 0 → s.nextBurst q = some j →
    (s.pg q).available < ceilDiv (40 + j.rowBytes) 4096 → s.fld (R.PNL_GROUP_STATUS_stalled q) = 0 → q < 16 →
    ∃ t, exec (.burstStart ⟨q, stripes⟩) s = .next t ∧
      t.fld (R.PNL_GROUP_STATUS_stalled q) = 1 ∧
      t.fld (R.PNL_GROUP_CNT_count q 6) = satAdd 32 (s.fld (R.PNL_GROUP_CNT_count q 6)) 1 ∧
      OtherRegs s t [R.PNL_GROUP_STATUS q, R.PNL_GROUP_CNT q 6] ∧ t = { s with regs := t.regs }) ∧
  (∀ (s : State) (q : Nat) (j : Job) (st : Stripe),
    q < 16 → s.groupIn q = true → (s.pg q).wire = none → s.fld (R.PNL_GROUP_STATUS_held q) = 0 → s.nextBurst q = some j →
    j.node / 16 = q → ceilDiv (40 + j.rowBytes) 4096 ≤ (s.pg q).available →
    ∃ t, exec (.burstStart ⟨q, [st]⟩) s = .next t ∧
      ((∀ w, w ∈ st.words → (maskWord w.1 w.2 st.block).isSome = true) → t.out.head? = some (.stripe q (st.words.filterMap fun w => maskWord w.1 w.2 st.block) false) ∧
      t.fld (R.PNL_GROUP_CNT_count q 8) = min (2 ^ 32 - 1) (s.fld (R.PNL_GROUP_CNT_count q 8) + ((st.words.filterMap fun w => maskWord w.1 w.2 st.block).filter Prod.snd).length)) ∧
      (st.data = true → (∃ w, w ∈ st.words ∧ maskWord w.1 w.2 st.block = none) → t.out.head? = some (.stripe q [] true) ∧
      t.fld (R.PNL_GROUP_CNT_count q 7) = satAdd 32 (s.fld (R.PNL_GROUP_CNT_count q 7)) 1) ∧
      OtherRegs s t [R.PNL_GROUP_STATUS q, R.PNL_GROUP_CREDIT q, R.PNL_GROUP_CNT q 0, R.PNL_GROUP_CNT q 1, R.PNL_GROUP_CNT q 7, R.PNL_GROUP_CNT q 8, R.SCH_GROUP_CNT q 0] ∧
      t = { s with out := t.out, regs := t.regs, ledger := t.ledger, sch := t.sch, pnl := t.pnl }) ∧
  (∀ (s : State) (q : Nat) (w : Wire) (j : Job),
    q < 16 → (s.pg q).wire = some w → s.job? w.job = some j → s.fld (R.PNL_GROUP_STATUS_held q) = 0 →
    (w.first + w.rows) * j.rowRays ≤ j.ready → s.coversPiece q w w.rows = true → w.first + w.rows ≠ j.rows.length →
    j.cut = false →
    ∃ t, exec (.burstEnd q) s = .next t ∧
      t.out = .stream q (closePiece ((j.rows.drop w.first).take w.rows).flatten 0xFFFF false false false) :: s.out ∧
      (t.pg q).wire = none ∧ (t.pg q).u = (s.pg q).u + (creditsOf (w.bytes w.rows) - w.credits) ∧
      (t.job? j.id).map Job.sent = some (j.sent + w.rows) ∧ t.fld (R.PNL_GROUP_STATUS_bursting q) = 0 ∧
      (∀ k, k ≠ q → t.pg k = s.pg k) ∧ OtherRegs s t [R.PNL_GROUP_STATUS q, R.PNL_GROUP_CREDIT q] ∧
      t = { s with out := t.out, regs := t.regs, ledger := t.ledger, sch := t.sch, pnl := t.pnl }) ∧
  (∀ (s : State) (q : Nat) (w : Wire) (j : Job),
    (s.pg q).wire = some w → s.job? w.job = some j → s.fld (R.PNL_GROUP_STATUS_held q) = 0 →
    (w.first + w.rows) * j.rowRays ≤ j.ready → s.coversPiece q w w.rows = true → w.first + w.rows = j.rows.length →
    (s.region j.region).state = 3 →
    ∃ t, exec (.burstEnd q) s = .next t ∧
      t.out = .stream q (closePiece ((j.rows.drop w.first).take w.rows).flatten 0xFFFF false false false) :: s.out ∧
      (t.pg q).wire = none ∧ t.job? j.id = none ∧ t.region j.region = { s.region j.region with state := 0 } ∧
      (∀ r, r ≠ j.region → t.region r = s.region r) ∧
      t = { s with out := t.out, regs := t.regs, ledger := t.ledger, dmg := t.dmg, sch := t.sch, pnl := t.pnl }) ∧
  (∀ (s : State) (q rows : Nat) (w : Wire) (j : Job),
    q < 16 → (s.pg q).wire = some w → s.job? w.job = some j → s.fld (R.PNL_GROUP_STATUS_held q) = 0 →
    s.gateOpen q (w.node % 16) = false → 0 < rows → rows < w.rows → (w.first + rows) * j.rowRays ≤ j.ready →
    s.coversPiece q w rows = true → j.node / 16 = q → j.started = true → j.asked = false →
    ∃ t, exec (.gateCloseSplit q rows) s = .next t ∧
      t.out = .forward q (linkMessage 0x85 q (leBytes 4 w.seq ++ leBytes 2 (w.first + rows - 1))) ::
      .stream q (closePiece ((j.rows.drop w.first).take rows).flatten (w.first + rows - 1) true false false) :: s.out ∧
      (t.pg q).wire = none ∧ (t.pg q).conts = (s.pg q).conts ++ [j.id] ∧ (t.pg q).requests = (s.pg q).requests ++ [j.id] ∧
      (t.job? j.id).map Job.sent = some (j.sent + rows) ∧
      t.fld (R.SCH_GROUP_CNT_count q 1) = satAdd 32 (s.fld (R.SCH_GROUP_CNT_count q 1)) 1 ∧
      OtherRegs s t [R.PNL_GROUP_STATUS q, R.PNL_GROUP_CREDIT q, R.SCH_GROUP_CNT q 1] ∧
      t = { s with out := t.out, regs := t.regs, ledger := t.ledger, sch := t.sch, pnl := t.pnl }) ∧
  (∀ (s : State) (q row : Nat) (w : Wire) (j : Job),
    q < 16 → (s.pg q).wire = some w → s.job? w.job = some j → s.fld (R.PNL_GROUP_STATUS_held q) = 0 → w.first ≤ row →
    row < w.first + w.rows → s.inBounds = true → row * j.rowRays ≤ j.ready → j.ready < (row + 1) * j.rowRays →
    s.coversPiece q w (row + 1 - w.first) = true → (s.region j.region).state = 3 →
    ∃ t, exec (.underrun q row) s = .next t ∧
      t.out = .forward q (linkMessage 0x85 q (leBytes 4 w.seq ++ leBytes 2 row)) ::
      .stream q (closePiece (s.cutRows j w row (j.ready - row * j.rowRays)) row false true false) :: s.out ∧
      (t.pg q).wire = none ∧ (t.region j.region).state = 1 ∧ (∀ r, r ≠ j.region → t.region r = s.region r) ∧
      t.fld (R.PNL_GROUP_CNT_count q 2) = satAdd 32 (s.fld (R.PNL_GROUP_CNT_count q 2)) 1 ∧
      t = { s with out := t.out, regs := t.regs, ledger := t.ledger, cmd := t.cmd, dmg := t.dmg, sch := t.sch, pnl := t.pnl })

/-- An edge of the configured sense on the pin of a segment that takes its TE from the pin, at least half a frame period after the
last and with no message kept, is accepted: the TE time is the present, the frame count rises by 1, pin edges are counted and
a boundary of the segment comes, and free run ends. An edge sooner is only counted as a glitch. A TE message not seen before,
of a segment that takes its TE from messages, is accepted for its time less the latency: its frame count is shown, counted,
and a boundary comes for that time; one already seen changes nothing; one that comes before the first edge of a segment that
takes its TE from the pin is kept for that edge and changes no register. A ROW report not seen before shows its row. Free run
starts with its event and is shown in the groups of its segment; each of its boundaries then raises the frame count by 1 and
is a boundary of the segment at the present. -/
def Obligations.TeEdgesRowsAndFreeRunDriveTheSegments : Prop :=
  (∀ (s : State) (g : Nat) (rising : Bool),
    g < 4 → s.hasSeg g = true → bit (!rising) = s.fld (R.PNL_TE_CFG_edge g) →
    (s.seg g).lastTe.all (fun f => decide (s.framePeriod ≤ 2 * (s.ptp.f - f))) = true → (s.seg g).early = none →
    (s.setSeg g { s.seg g with lastPin := some s.ptp.f }).teFromPin g = true →
    ∃ t, exec (.tePinEdge g rising) s = .next t ∧
      t.fld (R.PNL_SEG_TE_TIME_time g) = s.now ∧
      t.fld (R.PNL_SEG_FRAME_frame g) = (s.fld (R.PNL_SEG_FRAME_frame g) + 1) % 2 ^ 32 ∧
      t.fld (R.PNL_SEG_TE_CNT_count g 0) = satAdd 32 (s.fld (R.PNL_SEG_TE_CNT_count g 0)) 1 ∧
      Store.get (fun _ => none) t.clp.boundary g = some s.now ∧ (t.seg g).lastTe = some s.ptp.f ∧ (t.seg g).freeRun = false ∧
      t = { s with out := t.out, regs := t.regs, active := t.active, cmd := t.cmd, sch := t.sch, glu := t.glu, clp := t.clp, pnl := t.pnl, wvl := t.wvl }) ∧
  (∀ (s : State) (g : Nat) (rising : Bool) (f : Nat),
    s.hasSeg g = true → bit (!rising) = s.fld (R.PNL_TE_CFG_edge g) → (s.seg g).lastTe = some f →
    2 * (s.ptp.f - f) < s.framePeriod →
    ∃ t, exec (.tePinEdge g rising) s = .next t ∧
      t.fld (R.PNL_SEG_TE_CNT_count g 2) = satAdd 32 (s.fld (R.PNL_SEG_TE_CNT_count g 2)) 1 ∧
      OtherRegs s t [R.PNL_SEG_TE_CNT g 2] ∧ t = { s with regs := t.regs }) ∧
  (∀ (s : State) (g frame : Nat),
    g < 4 → s.hasSeg g = true → (s.seg g).teSeen.contains (frame % 2 ^ 32) = false → (s.seg g).byPin = false →
    s.teFromPin g = false →
    ∃ t, exec (.backchannelTe g frame) s = .next t ∧
      t.fld (R.PNL_SEG_TE_TIME_time g) = s.now - s.pnl.teLatency ∧ t.fld (R.PNL_SEG_FRAME_frame g) = frame % 2 ^ 32 ∧
      t.fld (R.PNL_SEG_TE_CNT_count g 1) = satAdd 32 (s.fld (R.PNL_SEG_TE_CNT_count g 1)) 1 ∧
      Store.get (fun _ => none) t.clp.boundary g = some (s.now - s.pnl.teLatency) ∧
      (t.seg g).teSeen = (frame % 2 ^ 32 :: (s.seg g).teSeen).take 256 ∧ (t.seg g).lastTe = some (s.ptp.f - s.pnl.teLatency) ∧
      t = { s with out := t.out, regs := t.regs, active := t.active, cmd := t.cmd, sch := t.sch, glu := t.glu, clp := t.clp, pnl := t.pnl, wvl := t.wvl }) ∧
  (∀ (s : State) (g frame : Nat),
    s.hasSeg g = true → ((s.seg g).teSeen.contains (frame % 2 ^ 32) = true) →
    ∃ t, exec (.backchannelTe g frame) s = .next t ∧
      t = s ∧ t = s) ∧
  (∀ (s : State) (g frame : Nat),
    g < 4 → s.hasSeg g = true → (s.seg g).teSeen.contains (frame % 2 ^ 32) = false → (s.seg g).lastTe = none →
    s.teFromPin g = true →
    ∃ t, exec (.backchannelTe g frame) s = .next t ∧
      (t.seg g).early = some (s.ptp.f, frame % 2 ^ 32) ∧ (t.seg g).lastTe = none ∧ t.regs = s.regs ∧
      t = { s with out := t.out, regs := t.regs, active := t.active, cmd := t.cmd, sch := t.sch, glu := t.glu, clp := t.clp, pnl := t.pnl, wvl := t.wvl }) ∧
  (∀ (s : State) (g row frame : Nat),
    g < 4 → s.hasSeg g = true → (s.seg g).rowsSeen.contains (frame, row) = false →
    ∃ t, exec (.backchannelRow g row frame) s = .next t ∧
      t.fld (R.PNL_SEG_ROW_row g) = row % 65536 ∧ t.fld (R.PNL_SEG_ROW_present g) = 1 ∧
      (t.seg g).rowsSeen = ((frame, row) :: (s.seg g).rowsSeen).take 256 ∧ OtherRegs s t [R.PNL_SEG_ROW g] ∧
      t = { s with out := t.out, regs := t.regs, active := t.active, pnl := t.pnl }) ∧
  (∀ (s : State) (g : Nat),
    (s.hasSeg g = true ∨ g = 0) → (s.seg g).freeRun = false →
    ∃ t, exec (.freeRunEntry g) s = .next t ∧
      (t.seg g).freeRun = true ∧
      t.cmd.events = s.cmd.events ++ [⟨0x05A3, g % 65536, (if s.geomValid then 2 else 1), s.now, none, none, none⟩] ∧
      (∀ k, k < 16 → s.segOrZero (s.fld (R.CLP_GROUP_CFG_seg k)) = g → t.fld (R.CLP_GROUP_STATUS_free_run k) = 1) ∧
      OtherRegs s t ((List.range 16).map R.CLP_GROUP_STATUS) ∧ t = { s with regs := t.regs, cmd := t.cmd, pnl := t.pnl }) ∧
  (∀ (s : State) (g : Nat),
    (s.seg g).freeRun = true →
    ∃ t, exec (.freeRunBoundary g) s = .next t ∧
      t.fld (R.PNL_SEG_FRAME_frame g) = (s.fld (R.PNL_SEG_FRAME_frame g) + 1) % 2 ^ 32 ∧
      Store.get (fun _ => none) t.clp.boundary g = some s.now ∧ OtherRegs s t [R.PNL_SEG_FRAME g] ∧
      t = { s with regs := t.regs, glu := t.glu, clp := t.clp })

/-- A message in error is counted and posted, at most once in its period, and its codeword violations are counted; violations
outside a message are counted alone. With the link ACTIVE, a CREDIT of a group with nothing on the wire, within what is
outstanding, returns that many credits and shows what is available; the baseline that answers a RESTART ends the wait and the
hold. STATUS with every lane lit counts the worst lane's corrected words; a lane not lit is left out of a lane map that is
sent with the count of its block. A NAK of a piece kept and not stale marks its region, is counted, and is posted at most once
in its period. A TRAIN message without done or preset, of a lane that trains, moves its taps and answers TAP_STATUS. With the
link ACTIVE and the back-channel up a HOLD holds the group; a RELEASE lets it go on and counts the microseconds; at the hold's
limit PNL_HOLD_LONG is posted with them, once. Loss of lock takes the group out of service; lock found again, with the link
ACTIVE and no credit missing, sends RESTART. Other groups keep their credits. -/
def Obligations.BackChannelMessagesCreditHoldAndReportFaults : Prop :=
  (∀ (s : State) (q code violations : Nat),
    q < 16 → code ≠ 0 →
    ∃ t, exec (.protocolError q code violations) s = .next t ∧
      t.fld (R.PNL_GROUP_CNT_count q 11) = satAdd 32 (s.fld (R.PNL_GROUP_CNT_count q 11)) 1 ∧
      t.fld (R.LAN_BC_STATUS_violations q) = satAdd (R.LAN_BC_STATUS_violations q).w (s.fld (R.LAN_BC_STATUS_violations q)) violations ∧
      (s.mayPost (0x0606000000 + q) 1000000000 = true → t.cmd.events = s.cmd.events ++
      [⟨0x0606, q, (if code = 2 then 2 else 1), s.now, none, none, none⟩]) ∧
      (s.mayPost (0x0606000000 + q) 1000000000 = false → t.cmd = s.cmd) ∧
      OtherRegs s t [R.LAN_BC_STATUS q, R.PNL_GROUP_CNT q 11] ∧ t = { s with regs := t.regs, cmd := t.cmd }) ∧
  (∀ (s : State) (q violations : Nat),
    q < 16 →
    ∃ t, exec (.protocolError q 0 violations) s = .next t ∧
      t.fld (R.LAN_BC_STATUS_violations q) = satAdd (R.LAN_BC_STATUS_violations q).w (s.fld (R.LAN_BC_STATUS_violations q)) violations ∧
      OtherRegs s t [R.LAN_BC_STATUS q] ∧ t = { s with regs := t.regs }) ∧
  (∀ (s : State) (q count due : Nat),
    q < 16 → s.link = 3 → (s.pg q).wire = none → (count % 2 ^ 32 + 2 ^ 32 - (s.pg q).base) % 2 ^ 32 ≤ (s.pg q).outstanding →
    ∃ t, exec (.backchannelCredit q count ⟨false, due⟩) s = .next t ∧
      (t.pg q).r = (s.pg q).r + (count % 2 ^ 32 + 2 ^ 32 - (s.pg q).base) % 2 ^ 32 ∧ (t.pg q).base = count % 2 ^ 32 ∧
      (t.pg q).u = (s.pg q).u ∧ t.fld (R.PNL_GROUP_CREDIT_available q) = min (t.pg q).available 65535 ∧
      ((t.pg q).available ≠ 0 → t.fld (R.PNL_GROUP_STATUS_stalled q) = 0) ∧ (∀ k, k ≠ q → t.pg k = s.pg k) ∧
      OtherRegs s t [R.PNL_GROUP_CREDIT q, R.PNL_GROUP_STATUS q] ∧ t = { s with regs := t.regs, pnl := t.pnl }) ∧
  (∀ (s : State) (q count due : Nat),
    q < 16 → s.link = 3 → (s.pg q).restarting = true →
    ∃ t, exec (.backchannelCredit q count ⟨true, due⟩) s = .next t ∧
      (t.pg q).base = count % 2 ^ 32 ∧ (t.pg q).restarting = false ∧ (t.pg q).heldAt = none ∧
      t.fld (R.PNL_GROUP_STATUS_held q) = 0 ∧
      t = { s with regs := t.regs, ledger := t.ledger, cmd := t.cmd, dmg := t.dmg, sch := t.sch, pnl := t.pnl }) ∧
  (∀ (s : State) (q lanes ucw worst : Nat),
    q < 16 → s.link = 3 → worst < 12 → s.nextMask q &&& (4095 - lanes % 4096) = 0 → ucw ≤ s.fld (R.PNL_GROUP_CFG_ucw_limit q) →
    ∃ t, exec (.backchannelStatus q 0 lanes ucw worst) s = .next t ∧
      t.fld (R.LAN_CNT_count (panelLane q worst) 6) = satAdd (R.LAN_CNT_count (panelLane q worst) 6).w (s.fld (R.LAN_CNT_count (panelLane q worst) 6)) ucw ∧
      OtherRegs s t [R.LAN_CNT (panelLane q worst) 6] ∧ t = { s with regs := t.regs }) ∧
  (∀ (s : State) (q lanes : Nat),
    q < 16 → s.link = 3 → s.nextMask q &&& (4095 - lanes % 4096) ≠ 0 → s.hst.held = [] →
    ∃ t, exec (.backchannelStatus q 0 lanes 0 12) s = .next t ∧
      (t.pg q).map.map LaneMap.mask = some (s.nextMask q &&& (4095 - (s.nextMask q &&& (4095 - lanes % 4096)))) ∧
      t.out = .forward q (linkMessage 0x83 q (leBytes 2 (s.nextMask q &&& (4095 - (s.nextMask q &&& (4095 - lanes % 4096)))) ++ leBytes 4 (blockA s.pnl.linkedAt s.ptp.f))) :: s.out ∧
      t = { s with out := t.out, regs := t.regs, ledger := t.ledger, cmd := t.cmd, hst := t.hst, dmg := t.dmg, sch := t.sch, pnl := t.pnl }) ∧
  (∀ (s : State) (q seq reason : Nat) (p : Piece),
    q < 16 → s.link = 3 → ((s.pg q).pieces.filter fun p => p.seq == seq).getLast? = some p → p.stale = false → s.inBounds = true →
    ∃ t, exec (.backchannelNak q seq reason) s = .next t ∧
      t.fld (R.PNL_GROUP_CNT_count q 3) = satAdd 32 (s.fld (R.PNL_GROUP_CNT_count q 3)) 1 ∧
      t.dmg = ((s.bump (R.PNL_GROUP_CNT_count q 3)).mark p.region).dmg ∧
      (s.mayPost (0x0604000000 + q) 1000000 = true → t.cmd.events = s.cmd.events ++
      [⟨0x0604, q, (p.region + reason % 16 * 65536 + min ((s.pg q).naksSince + 1) 4095 * 1048576) % 2 ^ 32, s.now, none, none, none⟩]) ∧
      t = { s with regs := t.regs, ledger := t.ledger, cmd := t.cmd, dmg := t.dmg, sch := t.sch, pnl := t.pnl }) ∧
  (∀ (s : State) (q lane taps ctl : Nat),
    q < 16 → lane < 12 → (s.pg q).training.testBit lane = true → ctl.testBit 4 = false → ctl.testBit 0 = false →
    ∃ t, exec (.backchannelTrain q lane taps ctl) s = .next t ∧
      t.taps (panelLane q lane) = ((s.setTaps (panelLane q lane) (tapRequests (s.taps (panelLane q lane)) (tapBits taps)).1)).taps (panelLane q lane) ∧
      t.out = .forward q (linkMessage 0x82 q (leBytes 1 lane ++ leBytes 1 (tapByte (tapRequests (s.taps (panelLane q lane)) (tapBits taps)).2))) :: s.out ∧
      OtherRegs s t [R.LAN_TXFFE (panelLane q lane), R.LAN_CNT (panelLane q lane) 3, R.LAN_CNT (panelLane q lane) 4] ∧
      t = { s with out := t.out, regs := t.regs }) ∧
  (∀ (s : State) (q : Nat),
    q < 16 → s.link = 3 → s.fld (R.PNL_GROUP_STATUS_bc_up q) = 1 → s.fld (R.PNL_GROUP_STATUS_held q) = 0 →
    ∃ t, exec (.holdReceived q) s = .next t ∧
      t.fld (R.PNL_GROUP_STATUS_held q) = 1 ∧
      t.fld (R.PNL_GROUP_CNT_count q 4) = satAdd 32 (s.fld (R.PNL_GROUP_CNT_count q 4)) 1 ∧
      t.pg q = { s.pg q with heldAt := some s.ptp.f, longSaid := false } ∧
      OtherRegs s t [R.PNL_GROUP_STATUS q, R.PNL_GROUP_CNT q 4] ∧ t = { s with regs := t.regs, pnl := t.pnl }) ∧
  (∀ (s : State) (q at_ : Nat),
    q < 16 → s.fld (R.PNL_GROUP_STATUS_held q) = 1 → (s.pg q).heldAt = some at_ →
    ∃ t, exec (.releaseReceived q) s = .next t ∧
      t.fld (R.PNL_GROUP_STATUS_held q) = 0 ∧
      t.fld (R.PNL_GROUP_CNT_count q 5) = satAdd 32 (s.fld (R.PNL_GROUP_CNT_count q 5)) ((s.ptp.f - at_) / 1000) ∧
      t.pg q = { s.pg q with heldAt := none, longSaid := false } ∧ OtherRegs s t [R.PNL_GROUP_STATUS q, R.PNL_GROUP_CNT q 5] ∧
      t = { s with regs := t.regs, pnl := t.pnl }) ∧
  (∀ (s : State) (q at_ : Nat),
    s.fld (R.PNL_GROUP_STATUS_held q) = 1 → (s.pg q).heldAt = some at_ → (s.pg q).longSaid = false →
    ∃ t, exec (.holdLimitExpiry q) s = .next t ∧
      t.pg q = { s.pg q with longSaid := true } ∧
      t.cmd.events = s.cmd.events ++ [⟨0x0602, q % 65536, (s.ptp.f - at_) / 1000 % 2 ^ 32, s.now, none, none, none⟩] ∧
      t = { s with cmd := t.cmd, pnl := t.pnl }) ∧
  (∀ (s : State) (q row written : Nat),
    q < 16 → s.fld (R.PNL_GROUP_STATUS_bc_up q) = 1 → s.inBounds = true →
    ∃ t, exec (.backchannelLockLoss q row written) s = .next t ∧
      t.fld (R.PNL_GROUP_STATUS_bc_up q) = 0 ∧ t.fld (R.LAN_BC_STATUS_lock q) = 0 ∧ (t.pg q).lockOut = true ∧
      t.groupIn q = false ∧
      t = { s with out := t.out, regs := t.regs, ledger := t.ledger, cmd := t.cmd, dmg := t.dmg, sch := t.sch, pnl := t.pnl }) ∧
  (∀ (s : State) (q : Nat) (inverted : Bool),
    q < 16 → s.fld (R.PNL_GROUP_STATUS_bc_up q) = 0 → s.link = 3 → (s.pg q).creditShort = false →
    ∃ t, exec (.backchannelRelock q inverted) s = .next t ∧
      t.fld (R.PNL_GROUP_STATUS_bc_up q) = 1 ∧ t.fld (R.LAN_BC_STATUS_lock q) = 1 ∧
      t.fld (R.LAN_BC_STATUS_inverted q) = bit inverted ∧ t.out = .forward q (linkMessage 0x86 q []) :: s.out ∧
      t.pg q = { s.pg q with restarting := true, lockOut := false } ∧ OtherRegs s t [R.PNL_GROUP_STATUS q, R.LAN_BC_STATUS q] ∧
      t = { s with out := t.out, regs := t.regs, pnl := t.pnl })

/-- A failing lane of an ACTIVE link is left out of a lane map that is sent with the count of the second alignment block after its
stripe; at block A of a group in service, with enough lanes left and no command waiting, the map's lanes work, and the lanes
gone are counted and detected, not working. At the training limit the link in TRAIN goes to DESCRIPTOR where every quad has a
trained lane, else to HALTED, and every enabled lane not trained to FAULT; a Worvel lane, and each training lane of an
Ethernet port, that has not trained at its limit goes to FAULT, and no other lane. A HALTED link's retry trains every enabled
lane and posts the state. Leaving ACTIVE leaves no group in service, no lane trained and no region FILLING or SENDING. In
DESCRIPTOR, on a back-channel that is up, a good descriptor within the limits makes the link ACTIVE with its geometry,
segments, time and latency kept; one that breaks a limit leaves the state, shows the limit's number and posts it. -/
def Obligations.LinkTrainsComesUpAndChangesLanes : Prop :=
  (∀ (s : State) (q p : Nat),
    q < 16 → p < 12 → s.link = 3 → (s.nextMask q).testBit p = true → s.hst.held = [] →
    ∃ t, exec (.laneRemoval false q p) s = .next t ∧
      (t.pg q).map.map LaneMap.mask = some (s.nextMask q &&& (4095 - 2 ^ p)) ∧
      t.out = .forward q (linkMessage 0x83 q (leBytes 2 (s.nextMask q &&& (4095 - 2 ^ p)) ++ leBytes 4 (blockA s.pnl.linkedAt s.ptp.f))) :: s.out ∧
      t.free = s.free ∧ (t.pg q).trained = (s.pg q).trained ∧
      t = { s with out := t.out, regs := t.regs, cmd := t.cmd, hst := t.hst, pnl := t.pnl }) ∧
  (∀ (s : State) (q row written : Nat) (m : LaneMap),
    q < 16 → s.link = 3 → (s.pg q).map = some m → m.mask < 4096 → s.groupIn q = true →
    s.fld (R.PNL_GROUP_CFG_min_lanes q) ≤ popCount 12 m.mask → m.waiters = [] → (s.pg q).trained < 4096 →
    ∃ t, exec (.laneMapApply false q row written) s = .next t ∧
      (t.pg q).map = none ∧ (t.pg q).trained = m.mask ∧ t.groupIn q = true ∧ t.fld (R.PNL_GROUP_STATUS_lanes q) = m.mask ∧
      t.fld (R.PNL_GROUP_CNT_count q 10) = satAdd 32 (s.fld (R.PNL_GROUP_CNT_count q 10)) (popCount 12 ((s.pg q).trained &&& (4095 - m.mask))) ∧
      (∀ p, p < 12 → (s.pg q).trained.testBit p = true → m.mask.testBit p = false → t.fld (R.LAN_STATUS_state (panelLane q p)) = 1) ∧
      t = { s with out := t.out, regs := t.regs, ledger := t.ledger, cmd := t.cmd, hst := t.hst, dmg := t.dmg, sch := t.sch, pnl := t.pnl, lan := t.lan }) ∧
  (∀ (s : State),
    s.link = 1 →
    ∃ t, exec (.trainingLimitExpiry .panel) s = .next t ∧
      t.link = (if s.quadsTrained then 2 else 4) ∧ (∀ q, t.pg q = s.pg q) ∧
      (∀ q p, q < 16 → p < 12 → (s.fld (R.PNL_GROUP_CFG_lane_enable q)).testBit p = true → (s.pg q).trained.testBit p = false →
      t.fld (R.LAN_STATUS_state (panelLane q p)) = 5) ∧
      t = { s with regs := t.regs, cmd := t.cmd, pnl := t.pnl, lan := t.lan }) ∧
  (∀ (s : State) (p k : Nat),
    p < 4 → k < 8 → (s.wp p).training.testBit k = true →
    ∃ t, exec (.trainingLimitExpiry (.worvel p k)) s = .next t ∧
      (t.wp p).training = maskPut (s.wp p).training k false ∧ t.fld (R.LAN_STATUS_state (wvlLane p k)) = 5 ∧
      t.fld (R.LAN_CNT_count (wvlLane p k) 1) = satAdd (R.LAN_CNT_count (wvlLane p k) 1).w (s.fld (R.LAN_CNT_count (wvlLane p k) 1)) 1 ∧
      (∀ i, i ≠ wvlLane p k → i < 256 → t.fld (R.LAN_STATUS_state i) = s.fld (R.LAN_STATUS_state i)) ∧
      (∀ x, x ≠ p → t.wp x = s.wp x) ∧ t = { s with regs := t.regs, cmd := t.cmd, pnl := t.pnl, lan := t.lan, wvl := t.wvl }) ∧
  (∀ (s : State) (p : Nat),
    p < 8 →
    ∃ t, exec (.trainingLimitExpiry (.ethernet p)) s = .next t ∧
      (∀ k, k < 2 → t.fld (R.LAN_STATUS_state (208 + 2 * p + k)) = (if s.fld (R.LAN_STATUS_state (208 + 2 * p + k)) = 2 then 5 else s.fld (R.LAN_STATUS_state (208 + 2 * p + k)))) ∧
      (∀ k, k < 2 → s.fld (R.LAN_STATUS_state (208 + 2 * p + k)) ≠ 2 → t.reg (R.LAN_STATUS (208 + 2 * p + k)) = s.reg (R.LAN_STATUS (208 + 2 * p + k))) ∧
      (∀ i, i ≠ 208 + 2 * p → i ≠ 209 + 2 * p → i < 256 → t.fld (R.LAN_STATUS_state i) = s.fld (R.LAN_STATUS_state i)) ∧
      t = { s with regs := t.regs, cmd := t.cmd, lan := t.lan }) ∧
  (∀ (s : State),
    s.link = 4 → s.hst.held = [] →
    ∃ t, exec (.haltedRetryExpiry none) s = .next t ∧
      t.link = 1 ∧
      (∀ q p, q < 16 → p < 12 → t.fld (R.LAN_STATUS_state (panelLane q p)) =
      (if (s.fld (R.PNL_GROUP_CFG_lane_enable q)).testBit p then 2 else 0)) ∧
      (∀ q, q < 16 → (t.pg q).trained = 0) ∧ t.cmd.events = s.cmd.events ++ [⟨0x0600, 0, 1, s.now, none, none, none⟩] ∧
      t = { s with regs := t.regs, cmd := t.cmd, hst := t.hst, pnl := t.pnl, lan := t.lan }) ∧
  (∀ (s : State),
    s.link = 3 → s.hst.held = [] → s.inBounds = true →
    ∃ t, exec (.linkLeaveActive) s = .next t ∧
      t.link = 1 ∧ (∀ q, q < 16 → t.groupIn q = false ∧ (t.pg q).trained = 0) ∧
      (∀ r, (t.region r).state ≠ 2 ∧ (t.region r).state ≠ 3 ∧ (t.region r).state ≠ 4) ∧
      t = { s with free := t.free, regs := t.regs, ledger := t.ledger, cmd := t.cmd, hst := t.hst, dmg := t.dmg, sch := t.sch, pnl := t.pnl, lan := t.lan }) ∧
  (∀ (s : State) (q : Nat) (bytes : List Byte),
    q < 16 → s.link = 2 → s.fld (R.PNL_GROUP_STATUS_bc_up q) = 1 → 4 ≤ bytes.length →
    crc32c (bytes.take (bytes.length - 4)) = leAt bytes (bytes.length - 4) 4 → (parseDesc bytes).fault = none →
    s.inBounds = true → s.hst.held = [] →
    ∃ t, exec (.descriptorReceived q bytes) s = .next t ∧
      t.link = 3 ∧ t.hx = (parseDesc bytes).hx ∧ t.hy = (parseDesc bytes).hy ∧ t.vx = (parseDesc bytes).vx ∧
      t.vy = (parseDesc bytes).vy ∧ t.depth = (parseDesc bytes).depth ∧ t.segCount = (parseDesc bytes).segments ∧
      t.geomValid = true ∧ (∀ g, g < (parseDesc bytes).segments → t.segRect g = (parseDesc bytes).segs.getD g (0, 0, 0, 0)) ∧
      t.fld R.PNL_EPOCH_epoch = s.now ∧ t.pnl.accepted = bytes ∧ t.pnl.teLatency = (parseDesc bytes).teLatency ∧
      t = { s with out := t.out, free := t.free, regs := t.regs, active := t.active, ledger := t.ledger, dram := t.dram, cmd := t.cmd, hst := t.hst, scn := t.scn, dmg := t.dmg, sch := t.sch, glu := t.glu, dec := t.dec, pnl := t.pnl, lan := t.lan, spl := t.spl }) ∧
  (∀ (s : State) (q k : Nat) (bytes : List Byte),
    q < 16 → s.link = 2 → s.fld (R.PNL_GROUP_STATUS_bc_up q) = 1 → 4 ≤ bytes.length →
    crc32c (bytes.take (bytes.length - 4)) = leAt bytes (bytes.length - 4) 4 → (parseDesc bytes).fault = some k →
    ∃ t, exec (.descriptorReceived q bytes) s = .next t ∧
      t.link = 2 ∧ t.fld R.PNL_LINK_STATUS_refused = k ∧
      t.cmd.events = s.cmd.events ++ [⟨0x0640, 0, k, s.now, none, none, none⟩] ∧ OtherRegs s t [R.PNL_LINK_STATUS] ∧
      t = { s with out := t.out, regs := t.regs, cmd := t.cmd })

/-- A dispatched LINK_RESET with a timeout that is not 0, with room and no other reset waiting, replies DEFERRED and keeps its
limit: without the train flag a link in TRAIN or DESCRIPTOR goes to DESCRIPTOR, with it the link goes to TRAIN with no lane
trained; its timeout gives LIMIT_EXCEEDED with the link's state as reason. A LANE_SERVICE that removes lanes of a group of a
link neither OFF nor HALTED replies DEFERRED with an item per lane and sends the lane map without them; one that returns
enabled lanes that no map names replies so and trains them; other groups stay. A failing lane of a Worvel port is left out of
the map it sends; at block A that map is in force there, less the lanes it gave up; and a retry of a port of a wall trains its
lanes in FAULT. Other ports stay. -/
def Obligations.LinkResetsAndWorvelLanesTrainAndService : Prop :=
  (∀ (s : State) (bus : Bus) (id : Nat) (c : Cmd),
    Startable s id .linkReset c → c.p 10 2 ≠ 0 → (s.link = 1 ∨ s.link = 2) → s.deferFull c = false → s.pnl.reset = none →
    c.flag 8 0 = false →
    ∃ t, exec (.linkReset id bus) s = .next t ∧
      t.cmd.replies = (s.defer c 1).cmd.replies ∧ t.pnl.reset = some (id, s.ptp.f + c.p 10 2 * 1000000) ∧ t.link = 2 ∧
      OtherRegs s t [R.PNL_LINK_STATUS] ∧ t = { s with regs := t.regs, cmd := t.cmd, pnl := t.pnl }) ∧
  (∀ (s : State) (bus : Bus) (id : Nat) (c : Cmd),
    Startable s id .linkReset c → c.p 10 2 ≠ 0 → s.deferFull c = false → s.pnl.reset = none → c.flag 8 0 = true →
    s.hst.held = [] → s.inBounds = true →
    ∃ t, exec (.linkReset id bus) s = .next t ∧
      t.link = 1 ∧ t.pnl.reset = some (id, s.ptp.f + c.p 10 2 * 1000000) ∧ (∀ q, q < 16 → (t.pg q).trained = 0) ∧
      t = { s with free := t.free, regs := t.regs, ledger := t.ledger, cmd := t.cmd, hst := t.hst, dmg := t.dmg, sch := t.sch, pnl := t.pnl, lan := t.lan }) ∧
  (∀ (s : State) (id at_ : Nat) (c : Cmd),
    s.pnl.reset = some (id, at_) → s.cmdOf id = some c →
    ∃ t, exec (.linkResetTimeout) s = .next t ∧
      t.pnl = { s.pnl with reset := none } ∧ t.cmd = (s.failOne c stLimit s.link).cmd ∧
      t = { s with out := t.out, cmd := t.cmd, pnl := t.pnl }) ∧
  (∀ (s : State) (bus : Bus) (id : Nat) (c : Cmd),
    Startable s id .laneService c → c.pb 10 0 12 ≠ 0 → s.deferFull c = false → c.flag 9 0 = false → s.link ≠ 0 → s.link ≠ 4 →
    s.hst.held = [] →
    ∃ t, exec (.laneService id bus) s = .next t ∧
      t.cmd = (s.defer c (popCount 12 (c.pb 10 0 12))).cmd ∧
      t.out = .forward (c.pb 8 0 4) (linkMessage 0x83 (c.pb 8 0 4) (leBytes 2 (s.nextMask (c.pb 8 0 4) &&& (4095 - c.pb 10 0 12)) ++ leBytes 4 (blockA s.pnl.linkedAt s.ptp.f))) :: s.out ∧
      (t.pg (c.pb 8 0 4)).map.map LaneMap.mask = some (s.nextMask (c.pb 8 0 4) &&& (4095 - c.pb 10 0 12)) ∧
      (∀ q, q ≠ c.pb 8 0 4 → t.pg q = s.pg q) ∧
      t = { s with out := t.out, regs := t.regs, cmd := t.cmd, hst := t.hst, pnl := t.pnl }) ∧
  (∀ (s : State) (bus : Bus) (id : Nat) (c : Cmd),
    Startable s id .laneService c → c.pb 10 0 12 ≠ 0 → s.deferFull c = false → c.flag 9 0 = true →
    s.nextMask (c.pb 8 0 4) &&& c.pb 10 0 12 = 0 →
    c.pb 10 0 12 &&& s.fld (R.PNL_GROUP_CFG_lane_enable (c.pb 8 0 4)) = c.pb 10 0 12 →
    ∃ t, exec (.laneService id bus) s = .next t ∧
      t.cmd = (s.defer c (popCount 12 (c.pb 10 0 12))).cmd ∧
      (∀ p, (c.pb 10 0 12).testBit p = true → t.fld (R.LAN_STATUS_state (panelLane (c.pb 8 0 4) p)) = 2) ∧
      (∀ q, q ≠ c.pb 8 0 4 → t.pg q = s.pg q) ∧ t = { s with regs := t.regs, cmd := t.cmd, pnl := t.pnl, lan := t.lan }) ∧
  (∀ (s : State) (p k : Nat),
    p < 4 → ((s.wp p).map.getD (s.wp p).work).testBit k = true →
    ∃ t, exec (.laneRemoval true p k) s = .next t ∧
      (t.wp p).map = some (maskPut ((s.wp p).map.getD (s.wp p).work) k false) ∧
      t.out = .worvel p (linkMessage 0x83 p (leBytes 2 (maskPut ((s.wp p).map.getD (s.wp p).work) k false) ++ leBytes 4 (blockA (s.wp p).linkedAt s.ptp.f))) :: s.out ∧
      t = { s with out := t.out, wvl := t.wvl }) ∧
  (∀ (s : State) (p row written m : Nat),
    p < 4 → (s.wp p).map = some m → (s.wp p).work < 256 →
    ∃ t, exec (.laneMapApply true p row written) s = .next t ∧
      (t.wp p).map = none ∧ (t.wp p).work = m &&& (255 - ((s.wp p).work &&& (255 - m))) ∧
      t = { s with out := t.out, regs := t.regs, ledger := t.ledger, cmd := t.cmd, hst := t.hst, dmg := t.dmg, sch := t.sch, pnl := t.pnl, lan := t.lan, wvl := t.wvl, cmp := t.cmp }) ∧
  (∀ (s : State) (p : Nat),
    p < 4 → s.walled = true →
    ∃ t, exec (.haltedRetryExpiry (some p)) s = .next t ∧
      (∀ k, k < 8 → s.fld (R.LAN_STATUS_state (wvlLane p k)) = 5 → t.fld (R.LAN_STATUS_state (wvlLane p k)) = 2 ∧ (t.wp p).training.testBit k = true) ∧
      (∀ x, x ≠ p → t.wp x = s.wp x) ∧ t = { s with regs := t.regs, lan := t.lan, wvl := t.wvl })

/-- An idle group of an ACTIVE link whose working lanes all allow it enters QUIET with every working lane, each counted. A
training lane of PCIe, Ethernet or Worvel takes the equaliser codes asked, within their ranges; one in service that has never
moved moves each at most one code nearer and notes the time; a frozen one keeps them. A full eye set of a lane in ACTIVE or
QUIET shows the worst eye by area and the residuals. A LANE_MEASURE of 1 to 16 lanes, all ACTIVE, with room, replies DEFERRED
and every item runs; the last item running ends DONE at its figures, its 16-byte record written where it has no item list.
LANE_TX_SET of a target out of range is refused with reason 1 and changes nothing else; of one lane not training, already
there, it ends DONE, and not there, it starts a move. A tap step of a lane in service with nothing asked takes a move one code
nearer and ends its item at the target. No register but those of the lanes changes. -/
def Obligations.SerialLanesIdleAdaptMeasureAndMoveTaps : Prop :=
  (∀ (s : State) (q : Nat),
    q < 16 → s.link = 3 → s.groupQuiet q = true → (∀ i, i ∈ s.workingLanes q → s.fld (R.LAN_CFG_quiet_enable i) = 1) →
    ∃ t, exec (.quietEntry q) s = .next t ∧
      (∀ i, i ∈ s.workingLanes q → t.fld (R.LAN_STATUS_state i) = 4 ∧
      t.fld (R.LAN_CNT_count i 2) = satAdd (R.LAN_CNT_count i 2).w (s.fld (R.LAN_CNT_count i 2)) 1) ∧
      OtherRegs s t ((List.range 12).flatMap fun p => [R.LAN_STATUS (panelLane q p), R.LAN_CNT (panelLane q p) 2]) ∧
      t = { s with regs := t.regs, lan := t.lan }) ∧
  (∀ (s : State) (i ctle vga : Nat) (dfe levels : List Int),
    192 ≤ i → i < 256 → s.fld (R.LAN_CFG_adapt_freeze i) = 0 → s.fld (R.LAN_STATUS_state i) = 2 →
    ∃ t, exec (.adaptationStep i ctle ⟨dfe, levels⟩ vga) s = .next t ∧
      t.fld (R.LAN_RXEQ_ctle i) = min ctle 15 ∧ t.fld (R.LAN_RXEQ_dfe1 i) = toField 8 (clampInt (-128) 127 (dfe.getD 0 0)) ∧
      t.fld (R.LAN_RXEQ_vga i) = min vga 255 ∧
      Store.get (fun _ => []) t.lan.dfe i = ((List.range 11).map fun k => dfe.getD (k + 1) 0) ∧
      Store.get (fun _ => []) t.lan.levels i = ((List.range 3).map fun k => levels.getD k 0) ∧ OtherRegs s t [R.LAN_RXEQ i] ∧
      t = { s with regs := t.regs, lan := t.lan }) ∧
  (∀ (s : State) (i ctle vga : Nat) (dfe levels : List Int),
    192 ≤ i → i < 256 → s.fld (R.LAN_CFG_adapt_freeze i) = 0 → s.fld (R.LAN_STATUS_state i) = 3 →
    Store.get (fun _ => 0) s.lan.movedAt i = 0 →
    ∃ t, exec (.adaptationStep i ctle ⟨dfe, levels⟩ vga) s = .next t ∧
      ((t.fld (R.LAN_RXEQ_ctle i) : Int) - s.fld (R.LAN_RXEQ_ctle i)).natAbs ≤ 1 ∧
      t.fld (R.LAN_RXEQ_ctle i) = (toward (s.fld (R.LAN_RXEQ_ctle i)) (min ctle 15)).toNat ∧
      t.fld (R.LAN_RXEQ_vga i) = (toward (s.fld (R.LAN_RXEQ_vga i)) (min vga 255)).toNat ∧
      Store.get (fun _ => []) t.lan.levels i = ((List.range 3).map fun k => toward ((Store.get (fun _ => []) s.lan.levels i).getD k 0) (levels.getD k 0)) ∧
      Store.get (fun _ => 0) t.lan.movedAt i = s.ptp.f + 1 ∧ OtherRegs s t [R.LAN_RXEQ i] ∧
      t = { s with regs := t.regs, lan := t.lan }) ∧
  (∀ (s : State) (i ctle vga : Nat) (dfe levels : List Int),
    s.fld (R.LAN_CFG_adapt_freeze i) = 1 →
    ∃ t, exec (.adaptationStep i ctle ⟨dfe, levels⟩ vga) s = .next t ∧
      t = s ∧ t = s) ∧
  (∀ (s : State) (i rms corrected since : Nat) (eyes : List (Nat × Nat)),
    i < 256 → (s.fld (R.LAN_STATUS_state i) = 3 ∨ s.fld (R.LAN_STATUS_state i) = 4) →
    ∃ t, exec (.eyeSetComplete i eyes rms corrected since) s = .next t ∧
      t.fld (R.LAN_EYE_valid i) = 1 ∧ t.fld (R.LAN_EYE_eye i) = (worstEye eyes).1 % 4 ∧
      t.fld (R.LAN_EYE_width i) = min (worstEye eyes).2.1 255 ∧ t.fld (R.LAN_EYE_height i) = min (worstEye eyes).2.2 255 ∧
      t.fld (R.LAN_RESID_rms i) = min rms 65535 ∧ t.fld (R.LAN_RESID_corrected i) = (if i < 192 then 0 else min corrected 65535) ∧
      OtherRegs s t [R.LAN_EYE i, R.LAN_RESID i, R.LAN_CNT i 5] ∧ t = { s with regs := t.regs, cmd := t.cmd, lan := t.lan }) ∧
  (∀ (s : State) (bus : Bus) (id : Nat) (c : Cmd),
    Startable s id .laneMeasure c → s.lan.measures.all (fun m => m.cmd != id) = true → 6 ≤ c.pb 20 0 4 → c.pb 20 0 4 ≤ 9 →
    0 < c.p 18 2 → c.p 18 2 ≤ 16 → c.p 16 2 + c.p 18 2 ≤ 256 → s.deferFull c = false →
    (∀ k, k < c.p 18 2 → s.fld (R.LAN_STATUS_state (c.p 16 2 + k)) = 3) →
    ∃ t, exec (.laneMeasure id bus []) s = .next t ∧
      t.cmd = (s.defer c (c.p 18 2)).cmd ∧
      t.lan.measures = s.lan.measures ++ ((List.range (c.p 18 2)).map fun k => ⟨id, k, c.p 16 2 + k, true, false⟩) ∧
      t = { s with cmd := t.cmd, lan := t.lan }) ∧
  (∀ (s : State) (bus : Bus) (id k : Nat) (c : Cmd) (m : Measure) (fig : List Nat),
    s.cmdOf id = some c → s.lan.measures = [m] → m.cmd = id → m.item = k → m.running = true → m.broken = false → bus.bad = [] →
    ∃ t, exec (.laneMeasure id bus [(k, fig)]) s = .next t ∧
      t.lan.measures = [] ∧ t.cmd = (s.itemDone id k ⟨stDone, 0, 0⟩).cmd ∧
      (c.itemList = false → t.out = .hostWrite c.client (c.p 8 8 + 16 * k) ((List.range 6).map (fun j => BitVec.ofNat 8 (min (fig.getD j 0) 255)) ++
      leBytes 2 (min (fig.getD 6 0) 65535) ++ leBytes 8 s.now) :: s.out) ∧
      t = { s with out := t.out, cmd := t.cmd, lan := t.lan }) ∧
  (∀ (s : State) (bus : Bus) (id : Nat) (c : Cmd),
    Startable s id .laneTxSet c → c.p 10 2 ≠ 0 → c.p 8 2 + c.p 10 2 ≤ 256 →
    (∀ k, k < c.p 10 2 → c.p 8 2 + k < 192 ∨ 224 ≤ c.p 8 2 + k) →
    tapsOk [sext 8 (c.p 12 1), sext 8 (c.p 13 1), (c.p 14 1 : Int), sext 8 (c.p 15 1)] = false →
    ∃ t, exec (.laneTxSet id bus) s = .next t ∧
      t = s.refuse c stBadParam 1 ∧ t = { s with cmd := t.cmd }) ∧
  (∀ (s : State) (bus : Bus) (id : Nat) (c : Cmd),
    Startable s id .laneTxSet c → c.p 10 2 = 1 → (c.p 8 2 < 192 ∨ (224 ≤ c.p 8 2 ∧ c.p 8 2 < 256)) →
    tapsOk [sext 8 (c.p 12 1), sext 8 (c.p 13 1), (c.p 14 1 : Int), sext 8 (c.p 15 1)] = true →
    s.fld (R.LAN_STATUS_state (c.p 8 2)) ≠ 2 →
    ∃ t, exec (.laneTxSet id bus) s = .next t ∧
      (s.taps (c.p 8 2) = [sext 8 (c.p 12 1), sext 8 (c.p 13 1), (c.p 14 1 : Int), sext 8 (c.p 15 1)] → t.lan = s.lan ∧ t.cmd = (s.finishOne c).cmd) ∧
      (s.taps (c.p 8 2) ≠ [sext 8 (c.p 12 1), sext 8 (c.p 13 1), (c.p 14 1 : Int), sext 8 (c.p 15 1)] →
      t.lan.moves = s.lan.moves ++ [⟨id, 0, c.p 8 2, [sext 8 (c.p 12 1), sext 8 (c.p 13 1), (c.p 14 1 : Int), sext 8 (c.p 15 1)]⟩] ∧ t.cmd.replies = s.cmd.replies) ∧
      t = { s with cmd := t.cmd, lan := t.lan }) ∧
  (∀ (s : State) (i : Nat) (m : TapMove),
    i < 256 → Store.get (fun _ => []) s.lan.asked i = [] → s.lan.moves.find? (fun m => m.lane == i) = some m →
    s.fld (R.LAN_STATUS_state i) ≠ 2 →
    ∃ t, exec (.txTapStep i) s = .next t ∧
      t.taps i = (s.setTaps i (tapsToward (s.taps i) m.taps)).taps i ∧
      (tapsToward (s.taps i) m.taps = m.taps → t.lan.moves = s.lan.moves.filter (· != m) ∧ t.cmd = (s.itemDone m.cmd m.item ⟨stDone, 0, 0⟩).cmd) ∧
      (tapsToward (s.taps i) m.taps ≠ m.taps → t.lan.moves = s.lan.moves ∧ t.cmd = s.cmd) ∧
      OtherRegs s t [R.LAN_TXFFE i, R.LAN_CNT i 3] ∧ t = { s with regs := t.regs, cmd := t.cmd, lan := t.lan })

/-- One failed slot of a bay in service with a free spare sisters it: the engine is marked failed, the spare takes the slot, and
the bay is not retired; with no spare free the bay is retired and leaves service. A lock-step watchdog of a bay that runs with
no stall is such a fault with check 3. A test that all engines pass, in place and with no bent waking, ends, is counted and
shows the spare good; of a returning bay it clears failures, sistering and retirement, and the bay is in service where its
bent is and nothing drains it. Where every bay is full and work waits, the next sleeping bent that may wakes with its domain
on, its clock at its limit and its bays testing. A drain of a bent that finds no work ends with it ASLEEP or RETIRED, its
domain off and clock stopped; one of a bay, to retire, with the bay retired; BENT_RETIRE_IMMEDIATE retires one bent (cause 4)
or the four of its die (cause 3) at once. A dispatched BAY_SERVICE that retires one bay of a bent in service, or BENT_SERVICE
that retires one, while others stay, replies DEFERRED and begins the drain. A clock change that waits takes effect where no
launched region of the bent is unfinished. Other bays and bents keep their states. -/
def Obligations.BaysAndBentsSisterRetireTestDrainAndWake : Prop :=
  (∀ (s : State) (bay e check ready : Nat),
    bay < 64 → e < 8 → s.bayRetired bay = false → s.spareFree bay = true → s.inBounds = true →
    ∃ t, exec (.engineFault bay [e] check ready) s = .next t ∧
      t.baySlot bay = e ∧ t.baySistered bay = true ∧ t.bayFailed bay = (s.bayFailed bay ||| 2 ^ e) ∧ t.bayRetired bay = false ∧
      t.fld (R.ENG_CNT_count 1) = satAdd 32 (s.fld (R.ENG_CNT_count 1)) 1 ∧
      (∀ q, q < 64 → q ≠ bay → t.bayFailed q = s.bayFailed q ∧ t.baySistered q = s.baySistered q ∧ t.bayRetired q = s.bayRetired q) ∧
      t = { s with regs := t.regs, ledger := t.ledger, cmd := t.cmd, hst := t.hst, dmg := t.dmg, sch := t.sch, eng := t.eng, pnl := t.pnl, spl := t.spl }) ∧
  (∀ (s : State) (bay e check ready : Nat),
    bay < 64 → e < 8 → s.bayRetired bay = false → s.spareFree bay = false → s.inBounds = true →
    ∃ t, exec (.engineFault bay [e] check ready) s = .next t ∧
      t.bayRetired bay = true ∧ t.fld (R.ENG_BAY_MAP_in_service (bay / 8) (bay % 8)) = 0 ∧
      t.bayFailed bay = (s.bayFailed bay ||| 2 ^ s.servedBy bay e) ∧
      (∀ q, q < 64 → q ≠ bay → t.bayFailed q = s.bayFailed q ∧ t.baySistered q = s.baySistered q ∧ t.bayRetired q = s.bayRetired q) ∧
      t = { s with regs := t.regs, ledger := t.ledger, cmd := t.cmd, hst := t.hst, dmg := t.dmg, sch := t.sch, eng := t.eng, pnl := t.pnl, spl := t.spl }) ∧
  (∀ (s : State) (bay e ready : Nat),
    bay < 64 → e < 8 → s.bayRetired bay = false → s.spareFree bay = true → s.runsFree bay = true → s.inBounds = true →
    ∃ t, exec (.lockstepWatchdogExpiry bay e ready) s = .next t ∧
      exec (.engineFault bay [e] 3 ready) s = .next t ∧ t.baySlot bay = e ∧ t.baySistered bay = true ∧
      t = { s with regs := t.regs, ledger := t.ledger, cmd := t.cmd, hst := t.hst, dmg := t.dmg, sch := t.sch, eng := t.eng, pnl := t.pnl, spl := t.spl }) ∧
  (∀ (s : State) (bay : Nat) (x : BayTest),
    bay < 64 → Store.get (fun _ => none) s.eng.tests bay = some x → x.kind ≠ 1 → s.bayRetired bay = false →
    Store.get (fun _ => none) s.eng.waking (bay / 8) = none → x.waiters = [] →
    ∃ t, exec (.baySelfTest bay []) s = .next t ∧
      Store.get (fun _ => none) t.eng.tests bay = none ∧ t.fld (R.ENG_CNT_count 5) = satAdd 32 (s.fld (R.ENG_CNT_count 5)) 1 ∧
      t.fld (R.ENG_BAY_MAP_spare_ok (bay / 8) (bay % 8)) = 1 ∧ t.bayFailed bay = s.bayFailed bay ∧ t.bayRetired bay = false ∧
      OtherRegs s t (R.ENG_CNT 5 :: R.ENG_PLACE_CFG :: (List.range 8).map R.ENG_BENT_STATUS ++ (List.range 64).map fun q => R.ENG_BAY_MAP (q / 8) (q % 8)) ∧
      t = { s with regs := t.regs, ledger := t.ledger, cmd := t.cmd, hst := t.hst, dmg := t.dmg, sch := t.sch, eng := t.eng, pnl := t.pnl, spl := t.spl }) ∧
  (∀ (s : State) (bay : Nat) (x : BayTest),
    bay < 64 → Store.get (fun _ => none) s.eng.tests bay = some x → x.kind = 1 → x.waiters = [] →
    ∃ t, exec (.baySelfTest bay []) s = .next t ∧
      t.bayFailed bay = 0 ∧ t.baySistered bay = false ∧ t.bayRetired bay = false ∧
      Store.get (fun _ => none) t.eng.tests bay = none ∧
      (s.fld (R.ENG_BENT_STATUS_state (bay / 8)) = 1 → Store.get (fun _ => none) s.eng.bays bay = none →
      t.fld (R.ENG_BAY_MAP_in_service (bay / 8) (bay % 8)) = 1) ∧
      t = { s with regs := t.regs, ledger := t.ledger, cmd := t.cmd, hst := t.hst, dmg := t.dmg, sch := t.sch, eng := t.eng, pnl := t.pnl, spl := t.spl }) ∧
  (∀ (s : State) (b : Nat),
    ((List.range 8).map fun i => bentOrder.getD ((s.eng.lastBent + 1 + i) % 8) 0).find? (fun b =>
    s.fld (R.ENG_BENT_STATUS_state b) == 0 && (Store.get (fun _ => none) s.eng.waking b).isNone &&
    !s.pwc.shed.contains b && (bentZones b).all fun z => s.fld (R.THM_ZONE_crit z) == 0) = some b →
    s.fld R.PWC_STATUS_state = 0 → s.baysFull = true → s.hst.held = [] →
    ∃ t, exec (.bentWake) s = .next t ∧
      Store.get (fun _ => none) t.eng.waking b = some [] ∧
      (∀ j, j < 8 → Store.get (fun _ => none) t.eng.tests (8 * b + j) = some ⟨0, []⟩) ∧ t.fld (R.PWC_DOMAIN_depth (5 + b)) = 0 ∧
      t.fld (R.PWC_CLK_mhz (6 + b)) = s.bentLimit b ∧
      OtherRegs s t [R.PWC_DOMAIN (5 + b), R.PWC_CLK (6 + b), R.PWC_DOMAIN (13 + b / 4), R.PWC_CLK (4 + b / 4)] ∧
      t = { s with regs := t.regs, hst := t.hst, eng := t.eng }) ∧
  (∀ (s : State) (n : Nat) (d : Drain) (ready : List (Nat × Nat)),
    n < 8 → Store.get (fun _ => none) s.eng.bents n = some d → (∀ j, j < 8 → s.bayBusy (8 * n + j) = false) →
    Store.get (fun _ => none) s.eng.resume n = none → (d.target = 0 ∨ d.target = 4) →
    ∃ t, exec (.drainComplete true n false ready) s = .next t ∧
      t.fld (R.ENG_BENT_STATUS_state n) = d.target ∧
      t.fld (R.ENG_BENT_STATUS_cause n) = d.cause % 2 ^ (R.ENG_BENT_STATUS_cause n).w ∧ t.fld (R.PWC_DOMAIN_depth (5 + n)) = 3 ∧
      t.fld (R.PWC_CLK_mhz (6 + n)) = 0 ∧ Store.get (fun _ => none) t.eng.bents n = none ∧
      (∀ j, j < 8 → t.fld (R.ENG_BAY_MAP_in_service n j) = 0) ∧
      t = { s with regs := t.regs, ledger := t.ledger, cmd := t.cmd, hst := t.hst, dmg := t.dmg, sch := t.sch, eng := t.eng, pnl := t.pnl, spl := t.spl }) ∧
  (∀ (s : State) (q : Nat) (d : Drain) (ready : List (Nat × Nat)),
    q < 64 → Store.get (fun _ => none) s.eng.bays q = some d → s.bayBusy q = false → d.target = 4 → s.inBounds = true →
    ∃ t, exec (.drainComplete false q false ready) s = .next t ∧
      t.bayRetired q = true ∧ t.fld (R.ENG_BAY_MAP_in_service (q / 8) (q % 8)) = 0 ∧
      Store.get (fun _ => none) t.eng.bays q = none ∧
      t = { s with regs := t.regs, ledger := t.ledger, cmd := t.cmd, hst := t.hst, dmg := t.dmg, sch := t.sch, eng := t.eng, pnl := t.pnl, spl := t.spl }) ∧
  (∀ (s : State) (b : Nat) (ready : List (Nat × Nat)),
    b < 8 → s.fld (R.ENG_BENT_STATUS_state b) ≠ 4 → s.inBounds = true →
    ∃ t, exec (.bentRetireImmediate b 4 ready) s = .next t ∧
      t.fld (R.ENG_BENT_STATUS_state b) = 4 ∧ t.fld (R.ENG_BENT_STATUS_cause b) = 4 ∧ t.fld (R.PWC_DOMAIN_depth (5 + b)) = 3 ∧
      (∀ x, x < 8 → x ≠ b → t.fld (R.ENG_BENT_STATUS_state x) = s.fld (R.ENG_BENT_STATUS_state x)) ∧
      t = { s with regs := t.regs, ledger := t.ledger, cmd := t.cmd, hst := t.hst, dmg := t.dmg, sch := t.sch, eng := t.eng, pnl := t.pnl, spl := t.spl }) ∧
  (∀ (s : State) (b : Nat) (ready : List (Nat × Nat)),
    b < 8 → s.inBounds = true →
    ∃ t, exec (.bentRetireImmediate b 3 ready) s = .next t ∧
      (∀ j, j < 4 → t.fld (R.ENG_BENT_STATUS_state (b / 4 * 4 + j)) = 4) ∧
      (∀ x, x < 8 → x / 4 ≠ b / 4 → t.fld (R.ENG_BENT_STATUS_state x) = s.fld (R.ENG_BENT_STATUS_state x)) ∧
      t = { s with regs := t.regs, ledger := t.ledger, cmd := t.cmd, hst := t.hst, dmg := t.dmg, sch := t.sch, eng := t.eng, pnl := t.pnl, spl := t.spl }) ∧
  (∀ (s : State) (b mhz : Nat),
    b < 8 → Store.get (fun _ => none) s.eng.clockAsked b = some mhz →
    s.sch.jobs.all (fun j => !(j.bay / 8 == b && j.stage == .synth && j.launched)) = true →
    ∃ t, exec (.bentClockChange b) s = .next t ∧
      t.fld (R.PWC_CLK_mhz (6 + b)) = mhz % 2 ^ (R.PWC_CLK_mhz (6 + b)).w ∧ t.fld (R.PWC_CLK_running (6 + b)) = bit (mhz != 0) ∧
      Store.get (fun _ => none) t.eng.clockAsked b = none ∧ OtherRegs s t [R.PWC_CLK (6 + b)] ∧
      t = { s with regs := t.regs, eng := t.eng }) ∧
  (∀ (s : State) (bus : Bus) (id q : Nat) (c : Cmd),
    Startable s id .bayService c → c.p 8 8 = 2 ^ q → q < 64 → c.pb 16 0 2 = 0 →
    ((List.range 64).all fun x => !s.bayIn x || (2 ^ q).testBit x) = false → s.deferFull c = false →
    s.fld (R.ENG_BENT_STATUS_state (q / 8)) = 1 → Store.get (fun _ => none) s.eng.bays q = none →
    Store.get (fun _ => none) s.eng.tests q = none → s.bayRetired q = false → s.fillOf q = none →
    ∃ t, exec (.bayService id bus) s = .next t ∧
      t.cmd.replies = (s.defer c 1).cmd.replies ∧ Store.get (fun _ => none) t.eng.bays q = some ⟨4, 0, [(id, 0)]⟩ ∧
      t.fld (R.ENG_BAY_MAP_in_service (q / 8) (q % 8)) = 0 ∧
      t = { s with regs := t.regs, ledger := t.ledger, cmd := t.cmd, dmg := t.dmg, sch := t.sch, eng := t.eng, pnl := t.pnl }) ∧
  (∀ (s : State) (bus : Bus) (id x : Nat) (c : Cmd),
    Startable s id .bentService c → x < 8 → c.p 8 1 = 2 ^ x → c.flag 9 0 = false →
    ((List.range 64).all fun q => !s.bayIn q || (2 ^ x).testBit (q / 8)) = false → s.deferFull c = false →
    s.fld (R.ENG_BENT_STATUS_state x) = 1 → s.inBounds = true →
    ∃ t, exec (.bentService id bus) s = .next t ∧
      t.fld (R.ENG_BENT_STATUS_state x) = 2 ∧ Store.get (fun _ => none) t.eng.bents x = some ⟨4, 1, [(id, 0)]⟩ ∧
      t.cmd.replies = (s.defer c 1).cmd.replies ∧ (∀ j, j < 8 → t.fld (R.ENG_BAY_MAP_in_service x j) = 0) ∧
      t = { s with regs := t.regs, ledger := t.ledger, cmd := t.cmd, hst := t.hst, dmg := t.dmg, sch := t.sch, eng := t.eng, pnl := t.pnl, spl := t.spl })

/-- In a wall: a trained port out of service sends its HELLO at once, with the next sequence number. A HELLO with the wall_id, the
coordinates faced and the opposite port sets hello_ok and, with enough working lanes, has the port in service, with 4,096
credits where it enters; any other takes it out and posts what it said where that is new. A packet with a bad header, at a
port out of service, is counted in PORT_CNT[2] and changes no other register. A good newer vote at a port in service, at its
last hop, is kept in place of its module's earlier one. A CREDIT message raises the credits returned, never past those
outstanding. A time exchange with nothing waiting, covered by credits, keeps its stamps and goes out. A lane for which one
message says done at both ends, of a port out of service without hello_ok, works at once. A lane map of the neighbour changes
the lanes in use, and a port left with too few is out of service. A lost port trains all its working lanes again, out of
service. A relay payload that waits alone, is in no deflate unit in time and is covered by credits goes out uncompressed. -/
def Obligations.WorvelPortsCheckHelloReturnCreditsAndTrain : Prop :=
  (∀ (s : State) (p : Nat),
    p < 4 → s.walled = true → (s.wp p).work ≠ 0 → s.portIn p = false →
    ∃ t, exec (.helloSend p) s = .next t ∧
      t.out = .worvel p (worvelPacket 1 0 false false s.ownModule 0 (Store.get (fun _ => 0) s.wvl.seqOut 1)
      (leBytes 4 (s.fld R.WVL_WALL_ID_id) ++ leBytes 1 (s.fld R.WVL_WALL_CFG_x + 16 * s.fld R.WVL_WALL_CFG_y) ++ leBytes 1 p ++
        leBytes 1 (if s.fld R.WVL_WALL_STATUS_hops = 31 then 255 else s.fld R.WVL_WALL_STATUS_hops) ++
        leBytes 1 (bit (s.fld R.WVL_WALL_STATUS_lock == 2)) ++ leBytes 2 s.panelRate ++ leBytes 6 0)) :: s.out ∧
      Store.get (fun _ => 0) t.wvl.seqOut 1 = (Store.get (fun _ => 0) s.wvl.seqOut 1 + 1) % 2 ^ 32 ∧
      OtherRegs s t [R.WVL_PORT_CNT p 0] ∧ OtherTerms s t [R.WVL_PORT_CNT p 0] ∧
      t = { s with out := t.out, regs := t.regs, ledger := t.ledger, wvl := t.wvl }) ∧
  (∀ (s : State) (p : Nat) (d : List Byte),
    p < 4 → s.walled = true → (s.wp p).work ≠ 0 → d.length = 16 → leAt d 0 4 = s.fld R.WVL_WALL_ID_id →
    s.facing p = some (bitsOf (leAt d 4 1) 0 4, bitsOf (leAt d 4 1) 4 4) → leAt d 5 1 = (p + 2) % 4 →
    (s.wp p).work &&& (s.wp p).rx ≠ 0 → s.fld (R.WVL_PORT_CFG_min_lanes p) ≤ popCount 8 ((s.wp p).work &&& (s.wp p).rx) →
    ∃ t, exec (.helloReceived p d) s = .next t ∧
      t.fld (R.WVL_PORT_STATUS_hello_ok p) = 1 ∧ t.portIn p = true ∧ t.fld (R.WVL_PORT_STATUS_nx p) = bitsOf (leAt d 4 1) 0 4 ∧
      t.fld (R.WVL_PORT_STATUS_ny p) = bitsOf (leAt d 4 1) 4 4 ∧ t.fld (R.WVL_PORT_STATUS_nhops p) = leAt d 6 1 ∧
      t.fld (R.WVL_PORT_CNT_count p 1) = satAdd 32 (s.fld (R.WVL_PORT_CNT_count p 1)) 1 ∧
      (s.portIn p = false → (t.wp p).g = (s.wp p).g + 4096) ∧
      OtherRegs s t ([R.WVL_PORT_CNT p 1, R.WVL_PORT_CREDIT p, R.WVL_WALL_STATUS] ++ (List.range 4).map R.WVL_PORT_STATUS ++
      (List.range 16).map R.CLP_GROUP_STATUS) ∧
      t = { s with out := t.out, regs := t.regs, ledger := t.ledger, cmd := t.cmd, wvl := t.wvl }) ∧
  (∀ (s : State) (p : Nat) (d : List Byte),
    p < 4 → s.walled = true → (s.wp p).work ≠ 0 → d.length = 16 →
    ¬ (leAt d 0 4 = s.fld R.WVL_WALL_ID_id ∧ s.facing p = some (bitsOf (leAt d 4 1) 0 4, bitsOf (leAt d 4 1) 4 4) ∧ leAt d 5 1 = (p + 2) % 4) →
    ∃ t, exec (.helloReceived p d) s = .next t ∧
      t.fld (R.WVL_PORT_STATUS_hello_ok p) = 0 ∧ t.portIn p = false ∧
      (t.wp p).strange = some (bitsOf (leAt d 4 1) 0 4 + 16 * bitsOf (leAt d 4 1) 4 4, leAt d 5 1, leAt d 0 4) ∧
      ((s.wp p).strange ≠ (t.wp p).strange → (⟨0x0D01, p, (bitsOf (leAt d 4 1) 0 4 + 16 * bitsOf (leAt d 4 1) 4 4 + leAt d 5 1 % 4 * 256 +
      leAt d 0 4 % 65536 * 65536) % 2 ^ 32, s.now, none, none, none⟩ : Event) ∈ t.cmd.events) ∧
      t = { s with out := t.out, regs := t.regs, ledger := t.ledger, cmd := t.cmd, wvl := t.wvl, cmp := t.cmp }) ∧
  (∀ (s : State) (p : Nat) (bytes : List Byte),
    p < 4 → s.walled = true → (s.wp p).work ≠ 0 → s.portIn p = false →
    leAt bytes 0 2 ≠ 0xB7E5 ∨ crc32c (bytes.take 12) ≠ leAt bytes 12 4 →
    ∃ t, exec (.worvelPacketReceived p bytes) s = .next t ∧
      t.fld (R.WVL_PORT_CNT_count p 2) = satAdd 32 (s.fld (R.WVL_PORT_CNT_count p 2)) 1 ∧ OtherRegs s t [R.WVL_PORT_CNT p 2] ∧
      OtherTerms s t [R.WVL_PORT_CNT p 2] ∧ t = { s with regs := t.regs, ledger := t.ledger }) ∧
  (∀ (s : State) (p g origin hops seq : Nat) (v : Vote),
    p < 4 → s.walled = true → (s.wp p).work ≠ 0 → s.portIn p = true → g < 16 → origin < 256 → hops = 31 → seq < 2 ^ 32 →
    v.group = g ∧ v.origin = origin ∧ v.n < 2 ^ 64 ∧ v.frame < 2 ^ 32 ∧ v.clampTime < 2 ^ 64 → s.newer 3 origin seq = true →
    ∃ t, exec (.worvelPacketReceived p (worvelPacket 3 0 true false origin hops seq
      (leBytes 1 g ++ leBytes 1 (bit v.ready) ++ leBytes 2 0 ++ leBytes 4 v.frame ++ leBytes 8 v.clampTime ++ leBytes 8 v.n))) s = .next t ∧
      t.wvl.votes = s.wvl.votes.filter (fun u => !(u.group == g && u.origin == origin)) ++ [v] ∧
      Store.get (fun _ => none) t.wvl.seqIn (768 + origin) = some seq ∧
      t.fld (R.WVL_PORT_CNT_count p 1) = satAdd 32 (s.fld (R.WVL_PORT_CNT_count p 1)) 1 ∧ OtherRegs s t [R.WVL_PORT_CNT p 1] ∧
      t = { s with out := t.out, regs := t.regs, ledger := t.ledger, wvl := t.wvl }) ∧
  (∀ (s : State) (p count : Nat),
    p < 4 → s.portIn p = true → (s.wp p).control = [] → (s.wp p).relay = [] →
    ∃ t, exec (.worvelCredit p count) s = .next t ∧
      t.wp p = { s.wp p with base := count % 2 ^ 32, r := (s.wp p).r + min ((count % 2 ^ 32 + 2 ^ 32 - (s.wp p).base) % 2 ^ 32) (s.wp p).outstanding } ∧
      t.fld (R.WVL_PORT_CREDIT_available p) = min 65535 (t.wp p).available ∧
      t.fld (R.WVL_PORT_CREDIT_outstanding p) = min 65535 (t.wp p).outstanding ∧ OtherRegs s t [R.WVL_PORT_CREDIT p] ∧
      t = { s with regs := t.regs, wvl := t.wvl }) ∧
  (∀ (s : State) (p cTx tTx cRx tRx : Nat),
    p < 4 → s.portIn p = true → (s.wp p).control = [] → (s.wp p).relay = [] → (s.wp p).need 60 ≤ (s.wp p).available →
    ∃ t, exec (.timeExchange p cTx tTx cRx tRx) s = .next t ∧
      (t.wp p).stamps = some (cTx % 2 ^ 32, tTx, cRx % 2 ^ 32, tRx) ∧
      t.out = .worvel p (worvelPacket 2 0 false false s.ownModule 0 (Store.get (fun _ => 0) s.wvl.seqOut 2)
      (leBytes 4 cTx ++ leBytes 8 tTx ++ leBytes 4 cRx ++ leBytes 8 tRx ++ leBytes 8 (toField 64 s.wvl.ofs))) :: s.out ∧
      OtherRegs s t [R.WVL_PORT_CREDIT p, R.WVL_PORT_CNT p 0] ∧ OtherTerms s t [R.WVL_PORT_CNT p 0] ∧
      t = { s with out := t.out, regs := t.regs, ledger := t.ledger, wvl := t.wvl }) ∧
  (∀ (s : State) (p lane taps reqs : Nat) (pre inverted : Bool),
    p < 4 → lane < 8 → (s.wp p).training.testBit lane = true → s.portIn p = false → s.fld (R.WVL_PORT_STATUS_hello_ok p) = 0 →
    ∃ t, exec (.worvelTrain p lane taps 16 (some (reqs, 16 + 32 * bit pre)) inverted) s = .next t ∧
      (t.wp p).work = (s.wp p).work ||| 2 ^ lane ∧ (t.wp p).training.testBit lane = false ∧
      t.fld (R.LAN_STATUS_state (wvlLane p lane)) = 3 ∧ t.fld (R.LAN_STATUS_rx_inverted (wvlLane p lane)) = bit inverted ∧
      t.fld (R.LAN_STATUS_rx_precoding (wvlLane p lane)) = bit pre ∧ t.portIn p = false ∧
      t = { s with out := t.out, regs := t.regs, ledger := t.ledger, cmd := t.cmd, lan := t.lan, spl := t.spl, wvl := t.wvl, cmp := t.cmp }) ∧
  (∀ (s : State) (p mask : Nat),
    p < 4 → s.walled = true →
    ∃ t, exec (.worvelLaneMap p mask) s = .next t ∧
      (t.wp p).rx = mask % 256 ∧ t.fld (R.WVL_PORT_STATUS_lanes p) = ((s.wp p).work &&& (mask % 256)) % 256 ∧
      t.fld (R.WVL_PORT_STATUS_count p) = popCount 8 ((s.wp p).work &&& (mask % 256)) ∧
      (t.portIn p = true → s.fld (R.WVL_PORT_STATUS_hello_ok p) = 1 ∧ (s.wp p).work &&& (mask % 256) ≠ 0 ∧
      s.fld (R.WVL_PORT_CFG_min_lanes p) ≤ popCount 8 ((s.wp p).work &&& (mask % 256))) ∧
      t = { s with regs := t.regs, ledger := t.ledger, cmd := t.cmd, wvl := t.wvl, cmp := t.cmp }) ∧
  (∀ (s : State) (p : Nat),
    p < 4 → (s.wp p).work ≠ 0 → (s.wp p).work < 256 →
    ∃ t, exec (.worvelPortLoss p) s = .next t ∧
      t.portIn p = false ∧ t.fld (R.WVL_PORT_STATUS_hello_ok p) = 0 ∧ (t.wp p).work = 0 ∧ (t.wp p).rx = 0 ∧
      (t.wp p).training = ((s.wp p).training ||| (s.wp p).work) ∧
      (∀ k, k < 8 → (s.wp p).work.testBit k = true → t.fld (R.LAN_STATUS_state (wvlLane p k)) = 2) ∧
      t = { s with regs := t.regs, ledger := t.ledger, cmd := t.cmd, lan := t.lan, wvl := t.wvl, cmp := t.cmp }) ∧
  (∀ (s : State) (p : Nat) (j : CmpJob) (e : Relay),
    p < 4 → s.cmp.waiting.find? (fun j => j.dir == 1 && j.cls == 1 && j.who.headD 4 == p) = some j → s.portIn p = true →
    (s.wp p).control = [] → (s.wp p).relay = [e] → j.who.getD 1 0 = e.id → e.data.length < 9001 →
    (s.wp p).need (worvelPacket 16 1 false false s.ownModule 0 (Store.get (fun _ => 0) s.wvl.seqOut 16) e.data).length + 64 < (s.wp p).available →
    ∃ t, exec (.scarfDeflateWaitExpiry p) s = .next t ∧
      t.cmp.waiting = s.cmp.waiting.erase j ∧ (t.wp p).relay = [] ∧
      t.out = .worvel p (worvelPacket 16 1 false false s.ownModule 0 (Store.get (fun _ => 0) s.wvl.seqOut 16) e.data) :: s.out ∧
      t.fld (R.WVL_PORT_CNT_count p 5) = satAdd 32 (s.fld (R.WVL_PORT_CNT_count p 5)) 1 ∧
      OtherRegs s t [R.WVL_PORT_CREDIT p, R.WVL_PORT_CNT p 0, R.WVL_PORT_CNT p 5] ∧
      t = { s with out := t.out, regs := t.regs, ledger := t.ledger, wvl := t.wvl, cmp := t.cmp })

/-- A dispatched WALL_CONFIGURE with every coordinate in the wall and an alternate, if any, that is not the master writes the
place, the master, the alternate, the size, the identity, the scarf byte and the wall flag of triggers 0 to 3, forgets every
member and vote and replies DONE; it is refused with BAD_PARAM and reason 1 for a coordinate outside; leaving shows the reset
status, puts every wall group alone, disarms the triggers, takes every port out and the Worvel domain off. At SUMMARY_SEND a
module of a wall is its own member, shows the time, and one with a route is alone no more; others' membership stays. A lost
member is one no longer, its votes are dropped, the members counted and the loss posted. At the cut-off, not alone, each wall
group's vote for the boundary carries the frame it would show, its clamp time and whether it is due and ready. The acting
master, not alone, decides clamp where every voter voted ready and all votes name one frame, and hold where it has no ready
vote of its own; votes up to that boundary are gone. A wall group without the decision holds, and its loss is posted. -/
def Obligations.WallsAgreeOnMembersVotesAndDecisions : Prop :=
  (∀ (s : State) (bus : Bus) (id : Nat) (c : Cmd),
    Startable s id .wallConfigure c → c.pb 12 0 4 ≤ c.pb 13 0 4 ∧ c.pb 12 4 4 ≤ c.pb 13 4 4 →
    c.pb 14 0 4 ≤ c.pb 13 0 4 ∧ c.pb 14 4 4 ≤ c.pb 13 4 4 →
    (c.flag 16 1 = true → c.pb 15 0 4 ≤ c.pb 13 0 4 ∧ c.pb 15 4 4 ≤ c.pb 13 4 4 ∧ ¬ (c.pb 15 0 4 = c.pb 14 0 4 ∧ c.pb 15 4 4 = c.pb 14 4 4)) →
    c.flag 16 0 = true → s.hst.held = [] →
    ∃ t, exec (.wallConfigure id bus) s = .next t ∧
      t.walled = true ∧ t.fld R.WVL_WALL_CFG_x = c.pb 12 0 4 ∧ t.fld R.WVL_WALL_CFG_y = c.pb 12 4 4 ∧
      t.fld R.WVL_WALL_CFG_wx = c.pb 13 0 4 ∧ t.fld R.WVL_WALL_CFG_wy = c.pb 13 4 4 ∧ t.fld R.WVL_WALL_CFG_mx = c.pb 14 0 4 ∧
      t.fld R.WVL_WALL_CFG_my = c.pb 14 4 4 ∧ t.fld R.WVL_WALL_CFG2_ax = c.pb 15 0 4 ∧ t.fld R.WVL_WALL_CFG2_ay = c.pb 15 4 4 ∧
      t.fld R.WVL_WALL_CFG2_scarf = c.p 17 1 ∧ t.fld R.WVL_WALL_ID_id = c.p 8 4 ∧
      (∀ k, k < 4 → t.fld (R.TRIG_STATUS_wall k) = 1) ∧ (∀ m, m < 256 → t.member m = false) ∧ t.wvl.votes = [] ∧
      t.cmd.replies = (s.finishOne c).cmd.replies ∧
      t = { s with regs := t.regs, ledger := t.ledger, cmd := t.cmd, hst := t.hst, lan := t.lan, wvl := t.wvl, cmp := t.cmp }) ∧
  (∀ (s : State) (bus : Bus) (id : Nat) (c : Cmd),
    Startable s id .wallConfigure c → c.pb 12 0 4 ≤ c.pb 13 0 4 ∧ c.pb 12 4 4 ≤ c.pb 13 4 4 →
    c.pb 14 0 4 ≤ c.pb 13 0 4 ∧ c.pb 14 4 4 ≤ c.pb 13 4 4 → c.flag 16 1 = false → c.flag 16 0 = false → s.hst.held = [] →
    ∃ t, exec (.wallConfigure id bus) s = .next t ∧
      t.walled = false ∧ t.reg R.WVL_WALL_STATUS = resetReg R.WVL_WALL_STATUS ∧
      (∀ k, k < 4 → t.fld (R.TRIG_STATUS_wall k) = 0 ∧ t.fld (R.TRIG_STATUS_armed k) = 0) ∧
      (∀ g, g ∈ s.wallGroups → t.fld (R.CLP_GROUP_STATUS_alone g) = 1) ∧
      (∀ p, p < 4 → t.portIn p = false ∧ ∀ k, k < 8 → t.fld (R.LAN_STATUS_state (wvlLane p k)) = 0) ∧
      t.fld (R.PWC_DOMAIN_depth 23) = 3 ∧ t.cmd.replies = (s.finishOne c).cmd.replies ∧
      t = { s with regs := t.regs, ledger := t.ledger, cmd := t.cmd, hst := t.hst, lan := t.lan, wvl := t.wvl, cmp := t.cmp }) ∧
  (∀ (s : State) (bus : Bus) (id : Nat) (c : Cmd),
    Startable s id .wallConfigure c →
    c.pb 13 0 4 < c.pb 12 0 4 ∨ c.pb 13 4 4 < c.pb 12 4 4 ∨ c.pb 13 0 4 < c.pb 14 0 4 ∨ c.pb 13 4 4 < c.pb 14 4 4 →
    ∃ t, exec (.wallConfigure id bus) s = .next t ∧
      t = s.refuse c stBadParam 1 ∧ t = { s with cmd := t.cmd }) ∧
  (∀ (s : State),
    s.walled = true →
    ∃ t, exec (.summarySend) s = .next t ∧
      t.member s.ownModule = true ∧ t.reg (R.WVL_PEER s.ownModule 6) = BitVec.ofNat 64 s.now ∧ t.wvl.worst = 0 ∧
      (s.fld R.WVL_WALL_STATUS_alone = 1 → s.fld R.WVL_WALL_STATUS_hops < 31 → t.fld R.WVL_WALL_STATUS_alone = 0) ∧
      (∀ m, m < 256 → m ≠ s.ownModule → t.member m = s.member m) ∧
      t = { s with out := t.out, regs := t.regs, ledger := t.ledger, cmd := t.cmd, wvl := t.wvl }) ∧
  (∀ (s : State) (m : Nat),
    m < 256 → s.member m = true →
    ∃ t, exec (.memberTimeout m) s = .next t ∧
      t.reg (R.WVL_PEER m 7) = 0 ∧ (∀ x, x < 256 → x ≠ m → t.member x = s.member x) ∧
      t.fld R.WVL_WALL_STATUS_members = ((List.range 256).filter fun x => t.member x).length ∧
      t.wvl.votes = s.wvl.votes.filter (fun v => v.origin != m) ∧
      (⟨0x0D05, m, 0, s.now, none, none, none⟩ : Event) ∈ t.cmd.events ∧
      OtherRegs s t ([R.WVL_PEER m 7, R.WVL_WALL_STATUS] ++ (List.range 4).map R.WVL_PORT_STATUS ++ (List.range 16).map R.CLP_GROUP_STATUS) ∧
      t = { s with regs := t.regs, cmd := t.cmd, wvl := t.wvl }) ∧
  (∀ (s : State) (n : Nat),
    s.walled = true → s.fld R.WVL_WALL_STATUS_alone = 0 →
    ∃ t, exec (.voteCutoff n) s = .next t ∧
      (∀ g, g ∈ s.wallGroups → ∃ v, v ∈ t.wvl.votes ∧ v.group = g ∧ v.origin = s.ownModule ∧ v.n = n ∧ v.frame = s.nextFrame g ∧
      v.clampTime = s.ownClampTime g ∧ v.ready = (s.due g (s.wallTime n) && (s.late g).ready)) ∧
      (∀ v, v ∈ s.wvl.votes → v.origin ≠ s.ownModule → v ∈ t.wvl.votes) ∧
      t = { s with out := t.out, regs := t.regs, ledger := t.ledger, clp := t.clp, wvl := t.wvl }) ∧
  (∀ (s : State) (n g : Nat),
    s.actsMaster = true → g < 16 → s.fld (R.CLP_GROUP_CFG_wall g) = 1 → s.fld R.WVL_WALL_STATUS_alone = 0 →
    s.wvl.votes.any (fun v => v.group == g && v.origin == s.ownModule && v.n == n && v.ready) = false →
    ∃ t, exec (.masterDecide n) s = .next t ∧
      t.decisionOf g = 1 ∧ t.wvl.votes = s.wvl.votes.filter (fun v => decide (n < v.n)) ∧
      t = { s with out := t.out, regs := t.regs, ledger := t.ledger, clp := t.clp, wvl := t.wvl }) ∧
  (∀ (s : State) (n g frame : Nat),
    s.actsMaster = true → g < 16 → s.fld (R.CLP_GROUP_CFG_wall g) = 1 → s.fld R.WVL_WALL_STATUS_alone = 0 →
    (∀ v, v ∈ s.wvl.votes → v.group = g → v.n = n → v.frame = frame) →
    (∀ m, m ∈ s.voters g → s.wvl.votes.any (fun v => v.group == g && v.origin == m && v.n == n && v.ready) = true) →
    ∃ t, exec (.masterDecide n) s = .next t ∧
      t.decisionOf g = 2 ∧ Store.get (fun _ => 0) t.clp.decisionFrame g = frame ∧
      t.wvl.votes = s.wvl.votes.filter (fun v => decide (n < v.n)) ∧
      t = { s with out := t.out, regs := t.regs, ledger := t.ledger, clp := t.clp, wvl := t.wvl }) ∧
  (∀ (s : State) (g n : Nat),
    g < 16 → s.wallGroup g = true → s.decisionOf g = 0 →
    ∃ t, exec (.wallDecisionLost g n) s = .next t ∧
      t.decisionOf g = 1 ∧ (∀ x, x ≠ g → t.decisionOf x = s.decisionOf x) ∧
      t.cmd.events = s.cmd.events ++ [⟨0x0D08, g, n % 2 ^ 32, s.now, none, none, none⟩] ∧
      t = { s with cmd := t.cmd, clp := t.clp })

/-- A port that is down and whose configured mode trains comes up in it, with its lanes shown; a lost link takes it down with no
preemption; either is posted. A PAUSE at a port that is up stops every class for its quanta, at the port's rate. A frame of
bad length or FCS is counted and dropped. A good untagged frame to an accepted address, with no steering, Trastos, rule or
hash before it, goes whole to the default ring, in client memory, with a descriptor and a buffer large enough, whose head
moves on by one. The frame chosen, of the highest class able to start, in client memory, leaves with its FCS, is counted, and
the head of its ring moves on. A dispatched ETH_RING_SET that enables a receive ring that is not in use, for its client or
PF0, sets owner, size, buffer, write-back and base with an empty ring; one of PF0 that disables it clears it. An
ETH_GATE_LIST_SET of good entries that the bus delivers, anchored to PTP at a time not past, with room and no list waiting,
pends its list at each port named and replies DEFERRED; a list that waits starts at its time at a port with nothing to send. A
verify's outcome, where it is new, shows as preemption and is posted. -/
def Obligations.EthernetPortsReceiveTransmitPauseAndFollowGates : Prop :=
  (∀ (s : State) (p mode inverted precoded rxPrecoded : Nat) (taps : List (List Int)),
    p < 8 → s.ethUp p = false → s.modeFits p mode = true →
    ∃ t, exec (.ethLinkState p true mode ⟨inverted, precoded, rxPrecoded, taps⟩) s = .next t ∧
      t.ethUp p = true ∧ t.fld (R.ETH_PORT_STATUS_mode p) = mode ∧ t.fld (R.LAN_STATUS_state (208 + 2 * p)) = 3 ∧
      t.fld (R.LAN_STATUS_state (209 + 2 * p)) = (if mode ≤ 2 then 3 else 0) ∧
      t.fld (R.LAN_STATUS_rx_inverted (208 + 2 * p)) = bitsOf inverted 0 1 ∧
      t.fld (R.LAN_STATUS_precoding (208 + 2 * p)) = bitsOf precoded 0 1 ∧
      t.cmd.events = s.cmd.events ++ [⟨0x0800, p, 1 + 2 * mode, s.now, none, none, none⟩] ∧
      OtherRegs s t [R.ETH_PORT_STATUS p, R.ETH_TS_LAT p, R.LAN_STATUS (208 + 2 * p), R.LAN_STATUS (209 + 2 * p), R.LAN_EYE (208 + 2 * p), R.LAN_EYE (209 + 2 * p), R.LAN_TXFFE (208 + 2 * p), R.LAN_TXFFE (209 + 2 * p), R.SPL_CNT 6] ∧
      t = { s with regs := t.regs, cmd := t.cmd, lan := t.lan, spl := t.spl }) ∧
  (∀ (s : State) (p mode inverted precoded rxPrecoded : Nat) (taps : List (List Int)),
    p < 8 → s.ethUp p = true →
    ∃ t, exec (.ethLinkState p false mode ⟨inverted, precoded, rxPrecoded, taps⟩) s = .next t ∧
      t.ethUp p = false ∧ t.fld (R.ETH_PORT_STATUS_mode p) = 0 ∧ t.fld (R.ETH_PORT_STATUS_preempt p) = 0 ∧
      t.cmd.events = s.cmd.events ++ [⟨0x0800, p, 0, s.now, none, none, none⟩] ∧ (∀ q, q ≠ p → t.ep q = s.ep q) ∧
      t = { s with regs := t.regs, cmd := t.cmd, lan := t.lan, spl := t.spl, eth := t.eth }) ∧
  (∀ (s : State) (p : Nat) (ok : Bool),
    p < 8 → s.ethUp p = true → s.fld (R.ETH_PORT_CFG_preempt_enable p) = 1 → (s.ep p).verify ≠ (if ok then 1 else 2) →
    ∃ t, exec (.preemptVerifyRetry p ok) s = .next t ∧
      t.fld (R.ETH_PORT_STATUS_preempt p) = bit ok ∧ t.ep p = { s.ep p with verify := if ok then 1 else 2 } ∧
      t.cmd.events = s.cmd.events ++ [⟨0x0804, p, if ok then 1 else 2, s.now, none, none, none⟩] ∧
      OtherRegs s t [R.ETH_PORT_STATUS p] ∧ t = { s with regs := t.regs, cmd := t.cmd, eth := t.eth }) ∧
  (∀ (s : State) (p n : Nat),
    p < 8 → s.ethUp p = true →
    ∃ t, exec (.pauseReceived p (some n) []) s = .next t ∧
      (∀ c, c < 8 → Store.get (fun _ => 0) (t.ep p).paused c = if n % 65536 = 0 then 0 else s.ptp.f + ceilDiv (512 * (n % 65536)) (s.ethRate p)) ∧
      t.fld (R.ETH_PORT_CNT_count p 12) = satAdd 32 (s.fld (R.ETH_PORT_CNT_count p 12)) (n % 65536) ∧
      (∀ q, q ≠ p → t.ep q = s.ep q) ∧ OtherRegs s t [R.ETH_PORT_CNT p 12] ∧ t = { s with regs := t.regs, eth := t.eth }) ∧
  (∀ (s : State) (p frac : Nat) (bus : Bus) (bytes : List Byte),
    p < 8 → s.ethUp p = true →
    bytes.length < 64 ∨ s.fld (R.ETH_PORT_CFG2_max_frame p) < bytes.length ∨ crc32 (bytes.take (bytes.length - 4)) ≠ leAt bytes (bytes.length - 4) 4 →
    ∃ t, exec (.ethFrameReceived p bus bytes frac) s = .next t ∧
      t.fld (R.ETH_PORT_CNT_count p 0) = satAdd 32 (s.fld (R.ETH_PORT_CNT_count p 0)) 1 ∧
      t.fld (R.ETH_PORT_CNT_count p 3) = satAdd 32 (s.fld (R.ETH_PORT_CNT_count p 3)) 1 ∧
      OtherRegs s t [R.ETH_PORT_CNT p 0, R.ETH_PORT_CNT p 3] ∧ OtherTerms s t [R.ETH_PORT_CNT p 0, R.ETH_PORT_CNT p 3] ∧
      t = { s with regs := t.regs, ledger := t.ledger }) ∧
  (∀ (s : State) (p frac r a : Nat) (bus : Bus) (d e : List Byte),
    p < 8 → s.ethUp p = true → 60 ≤ d.length → d.length + 4 ≤ s.fld (R.ETH_PORT_CFG2_max_frame p) →
    s.addressOk p (Net.of d) = true → s.fld (R.ETH_PORT_CFG_ptp_steer p) = 0 → s.fld R.SCN_TRS_CFG_enable = 0 →
    (∀ k, k < 32 → ruleMatches (s.ethRule p k) (Net.of d) = false) → s.fld (R.ETH_PORT_CFG_hash_enable p) = 0 →
    (Net.of d).tagged = false → r = 64 * p + s.fld (R.ETH_PORT_CFG_default_ring p) → s.fld (R.ETH_RXQ_CFG_enable r) = 1 →
    d.length ≤ 256 * s.fld (R.ETH_RXQ_CFG_buf r) → s.fld (R.ETH_RXQ_HEAD_head r) ≠ s.rxTail r →
    s.rxEntry r (s.fld (R.ETH_RXQ_HEAD_head r)) = (false, a) → busRead bus a 16 = some e →
    busFails bus (leAt e 0 8) d.length = false →
    ∃ t, exec (.ethFrameReceived p bus (d ++ leBytes 4 (crc32 d)) frac) s = .next t ∧
      .hostWrite (s.fld (R.ETH_RXQ_CFG_owner r)) (leAt e 0 8) d ∈ t.out ∧
      t.fld (R.ETH_RXQ_HEAD_head r) = (s.fld (R.ETH_RXQ_HEAD_head r) + 1) % 2 ^ s.fld (R.ETH_RXQ_CFG_log2size r) % 2 ^ (R.ETH_RXQ_HEAD_head r).w ∧
      t.fld (R.ETH_PORT_CNT_count p 0) = satAdd 32 (s.fld (R.ETH_PORT_CNT_count p 0)) 1 ∧
      t.fld (R.ETH_PORT_CNT_count p 1) = satAdd 32 (s.fld (R.ETH_PORT_CNT_count p 1)) 1 ∧
      OtherRegs s t [R.ETH_PORT_CNT p 0, R.ETH_PORT_CNT p 1, R.ETH_RXQ_HEAD r] ∧
      t = { s with out := t.out, regs := t.regs, ledger := t.ledger, cmd := t.cmd }) ∧
  (∀ (s : State) (p q buffer length tci frac cuts : Nat) (stamp : Bool) (bus : Bus) (d : List Byte),
    p < 8 → (List.range 8).reverse.findSome? (s.txPick bus p) = some (q, .send buffer length stamp false tci) →
    (s.txEntry q 0).1 = false → busRead bus buffer length = some d →
    ∃ t, exec (.ethFrameTransmit p bus frac false cuts) s = .next t ∧
      .ethFrame p (d ++ leBytes 4 (crc32 d)) ∈ t.out ∧
      t.fld (R.ETH_TXQ_HEAD_head q) = (s.fld (R.ETH_TXQ_HEAD_head q) + 1) % 2 ^ s.fld (R.ETH_TXQ_CFG_log2size q) % 2 ^ (R.ETH_TXQ_HEAD_head q).w ∧
      t.fld (R.ETH_PORT_CNT_count p 9) = satAdd 32 (s.fld (R.ETH_PORT_CNT_count p 9)) 1 ∧
      OtherRegs s t [R.ETH_PORT_CNT p 9, R.ETH_PORT_CNT p 14, R.ETH_TXQ_HEAD q] ∧
      t = { s with out := t.out, regs := t.regs, ledger := t.ledger, cmd := t.cmd }) ∧
  (∀ (s : State) (bus : Bus) (id r : Nat) (c : Cmd),
    Startable s id .ethRingSet c → r = c.pb 16 0 9 → c.flag 18 0 = false → c.flag 18 1 = true → 6 ≤ c.pb 19 0 4 →
    c.pb 19 0 4 ≤ 14 → 2 ≤ c.pb 21 0 7 → c.pb 21 0 7 ≤ 64 → c.client = 0 ∨ c.pb 20 0 4 = c.client →
    (s.reg (R.ETH_RXQ_CFG r)).toNat.testBit 0 = false →
    ∃ t, exec (.ethRingSet id bus) s = .next t ∧
      t.fld (R.ETH_RXQ_CFG_enable r) = 1 ∧ t.fld (R.ETH_RXQ_CFG_log2size r) = c.pb 19 0 4 ∧
      t.fld (R.ETH_RXQ_CFG_owner r) = c.pb 20 0 4 ∧ t.fld (R.ETH_RXQ_CFG_buf r) = c.pb 21 0 7 ∧
      t.fld (R.ETH_RXQ_BASE_base r) = c.p 8 8 / 4096 ∧ t.fld (R.ETH_RXQ_HEAD_head r) = 0 ∧ t.rxTail r = 0 ∧
      t.fld (R.ETH_RXQ_WB_addr r) = c.p 24 8 % 2 ^ (R.ETH_RXQ_WB_addr r).w ∧
      OtherRegs s t [R.ETH_RXQ_BASE r, R.ETH_RXQ_CFG r, R.ETH_RXQ_HEAD r, R.ETH_RXQ_WB r] ∧ t.cmd = (s.finishOne c).cmd ∧
      t = { s with out := t.out, regs := t.regs, cmd := t.cmd, eth := t.eth }) ∧
  (∀ (s : State) (bus : Bus) (id r : Nat) (c : Cmd),
    Startable s id .ethRingSet c → r = c.pb 16 0 9 → c.flag 18 0 = false → c.flag 18 1 = false → c.client = 0 →
    ∃ t, exec (.ethRingSet id bus) s = .next t ∧
      t.reg (R.ETH_RXQ_CFG r) = 0 ∧ t.reg (R.ETH_RXQ_BASE r) = 0 ∧
      OtherRegs s t [R.ETH_RXQ_BASE r, R.ETH_RXQ_CFG r, R.ETH_RXQ_HEAD r, R.ETH_RXQ_WB r] ∧ t.cmd = (s.finishOne c).cmd ∧
      t = { s with out := t.out, regs := t.regs, cmd := t.cmd, eth := t.eth }) ∧
  (∀ (s : State) (p : Nat) (bus : Bus) (l : GateList),
    p < 8 → (s.ep p).gates.waiting = some l → l.anchor = 0 → l.entries ≠ [] → (∀ k, k < 8 → s.txReady (8 * p + k) = false) →
    ∃ t, exec (.ethGateListStart p bus) s = .next t ∧
      (t.ep p).gates = {
    active := some l, start := (s.ep p).gates.waitStart } ∧
      t.fld (R.ETH_GATE_CYCLE_ns p) = l.cycle % 2 ^ 32 ∧ t.fld (R.ETH_PORT_STATUS_list p) = 1 ∧
      t.fld (R.ETH_PORT_STATUS_pending p) = 0 ∧
      (∀ e, e < 128 → e < l.entries.length → t.reg (R.ETH_GATE_ACTIVE p e) = BitVec.ofNat 64 ((l.entries.getD e (0, 0)).1 + (l.entries.getD e (0, 0)).2 * 65536)) ∧
      (∀ q, q ≠ p → t.ep q = s.ep q) ∧ t = { s with out := t.out, regs := t.regs, ledger := t.ledger, cmd := t.cmd, eth := t.eth }) ∧
  (∀ (s : State) (bus : Bus) (id p : Nat) (c : Cmd),
    Startable s id .ethGateListSet c → c.flag 30 1 = false → 1 ≤ c.p 29 1 → c.p 29 1 ≤ 128 → 1000 ≤ c.p 24 4 →
    c.p 24 4 ≤ 1000000000 → (c.p 28 1).testBit p = true → p < 8 → busFails bus (c.p 8 8) (8 * c.p 29 1) = false →
    (∀ i, i < c.p 29 1 → (let w := leNat ((List.range 8).map fun j => busByte bus (c.p 8 8 + 8 * i + j)); 10 ≤ bitsOf w 16 32 ∧ bitsOf w 8 2 ≠ 3 ∧ bitsOf w 10 6 = 0 ∧ bitsOf w 48 16 = 0)) →
    s.deferFull c = false → s.now ≤ c.p 16 8 → c.pb 30 0 1 = 0 → (∀ q, (s.ep q).gates.waiting = none) →
    ∃ t, exec (.ethGateListSet id bus) s = .next t ∧
      ((t.ep p).gates.waiting.map fun l => (l.base, l.cycle, l.anchor, l.cmd, l.entries.length)) = some (c.p 16 8, c.p 24 4, 0, id, c.p 29 1) ∧
      (t.ep p).gates.waitStart = c.p 16 8 ∧ (t.ep p).gates.active = (s.ep p).gates.active ∧
      t.fld (R.ETH_PORT_STATUS_pending p) = 1 ∧ (∀ q, (c.p 28 1).testBit q = false → t.ep q = s.ep q) ∧
      t.cmd = (s.defer c (popCount 8 (c.p 28 1))).cmd ∧ t = { s with regs := t.regs, cmd := t.cmd, eth := t.eth })

/-- Load O of PF0, with nanoseconds below 1,000,000,000, sets the offset to the staged seconds and nanoseconds and counts a step.
Step moves the total by the signed step where neither total nor offset falls below zero, and is counted as ignored where one
would. Load rho sets the anchor and the rate and leaves the total as it was; a client other than PF0 has its write dropped.
PTP_NOW answers seconds and nanoseconds and latches the high seconds. Arming a trigger 0 to 7 that is no frame sync, ahead of
its start, makes its configuration active and sets its next fire; disarming drives the idle level. A fire of an armed one
counts, arms every unarmed source 0 group named for that time, and disarms a trigger with no period. An edge of an enabled
kind, with room and none before it, enters the capture FIFO with its time, and a read of PF0 takes the oldest. Other triggers
and captures stay. -/
def Obligations.NetworkTimeTriggersAndCapturesFollowTheClock : Prop :=
  (∀ (s : State) (bus : Bus),
    s.ptp.stNs < 1000000000 →
    ∃ t, exec (.ptpLoadO 0 bus) s = .next t ∧
      t.ptp = { s.ptp with oSec := s.ptp.stSec % 2 ^ 48, oNs := s.ptp.stNs } ∧
      t.fld R.PTP_CNT_steps = satAdd R.PTP_CNT_steps.w (s.fld R.PTP_CNT_steps) 1 ∧ t.fld R.PTP_OFS_ns = s.ptp.stNs ∧
      t.fld R.PTP_OFS_sec = s.ptp.stSec % 2 ^ 32 ∧
      t = { s with out := t.out, regs := t.regs, ledger := t.ledger, dram := t.dram, cmd := t.cmd, hst := t.hst, ptp := t.ptp, sch := t.sch, clp := t.clp, pfc := t.pfc, eth := t.eth, tim := t.tim }) ∧
  (∀ (s : State) (bus : Bus),
    0 ≤ s.ptpTotal + sext 64 (s.fld R.PTP_STEP_ns) → 0 ≤ s.offset + sext 64 (s.fld R.PTP_STEP_ns) →
    s.offset + sext 64 (s.fld R.PTP_STEP_ns) < 2 ^ 48 * 1000000000 →
    ∃ t, exec (.ptpStep 0 bus) s = .next t ∧
      t.ptpTotal = s.ptpTotal + sext 64 (s.fld R.PTP_STEP_ns) ∧
      t.fld R.PTP_CNT_steps = satAdd R.PTP_CNT_steps.w (s.fld R.PTP_CNT_steps) 1 ∧ t.ptp.rho = s.ptp.rho ∧
      t = { s with out := t.out, regs := t.regs, ledger := t.ledger, dram := t.dram, cmd := t.cmd, hst := t.hst, ptp := t.ptp, sch := t.sch, clp := t.clp, pfc := t.pfc, eth := t.eth, tim := t.tim }) ∧
  (∀ (s : State) (bus : Bus),
    s.ptpTotal + sext 64 (s.fld R.PTP_STEP_ns) < 0 ∨ s.offset + sext 64 (s.fld R.PTP_STEP_ns) < 0 →
    ∃ t, exec (.ptpStep 0 bus) s = .next t ∧
      t = (s.bar0 0).bump R.PTP_CNT_ignored ∧ t = { s with regs := t.regs, hst := t.hst, pfc := t.pfc }) ∧
  (∀ (s : State),
    0 ≤ s.offset + s.ptpCorr → s.offset + s.ptpCorr < 2 ^ 48 * 1000000000 →
    ∃ t, exec (.ptpLoadRho 0) s = .next t ∧
      t.ptpTotal = s.ptpTotal ∧ t.ptp.a = s.ptp.f ∧ t.ptp.rho = s.ptp.stRho ∧
      OtherRegs s t [R.PTP_OFS, R.PTP_OFS_XSEC, R.PTP_ANCHOR, R.PTP_RATE] ∧
      t = { s with regs := t.regs, hst := t.hst, ptp := t.ptp, pfc := t.pfc }) ∧
  (∀ (s : State) (client : Nat),
    client ≠ 0 →
    ∃ t, exec (.ptpLoadRho client) s = .next t ∧
      t = (s.bar0 client).drop client ∧ t = { s with regs := t.regs, hst := t.hst, pfc := t.pfc }) ∧
  (∀ (s : State),
    ∃ t, exec (.ptpNowRead 0) s = .next t ∧
      t.out = .readData 0 R.PTP_NOW (leBytes 8 s.nowWord) false :: s.out ∧
      t.fld R.PTP_NOW_XSEC_sec = toField 128 s.ptpTotal / 1000000000 / 2 ^ 32 % 2 ^ 16 ∧ OtherRegs s t [R.PTP_NOW_XSEC] ∧
      t = { s with out := t.out, regs := t.regs, hst := t.hst, ptp := t.ptp, pfc := t.pfc }) ∧
  (∀ (s : State) (n data : Nat) (bus : Bus),
    n < 8 → s.isFsync n = false → data.testBit 0 = true → s.now ≤ s.fld (R.TRIG_START_ns n) →
    ∃ t, exec (.triggerArmWrite 0 n data bus) s = .next t ∧
      t.fld (R.TRIG_STATUS_armed n) = 1 ∧ (t.trig n).next = s.fld (R.TRIG_START_ns n) ∧
      t.act (R.TRIG_CFG n) = t.reg (R.TRIG_CFG n) ∧ t.act (R.TRIG_ACT n) = s.reg (R.TRIG_ACT n) ∧
      t.act (R.TRIG_PERIOD n) = s.reg (R.TRIG_PERIOD n) ∧ OtherRegs s t [R.TRIG_CFG n, R.TRIG_STATUS n] ∧
      t = { s with regs := t.regs, active := t.active, hst := t.hst, pfc := t.pfc, tim := t.tim }) ∧
  (∀ (s : State) (n data : Nat) (bus : Bus),
    n < 8 → s.isFsync n = false → data.testBit 0 = false →
    ∃ t, exec (.triggerArmWrite 0 n data bus) s = .next t ∧
      t.fld (R.TRIG_STATUS_armed n) = 0 ∧ t.out = .pin n (t.actFld (R.TRIG_CFG_idle n) == 1) :: s.out ∧
      OtherRegs s t [R.TRIG_CFG n, R.TRIG_STATUS n] ∧
      t = { s with out := t.out, regs := t.regs, active := t.active, hst := t.hst, pfc := t.pfc, tim := t.tim }) ∧
  (∀ (s : State) (n : Nat) (bus : Bus),
    n < 8 → s.isFsync n = false → s.fld (R.TRIG_STATUS_armed n) = 1 →
    ∃ t, exec (.triggerFire n bus) s = .next t ∧
      t.fld (R.TRIG_STATUS_fires n) = satAdd 16 (s.fld (R.TRIG_STATUS_fires n)) 1 ∧
      (s.actFld (R.TRIG_PERIOD_ns n) = 0 → t.fld (R.TRIG_STATUS_armed n) = 0) ∧
      (s.actFld (R.TRIG_PERIOD_ns n) ≠ 0 → t.fld (R.TRIG_STATUS_armed n) = 1 ∧ (t.trig n).next = (s.trig n).next + s.actFld (R.TRIG_PERIOD_ns n)) ∧
      (∀ g, g < 16 → (s.actFld (R.TRIG_ACT_groups n)).testBit g = true → s.fld (R.CLP_GROUP_CFG_source g) = 0 →
      Store.get (fun _ => none) s.clp.arms g = none → Store.get (fun _ => none) t.clp.arms g = some ((s.trig n).next, none)) ∧
      (∀ k, k ≠ n → t.trig k = s.trig k) ∧
      t = { s with out := t.out, regs := t.regs, ledger := t.ledger, dram := t.dram, cmd := t.cmd, clp := t.clp, pfc := t.pfc, eth := t.eth, tim := t.tim }) ∧
  (∀ (s : State) (k : Nat) (rising : Bool),
    k < 4 → s.fld (R.CAP_CFG_enable k) = 1 → s.fld (if rising then R.CAP_CFG_rising k else R.CAP_CFG_falling k) = 1 →
    (s.capIn k).last = none → (s.capIn k).fifo.length < 16 →
    ∃ t, exec (.captureEdge k rising) s = .next t ∧
      (t.capIn k).fifo = (s.capIn k).fifo ++ [(s.now, rising)] ∧ (t.capIn k).last = some s.ptp.f ∧
      t.fld (R.CAP_STATUS_entries k) = (s.capIn k).fifo.length + 1 ∧ (∀ j, j ≠ k → t.capIn j = s.capIn j) ∧
      OtherRegs s t [R.CAP_STATUS k, R.CAP_TIME k] ∧ t = { s with regs := t.regs, tim := t.tim }) ∧
  (∀ (s : State) (k : Nat),
    k < 4 →
    ∃ t, exec (.capTimeRead 0 k) s = .next t ∧
      t.out = .readData 0 (R.CAP_TIME k) (leBytes 8 (s.fld (R.CAP_TIME_time k))) false :: s.out ∧
      (t.capIn k).fifo = (s.capIn k).fifo.drop 1 ∧
      t.fld (R.CAP_STATUS_entries k) = ((s.capIn k).fifo.length - 1) % 2 ^ (R.CAP_STATUS_entries k).w ∧
      (∀ j, j ≠ k → t.capIn j = s.capIn j) ∧ OtherRegs s t [R.CAP_STATUS k, R.CAP_TIME k] ∧
      t = { s with out := t.out, regs := t.regs, hst := t.hst, pfc := t.pfc, tim := t.tim })

/-- A write of bytes to module addresses changes no physical byte but the places of its bytes and, in an ECC window, the check
bytes of their accesses, and no register but the DRAM counts; one byte written to a mapped place outside ECC reads back. A
BAR4 write of a client that can reach it is such a write where it fits the client's window; where it does not, its overflow is
counted as a drop and nothing past the window changes. A BAR4 read answers the bytes of the window and zeros past its end. A
write of the client's own ring window, of a ring in module DRAM, within the ring and its DRAM window, is such a write; one of
another client's page, of a ring not in module DRAM or past its end is dropped and counted. -/
def Obligations.ModuleDramKeepsWhatIsWritten : Prop :=
  (∀ (s : State) (ma : Nat) (data : List Byte),
    (∀ key, s.touched ma data.length key = false → (s.memWrite ma data).phys key = s.phys key) ∧
    OtherRegs s (s.memWrite ma data) dramCounts) ∧
  (∀ (s : State) (ma w ch bank row col : Nat) (x : Byte),
    s.placeOf ma = .at_ w ch bank row col → s.fld (R.DMC_WIN_CFG_iecc w) = 0 →
    (s.memWrite ma [x]).maByte ma = x) ∧
  (∀ (s : State) (client off : Nat) (data : List Byte),
    s.reachable client = true → off + data.length ≤ (s.dramWindow client).2 →
    ∃ t, exec (.bar4Access client off true data 0) s = .next t ∧
      (∀ key, s.touched ((s.dramWindow client).1 + off) data.length key = false → t.phys key = s.phys key) ∧
      (data ≠ [] → t = s.memWrite ((s.dramWindow client).1 + off) data) ∧ OtherRegs s t dramCounts ∧
      t = { s with regs := t.regs, ledger := t.ledger, dram := t.dram, cmd := t.cmd }) ∧
  (∀ (s : State) (client off len : Nat),
    s.reachable client = true →
    ∃ t, exec (.bar4Access client off false [] len) s = .next t ∧
      (∃ bad, t.out = .readData client off ((List.range (min len ((s.dramWindow client).2 - off))).map (fun j => s.maByte ((s.dramWindow client).1 + off + j)) ++
      List.replicate (len - min len ((s.dramWindow client).2 - off)) 0) bad :: s.out) ∧
      OtherRegs s t dramCounts ∧ t = { s with out := t.out, regs := t.regs, ledger := t.ledger, cmd := t.cmd }) ∧
  (∀ (s : State) (client off : Nat) (data : List Byte),
    s.reachable client = true → (s.dramWindow client).2 < off + data.length →
    ∃ t, exec (.bar4Access client off true data 0) s = .next t ∧
      t.fld (R.HST_FN_DROPS_count client) = satAdd 32 (s.fld (R.HST_FN_DROPS_count client)) 1 ∧
      (∀ key, s.touched ((s.dramWindow client).1 + off) ((s.dramWindow client).2 - off) key = false → t.phys key = s.phys key) ∧
      t = { s with regs := t.regs, ledger := t.ledger, dram := t.dram, cmd := t.cmd }) ∧
  (∀ (s : State) (client r off a : Nat) (data : List Byte),
    s.reachable client = true → client < 16 → r < 16 → ringAddr (s.reg (R.CMD_SQ_BASE (16 * client + r))) 64 0 = (true, a) →
    off + data.length ≤ 64 * s.sqSize (16 * client + r) → s.mayReach client (a + off) data.length = true →
    ∃ t, exec (.ringWindowWrite client client r off data) s = .next t ∧
      t = s.memWrite (a + off) data ∧ (∀ key, s.touched (a + off) data.length key = false → t.phys key = s.phys key) ∧
      OtherRegs s t dramCounts ∧ t = { s with regs := t.regs, ledger := t.ledger, dram := t.dram, cmd := t.cmd }) ∧
  (∀ (s : State) (client page r off : Nat) (data : List Byte),
    s.reachable client = true →
    client ≠ 0 ∧ page ≠ client ∨ (ringAddr (s.reg (R.CMD_SQ_BASE (16 * page + r))) 64 0).1 = false ∨ 64 * s.sqSize (16 * page + r) < off + data.length →
    ∃ t, exec (.ringWindowWrite client page r off data) s = .next t ∧
      t = s.drop client ∧ t = { s with regs := t.regs })

/-- In a quad not in self-refresh: a refresh due of a channel in service, for a bank with queued requests and fewer than seven
owed, is postponed; an idle channel pulls refreshes in to eight ahead, counted; MR4 keeps the rate polled. An idle quad in
service begins and then enters self-refresh with its clock stopped and nothing owed, and a request that waits wakes it with
the clock at its point's rate. A change of point first holds the quad, and with its queues empty and nothing waiting ends at
the point asked, with the other set point, posted. With nobody waiting, a gathering step ends with the figures of the channels
in service, others' kept. A channel mapped out, with nothing waiting, leaves DMC_CH_OK, its queued requests end, the record
(unless the journal is read only) and the event go out, and other channels stay. -/
def Obligations.QuadsRefreshSleepAndRetime : Prop :=
  (∀ (s : State) (ch b : Nat),
    ch < 32 → s.quadState (ch / 8) ≠ 2 → (s.fld R.DMC_CH_OK_ok).testBit ch = true → b = Store.get (fun _ => 0) s.dmc.nextBank ch →
    b < 16 → (s.chQueue ch).any (fun r => r.bank == b) = true → s.owedOf ch b < 7 →
    ∃ t, exec (.refreshDue ch) s = .next t ∧
      t.owedOf ch b = s.owedOf ch b + 1 ∧ Store.get (fun _ => 0) t.dmc.nextBank ch = (b + 1) % 16 ∧ t.chQueue ch = s.chQueue ch ∧
      t = { s with dmc := t.dmc }) ∧
  (∀ (s : State) (ch b : Nat),
    ch < 32 → s.quadState (ch / 8) ≠ 2 → (s.fld R.DMC_CH_OK_ok).testBit ch = true → b = Store.get (fun _ => 0) s.dmc.nextBank ch →
    s.chQueue ch = [] →
    ∃ t, exec (.refreshDue ch) s = .next t ∧
      t.owedOf ch b = -8 ∧
      t.fld (R.DMC_CH_CNT_count ch 6) = satAdd 32 (s.fld (R.DMC_CH_CNT_count ch 6)) (s.owedOf ch b + 9).toNat ∧
      OtherRegs s t [R.DMC_CH_CNT ch 6] ∧ t = { s with regs := t.regs, dmc := t.dmc }) ∧
  (∀ (s : State) (ch rate : Nat),
    ch < 32 → s.quadState (ch / 8) ≠ 2 →
    ∃ t, exec (.mr4Poll ch rate) s = .next t ∧
      Store.get (fun _ => 0) t.dmc.mr4 ch = rate ∧
      (∀ k, k ≠ ch → Store.get (fun _ => 0) t.dmc.mr4 k = Store.get (fun _ => 0) s.dmc.mr4 k) ∧
      t.dmc = { s.dmc with mr4 := t.dmc.mr4 } ∧ t = { s with dmc := t.dmc }) ∧
  (∀ (s : State) (j : Nat),
    j < 4 → s.quadIdle j = true → s.quadState j = 0 →
    ∃ t, exec (.selfRefreshEntry j) s = .next t ∧
      t = s.setQuad j 1 ∧ t.quadState j = 1 ∧ OtherRegs s t [R.DMC_QUAD_STATUS j] ∧ t = { s with regs := t.regs }) ∧
  (∀ (s : State) (j : Nat),
    j < 4 → s.quadIdle j = true → s.quadState j = 1 →
    ∃ t, exec (.selfRefreshEntry j) s = .next t ∧
      t.quadState j = 2 ∧ t.fld (R.PWC_DOMAIN_depth (15 + j)) = 2 ∧ t.fld (R.PWC_CLK_running (14 + j)) = 0 ∧
      (∀ k, k < 8 → ∀ b, b < 16 → t.owedOf (8 * j + k) b = 0) ∧ t = { s with regs := t.regs, hst := t.hst, dmc := t.dmc }) ∧
  (∀ (s : State) (j : Nat),
    j < 4 → s.quadState j = 2 → s.quadWanted j = true → s.hst.held = [] →
    ∃ t, exec (.selfRefreshExit j) s = .next t ∧
      t.quadState j = 0 ∧ t.fld (R.PWC_DOMAIN_depth (15 + j)) = 0 ∧ t.fld (R.PWC_CLK_running (14 + j)) = 1 ∧
      t.fld (R.PWC_CLK_mhz (14 + j)) = s.fld (R.DMC_OP_rate (s.fld (R.DMC_QUAD_STATUS_point j))) / 2 % 2 ^ (R.PWC_CLK_mhz (14 + j)).w ∧
      t = { s with out := t.out, regs := t.regs, ledger := t.ledger, dram := t.dram, cmd := t.cmd, hst := t.hst, pwc := t.pwc, dmc := t.dmc }) ∧
  (∀ (s : State) (j : Nat) (c : OpChange),
    j < 4 → s.changeOf j = some c → s.quadState j < 3 →
    ∃ t, exec (.opPointChange j) s = .next t ∧
      t = s.setQuad j 3 ∧ t.quadState j = 3 ∧ OtherRegs s t [R.DMC_QUAD_STATUS j] ∧ t = { s with regs := t.regs }) ∧
  (∀ (s : State) (j : Nat) (c : OpChange),
    j < 4 → s.changeOf j = some c → s.quadState j = 3 → s.quadIdle j = true → c.point < 4 →
    c.point ≠ s.fld (R.DMC_QUAD_STATUS_point j) → c.waiter = none → s.dmc.waiting = [] → s.hst.held = [] →
    ∃ t, exec (.opPointChange j) s = .next t ∧
      t.quadState j = 0 ∧ t.fld (R.DMC_QUAD_STATUS_point j) = c.point ∧
      t.fld (R.DMC_QUAD_STATUS_fsp j) = (1 - s.fld (R.DMC_QUAD_STATUS_fsp j)) ∧ t.changeOf j = none ∧
      t.cmd.events = s.cmd.events ++ [⟨0x0903, j, c.point + 4 * bit c.thermal, s.now, none, none, none⟩] ∧
      t = { s with regs := t.regs, cmd := t.cmd, hst := t.hst, pwc := t.pwc, dmc := t.dmc }) ∧
  (∀ (s : State) (j : Nat) (trims : List Byte) (figures : List Nat),
    j < 4 → s.quadState j = 5 → Store.get (fun _ => []) s.dmc.gathers j = [] →
    ∃ t, exec (.gatheringStep j trims figures) s = .next t ∧
      t.quadState j = 0 ∧
      (∀ i, i < 8 → t.reg (R.CAL_DRAM_FIG (8 * j + i)) = if (s.fld R.DMC_CH_OK_ok).testBit (8 * j + i)
      then BitVec.ofNat 64 (figures.getD i 0 % 2 ^ 48 + 2 ^ 60) else s.reg (R.CAL_DRAM_FIG (8 * j + i))) ∧
      t = { s with regs := t.regs, cmd := t.cmd, hst := t.hst, spl := t.spl, pwc := t.pwc, dmc := t.dmc }) ∧
  (∀ (s : State) (ch : Nat),
    ch < 32 → (s.fld R.DMC_CH_OK_ok).testBit ch = true → s.dmc.waiting = [] →
    ∃ t, exec (.channelMapOut ch 1) s = .next t ∧
      (t.fld R.DMC_CH_OK_ok).testBit ch = false ∧ t.fld R.DMC_CAP_channels = popCount 32 (t.fld R.DMC_CH_OK_ok) ∧
      t.chQueue ch = [] ∧
      (∀ k, k < 32 → k ≠ ch → (t.fld R.DMC_CH_OK_ok).testBit k = (s.fld R.DMC_CH_OK_ok).testBit k ∧ t.chQueue k = s.chQueue k) ∧
      t.cmd.events = s.cmd.events ++ [⟨0x0900, ch, 1 + 256 * popCount 32 (t.fld R.DMC_CH_OK_ok), s.now, none, none, none⟩] ∧
      (s.fld R.SPL_STATUS_read_only ≠ 1 → t.spl.queue = s.spl.queue ++ [{ kind := 8, key := ch, body := [1] }]) ∧
      t = { s with out := t.out, regs := t.regs, ledger := t.ledger, cmd := t.cmd, spl := t.spl, dmc := t.dmc })

/-- A request to a mapped place, of a channel not held and a quad in service, with room in the queue, enters the queue last, with
its time, and is counted; a read takes the 64 bytes it will return, a one-byte write outside ECC changes its byte there and
then and no other. A request to a quad in self-refresh waits, counted. A read in no window is counted with its address and
answers zeros in error. The read that the channel's rule chooses, with nothing waiting, leaves the queue, is counted and
returns its data; where link ECC is on and could not correct it, in error and counted. -/
def Obligations.DramRequestsAreServedInOrder : Prop :=
  (∀ (s : State) (ma w k bank row col : Nat) (urgent : Bool),
    s.placeOf ma = .at_ w k bank row col → k < 32 → s.spanHeld ma = false → s.quadState (k / 8) = 0 → s.chHeld k = false →
    (s.chQueue k).length < 64 →
    ∃ t, exec (.dramRequestAccept ma false urgent []) s = .next t ∧
      t.chQueue k = s.chQueue k ++ [⟨ma / 64 * 64, w, bank, row, false, urgent, (List.range 64).map fun i => s.maByte (ma / 64 * 64 + i), s.ptp.f⟩] ∧
      t.fld (R.DMC_CH_CNT_count k 0) = satAdd 32 (s.fld (R.DMC_CH_CNT_count k 0)) 1 ∧
      t.fld (R.DMC_CH_CNT_count k 3) = ((s.chQueue k).length + 1) % 2 ^ 32 ∧ t.dram = s.dram ∧
      OtherRegs s t [R.DMC_CH_CNT k 0, R.DMC_CH_CNT k 3] ∧
      t = { s with out := t.out, regs := t.regs, ledger := t.ledger, dram := t.dram, cmd := t.cmd, dmc := t.dmc }) ∧
  (∀ (s : State) (ma w k bank row col : Nat) (x : Byte),
    s.placeOf ma = .at_ w k bank row col → k < 32 → s.spanHeld ma = false → s.quadState (k / 8) = 0 → s.chHeld k = false →
    (s.chQueue k).length < 64 → s.fld (R.DMC_WIN_CFG_iecc w) = 0 →
    ∃ t, exec (.dramRequestAccept ma true false [x]) s = .next t ∧
      t.maByte ma = x ∧ (∀ key, s.touched ma 1 key = false → t.phys key = s.phys key) ∧
      t.chQueue k = s.chQueue k ++ [⟨ma / 64 * 64, w, bank, row, true, false, [], s.ptp.f⟩] ∧
      OtherRegs s t [R.DMC_CH_CNT k 0, R.DMC_CH_CNT k 3] ∧
      t = { s with out := t.out, regs := t.regs, ledger := t.ledger, dram := t.dram, cmd := t.cmd, dmc := t.dmc }) ∧
  (∀ (s : State) (ma w k bank row col : Nat) (write urgent : Bool) (data : List Byte),
    s.placeOf ma = .at_ w k bank row col → k < 32 → s.quadState (k / 8) = 2 →
    ∃ t, exec (.dramRequestAccept ma write urgent data) s = .next t ∧
      t.dmc = { s.dmc with waiting := s.dmc.waiting ++ [⟨ma, write, urgent, data⟩] } ∧
      t.fld (R.DMC_CH_CNT_count k 12) = satAdd 32 (s.fld (R.DMC_CH_CNT_count k 12)) 1 ∧ OtherRegs s t [R.DMC_CH_CNT k 12] ∧
      t = { s with regs := t.regs, dmc := t.dmc }) ∧
  (∀ (s : State) (ma : Nat),
    s.placeOf ma = .unmapped → s.spanHeld ma = false →
    ∃ t, exec (.dramRequestAccept ma false false []) s = .next t ∧
      t.out = .dramRead ma (List.replicate 64 0) true :: s.out ∧
      t.fld R.DMC_UNMAPPED_count = satAdd R.DMC_UNMAPPED_count.w (s.fld R.DMC_UNMAPPED_count) 1 ∧
      t.fld R.DMC_UNMAPPED_ma = ma % 2 ^ 36 ∧ OtherRegs s t [R.DMC_UNMAPPED] ∧
      t = { s with out := t.out, regs := t.regs, cmd := t.cmd }) ∧
  (∀ (s : State) (ch i inlineFixed : Nat) (aged : Bool) (r : DramReq),
    ch < 32 → (s.drainWrites ch).chooseReq ch = some (i, aged) → (s.chQueue ch)[i]? = some r → r.write = false →
    s.dmc.waiting = [] →
    ∃ t, exec (.dramRequestServe ch 0 inlineFixed 0) s = .next t ∧
      t.out = .dramRead r.ma r.data false :: s.out ∧ t.chQueue ch = (s.chQueue ch).eraseIdx i ∧
      t.fld (R.DMC_CH_CNT_count ch 1) = satAdd 32 (s.fld (R.DMC_CH_CNT_count ch 1)) 1 ∧ t.dram = s.dram ∧
      OtherRegs s t ((List.range 16).map (R.DMC_CH_CNT ch)) ∧
      t = { s with out := t.out, regs := t.regs, ledger := t.ledger, dram := t.dram, cmd := t.cmd, dmc := t.dmc }) ∧
  (∀ (s : State) (ch i : Nat) (aged : Bool) (r : DramReq),
    ch < 32 → (s.drainWrites ch).chooseReq ch = some (i, aged) → (s.chQueue ch)[i]? = some r → r.write = false →
    s.dmc.waiting = [] → s.fld R.DMC_CFG_link_ecc = 1 →
    ∃ t, exec (.dramRequestServe ch 0 0 2) s = .next t ∧
      t.out = .dramRead r.ma r.data true :: s.out ∧
      t.fld (R.DMC_CH_CNT_count ch 10) = satAdd 32 (s.fld (R.DMC_CH_CNT_count ch 10)) 1 ∧
      t.chQueue ch = (s.chQueue ch).eraseIdx i ∧
      t = { s with out := t.out, regs := t.regs, ledger := t.ledger, dram := t.dram, cmd := t.cmd, dmc := t.dmc })

/-- With no request waiting: a dispatched CHANNEL_SERVICE that removes a channel in service, not the last, takes it out of
DMC_CH_OK and replies DONE; one that runs to return a channel that trained puts it back with its bytes zero, other channels'
bytes as they were, and ends DONE. A WINDOW_SET that meets every test, with the channels' queues empty, writes its window and
ends DONE; one with a fault is refused with BAD_PARAM and its reason and changes nothing else. A DRAM_OP_SET of one quad to
another point that its ceiling allows, with room and no change under way, replies DEFERRED and sets the change. A full
DRAM_TRAIN of one quad and point, with room and no training or change under way, replies DEFERRED and puts the quad into
training; when the quad is idle it ends DONE, in service, with the trims as a record unless the journal is read only. -/
def Obligations.DramCommandsServiceWindowsPointsAndTraining : Prop :=
  (∀ (s : State) (bus : Bus) (id : Nat) (trained : Bool) (c : Cmd),
    Startable s id .channelService c → c.flag 9 0 = false → s.fld R.DMC_CH_OK_ok ≠ 2 ^ c.pb 8 0 5 →
    (s.fld R.DMC_CH_OK_ok).testBit (c.pb 8 0 5) = true → s.dmc.waiting = [] →
    ∃ t, exec (.channelService id bus trained) s = .next t ∧
      (t.fld R.DMC_CH_OK_ok).testBit (c.pb 8 0 5) = false ∧ t.cmd.replies = (s.finishOne c).cmd.replies ∧
      t = { s with out := t.out, regs := t.regs, ledger := t.ledger, cmd := t.cmd, spl := t.spl, dmc := t.dmc }) ∧
  (∀ (s : State) (bus : Bus) (id : Nat) (c : Cmd),
    s.cmdOf id = some c → c.opcode = Op.channelService.code → c.phase = .running → c.flag 9 0 = true →
    s.chQueue (c.pb 8 0 5) = [] → s.dmc.waiting = [] →
    ∃ t, exec (.channelService id bus true) s = .next t ∧
      (t.fld R.DMC_CH_OK_ok).testBit (c.pb 8 0 5) = true ∧ t.dmc.returning = none ∧
      (∀ key, t.phys key = if key / 0x80000000 = c.pb 8 0 5 then 0 else s.phys key) ∧
      t.cmd.replies = (s.finishOne c).cmd.replies ∧
      t = { s with out := t.out, regs := t.regs, ledger := t.ledger, dram := t.dram, cmd := t.cmd, spl := t.spl, dmc := t.dmc }) ∧
  (∀ (s : State) (bus : Bus) (id w : Nat) (c : Cmd),
    Startable s id .windowSet c → w = c.pb 8 0 3 → c.flag 9 0 = true →
    s.windowFault w (c.flag 9 3) (c.pb 10 0 3) (c.pb 11 0 5) (c.pb 12 0 12) (c.p 14 2) (c.p 16 1) = 0 →
    (∀ k, k < 32 → s.chQueue k = []) → s.dmc.waiting = [] → s.dmc.spans = [] →
    ∃ t, exec (.windowSet id bus) s = .next t ∧
      t.fld (R.DMC_WIN_CFG_enable w) = 1 ∧ t.fld (R.DMC_WIN_CFG_order w) = c.pb 9 1 2 ∧
      t.fld (R.DMC_WIN_CFG_iecc w) = bit (c.flag 9 3) ∧ t.fld (R.DMC_WIN_CFG_e w) = c.pb 10 0 3 ∧
      t.fld (R.DMC_WIN_CFG_c0 w) = c.pb 11 0 5 ∧ t.fld (R.DMC_WIN_BASE_base w) = c.pb 12 0 12 ∧
      t.fld (R.DMC_WIN_ROWS_row0 w) = c.p 14 2 ∧ t.fld (R.DMC_WIN_ROWS_rows512 w) = c.p 16 1 ∧
      OtherRegs s t [R.DMC_WIN_CFG w, R.DMC_WIN_BASE w, R.DMC_WIN_ROWS w] ∧ t.cmd = (s.finishOne c).cmd ∧
      t.out = (s.finishOne c).out ∧ t.dmc = s.dmc ∧ t = { s with out := t.out, regs := t.regs, cmd := t.cmd }) ∧
  (∀ (s : State) (bus : Bus) (id : Nat) (c : Cmd),
    Startable s id .windowSet c → c.flag 9 0 = true →
    s.windowFault (c.pb 8 0 3) (c.flag 9 3) (c.pb 10 0 3) (c.pb 11 0 5) (c.pb 12 0 12) (c.p 14 2) (c.p 16 1) ≠ 0 →
    s.dmc.waiting = [] → s.dmc.spans = [] →
    ∃ t, exec (.windowSet id bus) s = .next t ∧
      t = s.refuse c stBadParam (s.windowFault (c.pb 8 0 3) (c.flag 9 3) (c.pb 10 0 3) (c.pb 11 0 5) (c.pb 12 0 12) (c.p 14 2) (c.p 16 1)) ∧
      t = { s with cmd := t.cmd }) ∧
  (∀ (s : State) (bus : Bus) (id j : Nat) (c : Cmd),
    Startable s id .dramOpSet c → setBits 4 (c.pb 8 0 4) = [j] → s.quadCeiling j ≤ c.pb 9 0 2 →
    c.pb 9 0 2 ≠ s.fld (R.DMC_QUAD_STATUS_point j) → s.changeOf j = none → s.deferFull c = false →
    ∃ t, exec (.dramOpSet id bus) s = .next t ∧
      t.changeOf j = some ⟨c.pb 9 0 2, false, some (id, 0)⟩ ∧ t.cmd = (s.defer c 1).cmd ∧ t.regs = s.regs ∧
      t = { s with cmd := t.cmd, dmc := t.dmc }) ∧
  (∀ (s : State) (bus : Bus) (id j k : Nat) (c : Cmd) (fails : List Nat) (trims : List Byte),
    Startable s id .dramTrain c → setBits 4 (c.pb 8 0 4) = [j] → setBits 4 (c.pb 9 0 4) = [k] → c.flag 10 0 = true →
    s.dmc.trains = [] → s.quadState j = 0 → s.changeOf j = none → s.deferFull c = false → s.hst.held = [] →
    ∃ t, exec (.dramTrain id bus fails trims) s = .next t ∧
      t.dmc.trains = [⟨id, 0, j, k⟩] ∧ t.quadState j = 4 ∧ t.cmd = (s.defer c 1).cmd ∧
      t = { s with regs := t.regs, ledger := t.ledger, cmd := t.cmd, hst := t.hst, pwc := t.pwc, dmc := t.dmc }) ∧
  (∀ (s : State) (bus : Bus) (id : Nat) (x : TrainItem) (c : Cmd) (trims : List Byte),
    s.dmc.trains = [x] → x.cmd = id → x.quad < 4 → x.item = 0 → s.quadState x.quad = 4 → s.quadIdle x.quad = true →
    s.dmc.waiting = [] → s.hst.held = [] → s.cmdOf id = some c → c.phase = .deferred → c.items = [none] →
    ∃ t, exec (.dramTrain id bus [] trims) s = .next t ∧
      t.dmc.trains = [] ∧ t.quadState x.quad = 0 ∧
      t.cmd.replies = (s.finishAs { c with items := [some ⟨stDone, 0, 0⟩] } [⟨stDone, 0, 0⟩]).cmd.replies ∧
      (s.fld R.SPL_STATUS_read_only ≠ 1 → t.spl.queue = s.spl.queue ++ [{ kind := 3, key := 4 * x.quad + x.point, body := trims }]) ∧
      t = { s with out := t.out, regs := t.regs, cmd := t.cmd, hst := t.hst, spl := t.spl, pwc := t.pwc, dmc := t.dmc })

/-- A dispatched COMP_JOB with a fault is refused with its status and reason and changes nothing else; a good one waits for a
unit, timed from now. A free unit, with engines allowed and no Trastos unit waiting, takes the job that the rule picks, shown
with its requester and client, and its domain wakes. A software job between client memories that take it, with no context to
resume and no item list, writes its output, then its context, and ends its command with its outcome's item; the unit is free.
A good BLIT_JOB waits, with room to defer where it has a watermark; a faulty one is refused with its status and reason. The
idle block engine takes the waiting job fetched first, counts and shows it. A fill without watermark, overlap or item list
writes no byte but those of its rows, ends DONE with the rows as value, and BLK_LAST tells it. A watermark of a fill counts,
replies DEFERRED with its time and has touched no byte past its row. Other units stay. -/
def Obligations.CompressionAndBlockJobsRunWriteAndReply : Prop :=
  (∀ (s : State) (bus : Bus) (id : Nat) (c : Cmd) (st r : Nat),
    Startable s id .compJob c → c.compArgs.fault c = some (st, r) →
    ∃ t, exec (.compJob id bus) s = .next t ∧
      t = s.refuse c st r ∧ t = { s with cmd := t.cmd }) ∧
  (∀ (s : State) (bus : Bus) (id : Nat) (c : Cmd),
    Startable s id .compJob c → c.compArgs.fault c = none →
    ∃ t, exec (.compJob id bus) s = .next t ∧
      t.cmp.waiting = s.cmp.waiting ++ [⟨bit c.compArgs.deflate, 3, c.compArgs.srcLen, c.compArgs.dstLen, s.ptp.f, c.client, [id], []⟩] ∧
      t.cmd.replies = s.cmd.replies ∧ t.cmdOf id = some { c with phase := .running, items := [none] } ∧
      t = { s with cmd := t.cmd, cmp := t.cmp }) ∧
  (∀ (s : State) (u : Nat) (j : CmpJob),
    u < 12 → s.unitJob u = none → s.enginesMay = true → s.hst.held = [] → s.trs.units = [] → s.pickJob u = some j →
    ∃ t, exec (.compressionJobStart u) s = .next t ∧
      t.unitJob u = some j ∧ t.cmp.waiting = s.cmp.waiting.erase j ∧ t.fld (R.CMP_UNIT_STATUS_busy u) = 1 ∧
      t.fld (R.CMP_UNIT_STATUS_requester u) = j.cls % 4 ∧ t.fld (R.CMP_UNIT_STATUS_client u) = j.client % 16 ∧
      t.fld (R.PWC_DOMAIN_depth 25) = 0 ∧ (∀ v, v ≠ u → t.unitJob v = s.unitJob v) ∧
      t = { s with regs := t.regs, ledger := t.ledger, cmd := t.cmd, cmp := t.cmp }) ∧
  (∀ (s : State) (u : Nat) (bus : Bus) (j : CmpJob) (c : Cmd) (src : List Byte) (e : JobEnd),
    s.unitJob u = some j → j.cls = 3 → s.cmdOf (j.who.headD 0) = some c →
    c.compArgs.resume = false ∧ c.compArgs.srcDram = false ∧ c.compArgs.dstDram = false ∧ c.compArgs.ctxDram = false →
    busRead bus c.compArgs.src c.compArgs.srcLen = some src → c.compArgs.work src [] s.freeVal = e →
    busFails bus c.compArgs.dst e.out.length = false → busFails bus c.compArgs.ctx (e.context u s.now).length = false →
    c.itemList = false →
    ∃ t, exec (.compressionJobEnd u bus) s = .next t ∧
      t.unitJob u = none ∧
      t.out = .hostWrite c.client c.compArgs.ctx (e.context u s.now) ::
      ((if e.out = [] then [] else [.hostWrite c.client c.compArgs.dst e.out]) ++ s.out) ∧
      t.cmd.replies = (s.finishAs c [e.item]).cmd.replies ∧ (∀ v, v ≠ u → t.unitJob v = s.unitJob v) ∧
      t.reg (R.CMP_UNIT_STATUS u) = 0 ∧
      t = { s with out := t.out, free := t.free, regs := t.regs, ledger := t.ledger, cmd := t.cmd, cmp := t.cmp }) ∧
  (∀ (s : State) (bus : Bus) (id : Nat) (c : Cmd) (st r : Nat),
    Startable s id .blitJob c → c.blitArgs.fault c = some (st, r) →
    ∃ t, exec (.blitJob id bus) s = .next t ∧
      t = s.refuse c st r ∧ t = { s with cmd := t.cmd }) ∧
  (∀ (s : State) (bus : Bus) (id : Nat) (c : Cmd),
    Startable s id .blitJob c → c.blitArgs.fault c = none → c.blitArgs.wm = false ∨ s.deferFull c = false →
    ∃ t, exec (.blitJob id bus) s = .next t ∧
      t.blk.waiting = s.blk.waiting ++ [id] ∧ t.cmd.replies = s.cmd.replies ∧ t.term blkFetched = s.term blkFetched + 1 ∧
      OtherRegs s t [R.BLK_STATUS] ∧ t = { s with regs := t.regs, ledger := t.ledger, cmd := t.cmd, blk := t.blk }) ∧
  (∀ (s : State) (c : Cmd) (i id : Nat) (rest : List Nat),
    s.blk.running = none → s.blk.waiting = i :: rest → id = rest.foldl min i → s.enginesMay = true → s.cmdOf id = some c →
    s.hst.held = [] →
    ∃ t, exec (.blockJobStart) s = .next t ∧
      t.blk.running = some ⟨id, 0, c.blitArgs.overlaps⟩ ∧ t.blk.waiting = s.blk.waiting.filter (· != id) ∧
      t.fld R.BLK_STATUS_busy = 1 ∧ t.fld R.BLK_STATUS_op = c.blitArgs.op ∧ t.fld R.BLK_STATUS_client = c.client % 16 ∧
      t.fld (R.BLK_CNT_count 0) = satAdd 32 (s.fld (R.BLK_CNT_count 0)) 1 ∧
      OtherRegs s t [R.BLK_STATUS, R.BLK_CNT 0, R.PWC_DOMAIN 25, R.PWC_CLK 27] ∧
      t = { s with regs := t.regs, ledger := t.ledger, hst := t.hst, blk := t.blk }) ∧
  (∀ (s : State) (bus : Bus) (c : Cmd) (j : BlkJob),
    s.blk.running = some j → s.cmdOf j.cmd = some c → c.blitArgs.op = 0 → c.blitArgs.wm = false → j.overlap = false →
    j.rows ≤ c.blitArgs.h → c.itemList = false →
    ∃ t, exec (.blockJobEnd bus) s = .next t ∧
      (∀ key, (∀ i, i < c.blitArgs.h → s.touched (c.blitArgs.dstRow i).1 (c.blitArgs.dstRow i).2 key = false) → t.phys key = s.phys key) ∧
      t.blk.running = none ∧ t.fld R.BLK_LAST_rows = c.blitArgs.h % 2 ^ 15 ∧ t.fld R.BLK_LAST_TAG_tag = c.tag ∧
      t.fld (R.BLK_CNT_count 1) = satAdd 32 (s.fld (R.BLK_CNT_count 1)) 1 ∧
      t.cmd.replies = (s.finishAs c [⟨stDone, 0, c.blitArgs.h⟩]).cmd.replies ∧
      OtherRegs s t ([R.BLK_STATUS, R.BLK_LAST, R.BLK_LAST_TAG, R.BLK_CNT 1, R.BLK_CNT 5] ++ dramCounts) ∧
      t = { s with out := t.out, regs := t.regs, ledger := t.ledger, dram := t.dram, cmd := t.cmd, blk := t.blk }) ∧
  (∀ (s : State) (c : Cmd) (j : BlkJob),
    s.blk.running = some j → s.cmdOf j.cmd = some c → c.blitArgs.op = 0 → c.blitArgs.wm = true → c.phase = .running →
    ∃ t, exec (.blockWatermark) s = .next t ∧
      t.cmd.replies = s.cmd.replies ++ [⟨c.id, c.client, c.ring, c.opcode, stDeferred, c.tag, 1, 0, 0, 0, false, c.notify, some s.now⟩] ∧
      t.fld (R.BLK_CNT_count 4) = satAdd 32 (s.fld (R.BLK_CNT_count 4)) 1 ∧
      (∀ key, (∀ i, i ≤ c.blitArgs.wmRow → s.touched (c.blitArgs.dstRow i).1 (c.blitArgs.dstRow i).2 key = false) → t.phys key = s.phys key) ∧
      OtherRegs s t ([R.BLK_STATUS, R.BLK_CNT 4, R.BLK_CNT 5] ++ dramCounts) ∧
      t = { s with free := t.free, regs := t.regs, ledger := t.ledger, dram := t.dram, cmd := t.cmd, blk := t.blk })

/-- A conversion due of a sensor that may convert, with no sample before it, normal, below every threshold and in a zone not in
CRIT nor above WARN, is shown valid, without a rate, and counts. One that reaches WARN and HOT alone, with no truing pass,
counts, posts THM_THRESHOLD and raises its zone by one. Without a truing pass a zone step raises a zone in HOT or above by
one, counted where it is not at 7, and lowers one at normal, with no sensor rising, at its tenth step. SHUT, of a module
neither shut nor locked out, names its sensor, closes every client's command with status THERMAL, drops what DRAM holds and
cuts every domain but AON and, while a record is programmed, MGT. The program's end cuts MGT; a late cut is marked and leaves
a torn record. A dispatched THERMAL_SET with rising thresholds within their bounds writes them for its sensors and ends DONE
with an item each; thresholds not rising are refused with reason 2. A THERMAL_SAMPLE of one sensor that may convert converts
it, writes its 16-byte record to memory that takes it and ends DONE. -/
def Obligations.SensorsZonesAndTheCutAtShut : Prop :=
  (∀ (s : State) (n : Nat) (x : Int),
    s.convertible n = true → s.fld R.THM_CFG_mode = 0 ∨ (s.sensor n).next ≤ s.ptp.f → (s.sensor n).samples = [] →
    s.sensorState n = 0 → s.zoneState (sensorZone n) < 2 → s.fld (R.THM_ZONE_crit (sensorZone n)) = 0 →
    x < s.threshold n 1 ∧ x < s.threshold n 2 ∧ x < s.threshold n 3 ∧ x < s.threshold n 4 →
    ∃ t, exec (.sensorConversion n x) s = .next t ∧
      t.fld (R.THM_TEMP_temp n) = toField 16 x ∧ t.fld (R.THM_TEMP_valid n) = 1 ∧ t.fld (R.THM_TEMP_base_only n) = 1 ∧
      t.sensorState n = 0 ∧ t.fld (R.THM_CNT_count 0) = satAdd 32 (s.fld (R.THM_CNT_count 0)) 1 ∧
      (t.sensor n).samples = [⟨s.ptp.f, x, s.now⟩] ∧ (∀ m, m ≠ n → t.sensor m = s.sensor m) ∧
      OtherRegs s t [R.THM_TEMP n, R.THM_CNT 0, R.THM_ZONE (sensorZone n)] ∧ t = { s with regs := t.regs, pwc := t.pwc }) ∧
  (∀ (s : State) (n : Nat) (x : Int),
    s.convertible n = true → s.fld R.THM_CFG_mode = 0 ∨ (s.sensor n).next ≤ s.ptp.f → (s.sensor n).samples = [] →
    s.sensorState n = 0 → s.zoneState (sensorZone n) < 2 → s.fld (R.THM_ZONE_crit (sensorZone n)) = 0 → s.cal.pass = none →
    s.hst.held = [] → s.threshold n 1 ≤ x ∧ s.threshold n 2 ≤ x ∧ x < s.threshold n 3 ∧ x < s.threshold n 4 →
    ∃ t, exec (.sensorConversion n x) s = .next t ∧
      t.fld (R.THM_TEMP_temp n) = toField 16 x ∧ t.sensorState n = 2 ∧
      t.fld (R.THM_CNT_count 2) = satAdd 32 (s.fld (R.THM_CNT_count 2)) 1 ∧
      t.fld (R.THM_ZONE_level (sensorZone n)) = min 7 (s.fld (R.THM_ZONE_level (sensorZone n)) + 1) ∧
      t.cmd.events.take (s.cmd.events.length + 1) = s.cmd.events ++ [⟨0x0200, n, 2 + 4 + toField 16 x * 65536, s.now, none, none, none⟩] ∧
      t = { s with out := t.out, regs := t.regs, pwc := t.pwc, cmd := t.cmd, eng := t.eng, dmc := t.dmc }) ∧
  (∀ (s : State) (z : Nat),
    z < 16 → 2 ≤ s.zoneState z → s.cal.pass = none → s.hst.held = [] →
    ∃ t, exec (.zoneStep z) s = .next t ∧
      t.fld (R.THM_ZONE_level z) = min 7 (s.fld (R.THM_ZONE_level z) + 1) ∧ Store.get (fun _ => 0) t.pwc.zoneTicks z = 0 ∧
      t.fld (R.THM_CNT_count 5) = (if s.fld (R.THM_ZONE_level z) < 7 then satAdd 32 (s.fld (R.THM_CNT_count 5)) 1 else s.fld (R.THM_CNT_count 5)) ∧
      t = { s with out := t.out, regs := t.regs, cmd := t.cmd, eng := t.eng, pwc := t.pwc, dmc := t.dmc }) ∧
  (∀ (s : State) (z : Nat),
    z < 16 → s.zoneState z = 0 → (zoneSensors z).all (fun n => (s.sensor n).surge == 0) = true →
    Store.get (fun _ => 0) s.pwc.zoneTicks z = 9 → s.fld (R.THM_ZONE_level z) ≠ 0 → s.cal.pass = none → s.hst.held = [] →
    ∃ t, exec (.zoneStep z) s = .next t ∧
      t.fld (R.THM_ZONE_level z) = s.fld (R.THM_ZONE_level z) - 1 ∧ t.fld (R.THM_ZONE_surge_hold z) = 0 ∧
      Store.get (fun _ => 0) t.pwc.zoneTicks z = 0 ∧ t.fld (R.THM_CNT_count 5) = s.fld (R.THM_CNT_count 5) ∧
      t = { s with out := t.out, regs := t.regs, cmd := t.cmd, eng := t.eng, pwc := t.pwc, dmc := t.dmc }) ∧
  (∀ (s : State) (n : Nat),
    n < 104 → s.pwc.shut = false ∧ s.pwc.locked = false →
    ∃ t, exec (.shutTrip n) s = .next t ∧
      t.pwc.shut = true ∧ t.cmd.inflight.all (fun c => decide (16 ≤ c.client)) = true ∧
      t.flt.closed = s.flt.closed ++ (s.cmd.inflight.filter fun c => decide (c.client < 16)).map (fun c => s.entryOf c stThermal) ∧
      t.dram = [] ∧ t.dmc.waiting = [] ∧ t.fld R.THM_SHUT_CAUSE_sensor = n ∧ t.fld R.THM_SHUT_CAUSE_valid = 1 ∧
      t.fld R.THM_SHUT_CAUSE_nvm_wait = bit s.nvmBusy ∧ t.fld R.THM_SHUT_CAUSE_late_cut = 0 ∧
      t.fld R.THM_SHUT_CAUSE_erase_suspended = bit s.spl.erasing.isSome ∧
      t.fld (R.THM_CNT_count 6) = satAdd 32 (s.fld (R.THM_CNT_count 6)) 1 ∧
      (∀ d, (2 ≤ d ∧ d < 26) → (t.fld (R.PWC_DOMAIN_depth d) = 3 ∧ t.fld (R.PWC_CLK_mhz (domainClock d)) = 0 ∧ t.fld (R.PWC_CLK_running (domainClock d)) = 0)) ∧
      t.fld (R.PWC_DOMAIN_depth 1) = (if s.nvmBusy then s.fld (R.PWC_DOMAIN_depth 1) else 3) ∧
      t = { s with free := t.free, regs := t.regs, ledger := t.ledger, dram := t.dram, cmd := t.cmd, flt := t.flt, dmg := t.dmg, sch := t.sch, pnl := t.pnl, pwc := t.pwc, dmc := t.dmc }) ∧
  (∀ (s : State),
    s.pwc.shut = true → s.fld (R.PWC_DOMAIN_depth 1) ≠ 3 →
    ∃ t, exec (.shutNvmProgramEnd true) s = .next t ∧
      t.fld R.THM_SHUT_CAUSE_late_cut = 1 ∧ t.fld (R.PWC_DOMAIN_depth 1) = 3 ∧ t.fld (R.PWC_CLK_running 3) = 0 ∧
      t.spl = { s.spl with programmed := !s.spl.queue.isEmpty } ∧ OtherRegs s t [R.THM_SHUT_CAUSE, R.PWC_DOMAIN 1, R.PWC_CLK 3] ∧
      t = { s with regs := t.regs, spl := t.spl }) ∧
  (∀ (s : State),
    s.pwc.shut = true → s.fld (R.PWC_DOMAIN_depth 1) ≠ 3 →
    ∃ t, exec (.shutNvmProgramEnd false) s = .next t ∧
      t = s.commitRecord.cutMgt ∧ t.fld (R.PWC_DOMAIN_depth 1) = 3 ∧ t.pwc = s.pwc ∧
      t = { s with regs := t.regs, ledger := t.ledger, cmd := t.cmd, hst := t.hst, dmg := t.dmg, sch := t.sch, eng := t.eng, pnl := t.pnl, spl := t.spl, cal := t.cal }) ∧
  (∀ (s : State) (bus : Bus) (id : Nat) (c : Cmd),
    Startable s id .thermalSet c → c.pb 8 0 7 + c.pb 9 0 7 ≤ 104 ∧ 0 < c.pb 9 0 7 →
    c.p 10 1 < c.p 11 1 ∧ c.p 11 1 < c.p 12 1 ∧ c.p 12 1 < c.p 13 1 → 100 ≤ c.p 13 1 ∧ c.p 13 1 ≤ 125 →
    1 ≤ c.pb 14 0 4 ∧ c.pb 14 0 4 ≤ 10 → 5 ≤ c.p 15 1 → c.itemList = false →
    ∃ t, exec (.thermalSet id bus) s = .next t ∧
      (∀ n, (c.pb 8 0 7 ≤ n ∧ n < c.pb 8 0 7 + c.pb 9 0 7) → (t.fld (R.THM_THRESH_warn n) = c.p 10 1 ∧ t.fld (R.THM_THRESH_hot n) = c.p 11 1 ∧ t.fld (R.THM_THRESH_crit n) = c.p 12 1 ∧ t.fld (R.THM_THRESH_shut n) = c.p 13 1 ∧ t.fld (R.THM_THRESH_hyst n) = c.pb 14 0 4 ∧ t.fld (R.THM_THRESH_rise n) = c.p 15 1)) ∧
      OtherRegs s t ((List.range (c.pb 9 0 7)).map fun i => R.THM_THRESH (c.pb 8 0 7 + i)) ∧
      t.cmd.replies = s.cmd.replies ++ [⟨c.id, c.client, c.ring, c.opcode, stDone, c.tag, c.pb 9 0 7, c.pb 9 0 7, 0, 0, true, c.notify, none⟩] ∧
      t = { s with regs := t.regs, cmd := t.cmd }) ∧
  (∀ (s : State) (bus : Bus) (id : Nat) (c : Cmd),
    Startable s id .thermalSet c → c.pb 8 0 7 + c.pb 9 0 7 ≤ 104 ∧ 0 < c.pb 9 0 7 →
    ¬ (c.p 10 1 < c.p 11 1 ∧ c.p 11 1 < c.p 12 1 ∧ c.p 12 1 < c.p 13 1) →
    ∃ t, exec (.thermalSet id bus) s = .next t ∧
      t = s.refuse c stBadParam 2 ∧ t = { s with cmd := t.cmd }) ∧
  (∀ (s : State) (bus : Bus) (id : Nat) (c : Cmd) (n : Nat) (x : Int) (t1 : State),
    Startable s id .thermalSample c → c.pb 16 0 7 = n → c.pb 17 0 7 = 1 → n < 104 →
    t1 = (if (s.convert n x).fld R.THM_CFG_mode = 1 then s.convert n x else (s.convert n x).schedule n) → t1.cmdOf id = some c →
    c.itemList = false → busFails bus (c.p 8 8) 16 = false → s.convertible n = true →
    ∃ t, exec (.thermalSample id bus [x]) s = .next t ∧
      t.out = .hostWrite c.client (c.p 8 8) (t1.sensorRecord n false ((s.sensor n).rise s.ptp.f x)) :: t1.out ∧
      t.regs = (s.convert n x).regs ∧ t.pwc = t1.pwc ∧
      t.cmd.replies = t1.cmd.replies ++ [⟨c.id, c.client, c.ring, c.opcode, stDone, c.tag, 1, 1, 0, 0, true, c.notify, none⟩] ∧
      t = { s with out := t.out, free := t.free, regs := t.regs, ledger := t.ledger, dram := t.dram, cmd := t.cmd, hst := t.hst, flt := t.flt, dmg := t.dmg, sch := t.sch, eng := t.eng, trs := t.trs, dec := t.dec, pnl := t.pnl, spl := t.spl, pwc := t.pwc, cal := t.cal, wvl := t.wvl, dmc := t.dmc, cmp := t.cmp, blk := t.blk, pfc := t.pfc })

/-- Not locked out, a VIN sample shows VIN, power and tier, and posts PWR_TIER at a change. Without a truing pass: at a governor
step over the limit the level rises by one, below 7, and limiting shows; below 85 per cent of it the bent shed last, already
awake, is shed no more. The compression domain with idle engines gates, or goes off with its clock. Power failure and
overvoltage close every client's command with status POWER, abandon DRAM and cut every domain but AON and MGT, which keep
theirs. With MGT on and the journal not read only nor half written, the power-fail record is committed once. The lockout cuts
all domains but AON, loses DRAM and marks a torn record. POWER_STATE_SET to the present state is DONE; one to HIBERNATE or
DEEP keeps the wake sources and timer and waits; once it alone is in flight it replies DONE; when that is written HIBERNATE
sheds every domain but AON and MGT, which gates, shows the state and posts it, DRAM kept. One to STANDBY posts and ends once
its domains are down. -/
def Obligations.SupplySleepPowerFailureAndStates : Prop :=
  (∀ (s : State) (vin pin : Nat),
    s.pwc.locked = false → vin < 65536 → pin < 65536 →
    ∃ t, exec (.vinSample vin pin) s = .next t ∧
      t.fld R.PWC_VIN_vin = vin ∧ t.fld R.PWC_VIN_pin = pin ∧ t.fld R.PWC_STATUS_tier = tierAt (s.fld R.PWC_STATUS_tier) vin ∧
      t.cmd.events = (if tierAt (s.fld R.PWC_STATUS_tier) vin = s.fld R.PWC_STATUS_tier then s.cmd.events else s.cmd.events ++ [⟨0x0203, 0, tierAt (s.fld R.PWC_STATUS_tier) vin + vin / 100 * 65536, s.now, none, none, none⟩]) ∧
      t.fld R.PWC_STATUS_gov_level = s.fld R.PWC_STATUS_gov_level ∧ OtherRegs s t [R.PWC_VIN, R.PWC_STATUS] ∧
      t = { s with regs := t.regs, cmd := t.cmd }) ∧
  (∀ (s : State) (p : Nat),
    100 * s.powerLimit < p → s.fld R.PWC_STATUS_gov_level < 7 → s.cal.pass = none → s.hst.held = [] →
    ∃ t, exec (.governorStep 1 p) s = .next t ∧
      t.fld R.PWC_STATUS_gov_level = s.fld R.PWC_STATUS_gov_level + 1 ∧ t.fld R.PWC_STATUS_limiting = 1 ∧
      t.fld R.PWC_STATUS_tier = s.fld R.PWC_STATUS_tier ∧ t.pwc = s.pwc ∧
      t = { s with out := t.out, regs := t.regs, cmd := t.cmd, eng := t.eng, dmc := t.dmc }) ∧
  (∀ (s : State) (b : Nat) (rest : List Nat) (p : Nat),
    s.pwc.shed = b :: rest → b < 8 → 100 * p < 85 * (100 * s.powerLimit) → s.fld (R.ENG_BENT_STATUS_state b) ≠ 0 →
    s.cal.pass = none → s.hst.held = [] →
    ∃ t, exec (.governorStep 4 p) s = .next t ∧
      t.pwc = { s.pwc with shed := rest } ∧ t.fld R.PWC_STATUS_gov_level = s.fld R.PWC_STATUS_gov_level ∧
      t.fld R.PWC_STATUS_shed = rest.length % 16 ∧
      t = { s with regs := t.regs, cmd := t.cmd, hst := t.hst, eng := t.eng, pwc := t.pwc, dmc := t.dmc }) ∧
  (∀ (s : State) (depth : Nat),
    depth = 1 ∨ depth = 3 → s.fld (R.PWC_DOMAIN_depth 25) < depth → s.enginesIdle = true →
    ∃ t, exec (.domainSleep 25 depth) s = .next t ∧
      t.fld (R.PWC_DOMAIN_depth 25) = depth ∧ t.fld (R.PWC_DOMAIN_wakes 25) = s.fld (R.PWC_DOMAIN_wakes 25) ∧
      t.fld (R.PWC_CLK_running 27) = 0 ∧ t.fld (R.PWC_CLK_mhz 27) = (if depth = 1 then s.fld (R.PWC_CLK_mhz 27) else 0) ∧
      OtherRegs s t [R.PWC_DOMAIN 25, R.PWC_CLK 27] ∧ t = { s with regs := t.regs }) ∧
  (∀ (s : State) (i : Instr),
    i = .powerFailure ∨ i = .vinOvervoltage → s.pwc.failed = false ∧ s.pwc.shut = false ∧ s.pwc.locked = false →
    ∃ t, exec i s = .next t ∧
      t.pwc = { s.pwc with failed := true, failedAt := s.ptp.f, recordDone := false } ∧
      t.cmd.inflight.all (fun c => decide (16 ≤ c.client)) = true ∧
      t.flt.closed = s.flt.closed ++ (s.cmd.inflight.filter fun c => decide (c.client < 16)).map (fun c => s.entryOf c stPower) ∧
      t.fld R.PWC_PFAIL_occurred = 1 ∧ t.fld R.PWC_PFAIL_committed = 0 ∧ t.dram = [] ∧ t.dmc.waiting = [] ∧
      (∀ d, (2 ≤ d ∧ d < 26) → t.fld (R.PWC_DOMAIN_depth d) = 3) ∧ t.reg (R.PWC_DOMAIN 1) = s.reg (R.PWC_DOMAIN 1) ∧
      t.reg (R.PWC_DOMAIN 0) = s.reg (R.PWC_DOMAIN 0) ∧
      t = { s with out := t.out, free := t.free, regs := t.regs, ledger := t.ledger, dram := t.dram, cmd := t.cmd, hst := t.hst, flt := t.flt, dmg := t.dmg, sch := t.sch, pnl := t.pnl, pwc := t.pwc, dmc := t.dmc }) ∧
  (∀ (s : State),
    s.pwc.failed = true ∧ s.pwc.recordDone = false ∧ s.pwc.locked = false → s.fld (R.PWC_DOMAIN_depth 1) = 0 →
    s.fld R.SPL_STATUS_read_only = 0 → s.spl.programmed = false →
    ∃ t, exec (.powerFailRecordCommit) s = .next t ∧
      t.fld R.PWC_PFAIL_committed = 1 ∧ t.pwc = { s.pwc with recordDone := true } ∧ t.spl.queue = [] ∧ t.spl.programmed = false ∧
      t.spl.records.length = s.spl.records.length + 1 ∧ (t.spl.records.getLast?.map Record.kind) = some 9 ∧
      t.fld R.SPL_SEQ_seq = (s.fld R.SPL_SEQ_seq + 1) % 2 ^ 64 ∧ t = { s with regs := t.regs, spl := t.spl, pwc := t.pwc }) ∧
  (∀ (s : State),
    s.pwc.locked = false →
    ∃ t, exec (.undervoltageLockout) s = .next t ∧
      t.pwc = { s.pwc with locked := true } ∧ t.flt = { s.flt with boot := .dark } ∧
      t.spl = { s.spl with programmed := !s.spl.queue.isEmpty } ∧ t.dram = [] ∧
      (∀ d, (1 ≤ d ∧ d < 26) → t.fld (R.PWC_DOMAIN_depth d) = 3) ∧ t.cmd.inflight = s.cmd.inflight ∧
      t = { s with free := t.free, regs := t.regs, ledger := t.ledger, dram := t.dram, flt := t.flt, dmg := t.dmg, sch := t.sch, pnl := t.pnl, spl := t.spl, pwc := t.pwc, dmc := t.dmc }) ∧
  (∀ (s : State) (bus : Bus) (late : Bool) (id : Nat) (c : Cmd),
    Startable s id .powerStateSet c → s.pwc.setting = none → c.pb 8 0 2 = s.fld R.PWC_STATUS_state → c.itemList = false →
    ∃ t, exec (.powerStateSet id bus late) s = .next t ∧
      t.cmd.replies = s.cmd.replies ++ [⟨c.id, c.client, c.ring, c.opcode, stDone, c.tag, 1, 1, 0, 0, true, c.notify, none⟩] ∧
      t = { s with cmd := t.cmd }) ∧
  (∀ (s : State) (bus : Bus) (late : Bool) (id : Nat) (c : Cmd),
    Startable s id .powerStateSet c → s.pwc.setting = none → 2 ≤ c.pb 8 0 2 ∧ c.pb 8 0 2 ≠ s.fld R.PWC_STATUS_state →
    c.pb 9 0 3 = 1 → s.cmd.inflight = [c] → c.isOpen = true →
    ∃ t, exec (.powerStateSet id bus late) s = .next t ∧
      t.pwc = { s.pwc with setting := some (id, c.pb 8 0 2), wake := 1, timer := c.p 16 8 } ∧ t.cmd = (s.hold c).cmd ∧
      t = { s with pwc := t.pwc, cmd := t.cmd }) ∧
  (∀ (s : State) (bus : Bus) (id st : Nat) (c : Cmd),
    s.pwc.setting = some (id, st) → 2 ≤ st → s.cmd.inflight = [c] → c.id = id ∧ c.phase = .running → c.itemList = false →
    ∃ t, exec (.powerStateSet id bus false) s = .next t ∧
      t.cmd.replies = s.cmd.replies ++ [⟨c.id, c.client, c.ring, c.opcode, stDone, c.tag, 1, 1, 0, 0, true, c.notify, none⟩] ∧
      t.pwc = s.pwc ∧ t = { s with cmd := t.cmd }) ∧
  (∀ (s : State) (bus : Bus) (id : Nat),
    s.pwc.setting = some (id, 2) → s.cmdOf id = none →
    ∃ t, exec (.powerStateSet id bus false) s = .next t ∧
      t.dram = s.dram ∧ t.fld (R.PWC_DOMAIN_depth 1) = 2 ∧ (∀ d, (2 ≤ d ∧ d < 26) → t.fld (R.PWC_DOMAIN_depth d) = 3) ∧
      t.fld R.PWC_STATUS_state = 2 ∧ t.cmd.events.getLast? = some ⟨0x0205, 0, 2, s.now, none, none, none⟩ ∧
      t.pwc = { s.pwc with setting := none } ∧
      t = { s with free := t.free, regs := t.regs, ledger := t.ledger, dram := t.dram, cmd := t.cmd, dmg := t.dmg, sch := t.sch, eng := t.eng, pnl := t.pnl, lan := t.lan, spl := t.spl, pwc := t.pwc, dmc := t.dmc, blk := t.blk }) ∧
  (∀ (s : State) (bus : Bus) (late : Bool) (id : Nat) (c : Cmd),
    s.pwc.setting = some (id, 1) → s.standbyReady = true → s.cmdOf id = some c → c.phase = .deferred ∧ c.items = [none] →
    c.itemList = false →
    ∃ t, exec (.powerStateSet id bus late) s = .next t ∧
      t.fld R.PWC_STATUS_state = 1 ∧ t.pwc = { s.pwc with setting := none } ∧
      t.cmd.events = s.cmd.events ++ [⟨0x0205, 0, 1, s.now, none, none, none⟩] ∧
      t.cmd.replies = s.cmd.replies ++ [⟨c.id, c.client, c.ring, c.opcode, stDone, c.tag, 1, 1, 0, 0, true, c.notify, none⟩] ∧
      t = { s with regs := t.regs, cmd := t.cmd, pwc := t.pwc, hst := t.hst, dmc := t.dmc, lan := t.lan })

/-- With automatic calibration on, the journal writable and no CAL_RUN waiting for the item, a measured class A target of an item
not frozen that differs and is not too soon becomes a record to be written, and one too soon is counted and not applied; DRAM
trims not frozen, with no record in force, become one. A slew tick moves a DAC one step to its target and shows whether it
slews; a temperature table may set the target first. A dispatched CAL_RUN past the last item, or of none, is refused with
reason 1; one of one item not frozen, with room, replies DEFERRED and waits for its measurement. A CAL_ROLLBACK of one class A
item at depth 0 with the freeze flag, without an item list, freezes it, replies DEFERRED and ends DONE; one at depth 1 to 3,
without flags, puts the older record down to be written again, and replies DEFERRED. Other items keep their values. -/
def Obligations.CalibrationsCommitAndTrimsSlew : Prop :=
  (∀ (s : State) (i x : Nat),
    i < 128 → s.cal.runs.find? (fun r => r.2.2 == i) = none → s.fld R.CAL_CFG_auto_a = 1 → s.fld (R.CAL_ITEM_STATE_freeze i) = 0 →
    x < 16384 ∧ x ≠ s.fld (R.CAL_ITEM_STATE_target i) → s.fld R.SPL_STATUS_read_only = 0 →
    s.fld (R.CAL_ITEM_COUNT_count i) = 0 ∨ s.fld (R.CAL_ITEM_TIME_time i) + s.fld R.CAL_CFG_min_commit * 60000000000 ≤ s.now →
    ∃ t, exec (.calibration false i [x] true) s = .next t ∧
      t.spl = { s.spl with queue := s.spl.queue ++ [{ kind := 1, key := i, body := leBytes 2 x ++ leBytes 4 (s.fld (R.CAL_ITEM_COUNT_count i) + 1) }] } ∧
      t = { s with spl := t.spl }) ∧
  (∀ (s : State) (i x : Nat),
    i < 128 → s.cal.runs.find? (fun r => r.2.2 == i) = none → s.fld R.CAL_CFG_auto_a = 1 → s.fld (R.CAL_ITEM_STATE_freeze i) = 0 →
    x < 16384 ∧ x ≠ s.fld (R.CAL_ITEM_STATE_target i) → s.fld R.SPL_STATUS_read_only = 0 →
    s.fld (R.CAL_ITEM_COUNT_count i) ≠ 0 ∧ s.now < s.fld (R.CAL_ITEM_TIME_time i) + s.fld R.CAL_CFG_min_commit * 60000000000 →
    ∃ t, exec (.calibration false i [x] true) s = .next t ∧
      t.fld (R.CAL_CNT_count 7) = satAdd 32 (s.fld (R.CAL_CNT_count 7)) 1 ∧ OtherRegs s t [R.CAL_CNT 7] ∧
      t = { s with regs := t.regs }) ∧
  (∀ (s : State) (key : Nat) (trims : List Nat),
    s.fld R.CAL_CFG_auto_dram = 1 → s.cal.frozenDram.contains key = false → s.inForce 3 key = none →
    s.fld R.SPL_STATUS_read_only = 0 →
    ∃ t, exec (.calibration true key trims true) s = .next t ∧
      t.spl = { s.spl with queue := s.spl.queue ++ [{ kind := 3, key := key, body := trims.map (BitVec.ofNat 8) }] } ∧
      t = { s with spl := t.spl }) ∧
  (∀ (s : State) (i : Nat),
    i < 128 →
    ∃ t, exec (.trimSlewTick i none) s = .next t ∧
      t.fld (R.CAL_ITEM_STATE_target i) = s.fld (R.CAL_ITEM_STATE_target i) ∧
      t.fld (R.CAL_ITEM_STATE_freeze i) = s.fld (R.CAL_ITEM_STATE_freeze i) ∧
      (s.fld (R.CAL_ITEM_STATE_dac i) < s.fld (R.CAL_ITEM_STATE_target i) → t.fld (R.CAL_ITEM_STATE_dac i) = s.fld (R.CAL_ITEM_STATE_dac i) + 1) ∧
      (s.fld (R.CAL_ITEM_STATE_target i) < s.fld (R.CAL_ITEM_STATE_dac i) → t.fld (R.CAL_ITEM_STATE_dac i) + 1 = s.fld (R.CAL_ITEM_STATE_dac i)) ∧
      (s.fld (R.CAL_ITEM_STATE_dac i) = s.fld (R.CAL_ITEM_STATE_target i) → t.fld (R.CAL_ITEM_STATE_dac i) = s.fld (R.CAL_ITEM_STATE_dac i)) ∧
      t.fld (R.CAL_ITEM_STATE_slewing i) = bit (t.fld (R.CAL_ITEM_STATE_dac i) != t.fld (R.CAL_ITEM_STATE_target i)) ∧
      OtherRegs s t [R.CAL_ITEM_STATE i] ∧ t = { s with regs := t.regs }) ∧
  (∀ (s : State) (i x : Nat),
    i < 128 → x < 16384 →
    ∃ t, exec (.trimSlewTick i (some x)) s = .next t ∧
      t.fld (R.CAL_ITEM_STATE_target i) = x ∧ OtherRegs s t [R.CAL_ITEM_STATE i] ∧ t = { s with regs := t.regs }) ∧
  (∀ (s : State) (bus : Bus) (id : Nat) (c : Cmd),
    Startable s id .calRun c → c.p 9 1 = 0 ∨ 128 < c.pb 8 0 7 + c.p 9 1 →
    ∃ t, exec (.calRun id bus) s = .next t ∧
      t = s.refuse c stBadParam 1 ∧ t = { s with cmd := t.cmd }) ∧
  (∀ (s : State) (bus : Bus) (id : Nat) (c : Cmd),
    Startable s id .calRun c → c.p 9 1 = 1 ∧ c.pb 8 0 7 < 128 → s.deferFull c = false →
    s.fld (R.CAL_ITEM_STATE_freeze (c.pb 8 0 7)) = 0 →
    ∃ t, exec (.calRun id bus) s = .next t ∧
      t.cal = { s.cal with runs := s.cal.runs ++ [(id, 0, c.pb 8 0 7)] } ∧ t.cmd = (s.defer c 1).cmd ∧
      t = { s with cmd := t.cmd, cal := t.cal }) ∧
  (∀ (s : State) (bus : Bus) (id : Nat) (c : Cmd),
    Startable s id .calRollback c → s.deferFull c = false → c.pb 8 0 2 = 1 ∧ c.p 9 1 = 0 ∧ c.p 14 2 = 1 ∧ c.p 12 2 < 128 →
    c.flag 10 0 = true ∧ c.flag 10 1 = false → c.itemList = false →
    ∃ t, exec (.calRollback id bus) s = .next t ∧
      t.fld (R.CAL_ITEM_STATE_freeze (c.p 12 2)) = 1 ∧
      t.fld (R.CAL_ITEM_STATE_target (c.p 12 2)) = s.fld (R.CAL_ITEM_STATE_target (c.p 12 2)) ∧
      t.fld (R.CAL_ITEM_STATE_dac (c.p 12 2)) = s.fld (R.CAL_ITEM_STATE_dac (c.p 12 2)) ∧
      OtherRegs s t [R.CAL_ITEM_STATE (c.p 12 2)] ∧
      t.cmd.replies = (s.defer c 1).cmd.replies ++ [⟨c.id, c.client, c.ring, c.opcode, stDone, c.tag, 1, 1, 0, 0, true, c.notify, none⟩] ∧
      t = { s with regs := t.regs, cmd := t.cmd }) ∧
  (∀ (s : State) (bus : Bus) (id : Nat) (c : Cmd) (r : Record),
    Startable s id .calRollback c → s.deferFull c = false →
    c.pb 8 0 2 = 1 ∧ 1 ≤ c.p 9 1 ∧ c.p 9 1 ≤ 3 ∧ c.p 14 2 = 1 ∧ c.p 12 2 < 128 → c.flag 10 0 = false ∧ c.flag 10 1 = false →
    (s.recordsOf 1 (c.p 12 2))[c.p 9 1]? = some r → s.fld R.SPL_STATUS_read_only = 0 →
    ∃ t, exec (.calRollback id bus) s = .next t ∧
      t.spl = { s.spl with queue := s.spl.queue ++ [{ kind := 1, key := c.p 12 2, body := r.body.take 2 ++ leBytes 4 (s.fld (R.CAL_ITEM_COUNT_count (c.p 12 2)) + 1), rolledBack := true, source := r.seq, waiters := [(id, 0)], depth := c.p 9 1 }] } ∧
      t.cmd = (s.defer c 1).cmd ∧ t = { s with cmd := t.cmd, spl := t.spl })

/-- With the journal not read only: the oldest record to be written is programmed first and shows no effect; its marker then makes
it valid with the next sequence number, and a class A record measured here sets its item's target, count and time at that
commit only. With fewer than eight sectors free and no erase under way, a reclaim copies the kept records of the oldest sector
forward and writes a wear record; its erase ends once no copied record waits. A failed erase retires its sector with a wear
record and an event. A dispatched SPL_READ of one to 16 of the records of a key that has one writes it whole to memory that
takes it. A FW_WRITE of a good range, outside a trial, with no item list, fills its range of the inactive slot from memory
that delivers it, leaves the active slot alone and replies DEFERRED and DONE. FW_ACTIVATE of a good image verifies and marks
it; a confirmation outside a trial is refused with reason 1, one inside ends the trial, keeps the running slot and writes a
record; a cancel drops the mark. Registers not named stay. -/
def Obligations.TheStoryPoleAndFirmwareSlots : Prop :=
  (∀ (s : State) (n : NewRecord) (rest : List NewRecord),
    s.spl.queue = n :: rest → s.fld R.SPL_STATUS_read_only = 0 → s.spl.programmed = false →
    ∃ t, exec (.recordCommit) s = .next t ∧
      t.spl.programmed = true ∧ t.spl.queue = s.spl.queue ∧ t.spl.records = s.spl.records ∧ t.reg R.SPL_SEQ = s.reg R.SPL_SEQ ∧
      OtherRegs s t [R.SPL_STATUS, R.SPL_WEAR, R.SPL_WEAR_MIN] ∧ t = { s with regs := t.regs, spl := t.spl }) ∧
  (∀ (s : State) (n : NewRecord) (rest : List NewRecord),
    s.spl.queue = n :: rest → s.fld R.SPL_STATUS_read_only = 0 → s.spl.programmed = true →
    n.kind = 1 ∧ n.key < 128 ∧ n.rolledBack = false ∧ n.copied = false ∧ n.time = none ∧ n.waiters = [] →
    ∃ t, exec (.recordCommit) s = .next t ∧
      t.spl.programmed = false ∧ t.spl.queue = rest ∧
      t.spl.records = s.spl.records ++ [⟨1, n.key, false, false, n.body, s.fld R.SPL_SEQ_seq + 1, s.now, n.source, s.spl.written.getLast?.getD 0⟩] ∧
      t.fld R.SPL_SEQ_seq = (s.fld R.SPL_SEQ_seq + 1) % 2 ^ 64 ∧ t.fld (R.CAL_ITEM_STATE_target n.key) = leAt n.body 0 2 % 16384 ∧
      t.fld (R.CAL_ITEM_STATE_dac n.key) = s.fld (R.CAL_ITEM_STATE_dac n.key) ∧
      t.fld (R.CAL_ITEM_COUNT_count n.key) = (s.fld (R.CAL_ITEM_COUNT_count n.key) + 1) % 2 ^ 32 ∧
      t.fld (R.CAL_ITEM_TIME_time n.key) = s.now ∧ t.fld (R.CAL_CNT_count 0) = satAdd 32 (s.fld (R.CAL_CNT_count 0)) 1 ∧
      OtherRegs s t [R.SPL_STATUS, R.SPL_SEQ, R.SPL_CNT 0, R.SPL_CNT 1, R.CAL_CNT 0, R.CAL_ITEM_STATE n.key, R.CAL_ITEM_COUNT n.key, R.CAL_ITEM_TIME n.key] ∧
      t = { s with regs := t.regs, cmd := t.cmd, spl := t.spl, cal := t.cal }) ∧
  (∀ (s : State) (k m : Nat) (more : List Nat),
    s.spl.written = k :: m :: more → s.spl.erasing = none → s.fld R.SPL_STATUS_read_only = 0 → s.fld R.SPL_STATUS_free < 8 →
    ∃ t, exec (.journalReclaim) s = .next t ∧
      t.spl.erasing = some k ∧
      t.spl.queue = s.spl.queue ++ ((s.spl.records.filter fun r => r.sector == k && ((s.recordsOf r.kind r.key).take 4).contains r).map fun r => ({ kind := r.kind, key := r.key, body := r.body, rolledBack := r.rolledBack, copied := true, source := r.seq, time := some r.time } : NewRecord)) ++ [{ kind := 11, key := k, body := leBytes 4 (Store.get (fun _ => 0) s.spl.wear k + 1) ++ leBytes 1 0 }] ∧
      t.spl.records = s.spl.records ∧ t.spl.written = s.spl.written ∧
      t.fld (R.SPL_CNT_count 3) = satAdd 32 (s.fld (R.SPL_CNT_count 3)) (s.spl.records.filter fun r => r.sector == k && ((s.recordsOf r.kind r.key).take 4).contains r).length ∧
      OtherRegs s t [R.SPL_CNT 3] ∧ t = { s with regs := t.regs, spl := t.spl }) ∧
  (∀ (s : State) (k : Nat),
    s.spl.erasing = some k → s.spl.queue.any (fun n => n.copied) = false →
    ∃ t, exec (.sectorEraseDone) s = .next t ∧
      t.spl = { s.spl with erasing := none, written := s.spl.written.filter (· != k), records := s.spl.records.filter (fun r => r.sector != k), wear := Store.modify (fun _ => 0) s.spl.wear k (· + 1) } ∧
      Store.get (fun _ => 0) t.spl.wear k = Store.get (fun _ => 0) s.spl.wear k + 1 ∧
      t.fld (R.SPL_CNT_count 2) = satAdd 32 (s.fld (R.SPL_CNT_count 2)) 1 ∧ t.fld R.SPL_STATUS_erase_redone = 0 ∧
      OtherRegs s t [R.SPL_STATUS, R.SPL_WEAR, R.SPL_WEAR_MIN, R.SPL_CNT 2] ∧ t = { s with regs := t.regs, spl := t.spl }) ∧
  (∀ (s : State) (k : Nat),
    s.spl.erasing = some k → s.fld R.SPL_STATUS_read_only = 0 → s.spl.bad.length ≤ 1007 →
    ∃ t, exec (.splSectorRetired true) s = .next t ∧
      t.spl = { s.spl with bad := s.spl.bad ++ [k], erasing := none, queue := s.spl.queue ++ [{ kind := 11, key := k, body := leBytes 4 (Store.get (fun _ => 0) s.spl.wear k) ++ leBytes 1 1 }] } ∧
      t.fld R.SPL_STATUS_retired = s.spl.bad.length + 1 ∧ t.fld (R.SPL_CNT_count 5) = satAdd 32 (s.fld (R.SPL_CNT_count 5)) 1 ∧
      t.cmd.events = s.cmd.events ++ [⟨0x0400, 0, (k + (s.spl.bad.length + 1) * 1024) % 2 ^ 32, s.now, none, none, none⟩] ∧
      OtherRegs s t [R.SPL_STATUS, R.SPL_WEAR, R.SPL_WEAR_MIN, R.SPL_CNT 5] ∧
      t = { s with regs := t.regs, cmd := t.cmd, spl := t.spl }) ∧
  (∀ (s : State) (bus : Bus) (id : Nat) (c : Cmd) (r : Record),
    Startable s id .splRead c → 1 ≤ c.pb 20 0 5 ∧ c.pb 20 0 5 ≤ 16 → s.recordsOf (c.p 16 1) (c.p 18 2) = [r] →
    c.itemList = false → busFails bus (c.p 8 8) r.bytes.length = false →
    ∃ t, exec (.splRead id bus) s = .next t ∧
      t.out = .hostWrite c.client (c.p 8 8) r.bytes :: s.out ∧
      t.cmd.replies = s.cmd.replies ++ [⟨c.id, c.client, c.ring, c.opcode, stDone, c.tag, 1, 1, 0, 0, true, c.notify, none⟩] ∧
      t = { s with out := t.out, cmd := t.cmd }) ∧
  (∀ (s : State) (bus : Bus) (id : Nat) (c : Cmd),
    Startable s id .fwWrite c → c.p 16 4 % 4096 = 0 ∧ c.p 20 4 % 4096 = 0 ∧ 0 < c.p 20 4 ∧ c.p 20 4 ≤ 1048576 →
    c.p 16 4 + c.p 20 4 ≤ slotBytes → s.spl.trialMark = false ∧ s.fld R.SPL_FW_STATUS_trial = 0 ∧ s.deferFull c = false →
    busFails bus (c.p 8 8) (c.p 20 4) = false → c.itemList = false →
    ∃ t, exec (.fwWrite id bus) s = .next t ∧
      (∀ j, j < c.p 20 4 → t.slotByte s.otherSlot (c.p 16 4 + j) = busByte bus (c.p 8 8 + j)) ∧
      (∀ o, o < slotBytes → t.slotByte (s.fld R.SPL_FW_STATUS_active) o = s.slotByte (s.fld R.SPL_FW_STATUS_active) o) ∧
      t.fld R.SPL_FW_STATUS_verified = 0 ∧ t.fld (R.SPL_FW_VER_version s.otherSlot) = 0 ∧
      t.cmd.replies = (s.defer c 1).cmd.replies ++ [⟨c.id, c.client, c.ring, c.opcode, stDone, c.tag, 1, 1, 0, 0, true, c.notify, none⟩] ∧
      OtherRegs s t [R.SPL_FW_STATUS, R.SPL_FW_VER s.otherSlot] ∧ t = { s with regs := t.regs, cmd := t.cmd, spl := t.spl }) ∧
  (∀ (s : State) (bus : Bus) (id : Nat) (c : Cmd),
    Startable s id .fwActivate c → c.pb 8 0 2 = 0 → s.slotOk s.otherSlot = true → c.itemList = false →
    ∃ t, exec (.fwActivate id bus) s = .next t ∧
      t.spl = { s.spl with trialMark := true } ∧ t.fld R.SPL_FW_STATUS_verified = 1 ∧
      t.fld (R.SPL_FW_VER_version s.otherSlot) = s.slotField s.otherSlot 8 8 ∧
      t.fld R.SPL_FW_STATUS_fuse = s.fld R.SPL_FW_STATUS_fuse ∧ OtherRegs s t [R.SPL_FW_STATUS, R.SPL_FW_VER s.otherSlot] ∧
      t.cmd.replies = s.cmd.replies ++ [⟨c.id, c.client, c.ring, c.opcode, stDone, c.tag, 1, 1, 0, 0, true, c.notify, none⟩] ∧
      t = { s with regs := t.regs, cmd := t.cmd, spl := t.spl }) ∧
  (∀ (s : State) (bus : Bus) (id : Nat) (c : Cmd),
    Startable s id .fwActivate c → c.pb 8 0 2 = 1 → s.fld R.SPL_FW_STATUS_trial = 0 →
    ∃ t, exec (.fwActivate id bus) s = .next t ∧
      t = s.refuse c stBadParam 1 ∧ t = { s with cmd := t.cmd }) ∧
  (∀ (s : State) (bus : Bus) (id : Nat) (c : Cmd),
    Startable s id .fwActivate c → c.pb 8 0 2 = 1 → s.fld R.SPL_FW_STATUS_trial = 1 → c.itemList = false →
    s.fld R.SPL_STATUS_read_only = 0 →
    ∃ t, exec (.fwActivate id bus) s = .next t ∧
      t.fld R.SPL_FW_STATUS_trial = 0 ∧ t.fld R.SPL_FW_STATUS_active = s.spl.running % 2 ∧
      s.fld R.SPL_FW_STATUS_fuse ≤ t.fld R.SPL_FW_STATUS_fuse ∧
      t.spl = { s.spl with queue := s.spl.queue ++ [{ kind := 12, key := s.spl.running, body := leBytes 8 (s.slotField s.spl.running 8 8) }] } ∧
      OtherRegs s t [R.SPL_FW_STATUS] ∧ t = { s with regs := t.regs, cmd := t.cmd, spl := t.spl }) ∧
  (∀ (s : State) (bus : Bus) (id : Nat) (c : Cmd),
    Startable s id .fwActivate c → c.pb 8 0 2 = 2 → c.itemList = false →
    ∃ t, exec (.fwActivate id bus) s = .next t ∧
      t.spl = { s.spl with trialMark := false } ∧
      t.cmd.replies = s.cmd.replies ++ [⟨c.id, c.client, c.ring, c.opcode, stDone, c.tag, 1, 1, 0, 0, true, c.notify, none⟩] ∧
      t = { s with cmd := t.cmd, spl := t.spl })

/-- An ageing measurement of a bent that is on, with fewer than two plan records and the journal writable, shows the worst pair,
has no days left to tell, and writes its record. A pass that is due with every bent in service and nothing against it starts;
one forbidden or hot waits. A pass takes its next bent, in service and not frozen, by draining it; a bent in TRUING whose
lowest offset plus guard fits in 30 gets a record of that offset at ceiling 48 (1,200 MHz) and shows the worst pair. A
dispatched TRUING_RUN is refused with LIMIT_EXCEEDED where a pass is forbidden, and else, with every bent in service, no pass
and room, starts one of its bents and replies DEFERRED with an item each. -/
def Obligations.BentsAgeAndTruingPassesTrueThem : Prop :=
  (∀ (s : State) (b : Nat) (ds : List Nat),
    b < 8 → s.bentOn b = true → (s.recordsOf 4 b).length < 2 → s.fld R.SPL_STATUS_read_only = 0 →
    ∃ t, exec (.ageingMeasure b ds) s = .next t ∧
      t.fld (R.CAL_BENT_AGE_delta b) = min (worstDelta (ds.take 4)).1 65535 ∧
      t.fld (R.CAL_BENT_AGE_pair b) = (worstDelta (ds.take 4)).2 % 4 ∧
      t.spl = { s.spl with queue := s.spl.queue ++ [{ kind := 5, key := b, body := ds.flatMap (leBytes 4) }] } ∧
      t.fld (R.CAL_BENT_PLAN_days_left b) = 4095 ∧ t.fld (R.CAL_BENT_PLAN_low b) = 0 ∧
      t.fld (R.CAL_BENT_PLAN_offset b) = s.fld (R.CAL_BENT_PLAN_offset b) ∧ OtherRegs s t [R.CAL_BENT_AGE b, R.CAL_BENT_PLAN b] ∧
      t = { s with regs := t.regs, spl := t.spl }) ∧
  (∀ (s : State),
    s.fld R.CAL_TRUE_CFG_interval ≠ 0 → s.cal.pass = none → s.passForbidden = false → s.passHot = false →
    (List.range 8).all (fun b => s.fld (R.ENG_BENT_STATUS_state b) == 1) = true →
    ∃ t, exec (.truingPassDue) s = .next t ∧
      t.fld R.CAL_TRUE_STATUS_running = 1 ∧ t.fld R.CAL_TRUE_STATUS_waiting = 0 ∧ t.fld R.CAL_TRUE_STATUS_done = 0 ∧
      (∀ b, b < 8 → t.fld (R.CAL_TRUE_OUTCOME_outcome b) = 0) ∧
      t.fld (R.CAL_CNT_count 3) = satAdd 32 (s.fld (R.CAL_CNT_count 3)) 1 ∧
      t.cal = { s.cal with pass := some ⟨none, List.range 8, List.range 8, none, false⟩ } ∧
      OtherRegs s t ([R.CAL_TRUE_STATUS, R.CAL_CNT 3] ++ (List.range 8).map R.CAL_TRUE_OUTCOME) ∧
      t = { s with regs := t.regs, cal := t.cal }) ∧
  (∀ (s : State),
    s.fld R.CAL_TRUE_CFG_interval ≠ 0 → s.cal.pass = none → s.passForbidden = true ∨ s.passHot = true →
    ∃ t, exec (.truingPassDue) s = .next t ∧
      t.fld R.CAL_TRUE_STATUS_waiting = 1 ∧ t.fld R.CAL_TRUE_STATUS_running = s.fld R.CAL_TRUE_STATUS_running ∧
      OtherRegs s t [R.CAL_TRUE_STATUS] ∧ t = { s with regs := t.regs }) ∧
  (∀ (s : State) (offset ceiling : Option Nat) (ds : List Nat) (p : Pass) (b : Nat) (rest : List Nat),
    s.cal.pass = some p → p.cur = none → p.todo = b :: rest → b < 8 → s.fld (R.ENG_BENT_STATUS_state b) = 1 →
    s.cal.frozenBents.contains b = false →
    ∃ t, exec (.truingBent offset ceiling ds) s = .next t ∧
      t.cal = { s.cal with pass := some ⟨p.cmd, p.named, rest, some b, false⟩ } ∧ t.fld R.CAL_TRUE_STATUS_bent = b ∧
      t.fld (R.ENG_BENT_STATUS_state b) = 2 ∧ Store.get (fun _ => none) t.eng.bents b = some ⟨3, 0, []⟩ ∧
      t = { s with regs := t.regs, ledger := t.ledger, cmd := t.cmd, dmg := t.dmg, sch := t.sch, eng := t.eng, pnl := t.pnl, cal := t.cal }) ∧
  (∀ (s : State) (v : Nat) (ceiling : Option Nat) (ds : List Nat) (p : Pass) (b : Nat),
    s.cal.pass = some p → p.cur = some b → b < 8 → p.planned = false → s.fld (R.ENG_BENT_STATUS_state b) = 3 →
    v + s.fld R.CAL_TRUE_CFG_guard ≤ 30 → s.fld R.SPL_STATUS_read_only = 0 →
    ∃ t, exec (.truingBent (some v) ceiling ds) s = .next t ∧
      t.cal = { s.cal with pass := some ⟨p.cmd, p.named, p.todo, p.cur, true⟩ } ∧
      t.spl = { s.spl with queue := s.spl.queue ++ [{ kind := 4, key := b, body := leBytes 1 (v + s.fld R.CAL_TRUE_CFG_guard) ++ leBytes 1 48 ++ leBytes 2 (worstDelta (ds.take 4)).1 }] } ∧
      t.fld (R.CAL_BENT_AGE_delta b) = min (worstDelta (ds.take 4)).1 65535 ∧ OtherRegs s t [R.CAL_BENT_AGE b] ∧
      t = { s with regs := t.regs, spl := t.spl, cal := t.cal }) ∧
  (∀ (s : State) (bus : Bus) (id : Nat) (c : Cmd),
    Startable s id .truingRun c → s.passForbidden = true →
    ∃ t, exec (.truingRun id bus) s = .next t ∧
      t = s.refuse c stLimit 0 ∧ t = { s with cmd := t.cmd }) ∧
  (∀ (s : State) (bus : Bus) (id : Nat) (c : Cmd),
    Startable s id .truingRun c → s.cal.pass = none → s.deferFull c = false →
    (List.range 8).all (fun b => s.fld (R.ENG_BENT_STATUS_state b) == 1) = true → c.p 8 1 ≠ 0 →
    ∃ t, exec (.truingRun id bus) s = .next t ∧
      t.cal = { s.cal with pass := some ⟨some id, setBits 8 (c.p 8 1), setBits 8 (c.p 8 1), none, false⟩ } ∧
      t.fld R.CAL_TRUE_STATUS_running = 1 ∧ t.fld (R.CAL_CNT_count 3) = satAdd 32 (s.fld (R.CAL_CNT_count 3)) 1 ∧
      t.cmd = (s.defer c (setBits 8 (c.p 8 1)).length).cmd ∧
      OtherRegs s t ([R.CAL_TRUE_STATUS, R.CAL_CNT 3] ++ (List.range 8).map R.CAL_TRUE_OUTCOME) ∧
      t = { s with regs := t.regs, cmd := t.cmd, cal := t.cal })

/-- An enabled, programmed counter, not frozen, in a domain that is awake: an event adds one, or an occupancy its depth, to a
counter that is no odd one of a chained pair; a wrap of an even chained one goes to 0 and adds one to the odd; one not chained
goes to 0, sets overflow and posts, at most once in its period. A read by PF0 of an even chained counter latches the odd.
PFC_VAL of PF0 presets. A dispatched PFC_PROGRAM of PF0 with the clear flag, of one counter that can count the event its
memory names, programs it with count 0 and ends DONE; a range past the last counter is refused with reason 2. No other counter
changes. -/
def Obligations.CountersCountChainAndArePreset : Prop :=
  (∀ (s : State) (n d : Nat),
    n < 256 → s.fld (R.PFC_CTL_enable n) = 1 ∧ s.fld R.PFC_GLOBAL_freeze = 0 → s.fld (R.PFC_CTL_event n) ≠ 0 →
    isOccupancy (s.fld (R.PFC_CTL_event n)) = false → s.chainedOdd n = false → s.fld (R.PWC_DOMAIN_depth (counterDomain n)) = 0 →
    s.fld (R.PFC_VAL_count n) + 1 < 2 ^ 48 →
    ∃ t, exec (.counterEvent n d) s = .next t ∧
      t.fld (R.PFC_VAL_count n) = s.fld (R.PFC_VAL_count n) + 1 ∧ OtherRegs s t [R.PFC_VAL n] ∧ t = { s with regs := t.regs }) ∧
  (∀ (s : State) (n d : Nat),
    n < 256 ∧ n % 2 = 0 → s.fld (R.PFC_CTL_enable n) = 1 ∧ s.fld R.PFC_GLOBAL_freeze = 0 → s.fld (R.PFC_CTL_event n) ≠ 0 →
    isOccupancy (s.fld (R.PFC_CTL_event n)) = false → s.fld (R.PFC_CTL_chain n) = 1 →
    s.fld (R.PWC_DOMAIN_depth (counterDomain n)) = 0 → s.fld (R.PFC_VAL_count n) + 1 = 2 ^ 48 →
    s.fld (R.PFC_VAL_count (n + 1)) + 1 < 2 ^ 48 →
    ∃ t, exec (.counterEvent n d) s = .next t ∧
      t.fld (R.PFC_VAL_count n) = 0 ∧ t.fld (R.PFC_VAL_count (n + 1)) = s.fld (R.PFC_VAL_count (n + 1)) + 1 ∧
      OtherRegs s t [R.PFC_VAL n, R.PFC_VAL (n + 1)] ∧ t = { s with regs := t.regs }) ∧
  (∀ (s : State) (n d : Nat),
    n < 256 → s.fld (R.PFC_CTL_enable n) = 1 ∧ s.fld R.PFC_GLOBAL_freeze = 0 → s.fld (R.PFC_CTL_event n) ≠ 0 →
    isOccupancy (s.fld (R.PFC_CTL_event n)) = false → s.fld (R.PFC_CTL_chain n) = 0 ∧ s.chainedOdd n = false →
    s.fld (R.PWC_DOMAIN_depth (counterDomain n)) = 0 → s.fld (R.PFC_VAL_count n) + 1 = 2 ^ 48 →
    s.mayPost (0x0C00000000 + n) 1000000000 = true →
    ∃ t, exec (.counterEvent n d) s = .next t ∧
      t.fld (R.PFC_VAL_count n) = 0 ∧ t.fld (R.PFC_CTL_overflow n) = 1 ∧
      t.cmd.events = s.cmd.events ++ [⟨0x0C00, n, s.fld (R.PFC_CTL_event n) + s.fld (R.PFC_CTL_inst n) * 256, s.now, none, none, none⟩] ∧
      OtherRegs s t [R.PFC_VAL n, R.PFC_CTL n] ∧ t = { s with regs := t.regs, cmd := t.cmd }) ∧
  (∀ (s : State) (n d : Nat),
    n < 256 → s.fld (R.PFC_CTL_enable n) = 1 ∧ s.fld R.PFC_GLOBAL_freeze = 0 → isOccupancy (s.fld (R.PFC_CTL_event n)) = true →
    s.chainedOdd n = false → s.fld (R.PFC_CTL_occ n) = 0 → s.fld (R.PWC_DOMAIN_depth (counterDomain n)) = 0 →
    s.fld (R.PFC_VAL_count n) + d < 2 ^ 48 →
    ∃ t, exec (.counterEvent n d) s = .next t ∧
      t.fld (R.PFC_VAL_count n) = s.fld (R.PFC_VAL_count n) + d ∧ OtherRegs s t [R.PFC_VAL n] ∧ t = { s with regs := t.regs }) ∧
  (∀ (s : State) (n v : Nat),
    n < 256 → v < 2 ^ 48 → s.fld (R.PWC_DOMAIN_depth (counterDomain n)) = 0 →
    ∃ t, exec (.pfcValWrite 0 n v) s = .next t ∧
      t.fld (R.PFC_VAL_count n) = v ∧ t.pfc = { s.pfc with latch := none } ∧ OtherRegs s t [R.PFC_VAL n] ∧
      t = { s with regs := t.regs, hst := t.hst, pfc := t.pfc }) ∧
  (∀ (s : State) (n : Nat),
    n < 256 ∧ n % 2 = 0 → s.fld (R.PFC_CTL_chain n) = 1 →
    ∃ t, exec (.pfcPairLowRead 0 n) s = .next t ∧
      t.pfc = { s.pfc with latch := some (n + 1, s.fld (R.PFC_VAL_count (n + 1))) } ∧
      t.out = .readData 0 (R.PFC_VAL n) (leBytes 8 (s.fld (R.PFC_VAL_count n))) false :: s.out ∧
      t = { s with out := t.out, hst := t.hst, pfc := t.pfc }) ∧
  (∀ (s : State) (bus : Bus) (id : Nat) (c : Cmd) (w : Nat),
    Startable s id .pfcProgram c → c.p 17 1 = 0 ∧ c.p 16 1 < 256 → busRead bus (c.p 8 8) 8 = some (leBytes 8 w) → w < 2 ^ 64 →
    c.client = 0 → c.flag 18 0 = true → counterCan (c.p 16 1) (bitsOf w 0 8) (bitsOf w 8 8) = true → c.itemList = false →
    ∃ t, exec (.pfcProgram id bus) s = .next t ∧
      t.fld (R.PFC_CTL_event (c.p 16 1)) = bitsOf w 0 8 ∧ t.fld (R.PFC_CTL_inst (c.p 16 1)) = bitsOf w 8 8 ∧
      t.fld (R.PFC_CTL_enable (c.p 16 1)) = bitsOf w 16 1 ∧ t.fld (R.PFC_CTL_owner (c.p 16 1)) = 0 ∧
      t.fld (R.PFC_THRESH_n (c.p 16 1)) = bitsOf w 32 16 ∧ t.fld (R.PFC_VAL_count (c.p 16 1)) = 0 ∧
      OtherRegs s t [R.PFC_CTL (c.p 16 1), R.PFC_THRESH (c.p 16 1), R.PFC_VAL (c.p 16 1)] ∧
      t.cmd.replies = s.cmd.replies ++ [⟨c.id, c.client, c.ring, c.opcode, stDone, c.tag, 1, 1, 0, 0, true, c.notify, none⟩] ∧
      t = { s with regs := t.regs, cmd := t.cmd }) ∧
  (∀ (s : State) (bus : Bus) (id : Nat) (c : Cmd),
    Startable s id .pfcProgram c → 256 < c.p 16 1 + (c.p 17 1 + 1) →
    ∃ t, exec (.pfcProgram id bus) s = .next t ∧
      t = s.refuse c stBadParam 2 ∧ t = { s with cmd := t.cmd })

/-- With its windows open a window end stores each meter's bytes, raises the maximum, shows the time and counts. A new length of 1
to 1,000,000 written by PF0 abandons the open windows. A snapshot by PF0, with none before it, copies counts and meters, shows
its time, and with hold freezes the counters; PF0's read of the time clears its mark; freeze without the snapshot bit copies
nothing. A dispatched PFC_SNAPSHOT, with none before it and no item list, writes the bank of 2,664 bytes to memory that takes
it and ends DONE. No register but those of the bank changes. -/
def Obligations.MetersAndSnapshotsFollowTheirWindows : Prop :=
  (∀ (s : State) (ns : List Nat),
    s.pfc.windowsOpen = true →
    ∃ t, exec (.meterWindowEnd ns) s = .next t ∧
      (∀ m, m < 76 → (t.fld (R.PFC_METER_LAST_bytes m) = ns.getD m 0 % 2 ^ 64 ∧ t.fld (R.PFC_METER_END_time m) = s.now ∧ t.fld (R.PFC_METER_WIN_windows m) = satAdd 32 (s.fld (R.PFC_METER_WIN_windows m)) 1)) ∧
      (∀ m, m < 76 → (ns.getD m 0 < 2 ^ 64 → t.fld (R.PFC_METER_MAX_bytes m) = max (ns.getD m 0) (s.fld (R.PFC_METER_MAX_bytes m)))) ∧
      OtherRegs s t ((List.range 76).flatMap fun m => [R.PFC_METER_LAST m, R.PFC_METER_MAX m, R.PFC_METER_END m, R.PFC_METER_WIN m]) ∧
      t = { s with regs := t.regs }) ∧
  (∀ (s : State) (v : Nat),
    1 ≤ bitsOf v 0 20 ∧ bitsOf v 0 20 ≤ 1000000 →
    ∃ t, exec (.pfcMeterCfgWrite 0 v) s = .next t ∧
      t.fld R.PFC_METER_CFG_window = bitsOf v 0 20 ∧ t.pfc = { s.pfc with latch := none, windowsOpen := false } ∧
      OtherRegs s t [R.PFC_METER_CFG] ∧ t = { s with regs := t.regs, hst := t.hst, pfc := t.pfc }) ∧
  (∀ (s : State) (v : Nat),
    s.pfc.lastSnap = none →
    ∃ t, exec (.pfcSnapWrite 0 v) s = .next t ∧
      (∀ n, n < 256 → t.fld (R.PFC_SNAP_count n) = s.fld (R.PFC_VAL_count n)) ∧
      (∀ m, m < 76 → t.fld (R.PFC_METER_SNAP_bytes m) = s.fld (R.PFC_METER_LAST_bytes m)) ∧ t.fld R.PFC_SNAP_TIME_t = s.now ∧
      t.fld R.PFC_GLOBAL_snap_valid = 1 ∧ t.fld R.PFC_GLOBAL_hold = bitsOf v 2 1 ∧
      t.fld R.PFC_GLOBAL_freeze = max (bitsOf v 0 1) (bitsOf v 2 1) ∧
      t.pfc = { s.pfc with latch := none, lastSnap := some s.now } ∧
      OtherRegs s t ([R.PFC_GLOBAL, R.PFC_SNAP_TIME] ++ (List.range 256).map R.PFC_SNAP ++ (List.range 76).map R.PFC_METER_SNAP) ∧
      t = { s with regs := t.regs, hst := t.hst, pfc := t.pfc }) ∧
  (∀ (s : State) (v : Nat),
    v.testBit 1 = false →
    ∃ t, exec (.pfcFreezeWrite 0 v) s = .next t ∧
      t.fld R.PFC_GLOBAL_freeze = bitsOf v 0 1 ∧ t.fld R.PFC_GLOBAL_hold = bitsOf v 2 1 ∧
      t.fld R.PFC_GLOBAL_snap_valid = s.fld R.PFC_GLOBAL_snap_valid ∧ t.pfc = { s.pfc with latch := none } ∧
      OtherRegs s t [R.PFC_GLOBAL] ∧ t = { s with regs := t.regs, hst := t.hst, pfc := t.pfc }) ∧
  (∀ (s : State),
    ∃ t, exec (.pfcSnapTimeRead 0) s = .next t ∧
      t.out = .readData 0 R.PFC_SNAP_TIME (leBytes 8 (s.fld R.PFC_SNAP_TIME_t)) false :: s.out ∧
      t.fld R.PFC_GLOBAL_snap_valid = 0 ∧ t.fld R.PFC_GLOBAL_freeze = s.fld R.PFC_GLOBAL_freeze ∧ OtherRegs s t [R.PFC_GLOBAL] ∧
      t = { s with out := t.out, regs := t.regs, hst := t.hst, pfc := t.pfc }) ∧
  (∀ (s : State) (bus : Bus) (id : Nat) (c : Cmd),
    Startable s id .pfcSnapshot c → s.pfc.lastSnap = none → busFails bus (c.p 8 8) 2664 = false → c.itemList = false →
    ∃ t, exec (.pfcSnapshot id bus) s = .next t ∧
      t.out = .hostWrite c.client (c.p 8 8) (leBytes 8 s.now ++ ((List.range 256).flatMap fun n => leBytes 8 (s.fld (R.PFC_VAL_count n))) ++ ((List.range 76).flatMap fun m => leBytes 8 (s.fld (R.PFC_METER_LAST_bytes m)))) :: s.out ∧
      t.fld R.PFC_GLOBAL_snap_valid = 1 ∧ t.fld R.PFC_SNAP_TIME_t = s.now ∧ t.pfc = { s.pfc with lastSnap := some s.now } ∧
      t.cmd.replies = s.cmd.replies ++ [⟨c.id, c.client, c.ring, c.opcode, stDone, c.tag, 1, 1, 0, 0, true, c.notify, none⟩] ∧
      OtherRegs s t ([R.PFC_GLOBAL, R.PFC_SNAP_TIME] ++ (List.range 256).map R.PFC_SNAP ++ (List.range 76).map R.PFC_METER_SNAP) ∧
      t = { s with out := t.out, regs := t.regs, cmd := t.cmd, pfc := t.pfc })

/-- With a record buffer set and fewer than 256 records waiting: a tagged ray of the field and a slow item chosen make one record
each of 64 bytes with the fields of the spec, counted as made; a ray of the field that is not tagged makes none and steps the
bay's shift register. The oldest record goes to the buffer or, where that is full, is counted lost. A write of the size by PF0
takes a size of 16 to 30 and clears both indices. A dispatched SAMPLE_DRAIN to client memory of 64 bytes to 1 GiB, with no
drain and room, replies DEFERRED and waits; with one record unread it moves it, to memory that takes it, and ends DONE. -/
def Obligations.RecordsAreMadeWrittenAndDrained : Prop :=
  (∀ (s : State) (bay rays flags region ray node slots tDirty : Nat) (offs : List Nat),
    bay < 64 → ray / 256 < s.hx * s.hy → ray % 256 < s.views → s.fld R.PFC_SAMPLE_CFG_tagged = 1 →
    shiftSteps rays (Store.get (fun q => seedOf 1 q) s.pfc.shift bay) % 2 ^ s.fld R.PFC_SAMPLE_CFG_k = 0 →
    s.fld R.PFC_BUF_BASE_base ≠ 0 → s.pfc.queue.length < 256 →
    ∃ t, exec (.taggedRayRecord bay rays flags region ray node slots tDirty offs) s = .next t ∧
      t.pfc.queue = s.pfc.queue ++ [leBytes 1 1 ++ leBytes 1 (flags % 32) ++ leBytes 2 region ++ leBytes 5 ray ++ leBytes 1 bay ++ leBytes 1 node ++ leBytes 1 slots ++ leBytes 8 tDirty ++ ((List.range 5).flatMap fun i => leBytes 4 (min (offs.getD i 0) 0xFFFFFFFF)) ++ leBytes 8 s.pfc.seq ++ List.replicate 16 0] ∧
      (t.pfc.queue.getLast?.map List.length) = some 64 ∧
      Store.get (fun q => seedOf 1 q) t.pfc.shift bay = shiftSteps rays (Store.get (fun q => seedOf 1 q) s.pfc.shift bay) ∧
      (∀ q, q ≠ bay → Store.get (fun q => seedOf 1 q) t.pfc.shift q = Store.get (fun q => seedOf 1 q) s.pfc.shift q) ∧
      t.pfc.seq = s.pfc.seq + 1 ∧ t.term recordsMade = s.term recordsMade + 1 ∧ OtherTerms s t [recordsMade] ∧
      t = { s with ledger := t.ledger, pfc := t.pfc }) ∧
  (∀ (s : State) (bay rays flags region ray node slots tDirty : Nat) (offs : List Nat),
    bay < 64 → ray / 256 < s.hx * s.hy → ray % 256 < s.views → s.fld R.PFC_SAMPLE_CFG_tagged = 1 →
    shiftSteps rays (Store.get (fun q => seedOf 1 q) s.pfc.shift bay) % 2 ^ s.fld R.PFC_SAMPLE_CFG_k ≠ 0 →
    ∃ t, exec (.taggedRayRecord bay rays flags region ray node slots tDirty offs) s = .next t ∧
      t.pfc.queue = s.pfc.queue ∧ t.pfc.seq = s.pfc.seq ∧
      Store.get (fun q => seedOf 1 q) t.pfc.shift bay = shiftSteps rays (Store.get (fun q => seedOf 1 q) s.pfc.shift bay) ∧
      t = { s with pfc := t.pfc }) ∧
  (∀ (s : State) (item source iid lat : Nat),
    s.fld R.PFC_SAMPLE_CFG_precise = 1 → 1 ≤ item ∧ item ≤ 5 ∧ (s.fld R.PFC_SAMPLE_CFG_items).testBit (item - 1) = true →
    10 * s.fld R.PFC_SAMPLE_CFG_threshold ≤ lat → s.fld R.PFC_BUF_BASE_base ≠ 0 → s.pfc.queue.length < 256 →
    ∃ t, exec (.preciseRecord item source iid lat) s = .next t ∧
      t.pfc = { s.pfc with seq := s.pfc.seq + 1, queue := s.pfc.queue ++ [leBytes 1 2 ++ leBytes 1 item ++ leBytes 2 source ++ leBytes 8 iid ++ leBytes 4 (min lat 0xFFFFFFFF) ++ leBytes 8 s.now ++ List.replicate 40 0] } ∧
      t.term recordsMade = s.term recordsMade + 1 ∧ OtherTerms s t [recordsMade] ∧ t = { s with ledger := t.ledger, pfc := t.pfc }) ∧
  (∀ (s : State) (d : List Byte) (rest : List (List Byte)),
    s.pfc.queue = d :: rest → d.length = 64 → (s.fld R.PFC_BUF_WR_index + 1) % s.recordPlaces ≠ s.fld R.PFC_BUF_RD_index →
    ∃ t, exec (.recordBufferWrite) s = .next t ∧
      t.pfc = { s.pfc with queue := rest } ∧ t.dram = (s.memWrite (s.recordAddr (s.fld R.PFC_BUF_WR_index)) d).dram ∧
      t.fld R.PFC_BUF_WR_index = (s.fld R.PFC_BUF_WR_index + 1) % s.recordPlaces ∧
      t.fld R.PFC_BUF_WRITTEN_records = satAdd 64 (s.fld R.PFC_BUF_WRITTEN_records) 1 ∧
      t.term R.PFC_BUF_WRITTEN = s.term R.PFC_BUF_WRITTEN + 1 ∧ OtherRegs s t ([R.PFC_BUF_WR, R.PFC_BUF_WRITTEN] ++ dramCounts) ∧
      t = { s with regs := t.regs, ledger := t.ledger, dram := t.dram, cmd := t.cmd, pfc := t.pfc }) ∧
  (∀ (s : State) (d : List Byte) (rest : List (List Byte)),
    s.pfc.queue = d :: rest → (s.fld R.PFC_BUF_WR_index + 1) % s.recordPlaces = s.fld R.PFC_BUF_RD_index →
    ∃ t, exec (.recordBufferWrite) s = .next t ∧
      t.pfc.queue = rest ∧ t.fld R.PFC_BUF_LOST_records = satAdd 64 (s.fld R.PFC_BUF_LOST_records) 1 ∧
      t.term R.PFC_BUF_LOST = s.term R.PFC_BUF_LOST + 1 ∧ OtherRegs s t [R.PFC_BUF_LOST] ∧ OtherTerms s t [R.PFC_BUF_LOST] ∧
      t = { s with regs := t.regs, ledger := t.ledger, cmd := t.cmd, pfc := t.pfc }) ∧
  (∀ (s : State) (v : Nat),
    ∃ t, exec (.pfcBufConfigWrite 0 true v) s = .next t ∧
      t.fld R.PFC_BUF_SIZE_s = (if 16 ≤ bitsOf v 0 5 ∧ bitsOf v 0 5 ≤ 30 then bitsOf v 0 5 else s.fld R.PFC_BUF_SIZE_s) ∧
      t.fld R.PFC_BUF_WR_index = 0 ∧ t.fld R.PFC_BUF_RD_index = 0 ∧ t.pfc = { s.pfc with latch := none } ∧
      OtherRegs s t [R.PFC_BUF_SIZE, R.PFC_BUF_WR, R.PFC_BUF_RD] ∧ t = { s with regs := t.regs, hst := t.hst, pfc := t.pfc }) ∧
  (∀ (s : State) (bus : Bus) (id : Nat) (c : Cmd),
    Startable s id .sampleDrain c → 64 ≤ c.p 16 4 ∧ c.p 16 4 ≤ 1073741824 → s.pfc.drain = none → s.deferFull c = false →
    c.flag 20 0 = false →
    ∃ t, exec (.sampleDrain id bus) s = .next t ∧
      t.pfc = { s.pfc with drain := some id } ∧ t.cmd = (s.defer c 1).cmd ∧ t = { s with cmd := t.cmd, pfc := t.pfc }) ∧
  (∀ (s : State) (bus : Bus) (id : Nat) (c : Cmd),
    s.pfc.drain = some id → s.cmdOf id = some c → c.flag 20 0 = false → s.unread = 1 → s.fld R.PFC_BUF_RD_index < s.recordPlaces →
    64 ≤ c.p 16 4 → busFails bus (c.p 8 8) 64 = false → c.phase = .deferred ∧ c.items = [none] ∧ c.itemList = false →
    ∃ t, exec (.sampleDrain id bus) s = .next t ∧
      t.out = .hostWrite c.client (c.p 8 8) (s.memRead (s.recordAddr (s.fld R.PFC_BUF_RD_index)) 64).2.1 :: s.out ∧
      t.fld R.PFC_BUF_RD_index = (s.fld R.PFC_BUF_RD_index + 1) % s.recordPlaces ∧ t.unread = 0 ∧
      t.pfc = { s.pfc with drain := none } ∧
      t.cmd.replies = s.cmd.replies ++ [⟨c.id, c.client, c.ring, c.opcode, stDone, c.tag, 1, 1, 0, 0, true, c.notify, none⟩] ∧
      OtherRegs s t ([R.PFC_BUF_RD] ++ dramCounts) ∧
      t = { s with out := t.out, regs := t.regs, ledger := t.ledger, cmd := t.cmd, pfc := t.pfc })

/-- A cold reset of cause 1, or of cause 2 where no power-fail record was committed, puts every register but the straps, the
fuses, the seed and the reset report's own at its reset value, time, ledger, DRAM and commands too, and keeps the story pole;
the boot begins, or is held with RESET_N low. Power on after the lockout, of cause 2 where the supply failed, and the
correction of a reversed input, are cold resets; a reversed input of a module not locked out locks it out, dark and without
its DRAM. -/
def Obligations.ColdResetsLeaveTheResetValues : Prop :=
  (∀ (s : State) (cause : Nat) (p : Straps),
    cause = 1 ∨ (cause = 2 ∧ s.fld R.PWC_PFAIL_committed = 0) →
    ∃ t, exec (.coldReset cause p) s = .next t ∧
      OtherRegs State.reset t [R.PFC_SAMPLE_SEED, R.SPL_FW_STATUS, R.HST_LINK_STATUS 0, R.HST_LINK_STATUS 1, R.FLT_RESET_STATUS, R.FLT_RESET_TIME] ∧
      t.reg R.PFC_SAMPLE_SEED = s.reg R.PFC_SAMPLE_SEED ∧ t.fld R.SPL_FW_STATUS_fuse = s.fld R.SPL_FW_STATUS_fuse ∧
      t.fld (R.HST_LINK_STATUS_bifurcated 0) = bit p.hostBif ∧ t.fld R.FLT_RESET_STATUS_level = 1 ∧
      t.fld R.FLT_RESET_STATUS_cause = cause ∧ t.fld R.FLT_RESET_STATUS_entries = 0 ∧ t.ledger = [] ∧ t.dram = [] ∧
      t.ptp = State.reset.ptp ∧ t.cmd = State.reset.cmd ∧ t.spl = s.spl.afterReset ∧ t.pin.refFallback = (p.refSel && !p.refOk) ∧
      t.flt.boot = (if p.pinLow then .held else .verify) ∧
      (t.dmg, t.sch, t.eng, t.trs, t.pnl) = (State.reset.dmg, State.reset.sch, State.reset.eng, State.reset.trs, State.reset.pnl) ∧
      (t.pwc, t.cal, t.dmc, t.hst, t.active) = (State.reset.pwc, State.reset.cal, State.reset.dmc, State.reset.hst, State.reset.active) ∧
      (t.pending, t.out, t.free) = (s.pending, s.out, s.free)) ∧
  (∀ (s : State) (p : Straps),
    s.pwc.locked = true →
    ∃ t, exec (.powerOn p) s = .next t ∧
      t = s.coldReset (if s.pwc.failed then 2 else 1) p ∧ t.pwc.locked = false ∧
      t.fld R.FLT_RESET_STATUS_cause = (if s.pwc.failed then 2 else 1) ∧ t.dram = []) ∧
  (∀ (s : State) (p : Straps),
    s.pwc.vinReversed = true →
    ∃ t, exec (.vinReversed false p) s = .next t ∧
      t = s.coldReset 1 p ∧ t.pwc.vinReversed = false ∧ t.fld R.FLT_RESET_STATUS_cause = 1) ∧
  (∀ (s : State) (p : Straps),
    s.pwc.locked = false →
    ∃ t, exec (.vinReversed true p) s = .next t ∧
      t.pwc = { s.pwc with locked := true, vinReversed := true } ∧ t.dram = [] ∧ t.flt = { s.flt with boot := .dark } ∧
      t = { s with out := t.out, free := t.free, regs := t.regs, ledger := t.ledger, dram := t.dram, hst := t.hst, flt := t.flt, dmg := t.dmg, sch := t.sch, pnl := t.pnl, spl := t.spl, pwc := t.pwc, dmc := t.dmc })

/-- With a good image in the active slot, no trial, no trial mark and no fallback due, the boot ROM runs that slot, shows its
version, starts the clocks of AON, MGT and the reference, and goes on to the scan; with both slots bad it fails. A trial
unconfirmed at its limit is over, the slot stays active until the next boot, which falls back. The journal scan of a warm boot
that kept DRAM, with one record half written and no bad sector, brings the module up: it marks ready, shows the torn record as
interrupted with its kind and key and drops it, plans every bent of a module whose factory page is bad at 50 mV and 1,000 MHz
where no plan is in force, and makes the report ready. -/
def Obligations.TheBootTakesAnImageAndScansTheJournal : Prop :=
  (∀ (s : State) (bus : Bus),
    s.flt.boot = .verify ∧ s.flt.fwRestarting = false → s.spl.trialMark = false ∧ s.spl.fallbackCause = 0 →
    s.fld R.SPL_FW_STATUS_trial = 0 → s.slotOk (s.fld R.SPL_FW_STATUS_active) = true →
    ∃ t, exec (.firmwareBootVerify bus) s = .next t ∧
      t.flt = { s.flt with boot := .scan } ∧ t.spl = { s.spl with running := s.fld R.SPL_FW_STATUS_active } ∧
      t.fld R.GLB_FW_VER_version = s.slotField (s.fld R.SPL_FW_STATUS_active) 8 8 ∧
      t.fld R.SPL_FW_STATUS_active = s.fld R.SPL_FW_STATUS_active ∧ t.fld R.SPL_FW_STATUS_fallback = 0 ∧
      (t.fld (R.PWC_CLK_mhz 3), t.fld (R.PWC_CLK_running 3)) = (800, 1) ∧
      (t.fld (R.PWC_CLK_mhz 2), t.fld (R.PWC_CLK_mhz 20)) = (156, 1000) ∧
      OtherRegs s t [R.SPL_FW_STATUS, R.SPL_FW_VER 0, R.SPL_FW_VER 1, R.GLB_FW_VER, R.PWC_CLK 0, R.PWC_CLK 1, R.PWC_CLK 2, R.PWC_CLK 3, R.PWC_CLK 20] ∧
      t = { s with regs := t.regs, flt := t.flt, spl := t.spl }) ∧
  (∀ (s : State) (bus : Bus),
    s.flt.boot = .verify ∧ s.flt.fwRestarting = false → s.slotOk 0 = false ∧ s.slotOk 1 = false →
    ∃ t, exec (.firmwareBootVerify bus) s = .next t ∧
      t.flt = { s.flt with boot := .failed } ∧ t = { s with flt := t.flt }) ∧
  (∀ (s : State),
    s.fld R.SPL_FW_STATUS_trial = 1 →
    ∃ t, exec (.trialConfirmExpiry) s = .next t ∧
      t.fld R.SPL_FW_STATUS_trial = 0 ∧ t.fld R.SPL_FW_STATUS_active = s.fld R.SPL_FW_STATUS_active ∧
      t.spl = { s.spl with fallbackCause := 2 } ∧ OtherRegs s t [R.SPL_FW_STATUS] ∧ t = { s with regs := t.regs, spl := t.spl }) ∧
  (∀ (s : State) (bad : Bool) (r : Report) (n : NewRecord),
    s.flt.boot = .scan → s.flt.report = some r → r.level = 2 ∧ r.dramLost = false ∧ r.cause ≠ 9 →
    s.spl.programmed = true ∧ s.spl.queue = [n] → s.spl.bad = [] ∧ s.hst.held = [] →
    ∃ t, exec (.journalBootScan bad [] []) s = .next t ∧
      t.flt.boot = .up ∧ t.fld R.SPL_STATUS_ready = 1 ∧ t.fld R.SPL_STATUS_interrupted = 1 ∧ t.fld R.SPL_STATUS_read_only = 0 ∧
      t.fld R.SPL_LAST_BAD_kind = n.kind % 256 ∧ t.fld R.SPL_LAST_BAD_key = n.key % 65536 ∧
      t.fld (R.SPL_CNT_count 4) = satAdd 32 (s.fld (R.SPL_CNT_count 4)) 1 ∧
      t.spl = { s.spl with queue := [], programmed := false } ∧ t.fld R.FLT_RESET_STATUS_report_ready = 1 ∧
      t.fld R.FLT_RESET_STATUS_nvm_interrupted = 1 ∧ (t.flt.report.map Report.interrupted) = some true ∧
      (∀ b, (b < 8 ∧ bad = true ∧ s.inForce 4 b = none) → (t.fld (R.CAL_BENT_PLAN_offset b) = 10 ∧ t.fld (R.CAL_BENT_PLAN_ceiling b) = 40)) ∧
      t = { s with out := t.out, regs := t.regs, ledger := t.ledger, dram := t.dram, cmd := t.cmd, hst := t.hst, flt := t.flt, eng := t.eng, pnl := t.pnl, lan := t.lan, spl := t.spl, pwc := t.pwc, wvl := t.wvl, dmc := t.dmc, cmp := t.cmp })

/-- A warm reset that may happen, of causes 3 to 7 and 10 outside DEEP, closes every client's command in its report, keeps time,
the zones and, with the rail on, DRAM, ends every region and every block's work, and counts in FLT_CNT[0]; the boot begins, or
is held. Recovery of power (cause 8, DRAM lost), a wake source enabled in HIBERNATE (6), the timer in DEEP (7, DRAM lost), the
reset pin (3; 9 after SHUT once cool, DRAM lost), link A's reset (4) and a MODULE_RESET with the right confirm word (5, its
own command closed) are warm resets with their own causes. A reset pin low while a comparator is hot is counted and ignored;
its rise starts the boot. A MODULE_RESET with a wrong confirm is refused with reason 1. -/
def Obligations.WarmResetsKeepWhatTheyMust : Prop :=
  (∀ (s : State) (cause : Nat),
    cause = 3 ∨ cause = 4 ∨ cause = 5 ∨ cause = 6 ∨ cause = 7 ∨ cause = 10 → s.mayReset = true → s.fld R.PWC_STATUS_state ≠ 3 →
    s.inBounds = true → s.hst.held = [] →
    ∃ t, exec (.warmReset cause) s = .next t ∧
      t.cmd.inflight = [] ∧ t.cmd.replies = [] ∧
      (t.flt.report.map Report.entries) = some (s.flt.closed ++ (s.cmd.inflight.filter fun c => decide (c.client < 16)).map (fun c => s.entryOf c stReset)) ∧
      (t.flt.report.map fun r => (r.level, r.cause, r.time, r.f, r.dramLost)) = some (2, cause, s.now, s.ptp.f, false) ∧
      t.fld R.FLT_RESET_STATUS_level = 2 ∧ t.fld R.FLT_RESET_STATUS_cause = cause ∧ t.fld R.FLT_RESET_STATUS_dram_lost = 0 ∧
      t.fld (R.FLT_CNT_count 0) = satAdd 32 (s.fld (R.FLT_CNT_count 0)) 1 ∧ t.ptp = { s.ptp with xsec := 0 } ∧ t.dram = s.dram ∧
      t.spl = s.spl.afterReset ∧ t.dmg.regions = [] ∧ t.regionCount = 0 ∧ (t.active, t.pin) = ([], s.pin) ∧
      (t.eng, t.glu, t.clp, t.trs) = (State.reset.eng, State.reset.glu, State.reset.clp, State.reset.trs) ∧
      (t.dec, t.hst, t.lan, t.tim) = (State.reset.dec, State.reset.hst, State.reset.lan, State.reset.tim) ∧
      (t.dmc, t.cmp, t.blk, t.eth) = (State.reset.dmc, State.reset.cmp, State.reset.blk, State.reset.eth) ∧
      t.fld R.PNL_LINK_STATUS_state = 0 ∧ t.fld (R.CMD_SQ_CFG_enable 0) = 0 ∧
      (∀ z, z < 16 → t.reg (R.THM_ZONE z) = s.reg (R.THM_ZONE z)) ∧ (t.pending, t.free) = (s.pending, s.free) ∧
      t.flt.boot = (if s.flt.pinLow then .held else .verify)) ∧
  (∀ (s : State),
    s.pwc.failed = true ∧ s.pwc.locked = false →
    ∃ t, exec (.powerFailRecovery) s = .next t ∧
      t = (s.noteHeld.setFld R.PWC_PFAIL_recovered 1).warmReset 8 ∧ t.fld R.FLT_RESET_STATUS_cause = 8 ∧
      t.fld R.FLT_RESET_STATUS_dram_lost = 1 ∧ t.fld R.FLT_RESET_STATUS_power_fail = 1 ∧ t.dram = [] ∧
      t.ptp = { s.ptp with xsec := 0 }) ∧
  (∀ (s : State) (source : Nat),
    s.mayReset = true → s.fld R.PWC_STATUS_state = 2 → source = 3 ∨ (source < 3 ∧ s.pwc.wake.testBit source = true) →
    ∃ t, exec (.hibernateWake source) s = .next t ∧
      t = s.warmReset 6 ∧ t.fld R.FLT_RESET_STATUS_cause = 6 ∧ t.dram = s.dram ∧ t.ptp = { s.ptp with xsec := 0 }) ∧
  (∀ (s : State),
    s.mayReset = true → s.fld R.PWC_STATUS_state = 3 → s.pwc.wake.testBit 2 = true →
    ∃ t, exec (.aonTimerExpiry) s = .next t ∧
      t = s.warmReset 7 ∧ t.fld R.FLT_RESET_STATUS_cause = 7 ∧ t.fld R.FLT_RESET_STATUS_dram_lost = 1 ∧ t.dram = []) ∧
  (∀ (s : State) (cool : Bool),
    s.flt.pinLow = false → s.mayReset = true → s.fld R.PWC_STATUS_state < 2 →
    ∃ t, exec (.resetPinAssert true cool) s = .next t ∧
      t = { s with flt := { s.flt with pinLow := true } }.warmReset 3 ∧ t.flt.pinLow = true ∧ t.flt.boot = .held ∧
      t.fld R.FLT_RESET_STATUS_cause = 3) ∧
  (∀ (s : State),
    s.flt.pinLow = false → s.pwc.shut = true ∧ s.pwc.locked = false ∧ s.pwc.failed = false →
    ∃ t, exec (.resetPinAssert true false) s = .next t ∧
      t.fld (R.THM_CNT_count 7) = satAdd 32 (s.fld (R.THM_CNT_count 7)) 1 ∧ t.flt = { s.flt with pinLow := true } ∧
      OtherRegs s t [R.THM_CNT 7] ∧ t = { s with regs := t.regs, flt := t.flt }) ∧
  (∀ (s : State),
    s.flt.pinLow = false → s.pwc.shut = true ∧ s.pwc.locked = false ∧ s.pwc.failed = false →
    ∃ t, exec (.resetPinAssert true true) s = .next t ∧
      t = { s with flt := { s.flt with pinLow := true } }.warmReset 9 ∧ t.fld R.FLT_RESET_STATUS_cause = 9 ∧
      t.fld R.FLT_RESET_STATUS_dram_lost = 1 ∧ t.pwc.shut = false) ∧
  (∀ (s : State) (cool : Bool),
    s.flt.boot = .held →
    ∃ t, exec (.resetPinAssert false cool) s = .next t ∧
      t.flt = { s.flt with pinLow := false, boot := .verify } ∧ t = { s with flt := t.flt, pin := t.pin }) ∧
  (∀ (s : State),
    s.mayReset = true →
    ∃ t, exec (.perstAssert false) s = .next t ∧
      t = s.warmReset 4 ∧ t.fld R.FLT_RESET_STATUS_cause = 4 ∧ t.ptp = { s.ptp with xsec := 0 }) ∧
  (∀ (s : State) (bus : Bus) (id : Nat) (c : Cmd),
    Startable s id .moduleReset c → c.p 8 4 = 0x52535457 → s.cmd.inflight = [c] → c.client < 16 → s.flt.closed = [] →
    s.mayReset = true →
    ∃ t, exec (.moduleReset id bus) s = .next t ∧
      (t.flt.report.map Report.cause) = some 5 ∧
      (t.flt.report.map fun r => r.entries.map fun e => [e.client, e.opcode, e.tag, e.total, e.done, e.status]) = some [[c.client, c.opcode, c.tag, 1, 1, stReset]] ∧
      t.cmd.inflight = [] ∧ t.fld R.FLT_RESET_STATUS_cause = 5 ∧ t.ptp = { s.ptp with xsec := 0 }) ∧
  (∀ (s : State) (bus : Bus) (id : Nat) (c : Cmd),
    Startable s id .moduleReset c → c.p 8 4 ≠ 0x52535457 →
    ∃ t, exec (.moduleReset id bus) s = .next t ∧
      t = s.refuse c stBadParam 1 ∧ t = { s with cmd := t.cmd })

/-- A function-level reset of a present client, the host not cut, closes its client's commands only, in that client's report of
level 3 and cause 11. The watchdog ends every open command, restarts firmware and posts it; a dispatched BLOCK_RESET of
firmware does so but for itself; of the decode pipes it leaves none busy, counts and ends DONE; of block 0 it is refused with
reason 1. A RAM that can be rebuilt is counted; any other error, where a reset may happen, is a warm reset of cause 10 with
its event to come, counted in FLT_CNT[7]. An uncore fault retires the four bents of its die and no other. -/
def Obligations.PartsAreResetAlone : Prop :=
  (∀ (s : State) (f : Nat),
    f < 16 → s.hostCut = false → s.present f = true → (s.cmd.inflight.map Cmd.id).Nodup →
    ∃ t, exec (.functionLevelReset f false) s = .next t ∧
      t.cmd.inflight.all (fun c => c.client != f) = true ∧
      (∀ g, (g < 16 ∧ g ≠ f) → t.cmd.inflight.countP (fun c => c.client == g) = s.cmd.inflight.countP (fun c => c.client == g)) ∧
      ((Store.get (fun _ => none) t.flt.fnReports f).map fun r => (r.level, r.cause, r.client, r.entries)) = some (3, 11, f, (s.cmd.inflight.filter fun c => c.client == f).map (fun c => s.entryOf c stReset)) ∧
      (∀ g, g ≠ f → Store.get (fun _ => none) t.flt.fnReports g = Store.get (fun _ => none) s.flt.fnReports g) ∧
      t.flt.report = s.flt.report ∧
      t = { s with out := t.out, regs := t.regs, ledger := t.ledger, dram := t.dram, cmd := t.cmd, hst := t.hst, flt := t.flt, scn := t.scn, dmg := t.dmg, sch := t.sch, eng := t.eng, glu := t.glu, clp := t.clp, trs := t.trs, pnl := t.pnl, lan := t.lan, pwc := t.pwc, cal := t.cal, dmc := t.dmc, cmp := t.cmp, blk := t.blk, pfc := t.pfc, eth := t.eth }) ∧
  (∀ (s : State),
    s.flt.boot = .up ∧ s.flt.fwRestarting = false → s.hostCut = false → (s.cmd.inflight.map Cmd.id).Nodup →
    ∃ t, exec (.firmwareWatchdogExpiry) s = .next t ∧
      t.flt = { s.flt with fwRestarting := true } ∧ t.cmd.inflight.all (fun c => !c.isOpen) = true ∧
      (t.cmd.events.getLast?.map fun e => (e.code, e.source, e.data % 65536)) = some (0x0E01, 0, 14) ∧
      t = { s with out := t.out, regs := t.regs, ledger := t.ledger, dram := t.dram, cmd := t.cmd, hst := t.hst, flt := t.flt, scn := t.scn, dmg := t.dmg, sch := t.sch, eng := t.eng, glu := t.glu, clp := t.clp, trs := t.trs, pnl := t.pnl, lan := t.lan, pwc := t.pwc, cal := t.cal, wvl := t.wvl, dmc := t.dmc, cmp := t.cmp, blk := t.blk, pfc := t.pfc, eth := t.eth }) ∧
  (∀ (s : State) (bus : Bus) (id : Nat) (c : Cmd),
    Startable s id .blockReset c → c.pb 8 0 2 = 0 →
    ∃ t, exec (.blockReset id bus) s = .next t ∧
      t = s.refuse c stBadParam 1 ∧ t = { s with cmd := t.cmd }) ∧
  (∀ (s : State) (bus : Bus) (id : Nat) (c : Cmd),
    Startable s id .blockReset c → c.pb 8 0 2 = 1 → c.itemList = false → s.inBounds = true →
    ∃ t, exec (.blockReset id bus) s = .next t ∧
      (∀ p, p < 16 → t.pipeBusy p = none) ∧ t.fld (R.FLT_CNT_count 2) = satAdd 32 (s.fld (R.FLT_CNT_count 2)) 1 ∧
      t.cmd.replies.getLast? = some ⟨c.id, c.client, c.ring, c.opcode, stDone, c.tag, 1, 1, 0, 0, true, c.notify, none⟩ ∧
      t = { s with regs := t.regs, ledger := t.ledger, cmd := t.cmd, trs := t.trs, dec := t.dec }) ∧
  (∀ (s : State) (bus : Bus) (id : Nat) (c : Cmd),
    Startable s id .blockReset c → c.pb 8 0 2 = 3 → (s.cmd.inflight.map Cmd.id).Nodup →
    ∃ t, exec (.blockReset id bus) s = .next t ∧
      t.flt = { s.flt with fwRestarting := true } ∧
      (t.cmd.events.getLast?.map fun e => (e.code, e.source, e.data % 65536)) = some (0x0E01, 0, 13) ∧
      t.cmd.inflight.all (fun d => !d.isOpen || d.id == id) = true ∧
      t = { s with out := t.out, regs := t.regs, ledger := t.ledger, dram := t.dram, cmd := t.cmd, hst := t.hst, flt := t.flt, scn := t.scn, dmg := t.dmg, sch := t.sch, eng := t.eng, glu := t.glu, clp := t.clp, trs := t.trs, dec := t.dec, pnl := t.pnl, lan := t.lan, pwc := t.pwc, cal := t.cal, wvl := t.wvl, dmc := t.dmc, cmp := t.cmp, blk := t.blk, pfc := t.pfc, eth := t.eth }) ∧
  (∀ (s : State) (ram addr : Nat),
    ∃ t, exec (.stateRamParityError true ram addr) s = .next t ∧
      t.fld (R.FLT_CNT_count 6) = satAdd 32 (s.fld (R.FLT_CNT_count 6)) 1 ∧ OtherRegs s t [R.FLT_CNT 6] ∧
      t = { s with regs := t.regs }) ∧
  (∀ (s : State) (ram addr : Nat),
    s.mayReset = true →
    ∃ t, exec (.stateRamParityError false ram addr) s = .next t ∧
      t.fld R.FLT_RESET_STATUS_cause = 10 ∧ t.flt.afterBoot.getLast? = some (0x0E03, ram, addr % 65536) ∧
      t.ptp = { s.ptp with xsec := 0 } ∧ OtherRegs (s.warmReset 10) t [R.FLT_CNT 7]) ∧
  (∀ (s : State) (die : Nat) (ready : List (Nat × Nat)),
    die < 2 → s.hst.held = [] → s.inBounds = true →
    ∃ t, exec (.uncoreFault die ready) s = .next t ∧
      (∀ j, j < 4 → t.fld (R.ENG_BENT_STATUS_state (4 * die + j)) = 4) ∧
      (∀ j, j < 4 → t.fld (R.ENG_BENT_STATUS_state (4 * (1 - die) + j)) = s.fld (R.ENG_BENT_STATUS_state (4 * (1 - die) + j))) ∧
      t = { s with regs := t.regs, ledger := t.ledger, cmd := t.cmd, hst := t.hst, dmg := t.dmg, sch := t.sch, eng := t.eng, pnl := t.pnl, spl := t.spl })

/-- The record of any state has 90,616 bytes for every client. A dispatched LEDGER_SNAPSHOT to client memory that takes it, with
no item list, writes header and body, counts in FLT_CNT[4], and replies DONE with the mask of broken sections as detail; with
something broken it also counts in FLT_CNT[5] and posts LEDGER_BROKEN; no other register changes. A REPORT_READ of at least 64
bytes of the module's report, kept, writes the header and those entries that fit, as the client may read them; one of the
client's own report with release, where none is held, writes a header of level 0 and length 64 and clears FLT_FN_REPORT; a
length below 64 is refused with reason 1. -/
def Obligations.LedgerSnapshotsAndReportsAreWritten : Prop :=
  (∀ (s : State) (f : Nat),
    (s.ledgerHeader (s.ledgerBody f) ++ s.ledgerBody f).length = 90616) ∧
  (∀ (s : State) (bus : Bus) (id : Nat) (c : Cmd),
    Startable s id .ledgerSnapshot c → c.flag 16 0 = false → c.itemList = false → busFails bus (c.p 8 8) 90616 = false →
    ∃ t, exec (.ledgerSnapshot id bus) s = .next t ∧
      t.out = .hostWrite c.client (c.p 8 8) (s.ledgerHeader (s.ledgerBody c.client) ++ s.ledgerBody c.client) :: s.out ∧
      t.cmd.replies = s.cmd.replies ++ [⟨c.id, c.client, c.ring, c.opcode, stDone, c.tag, 1, 1, 0, s.broken, true, c.notify, none⟩] ∧
      t.fld (R.FLT_CNT_count 4) = satAdd 32 (s.fld (R.FLT_CNT_count 4)) 1 ∧
      t.fld (R.FLT_CNT_count 5) = (if s.broken = 0 then s.fld (R.FLT_CNT_count 5) else satAdd 32 (s.fld (R.FLT_CNT_count 5)) 1) ∧
      t.cmd.events = (if s.broken = 0 then s.cmd.events else s.cmd.events ++ [⟨0x0E02, 0, s.broken % 2 ^ 32, s.now, none, none, none⟩]) ∧
      OtherRegs s t [R.FLT_CNT 4, R.FLT_CNT 5] ∧ t = { s with out := t.out, regs := t.regs, cmd := t.cmd }) ∧
  (∀ (s : State) (bus : Bus) (id : Nat) (c : Cmd),
    Startable s id .reportRead c → c.p 16 4 < 64 →
    ∃ t, exec (.reportRead id bus) s = .next t ∧
      t = s.refuse c stBadParam 1 ∧ t = { s with cmd := t.cmd }) ∧
  (∀ (s : State) (bus : Bus) (id : Nat) (c : Cmd) (r : Report),
    Startable s id .reportRead c → 64 ≤ c.p 16 4 → c.flag 20 0 = false ∧ c.flag 20 1 = false → s.flt.report = some r →
    busFails bus (c.p 8 8) (r.written c.client (c.p 16 4)).length = false → c.itemList = false →
    ∃ t, exec (.reportRead id bus) s = .next t ∧
      t.out = .hostWrite c.client (c.p 8 8) (r.written c.client (c.p 16 4)) :: s.out ∧
      (r.written c.client (c.p 16 4)).take 64 = r.header ∧ r.header.length = 64 ∧
      (r.written c.client (c.p 16 4)).length ≤ c.p 16 4 ∧
      t.cmd.replies = s.cmd.replies ++ [⟨c.id, c.client, c.ring, c.opcode, stDone, c.tag, 1, 1, 0, 0, true, c.notify, none⟩] ∧
      t = { s with out := t.out, cmd := t.cmd }) ∧
  (∀ (s : State) (bus : Bus) (id : Nat) (c : Cmd),
    Startable s id .reportRead c → 64 ≤ c.p 16 4 → c.flag 20 0 = true ∧ c.flag 20 1 = true →
    Store.get (fun _ => none) s.flt.fnReports c.client = none → busFails bus (c.p 8 8) 64 = false → c.itemList = false →
    ∃ t, exec (.reportRead id bus) s = .next t ∧
      t.out = .hostWrite c.client (c.p 8 8) (leBytes 4 64 ++ leBytes 60 0) :: s.out ∧
      Store.get (fun _ => none) t.flt.fnReports c.client = none ∧ t.reg (R.FLT_FN_REPORT c.client) = 0 ∧
      t.flt.report = s.flt.report ∧ OtherRegs s t [R.FLT_FN_REPORT c.client] ∧
      t = { s with out := t.out, regs := t.regs, cmd := t.cmd, flt := t.flt })

/-- Not locked out: a read of STATUS returns the module state, the host interface and the three alert bits, and releases the
alert; a read of the Alert Response Address is answered with the module's address while the alert is low, and releases it.
BOOT_STATUS, TEMP_MAX (the highest of the valid sensors, where there is one) and VIN return their words. WAKE with other data,
outside HIBERNATE and DEEP, or not enabled, does nothing; with 0xA5, enabled, it wakes from HIBERNATE by a warm reset. A new
alert bit drives the alert low, and none leaves it. IDCODE loads at any time, BYPASS too, another instruction only while
RESET_N is low, else BYPASS. A lost reference, in use, is posted once and the module runs on the crystal. -/
def Obligations.TheLowSpeedPinsReportAndWake : Prop :=
  (∀ (s : State),
    s.pwc.locked = false →
    ∃ t, exec (.smbusStatusRead false) s = .next t ∧
      t.out.head? = some (.smbus (leBytes 1 (s.fld R.PWC_STATUS_state + 4 * bit s.hostInService + 8 * bit s.pwc.shut + 16 * bit (s.flt.boot == .failed) + 32 * bit s.pin.refFallback))) ∧
      t.out.tail = (if s.pin.alert then [Output.pin alertPin true] else []) ++ s.out ∧ t.pin = { s.pin with alert := false } ∧
      t = { s with out := t.out, pin := t.pin }) ∧
  (∀ (s : State),
    s.pwc.locked = false → s.pin.alert = true → s.pin.smbAddr < 4 →
    ∃ t, exec (.smbusStatusRead true) s = .next t ∧
      t.out = .smbus (leBytes 1 (2 * (0x58 + s.pin.smbAddr))) :: .pin alertPin true :: s.out ∧
      t.pin = { s.pin with alert := false } ∧ t = { s with out := t.out, pin := t.pin }) ∧
  (∀ (s : State),
    s.pwc.locked = false →
    ∃ t, exec (.smbusBootStatus) s = .next t ∧
      t.out = .smbus (leBytes 2 s.bootStatus) :: s.out ∧ (s.pwc.shut = true → s.bootStatus = 4) ∧
      ((s.pwc.shut = false ∧ s.flt.boot = .failed) → s.bootStatus = 2) ∧
      ((s.pwc.shut = false ∧ s.flt.boot = .up ∧ s.fld R.SPL_STATUS_factory_bad = 1) → s.bootStatus = 3) ∧
      ((s.pwc.shut = false ∧ s.flt.boot = .up ∧ s.fld R.SPL_STATUS_factory_bad = 0) → s.bootStatus = 1) ∧
      ((s.pwc.shut = false ∧ (s.flt.boot = .verify ∨ s.flt.boot = .scan)) → s.bootStatus = 0) ∧ t = { s with out := t.out }) ∧
  (∀ (s : State) (n : Nat),
    s.pwc.locked = false → n < 104 → s.fld (R.THM_TEMP_valid n) = 1 →
    ∃ t, exec (.smbusTempMax) s = .next t ∧
      t.out = .smbus (leBytes 2 (toField 16 s.highestTemp)) :: s.out ∧ s.sensorTemp n ≤ s.highestTemp ∧
      ((List.range 104).any fun m => s.fld (R.THM_TEMP_valid m) == 1 && s.sensorTemp m == s.highestTemp) = true ∧
      t = { s with out := t.out }) ∧
  (∀ (s : State),
    s.pwc.locked = false →
    ∃ t, exec (.smbusVin) s = .next t ∧
      t.out = .smbus (leBytes 2 (s.fld R.PWC_VIN_vin)) :: s.out ∧ t = { s with out := t.out }) ∧
  (∀ (s : State) (d : Nat),
    d ≠ 0xA5 ∨ s.fld R.PWC_STATUS_state < 2 ∨ s.pwc.wake.testBit 0 = false →
    ∃ t, exec (.smbusWake d) s = .next t ∧
      t = s ∧ t = s) ∧
  (∀ (s : State),
    s.mayReset = true → s.fld R.PWC_STATUS_state = 2 → s.pwc.wake.testBit 0 = true →
    ∃ t, exec (.smbusWake 0xA5) s = .next t ∧
      t = s.warmReset 6 ∧ t.fld R.FLT_RESET_STATUS_cause = 6 ∧ t.ptp = { s.ptp with xsec := 0 }) ∧
  (∀ (s : State),
    s.pwc.locked = false →
    ∃ t, exec (.smbAlert) s = .next t ∧
      t.pin.seen = s.alertBits ∧
      (((List.range 3).any fun i => s.alertBits.testBit i && !(s.pin.seen.testBit i)) = true → t.pin.alert = true) ∧
      (((List.range 3).any fun i => s.alertBits.testBit i && !(s.pin.seen.testBit i)) = false → t.pin = { s.pin with seen := s.alertBits }) ∧
      t.out = (if ((List.range 3).any fun i => s.alertBits.testBit i && !(s.pin.seen.testBit i)) && !s.pin.alert then [Output.pin alertPin false] else []) ++ s.out ∧
      t = { s with out := t.out, pin := t.pin }) ∧
  (∀ (s : State) (code : Nat),
    ∃ t, exec (.jtagInstruction code) s = .next t ∧
      t.pin = { s.pin with tap := (if code = 1 then .idcode else if code = 0 ∨ s.flt.pinLow = false then .bypass else .other code) } ∧
      t = { s with pin := t.pin }) ∧
  (∀ (s : State),
    s.pin.refSel = true ∧ s.pin.refFallback = false →
    ∃ t, exec (.refFallback) s = .next t ∧
      t.pin = { s.pin with refFallback := true } ∧ t.cmd.events = s.cmd.events ++ [⟨0x0104, 0, 0, s.now, none, none, none⟩] ∧
      t = { s with cmd := t.cmd, pin := t.pin })

/-- After every cold reset window 0 is enabled with base 0, 32 channels from channel 0, row0 0, 65,536 rows, order 4 (field value
3) and ECC off, every address below 64 GiB falls in it, and windows 1 to 7 are disabled. -/
def Obligations.ColdResetMapsAllModuleDramThroughWindowZero : Prop :=
  ∀ (s : State) (cause : Nat) (p : Straps) (ma : Nat),
    cause = 1 ∨ cause = 2 → ma < 64 * 2 ^ 30 →
    ∃ t, exec (.coldReset cause p) s = .next t ∧
      t.fld (R.DMC_WIN_CFG_enable 0) = 1 ∧ t.fld (R.DMC_WIN_BASE_base 0) = 0 ∧ 2 ^ t.fld (R.DMC_WIN_CFG_e 0) = 32 ∧
      t.fld (R.DMC_WIN_CFG_c0 0) = 0 ∧ t.fld (R.DMC_WIN_ROWS_row0 0) = 0 ∧ 512 * t.fld (R.DMC_WIN_ROWS_rows512 0) = 65536 ∧
      t.fld (R.DMC_WIN_CFG_order 0) = 3 ∧ t.fld (R.DMC_WIN_CFG_iecc 0) = 0 ∧ t.windowOf ma = some 0 ∧
      t.windowOf (64 * 2 ^ 30) = none ∧ (∀ w, (1 ≤ w ∧ w ≤ 7) → t.fld (R.DMC_WIN_CFG_enable w) = 0)

/-- In every state, group q takes class c exactly where c is one of the sixteen classes, its node is eligible, and every other
class whose node is eligible has a lower precedence, or the same and a higher number. -/
def Obligations.AGroupTakesTheEligibleClassOfHighestPrecedence : Prop :=
  ∀ (s : State) (q c : Nat), s.pickClass q = some c ↔
      (c < 16 ∧ s.eligible q c = true ∧
        ∀ d, d < 16 → d ≠ c → s.eligible q d = true →
          (s.fld (R.SCH_CLASS_PREC_precedence d) < s.fld (R.SCH_CLASS_PREC_precedence c) ∨
            (s.fld (R.SCH_CLASS_PREC_precedence d) = s.fld (R.SCH_CLASS_PREC_precedence c) ∧ c < d)))

/-- For every depth d and components below 2^d, the packed ray word is below 2^(3 d), its bits d - 1 to 0 are R, bits 2 d - 1 to d
are G and bits 3 d - 1 to 2 d are B. -/
def Obligations.ARayWordHoldsItsThreeComponentsInOrder : Prop :=
  ∀ d r g b : Nat, r < 2 ^ d → g < 2 ^ d → b < 2 ^ d →
      packWord d r g b < 2 ^ (3 * d) ∧ bitsOf (packWord d r g b) 0 d = r ∧ bitsOf (packWord d r g b) d d = g ∧
        bitsOf (packWord d r g b) (2 * d) d = b

/-- A fence doorbell on the page of a client that may ring it sets the layer's fence value to the value written, the latest only,
whatever the mode of the layer, and changes nothing else; and a fence has reached its wait value exactly where the value less
the wait value, modulo 2^32, is below 2^31. -/
def Obligations.AFenceDoorbellSetsTheFenceValue : Prop :=
  (∀ (s : State) (client k value : Nat),
    k < 8 → (s.fld (R.SCN_LAYER_STATUS_owned k) = 1 → s.fld (R.SCN_LAYER_STATUS_owner k) = client) →
    ∃ t, exec (.fenceDoorbell client client k value) s = .next t ∧
      t.fld (R.CLP_FENCE_VALUE_value k) = value % 2 ^ 32 ∧ OtherRegs s t [R.CLP_FENCE_VALUE k] ∧ t = { s with regs := t.regs }) ∧
  (∀ (s : State) (k : Nat),
    (s.fenceReached k = true ↔ ((s.fld (R.CLP_FENCE_VALUE_value k) : Int) - (s.fld (R.CLP_FENCE_WAIT_value k) : Int)) % (2 ^ 32 : Int) < (2 ^ 31 : Int)))

/-- Each row named below completes: registerWrite, lowHalfReadLatch, lowHalfWriteStage, statusMirrorRead, glbLockWrite,
cmdSqEnableWrite, cmdCqEnableWrite, completionRingClosed, eventRingEnableWrite, commandTailDoorbell, completionHeadDoorbell,
eventHeadDoorbell, fenceDoorbell, ethTxTailDoorbell, ethRxTailDoorbell, commandFetch, commandDispatch, replyWrite,
msixHoldoffExpiry, eventWrite, nop, functionSet, hostLinkTrained, clientPresenceChange, viewSlopeLoad, viewCorrectionLoad,
regionGridSet, regionGridSwitch, layerDefine, layerGeometry, layerColour, regionLayersRead, trastosPacketArrival,
holeLossWaitExpiry, unitIncompleteExpiry, unitInflated, trsMarkerMissing, streamBind, trastosSubmit, kekEstablish, keyLoad,
keyPublicRead, decodeAssign, decodeStart, pictureOutput, regionSelect, fillComplete, synthesisStart, demandLineArrival,
launchRequest, pieceReady, rayBufferDrained, synthesisEnd, rayProbe, checkRegionDefine, sqcSignatureLoad, sqcCapture,
captureTimeout, clampBoundary, applicationPoint, copyForwardDone, freeRunEntry, freeRunBoundary, clampArm, fenceArm,
layerDamage, regionDirty, burstStart, burstEnd, gateCloseSplit, classCreditTick, gateListStart, accountingIntervalEnd,
delayBreach, histogramSample, classSet, guaranteeSet, regionMapSet, gateListSet, schedStatsRead, backchannelCredit,
backchannelTe. A clause takes one row with every state and every operands that meet the conditions written before it, those
under which the chapter gives the row its own effect (a dispatched command with operands in range and nothing in its way, or
the situation in which the row comes), and concludes that exec answers a next state in which the values written for the row
stand; of a deferred command that is the accepted one. Refusals, waits, states in which a row changes nothing, and all else
that a row writes or leaves are in its family's statement. -/
def Obligations.HostSceneAndSynthesisRowsComplete : Prop :=
  (∀ (s : State) (data : Nat),
    s.reachable 0 = true →
    ∃ t, exec (.registerWrite 0 R.GLB_SCRATCH 4 true data) s = .next t ∧
      t.fld R.GLB_SCRATCH_value = data % 2 ^ 32) ∧
  (∀ (s : State) (client : Nat),
    s.reachable client = true → Store.get (fun _ => none) s.hst.readLatch client = none →
    ∃ t, exec (.lowHalfReadLatch client R.GLB_LOCK) s = .next t ∧
      t.out = .readData client R.GLB_LOCK (leBytes 4 (s.reg R.GLB_LOCK).toNat) false :: s.out) ∧
  (∀ (s : State) (i low : Nat),
    s.reachable 0 = true → i < 256 →
    ∃ t, exec (.lowHalfWriteStage 0 (R.CMD_SQ_BASE i) low) s = .next t ∧
      Store.get (fun _ => none) t.hst.writeStage (16 * R.CMD_SQ_BASE i) = some ⟨R.CMD_SQ_BASE i, low % 2 ^ 32⟩) ∧
  (∀ (s : State) (client : Nat),
    s.reachable client = true → client ≠ 0 →
    ∃ t, exec (.statusMirrorRead client 0x1000 256) s = .next t ∧
      t.out = .readData client 0x1000 (leBytes 8 s.now ++ leBytes 4 (t.hst.mirrorCount % 2 ^ 32) ++ leBytes 244 0) false :: s.out ∧
      t.hst.mirrorWords = s.mirrorNow) ∧
  (∀ (s : State) (data : Nat),
    s.reachable 0 = true →
    ∃ t, exec (.glbLockWrite 0 data) s = .next t ∧
      t.fld R.GLB_LOCK_lock = (s.fld R.GLB_LOCK_lock ||| data % 2 ^ 24)) ∧
  (∀ (s : State) (client i data : Nat),
    seesRing client i = true → s.fld (R.CMD_SQ_CFG_enable i) = 0 → s.fld (R.CMD_SQ_CFG_halted i) = 0 → data.testBit 0 = true →
    ∃ t, exec (.cmdSqEnableWrite client i data) s = .next t ∧
      t.fld (R.CMD_SQ_CFG_enable i) = 1 ∧ t.fld (R.CMD_SQ_HEAD_head i) = 0) ∧
  (∀ (s : State) (client i data : Nat),
    seesRing client i = true → s.fld (R.CMD_CQ_CFG_enable i) = 0 → data.testBit 0 = true →
    s.reservedOf i ≤ 2 ^ (if 6 ≤ bitsOf data 8 4 ∧ bitsOf data 8 4 ≤ 12 then bitsOf data 8 4 else s.fld (R.CMD_CQ_CFG_log2size i)) - 1 →
    ∃ t, exec (.cmdCqEnableWrite client i data) s = .next t ∧
      t.fld (R.CMD_CQ_CFG_enable i) = 1) ∧
  (∀ (s : State) (i : Nat),
    s.fld (R.CMD_CQ_CFG_closing i) = 1 → s.reservedOf i = 0 →
    ∃ t, exec (.completionRingClosed i) s = .next t ∧
      t.fld (R.CMD_CQ_CFG_enable i) = 0) ∧
  (∀ (s : State) (client e data : Nat),
    s.seesEventRing client e = true → data.testBit 0 = true → s.fld (R.CMD_EVQ_CFG_enable e) = 0 →
    s.fld (R.CMD_EVQ_CFG_halted e) = 0 →
    ∃ t, exec (.eventRingEnableWrite client e data) s = .next t ∧
      t.fld (R.CMD_EVQ_CFG_enable e) = 1) ∧
  (∀ (s : State) (client r value : Nat),
    r < 16 → s.fld (R.CMD_SQ_CFG_enable (16 * client + r)) = 1 → value % 2 ^ 32 < s.sqSize (16 * client + r) →
    ∃ t, exec (.commandTailDoorbell client client (8 * r) value) s = .next t ∧
      t.tailOf (16 * client + r) = value % 2 ^ 32) ∧
  (∀ (s : State) (client r value : Nat),
    r < 16 → s.fld (R.CMD_CQ_CFG_enable (16 * client + r)) = 1 → value % 2 ^ 32 < s.cqSize (16 * client + r) →
    ∃ t, exec (.completionHeadDoorbell client client r value) s = .next t ∧
      t.fld (R.CMD_CQ_HEAD_head (16 * client + r)) = value % 2 ^ 32) ∧
  (∀ (s : State) (client e value : Nat),
    e < 16 → s.fld (R.CMD_EVQ_CFG_enable e) = 1 → s.fld (R.CMD_EVQ_CFG_owner e) = client → value % 2 ^ 32 < s.evSize e →
    ∃ t, exec (.eventHeadDoorbell client client e value) s = .next t ∧
      Store.get (fun _ => 0) t.cmd.evHeads e = value % 2 ^ 32) ∧
  (∀ (s : State) (client k value : Nat),
    k < 8 → (s.fld (R.SCN_LAYER_STATUS_owned k) = 1 → s.fld (R.SCN_LAYER_STATUS_owner k) = client) →
    ∃ t, exec (.fenceDoorbell client client k value) s = .next t ∧
      t.fld (R.CLP_FENCE_VALUE_value k) = value % 2 ^ 32) ∧
  (∀ (s : State) (client value : Nat),
    value < 2 ^ 22 → s.fld (R.ETH_TXQ_CFG_enable (value / 65536)) = 1 → s.fld (R.ETH_TXQ_CFG_owner (value / 65536)) = client →
    value % 65536 < 2 ^ s.fld (R.ETH_TXQ_CFG_log2size (value / 65536)) →
    ∃ t, exec (.ethTxTailDoorbell client client value) s = .next t ∧
      Store.get (fun _ => 0) t.eth.txTails (value / 65536) = value % 65536) ∧
  (∀ (s : State) (client value : Nat),
    value < 2 ^ 25 → s.fld (R.ETH_RXQ_CFG_enable (value / 65536)) = 1 → s.fld (R.ETH_RXQ_CFG_owner (value / 65536)) = client →
    value % 65536 < 2 ^ s.fld (R.ETH_RXQ_CFG_log2size (value / 65536)) →
    ∃ t, exec (.ethRxTailDoorbell client client value) s = .next t ∧
      Store.get (fun _ => 0) t.eth.rxTails (value / 65536) = value % 65536) ∧
  (∀ (s : State) (bus : Bus) (i : Nat) (p : List Byte),
    s.fwStopped = false → s.cmd.inflight.length < 4096 → s.pickRing bus = some i → s.headPacket bus i = some p →
    ∃ t, exec (.commandFetch bus) s = .next t ∧
      t.fld (R.CMD_SQ_HEAD_head i) = (s.fld (R.CMD_SQ_HEAD_head i) + 1) % s.sqSize i ∧
      t.cmd.inflight = s.cmd.inflight ++ [{
    id := s.cmd.nextId, client := i / 16, ring := i % 16, packet := p,
    ranges := (s.reg (R.HST_FN_RIGHTS (i / 16))).toNat % 65536, base := s.fld (R.HST_FN_APERTURE_base (i / 16)),
    size := s.fld (R.HST_FN_APERTURE_size (i / 16)), defers := replySlots (leAt p 0 2) == 2 }]) ∧
  (∀ (s : State) (bus : Bus) (c : Cmd) (d : List Byte),
    s.fwStopped = false → s.cmd.inflight.find? (fun c => c.phase == .queued) = some c → c.verdict bus = .start d →
    ∃ t, exec (.commandDispatch bus) s = .next t ∧
      t.cmd.inflight = s.cmd.inflight.map (fun x => if x.id = c.id then { c with phase := .started, params := d } else x)) ∧
  (∀ (s : State) (i : Nat) (r : Reply),
    s.fld (R.CMD_CQ_CFG_enable i) = 1 → s.fld (R.CMD_CQ_CFG_halted i) = 0 →
    s.cmd.replies.find? (fun x => 16 * x.client + x.ring == i) = some r → r.signal = false → r.final = true →
    (s.reg (R.CMD_CQ_BASE i)).toNat.testBit 0 = false → (s.cmdOf r.id).all (fun c => !c.itemList || c.items.isEmpty) = true →
    ∃ t, exec (.replyWrite i {} false) s = .next t ∧
      t.out = (if (s.reg (R.CMD_CQ_WB i)).toNat = 0 then [] else [.hostWrite r.client (s.reg (R.CMD_CQ_WB i)).toNat
      (leBytes 4 ((s.fld (R.CMD_CQ_STATE_tail i) + 1) % s.cqSize i))]) ++
    .hostWrite r.client ((s.reg (R.CMD_CQ_BASE i)).toNat / 4096 * 4096 + 32 * s.fld (R.CMD_CQ_STATE_tail i)) (r.bytes s.now) :: s.out ∧
      t.fld (R.CMD_CQ_STATE_tail i) = (s.fld (R.CMD_CQ_STATE_tail i) + 1) % s.cqSize i) ∧
  (∀ (s : State) (key : Nat),
    Store.get (fun _ => false) s.cmd.signalWaits key = true → Store.get (fun _ => 0) s.cmd.holdUntil key ≤ s.ptp.f →
    ∃ t, exec (.msixHoldoffExpiry key) s = .next t ∧
      t.out = .msix (s.vectorOf key).1 (s.vectorOf key).2.1 :: s.out) ∧
  (∀ (s : State) (ef wf : List Nat) (ev : Event) (rest : List Event) (q : Nat),
    s.hostCut = false → s.cmd.events = ev :: rest → (List.range 16).filter (fun k => s.eventReaches ev k) = [q] →
    s.fld (R.CMD_EVQ_CFG_halted q) = 0 → s.evRoom q = true → Store.get (fun _ => 0) s.cmd.lostSince q = 0 →
    (s.reg (R.CMD_EVQ_BASE q)).toNat.testBit 0 = false → (s.reg (R.CMD_EVQ_WB q)).toNat = 0 → ef.contains q = false →
    Store.get (fun _ => 0) s.cmd.holdUntil (256 + q) ≤ s.ptp.f →
    ∃ t, exec (.eventWrite ef wf) s = .next t ∧
      t.out = .msix (s.fld (R.CMD_EVQ_CFG_owner q)) (s.fld (R.CMD_EVQ_CFG_vector q)) ::
      .hostWrite (s.fld (R.CMD_EVQ_CFG_owner q))
        ((s.reg (R.CMD_EVQ_BASE q)).toNat / 4096 * 4096 + 16 * s.fld (R.CMD_EVQ_STATE_tail q)) ev.bytes :: s.out ∧
      t.cmd.events = rest) ∧
  (∀ (s : State) (bus : Bus) (id : Nat) (c : Cmd),
    Startable s id .nop c →
    ∃ t, exec (.nop id bus) s = .next t ∧
      t = s.finishOne c) ∧
  (∀ (s : State) (bus : Bus) (id : Nat) (c : Cmd),
    Startable s id .functionSet c → c.pb 8 0 4 ≠ 0 → s.present (c.pb 8 0 4) = true → c.pb 12 0 12 + c.pb 14 0 13 ≤ 4096 →
    ∃ t, exec (.functionSet id bus) s = .next t ∧
      t.fld (R.HST_FN_RIGHTS_ranges (c.pb 8 0 4)) = c.pb 10 1 14) ∧
  (∀ (s : State) (link rate width inverted precoded rxPrecoded : Nat) (flit : Bool) (taps : List (List Int)),
    s.hostCut = false → link = 0 → rate ≤ 6 → rate = 0 ∨ (linkWidths s.bifurcated).contains width = true →
    ∃ t, exec (.hostLinkTrained link rate width flit ⟨inverted, precoded, rxPrecoded, taps⟩) s = .next t ∧
      t.fld (R.HST_LINK_STATUS_rate 0) = rate) ∧
  (∀ (s : State) (vfEnable linkBUp : Bool) (numVFs : Nat),
    s.hostCut = false → (∀ f, f < 16 → s.present f = true → presentWith s.bifurcated vfEnable numVFs linkBUp f = true) →
    ∃ t, exec (.clientPresenceChange vfEnable numVFs linkBUp) s = .next t ∧
      (∀ f, f < 16 → t.present f = presentWith s.bifurcated vfEnable numVFs linkBUp f)) ∧
  (∀ (s : State) (bus : Bus) (id : Nat) (c : Cmd),
    Startable s id .viewSlopeLoad c → 0 < c.p 18 2 → c.p 18 2 ≤ 256 → c.p 16 1 + c.p 18 2 ≤ s.views → bus.bad = [] →
    ∃ t, exec (.viewSlopeLoad id bus) s = .next t ∧
      (∀ w, w < c.p 18 2 →
      t.fld (R.SCN_VIEW_SLOPE_su (c.p 16 1 + w)) =
        bitsOf (leNat ((List.range 8).map fun j => busByte bus (c.p 8 8 + 8 * w + j))) 0 17 ∧
      t.fld (R.SCN_VIEW_SLOPE_sv (c.p 16 1 + w)) =
        bitsOf (leNat ((List.range 8).map fun j => busByte bus (c.p 8 8 + 8 * w + j))) 32 17)) ∧
  (∀ (s : State) (bus : Bus) (id : Nat) (c : Cmd),
    Startable s id .viewCorrectionLoad c → c.p 20 2 ≠ 0 → c.p 22 2 ≠ 0 → c.p 16 2 + c.p 20 2 ≤ s.hx → c.p 18 2 + c.p 22 2 ≤ s.hy →
    s.fld R.SCN_VCF_BASE_base ≠ 0 → s.isCopying 1 0 = false → s.clampDue (s.fld R.SCN_VIEW_CTRL_group) = false → bus.bad = [] →
    c.flag 24 0 = false →
    ∃ t, exec (.viewCorrectionLoad id bus) s = .next t ∧
      t.dram = ((List.range (c.p 22 2)).foldl (fun u y =>
      u.memWrite (s.vcfAddr (1 - s.scn.vcfCopy) + 4 * ((c.p 18 2 + y) * s.hx + c.p 16 2))
        ((List.range (4 * c.p 20 2)).map fun j => busByte bus (c.p 8 8 + 4 * c.p 20 2 * y + j))) s).dram) ∧
  (∀ (s : State) (bus : Bus) (id : Nat) (c : Cmd),
    Startable s id .regionGridSet c → s.gridFault (c.p 8 2) (c.p 10 2) = none → s.dmg.pendGrid = none →
    s.sameGrid (c.p 8 2) (c.p 10 2) = false → s.inBounds = true → s.deferFull c = false →
    ∃ t, exec (.regionGridSet id bus) s = .next t ∧
      t.dmg.pendGrid = some (c.p 8 2, c.p 10 2, id)) ∧
  (∀ (s : State) (bus : Bus) (kx ky id : Nat),
    s.dmg.pendGrid = some (kx, ky, id) → s.inBounds = true → s.gridFault kx ky = none → s.clp.gridDue = true → s.sch.jobs = [] →
    Store.get (fun _ => none) s.clp.boundary 0 = none → s.clp.due.groups = [] → s.clp.due.flips = [] →
    ∃ t, exec (.regionGridSwitch bus) s = .next t ∧
      t.kx = kx ∧ t.ky = ky ∧ t.dmg.pendGrid = none) ∧
  (∀ (s : State) (bus : Bus) (id : Nat) (c : Cmd) (n : Nat) (new : Layer),
    Startable s id .layerDefine c → n = c.pb 16 0 6 → s.mayUseLayer c.client n = true → c.flag 17 7 = false →
    defineFault n (c.pb 17 0 4) (c.pb 17 4 1) (c.pb 8 0 36) (c.p 20 2) (c.p 22 2) (c.p 24 2) (c.p 26 2) (c.p 28 2) = none →
    (isVideo n = true → videoSizeOk (c.p 20 2) (c.p 22 2) = true) →
    new = { s.shadowLayer n with kind := c.pb 17 4 1, format := c.pb 17 0 4, w := c.p 20 2, h := c.p 22 2, dw := c.p 24 2, dh := c.p 26 2 } →
    s.layerBusy n = false → (isVideo n = false → s.tileSlot n = none) → (isVideo n = true → new.shrinkFault = none) →
    new.depthOk = true →
    ∃ t, exec (.layerDefine id bus) s = .next t ∧
      t.fld (R.SCN_LAYER_CFG_enable n) = c.pb 17 6 1 ∧ t.fld (R.SCN_LAYER_STATUS_owned n) = 1) ∧
  (∀ (s : State) (bus : Bus) (id : Nat) (c : Cmd) (n : Nat),
    Startable s id .layerGeometry c → n = c.pb 16 0 6 → s.mayUseLayer c.client n = true → fitsSigned 24 (c.p 24 4) = true →
    fitsSigned 22 (c.p 28 4) = true → fitsSigned 22 (c.p 32 4) = true → fitsSigned 20 (c.p 36 4) = true →
    (c.p 36 4 ≠ 0 → s.fld (R.SCN_LAYER_CFG_kind n) = 1) →
    ({ s.shadowLayer n with x0 := sext 16 (c.p 18 2), y0 := sext 16 (c.p 20 2), a := sext 24 (c.p 24 4), b := sext 22 (c.p 28 4), c := sext 22 (c.p 32 4), k := sext 20 (c.p 36 4) } : Layer).depthOk = true →
    ∃ t, exec (.layerGeometry id bus) s = .next t ∧
      t.fld (R.SCN_LAYER_POS_x0 n) = c.p 18 2 ∧ t.fld (R.SCN_LAYER_POS_y0 n) = c.p 20 2) ∧
  (∀ (s : State) (bus : Bus) (id : Nat) (c : Cmd) (n : Nat),
    Startable s id .layerColour c → n = c.pb 16 0 6 → s.mayUseLayer c.client n = true → c.flag 17 3 = false →
    ∃ t, exec (.layerColour id bus) s = .next t ∧
      t.reg (R.SCN_LAYER_KEYMIN n) = BitVec.ofNat 64 (c.p 20 8) ∧ t.reg (R.SCN_LAYER_KEYMAX n) = BitVec.ofNat 64 (c.p 28 8)) ∧
  (∀ (s : State) (bus : Bus) (id : Nat) (c : Cmd),
    Startable s id .regionLayersRead c → 0 < c.p 18 2 → c.p 18 2 ≤ 4096 → s.gridOn = true → c.p 16 2 + c.p 18 2 ≤ s.regionCount →
    bus.bad = [] → c.itemList = false →
    ∃ t, exec (.regionLayersRead id bus) s = .next t ∧
      t.out = ((List.range (c.p 18 2)).map fun i => Output.hostWrite c.client (c.p 8 8 + 16 * i)
      (leBytes 8 (layerMask (s.layerList (c.p 16 2 + i))) ++ leBytes 8 (layerMask (s.droppedIn (c.p 16 2 + i))))).reverse ++ s.out) ∧
  (∀ (s : State) (p v : Nat) (d : List Byte),
    p < 8 → s.fld R.SCN_TRS_CFG_enable = 1 → (TrsHead.of d).sync = 0x7A53 → (TrsHead.of d).version = 1 →
    (TrsHead.of d).stated d = d.length → d.length ≤ 9000 → crc32c (d.take (d.length - 4)) = leAt d (d.length - 4) 4 →
    s.slotOfStream (TrsHead.of d).id = some v → (s.stream v).sources.testBit p = true →
    (s.countTrs v 0 1).trsTest v (TrsHead.of d) d (slice d ((TrsHead.of d).payloadAt ((TrsHead.of d).subsamples d)) (TrsHead.of d).length) false = .accepted →
    (TrsHead.of d).apron = false →
    ∃ t, exec (.trastosPacketArrival p d false) s = .next t ∧
      t.fld (R.SCN_TRS_CNT_count v 0) = satAdd 32 (s.fld (R.SCN_TRS_CNT_count v 0)) 1) ∧
  (∀ (s : State) (v : Nat) (h : Hole) (rest : List Hole),
    v < 64 → (s.stream v).holes = h :: rest → s.trs.units = [] →
    ∃ t, exec (.holeLossWaitExpiry v) s = .next t ∧
      (t.stream v).holes = (s.stream v).holes.filter (fun k => k.at_ != h.at_)) ∧
  (∀ (s : State) (v f n : Nat) (u : TrsUnit),
    v < 64 → s.fld (R.SCN_TRS_STREAM_enable v) = 1 → s.unitOf v f n = some u → u.stage = 0 →
    (s.trsGroup (s.slotGroup v)).markers.any (fun m => m.frame == f) = true →
    ∃ t, exec (.unitIncompleteExpiry v f n) s = .next t ∧
      (t.unitOf v f n).map TrsUnit.stage = some 3) ∧
  (∀ (s : State) (n : Nat) (j : CmpJob) (u : TrsUnit) (a : Wrapper) (e : JobEnd) (t1 : State),
    n < 8 → s.unitJob n = some j → j.dir = 0 → j.cls = 1 → a = Wrapper.of j.data → e = a.inflate j.data j.dst →
    s.unitOf (j.who.getD 0 0) (j.who.getD 1 0) (j.who.getD 2 0) = some u → u.stage = 1 → u.type = 0x10 → s.unitWaits u = false →
    e.out.length = j.dst → t1 = (s.countOutcome n j e.status e.reason).freeUnit n e.consumed j.dst →
    t1.bodySize u a = some j.dst → e.status = 0 → s.inBounds = true →
    ∃ t, exec (.unitInflated n) s = .next t ∧
      t.unitJob n = none) ∧
  (∀ (s : State) (g c x : Nat),
    s.stagingFrame g = some c → (s.trsGroup g).markers.any (fun m => m.frame == c) = false →
    (((s.trsGroup g).markers.map Marker.frame).filter fun f => !frameAtOrBefore f c).foldl lowerFrame none = some x →
    ∃ t, exec (.trsMarkerMissing g) s = .next t ∧
      (t.trsGroup g).foldTo = some x) ∧
  (∀ (s : State) (bus : Bus) (id v : Nat) (c : Cmd),
    Startable s id .streamBind c → v = c.pb 18 0 6 → c.flag 19 1 = false →
    s.bindFault v (c.p 16 2) (c.pb 20 0 6) (c.pb 21 0 4) (c.pb 22 0 6) (c.flag 20 7) = none →
    (c.flag 19 0 = true → s.fld R.SCN_TRS_HOLD_BASE_base ≠ 0) → s.slotForeign v c.client = false →
    c.flag 20 7 = true ∨ s.mayUseLayer c.client (c.pb 20 0 6) = true → c.pb 8 0 36 % 64 = 0 → (c.pb 22 0 6).testBit 2 = false →
    c.client < 16 →
    ∃ t, exec (.streamBind id bus) s = .next t ∧
      t.fld (R.SCN_TRS_STREAM_stream_id v) = c.p 16 2 ∧ t.fld (R.SCN_TRS_STREAM_layer v) = c.pb 20 0 6) ∧
  (∀ (s t1 : State) (bus : Bus) (id : Nat) (c : Cmd) (d : List Byte) (r : Arrival),
    Startable s id .trastosSubmit c → 36 ≤ c.p 16 4 → c.p 16 4 ≤ 9000 → s.fld R.SCN_TRS_HOLD_BASE_base ≠ 0 → c.flag 20 0 = false →
    busRead bus (c.p 8 8) (c.p 16 4) = some d → (TrsHead.of d).extCrypto = false →
    (TrsHead.of d).payloadAt 0 + (TrsHead.of d).length + 4 = c.p 16 4 → s.trsArrive 8 d false = (t1, r) →
    ∃ t, exec (.trastosSubmit id bus) s = .next t ∧
      t = t1.finishAs c [r.item]) ∧
  (∀ (s : State) (bus : Bus) (id : Nat) (c : Cmd) (d : List Byte),
    Startable s id .kekEstablish c → busRead bus (c.p 8 8) 97 = some d → onCurve d = true →
    keyForeign (Store.get (fun _ => none) s.trs.keks (c.pb 16 0 2)) c.client = false →
    ∃ t, exec (.kekEstablish id bus) s = .next t ∧
      Store.get (fun _ => none) t.trs.keks (c.pb 16 0 2) = some ⟨c.client, [], kekOf ((List.range 48).map fun i => Config.ecdh d i)⟩) ∧
  (∀ (s : State) (bus : Bus) (id : Nat) (c : Cmd) (q : KeySlot),
    Startable s id .keyLoad c → c.flag 10 0 = false → Store.get (fun _ => none) s.trs.keks (c.pb 9 0 2) = some q →
    q.owner = c.client → (∀ j, j < 128 → Store.get (fun _ => none) s.trs.keys j = none) →
    ∃ t, exec (.keyLoad id bus) s = .next t ∧
      Store.get (fun _ => none) t.trs.keys (c.pb 8 0 7) = (keyUnwrap q.key (slice c.params 24 24)).map (fun key => ⟨c.client, slice c.params 8 16, key⟩)) ∧
  (∀ (s : State) (bus : Bus) (id : Nat) (c : Cmd),
    Startable s id .keyPublicRead c → busFails bus (c.p 8 8) 97 = false → c.itemList = false →
    ∃ t, exec (.keyPublicRead id bus) s = .next t ∧
      t.out = .hostWrite c.client (c.p 8 8) ((List.range 97).map Config.publicKey) :: s.out) ∧
  (∀ (s : State) (bus : Bus) (id k n q refs outB : Nat) (runs : List (Nat × Nat)) (c : Cmd) (l : Layer),
    Startable s id .decodeAssign c → s.fld (R.PWC_DOMAIN_depth 24) = 0 → n = c.pb 8 0 5 → c.flag 9 0 = false →
    c.flag 9 1 = false → k = 2 * n → s.decStream k = none → l = s.shadowLayer n → 1 ≤ c.pb 11 0 5 → c.pb 11 0 5 ≤ 16 →
    s.mayUseLayer c.client n = true → q = c.p 10 1 → q < 16 → s.pipeLoad q k + l.load16 false (c.p 12 2) ≤ 16 * pipeC →
    s.layerBusy n = false → refs = c.pb 11 0 5 * pictureBytes (l.chroma false) l.w l.h (l.sampleBytes false) →
    outB = pictureBytes (l.chroma false) l.pw l.ph (l.sampleBytes false) → s.poolFind ((refs + 3 * outB) / 4096) k = some runs →
    16 ≤ c.p 12 2 → c.p 12 2 ≤ 3840 → videoSizeOk l.w l.h = true →
    ∃ t, exec (.decodeAssign id bus) s = .next t ∧
      t.fld (R.DEC_LAYER_CFG_assigned n) = 1 ∧ t.fld (R.DEC_LAYER_CFG_pipe n) = q) ∧
  (∀ (s : State) (p k : Nat) (rap : Bool) (u : TrsUnit) (d : DecStream),
    p < 16 → s.pipeBusy p = none → s.enginesMay = true → s.hst.held = [] → s.trs.units.find? (fun u => s.pipeMay p u) = some u →
    u.encrypted = false → s.decKey u = some k → s.decStream k = some d → d.skipping = [] → s.missedClamp u = false →
    ∃ t, exec (.decodeStart p 0 rap) s = .next t ∧
      t.pipeBusy p = some (u.slot, u.frame, u.unit)) ∧
  (∀ (s : State) (p k v f n w h bits chroma slot : Nat) (u : TrsUnit) (d : DecStream) (q : Picture),
    p < 16 → s.pipeBusy p = some (v, f, n) → s.unitOf v f n = some u → s.decKey u = some k → s.decStream k = some d →
    (s.shadowLayer (k / 2)).takes (k % 2 == 1) w h bits chroma = true → s.mayApply (s.slotGroup u.slot) u.frame = true →
    s.fenced (k / 2) = false → s.keeps (k / 2) u.frame = false → d.retired = [] →
    s.freeSlot { d with staged := none } = some slot →
    ∃ t, exec (.pictureOutput p 0 ⟨w, h, bits, chroma, some q⟩) s = .next t ∧
      t.pipeBusy p = none) ∧
  (∀ (s : State) (q cl r bay p : Nat),
    s.dmg.pendGrid = none → ((List.range 16).map fun i => (s.sch.lastGroup + 1 + i) % 16).find? s.qualifies = some q →
    s.pickClass q = some cl → s.sch.again.find? (fun a => a.node == 16 * q + cl) = none → s.firstEntry (16 * q + cl) = some r →
    s.chooseBay (fun _ => true) = some (bay, p) → s.hst.held = [] →
    ∃ t, exec (.regionSelect) s = .next t ∧
      t.region r = { s.region r with state := 2 }) ∧
  (∀ (s : State) (bay : Nat) (j : Job),
    s.sch.jobs.find? (fun j => j.bay == bay && j.stage == .filling) = some j → demandLines 4096 (s.footprintLines j.region) = 0 →
    ∃ t, exec (.fillComplete bay) s = .next t ∧
      t.sch.jobs = s.sch.jobs.map (fun x => if x.id = j.id then { j with stage := .filled, texels := s.dram, overBudget := false, demand := 0 } else x)) ∧
  (∀ (s : State) (bay : Nat) (j : Job),
    s.sch.jobs.find? (fun j => j.bay == bay && j.stage == .filled) = some j → s.synthOf bay = none → j.again = false →
    s.checkOf j.region = none →
    ∃ t, exec (.synthesisStart bay) s = .next t ∧
      (t.job? j.id).map Job.stage = some .synth ∧
      (t.job? j.id).map Job.rows = some (s.synthesise (s.underNow j.region) j.texels j.region (s.phaseOf j.region))) ∧
  (∀ (s : State) (bay clocks : Nat) (lines : List Nat) (j : Job) (u : Under),
    s.synthOf bay = some j → lines ≠ [] → j.under = some u → bay < 64 →
    ∃ t, exec (.demandLineArrival bay lines clocks) s = .next t ∧
      t.sch.jobs = s.sch.jobs.map (fun x => if x.id = j.id then { j with
      texels := lines.foldl s.fetchLine j.texels, demand := j.demand - lines.length
      rows := j.rows.take j.sent ++ (s.synthesise u (lines.foldl s.fetchLine j.texels) j.region j.phase).drop j.sent } else x)) ∧
  (∀ (s : State) (bay : Nat) (j : Job),
    s.synthOf bay = some j → j.asked = false → j.pieces = false → j.check = none →
    ∃ t, exec (.launchRequest bay) s = .next t ∧
      (t.job? j.id).map Job.asked = some true) ∧
  (∀ (s : State) (r : Nat) (j : Job),
    s.jobOf r = some j → j.pieces = true → j.asked = false → j.stage = .buffered → j.pieceFits = true →
    j.nextPiece ≠ j.rows.length → j.cut = false →
    ∃ t, exec (.pieceReady r) s = .next t ∧
      (t.job? j.id).map Job.asked = some true) ∧
  (∀ (s : State) (bay clocks : Nat) (j : Job),
    s.synthOf bay = some j → j.pieces = true →
    ∃ t, exec (.rayBufferDrained bay clocks) s = .next t ∧
      t.fld (bayStat bay 3) = satAdd 32 (s.fld (bayStat bay 3)) (clocks / 64)) ∧
  (∀ (s : State) (bay : Nat) (bus : Bus) (j : Job),
    s.synthOf bay = some j → j.demand = 0 → j.check = none → j.caps = [] →
    ∃ t, exec (.synthesisEnd bay bus) s = .next t ∧
      (t.job? j.id).map Job.stage = some .buffered) ∧
  (∀ (s : State) (bus : Bus) (id : Nat) (c : Cmd) (bay p : Nat),
    Startable s id .rayProbe c → s.geomValid = true → c.pb 16 0 40 / 256 < s.hx * s.hy → c.pb 16 0 40 % 256 < s.views →
    0 < c.p 24 2 → c.p 24 2 ≤ 4096 → c.pb 16 0 40 / 256 * s.views + c.pb 16 0 40 % 256 + c.p 24 2 ≤ s.hx * s.hy * s.views →
    s.gridOn = true → s.probeBay = some (bay, p) → s.fillFree bay = true → s.eng.probes = [] →
    ∃ t, exec (.rayProbe id bus) s = .next t ∧
      t.eng.probes = [⟨id, bay, c.pb 16 0 40 / 256 * s.views + c.pb 16 0 40 % 256, c.p 24 2,
      some (t.underRays (c.pb 16 0 40 / 256 * s.views + c.pb 16 0 40 % 256) (c.p 24 2)), false⟩]) ∧
  (∀ (s : State) (bus : Bus) (id : Nat) (c : Cmd) (k : Nat) (d : CheckDef),
    Startable s id .checkRegionDefine c → k = c.p 8 1 →
    d = ⟨true, c.pb 10 0 4, c.p 12 2, c.p 14 2, c.p 16 2, c.p 18 2, c.p 20 6⟩ → s.mayUseCheck c.client k = true →
    c.flag 9 0 = true →
    (∀ x, x < 256 → x ≠ k → ((s.checkShadow x).enable && (s.checkShadow x).overlaps d) = false ∧ ((s.checkAct x).enable && (s.checkAct x).overlaps d) = false) →
    d.gw ≠ 0 → d.gh ≠ 0 → d.gx0 + d.gw ≤ s.gx → d.gy0 + d.gh ≤ s.gy → s.fld R.GLU_SQC_TABLE_BASE_base ≠ 0 → s.gridOn = true →
    (s.checkShadow k).enable = false → (s.checkAct k).enable = false → (∀ r, r ∈ s.members d → s.regionBytes r ≤ 1048576) →
    ∃ t, exec (.checkRegionDefine id bus) s = .next t ∧
      Store.get (fun _ => {}) t.glu.shadow k = d) ∧
  (∀ (s : State) (bus : Bus) (id : Nat) (c : Cmd) (k : Nat),
    Startable s id .sqcSignatureLoad c → k = c.p 16 1 → s.mayUseCheck c.client k = true → (s.checkShadow k).enable = true →
    c.p 24 4 ≠ 0 → c.p 20 4 + c.p 24 4 ≤ (s.checkShadow k).gw * (s.checkShadow k).gh → s.isCopying 2 k = false →
    s.clampDue (s.checkShadow k).group = false → c.flag 17 0 = false → bus.bad = [] →
    ∃ t, exec (.sqcSignatureLoad id bus) s = .next t ∧
      t.dram = (((((s.members (s.checkShadow k)).drop (c.p 20 4)).take (c.p 24 4)).zip (List.range (c.p 24 4))).foldl (fun u e =>
      u.memWrite (s.sigAddr (1 - s.fld (R.GLU_SQC_CTL_copy k)) e.1)
        (leBytes 8 (leNat ((List.range 8).map fun i => busByte bus (c.p 8 8 + 8 * e.2 + i)) % 2 ^ 33))) s).dram) ∧
  (∀ (s : State) (bus : Bus) (id : Nat) (c : Cmd),
    Startable s id .sqcCapture c → 0 < c.p 18 2 → c.p 18 2 ≤ 4096 → c.p 22 2 ≠ 0 → s.gridOn = true →
    c.p 16 2 + c.p 18 2 ≤ s.regionCount → s.glu.captures.length < 16 → s.deferFull c = false →
    ∃ t, exec (.sqcCapture id bus) s = .next t ∧
      t.glu.captures = s.glu.captures ++ [⟨id, c.p 16 2, (List.range (c.p 18 2)).map fun i => c.p 16 2 + i, c.p 22 2, c.p 8 8⟩]) ∧
  (∀ (s : State) (bus : Bus) (id : Nat) (k : Capture),
    s.glu.captures.find? (fun x => x.cmd == id && x.frames == 0) = some k →
    ∃ t, exec (.captureTimeout id bus) s = .next t ∧
      t.glu.captures = s.glu.captures.filter (fun x => x.cmd != id)) ∧
  (∀ (s : State) (seg g at_ : Nat),
    Store.get (fun _ => none) s.clp.boundary seg = some at_ → g < 16 → s.segOrZero (s.fld (R.CLP_GROUP_CFG_seg g)) = seg →
    s.due g at_ = true → s.wallGroup g = false → (s.late g).ready = true →
    ∃ t, exec (.clampBoundary seg) s = .next t ∧
      (g, at_) ∈ t.clp.due.groups) ∧
  (∀ (s : State) (bus : Bus) (g at_ n : Nat),
    s.clp.due.groups = [(g, at_)] → s.clp.due.flips = [] → g < 16 → 8 ≤ n → n < 64 → s.actFld (R.SCN_LAYER_CFG_group n) = g →
    s.wallGroup g = false → s.inBounds = true →
    ∃ t, exec (.applicationPoint bus) s = .next t ∧
      t.clp.due = {} ∧ t.fld (R.CLP_GROUP_FRAME_frame g) = (s.snapOf g).frame % 2 ^ 32 ∧
      t.fld (R.CLP_GROUP_TIME_time g) = at_ % 2 ^ 64) ∧
  (∀ (s : State) (f : CopyFwd),
    s.scn.copying.find? (fun x => x.kind == 1 && x.who == 0) = some f → f.kind = 1 →
    ∃ t, exec (.copyForwardDone 1 0) s = .next t ∧
      t.dram = (f.rects.foldl (fun u r => (List.range (r.y1 - r.y0).toNat).foldl (fun v j =>
      v.memWrite (s.vcfAddr (1 - s.scn.vcfCopy) + 4 * ((r.y0.toNat + j) * s.hx + r.x0.toNat))
        (v.memRead (s.vcfAddr s.scn.vcfCopy + 4 * ((r.y0.toNat + j) * s.hx + r.x0.toNat)) (4 * (r.x1 - r.x0).toNat)).2.1) u) s).dram) ∧
  (∀ (s : State) (g : Nat),
    (s.hasSeg g = true ∨ g = 0) → (s.seg g).freeRun = false →
    ∃ t, exec (.freeRunEntry g) s = .next t ∧
      (t.seg g).freeRun = true) ∧
  (∀ (s : State) (g : Nat),
    (s.seg g).freeRun = true →
    ∃ t, exec (.freeRunBoundary g) s = .next t ∧
      t.fld (R.PNL_SEG_FRAME_frame g) = (s.fld (R.PNL_SEG_FRAME_frame g) + 1) % 2 ^ 32) ∧
  (∀ (s : State) (bus : Bus) (id : Nat) (c : Cmd) (g : Nat),
    Startable s id .clampArm c → g = c.pb 16 0 4 → s.fld (R.CLP_GROUP_CFG_source g) = 0 →
    Store.get (fun _ => none) s.clp.arms g = none → s.deferFull c = false →
    ∃ t, exec (.clampArm id bus) s = .next t ∧
      Store.get (fun _ => none) t.clp.arms g = some (c.p 8 8, some id) ∧ t.fld (R.CLP_GROUP_STATUS_armed g) = 1) ∧
  (∀ (s : State) (bus : Bus) (id : Nat) (c : Cmd) (k : Nat),
    Startable s id .fenceArm c → k = c.pb 14 0 3 → s.fenced k = true → s.mayUseLayer c.client k = true →
    Store.get (fun _ => none) s.clp.fences k = none → s.deferFull c = false →
    ∃ t, exec (.fenceArm id bus) s = .next t ∧
      t.fld (R.CLP_FENCE_STATE_armed k) = 1 ∧ Store.get (fun _ => none) t.clp.fences k = some ⟨id, c.p 12 2, 0⟩) ∧
  (∀ (s : State) (bus : Bus) (id : Nat) (c : Cmd) (n : Nat) (l : Layer),
    Startable s id .layerDamage c → n = c.pb 8 0 6 → c.flag 9 0 = true → l = s.activeLayer n → c.p 16 2 ≠ 0 → c.p 18 2 ≠ 0 →
    c.p 12 2 + c.p 16 2 ≤ l.w → c.p 14 2 + c.p 18 2 ≤ l.h → s.mayUseLayer c.client n = true → l.enable = true →
    ∃ t, exec (.layerDamage id bus) s = .next t ∧
      t = (s.markAll (s.regionsOf (l.mapTexels ⟨c.p 12 2, c.p 12 2 + c.p 16 2, c.p 14 2, c.p 14 2 + c.p 18 2⟩) (s.kerf n))).finishOne c) ∧
  (∀ (s : State) (bus : Bus) (id : Nat) (c : Cmd),
    Startable s id .regionDirty c → s.gridOn = true → c.flag 8 0 = false → c.p 16 2 ≠ 0 → c.p 18 2 ≠ 0 →
    c.p 12 2 + c.p 16 2 ≤ s.gx → c.p 14 2 + c.p 18 2 ≤ s.gy →
    ∃ t, exec (.regionDirty id bus) s = .next t ∧
      t = (s.markAll (s.regionBlock (c.p 12 2) (c.p 12 2 + c.p 16 2) (c.p 14 2) (c.p 14 2 + c.p 18 2))).finishOne c) ∧
  (∀ (s : State) (q : Nat) (j : Job) (stripes : List Stripe),
    q < 16 → s.groupIn q = true → (s.pg q).wire = none → s.fld (R.PNL_GROUP_STATUS_held q) = 0 → s.nextBurst q = some j →
    j.node / 16 = q → ceilDiv (40 + j.rowBytes) 4096 ≤ (s.pg q).available →
    ∃ t, exec (.burstStart ⟨q, stripes⟩) s = .next t ∧
      (t.pg q).seq = ((s.pg q).seq + 1) % 2 ^ 32 ∧ t.fld (R.PNL_GROUP_STATUS_bursting q) = 1) ∧
  (∀ (s : State) (q : Nat) (w : Wire) (j : Job),
    q < 16 → (s.pg q).wire = some w → s.job? w.job = some j → s.fld (R.PNL_GROUP_STATUS_held q) = 0 →
    (w.first + w.rows) * j.rowRays ≤ j.ready → s.coversPiece q w w.rows = true → w.first + w.rows ≠ j.rows.length →
    j.cut = false →
    ∃ t, exec (.burstEnd q) s = .next t ∧
      t.out = .stream q (closePiece ((j.rows.drop w.first).take w.rows).flatten 0xFFFF false false false) :: s.out ∧
      (t.pg q).wire = none) ∧
  (∀ (s : State) (q rows : Nat) (w : Wire) (j : Job),
    q < 16 → (s.pg q).wire = some w → s.job? w.job = some j → s.fld (R.PNL_GROUP_STATUS_held q) = 0 →
    s.gateOpen q (w.node % 16) = false → 0 < rows → rows < w.rows → (w.first + rows) * j.rowRays ≤ j.ready →
    s.coversPiece q w rows = true → j.node / 16 = q → j.started = true → j.asked = false →
    ∃ t, exec (.gateCloseSplit q rows) s = .next t ∧
      t.out = .forward q (linkMessage 0x85 q (leBytes 4 w.seq ++ leBytes 2 (w.first + rows - 1))) ::
      .stream q (closePiece ((j.rows.drop w.first).take rows).flatten (w.first + rows - 1) true false false) :: s.out) ∧
  (∀ (s : State) (q c : Nat),
    q < 16 → c < 16 → s.gateOpen q c = true → s.fld (R.PNL_GROUP_STATUS_held q) = 0 →
    ((s.pg q).wire.any fun w => w.node == 16 * q + c) = true → s.backlogged (16 * q + c) = true →
    ∃ t, exec (.classCreditTick) s = .next t ∧
      t.node (16 * q + c) = ({ s.node (16 * q + c) with
    openTime := (s.node (16 * q + c)).openTime + 8, credit := (s.node (16 * q + c)).credit - perTick (s.slopes q c).2,
    s := (s.node (16 * q + c)).s + perTick (s.slopes q c).2 } : Node).bound (s.limits q c).1 (s.limits q c).2) ∧
  (∀ (s : State) (q : Nat) (l : GateList),
    (s.gates q).waiting = some l → l.entries ≠ [] → l.entries.length ≤ 64 → q < 16 →
    ∃ t, exec (.gateListStart q) s = .next t ∧
      t.gates q = {
    active := some l, waiting := none, waitStart := 0,
    start := (if l.anchor = 0 then (s.gates q).waitStart else s.fld (R.PNL_SEG_TE_TIME_time (s.segOfGroup q))) }) ∧
  (∀ (s : State) (c q : Nat),
    c < 16 → q < 16 → (∀ k, k < 16 → (s.pg k).wire = none) →
    ∃ t, exec (.accountingIntervalEnd) s = .next t ∧
      t.fld (R.SCH_CLASS_DEBT_bytes c) = (s.debtAfter c).1 % 2 ^ (R.SCH_CLASS_DEBT_bytes c).w) ∧
  (∀ (s : State) (r : Nat),
    (s.region r).state = 1 → (s.region r).late = false → s.fld (R.SCH_CLASS_GUAR_max_delay ((s.region r).node % 16)) ≠ 0 →
    s.fld (R.SCH_CLASS_GUAR_max_delay ((s.region r).node % 16)) * 10000 < s.ptp.f - (s.region r).since → (s.region r).node < 256 →
    ∃ t, exec (.delayBreach r) s = .next t ∧
      t.region r = { s.region r with late := true }) ∧
  (∀ (s : State) (k : Nat),
    k < 256 →
    ∃ t, exec (.histogramSample) s = .next t ∧
      (t.node k).depthHist = histAdd (s.node k).depthHist (s.entriesOf k).length) ∧
  (∀ (s : State) (bus : Bus) (id : Nat) (c : Cmd) (q : Nat),
    Startable s id .classSet c → q < 16 → (c.p 8 2).testBit q = true →
    ∃ t, exec (.classSet id bus) s = .next t ∧
      t.fld (R.SCH_CLASS_SLOPE_idle_slope q (c.pb 10 0 4)) = c.p 12 2) ∧
  (∀ (s : State) (bus : Bus) (id : Nat) (c : Cmd),
    Startable s id .guaranteeSet c → (c.pb 8 0 4 = 0 → ∀ i, i < 15 → s.prec (i + 1) ≤ c.pb 9 0 4) →
    (c.pb 8 0 4 ≠ 0 → c.pb 9 0 4 ≤ s.prec 0) →
    ∃ t, exec (.guaranteeSet id bus) s = .next t ∧
      t.prec (c.pb 8 0 4) = c.pb 9 0 4) ∧
  (∀ (s : State) (bus : Bus) (id : Nat) (c : Cmd) (r : Nat),
    Startable s id .regionMapSet c → s.gridOn = true → c.p 16 2 ≠ 0 → c.p 18 2 ≠ 0 → c.p 12 2 + c.p 16 2 ≤ s.gx →
    c.p 14 2 + c.p 18 2 ≤ s.gy → c.p 22 1 ≠ 0 →
    r ∈ s.regionBlock (c.p 12 2) (c.p 12 2 + c.p 16 2) (c.p 14 2) (c.p 14 2 + c.p 18 2) →
    (c.flag 21 0 = true → s.servesSeg (c.pb 20 4 4) (s.segOfRegion r) = true) →
    ∃ t, exec (.regionMapSet id bus) s = .next t ∧
      t.fld (R.SCH_REGION_MAP_class r) = c.pb 20 0 4) ∧
  (∀ (s : State) (bus : Bus) (id : Nat) (c : Cmd) (q : Nat),
    Startable s id .gateListSet c → q < 16 → (c.p 28 2).testBit q = true → c.flag 31 1 = false → 0 < c.pb 30 0 7 →
    c.pb 30 0 7 ≤ 64 → 1000 ≤ c.p 24 4 → c.p 24 4 ≤ 1000000000 → bus.bad = [] →
    (∀ i, i < c.pb 30 0 7 → 100 ≤ bitsOf (leNat ((List.range 8).map fun j => busByte bus (c.p 8 8 + 8 * i + j))) 16 32 ∧ bitsOf (leNat ((List.range 8).map fun j => busByte bus (c.p 8 8 + 8 * i + j))) 48 16 = 0) →
    s.now ≤ c.p 16 8 → s.deferFull c = false → (∀ g, (s.gates g).waiting = none) →
    ∃ t, exec (.gateListSet id bus) s = .next t ∧
      (t.gates q).waiting = some ⟨(List.range (c.pb 30 0 7)).map (fun i =>
      (bitsOf (leNat ((List.range 8).map fun j => busByte bus (c.p 8 8 + 8 * i + j))) 0 16,
       bitsOf (leNat ((List.range 8).map fun j => busByte bus (c.p 8 8 + 8 * i + j))) 16 32)), c.p 16 8, c.p 24 4, c.pb 31 0 1, id⟩) ∧
  (∀ (s : State) (bus : Bus) (id : Nat) (c : Cmd),
    Startable s id .schedStatsRead c → c.flag 18 0 = false → c.flag 18 1 = false → bus.bad = [] → c.itemList = false →
    (∀ k, (s.node k).depthHist.length = 16 ∧ (s.node k).delayHist.length = 16) →
    ∃ t, exec (.schedStatsRead id bus) s = .next t ∧
      t.out = ((List.range (16 * popCount 16 (c.p 16 2))).map fun i =>
      Output.hostWrite c.client (c.p 8 8 + 128 * i)
        (histBytes (s.node (16 * ((setBits 16 (c.p 16 2)).getD (i / 16) 0) + i % 16)).depthHist ++
         histBytes (s.node (16 * ((setBits 16 (c.p 16 2)).getD (i / 16) 0) + i % 16)).delayHist)).reverse ++ s.out) ∧
  (∀ (s : State) (q count due : Nat),
    q < 16 → s.link = 3 → (s.pg q).wire = none → (count % 2 ^ 32 + 2 ^ 32 - (s.pg q).base) % 2 ^ 32 ≤ (s.pg q).outstanding →
    ∃ t, exec (.backchannelCredit q count ⟨false, due⟩) s = .next t ∧
      (t.pg q).r = (s.pg q).r + (count % 2 ^ 32 + 2 ^ 32 - (s.pg q).base) % 2 ^ 32 ∧ (t.pg q).base = count % 2 ^ 32) ∧
  (∀ (s : State) (g frame : Nat),
    g < 4 → s.hasSeg g = true → (s.seg g).teSeen.contains (frame % 2 ^ 32) = false → (s.seg g).byPin = false →
    s.teFromPin g = false →
    ∃ t, exec (.backchannelTe g frame) s = .next t ∧
      t.fld (R.PNL_SEG_TE_TIME_time g) = s.now - s.pnl.teLatency ∧ t.fld (R.PNL_SEG_FRAME_frame g) = frame % 2 ^ 32)

/-- Each row named below completes: tePinEdge, backchannelRow, backchannelStatus, backchannelNak, backchannelTrain,
descriptorReceived, holdReceived, releaseReceived, holdLimitExpiry, underrun, backchannelLockLoss, backchannelRelock,
laneRemoval, laneMapApply, trainingLimitExpiry, haltedRetryExpiry, linkLeaveActive, linkReset, laneService, quietEntry,
adaptationStep, eyeSetComplete, laneMeasure, laneTxSet, engineFault, lockstepWatchdogExpiry, baySelfTest, bentWake,
bentClockChange, drainComplete, bentRetireImmediate, bayService, bentService, wallConfigure, helloSend, helloReceived,
worvelPacketReceived, worvelCredit, timeExchange, summarySend, memberTimeout, voteCutoff, masterDecide, wallDecisionLost,
worvelPortLoss, ethFrameReceived, ethFrameTransmit, pauseReceived, ethLinkState, preemptVerifyRetry, ethGateListStart,
ethRingSet, ethGateListSet, ptpLoadO, ptpStep, ptpLoadRho, triggerArmWrite, triggerFire, captureEdge, capTimeRead, ptpNowRead,
dramRequestAccept, dramRequestServe, refreshDue, mr4Poll, selfRefreshEntry, selfRefreshExit, opPointChange, gatheringStep,
channelMapOut, windowSet, dramOpSet, dramTrain, channelService, compressionJobStart, compressionJobEnd,
scarfDeflateWaitExpiry, compJob, blitJob, blockJobStart, blockWatermark. A clause takes one row with every state and every
operands that meet the conditions written before it, those under which the chapter gives the row its own effect (a dispatched
command with operands in range and nothing in its way, or the situation in which the row comes), and concludes that exec
answers a next state in which the values written for the row stand; of a deferred command that is the accepted one. Refusals,
waits, states in which a row changes nothing, and all else that a row writes or leaves are in its family's statement. -/
def Obligations.LinkLaneAndMemoryRowsComplete : Prop :=
  (∀ (s : State) (g : Nat) (rising : Bool),
    g < 4 → s.hasSeg g = true → bit (!rising) = s.fld (R.PNL_TE_CFG_edge g) →
    (s.seg g).lastTe.all (fun f => decide (s.framePeriod ≤ 2 * (s.ptp.f - f))) = true → (s.seg g).early = none →
    (s.setSeg g { s.seg g with lastPin := some s.ptp.f }).teFromPin g = true →
    ∃ t, exec (.tePinEdge g rising) s = .next t ∧
      t.fld (R.PNL_SEG_TE_TIME_time g) = s.now) ∧
  (∀ (s : State) (g row frame : Nat),
    g < 4 → s.hasSeg g = true → (s.seg g).rowsSeen.contains (frame, row) = false →
    ∃ t, exec (.backchannelRow g row frame) s = .next t ∧
      t.fld (R.PNL_SEG_ROW_row g) = row % 65536) ∧
  (∀ (s : State) (q lanes ucw worst : Nat),
    q < 16 → s.link = 3 → worst < 12 → s.nextMask q &&& (4095 - lanes % 4096) = 0 → ucw ≤ s.fld (R.PNL_GROUP_CFG_ucw_limit q) →
    ∃ t, exec (.backchannelStatus q 0 lanes ucw worst) s = .next t ∧
      t.fld (R.LAN_CNT_count (panelLane q worst) 6) = satAdd (R.LAN_CNT_count (panelLane q worst) 6).w (s.fld (R.LAN_CNT_count (panelLane q worst) 6)) ucw) ∧
  (∀ (s : State) (q seq reason : Nat) (p : Piece),
    q < 16 → s.link = 3 → ((s.pg q).pieces.filter fun p => p.seq == seq).getLast? = some p → p.stale = false → s.inBounds = true →
    ∃ t, exec (.backchannelNak q seq reason) s = .next t ∧
      t.fld (R.PNL_GROUP_CNT_count q 3) = satAdd 32 (s.fld (R.PNL_GROUP_CNT_count q 3)) 1) ∧
  (∀ (s : State) (q lane taps ctl : Nat),
    q < 16 → lane < 12 → (s.pg q).training.testBit lane = true → ctl.testBit 4 = false → ctl.testBit 0 = false →
    ∃ t, exec (.backchannelTrain q lane taps ctl) s = .next t ∧
      t.taps (panelLane q lane) = ((s.setTaps (panelLane q lane) (tapRequests (s.taps (panelLane q lane)) (tapBits taps)).1)).taps (panelLane q lane) ∧
      t.out = .forward q (linkMessage 0x82 q (leBytes 1 lane ++ leBytes 1 (tapByte (tapRequests (s.taps (panelLane q lane)) (tapBits taps)).2))) :: s.out) ∧
  (∀ (s : State) (q : Nat) (bytes : List Byte),
    q < 16 → s.link = 2 → s.fld (R.PNL_GROUP_STATUS_bc_up q) = 1 → 4 ≤ bytes.length →
    crc32c (bytes.take (bytes.length - 4)) = leAt bytes (bytes.length - 4) 4 → (parseDesc bytes).fault = none →
    s.inBounds = true → s.hst.held = [] →
    ∃ t, exec (.descriptorReceived q bytes) s = .next t ∧
      t.link = 3) ∧
  (∀ (s : State) (q : Nat),
    q < 16 → s.link = 3 → s.fld (R.PNL_GROUP_STATUS_bc_up q) = 1 → s.fld (R.PNL_GROUP_STATUS_held q) = 0 →
    ∃ t, exec (.holdReceived q) s = .next t ∧
      t.fld (R.PNL_GROUP_STATUS_held q) = 1 ∧ t.fld (R.PNL_GROUP_CNT_count q 4) = satAdd 32 (s.fld (R.PNL_GROUP_CNT_count q 4)) 1) ∧
  (∀ (s : State) (q at_ : Nat),
    q < 16 → s.fld (R.PNL_GROUP_STATUS_held q) = 1 → (s.pg q).heldAt = some at_ →
    ∃ t, exec (.releaseReceived q) s = .next t ∧
      t.fld (R.PNL_GROUP_STATUS_held q) = 0 ∧
      t.fld (R.PNL_GROUP_CNT_count q 5) = satAdd 32 (s.fld (R.PNL_GROUP_CNT_count q 5)) ((s.ptp.f - at_) / 1000)) ∧
  (∀ (s : State) (q at_ : Nat),
    s.fld (R.PNL_GROUP_STATUS_held q) = 1 → (s.pg q).heldAt = some at_ → (s.pg q).longSaid = false →
    ∃ t, exec (.holdLimitExpiry q) s = .next t ∧
      t.pg q = { s.pg q with longSaid := true }) ∧
  (∀ (s : State) (q row : Nat) (w : Wire) (j : Job),
    q < 16 → (s.pg q).wire = some w → s.job? w.job = some j → s.fld (R.PNL_GROUP_STATUS_held q) = 0 → w.first ≤ row →
    row < w.first + w.rows → s.inBounds = true → row * j.rowRays ≤ j.ready → j.ready < (row + 1) * j.rowRays →
    s.coversPiece q w (row + 1 - w.first) = true → (s.region j.region).state = 3 →
    ∃ t, exec (.underrun q row) s = .next t ∧
      (t.pg q).wire = none ∧ (t.region j.region).state = 1) ∧
  (∀ (s : State) (q row written : Nat),
    q < 16 → s.fld (R.PNL_GROUP_STATUS_bc_up q) = 1 → s.inBounds = true →
    ∃ t, exec (.backchannelLockLoss q row written) s = .next t ∧
      t.fld (R.PNL_GROUP_STATUS_bc_up q) = 0 ∧ t.fld (R.LAN_BC_STATUS_lock q) = 0) ∧
  (∀ (s : State) (q : Nat) (inverted : Bool),
    q < 16 → s.fld (R.PNL_GROUP_STATUS_bc_up q) = 0 → s.link = 3 → (s.pg q).creditShort = false →
    ∃ t, exec (.backchannelRelock q inverted) s = .next t ∧
      t.fld (R.PNL_GROUP_STATUS_bc_up q) = 1) ∧
  (∀ (s : State) (q p : Nat),
    q < 16 → p < 12 → s.link = 3 → (s.nextMask q).testBit p = true → s.hst.held = [] →
    ∃ t, exec (.laneRemoval false q p) s = .next t ∧
      (t.pg q).map.map LaneMap.mask = some (s.nextMask q &&& (4095 - 2 ^ p))) ∧
  (∀ (s : State) (q row written : Nat) (m : LaneMap),
    q < 16 → s.link = 3 → (s.pg q).map = some m → m.mask < 4096 → s.groupIn q = true →
    s.fld (R.PNL_GROUP_CFG_min_lanes q) ≤ popCount 12 m.mask → m.waiters = [] → (s.pg q).trained < 4096 →
    ∃ t, exec (.laneMapApply false q row written) s = .next t ∧
      (t.pg q).map = none ∧ (t.pg q).trained = m.mask) ∧
  (∀ (s : State),
    s.link = 1 →
    ∃ t, exec (.trainingLimitExpiry .panel) s = .next t ∧
      t.link = (if s.quadsTrained then 2 else 4)) ∧
  (∀ (s : State),
    s.link = 4 → s.hst.held = [] →
    ∃ t, exec (.haltedRetryExpiry none) s = .next t ∧
      t.link = 1) ∧
  (∀ (s : State),
    s.link = 3 → s.hst.held = [] → s.inBounds = true →
    ∃ t, exec (.linkLeaveActive) s = .next t ∧
      t.link = 1) ∧
  (∀ (s : State) (bus : Bus) (id : Nat) (c : Cmd),
    Startable s id .linkReset c → c.p 10 2 ≠ 0 → (s.link = 1 ∨ s.link = 2) → s.deferFull c = false → s.pnl.reset = none →
    c.flag 8 0 = false →
    ∃ t, exec (.linkReset id bus) s = .next t ∧
      t.cmd.replies = (s.defer c 1).cmd.replies) ∧
  (∀ (s : State) (bus : Bus) (id : Nat) (c : Cmd),
    Startable s id .laneService c → c.pb 10 0 12 ≠ 0 → s.deferFull c = false → c.flag 9 0 = false → s.link ≠ 0 → s.link ≠ 4 →
    s.hst.held = [] →
    ∃ t, exec (.laneService id bus) s = .next t ∧
      t.cmd = (s.defer c (popCount 12 (c.pb 10 0 12))).cmd) ∧
  (∀ (s : State) (q : Nat),
    q < 16 → s.link = 3 → s.groupQuiet q = true → (∀ i, i ∈ s.workingLanes q → s.fld (R.LAN_CFG_quiet_enable i) = 1) →
    ∃ t, exec (.quietEntry q) s = .next t ∧
      (∀ i, i ∈ s.workingLanes q → t.fld (R.LAN_STATUS_state i) = 4 ∧
      t.fld (R.LAN_CNT_count i 2) = satAdd (R.LAN_CNT_count i 2).w (s.fld (R.LAN_CNT_count i 2)) 1)) ∧
  (∀ (s : State) (i ctle vga : Nat) (dfe levels : List Int),
    192 ≤ i → i < 256 → s.fld (R.LAN_CFG_adapt_freeze i) = 0 → s.fld (R.LAN_STATUS_state i) = 2 →
    ∃ t, exec (.adaptationStep i ctle ⟨dfe, levels⟩ vga) s = .next t ∧
      t.fld (R.LAN_RXEQ_ctle i) = min ctle 15 ∧ t.fld (R.LAN_RXEQ_dfe1 i) = toField 8 (clampInt (-128) 127 (dfe.getD 0 0))) ∧
  (∀ (s : State) (i rms corrected since : Nat) (eyes : List (Nat × Nat)),
    i < 256 → (s.fld (R.LAN_STATUS_state i) = 3 ∨ s.fld (R.LAN_STATUS_state i) = 4) →
    ∃ t, exec (.eyeSetComplete i eyes rms corrected since) s = .next t ∧
      t.fld (R.LAN_EYE_valid i) = 1 ∧ t.fld (R.LAN_EYE_eye i) = (worstEye eyes).1 % 4) ∧
  (∀ (s : State) (bus : Bus) (id : Nat) (c : Cmd),
    Startable s id .laneMeasure c → s.lan.measures.all (fun m => m.cmd != id) = true → 6 ≤ c.pb 20 0 4 → c.pb 20 0 4 ≤ 9 →
    0 < c.p 18 2 → c.p 18 2 ≤ 16 → c.p 16 2 + c.p 18 2 ≤ 256 → s.deferFull c = false →
    (∀ k, k < c.p 18 2 → s.fld (R.LAN_STATUS_state (c.p 16 2 + k)) = 3) →
    ∃ t, exec (.laneMeasure id bus []) s = .next t ∧
      t.cmd = (s.defer c (c.p 18 2)).cmd) ∧
  (∀ (s : State) (bus : Bus) (id : Nat) (c : Cmd),
    Startable s id .laneTxSet c → c.p 10 2 = 1 → (c.p 8 2 < 192 ∨ (224 ≤ c.p 8 2 ∧ c.p 8 2 < 256)) →
    tapsOk [sext 8 (c.p 12 1), sext 8 (c.p 13 1), (c.p 14 1 : Int), sext 8 (c.p 15 1)] = true →
    s.fld (R.LAN_STATUS_state (c.p 8 2)) ≠ 2 →
    ∃ t, exec (.laneTxSet id bus) s = .next t ∧
      (s.taps (c.p 8 2) = [sext 8 (c.p 12 1), sext 8 (c.p 13 1), (c.p 14 1 : Int), sext 8 (c.p 15 1)] → t.lan = s.lan ∧ t.cmd = (s.finishOne c).cmd) ∧
      (s.taps (c.p 8 2) ≠ [sext 8 (c.p 12 1), sext 8 (c.p 13 1), (c.p 14 1 : Int), sext 8 (c.p 15 1)] →
      t.lan.moves = s.lan.moves ++ [⟨id, 0, c.p 8 2, [sext 8 (c.p 12 1), sext 8 (c.p 13 1), (c.p 14 1 : Int), sext 8 (c.p 15 1)]⟩] ∧ t.cmd.replies = s.cmd.replies)) ∧
  (∀ (s : State) (bay e check ready : Nat),
    bay < 64 → e < 8 → s.bayRetired bay = false → s.spareFree bay = true → s.inBounds = true →
    ∃ t, exec (.engineFault bay [e] check ready) s = .next t ∧
      t.baySlot bay = e ∧ t.baySistered bay = true) ∧
  (∀ (s : State) (bay e ready : Nat),
    bay < 64 → e < 8 → s.bayRetired bay = false → s.spareFree bay = true → s.runsFree bay = true → s.inBounds = true →
    ∃ t, exec (.lockstepWatchdogExpiry bay e ready) s = .next t ∧
      t.baySlot bay = e ∧ t.baySistered bay = true) ∧
  (∀ (s : State) (bay : Nat) (x : BayTest),
    bay < 64 → Store.get (fun _ => none) s.eng.tests bay = some x → x.kind ≠ 1 → s.bayRetired bay = false →
    Store.get (fun _ => none) s.eng.waking (bay / 8) = none → x.waiters = [] →
    ∃ t, exec (.baySelfTest bay []) s = .next t ∧
      Store.get (fun _ => none) t.eng.tests bay = none) ∧
  (∀ (s : State) (b : Nat),
    ((List.range 8).map fun i => bentOrder.getD ((s.eng.lastBent + 1 + i) % 8) 0).find? (fun b =>
    s.fld (R.ENG_BENT_STATUS_state b) == 0 && (Store.get (fun _ => none) s.eng.waking b).isNone &&
    !s.pwc.shed.contains b && (bentZones b).all fun z => s.fld (R.THM_ZONE_crit z) == 0) = some b →
    s.fld R.PWC_STATUS_state = 0 → s.baysFull = true → s.hst.held = [] →
    ∃ t, exec (.bentWake) s = .next t ∧
      Store.get (fun _ => none) t.eng.waking b = some [] ∧ t.fld (R.PWC_DOMAIN_depth (5 + b)) = 0) ∧
  (∀ (s : State) (b mhz : Nat),
    b < 8 → Store.get (fun _ => none) s.eng.clockAsked b = some mhz →
    s.sch.jobs.all (fun j => !(j.bay / 8 == b && j.stage == .synth && j.launched)) = true →
    ∃ t, exec (.bentClockChange b) s = .next t ∧
      t.fld (R.PWC_CLK_mhz (6 + b)) = mhz % 2 ^ (R.PWC_CLK_mhz (6 + b)).w) ∧
  (∀ (s : State) (n : Nat) (d : Drain) (ready : List (Nat × Nat)),
    n < 8 → Store.get (fun _ => none) s.eng.bents n = some d → (∀ j, j < 8 → s.bayBusy (8 * n + j) = false) →
    Store.get (fun _ => none) s.eng.resume n = none → (d.target = 0 ∨ d.target = 4) →
    ∃ t, exec (.drainComplete true n false ready) s = .next t ∧
      t.fld (R.ENG_BENT_STATUS_state n) = d.target ∧
      t.fld (R.ENG_BENT_STATUS_cause n) = d.cause % 2 ^ (R.ENG_BENT_STATUS_cause n).w) ∧
  (∀ (s : State) (b : Nat) (ready : List (Nat × Nat)),
    b < 8 → s.fld (R.ENG_BENT_STATUS_state b) ≠ 4 → s.inBounds = true →
    ∃ t, exec (.bentRetireImmediate b 4 ready) s = .next t ∧
      t.fld (R.ENG_BENT_STATUS_state b) = 4 ∧ t.fld (R.ENG_BENT_STATUS_cause b) = 4) ∧
  (∀ (s : State) (bus : Bus) (id q : Nat) (c : Cmd),
    Startable s id .bayService c → c.p 8 8 = 2 ^ q → q < 64 → c.pb 16 0 2 = 0 →
    ((List.range 64).all fun x => !s.bayIn x || (2 ^ q).testBit x) = false → s.deferFull c = false →
    s.fld (R.ENG_BENT_STATUS_state (q / 8)) = 1 → Store.get (fun _ => none) s.eng.bays q = none →
    Store.get (fun _ => none) s.eng.tests q = none → s.bayRetired q = false → s.fillOf q = none →
    ∃ t, exec (.bayService id bus) s = .next t ∧
      t.cmd.replies = (s.defer c 1).cmd.replies) ∧
  (∀ (s : State) (bus : Bus) (id x : Nat) (c : Cmd),
    Startable s id .bentService c → x < 8 → c.p 8 1 = 2 ^ x → c.flag 9 0 = false →
    ((List.range 64).all fun q => !s.bayIn q || (2 ^ x).testBit (q / 8)) = false → s.deferFull c = false →
    s.fld (R.ENG_BENT_STATUS_state x) = 1 → s.inBounds = true →
    ∃ t, exec (.bentService id bus) s = .next t ∧
      t.fld (R.ENG_BENT_STATUS_state x) = 2) ∧
  (∀ (s : State) (bus : Bus) (id : Nat) (c : Cmd),
    Startable s id .wallConfigure c → c.pb 12 0 4 ≤ c.pb 13 0 4 ∧ c.pb 12 4 4 ≤ c.pb 13 4 4 →
    c.pb 14 0 4 ≤ c.pb 13 0 4 ∧ c.pb 14 4 4 ≤ c.pb 13 4 4 →
    (c.flag 16 1 = true → c.pb 15 0 4 ≤ c.pb 13 0 4 ∧ c.pb 15 4 4 ≤ c.pb 13 4 4 ∧ ¬ (c.pb 15 0 4 = c.pb 14 0 4 ∧ c.pb 15 4 4 = c.pb 14 4 4)) →
    c.flag 16 0 = true → s.hst.held = [] →
    ∃ t, exec (.wallConfigure id bus) s = .next t ∧
      t.walled = true ∧ t.fld R.WVL_WALL_CFG_x = c.pb 12 0 4) ∧
  (∀ (s : State) (p : Nat),
    p < 4 → s.walled = true → (s.wp p).work ≠ 0 → s.portIn p = false →
    ∃ t, exec (.helloSend p) s = .next t ∧
      t.out = .worvel p (worvelPacket 1 0 false false s.ownModule 0 (Store.get (fun _ => 0) s.wvl.seqOut 1)
      (leBytes 4 (s.fld R.WVL_WALL_ID_id) ++ leBytes 1 (s.fld R.WVL_WALL_CFG_x + 16 * s.fld R.WVL_WALL_CFG_y) ++ leBytes 1 p ++
        leBytes 1 (if s.fld R.WVL_WALL_STATUS_hops = 31 then 255 else s.fld R.WVL_WALL_STATUS_hops) ++
        leBytes 1 (bit (s.fld R.WVL_WALL_STATUS_lock == 2)) ++ leBytes 2 s.panelRate ++ leBytes 6 0)) :: s.out) ∧
  (∀ (s : State) (p : Nat) (d : List Byte),
    p < 4 → s.walled = true → (s.wp p).work ≠ 0 → d.length = 16 → leAt d 0 4 = s.fld R.WVL_WALL_ID_id →
    s.facing p = some (bitsOf (leAt d 4 1) 0 4, bitsOf (leAt d 4 1) 4 4) → leAt d 5 1 = (p + 2) % 4 →
    (s.wp p).work &&& (s.wp p).rx ≠ 0 → s.fld (R.WVL_PORT_CFG_min_lanes p) ≤ popCount 8 ((s.wp p).work &&& (s.wp p).rx) →
    ∃ t, exec (.helloReceived p d) s = .next t ∧
      t.fld (R.WVL_PORT_STATUS_hello_ok p) = 1 ∧ t.portIn p = true) ∧
  (∀ (s : State) (p g origin hops seq : Nat) (v : Vote),
    p < 4 → s.walled = true → (s.wp p).work ≠ 0 → s.portIn p = true → g < 16 → origin < 256 → hops = 31 → seq < 2 ^ 32 →
    v.group = g ∧ v.origin = origin ∧ v.n < 2 ^ 64 ∧ v.frame < 2 ^ 32 ∧ v.clampTime < 2 ^ 64 → s.newer 3 origin seq = true →
    ∃ t, exec (.worvelPacketReceived p (worvelPacket 3 0 true false origin hops seq
      (leBytes 1 g ++ leBytes 1 (bit v.ready) ++ leBytes 2 0 ++ leBytes 4 v.frame ++ leBytes 8 v.clampTime ++ leBytes 8 v.n))) s = .next t ∧
      t.wvl.votes = s.wvl.votes.filter (fun u => !(u.group == g && u.origin == origin)) ++ [v]) ∧
  (∀ (s : State) (p count : Nat),
    p < 4 → s.portIn p = true → (s.wp p).control = [] → (s.wp p).relay = [] →
    ∃ t, exec (.worvelCredit p count) s = .next t ∧
      t.wp p = { s.wp p with base := count % 2 ^ 32, r := (s.wp p).r + min ((count % 2 ^ 32 + 2 ^ 32 - (s.wp p).base) % 2 ^ 32) (s.wp p).outstanding }) ∧
  (∀ (s : State) (p cTx tTx cRx tRx : Nat),
    p < 4 → s.portIn p = true → (s.wp p).control = [] → (s.wp p).relay = [] → (s.wp p).need 60 ≤ (s.wp p).available →
    ∃ t, exec (.timeExchange p cTx tTx cRx tRx) s = .next t ∧
      (t.wp p).stamps = some (cTx % 2 ^ 32, tTx, cRx % 2 ^ 32, tRx)) ∧
  (∀ (s : State),
    s.walled = true →
    ∃ t, exec (.summarySend) s = .next t ∧
      t.member s.ownModule = true ∧ t.reg (R.WVL_PEER s.ownModule 6) = BitVec.ofNat 64 s.now) ∧
  (∀ (s : State) (m : Nat),
    m < 256 → s.member m = true →
    ∃ t, exec (.memberTimeout m) s = .next t ∧
      t.reg (R.WVL_PEER m 7) = 0 ∧ t.fld R.WVL_WALL_STATUS_members = ((List.range 256).filter fun x => t.member x).length) ∧
  (∀ (s : State) (n : Nat),
    s.walled = true → s.fld R.WVL_WALL_STATUS_alone = 0 →
    ∃ t, exec (.voteCutoff n) s = .next t ∧
      (∀ g, g ∈ s.wallGroups → ∃ v, v ∈ t.wvl.votes ∧ v.group = g ∧ v.origin = s.ownModule ∧ v.n = n ∧ v.frame = s.nextFrame g ∧
      v.clampTime = s.ownClampTime g ∧ v.ready = (s.due g (s.wallTime n) && (s.late g).ready))) ∧
  (∀ (s : State) (n g : Nat),
    s.actsMaster = true → g < 16 → s.fld (R.CLP_GROUP_CFG_wall g) = 1 → s.fld R.WVL_WALL_STATUS_alone = 0 →
    s.wvl.votes.any (fun v => v.group == g && v.origin == s.ownModule && v.n == n && v.ready) = false →
    ∃ t, exec (.masterDecide n) s = .next t ∧
      t.decisionOf g = 1) ∧
  (∀ (s : State) (g n : Nat),
    g < 16 → s.wallGroup g = true → s.decisionOf g = 0 →
    ∃ t, exec (.wallDecisionLost g n) s = .next t ∧
      t.decisionOf g = 1) ∧
  (∀ (s : State) (p : Nat),
    p < 4 → (s.wp p).work ≠ 0 → (s.wp p).work < 256 →
    ∃ t, exec (.worvelPortLoss p) s = .next t ∧
      t.portIn p = false) ∧
  (∀ (s : State) (p frac r a : Nat) (bus : Bus) (d e : List Byte),
    p < 8 → s.ethUp p = true → 60 ≤ d.length → d.length + 4 ≤ s.fld (R.ETH_PORT_CFG2_max_frame p) →
    s.addressOk p (Net.of d) = true → s.fld (R.ETH_PORT_CFG_ptp_steer p) = 0 → s.fld R.SCN_TRS_CFG_enable = 0 →
    (∀ k, k < 32 → ruleMatches (s.ethRule p k) (Net.of d) = false) → s.fld (R.ETH_PORT_CFG_hash_enable p) = 0 →
    (Net.of d).tagged = false → r = 64 * p + s.fld (R.ETH_PORT_CFG_default_ring p) → s.fld (R.ETH_RXQ_CFG_enable r) = 1 →
    d.length ≤ 256 * s.fld (R.ETH_RXQ_CFG_buf r) → s.fld (R.ETH_RXQ_HEAD_head r) ≠ s.rxTail r →
    s.rxEntry r (s.fld (R.ETH_RXQ_HEAD_head r)) = (false, a) → busRead bus a 16 = some e →
    busFails bus (leAt e 0 8) d.length = false →
    ∃ t, exec (.ethFrameReceived p bus (d ++ leBytes 4 (crc32 d)) frac) s = .next t ∧
      .hostWrite (s.fld (R.ETH_RXQ_CFG_owner r)) (leAt e 0 8) d ∈ t.out) ∧
  (∀ (s : State) (p q buffer length tci frac cuts : Nat) (stamp : Bool) (bus : Bus) (d : List Byte),
    p < 8 → (List.range 8).reverse.findSome? (s.txPick bus p) = some (q, .send buffer length stamp false tci) →
    (s.txEntry q 0).1 = false → busRead bus buffer length = some d →
    ∃ t, exec (.ethFrameTransmit p bus frac false cuts) s = .next t ∧
      .ethFrame p (d ++ leBytes 4 (crc32 d)) ∈ t.out) ∧
  (∀ (s : State) (p n : Nat),
    p < 8 → s.ethUp p = true →
    ∃ t, exec (.pauseReceived p (some n) []) s = .next t ∧
      (∀ c, c < 8 → Store.get (fun _ => 0) (t.ep p).paused c = if n % 65536 = 0 then 0 else s.ptp.f + ceilDiv (512 * (n % 65536)) (s.ethRate p))) ∧
  (∀ (s : State) (p mode inverted precoded rxPrecoded : Nat) (taps : List (List Int)),
    p < 8 → s.ethUp p = false → s.modeFits p mode = true →
    ∃ t, exec (.ethLinkState p true mode ⟨inverted, precoded, rxPrecoded, taps⟩) s = .next t ∧
      t.ethUp p = true ∧ t.fld (R.ETH_PORT_STATUS_mode p) = mode) ∧
  (∀ (s : State) (p : Nat) (ok : Bool),
    p < 8 → s.ethUp p = true → s.fld (R.ETH_PORT_CFG_preempt_enable p) = 1 → (s.ep p).verify ≠ (if ok then 1 else 2) →
    ∃ t, exec (.preemptVerifyRetry p ok) s = .next t ∧
      t.fld (R.ETH_PORT_STATUS_preempt p) = bit ok) ∧
  (∀ (s : State) (p : Nat) (bus : Bus) (l : GateList),
    p < 8 → (s.ep p).gates.waiting = some l → l.anchor = 0 → l.entries ≠ [] → (∀ k, k < 8 → s.txReady (8 * p + k) = false) →
    ∃ t, exec (.ethGateListStart p bus) s = .next t ∧
      (t.ep p).gates = {
    active := some l, start := (s.ep p).gates.waitStart }) ∧
  (∀ (s : State) (bus : Bus) (id r : Nat) (c : Cmd),
    Startable s id .ethRingSet c → r = c.pb 16 0 9 → c.flag 18 0 = false → c.flag 18 1 = true → 6 ≤ c.pb 19 0 4 →
    c.pb 19 0 4 ≤ 14 → 2 ≤ c.pb 21 0 7 → c.pb 21 0 7 ≤ 64 → c.client = 0 ∨ c.pb 20 0 4 = c.client →
    (s.reg (R.ETH_RXQ_CFG r)).toNat.testBit 0 = false →
    ∃ t, exec (.ethRingSet id bus) s = .next t ∧
      t.fld (R.ETH_RXQ_CFG_enable r) = 1) ∧
  (∀ (s : State) (bus : Bus) (id p : Nat) (c : Cmd),
    Startable s id .ethGateListSet c → c.flag 30 1 = false → 1 ≤ c.p 29 1 → c.p 29 1 ≤ 128 → 1000 ≤ c.p 24 4 →
    c.p 24 4 ≤ 1000000000 → (c.p 28 1).testBit p = true → p < 8 → busFails bus (c.p 8 8) (8 * c.p 29 1) = false →
    (∀ i, i < c.p 29 1 → (let w := leNat ((List.range 8).map fun j => busByte bus (c.p 8 8 + 8 * i + j)); 10 ≤ bitsOf w 16 32 ∧ bitsOf w 8 2 ≠ 3 ∧ bitsOf w 10 6 = 0 ∧ bitsOf w 48 16 = 0)) →
    s.deferFull c = false → s.now ≤ c.p 16 8 → c.pb 30 0 1 = 0 → (∀ q, (s.ep q).gates.waiting = none) →
    ∃ t, exec (.ethGateListSet id bus) s = .next t ∧
      ((t.ep p).gates.waiting.map fun l => (l.base, l.cycle, l.anchor, l.cmd, l.entries.length)) = some (c.p 16 8, c.p 24 4, 0, id, c.p 29 1)) ∧
  (∀ (s : State) (bus : Bus),
    s.ptp.stNs < 1000000000 →
    ∃ t, exec (.ptpLoadO 0 bus) s = .next t ∧
      t.ptp = { s.ptp with oSec := s.ptp.stSec % 2 ^ 48, oNs := s.ptp.stNs }) ∧
  (∀ (s : State) (bus : Bus),
    0 ≤ s.ptpTotal + sext 64 (s.fld R.PTP_STEP_ns) → 0 ≤ s.offset + sext 64 (s.fld R.PTP_STEP_ns) →
    s.offset + sext 64 (s.fld R.PTP_STEP_ns) < 2 ^ 48 * 1000000000 →
    ∃ t, exec (.ptpStep 0 bus) s = .next t ∧
      t.ptpTotal = s.ptpTotal + sext 64 (s.fld R.PTP_STEP_ns)) ∧
  (∀ (s : State),
    0 ≤ s.offset + s.ptpCorr → s.offset + s.ptpCorr < 2 ^ 48 * 1000000000 →
    ∃ t, exec (.ptpLoadRho 0) s = .next t ∧
      t.ptpTotal = s.ptpTotal) ∧
  (∀ (s : State) (n data : Nat) (bus : Bus),
    n < 8 → s.isFsync n = false → data.testBit 0 = true → s.now ≤ s.fld (R.TRIG_START_ns n) →
    ∃ t, exec (.triggerArmWrite 0 n data bus) s = .next t ∧
      t.fld (R.TRIG_STATUS_armed n) = 1) ∧
  (∀ (s : State) (n : Nat) (bus : Bus),
    n < 8 → s.isFsync n = false → s.fld (R.TRIG_STATUS_armed n) = 1 →
    ∃ t, exec (.triggerFire n bus) s = .next t ∧
      t.fld (R.TRIG_STATUS_fires n) = satAdd 16 (s.fld (R.TRIG_STATUS_fires n)) 1) ∧
  (∀ (s : State) (k : Nat) (rising : Bool),
    k < 4 → s.fld (R.CAP_CFG_enable k) = 1 → s.fld (if rising then R.CAP_CFG_rising k else R.CAP_CFG_falling k) = 1 →
    (s.capIn k).last = none → (s.capIn k).fifo.length < 16 →
    ∃ t, exec (.captureEdge k rising) s = .next t ∧
      (t.capIn k).fifo = (s.capIn k).fifo ++ [(s.now, rising)]) ∧
  (∀ (s : State) (k : Nat),
    k < 4 →
    ∃ t, exec (.capTimeRead 0 k) s = .next t ∧
      t.out = .readData 0 (R.CAP_TIME k) (leBytes 8 (s.fld (R.CAP_TIME_time k))) false :: s.out) ∧
  (∀ (s : State),
    ∃ t, exec (.ptpNowRead 0) s = .next t ∧
      t.out = .readData 0 R.PTP_NOW (leBytes 8 s.nowWord) false :: s.out) ∧
  (∀ (s : State) (ma w k bank row col : Nat) (urgent : Bool),
    s.placeOf ma = .at_ w k bank row col → k < 32 → s.spanHeld ma = false → s.quadState (k / 8) = 0 → s.chHeld k = false →
    (s.chQueue k).length < 64 →
    ∃ t, exec (.dramRequestAccept ma false urgent []) s = .next t ∧
      t.chQueue k = s.chQueue k ++ [⟨ma / 64 * 64, w, bank, row, false, urgent, (List.range 64).map fun i => s.maByte (ma / 64 * 64 + i), s.ptp.f⟩]) ∧
  (∀ (s : State) (ch i inlineFixed : Nat) (aged : Bool) (r : DramReq),
    ch < 32 → (s.drainWrites ch).chooseReq ch = some (i, aged) → (s.chQueue ch)[i]? = some r → r.write = false →
    s.dmc.waiting = [] →
    ∃ t, exec (.dramRequestServe ch 0 inlineFixed 0) s = .next t ∧
      t.out = .dramRead r.ma r.data false :: s.out) ∧
  (∀ (s : State) (ch b : Nat),
    ch < 32 → s.quadState (ch / 8) ≠ 2 → (s.fld R.DMC_CH_OK_ok).testBit ch = true → b = Store.get (fun _ => 0) s.dmc.nextBank ch →
    b < 16 → (s.chQueue ch).any (fun r => r.bank == b) = true → s.owedOf ch b < 7 →
    ∃ t, exec (.refreshDue ch) s = .next t ∧
      t.owedOf ch b = s.owedOf ch b + 1) ∧
  (∀ (s : State) (ch rate : Nat),
    ch < 32 → s.quadState (ch / 8) ≠ 2 →
    ∃ t, exec (.mr4Poll ch rate) s = .next t ∧
      Store.get (fun _ => 0) t.dmc.mr4 ch = rate) ∧
  (∀ (s : State) (j : Nat),
    j < 4 → s.quadIdle j = true → s.quadState j = 0 →
    ∃ t, exec (.selfRefreshEntry j) s = .next t ∧
      t = s.setQuad j 1) ∧
  (∀ (s : State) (j : Nat),
    j < 4 → s.quadState j = 2 → s.quadWanted j = true → s.hst.held = [] →
    ∃ t, exec (.selfRefreshExit j) s = .next t ∧
      t.quadState j = 0) ∧
  (∀ (s : State) (j : Nat) (c : OpChange),
    j < 4 → s.changeOf j = some c → s.quadState j < 3 →
    ∃ t, exec (.opPointChange j) s = .next t ∧
      t = s.setQuad j 3) ∧
  (∀ (s : State) (j : Nat) (trims : List Byte) (figures : List Nat),
    j < 4 → s.quadState j = 5 → Store.get (fun _ => []) s.dmc.gathers j = [] →
    ∃ t, exec (.gatheringStep j trims figures) s = .next t ∧
      t.quadState j = 0) ∧
  (∀ (s : State) (ch : Nat),
    ch < 32 → (s.fld R.DMC_CH_OK_ok).testBit ch = true → s.dmc.waiting = [] →
    ∃ t, exec (.channelMapOut ch 1) s = .next t ∧
      (t.fld R.DMC_CH_OK_ok).testBit ch = false ∧ t.fld R.DMC_CAP_channels = popCount 32 (t.fld R.DMC_CH_OK_ok)) ∧
  (∀ (s : State) (bus : Bus) (id w : Nat) (c : Cmd),
    Startable s id .windowSet c → w = c.pb 8 0 3 → c.flag 9 0 = true →
    s.windowFault w (c.flag 9 3) (c.pb 10 0 3) (c.pb 11 0 5) (c.pb 12 0 12) (c.p 14 2) (c.p 16 1) = 0 →
    (∀ k, k < 32 → s.chQueue k = []) → s.dmc.waiting = [] → s.dmc.spans = [] →
    ∃ t, exec (.windowSet id bus) s = .next t ∧
      t.fld (R.DMC_WIN_CFG_enable w) = 1 ∧ t.fld (R.DMC_WIN_CFG_c0 w) = c.pb 11 0 5) ∧
  (∀ (s : State) (bus : Bus) (id j : Nat) (c : Cmd),
    Startable s id .dramOpSet c → setBits 4 (c.pb 8 0 4) = [j] → s.quadCeiling j ≤ c.pb 9 0 2 →
    c.pb 9 0 2 ≠ s.fld (R.DMC_QUAD_STATUS_point j) → s.changeOf j = none → s.deferFull c = false →
    ∃ t, exec (.dramOpSet id bus) s = .next t ∧
      t.changeOf j = some ⟨c.pb 9 0 2, false, some (id, 0)⟩) ∧
  (∀ (s : State) (bus : Bus) (id j k : Nat) (c : Cmd) (fails : List Nat) (trims : List Byte),
    Startable s id .dramTrain c → setBits 4 (c.pb 8 0 4) = [j] → setBits 4 (c.pb 9 0 4) = [k] → c.flag 10 0 = true →
    s.dmc.trains = [] → s.quadState j = 0 → s.changeOf j = none → s.deferFull c = false → s.hst.held = [] →
    ∃ t, exec (.dramTrain id bus fails trims) s = .next t ∧
      t.dmc.trains = [⟨id, 0, j, k⟩]) ∧
  (∀ (s : State) (bus : Bus) (id : Nat) (trained : Bool) (c : Cmd),
    Startable s id .channelService c → c.flag 9 0 = false → s.fld R.DMC_CH_OK_ok ≠ 2 ^ c.pb 8 0 5 →
    (s.fld R.DMC_CH_OK_ok).testBit (c.pb 8 0 5) = true → s.dmc.waiting = [] →
    ∃ t, exec (.channelService id bus trained) s = .next t ∧
      (t.fld R.DMC_CH_OK_ok).testBit (c.pb 8 0 5) = false) ∧
  (∀ (s : State) (u : Nat) (j : CmpJob),
    u < 12 → s.unitJob u = none → s.enginesMay = true → s.hst.held = [] → s.trs.units = [] → s.pickJob u = some j →
    ∃ t, exec (.compressionJobStart u) s = .next t ∧
      t.unitJob u = some j) ∧
  (∀ (s : State) (u : Nat) (bus : Bus) (j : CmpJob) (c : Cmd) (src : List Byte) (e : JobEnd),
    s.unitJob u = some j → j.cls = 3 → s.cmdOf (j.who.headD 0) = some c →
    c.compArgs.resume = false ∧ c.compArgs.srcDram = false ∧ c.compArgs.dstDram = false ∧ c.compArgs.ctxDram = false →
    busRead bus c.compArgs.src c.compArgs.srcLen = some src → c.compArgs.work src [] s.freeVal = e →
    busFails bus c.compArgs.dst e.out.length = false → busFails bus c.compArgs.ctx (e.context u s.now).length = false →
    c.itemList = false →
    ∃ t, exec (.compressionJobEnd u bus) s = .next t ∧
      t.unitJob u = none ∧
      t.out = .hostWrite c.client c.compArgs.ctx (e.context u s.now) ::
      ((if e.out = [] then [] else [.hostWrite c.client c.compArgs.dst e.out]) ++ s.out)) ∧
  (∀ (s : State) (p : Nat) (j : CmpJob) (e : Relay),
    p < 4 → s.cmp.waiting.find? (fun j => j.dir == 1 && j.cls == 1 && j.who.headD 4 == p) = some j → s.portIn p = true →
    (s.wp p).control = [] → (s.wp p).relay = [e] → j.who.getD 1 0 = e.id → e.data.length < 9001 →
    (s.wp p).need (worvelPacket 16 1 false false s.ownModule 0 (Store.get (fun _ => 0) s.wvl.seqOut 16) e.data).length + 64 < (s.wp p).available →
    ∃ t, exec (.scarfDeflateWaitExpiry p) s = .next t ∧
      t.cmp.waiting = s.cmp.waiting.erase j) ∧
  (∀ (s : State) (bus : Bus) (id : Nat) (c : Cmd),
    Startable s id .compJob c → c.compArgs.fault c = none →
    ∃ t, exec (.compJob id bus) s = .next t ∧
      t.cmp.waiting = s.cmp.waiting ++ [⟨bit c.compArgs.deflate, 3, c.compArgs.srcLen, c.compArgs.dstLen, s.ptp.f, c.client, [id], []⟩]) ∧
  (∀ (s : State) (bus : Bus) (id : Nat) (c : Cmd),
    Startable s id .blitJob c → c.blitArgs.fault c = none → c.blitArgs.wm = false ∨ s.deferFull c = false →
    ∃ t, exec (.blitJob id bus) s = .next t ∧
      t.blk.waiting = s.blk.waiting ++ [id]) ∧
  (∀ (s : State) (c : Cmd) (i id : Nat) (rest : List Nat),
    s.blk.running = none → s.blk.waiting = i :: rest → id = rest.foldl min i → s.enginesMay = true → s.cmdOf id = some c →
    s.hst.held = [] →
    ∃ t, exec (.blockJobStart) s = .next t ∧
      t.blk.running = some ⟨id, 0, c.blitArgs.overlaps⟩) ∧
  (∀ (s : State) (c : Cmd) (j : BlkJob),
    s.blk.running = some j → s.cmdOf j.cmd = some c → c.blitArgs.op = 0 → c.blitArgs.wm = true → c.phase = .running →
    ∃ t, exec (.blockWatermark) s = .next t ∧
      t.cmd.replies = s.cmd.replies ++ [⟨c.id, c.client, c.ring, c.opcode, stDeferred, c.tag, 1, 0, 0, 0, false, c.notify, some s.now⟩] ∧
      t.fld (R.BLK_CNT_count 4) = satAdd 32 (s.fld (R.BLK_CNT_count 4)) 1)

/-- Each row named below completes: blockJobEnd, vinSample, governorStep, domainSleep, domainWake, powerFailure,
powerFailRecordCommit, powerFailRecovery, undervoltageLockout, powerOn, vinOvervoltage, vinReversed, powerStateSet,
hibernateWake, aonTimerExpiry, sensorConversion, zoneStep, shutTrip, shutNvmProgramEnd, thermalSet, thermalSample,
calibration, trimSlewTick, ageingMeasure, truingPassDue, truingBent, recordCommit, journalReclaim, sectorEraseDone,
splSectorRetired, journalBootScan, firmwareBootVerify, trialConfirmExpiry, calRun, calRollback, truingRun, splRead, fwWrite,
fwActivate, counterEvent, pfcValWrite, pfcPairLowRead, meterWindowEnd, pfcMeterCfgWrite, pfcSnapWrite, pfcFreezeWrite,
pfcSnapTimeRead, taggedRayRecord, preciseRecord, recordBufferWrite, pfcBufConfigWrite, pfcProgram, pfcSnapshot, sampleDrain,
coldReset, warmReset, functionLevelReset, resetPinAssert, perstAssert, firmwareWatchdogExpiry, stateRamParityError,
uncoreFault, moduleReset, blockReset, reportRead, ledgerSnapshot, smbusStatusRead, smbusBootStatus, smbusTempMax, smbusVin,
smbusWake, smbAlert, jtagInstruction, refFallback, linkResetTimeout, protocolError, worvelTrain, worvelLaneMap, txTapStep,
bar4Access, ringWindowWrite. A clause takes one row with every state and every operands that meet the conditions written
before it, those under which the chapter gives the row its own effect (a dispatched command with operands in range and nothing
in its way, or the situation in which the row comes), and concludes that exec answers a next state in which the values written
for the row stand; of a deferred command that is the accepted one. Refusals, waits, states in which a row changes nothing, and
all else that a row writes or leaves are in its family's statement. -/
def Obligations.PowerTruingAndRecordRowsComplete : Prop :=
  (∀ (s : State) (bus : Bus) (c : Cmd) (j : BlkJob),
    s.blk.running = some j → s.cmdOf j.cmd = some c → c.blitArgs.op = 0 → c.blitArgs.wm = false → j.overlap = false →
    j.rows ≤ c.blitArgs.h → c.itemList = false →
    ∃ t, exec (.blockJobEnd bus) s = .next t ∧
      t.blk.running = none ∧ t.fld R.BLK_LAST_rows = c.blitArgs.h % 2 ^ 15) ∧
  (∀ (s : State) (vin pin : Nat),
    s.pwc.locked = false → vin < 65536 → pin < 65536 →
    ∃ t, exec (.vinSample vin pin) s = .next t ∧
      t.fld R.PWC_VIN_vin = vin) ∧
  (∀ (s : State) (p : Nat),
    100 * s.powerLimit < p → s.fld R.PWC_STATUS_gov_level < 7 → s.cal.pass = none → s.hst.held = [] →
    ∃ t, exec (.governorStep 1 p) s = .next t ∧
      t.fld R.PWC_STATUS_gov_level = s.fld R.PWC_STATUS_gov_level + 1) ∧
  (∀ (s : State) (depth : Nat),
    depth = 1 ∨ depth = 3 → s.fld (R.PWC_DOMAIN_depth 25) < depth → s.enginesIdle = true →
    ∃ t, exec (.domainSleep 25 depth) s = .next t ∧
      t.fld (R.PWC_DOMAIN_depth 25) = depth) ∧
  (∀ (s : State) (j : Nat),
    j < 4 → s.hostCut = false → s.fld (R.PWC_DOMAIN_depth (19 + j)) ≠ 0 → s.fld R.PWC_STATUS_state ≠ 1 → s.hst.held = [] →
    ∃ t, exec (.domainWake (19 + j)) s = .next t ∧
      t.fld (R.PWC_DOMAIN_depth (19 + j)) = 0) ∧
  (∀ (s : State),
    s.pwc.failed = false ∧ s.pwc.shut = false ∧ s.pwc.locked = false →
    ∃ t, exec (.powerFailure) s = .next t ∧
      t.pwc = { s.pwc with failed := true, failedAt := s.ptp.f, recordDone := false }) ∧
  (∀ (s : State),
    s.pwc.failed = true ∧ s.pwc.recordDone = false ∧ s.pwc.locked = false → s.fld (R.PWC_DOMAIN_depth 1) = 0 →
    s.fld R.SPL_STATUS_read_only = 0 → s.spl.programmed = false →
    ∃ t, exec (.powerFailRecordCommit) s = .next t ∧
      t.fld R.PWC_PFAIL_committed = 1) ∧
  (∀ (s : State),
    s.pwc.failed = true ∧ s.pwc.locked = false →
    ∃ t, exec (.powerFailRecovery) s = .next t ∧
      t = (s.noteHeld.setFld R.PWC_PFAIL_recovered 1).warmReset 8) ∧
  (∀ (s : State),
    s.pwc.locked = false →
    ∃ t, exec (.undervoltageLockout) s = .next t ∧
      t.pwc = { s.pwc with locked := true }) ∧
  (∀ (s : State) (p : Straps),
    s.pwc.locked = true →
    ∃ t, exec (.powerOn p) s = .next t ∧
      t = s.coldReset (if s.pwc.failed then 2 else 1) p) ∧
  (∀ (s : State),
    s.pwc.failed = false ∧ s.pwc.shut = false ∧ s.pwc.locked = false →
    ∃ t, exec (.vinOvervoltage) s = .next t ∧
      t.pwc = { s.pwc with failed := true, failedAt := s.ptp.f, recordDone := false }) ∧
  (∀ (s : State) (p : Straps),
    s.pwc.vinReversed = true →
    ∃ t, exec (.vinReversed false p) s = .next t ∧
      t = s.coldReset 1 p) ∧
  (∀ (s : State) (bus : Bus) (late : Bool) (id : Nat) (c : Cmd),
    s.pwc.setting = some (id, 1) → s.standbyReady = true → s.cmdOf id = some c → c.phase = .deferred ∧ c.items = [none] →
    c.itemList = false →
    ∃ t, exec (.powerStateSet id bus late) s = .next t ∧
      t.fld R.PWC_STATUS_state = 1) ∧
  (∀ (s : State) (source : Nat),
    s.mayReset = true → s.fld R.PWC_STATUS_state = 2 → source = 3 ∨ (source < 3 ∧ s.pwc.wake.testBit source = true) →
    ∃ t, exec (.hibernateWake source) s = .next t ∧
      t = s.warmReset 6) ∧
  (∀ (s : State),
    s.mayReset = true → s.fld R.PWC_STATUS_state = 3 → s.pwc.wake.testBit 2 = true →
    ∃ t, exec (.aonTimerExpiry) s = .next t ∧
      t = s.warmReset 7) ∧
  (∀ (s : State) (n : Nat) (x : Int),
    s.convertible n = true → s.fld R.THM_CFG_mode = 0 ∨ (s.sensor n).next ≤ s.ptp.f → (s.sensor n).samples = [] →
    s.sensorState n = 0 → s.zoneState (sensorZone n) < 2 → s.fld (R.THM_ZONE_crit (sensorZone n)) = 0 →
    x < s.threshold n 1 ∧ x < s.threshold n 2 ∧ x < s.threshold n 3 ∧ x < s.threshold n 4 →
    ∃ t, exec (.sensorConversion n x) s = .next t ∧
      t.fld (R.THM_TEMP_temp n) = toField 16 x) ∧
  (∀ (s : State) (z : Nat),
    z < 16 → 2 ≤ s.zoneState z → s.cal.pass = none → s.hst.held = [] →
    ∃ t, exec (.zoneStep z) s = .next t ∧
      t.fld (R.THM_ZONE_level z) = min 7 (s.fld (R.THM_ZONE_level z) + 1)) ∧
  (∀ (s : State) (n : Nat),
    n < 104 → s.pwc.shut = false ∧ s.pwc.locked = false →
    ∃ t, exec (.shutTrip n) s = .next t ∧
      t.pwc.shut = true) ∧
  (∀ (s : State),
    s.pwc.shut = true → s.fld (R.PWC_DOMAIN_depth 1) ≠ 3 →
    ∃ t, exec (.shutNvmProgramEnd true) s = .next t ∧
      t.fld R.THM_SHUT_CAUSE_late_cut = 1) ∧
  (∀ (s : State) (bus : Bus) (id : Nat) (c : Cmd),
    Startable s id .thermalSet c → c.pb 8 0 7 + c.pb 9 0 7 ≤ 104 ∧ 0 < c.pb 9 0 7 →
    c.p 10 1 < c.p 11 1 ∧ c.p 11 1 < c.p 12 1 ∧ c.p 12 1 < c.p 13 1 → 100 ≤ c.p 13 1 ∧ c.p 13 1 ≤ 125 →
    1 ≤ c.pb 14 0 4 ∧ c.pb 14 0 4 ≤ 10 → 5 ≤ c.p 15 1 → c.itemList = false →
    ∃ t, exec (.thermalSet id bus) s = .next t ∧
      (∀ n, (c.pb 8 0 7 ≤ n ∧ n < c.pb 8 0 7 + c.pb 9 0 7) → (t.fld (R.THM_THRESH_warn n) = c.p 10 1 ∧ t.fld (R.THM_THRESH_hot n) = c.p 11 1 ∧ t.fld (R.THM_THRESH_crit n) = c.p 12 1 ∧ t.fld (R.THM_THRESH_shut n) = c.p 13 1 ∧ t.fld (R.THM_THRESH_hyst n) = c.pb 14 0 4 ∧ t.fld (R.THM_THRESH_rise n) = c.p 15 1))) ∧
  (∀ (s : State) (bus : Bus) (id : Nat) (c : Cmd) (n : Nat) (x : Int) (t1 : State),
    Startable s id .thermalSample c → c.pb 16 0 7 = n → c.pb 17 0 7 = 1 → n < 104 →
    t1 = (if (s.convert n x).fld R.THM_CFG_mode = 1 then s.convert n x else (s.convert n x).schedule n) → t1.cmdOf id = some c →
    c.itemList = false → busFails bus (c.p 8 8) 16 = false → s.convertible n = true →
    ∃ t, exec (.thermalSample id bus [x]) s = .next t ∧
      t.out = .hostWrite c.client (c.p 8 8) (t1.sensorRecord n false ((s.sensor n).rise s.ptp.f x)) :: t1.out) ∧
  (∀ (s : State) (i x : Nat),
    i < 128 → s.cal.runs.find? (fun r => r.2.2 == i) = none → s.fld R.CAL_CFG_auto_a = 1 → s.fld (R.CAL_ITEM_STATE_freeze i) = 0 →
    x < 16384 ∧ x ≠ s.fld (R.CAL_ITEM_STATE_target i) → s.fld R.SPL_STATUS_read_only = 0 →
    s.fld (R.CAL_ITEM_COUNT_count i) = 0 ∨ s.fld (R.CAL_ITEM_TIME_time i) + s.fld R.CAL_CFG_min_commit * 60000000000 ≤ s.now →
    ∃ t, exec (.calibration false i [x] true) s = .next t ∧
      t.spl = { s.spl with queue := s.spl.queue ++ [{ kind := 1, key := i, body := leBytes 2 x ++ leBytes 4 (s.fld (R.CAL_ITEM_COUNT_count i) + 1) }] }) ∧
  (∀ (s : State) (i : Nat),
    i < 128 →
    ∃ t, exec (.trimSlewTick i none) s = .next t ∧
      (s.fld (R.CAL_ITEM_STATE_dac i) < s.fld (R.CAL_ITEM_STATE_target i) → t.fld (R.CAL_ITEM_STATE_dac i) = s.fld (R.CAL_ITEM_STATE_dac i) + 1) ∧
      (s.fld (R.CAL_ITEM_STATE_target i) < s.fld (R.CAL_ITEM_STATE_dac i) → t.fld (R.CAL_ITEM_STATE_dac i) + 1 = s.fld (R.CAL_ITEM_STATE_dac i))) ∧
  (∀ (s : State) (b : Nat) (ds : List Nat),
    b < 8 → s.bentOn b = true → (s.recordsOf 4 b).length < 2 → s.fld R.SPL_STATUS_read_only = 0 →
    ∃ t, exec (.ageingMeasure b ds) s = .next t ∧
      t.fld (R.CAL_BENT_AGE_delta b) = min (worstDelta (ds.take 4)).1 65535) ∧
  (∀ (s : State),
    s.fld R.CAL_TRUE_CFG_interval ≠ 0 → s.cal.pass = none → s.passForbidden = false → s.passHot = false →
    (List.range 8).all (fun b => s.fld (R.ENG_BENT_STATUS_state b) == 1) = true →
    ∃ t, exec (.truingPassDue) s = .next t ∧
      t.fld R.CAL_TRUE_STATUS_running = 1) ∧
  (∀ (s : State) (offset ceiling : Option Nat) (ds : List Nat) (p : Pass) (b : Nat) (rest : List Nat),
    s.cal.pass = some p → p.cur = none → p.todo = b :: rest → b < 8 → s.fld (R.ENG_BENT_STATUS_state b) = 1 →
    s.cal.frozenBents.contains b = false →
    ∃ t, exec (.truingBent offset ceiling ds) s = .next t ∧
      t.cal = { s.cal with pass := some ⟨p.cmd, p.named, rest, some b, false⟩ }) ∧
  (∀ (s : State) (n : NewRecord) (rest : List NewRecord),
    s.spl.queue = n :: rest → s.fld R.SPL_STATUS_read_only = 0 → s.spl.programmed = false →
    ∃ t, exec (.recordCommit) s = .next t ∧
      t.spl.programmed = true) ∧
  (∀ (s : State) (k m : Nat) (more : List Nat),
    s.spl.written = k :: m :: more → s.spl.erasing = none → s.fld R.SPL_STATUS_read_only = 0 → s.fld R.SPL_STATUS_free < 8 →
    ∃ t, exec (.journalReclaim) s = .next t ∧
      t.spl.erasing = some k) ∧
  (∀ (s : State) (k : Nat),
    s.spl.erasing = some k → s.spl.queue.any (fun n => n.copied) = false →
    ∃ t, exec (.sectorEraseDone) s = .next t ∧
      t.spl = { s.spl with erasing := none, written := s.spl.written.filter (· != k), records := s.spl.records.filter (fun r => r.sector != k), wear := Store.modify (fun _ => 0) s.spl.wear k (· + 1) }) ∧
  (∀ (s : State) (k : Nat),
    s.spl.erasing = some k → s.fld R.SPL_STATUS_read_only = 0 → s.spl.bad.length ≤ 1007 →
    ∃ t, exec (.splSectorRetired true) s = .next t ∧
      t.spl = { s.spl with bad := s.spl.bad ++ [k], erasing := none, queue := s.spl.queue ++ [{ kind := 11, key := k, body := leBytes 4 (Store.get (fun _ => 0) s.spl.wear k) ++ leBytes 1 1 }] }) ∧
  (∀ (s : State) (bad : Bool) (r : Report) (n : NewRecord),
    s.flt.boot = .scan → s.flt.report = some r → r.level = 2 ∧ r.dramLost = false ∧ r.cause ≠ 9 →
    s.spl.programmed = true ∧ s.spl.queue = [n] → s.spl.bad = [] ∧ s.hst.held = [] →
    ∃ t, exec (.journalBootScan bad [] []) s = .next t ∧
      t.flt.boot = .up) ∧
  (∀ (s : State) (bus : Bus),
    s.flt.boot = .verify ∧ s.flt.fwRestarting = false → s.spl.trialMark = false ∧ s.spl.fallbackCause = 0 →
    s.fld R.SPL_FW_STATUS_trial = 0 → s.slotOk (s.fld R.SPL_FW_STATUS_active) = true →
    ∃ t, exec (.firmwareBootVerify bus) s = .next t ∧
      t.flt = { s.flt with boot := .scan }) ∧
  (∀ (s : State),
    s.fld R.SPL_FW_STATUS_trial = 1 →
    ∃ t, exec (.trialConfirmExpiry) s = .next t ∧
      t.fld R.SPL_FW_STATUS_trial = 0) ∧
  (∀ (s : State) (bus : Bus) (id : Nat) (c : Cmd),
    Startable s id .calRun c → c.p 9 1 = 1 ∧ c.pb 8 0 7 < 128 → s.deferFull c = false →
    s.fld (R.CAL_ITEM_STATE_freeze (c.pb 8 0 7)) = 0 →
    ∃ t, exec (.calRun id bus) s = .next t ∧
      t.cal = { s.cal with runs := s.cal.runs ++ [(id, 0, c.pb 8 0 7)] }) ∧
  (∀ (s : State) (bus : Bus) (id : Nat) (c : Cmd),
    Startable s id .calRollback c → s.deferFull c = false → c.pb 8 0 2 = 1 ∧ c.p 9 1 = 0 ∧ c.p 14 2 = 1 ∧ c.p 12 2 < 128 →
    c.flag 10 0 = true ∧ c.flag 10 1 = false → c.itemList = false →
    ∃ t, exec (.calRollback id bus) s = .next t ∧
      t.fld (R.CAL_ITEM_STATE_freeze (c.p 12 2)) = 1) ∧
  (∀ (s : State) (bus : Bus) (id : Nat) (c : Cmd),
    Startable s id .truingRun c → s.cal.pass = none → s.deferFull c = false →
    (List.range 8).all (fun b => s.fld (R.ENG_BENT_STATUS_state b) == 1) = true → c.p 8 1 ≠ 0 →
    ∃ t, exec (.truingRun id bus) s = .next t ∧
      t.cal = { s.cal with pass := some ⟨some id, setBits 8 (c.p 8 1), setBits 8 (c.p 8 1), none, false⟩ }) ∧
  (∀ (s : State) (bus : Bus) (id : Nat) (c : Cmd) (r : Record),
    Startable s id .splRead c → 1 ≤ c.pb 20 0 5 ∧ c.pb 20 0 5 ≤ 16 → s.recordsOf (c.p 16 1) (c.p 18 2) = [r] →
    c.itemList = false → busFails bus (c.p 8 8) r.bytes.length = false →
    ∃ t, exec (.splRead id bus) s = .next t ∧
      t.out = .hostWrite c.client (c.p 8 8) r.bytes :: s.out) ∧
  (∀ (s : State) (bus : Bus) (id : Nat) (c : Cmd),
    Startable s id .fwWrite c → c.p 16 4 % 4096 = 0 ∧ c.p 20 4 % 4096 = 0 ∧ 0 < c.p 20 4 ∧ c.p 20 4 ≤ 1048576 →
    c.p 16 4 + c.p 20 4 ≤ slotBytes → s.spl.trialMark = false ∧ s.fld R.SPL_FW_STATUS_trial = 0 ∧ s.deferFull c = false →
    busFails bus (c.p 8 8) (c.p 20 4) = false → c.itemList = false →
    ∃ t, exec (.fwWrite id bus) s = .next t ∧
      (∀ j, j < c.p 20 4 → t.slotByte s.otherSlot (c.p 16 4 + j) = busByte bus (c.p 8 8 + j))) ∧
  (∀ (s : State) (bus : Bus) (id : Nat) (c : Cmd),
    Startable s id .fwActivate c → c.pb 8 0 2 = 0 → s.slotOk s.otherSlot = true → c.itemList = false →
    ∃ t, exec (.fwActivate id bus) s = .next t ∧
      t.spl = { s.spl with trialMark := true }) ∧
  (∀ (s : State) (n d : Nat),
    n < 256 → s.fld (R.PFC_CTL_enable n) = 1 ∧ s.fld R.PFC_GLOBAL_freeze = 0 → s.fld (R.PFC_CTL_event n) ≠ 0 →
    isOccupancy (s.fld (R.PFC_CTL_event n)) = false → s.chainedOdd n = false → s.fld (R.PWC_DOMAIN_depth (counterDomain n)) = 0 →
    s.fld (R.PFC_VAL_count n) + 1 < 2 ^ 48 →
    ∃ t, exec (.counterEvent n d) s = .next t ∧
      t.fld (R.PFC_VAL_count n) = s.fld (R.PFC_VAL_count n) + 1) ∧
  (∀ (s : State) (n v : Nat),
    n < 256 → v < 2 ^ 48 → s.fld (R.PWC_DOMAIN_depth (counterDomain n)) = 0 →
    ∃ t, exec (.pfcValWrite 0 n v) s = .next t ∧
      t.fld (R.PFC_VAL_count n) = v) ∧
  (∀ (s : State) (n : Nat),
    n < 256 ∧ n % 2 = 0 → s.fld (R.PFC_CTL_chain n) = 1 →
    ∃ t, exec (.pfcPairLowRead 0 n) s = .next t ∧
      t.pfc = { s.pfc with latch := some (n + 1, s.fld (R.PFC_VAL_count (n + 1))) }) ∧
  (∀ (s : State) (ns : List Nat),
    s.pfc.windowsOpen = true →
    ∃ t, exec (.meterWindowEnd ns) s = .next t ∧
      (∀ m, m < 76 → (t.fld (R.PFC_METER_LAST_bytes m) = ns.getD m 0 % 2 ^ 64 ∧ t.fld (R.PFC_METER_END_time m) = s.now ∧ t.fld (R.PFC_METER_WIN_windows m) = satAdd 32 (s.fld (R.PFC_METER_WIN_windows m)) 1))) ∧
  (∀ (s : State) (v : Nat),
    1 ≤ bitsOf v 0 20 ∧ bitsOf v 0 20 ≤ 1000000 →
    ∃ t, exec (.pfcMeterCfgWrite 0 v) s = .next t ∧
      t.fld R.PFC_METER_CFG_window = bitsOf v 0 20) ∧
  (∀ (s : State) (v : Nat),
    s.pfc.lastSnap = none →
    ∃ t, exec (.pfcSnapWrite 0 v) s = .next t ∧
      (∀ n, n < 256 → t.fld (R.PFC_SNAP_count n) = s.fld (R.PFC_VAL_count n))) ∧
  (∀ (s : State) (v : Nat),
    v.testBit 1 = false →
    ∃ t, exec (.pfcFreezeWrite 0 v) s = .next t ∧
      t.fld R.PFC_GLOBAL_freeze = bitsOf v 0 1) ∧
  (∀ (s : State),
    ∃ t, exec (.pfcSnapTimeRead 0) s = .next t ∧
      t.out = .readData 0 R.PFC_SNAP_TIME (leBytes 8 (s.fld R.PFC_SNAP_TIME_t)) false :: s.out) ∧
  (∀ (s : State) (bay rays flags region ray node slots tDirty : Nat) (offs : List Nat),
    bay < 64 → ray / 256 < s.hx * s.hy → ray % 256 < s.views → s.fld R.PFC_SAMPLE_CFG_tagged = 1 →
    shiftSteps rays (Store.get (fun q => seedOf 1 q) s.pfc.shift bay) % 2 ^ s.fld R.PFC_SAMPLE_CFG_k = 0 →
    s.fld R.PFC_BUF_BASE_base ≠ 0 → s.pfc.queue.length < 256 →
    ∃ t, exec (.taggedRayRecord bay rays flags region ray node slots tDirty offs) s = .next t ∧
      t.pfc.queue = s.pfc.queue ++ [leBytes 1 1 ++ leBytes 1 (flags % 32) ++ leBytes 2 region ++ leBytes 5 ray ++ leBytes 1 bay ++ leBytes 1 node ++ leBytes 1 slots ++ leBytes 8 tDirty ++ ((List.range 5).flatMap fun i => leBytes 4 (min (offs.getD i 0) 0xFFFFFFFF)) ++ leBytes 8 s.pfc.seq ++ List.replicate 16 0]) ∧
  (∀ (s : State) (item source iid lat : Nat),
    s.fld R.PFC_SAMPLE_CFG_precise = 1 → 1 ≤ item ∧ item ≤ 5 ∧ (s.fld R.PFC_SAMPLE_CFG_items).testBit (item - 1) = true →
    10 * s.fld R.PFC_SAMPLE_CFG_threshold ≤ lat → s.fld R.PFC_BUF_BASE_base ≠ 0 → s.pfc.queue.length < 256 →
    ∃ t, exec (.preciseRecord item source iid lat) s = .next t ∧
      t.pfc = { s.pfc with seq := s.pfc.seq + 1, queue := s.pfc.queue ++ [leBytes 1 2 ++ leBytes 1 item ++ leBytes 2 source ++ leBytes 8 iid ++ leBytes 4 (min lat 0xFFFFFFFF) ++ leBytes 8 s.now ++ List.replicate 40 0] }) ∧
  (∀ (s : State) (d : List Byte) (rest : List (List Byte)),
    s.pfc.queue = d :: rest → d.length = 64 → (s.fld R.PFC_BUF_WR_index + 1) % s.recordPlaces ≠ s.fld R.PFC_BUF_RD_index →
    ∃ t, exec (.recordBufferWrite) s = .next t ∧
      t.pfc = { s.pfc with queue := rest }) ∧
  (∀ (s : State) (v : Nat),
    ∃ t, exec (.pfcBufConfigWrite 0 true v) s = .next t ∧
      t.fld R.PFC_BUF_SIZE_s = (if 16 ≤ bitsOf v 0 5 ∧ bitsOf v 0 5 ≤ 30 then bitsOf v 0 5 else s.fld R.PFC_BUF_SIZE_s)) ∧
  (∀ (s : State) (bus : Bus) (id : Nat) (c : Cmd) (w : Nat),
    Startable s id .pfcProgram c → c.p 17 1 = 0 ∧ c.p 16 1 < 256 → busRead bus (c.p 8 8) 8 = some (leBytes 8 w) → w < 2 ^ 64 →
    c.client = 0 → c.flag 18 0 = true → counterCan (c.p 16 1) (bitsOf w 0 8) (bitsOf w 8 8) = true → c.itemList = false →
    ∃ t, exec (.pfcProgram id bus) s = .next t ∧
      t.fld (R.PFC_CTL_event (c.p 16 1)) = bitsOf w 0 8) ∧
  (∀ (s : State) (bus : Bus) (id : Nat) (c : Cmd),
    Startable s id .pfcSnapshot c → s.pfc.lastSnap = none → busFails bus (c.p 8 8) 2664 = false → c.itemList = false →
    ∃ t, exec (.pfcSnapshot id bus) s = .next t ∧
      t.out = .hostWrite c.client (c.p 8 8) (leBytes 8 s.now ++ ((List.range 256).flatMap fun n => leBytes 8 (s.fld (R.PFC_VAL_count n))) ++ ((List.range 76).flatMap fun m => leBytes 8 (s.fld (R.PFC_METER_LAST_bytes m)))) :: s.out) ∧
  (∀ (s : State) (bus : Bus) (id : Nat) (c : Cmd),
    Startable s id .sampleDrain c → 64 ≤ c.p 16 4 ∧ c.p 16 4 ≤ 1073741824 → s.pfc.drain = none → s.deferFull c = false →
    c.flag 20 0 = false →
    ∃ t, exec (.sampleDrain id bus) s = .next t ∧
      t.pfc = { s.pfc with drain := some id }) ∧
  (∀ (s : State) (cause : Nat) (p : Straps),
    cause = 1 ∨ (cause = 2 ∧ s.fld R.PWC_PFAIL_committed = 0) →
    ∃ t, exec (.coldReset cause p) s = .next t ∧
      t.reg R.PFC_SAMPLE_SEED = s.reg R.PFC_SAMPLE_SEED ∧ t.fld R.SPL_FW_STATUS_fuse = s.fld R.SPL_FW_STATUS_fuse ∧
      t.fld (R.HST_LINK_STATUS_bifurcated 0) = bit p.hostBif ∧ t.fld R.FLT_RESET_STATUS_level = 1) ∧
  (∀ (s : State) (cause : Nat),
    cause = 3 ∨ cause = 4 ∨ cause = 5 ∨ cause = 6 ∨ cause = 7 ∨ cause = 10 → s.mayReset = true → s.fld R.PWC_STATUS_state ≠ 3 →
    s.inBounds = true → s.hst.held = [] →
    ∃ t, exec (.warmReset cause) s = .next t ∧
      t.cmd.inflight = []) ∧
  (∀ (s : State) (f : Nat),
    f < 16 → s.hostCut = false → s.present f = true → (s.cmd.inflight.map Cmd.id).Nodup →
    ∃ t, exec (.functionLevelReset f false) s = .next t ∧
      t.cmd.inflight.all (fun c => c.client != f) = true) ∧
  (∀ (s : State) (cool : Bool),
    s.flt.pinLow = false → s.mayReset = true → s.fld R.PWC_STATUS_state < 2 →
    ∃ t, exec (.resetPinAssert true cool) s = .next t ∧
      t = { s with flt := { s.flt with pinLow := true } }.warmReset 3) ∧
  (∀ (s : State),
    s.mayReset = true →
    ∃ t, exec (.perstAssert false) s = .next t ∧
      t = s.warmReset 4) ∧
  (∀ (s : State),
    s.flt.boot = .up ∧ s.flt.fwRestarting = false → s.hostCut = false → (s.cmd.inflight.map Cmd.id).Nodup →
    ∃ t, exec (.firmwareWatchdogExpiry) s = .next t ∧
      t.flt = { s.flt with fwRestarting := true }) ∧
  (∀ (s : State) (ram addr : Nat),
    ∃ t, exec (.stateRamParityError true ram addr) s = .next t ∧
      t.fld (R.FLT_CNT_count 6) = satAdd 32 (s.fld (R.FLT_CNT_count 6)) 1) ∧
  (∀ (s : State) (die : Nat) (ready : List (Nat × Nat)),
    die < 2 → s.hst.held = [] → s.inBounds = true →
    ∃ t, exec (.uncoreFault die ready) s = .next t ∧
      (∀ j, j < 4 → t.fld (R.ENG_BENT_STATUS_state (4 * die + j)) = 4)) ∧
  (∀ (s : State) (bus : Bus) (id : Nat) (c : Cmd),
    Startable s id .moduleReset c → c.p 8 4 = 0x52535457 → s.cmd.inflight = [c] → c.client < 16 → s.flt.closed = [] →
    s.mayReset = true →
    ∃ t, exec (.moduleReset id bus) s = .next t ∧
      (t.flt.report.map Report.cause) = some 5) ∧
  (∀ (s : State) (bus : Bus) (id : Nat) (c : Cmd),
    Startable s id .blockReset c → c.pb 8 0 2 = 1 → c.itemList = false → s.inBounds = true →
    ∃ t, exec (.blockReset id bus) s = .next t ∧
      (∀ p, p < 16 → t.pipeBusy p = none)) ∧
  (∀ (s : State) (bus : Bus) (id : Nat) (c : Cmd) (r : Report),
    Startable s id .reportRead c → 64 ≤ c.p 16 4 → c.flag 20 0 = false ∧ c.flag 20 1 = false → s.flt.report = some r →
    busFails bus (c.p 8 8) (r.written c.client (c.p 16 4)).length = false → c.itemList = false →
    ∃ t, exec (.reportRead id bus) s = .next t ∧
      t.out = .hostWrite c.client (c.p 8 8) (r.written c.client (c.p 16 4)) :: s.out) ∧
  (∀ (s : State) (bus : Bus) (id : Nat) (c : Cmd),
    Startable s id .ledgerSnapshot c → c.flag 16 0 = false → c.itemList = false → busFails bus (c.p 8 8) 90616 = false →
    ∃ t, exec (.ledgerSnapshot id bus) s = .next t ∧
      t.out = .hostWrite c.client (c.p 8 8) (s.ledgerHeader (s.ledgerBody c.client) ++ s.ledgerBody c.client) :: s.out) ∧
  (∀ (s : State),
    s.pwc.locked = false →
    ∃ t, exec (.smbusStatusRead false) s = .next t ∧
      t.out.head? = some (.smbus (leBytes 1 (s.fld R.PWC_STATUS_state + 4 * bit s.hostInService + 8 * bit s.pwc.shut + 16 * bit (s.flt.boot == .failed) + 32 * bit s.pin.refFallback)))) ∧
  (∀ (s : State),
    s.pwc.locked = false →
    ∃ t, exec (.smbusBootStatus) s = .next t ∧
      t.out = .smbus (leBytes 2 s.bootStatus) :: s.out) ∧
  (∀ (s : State) (n : Nat),
    s.pwc.locked = false → n < 104 → s.fld (R.THM_TEMP_valid n) = 1 →
    ∃ t, exec (.smbusTempMax) s = .next t ∧
      t.out = .smbus (leBytes 2 (toField 16 s.highestTemp)) :: s.out) ∧
  (∀ (s : State),
    s.pwc.locked = false →
    ∃ t, exec (.smbusVin) s = .next t ∧
      t.out = .smbus (leBytes 2 (s.fld R.PWC_VIN_vin)) :: s.out) ∧
  (∀ (s : State),
    s.mayReset = true → s.fld R.PWC_STATUS_state = 2 → s.pwc.wake.testBit 0 = true →
    ∃ t, exec (.smbusWake 0xA5) s = .next t ∧
      t = s.warmReset 6) ∧
  (∀ (s : State),
    s.pwc.locked = false →
    ∃ t, exec (.smbAlert) s = .next t ∧
      t.pin.seen = s.alertBits) ∧
  (∀ (s : State) (code : Nat),
    ∃ t, exec (.jtagInstruction code) s = .next t ∧
      t.pin = { s.pin with tap := (if code = 1 then .idcode else if code = 0 ∨ s.flt.pinLow = false then .bypass else .other code) }) ∧
  (∀ (s : State),
    s.pin.refSel = true ∧ s.pin.refFallback = false →
    ∃ t, exec (.refFallback) s = .next t ∧
      t.pin = { s.pin with refFallback := true }) ∧
  (∀ (s : State) (id at_ : Nat) (c : Cmd),
    s.pnl.reset = some (id, at_) → s.cmdOf id = some c →
    ∃ t, exec (.linkResetTimeout) s = .next t ∧
      t.pnl = { s.pnl with reset := none }) ∧
  (∀ (s : State) (q code violations : Nat),
    q < 16 → code ≠ 0 →
    ∃ t, exec (.protocolError q code violations) s = .next t ∧
      t.fld (R.PNL_GROUP_CNT_count q 11) = satAdd 32 (s.fld (R.PNL_GROUP_CNT_count q 11)) 1) ∧
  (∀ (s : State) (p lane taps reqs : Nat) (pre inverted : Bool),
    p < 4 → lane < 8 → (s.wp p).training.testBit lane = true → s.portIn p = false → s.fld (R.WVL_PORT_STATUS_hello_ok p) = 0 →
    ∃ t, exec (.worvelTrain p lane taps 16 (some (reqs, 16 + 32 * bit pre)) inverted) s = .next t ∧
      (t.wp p).work = (s.wp p).work ||| 2 ^ lane ∧ t.fld (R.LAN_STATUS_state (wvlLane p lane)) = 3) ∧
  (∀ (s : State) (p mask : Nat),
    p < 4 → s.walled = true →
    ∃ t, exec (.worvelLaneMap p mask) s = .next t ∧
      (t.wp p).rx = mask % 256) ∧
  (∀ (s : State) (i : Nat) (m : TapMove),
    i < 256 → Store.get (fun _ => []) s.lan.asked i = [] → s.lan.moves.find? (fun m => m.lane == i) = some m →
    s.fld (R.LAN_STATUS_state i) ≠ 2 →
    ∃ t, exec (.txTapStep i) s = .next t ∧
      t.taps i = (s.setTaps i (tapsToward (s.taps i) m.taps)).taps i) ∧
  (∀ (s : State) (client off : Nat) (data : List Byte),
    s.reachable client = true → off + data.length ≤ (s.dramWindow client).2 →
    ∃ t, exec (.bar4Access client off true data 0) s = .next t ∧
      (data ≠ [] → t = s.memWrite ((s.dramWindow client).1 + off) data)) ∧
  (∀ (s : State) (client r off a : Nat) (data : List Byte),
    s.reachable client = true → client < 16 → r < 16 → ringAddr (s.reg (R.CMD_SQ_BASE (16 * client + r))) 64 0 = (true, a) →
    off + data.length ≤ 64 * s.sqSize (16 * client + r) → s.mayReach client (a + off) data.length = true →
    ∃ t, exec (.ringWindowWrite client client r off data) s = .next t ∧
      t = s.memWrite (a + off) data)
end

