-- ==== Sys2Proof/Laws/Bits.lean ====
section
/-! SUPPORT. What a register field reads after a write of a field of the same register word. -/

namespace Sys2Proof

theorem fieldGet_lt (v : RegWord) (lo w : Nat) : fieldGet v lo w < 2 ^ w := by
  simp only [fieldGet, bitsOf]
  exact Nat.mod_lt _ (Nat.two_pow_pos w)

theorem testBit_fieldGet (v : RegWord) (lo w i : Nat) :
    (fieldGet v lo w).testBit i = (decide (i < w) && v.getLsbD (lo + i)) := by
  simp [fieldGet, bitsOf, Nat.testBit_mod_two_pow, Nat.testBit_shiftRight, BitVec.getLsbD]

theorem getLsbD_fieldMask (lo w i : Nat) :
    (fieldMask lo w).getLsbD i = (decide (i < 64) && (decide (lo ≤ i) && decide (i < lo + w))) := by
  simp only [fieldMask, BitVec.getLsbD_ofNat, Nat.testBit_shiftLeft, Nat.testBit_two_pow_sub_one]
  by_cases h : lo ≤ i
  · have : i - lo < w ↔ i < lo + w := by omega
    simp [h, this]
  · simp [h]

theorem getLsbD_fieldSet (v : RegWord) (lo w x i : Nat) (hi : i < 64) :
    (fieldSet v lo w x).getLsbD i = if lo ≤ i ∧ i < lo + w then x.testBit (i - lo) else v.getLsbD i := by
  simp only [fieldSet, BitVec.getLsbD_or, BitVec.getLsbD_and, BitVec.getLsbD_not, getLsbD_fieldMask, BitVec.getLsbD_ofNat,
    Nat.testBit_shiftLeft, Nat.testBit_mod_two_pow, hi, decide_true, Bool.true_and]
  by_cases h1 : lo ≤ i
  · by_cases h2 : i < lo + w
    · have h3 : i - lo < w := by omega
      simp [h1, h2, h3]
    · have h3 : ¬ i - lo < w := by omega
      simp [h1, h2, h3]
  · simp [h1]

/-- A field reads what was written to it, reduced to its width. -/
theorem fieldGet_fieldSet_same (v : RegWord) (lo w x : Nat) (h : lo + w ≤ 64) : fieldGet (fieldSet v lo w x) lo w = x % 2 ^ w := by
  apply Nat.eq_of_testBit_eq
  intro i
  rw [testBit_fieldGet, Nat.testBit_mod_two_pow]
  by_cases hi : i < w
  · rw [getLsbD_fieldSet _ _ _ _ _ (by omega)]
    simp [hi]
  · simp [hi]

/-- A field keeps its value when a field with other bits is written. -/
theorem fieldGet_fieldSet_other (v : RegWord) (lo w x lo' w' : Nat) (h' : lo' + w' ≤ 64) (h : lo + w ≤ lo' ∨ lo' + w' ≤ lo) :
    fieldGet (fieldSet v lo w x) lo' w' = fieldGet v lo' w' := by
  apply Nat.eq_of_testBit_eq
  intro i
  rw [testBit_fieldGet, testBit_fieldGet]
  by_cases hi : i < w'
  · rw [getLsbD_fieldSet _ _ _ _ _ (by omega)]
    have : ¬ (lo ≤ lo' + i ∧ lo' + i < lo + w) := by omega
    simp [this]
  · simp [hi]

end Sys2Proof
end

