-- ==== Sys2Proof/Laws/Store.lean ====
section
/-! SUPPORT. What a sparse store reads after a write, and that writing keeps its canonical form. -/

namespace Sys2Proof

variable {β : Type}

@[simp] theorem Store.get_nil (d : Nat → β) (a : Nat) : Store.get d [] a = d a := rfl

theorem Store.get_erase (d : Nat → β) (m : Store β) (a b : Nat) :
    Store.get d (Store.erase m a) b = if b = a then d b else Store.get d m b := by
  induction m with
  | nil => simp [Store.erase, Store.get]
  | cons e m ih =>
    obtain ⟨k, v⟩ := e
    simp only [Store.erase] at ih ⊢
    by_cases hk : k = a
    · subst hk
      simp only [List.filter_cons, ne_eq, not_true_eq_false, decide_false, Bool.false_eq_true, if_false, ih, Store.get]
      by_cases hb : b = k <;> simp [hb]
    · simp only [List.filter_cons, ne_eq, hk, not_false_eq_true, decide_true, if_true, Store.get, ih]
      by_cases hb : b = k
      · subst hb; simp [hk]
      · simp [hb]

theorem Store.get_insert (d : Nat → β) (m : Store β) (a b : Nat) (v : β) :
    Store.get d (Store.insert m a v) b = if b = a then v else Store.get d m b := by
  induction m with
  | nil => simp [Store.insert, Store.get]
  | cons e m ih =>
    obtain ⟨k, x⟩ := e
    simp only [Store.insert]
    by_cases h1 : a < k
    · simp [h1, Store.get]
    · by_cases h2 : a = k
      · subst h2
        simp only [Nat.lt_irrefl, if_false, if_true, Store.get]
        by_cases hb : b = a <;> simp [hb]
      · simp only [h1, h2, if_false, Store.get, ih]
        by_cases hb : b = k
        · subst hb; simp [Ne.symm h2]
        · simp [hb]

/-- A read after a write: the value written at its key, the old one elsewhere. -/
theorem Store.get_set [DecidableEq β] (d : Nat → β) (m : Store β) (a b : Nat) (v : β) :
    Store.get d (Store.set d m a v) b = if b = a then v else Store.get d m b := by
  unfold Store.set
  split
  · next h =>
    rw [Store.get_erase]
    by_cases hb : b = a <;> simp [hb, h]
  · exact Store.get_insert d m a b v

@[simp] theorem Store.get_set_same [DecidableEq β] (d : Nat → β) (m : Store β) (a : Nat) (v : β) :
    Store.get d (Store.set d m a v) a = v := by simp [Store.get_set]

theorem Store.get_set_other [DecidableEq β] (d : Nat → β) (m : Store β) {a b : Nat} (v : β) (h : b ≠ a) :
    Store.get d (Store.set d m a v) b = Store.get d m b := by simp [Store.get_set, h]

/-! ## Canonical form -/

theorem Store.sortedFrom_le {lo lo' : Nat} (h : lo' ≤ lo) : (m : Store β) → Store.sortedFrom lo m = true → Store.sortedFrom lo' m = true
  | [], _ => rfl
  | (k, _) :: _, hm => by
    simp only [Store.sortedFrom, Bool.and_eq_true, decide_eq_true_eq] at hm ⊢
    exact ⟨Nat.le_trans h hm.1, hm.2⟩

theorem Store.sortedFrom_filter (p : Nat × β → Bool) : (lo : Nat) → (m : Store β) → Store.sortedFrom lo m = true →
    Store.sortedFrom lo (m.filter p) = true
  | _, [], _ => rfl
  | lo, (k, v) :: m, h => by
    simp only [Store.sortedFrom, Bool.and_eq_true, decide_eq_true_eq] at h
    have ih := Store.sortedFrom_filter p (k + 1) m h.2
    simp only [List.filter_cons]
    split
    · simp only [Store.sortedFrom, Bool.and_eq_true, decide_eq_true_eq]
      exact ⟨h.1, ih⟩
    · exact Store.sortedFrom_le (by omega) _ ih

theorem Store.sortedFrom_insert (a : Nat) (v : β) : (lo : Nat) → (m : Store β) → lo ≤ a → Store.sortedFrom lo m = true →
    Store.sortedFrom lo (Store.insert m a v) = true
  | lo, [], ha, _ => by simp [Store.insert, Store.sortedFrom, ha]
  | lo, (k, x) :: m, ha, h => by
    simp only [Store.sortedFrom, Bool.and_eq_true, decide_eq_true_eq] at h
    simp only [Store.insert]
    by_cases h1 : a < k
    · simp only [h1, if_true, Store.sortedFrom, Bool.and_eq_true, decide_eq_true_eq]
      exact ⟨ha, by omega, h.2⟩
    · by_cases h2 : a = k
      · subst h2
        simp only [Nat.lt_irrefl, if_false, if_true, Store.sortedFrom, Bool.and_eq_true, decide_eq_true_eq]
        exact ⟨ha, h.2⟩
      · simp only [h1, h2, if_false, Store.sortedFrom, Bool.and_eq_true, decide_eq_true_eq]
        exact ⟨h.1, Store.sortedFrom_insert a v (k + 1) m (by omega) h.2⟩

theorem Store.mem_insert {m : Store β} {a : Nat} {v : β} {e : Nat × β} (h : e ∈ Store.insert m a v) : e = (a, v) ∨ e ∈ m := by
  induction m with
  | nil => simpa [Store.insert] using h
  | cons x m ih =>
    obtain ⟨k, w⟩ := x
    simp only [Store.insert] at h
    split at h
    · simpa using h
    · split at h
      · rcases List.mem_cons.mp h with h | h
        · exact .inl h
        · exact .inr (List.mem_cons_of_mem _ h)
      · rcases List.mem_cons.mp h with h | h
        · exact .inr (h ▸ List.mem_cons_self ..)
        · exact (ih h).imp id (List.mem_cons_of_mem _)

variable [DecidableEq β]

/-- A part of a canonical store is canonical. -/
theorem Store.wf_filter (d : Nat → β) (p : Nat × β → Bool) {m : Store β} (h : Store.wf d m = true) : Store.wf d (m.filter p) = true := by
  simp only [Store.wf, Bool.and_eq_true, List.all_eq_true, decide_eq_true_eq] at h ⊢
  exact ⟨Store.sortedFrom_filter p _ _ h.1, fun e he => h.2 e (List.mem_filter.mp he).1⟩

/-- Writing keeps the canonical form. -/
theorem Store.wf_set (d : Nat → β) {m : Store β} (a : Nat) (v : β) (h : Store.wf d m = true) : Store.wf d (Store.set d m a v) = true := by
  unfold Store.set
  split
  · exact Store.wf_filter d _ h
  · next hv =>
    simp only [Store.wf, Bool.and_eq_true, List.all_eq_true, decide_eq_true_eq] at h ⊢
    refine ⟨Store.sortedFrom_insert a v 0 m (Nat.zero_le a) h.1, fun e he => ?_⟩
    rcases Store.mem_insert he with rfl | he
    · exact hv
    · exact h.2 e he

@[simp] theorem Store.wf_nil (d : Nat → β) : Store.wf d [] = true := rfl

omit [DecidableEq β] in
theorem Store.sortedFrom_filterMap (f : Nat × β → Option (Nat × β)) (hf : ∀ e e', f e = some e' → e'.1 = e.1) :
    (lo : Nat) → (m : Store β) → Store.sortedFrom lo m = true → Store.sortedFrom lo (m.filterMap f) = true
  | _, [], _ => rfl
  | lo, (k, v) :: m, h => by
    simp only [Store.sortedFrom, Bool.and_eq_true, decide_eq_true_eq] at h
    have ih := Store.sortedFrom_filterMap f hf (k + 1) m h.2
    cases hx : f (k, v) with
    | none =>
      rw [List.filterMap_cons_none hx]
      exact Store.sortedFrom_le (by omega) _ ih
    | some e =>
      rw [List.filterMap_cons_some hx]
      obtain ⟨k', v'⟩ := e
      have hk : k' = k := hf _ _ hx
      subst hk
      simp only [Store.sortedFrom, Bool.and_eq_true, decide_eq_true_eq]
      exact ⟨h.1, ih⟩

/-- A store of which entries are kept, each with a value other than its default, is canonical. -/
theorem Store.wf_filterMap (d : Nat → β) (f : Nat × β → Option (Nat × β)) (hf : ∀ e e', f e = some e' → e'.1 = e.1 ∧ e'.2 ≠ d e'.1)
    {m : Store β} (h : Store.wf d m = true) : Store.wf d (m.filterMap f) = true := by
  simp only [Store.wf, Bool.and_eq_true, List.all_eq_true, decide_eq_true_eq] at h ⊢
  refine ⟨Store.sortedFrom_filterMap f (fun e e' he => (hf e e' he).1) _ _ h.1, fun e he => ?_⟩
  obtain ⟨e0, _, h0⟩ := List.mem_filterMap.mp he
  exact (hf e0 e h0).2

end Sys2Proof
end

