-- ==== Sys2Proof/Laws/Keeps.lean ====
section
/-! SUPPORT. What every command keeps: the queue stays as it is, and the stores stay canonical. -/

namespace Sys2Proof.Machine

open Sys2Proof

/-- The queue is `p` and every store is canonical. -/
structure Keeps (p : List Instr) (s : State) : Prop where
  queue : s.pending = p
  canonical : Canonical s

variable {p : List Instr} {s : State}

/-- An update of other fields keeps both. -/
theorem Keeps.mk_fields {X : State}
    {out' : List Output} {free' : Nat} {cmd' : CmdState} {hst' : HstState} {ptp' : PtpState} {flt' : FltState} {scn' : ScnState} {dmg' : DmgState} {sch' : SchState} {eng' : EngState} {glu' : GluState} {clp' : ClpState} {trs' : TrsState} {dec' : DecState} {pnl' : PnlState} {lan' : LanState} {spl' : SplState} {pwc' : PwcState} {cal' : CalState} {wvl' : WvlState} {dmc' : DmcState} {cmp' : CmpState} {blk' : BlkState} {pfc' : PfcState} {eth' : EthState} {tim' : TimState} {pin' : PinState}
    :
    Keeps p (State.mk X.pending out' free' X.regs X.active X.ledger X.dram cmd' hst' ptp' flt' scn' dmg' sch' eng' glu' clp' trs' dec' pnl' lan' spl' pwc' cal' wvl' dmc' cmp' blk' pfc' eth' tim' pin') ↔ Keeps p X := ⟨fun h => ⟨h.queue, h.canonical⟩, fun h => ⟨h.queue, h.canonical⟩⟩

/-- DRAM loses its content. -/
theorem Keeps.no_dram {X : State}
    {out' : List Output} {free' : Nat} {cmd' : CmdState} {hst' : HstState} {ptp' : PtpState} {flt' : FltState} {scn' : ScnState} {dmg' : DmgState} {sch' : SchState} {eng' : EngState} {glu' : GluState} {clp' : ClpState} {trs' : TrsState} {dec' : DecState} {pnl' : PnlState} {lan' : LanState} {spl' : SplState} {pwc' : PwcState} {cal' : CalState} {wvl' : WvlState} {dmc' : DmcState} {cmp' : CmpState} {blk' : BlkState} {pfc' : PfcState} {eth' : EthState} {tim' : TimState} {pin' : PinState}
    (h : Keeps p X) :
    Keeps p (State.mk X.pending out' free' X.regs X.active X.ledger [] cmd' hst' ptp' flt' scn' dmg' sch' eng' glu' clp' trs' dec' pnl' lan' spl' pwc' cal' wvl' dmc' cmp' blk' pfc' eth' tim' pin') := ⟨h.queue, h.canonical.1, h.canonical.2.1, h.canonical.2.2.1, rfl⟩

theorem Keeps.ite {c : Prop} [Decidable c] {a b : State} (ha : Keeps p a) (hb : Keeps p b) : Keeps p (if c then a else b) := by
  split <;> assumption

theorem Keeps.getD {o : Option State} {d : State} (ho : ∀ t, o = some t → Keeps p t) (hd : Keeps p d) : Keeps p (o.getD d) := by
  cases o with
  | none => exact hd
  | some t => exact ho t rfl

theorem Keeps.foldl {α : Type} {f : State → α → State} {l : List α} (h : Keeps p s) (hf : ∀ t x, Keeps p t → Keeps p (f t x)) :
    Keeps p (l.foldl f s) := by
  induction l generalizing s with
  | nil => exact h
  | cons x l ih => exact ih (hf s x h)

/-- A fold that carries a value beside the state. -/
theorem Keeps.foldl_fst {α β : Type} {f : State × β → α → State × β} {l : List α} {x : State × β} (h : Keeps p x.1)
    (hf : ∀ (t : State) (b : β) a, Keeps p t → Keeps p (f (t, b) a).1) : Keeps p (l.foldl f x).1 := by
  induction l generalizing x with
  | nil => exact h
  | cons a l ih => exact ih (hf x.1 x.2 a h)

theorem State.setReg_keeps {off : Nat} {v : RegWord} (h : Keeps p s) : Keeps p (s.setReg off v) :=
  ⟨h.queue, Store.wf_set _ _ _ h.canonical.1, h.canonical.2⟩

theorem State.setAct_keeps {off : Nat} {v : RegWord} (h : Keeps p s) : Keeps p (s.setAct off v) :=
  ⟨h.queue, h.canonical.1, Store.wf_set _ _ _ h.canonical.2.1, h.canonical.2.2⟩

theorem State.addTerm_keeps {k d : Nat} (h : Keeps p s) : Keeps p (s.addTerm k d) :=
  ⟨h.queue, h.canonical.1, h.canonical.2.1, Store.wf_set _ _ _ h.canonical.2.2.1, h.canonical.2.2.2⟩

theorem State.setPhys_keeps {key : Nat} {b : Byte} (h : Keeps p s) : Keeps p (s.setPhys key b) :=
  ⟨h.queue, h.canonical.1, h.canonical.2.1, h.canonical.2.2.1, Store.wf_set (fun _ => (0 : Byte)) _ _ h.canonical.2.2.2⟩

end Sys2Proof.Machine
end

