-- ==== Sys2Proof/Laws/KeepsOps.lean ====
section
/-! SUPPORT. Every operation of Machine/Ops.lean keeps the queue and the canonical stores. -/

namespace Sys2Proof.Machine

open Sys2Proof

theorem State.setFld_keeps {p : List Instr} {s : State} {l : Loc} {x : Nat} (h : Keeps p s) : Keeps p (State.setFld s l x) := by
  unfold State.setFld
  repeat' with_reducible (first | exact h | intro _ | assumption | simp only [Keeps.mk_fields] | apply State.setReg_keeps | apply Keeps.ite | apply Keeps.foldl | apply Keeps.foldl_fst | apply Keeps.getD | split)

theorem State.bumpBy_keeps {p : List Instr} {s : State} {l : Loc} {d : Nat} (h : Keeps p s) : Keeps p (State.bumpBy s l d) := by
  unfold State.bumpBy
  repeat' with_reducible (first | exact h | intro _ | assumption | simp only [Keeps.mk_fields] | apply State.setFld_keeps | apply Keeps.ite | apply Keeps.foldl | apply Keeps.foldl_fst | apply Keeps.getD | split)

theorem State.bump_keeps {p : List Instr} {s : State} {l : Loc} (h : Keeps p s) : Keeps p (State.bump s l) := by
  unfold State.bump
  repeat' with_reducible (first | exact h | intro _ | assumption | simp only [Keeps.mk_fields] | apply State.bumpBy_keeps | apply Keeps.ite | apply Keeps.foldl | apply Keeps.foldl_fst | apply Keeps.getD | split)

theorem State.dropBy_keeps {p : List Instr} {s : State} {l : Loc} {d : Nat} (h : Keeps p s) : Keeps p (State.dropBy s l d) := by
  unfold State.dropBy
  repeat' with_reducible (first | exact h | intro _ | assumption | simp only [Keeps.mk_fields] | apply State.setFld_keeps | apply Keeps.ite | apply Keeps.foldl | apply Keeps.foldl_fst | apply Keeps.getD | split)

theorem State.setActFld_keeps {p : List Instr} {s : State} {l : Loc} {x : Nat} (h : Keeps p s) : Keeps p (State.setActFld s l x) := by
  unfold State.setActFld
  repeat' with_reducible (first | exact h | intro _ | assumption | simp only [Keeps.mk_fields] | apply State.setAct_keeps | apply Keeps.ite | apply Keeps.foldl | apply Keeps.foldl_fst | apply Keeps.getD | split)

theorem State.applyShd_keeps {p : List Instr} {s : State} {off : Nat} (h : Keeps p s) : Keeps p (State.applyShd s off) := by
  unfold State.applyShd
  repeat' with_reducible (first | exact h | intro _ | assumption | simp only [Keeps.mk_fields] | apply State.setAct_keeps | apply Keeps.ite | apply Keeps.foldl | apply Keeps.foldl_fst | apply Keeps.getD | split)

theorem State.bar0_keeps {p : List Instr} {s : State} {client : Nat} (h : Keeps p s) : Keeps p (State.bar0 s client) := by
  unfold State.bar0
  repeat' with_reducible (first | exact h | intro _ | assumption | simp only [Keeps.mk_fields] | apply Keeps.ite | apply Keeps.foldl | apply Keeps.foldl_fst | apply Keeps.getD | split)

theorem State.applyHeld_keeps {p : List Instr} {s : State} {d : Nat} (h : Keeps p s) : Keeps p (State.applyHeld s d) := by
  unfold State.applyHeld
  repeat' with_reducible (first | exact h | intro _ | assumption | simp only [Keeps.mk_fields] | apply State.setReg_keeps | apply Keeps.ite | apply Keeps.foldl | apply Keeps.foldl_fst | apply Keeps.getD | split)

theorem State.holdWrite_keeps {p : List Instr} {s : State} {d : Nat} {off : Nat} {mask : Nat} {value : Nat} (h : Keeps p s) : Keeps p (State.holdWrite s d off mask value) := by
  unfold State.holdWrite
  repeat' with_reducible (first | exact h | intro _ | assumption | simp only [Keeps.mk_fields] | apply Keeps.ite | apply Keeps.foldl | apply Keeps.foldl_fst | apply Keeps.getD | split)

theorem State.setDomain_keeps {p : List Instr} {s : State} {d : Nat} {depth : Nat} (h : Keeps p s) : Keeps p (State.setDomain s d depth) := by
  unfold State.setDomain
  repeat' with_reducible (first | exact h | intro _ | assumption | simp only [Keeps.mk_fields] | apply State.bump_keeps | apply State.setFld_keeps | apply State.applyHeld_keeps | apply Keeps.ite | apply Keeps.foldl | apply Keeps.foldl_fst | apply Keeps.getD | split)

theorem State.ungate_keeps {p : List Instr} {s : State} {d : Nat} {c : Nat} (h : Keeps p s) : Keeps p (State.ungate s d c) := by
  unfold State.ungate
  repeat' with_reducible (first | exact h | intro _ | assumption | simp only [Keeps.mk_fields] | apply State.setFld_keeps | apply State.setDomain_keeps | apply Keeps.ite | apply Keeps.foldl | apply Keeps.foldl_fst | apply Keeps.getD | split)

theorem State.count_keeps {p : List Instr} {s : State} {l : Loc} {d : Nat} (h : Keeps p s) : Keeps p (State.count s l d) := by
  unfold State.count
  repeat' with_reducible (first | exact h | intro _ | assumption | simp only [Keeps.mk_fields] | apply State.addTerm_keeps | apply State.bumpBy_keeps | apply Keeps.ite | apply Keeps.foldl | apply Keeps.foldl_fst | apply Keeps.getD | split)

theorem State.emit_keeps {p : List Instr} {s : State} {o : Output} (h : Keeps p s) : Keeps p (State.emit s o) := by
  unfold State.emit
  repeat' with_reducible (first | exact h | intro _ | assumption | simp only [Keeps.mk_fields] | apply Keeps.ite | apply Keeps.foldl | apply Keeps.foldl_fst | apply Keeps.getD | split)

theorem State.nextFree_keeps {p : List Instr} {s : State} (h : Keeps p s) : Keeps p (State.nextFree s) := by
  unfold State.nextFree
  repeat' with_reducible (first | exact h | intro _ | assumption | simp only [Keeps.mk_fields] | apply Keeps.ite | apply Keeps.foldl | apply Keeps.foldl_fst | apply Keeps.getD | split)

theorem State.post_keeps {p : List Instr} {s : State} {code : Nat} {source : Nat} {data : Nat} {owner : optParam (Option Nat) none} (h : Keeps p s) : Keeps p (State.post s code source data owner) := by
  unfold State.post
  repeat' with_reducible (first | exact h | intro _ | assumption | simp only [Keeps.mk_fields] | apply Keeps.ite | apply Keeps.foldl | apply Keeps.foldl_fst | apply Keeps.getD | split)

theorem State.postLimited_keeps {p : List Instr} {s : State} {key : Nat} {period : Nat} {code : Nat} {source : Nat} {data : Nat} {owner : optParam (Option Nat) none} (h : Keeps p s) : Keeps p (State.postLimited s key period code source data owner) := by
  unfold State.postLimited
  repeat' with_reducible (first | exact h | intro _ | assumption | simp only [Keeps.mk_fields] | apply State.post_keeps | apply Keeps.ite | apply Keeps.foldl | apply Keeps.foldl_fst | apply Keeps.getD | split)

theorem State.hostWrite_keeps {p : List Instr} {s : State} {b : Bus} {client : Nat} {addr : Nat} {data : List Byte} (h : Keeps p s) : Keeps p (State.hostWrite s b client addr data).1 := by
  unfold State.hostWrite
  repeat' with_reducible (first | exact h | intro _ | assumption | simp only [Keeps.mk_fields] | apply State.emit_keeps | apply Keeps.ite | apply Keeps.foldl | apply Keeps.foldl_fst | apply Keeps.getD | split)

theorem State.hostWrite_keeps_eq {p : List Instr} {s t : State} {b : Bus} {client : Nat} {addr : Nat} {data : List Byte} {ret} (e : State.hostWrite s b client addr data = (t, ret)) (h : Keeps p s) : Keeps p t := by
  have := State.hostWrite_keeps (p := p) h (s := s) (b := b) (client := client) (addr := addr) (data := data)
  rwa [e] at this

theorem State.writeCheck_keeps {p : List Instr} {s : State} {w : Nat} {ch : Nat} {bank : Nat} {row : Nat} {col : Nat} (h : Keeps p s) : Keeps p (State.writeCheck s w ch bank row col) := by
  unfold State.writeCheck
  repeat' with_reducible (first | exact h | intro _ | assumption | simp only [Keeps.mk_fields] | apply State.setPhys_keeps | apply Keeps.ite | apply Keeps.foldl | apply Keeps.foldl_fst | apply Keeps.getD | split)

theorem State.putMa_keeps {p : List Instr} {s : State} {ma : Nat} {b : Byte} (h : Keeps p s) : Keeps p (State.putMa s ma b) := by
  unfold State.putMa
  repeat' with_reducible (first | exact h | intro _ | assumption | simp only [Keeps.mk_fields] | apply State.writeCheck_keeps | apply State.setPhys_keeps | apply Keeps.ite | apply Keeps.foldl | apply Keeps.foldl_fst | apply Keeps.getD | split)

theorem State.countAccess_keeps {p : List Instr} {s : State} {ma : Nat} {write : Bool} {part : Bool} (h : Keeps p s) : Keeps p (State.countAccess s ma write part) := by
  unfold State.countAccess
  repeat' with_reducible (first | exact h | intro _ | assumption | simp only [Keeps.mk_fields] | apply State.postLimited_keeps | apply State.bump_keeps | apply State.setFld_keeps | apply State.count_keeps | apply Keeps.ite | apply Keeps.foldl | apply Keeps.foldl_fst | apply Keeps.getD | split)

theorem State.memRead_keeps {p : List Instr} {s : State} {ma : Nat} {n : Nat} (h : Keeps p s) : Keeps p (State.memRead s ma n).1 := by
  unfold State.memRead
  repeat' with_reducible (first | exact h | intro _ | assumption | simp only [Keeps.mk_fields] | apply State.countAccess_keeps | apply Keeps.ite | apply Keeps.foldl | apply Keeps.foldl_fst | apply Keeps.getD | split)

theorem State.memRead_keeps_eq {p : List Instr} {s t : State} {ma : Nat} {n : Nat} {ret} (e : State.memRead s ma n = (t, ret)) (h : Keeps p s) : Keeps p t := by
  have := State.memRead_keeps (p := p) h (s := s) (ma := ma) (n := n)
  rwa [e] at this

theorem State.putBytes_keeps {p : List Instr} {s : State} {ma : Nat} {a1 : List Byte} (h : Keeps p s) : Keeps p (State.putBytes s ma a1) := by
  induction a1 generalizing s ma <;> unfold State.putBytes <;>
  repeat' with_reducible (first | exact h | intro _ | assumption | apply_assumption | simp only [Keeps.mk_fields] | apply State.putMa_keeps | apply Keeps.ite | apply Keeps.foldl | apply Keeps.foldl_fst | apply Keeps.getD | split)

theorem State.memWrite_keeps {p : List Instr} {s : State} {ma : Nat} {data : List Byte} (h : Keeps p s) : Keeps p (State.memWrite s ma data) := by
  unfold State.memWrite
  repeat' with_reducible (first | exact h | intro _ | assumption | simp only [Keeps.mk_fields] | apply State.putBytes_keeps | apply State.countAccess_keeps | apply Keeps.ite | apply Keeps.foldl | apply Keeps.foldl_fst | apply Keeps.getD | split)

theorem State.fetchFrom_keeps {p : List Instr} {s : State} {b : Bus} {isDram : Bool} {addr : Nat} {n : Nat} (h : Keeps p s) : Keeps p (State.fetchFrom s b isDram addr n).1 := by
  unfold State.fetchFrom
  repeat' with_reducible (first | exact h | intro _ | assumption | simp only [Keeps.mk_fields] | refine State.memRead_keeps_eq ‹_› ?_ | apply State.memRead_keeps | apply Keeps.ite | apply Keeps.foldl | apply Keeps.foldl_fst | apply Keeps.getD | split)

theorem State.fetchFrom_keeps_eq {p : List Instr} {s t : State} {b : Bus} {isDram : Bool} {addr : Nat} {n : Nat} {ret} (e : State.fetchFrom s b isDram addr n = (t, ret)) (h : Keeps p s) : Keeps p t := by
  have := State.fetchFrom_keeps (p := p) h (s := s) (b := b) (isDram := isDram) (addr := addr) (n := n)
  rwa [e] at this

theorem State.storeTo_keeps {p : List Instr} {s : State} {b : Bus} {client : Nat} {isDram : Bool} {addr : Nat} {data : List Byte} (h : Keeps p s) : Keeps p (State.storeTo s b client isDram addr data).1 := by
  unfold State.storeTo
  repeat' with_reducible (first | exact h | intro _ | assumption | simp only [Keeps.mk_fields] | apply State.memWrite_keeps | refine State.hostWrite_keeps_eq ‹_› ?_ | apply State.hostWrite_keeps | apply Keeps.ite | apply Keeps.foldl | apply Keeps.foldl_fst | apply Keeps.getD | split)

theorem State.storeTo_keeps_eq {p : List Instr} {s t : State} {b : Bus} {client : Nat} {isDram : Bool} {addr : Nat} {data : List Byte} {ret} (e : State.storeTo s b client isDram addr data = (t, ret)) (h : Keeps p s) : Keeps p t := by
  have := State.storeTo_keeps (p := p) h (s := s) (b := b) (client := client) (isDram := isDram) (addr := addr) (data := data)
  rwa [e] at this

theorem State.setCmd_keeps {p : List Instr} {s : State} {c : Cmd} (h : Keeps p s) : Keeps p (State.setCmd s c) := by
  unfold State.setCmd
  repeat' with_reducible (first | exact h | intro _ | assumption | simp only [Keeps.mk_fields] | apply Keeps.ite | apply Keeps.foldl | apply Keeps.foldl_fst | apply Keeps.getD | split)

theorem State.putReply_keeps {p : List Instr} {s : State} {c : Cmd} {status : Nat} {total : Nat} {done : Nat} {failed : Nat} {detail : Nat} (h : Keeps p s) : Keeps p (State.putReply s c status total done failed detail) := by
  unfold State.putReply
  repeat' with_reducible (first | exact h | intro _ | assumption | simp only [Keeps.mk_fields] | apply State.setCmd_keeps | apply Keeps.ite | apply Keeps.foldl | apply Keeps.foldl_fst | apply Keeps.getD | split)

theorem State.refuse_keeps {p : List Instr} {s : State} {c : Cmd} {status : Nat} {detail : Nat} (h : Keeps p s) : Keeps p (State.refuse s c status detail) := by
  unfold State.refuse
  repeat' with_reducible (first | exact h | intro _ | assumption | simp only [Keeps.mk_fields] | apply State.putReply_keeps | apply Keeps.ite | apply Keeps.foldl | apply Keeps.foldl_fst | apply Keeps.getD | split)

theorem State.finishAs_keeps {p : List Instr} {s : State} {c : Cmd} {items : List Item} {cut : optParam (Option Nat) none} (h : Keeps p s) : Keeps p (State.finishAs s c items cut) := by
  unfold State.finishAs
  repeat' with_reducible (first | exact h | intro _ | assumption | simp only [Keeps.mk_fields] | apply State.putReply_keeps | apply Keeps.ite | apply Keeps.foldl | apply Keeps.foldl_fst | apply Keeps.getD | split)

theorem State.finishOne_keeps {p : List Instr} {s : State} {c : Cmd} {value : optParam Nat 0} (h : Keeps p s) : Keeps p (State.finishOne s c value) := by
  unfold State.finishOne
  repeat' with_reducible (first | exact h | intro _ | assumption | simp only [Keeps.mk_fields] | apply State.finishAs_keeps | apply Keeps.ite | apply Keeps.foldl | apply Keeps.foldl_fst | apply Keeps.getD | split)

theorem State.failOne_keeps {p : List Instr} {s : State} {c : Cmd} {status : Nat} {reason : optParam Nat 0} (h : Keeps p s) : Keeps p (State.failOne s c status reason) := by
  unfold State.failOne
  repeat' with_reducible (first | exact h | intro _ | assumption | simp only [Keeps.mk_fields] | apply State.finishAs_keeps | apply Keeps.ite | apply Keeps.foldl | apply Keeps.foldl_fst | apply Keeps.getD | split)

theorem State.defer_keeps {p : List Instr} {s : State} {c : Cmd} {total : Nat} {aux : optParam (List Nat) []} (h : Keeps p s) : Keeps p (State.defer s c total aux) := by
  unfold State.defer
  repeat' with_reducible (first | exact h | intro _ | assumption | simp only [Keeps.mk_fields] | apply State.setCmd_keeps | apply Keeps.ite | apply Keeps.foldl | apply Keeps.foldl_fst | apply Keeps.getD | split)

theorem State.itemDone_keeps {p : List Instr} {s : State} {id : Nat} {k : Nat} {i : Item} (h : Keeps p s) : Keeps p (State.itemDone s id k i) := by
  unfold State.itemDone
  repeat' with_reducible (first | exact h | intro _ | assumption | simp only [Keeps.mk_fields] | apply State.finishAs_keeps | apply State.setCmd_keeps | apply Keeps.ite | apply Keeps.foldl | apply Keeps.foldl_fst | apply Keeps.getD | split)

theorem State.abort_keeps {p : List Instr} {s : State} {id : Nat} {status : Nat} (h : Keeps p s) : Keeps p (State.abort s id status) := by
  unfold State.abort
  repeat' with_reducible (first | exact h | intro _ | assumption | simp only [Keeps.mk_fields] | apply State.finishAs_keeps | apply Keeps.ite | apply Keeps.foldl | apply Keeps.foldl_fst | apply Keeps.getD | split)

theorem State.srcRead_keeps {p : List Instr} {s : State} {b : Bus} {c : Cmd} {isDram : Bool} {addr : Nat} {n : Nat} (h : Keeps p s) : Keeps p (State.srcRead s b c isDram addr n).1 := by
  unfold State.srcRead
  repeat' with_reducible (first | exact h | intro _ | assumption | simp only [Keeps.mk_fields] | apply State.bump_keeps | refine State.fetchFrom_keeps_eq ‹_› ?_ | apply State.fetchFrom_keeps | apply Keeps.ite | apply Keeps.foldl | apply Keeps.foldl_fst | apply Keeps.getD | split)

theorem State.srcRead_keeps_eq {p : List Instr} {s t : State} {b : Bus} {c : Cmd} {isDram : Bool} {addr : Nat} {n : Nat} {ret} (e : State.srcRead s b c isDram addr n = (t, ret)) (h : Keeps p s) : Keeps p t := by
  have := State.srcRead_keeps (p := p) h (s := s) (b := b) (c := c) (isDram := isDram) (addr := addr) (n := n)
  rwa [e] at this

theorem State.dstWrite_keeps {p : List Instr} {s : State} {b : Bus} {c : Cmd} {isDram : Bool} {addr : Nat} {data : List Byte} (h : Keeps p s) : Keeps p (State.dstWrite s b c isDram addr data).1 := by
  unfold State.dstWrite
  repeat' with_reducible (first | exact h | intro _ | assumption | simp only [Keeps.mk_fields] | apply State.bump_keeps | refine State.storeTo_keeps_eq ‹_› ?_ | apply State.storeTo_keeps | apply Keeps.ite | apply Keeps.foldl | apply Keeps.foldl_fst | apply Keeps.getD | split)

theorem State.dstWrite_keeps_eq {p : List Instr} {s t : State} {b : Bus} {c : Cmd} {isDram : Bool} {addr : Nat} {data : List Byte} {ret} (e : State.dstWrite s b c isDram addr data = (t, ret)) (h : Keeps p s) : Keeps p t := by
  have := State.dstWrite_keeps (p := p) h (s := s) (b := b) (c := c) (isDram := isDram) (addr := addr) (data := data)
  rwa [e] at this

theorem State.readRecords_keeps {p : List Instr} {s : State} {b : Bus} {c : Cmd} {isDram : Bool} {addr : Nat} {size : Nat} {a1 : Nat} (h : Keeps p s) : Keeps p (State.readRecords s b c isDram addr size a1).1 := by
  induction a1 generalizing s b c isDram addr size <;> unfold State.readRecords <;>
  repeat' with_reducible (first | exact h | intro _ | assumption | apply_assumption | simp only [Keeps.mk_fields] | refine State.srcRead_keeps_eq ‹_› ?_ | apply State.srcRead_keeps | apply Keeps.ite | apply Keeps.foldl | apply Keeps.foldl_fst | apply Keeps.getD | split)

theorem State.readRecords_keeps_eq {p : List Instr} {s t : State} {b : Bus} {c : Cmd} {isDram : Bool} {addr : Nat} {size : Nat} {a1 : Nat} {ret} (e : State.readRecords s b c isDram addr size a1 = (t, ret)) (h : Keeps p s) : Keeps p t := by
  have := State.readRecords_keeps (p := p) h (s := s) (b := b) (c := c) (isDram := isDram) (addr := addr) (size := size) (a1 := a1)
  rwa [e] at this

theorem State.writeRecords_keeps {p : List Instr} {s : State} {b : Bus} {c : Cmd} {isDram : Bool} {addr : Nat} {a1 : List (List Byte × Item)} (h : Keeps p s) : Keeps p (State.writeRecords s b c isDram addr a1).1 := by
  induction a1 generalizing s b c isDram addr <;> unfold State.writeRecords <;>
  repeat' with_reducible (first | exact h | intro _ | assumption | apply_assumption | simp only [Keeps.mk_fields] | refine State.dstWrite_keeps_eq ‹_› ?_ | apply State.dstWrite_keeps | apply Keeps.ite | apply Keeps.foldl | apply Keeps.foldl_fst | apply Keeps.getD | split)

theorem State.writeRecords_keeps_eq {p : List Instr} {s t : State} {b : Bus} {c : Cmd} {isDram : Bool} {addr : Nat} {a1 : List (List Byte × Item)} {ret} (e : State.writeRecords s b c isDram addr a1 = (t, ret)) (h : Keeps p s) : Keeps p t := by
  have := State.writeRecords_keeps (p := p) h (s := s) (b := b) (c := c) (isDram := isDram) (addr := addr) (a1 := a1)
  rwa [e] at this

theorem State.runOpAgain_keeps {p : List Instr} {s : State} {id : Nat} {op : Op} {f : Cmd → State → State} (h : Keeps p s) (hf : ∀ c t, Keeps p t → Keeps p (f c t)) : Keeps p (State.runOpAgain s id op f) := by
  unfold State.runOpAgain
  repeat' with_reducible (first | exact h | intro _ | assumption | apply hf | simp only [Keeps.mk_fields] | apply Keeps.ite | apply Keeps.foldl | apply Keeps.foldl_fst | apply Keeps.getD | split)

theorem State.hold_keeps {p : List Instr} {s : State} {c : Cmd} (h : Keeps p s) : Keeps p (State.hold s c) := by
  unfold State.hold
  repeat' with_reducible (first | exact h | intro _ | assumption | simp only [Keeps.mk_fields] | apply State.setCmd_keeps | apply Keeps.ite | apply Keeps.foldl | apply Keeps.foldl_fst | apply Keeps.getD | split)

theorem State.runOp_keeps {p : List Instr} {s : State} {id : Nat} {op : Op} {f : Cmd → State → State} (h : Keeps p s) (hf : ∀ c t, Keeps p t → Keeps p (f c t)) : Keeps p (State.runOp s id op f) := by
  unfold State.runOp
  repeat' with_reducible (first | exact h | intro _ | assumption | apply hf | simp only [Keeps.mk_fields] | apply Keeps.ite | apply Keeps.foldl | apply Keeps.foldl_fst | apply Keeps.getD | split)

end Sys2Proof.Machine
end

