-- ==== Sys2Proof/Laws/KeepsComma.lean ====
section
/-! SUPPORT. Every operation of Machine/Comma.lean keeps the queue and the canonical stores. -/

namespace Sys2Proof.Machine

open Sys2Proof

theorem State.sendStripe_keeps {p : List Instr} {s : State} {q : Nat} {st : Stripe} (h : Keeps p s) : Keeps p (State.sendStripe s q st) := by
  unfold State.sendStripe
  repeat' with_reducible (first | exact h | intro _ | assumption | simp only [Keeps.mk_fields] | apply State.emit_keeps | apply State.bumpBy_keeps | apply State.bump_keeps | apply Keeps.ite | apply Keeps.foldl | apply Keeps.foldl_fst | apply Keeps.getD | split)

end Sys2Proof.Machine
end

