-- ==== Sys2Proof/Laws/KeepsField.lean ====
section
/-! SUPPORT. Every operation of Machine/Field.lean keeps the queue and the canonical stores. -/

namespace Sys2Proof.Machine

open Sys2Proof

theorem State.showDrops_keeps {p : List Instr} {s : State} (h : Keeps p s) : Keeps p (State.showDrops s) := by
  unfold State.showDrops
  repeat' with_reducible (first | exact h | intro _ | assumption | simp only [Keeps.mk_fields] | apply State.setFld_keeps | apply Keeps.ite | apply Keeps.foldl | apply Keeps.foldl_fst | apply Keeps.getD | split)

end Sys2Proof.Machine
end

