-- ==== Sys2Proof/Laws/KeepsRay.lean ====
section
/-! SUPPORT. Every operation of Machine/Ray.lean keeps the queue and the canonical stores. -/

namespace Sys2Proof.Machine

open Sys2Proof

theorem State.countCorrection_keeps {p : List Instr} {s : State} {x : Nat} {y : Nat} {n : Nat} (h : Keeps p s) : Keeps p (State.countCorrection s x y n) := by
  unfold State.countCorrection
  repeat' with_reducible (first | exact h | intro _ | assumption | simp only [Keeps.mk_fields] | apply State.countAccess_keeps | apply Keeps.ite | apply Keeps.foldl | apply Keeps.foldl_fst | apply Keeps.getD | split)

end Sys2Proof.Machine
end

