-- ==== Sys2Proof/Laws/KeepsRegion.lean ====
section
/-! SUPPORT. Every operation of Machine/Region.lean keeps the queue and the canonical stores. -/

namespace Sys2Proof.Machine

open Sys2Proof

theorem State.setRegion_keeps {p : List Instr} {s : State} {r : Nat} {x : Region} (h : Keeps p s) : Keeps p (State.setRegion s r x) := by
  unfold State.setRegion
  repeat' with_reducible (first | exact h | intro _ | assumption | simp only [Keeps.mk_fields] | apply Keeps.ite | apply Keeps.foldl | apply Keeps.foldl_fst | apply Keeps.getD | split)

theorem State.setNode_keeps {p : List Instr} {s : State} {k : Nat} {x : Node} (h : Keeps p s) : Keeps p (State.setNode s k x) := by
  unfold State.setNode
  repeat' with_reducible (first | exact h | intro _ | assumption | simp only [Keeps.mk_fields] | apply Keeps.ite | apply Keeps.foldl | apply Keeps.foldl_fst | apply Keeps.getD | split)

theorem State.countNode_keeps {p : List Instr} {s : State} {k : Nat} {j : Nat} (h : Keeps p s) : Keeps p (State.countNode s k j) := by
  unfold State.countNode
  repeat' with_reducible (first | exact h | intro _ | assumption | simp only [Keeps.mk_fields] | apply State.count_keeps | apply Keeps.ite | apply Keeps.foldl | apply Keeps.foldl_fst | apply Keeps.getD | split)

theorem State.setJob_keeps {p : List Instr} {s : State} {j : Job} (h : Keeps p s) : Keeps p (State.setJob s j) := by
  unfold State.setJob
  repeat' with_reducible (first | exact h | intro _ | assumption | simp only [Keeps.mk_fields] | apply Keeps.ite | apply Keeps.foldl | apply Keeps.foldl_fst | apply Keeps.getD | split)

theorem State.setPg_keeps {p : List Instr} {s : State} {q : Nat} {g : PnlGroup} (h : Keeps p s) : Keeps p (State.setPg s q g) := by
  unfold State.setPg
  repeat' with_reducible (first | exact h | intro _ | assumption | simp only [Keeps.mk_fields] | apply Keeps.ite | apply Keeps.foldl | apply Keeps.foldl_fst | apply Keeps.getD | split)

theorem State.countCheck_keeps {p : List Instr} {s : State} {c : Nat} {k : Nat} (h : Keeps p s) : Keeps p (State.countCheck s c k) := by
  unfold State.countCheck
  repeat' with_reducible (first | exact h | intro _ | assumption | simp only [Keeps.mk_fields] | apply State.count_keeps | apply Keeps.ite | apply Keeps.foldl | apply Keeps.foldl_fst | apply Keeps.getD | split)

theorem State.putCredits_keeps {p : List Instr} {s : State} {q : Nat} {g : PnlGroup} (h : Keeps p s) : Keeps p (State.putCredits s q g) := by
  unfold State.putCredits
  repeat' with_reducible (first | exact h | intro _ | assumption | simp only [Keeps.mk_fields] | apply State.setFld_keeps | apply State.setPg_keeps | apply Keeps.ite | apply Keeps.foldl | apply Keeps.foldl_fst | apply Keeps.getD | split)

theorem State.takeCredits_keeps {p : List Instr} {s : State} {q : Nat} {n : Nat} (h : Keeps p s) : Keeps p (State.takeCredits s q n) := by
  unfold State.takeCredits
  repeat' with_reducible (first | exact h | intro _ | assumption | simp only [Keeps.mk_fields] | apply State.putCredits_keeps | apply Keeps.ite | apply Keeps.foldl | apply Keeps.foldl_fst | apply Keeps.getD | split)

theorem State.writeOff_keeps {p : List Instr} {s : State} {q : Nat} (h : Keeps p s) : Keeps p (State.writeOff s q) := by
  unfold State.writeOff
  repeat' with_reducible (first | exact h | intro _ | assumption | simp only [Keeps.mk_fields] | apply State.putCredits_keeps | apply Keeps.ite | apply Keeps.foldl | apply Keeps.foldl_fst | apply Keeps.getD | split)

theorem State.showService_keeps {p : List Instr} {s : State} {q : Nat} {on : Bool} (h : Keeps p s) : Keeps p (State.showService s q on) := by
  unfold State.showService
  repeat' with_reducible (first | exact h | intro _ | assumption | simp only [Keeps.mk_fields] | apply State.setFld_keeps | apply Keeps.ite | apply Keeps.foldl | apply Keeps.foldl_fst | apply Keeps.getD | split)

theorem State.grant_keeps {p : List Instr} {s : State} {q : Nat} (h : Keeps p s) : Keeps p (State.grant s q) := by
  unfold State.grant
  repeat' with_reducible (first | exact h | intro _ | assumption | simp only [Keeps.mk_fields] | apply State.putCredits_keeps | apply Keeps.ite | apply Keeps.foldl | apply Keeps.foldl_fst | apply Keeps.getD | split)

theorem State.enqueue_keeps {p : List Instr} {s : State} {r : Nat} {back : Bool} (h : Keeps p s) : Keeps p (State.enqueue s r back) := by
  unfold State.enqueue
  repeat' with_reducible (first | exact h | intro _ | assumption | simp only [Keeps.mk_fields] | apply State.countNode_keeps | apply State.setRegion_keeps | apply Keeps.ite | apply Keeps.foldl | apply Keeps.foldl_fst | apply Keeps.getD | split)

theorem State.mark_keeps {p : List Instr} {s : State} {r : Nat} (h : Keeps p s) : Keeps p (State.mark s r) := by
  unfold State.mark
  repeat' with_reducible (first | exact h | intro _ | assumption | simp only [Keeps.mk_fields] | apply State.count_keeps | apply State.setRegion_keeps | apply State.enqueue_keeps | apply State.bump_keeps | apply State.setJob_keeps | apply Keeps.ite | apply Keeps.foldl | apply Keeps.foldl_fst | apply Keeps.getD | split)

theorem State.markAll_keeps {p : List Instr} {s : State} {rs : List Nat} (h : Keeps p s) : Keeps p (State.markAll s rs) := by
  unfold State.markAll
  repeat' with_reducible (first | exact h | intro _ | assumption | simp only [Keeps.mk_fields] | apply State.mark_keeps | apply Keeps.ite | apply Keeps.foldl | apply Keeps.foldl_fst | apply Keeps.getD | split)

theorem State.wholeField_keeps {p : List Instr} {s : State} {cause : Nat} (h : Keeps p s) : Keeps p (State.wholeField s cause) := by
  unfold State.wholeField
  repeat' with_reducible (first | exact h | intro _ | assumption | simp only [Keeps.mk_fields] | apply State.post_keeps | apply State.count_keeps | apply State.mark_keeps | apply Keeps.ite | apply Keeps.foldl | apply Keeps.foldl_fst | apply Keeps.getD | split)

theorem State.pend_keeps {p : List Instr} {s : State} {m : Nat} {rs : List Nat} (h : Keeps p s) : Keeps p (State.pend s m rs) := by
  unfold State.pend
  repeat' with_reducible (first | exact h | intro _ | assumption | simp only [Keeps.mk_fields] | apply Keeps.ite | apply Keeps.foldl | apply Keeps.foldl_fst | apply Keeps.getD | split)

theorem State.pendTexels_keeps {p : List Instr} {s : State} {n : Nat} {t1 : Rect} (h : Keeps p s) : Keeps p (State.pendTexels s n t1) := by
  unfold State.pendTexels
  repeat' with_reducible (first | exact h | intro _ | assumption | simp only [Keeps.mk_fields] | apply State.pend_keeps | apply Keeps.ite | apply Keeps.foldl | apply Keeps.foldl_fst | apply Keeps.getD | split)

theorem State.pendLayer_keeps {p : List Instr} {s : State} {n : Nat} (h : Keeps p s) : Keeps p (State.pendLayer s n) := by
  unfold State.pendLayer
  repeat' with_reducible (first | exact h | intro _ | assumption | simp only [Keeps.mk_fields] | apply State.pend_keeps | apply Keeps.ite | apply Keeps.foldl | apply Keeps.foldl_fst | apply Keeps.getD | split)

theorem State.noteAge_keeps {p : List Instr} {s : State} {r : Nat} (h : Keeps p s) : Keeps p (State.noteAge s r) := by
  unfold State.noteAge
  repeat' with_reducible (first | exact h | intro _ | assumption | simp only [Keeps.mk_fields] | apply State.setFld_keeps | apply Keeps.ite | apply Keeps.foldl | apply Keeps.foldl_fst | apply Keeps.getD | split)

theorem State.unselect_keeps {p : List Instr} {s : State} {k : Nat} {bytes : Nat} (h : Keeps p s) : Keeps p (State.unselect s k bytes) := by
  unfold State.unselect
  repeat' with_reducible (first | exact h | intro _ | assumption | simp only [Keeps.mk_fields] | apply State.setNode_keeps | apply Keeps.ite | apply Keeps.foldl | apply Keeps.foldl_fst | apply Keeps.getD | split)

theorem State.dropJob_keeps {p : List Instr} {s : State} {j : Job} (h : Keeps p s) : Keeps p (State.dropJob s j) := by
  unfold State.dropJob
  repeat' with_reducible (first | exact h | intro _ | assumption | simp only [Keeps.mk_fields] | apply State.setPg_keeps | apply State.unselect_keeps | apply Keeps.ite | apply Keeps.foldl | apply Keeps.foldl_fst | apply Keeps.getD | split)

theorem State.regionDone_keeps {p : List Instr} {s : State} {r : Nat} (h : Keeps p s) : Keeps p (State.regionDone s r) := by
  unfold State.regionDone
  repeat' with_reducible (first | exact h | intro _ | assumption | simp only [Keeps.mk_fields] | apply State.count_keeps | apply State.setRegion_keeps | apply State.enqueue_keeps | apply Keeps.ite | apply Keeps.foldl | apply Keeps.foldl_fst | apply Keeps.getD | split)

theorem State.abandonAgain_keeps {p : List Instr} {s : State} {r : Nat} (h : Keeps p s) : Keeps p (State.abandonAgain s r) := by
  unfold State.abandonAgain
  repeat' with_reducible (first | exact h | intro _ | assumption | simp only [Keeps.mk_fields] | apply State.countCheck_keeps | apply Keeps.ite | apply Keeps.foldl | apply Keeps.foldl_fst | apply Keeps.getD | split)

theorem State.requeue_keeps {p : List Instr} {s : State} {r : Nat} (h : Keeps p s) : Keeps p (State.requeue s r) := by
  unfold State.requeue
  repeat' with_reducible (first | exact h | intro _ | assumption | simp only [Keeps.mk_fields] | apply State.abandonAgain_keeps | apply State.dropJob_keeps | apply State.enqueue_keeps | apply State.count_keeps | apply Keeps.ite | apply Keeps.foldl | apply Keeps.foldl_fst | apply Keeps.getD | split)

theorem State.discardEntries_keeps {p : List Instr} {s : State} (h : Keeps p s) : Keeps p (State.discardEntries s) := by
  unfold State.discardEntries
  repeat' with_reducible (first | exact h | intro _ | assumption | simp only [Keeps.mk_fields] | apply State.count_keeps | apply State.countNode_keeps | apply State.noteAge_keeps | apply Keeps.ite | apply Keeps.foldl | apply Keeps.foldl_fst | apply Keeps.getD | split)

theorem State.setGates_keeps {p : List Instr} {s : State} {q : Nat} {g : Gates} (h : Keeps p s) : Keeps p (State.setGates s q g) := by
  unfold State.setGates
  repeat' with_reducible (first | exact h | intro _ | assumption | simp only [Keeps.mk_fields] | apply Keeps.ite | apply Keeps.foldl | apply Keeps.foldl_fst | apply Keeps.getD | split)

theorem State.setPlanned_keeps {p : List Instr} {s : State} {q : Nat} {c : Nat} {ok : Bool} (h : Keeps p s) : Keeps p (State.setPlanned s q c ok) := by
  unfold State.setPlanned
  repeat' with_reducible (first | exact h | intro _ | assumption | simp only [Keeps.mk_fields] | apply State.setNode_keeps | apply State.post_keeps | apply Keeps.ite | apply Keeps.foldl | apply Keeps.foldl_fst | apply Keeps.getD | split)

theorem State.findUnusable_keeps {p : List Instr} {s : State} {q : Nat} (h : Keeps p s) : Keeps p (State.findUnusable s q) := by
  unfold State.findUnusable
  repeat' with_reducible (first | exact h | intro _ | assumption | simp only [Keeps.mk_fields] | apply State.setNode_keeps | apply State.bumpBy_keeps | apply State.post_keeps | apply Keeps.ite | apply Keeps.foldl | apply Keeps.foldl_fst | apply Keeps.getD | split)

theorem State.replan_keeps {p : List Instr} {s : State} {q : Nat} {lanes : optParam Bool false} (h : Keeps p s) : Keeps p (State.replan s q lanes) := by
  unfold State.replan
  repeat' with_reducible (first | exact h | intro _ | assumption | simp only [Keeps.mk_fields] | apply State.findUnusable_keeps | apply State.setPlanned_keeps | apply State.post_keeps | apply Keeps.ite | apply Keeps.foldl | apply Keeps.foldl_fst | apply Keeps.getD | split)

theorem State.moveEntry_keeps {p : List Instr} {s : State} {r : Nat} (h : Keeps p s) : Keeps p (State.moveEntry s r) := by
  unfold State.moveEntry
  repeat' with_reducible (first | exact h | intro _ | assumption | simp only [Keeps.mk_fields] | apply State.countNode_keeps | apply State.setRegion_keeps | apply Keeps.ite | apply Keeps.foldl | apply Keeps.foldl_fst | apply Keeps.getD | split)

theorem State.moveSeg_keeps {p : List Instr} {s : State} {g : Nat} (h : Keeps p s) : Keeps p (State.moveSeg s g) := by
  unfold State.moveSeg
  repeat' with_reducible (first | exact h | intro _ | assumption | simp only [Keeps.mk_fields] | apply State.moveEntry_keeps | apply Keeps.ite | apply Keeps.foldl | apply Keeps.foldl_fst | apply Keeps.getD | split)

theorem State.replanAll_keeps {p : List Instr} {s : State} {qs : List Nat} {changed : Nat → Bool} (h : Keeps p s) : Keeps p (State.replanAll s qs changed) := by
  unfold State.replanAll
  repeat' with_reducible (first | exact h | intro _ | assumption | simp only [Keeps.mk_fields] | apply State.replan_keeps | apply Keeps.ite | apply Keeps.foldl | apply Keeps.foldl_fst | apply Keeps.getD | split)

theorem State.remapSeg_keeps {p : List Instr} {s : State} {g : Nat} {changed : Nat → Bool} (h : Keeps p s) : Keeps p (State.remapSeg s g changed) := by
  unfold State.remapSeg
  repeat' with_reducible (first | exact h | intro _ | assumption | simp only [Keeps.mk_fields] | apply State.replanAll_keeps | apply State.moveSeg_keeps | apply Keeps.ite | apply Keeps.foldl | apply Keeps.foldl_fst | apply Keeps.getD | split)

end Sys2Proof.Machine
end

