-- ==== Sys2Proof/Laws/KeepsScene.lean ====
section
/-! SUPPORT. Every operation of Machine/Scene.lean keeps the queue and the canonical stores. -/

namespace Sys2Proof.Machine

open Sys2Proof

theorem State.slopeWrite_keeps {p : List Instr} {s : State} {w : Nat} {e : Nat} (h : Keeps p s) : Keeps p (State.slopeWrite s w e) := by
  unfold State.slopeWrite
  repeat' with_reducible (first | exact h | intro _ | assumption | simp only [Keeps.mk_fields] | apply State.setFld_keeps | apply Keeps.ite | apply Keeps.foldl | apply Keeps.foldl_fst | apply Keeps.getD | split)

theorem execViewSlopeLoad_keeps {p : List Instr} {s t : State} {id : Nat} {bus : Bus} (h : Keeps p s) (e : execViewSlopeLoad id bus s = .next t) : Keeps p t := by
  unfold execViewSlopeLoad at e
  injection e with e
  subst e
  repeat' with_reducible (first | exact h | intro _ | assumption | simp only [Keeps.mk_fields] | apply State.runOp_keeps | apply State.refuse_keeps | refine State.readRecords_keeps_eq ‹_› ?_ | apply State.readRecords_keeps | apply State.slopeWrite_keeps | apply State.finishAs_keeps | apply Keeps.ite | apply Keeps.foldl | apply Keeps.foldl_fst | apply Keeps.getD | split)

theorem State.noteVcf_keeps {p : List Instr} {s : State} {data : List Byte} (h : Keeps p s) : Keeps p (State.noteVcf s data) := by
  unfold State.noteVcf
  repeat' with_reducible (first | exact h | intro _ | assumption | simp only [Keeps.mk_fields] | apply State.setFld_keeps | apply Keeps.ite | apply Keeps.foldl | apply Keeps.foldl_fst | apply Keeps.getD | split)

theorem State.vcfRow_keeps {p : List Instr} {s : State} {x : Nat} {y : Nat} {data : List Byte} (h : Keeps p s) : Keeps p (State.vcfRow s x y data) := by
  unfold State.vcfRow
  repeat' with_reducible (first | exact h | intro _ | assumption | simp only [Keeps.mk_fields] | apply State.noteVcf_keeps | apply State.memWrite_keeps | apply Keeps.ite | apply Keeps.foldl | apply Keeps.foldl_fst | apply Keeps.getD | split)

theorem State.vcfLoaded_keeps {p : List Instr} {s : State} {r : Rect} (h : Keeps p s) : Keeps p (State.vcfLoaded s r) := by
  unfold State.vcfLoaded
  repeat' with_reducible (first | exact h | intro _ | assumption | simp only [Keeps.mk_fields] | apply Keeps.ite | apply Keeps.foldl | apply Keeps.foldl_fst | apply Keeps.getD | split)

theorem State.waitCopy_keeps {p : List Instr} {s : State} {c : Cmd} {kind : Nat} {group : Nat} (h : Keeps p s) : Keeps p (State.waitCopy s c kind group) := by
  unfold State.waitCopy
  repeat' with_reducible (first | exact h | intro _ | assumption | simp only [Keeps.mk_fields] | apply State.hold_keeps | apply Keeps.ite | apply Keeps.foldl | apply Keeps.foldl_fst | apply Keeps.getD | split)

theorem State.stopWaiting_keeps {p : List Instr} {s : State} {id : Nat} (h : Keeps p s) : Keeps p (State.stopWaiting s id) := by
  unfold State.stopWaiting
  repeat' with_reducible (first | exact h | intro _ | assumption | simp only [Keeps.mk_fields] | apply Keeps.ite | apply Keeps.foldl | apply Keeps.foldl_fst | apply Keeps.getD | split)

theorem execViewCorrectionLoad_keeps {p : List Instr} {s t : State} {id : Nat} {bus : Bus} (h : Keeps p s) (e : execViewCorrectionLoad id bus s = .next t) : Keeps p t := by
  unfold execViewCorrectionLoad at e
  injection e with e
  subst e
  repeat' with_reducible (first | exact h | intro _ | assumption | simp only [Keeps.mk_fields] | apply State.runOpAgain_keeps | apply State.refuse_keeps | apply State.waitCopy_keeps | apply State.stopWaiting_keeps | refine State.readRecords_keeps_eq ‹_› ?_ | apply State.readRecords_keeps | apply State.vcfRow_keeps | apply State.vcfLoaded_keeps | apply State.finishAs_keeps | apply Keeps.ite | apply Keeps.foldl | apply Keeps.foldl_fst | apply Keeps.getD | split)

theorem State.memCopy_keeps {p : List Instr} {s : State} {src : Nat} {dst : Nat} {n : Nat} (h : Keeps p s) : Keeps p (State.memCopy s src dst n) := by
  unfold State.memCopy
  repeat' with_reducible (first | exact h | intro _ | assumption | simp only [Keeps.mk_fields] | refine State.memRead_keeps_eq ‹_› ?_ | apply State.memRead_keeps | apply State.memWrite_keeps | apply Keeps.ite | apply Keeps.foldl | apply Keeps.foldl_fst | apply Keeps.getD | split)

theorem State.copyWork_keeps {p : List Instr} {s : State} {f : CopyFwd} (h : Keeps p s) : Keeps p (State.copyWork s f) := by
  unfold State.copyWork
  repeat' with_reducible (first | exact h | intro _ | assumption | simp only [Keeps.mk_fields] | apply State.memCopy_keeps | apply State.setFld_keeps | apply Keeps.ite | apply Keeps.foldl | apply Keeps.foldl_fst | apply Keeps.getD | split)

theorem execCopyForwardDone_keeps {p : List Instr} {s t : State} {kind : Nat} {who : Nat} (h : Keeps p s) (e : execCopyForwardDone kind who s = .next t) : Keeps p t := by
  unfold execCopyForwardDone at e
  injection e with e
  subst e
  repeat' with_reducible (first | exact h | intro _ | assumption | simp only [Keeps.mk_fields] | apply State.copyWork_keeps | apply Keeps.ite | apply Keeps.foldl | apply Keeps.foldl_fst | apply Keeps.getD | split)

theorem State.disableChecks_keeps {p : List Instr} {s : State} (h : Keeps p s) : Keeps p (State.disableChecks s).1 := by
  unfold State.disableChecks
  repeat' with_reducible (first | exact h | intro _ | assumption | simp only [Keeps.mk_fields] | apply State.setFld_keeps | apply State.abandonAgain_keeps | apply State.countCheck_keeps | apply Keeps.ite | apply Keeps.foldl | apply Keeps.foldl_fst | apply Keeps.getD | split)

theorem State.disableChecks_keeps_eq {p : List Instr} {s t : State} {ret} (e : State.disableChecks s = (t, ret)) (h : Keeps p s) : Keeps p t := by
  have := State.disableChecks_keeps (p := p) h (s := s)
  rwa [e] at this

theorem State.clearGrid_keeps {p : List Instr} {s : State} (h : Keeps p s) : Keeps p (State.clearGrid s) := by
  have h' := State.discardEntries_keeps h
  exact ⟨h'.queue, Store.wf_filter _ _ h'.canonical.1, h'.canonical.2⟩

theorem State.switchGrid_keeps {p : List Instr} {s : State} {kx : Nat} {ky : Nat} (h : Keeps p s) : Keeps p (State.switchGrid s kx ky) := by
  unfold State.switchGrid
  repeat' with_reducible (first | exact h | intro _ | assumption | simp only [Keeps.mk_fields] | apply State.clearGrid_keeps | apply State.setFld_keeps | apply State.showDrops_keeps | apply State.wholeField_keeps | refine State.disableChecks_keeps_eq ‹_› ?_ | apply State.disableChecks_keeps | apply State.post_keeps | apply Keeps.ite | apply Keeps.foldl | apply Keeps.foldl_fst | apply Keeps.getD | split)

theorem State.abandonUnstarted_keeps {p : List Instr} {s : State} (h : Keeps p s) : Keeps p (State.abandonUnstarted s) := by
  unfold State.abandonUnstarted
  repeat' with_reducible (first | exact h | intro _ | assumption | simp only [Keeps.mk_fields] | apply State.requeue_keeps | apply Keeps.ite | apply Keeps.foldl | apply Keeps.foldl_fst | apply Keeps.getD | split)

theorem State.endPendGrid_keeps {p : List Instr} {s : State} {b : Bus} {status : Option Nat} (h : Keeps p s) : Keeps p (State.endPendGrid s b status) := by
  unfold State.endPendGrid
  repeat' with_reducible (first | exact h | intro _ | assumption | simp only [Keeps.mk_fields] | apply State.abort_keeps | apply State.itemDone_keeps | apply Keeps.ite | apply Keeps.foldl | apply Keeps.foldl_fst | apply Keeps.getD | split)

theorem execRegionGridSet_keeps {p : List Instr} {s t : State} {id : Nat} {bus : Bus} (h : Keeps p s) (e : execRegionGridSet id bus s = .next t) : Keeps p t := by
  unfold execRegionGridSet at e
  injection e with e
  subst e
  repeat' with_reducible (first | exact h | intro _ | assumption | simp only [Keeps.mk_fields] | apply State.runOp_keeps | apply State.refuse_keeps | apply State.finishOne_keeps | apply State.endPendGrid_keeps | apply State.defer_keeps | apply State.abandonUnstarted_keeps | apply Keeps.ite | apply Keeps.foldl | apply Keeps.foldl_fst | apply Keeps.getD | split)

theorem State.creditCheck_keeps {p : List Instr} {s : State} {q : Nat} (h : Keeps p s) : Keeps p (State.creditCheck s q) := by
  unfold State.creditCheck
  repeat' with_reducible (first | exact h | intro _ | assumption | simp only [Keeps.mk_fields] | apply State.writeOff_keeps | apply State.post_keeps | apply State.showService_keeps | apply State.setPg_keeps | apply State.grant_keeps | apply Keeps.ite | apply Keeps.foldl | apply Keeps.foldl_fst | apply Keeps.getD | split)

theorem execRegionGridSwitch_keeps {p : List Instr} {s t : State} {bus : Bus} (h : Keeps p s) (e : execRegionGridSwitch bus s = .next t) : Keeps p t := by
  unfold execRegionGridSwitch at e
  injection e with e
  subst e
  repeat' with_reducible (first | exact h | intro _ | assumption | simp only [Keeps.mk_fields] | apply State.switchGrid_keeps | apply State.creditCheck_keeps | apply State.remapSeg_keeps | apply State.endPendGrid_keeps | apply Keeps.ite | apply Keeps.foldl | apply Keeps.foldl_fst | apply Keeps.getD | split)

theorem State.touchLayer_keeps {p : List Instr} {s : State} {n : Nat} (h : Keeps p s) : Keeps p (State.touchLayer s n) := by
  unfold State.touchLayer
  repeat' with_reducible (first | exact h | intro _ | assumption | simp only [Keeps.mk_fields] | apply State.setFld_keeps | apply Keeps.ite | apply Keeps.foldl | apply Keeps.foldl_fst | apply Keeps.getD | split)

theorem State.releaseLayer_keeps {p : List Instr} {s : State} {n : Nat} (h : Keeps p s) : Keeps p (State.releaseLayer s n) := by
  unfold State.releaseLayer
  repeat' with_reducible (first | exact h | intro _ | assumption | simp only [Keeps.mk_fields] | apply State.touchLayer_keeps | apply State.setFld_keeps | apply Keeps.ite | apply Keeps.foldl | apply Keeps.foldl_fst | apply Keeps.getD | split)

theorem execLayerDefine_keeps {p : List Instr} {s t : State} {id : Nat} {bus : Bus} (h : Keeps p s) (e : execLayerDefine id bus s = .next t) : Keeps p t := by
  unfold execLayerDefine at e
  injection e with e
  subst e
  repeat' with_reducible (first | exact h | intro _ | assumption | simp only [Keeps.mk_fields] | apply State.runOp_keeps | apply State.refuse_keeps | apply State.finishOne_keeps | apply State.releaseLayer_keeps | apply State.setFld_keeps | apply State.touchLayer_keeps | apply Keeps.ite | apply Keeps.foldl | apply Keeps.foldl_fst | apply Keeps.getD | split)

theorem State.layerGeometry_keeps {p : List Instr} {s : State} {client : Nat} {p1 : Nat → Nat → Nat} (h : Keeps p s) : Keeps p (State.layerGeometry s client p1).1 := by
  unfold State.layerGeometry
  repeat' with_reducible (first | exact h | intro _ | assumption | simp only [Keeps.mk_fields] | apply State.setFld_keeps | apply State.touchLayer_keeps | apply Keeps.ite | apply Keeps.foldl | apply Keeps.foldl_fst | apply Keeps.getD | split)

theorem State.layerGeometry_keeps_eq {p : List Instr} {s t : State} {client : Nat} {p1 : Nat → Nat → Nat} {ret} (e : State.layerGeometry s client p1 = (t, ret)) (h : Keeps p s) : Keeps p t := by
  have := State.layerGeometry_keeps (p := p) h (s := s) (client := client) (p1 := p1)
  rwa [e] at this

theorem execLayerGeometry_keeps {p : List Instr} {s t : State} {id : Nat} {bus : Bus} (h : Keeps p s) (e : execLayerGeometry id bus s = .next t) : Keeps p t := by
  unfold execLayerGeometry at e
  injection e with e
  subst e
  repeat' with_reducible (first | exact h | intro _ | assumption | simp only [Keeps.mk_fields] | apply State.runOp_keeps | refine State.layerGeometry_keeps_eq ‹_› ?_ | apply State.layerGeometry_keeps | apply State.refuse_keeps | apply State.finishOne_keeps | apply Keeps.ite | apply Keeps.foldl | apply Keeps.foldl_fst | apply Keeps.getD | split)

theorem State.layerColour_keeps {p : List Instr} {s : State} {n : Nat} {p1 : Nat → Nat → Nat} (h : Keeps p s) : Keeps p (State.layerColour s n p1) := by
  unfold State.layerColour
  repeat' with_reducible (first | exact h | intro _ | assumption | simp only [Keeps.mk_fields] | apply State.setFld_keeps | apply State.setReg_keeps | apply State.touchLayer_keeps | apply Keeps.ite | apply Keeps.foldl | apply Keeps.foldl_fst | apply Keeps.getD | split)

theorem State.layerTable_keeps {p : List Instr} {s : State} {n : Nat} {d : List Byte} (h : Keeps p s) : Keeps p (State.layerTable s n d) := by
  unfold State.layerTable
  repeat' with_reducible (first | exact h | intro _ | assumption | simp only [Keeps.mk_fields] | apply State.setFld_keeps | apply Keeps.ite | apply Keeps.foldl | apply Keeps.foldl_fst | apply Keeps.getD | split)

theorem execLayerColour_keeps {p : List Instr} {s t : State} {id : Nat} {bus : Bus} (h : Keeps p s) (e : execLayerColour id bus s = .next t) : Keeps p t := by
  unfold execLayerColour at e
  injection e with e
  subst e
  repeat' with_reducible (first | exact h | intro _ | assumption | simp only [Keeps.mk_fields] | apply State.runOp_keeps | apply State.refuse_keeps | refine State.srcRead_keeps_eq ‹_› ?_ | apply State.srcRead_keeps | apply State.finishOne_keeps | apply State.layerColour_keeps | apply State.layerTable_keeps | apply State.failOne_keeps | apply Keeps.ite | apply Keeps.foldl | apply Keeps.foldl_fst | apply Keeps.getD | split)

theorem execRegionLayersRead_keeps {p : List Instr} {s t : State} {id : Nat} {bus : Bus} (h : Keeps p s) (e : execRegionLayersRead id bus s = .next t) : Keeps p t := by
  unfold execRegionLayersRead at e
  injection e with e
  subst e
  repeat' with_reducible (first | exact h | intro _ | assumption | simp only [Keeps.mk_fields] | apply State.runOp_keeps | apply State.refuse_keeps | refine State.writeRecords_keeps_eq ‹_› ?_ | apply State.writeRecords_keeps | apply State.finishAs_keeps | apply Keeps.ite | apply Keeps.foldl | apply Keeps.foldl_fst | apply Keeps.getD | split)

theorem execLayerDamage_keeps {p : List Instr} {s t : State} {id : Nat} {bus : Bus} (h : Keeps p s) (e : execLayerDamage id bus s = .next t) : Keeps p t := by
  unfold execLayerDamage at e
  injection e with e
  subst e
  repeat' with_reducible (first | exact h | intro _ | assumption | simp only [Keeps.mk_fields] | apply State.runOp_keeps | apply State.refuse_keeps | apply State.markAll_keeps | apply State.pendTexels_keeps | apply State.finishOne_keeps | apply Keeps.ite | apply Keeps.foldl | apply Keeps.foldl_fst | apply Keeps.getD | split)

theorem execRegionDirty_keeps {p : List Instr} {s t : State} {id : Nat} {bus : Bus} (h : Keeps p s) (e : execRegionDirty id bus s = .next t) : Keeps p t := by
  unfold execRegionDirty at e
  injection e with e
  subst e
  repeat' with_reducible (first | exact h | intro _ | assumption | simp only [Keeps.mk_fields] | apply State.runOp_keeps | apply State.refuse_keeps | apply State.finishOne_keeps | apply State.wholeField_keeps | apply State.markAll_keeps | apply Keeps.ite | apply Keeps.foldl | apply Keeps.foldl_fst | apply Keeps.getD | split)

end Sys2Proof.Machine
end

