-- ==== Sys2Proof/Laws/KeepsSched.lean ====
section
/-! SUPPORT. Every operation of Machine/Sched.lean keeps the queue and the canonical stores. -/

namespace Sys2Proof.Machine

open Sys2Proof

theorem State.wakeLanes_keeps {p : List Instr} {s : State} {q : Nat} (h : Keeps p s) : Keeps p (State.wakeLanes s q) := by
  unfold State.wakeLanes
  repeat' with_reducible (first | exact h | intro _ | assumption | simp only [Keeps.mk_fields] | apply State.setFld_keeps | apply State.ungate_keeps | apply Keeps.ite | apply Keeps.foldl | apply Keeps.foldl_fst | apply Keeps.getD | split)

theorem State.addJob_keeps {p : List Instr} {s : State} {r : Nat} {k : Nat} {bay : Nat} {again : Bool} {check : Option (Nat × Bool × Nat)} (h : Keeps p s) : Keeps p (State.addJob s r k bay again check) := by
  unfold State.addJob
  repeat' with_reducible (first | exact h | intro _ | assumption | simp only [Keeps.mk_fields] | apply State.ungate_keeps | apply State.setNode_keeps | apply Keeps.ite | apply Keeps.foldl | apply Keeps.foldl_fst | apply Keeps.getD | split)

theorem State.selectEntry_keeps {p : List Instr} {s : State} {r : Nat} {k : Nat} {bay : Nat} (h : Keeps p s) : Keeps p (State.selectEntry s r k bay) := by
  unfold State.selectEntry
  repeat' with_reducible (first | exact h | intro _ | assumption | simp only [Keeps.mk_fields] | apply State.noteAge_keeps | apply State.countNode_keeps | apply State.count_keeps | apply State.setRegion_keeps | apply State.addJob_keeps | apply State.setNode_keeps | apply Keeps.ite | apply Keeps.foldl | apply Keeps.foldl_fst | apply Keeps.getD | split)

theorem State.selectFor_keeps {p : List Instr} {s : State} {q : Nat} (h : Keeps p s) : Keeps p (State.selectFor s q) := by
  unfold State.selectFor
  repeat' with_reducible (first | exact h | intro _ | assumption | simp only [Keeps.mk_fields] | apply State.wakeLanes_keeps | apply State.addJob_keeps | apply State.selectEntry_keeps | apply Keeps.ite | apply Keeps.foldl | apply Keeps.foldl_fst | apply Keeps.getD | split)

theorem execRegionSelect_keeps {p : List Instr} {s t : State} (h : Keeps p s) (e : execRegionSelect s = .next t) : Keeps p t := by
  unfold execRegionSelect at e
  injection e with e
  subst e
  repeat' with_reducible (first | exact h | intro _ | assumption | simp only [Keeps.mk_fields] | apply State.selectFor_keeps | apply Keeps.ite | apply Keeps.foldl | apply Keeps.foldl_fst | apply Keeps.getD | split)

theorem State.creditStep_keeps {p : List Instr} {s : State} {q : Nat} {c : Nat} (h : Keeps p s) : Keeps p (State.creditStep s q c) := by
  unfold State.creditStep
  repeat' with_reducible (first | exact h | intro _ | assumption | simp only [Keeps.mk_fields] | apply State.setNode_keeps | apply Keeps.ite | apply Keeps.foldl | apply Keeps.foldl_fst | apply Keeps.getD | split)

theorem execClassCreditTick_keeps {p : List Instr} {s t : State} (h : Keeps p s) (e : execClassCreditTick s = .next t) : Keeps p t := by
  unfold execClassCreditTick at e
  injection e with e
  subst e
  repeat' with_reducible (first | exact h | intro _ | assumption | simp only [Keeps.mk_fields] | apply State.creditStep_keeps | apply Keeps.ite | apply Keeps.foldl | apply Keeps.foldl_fst | apply Keeps.getD | split)

theorem State.relimit_keeps {p : List Instr} {s : State} {q : Nat} {c : Nat} (h : Keeps p s) : Keeps p (State.relimit s q c) := by
  unfold State.relimit
  repeat' with_reducible (first | exact h | intro _ | assumption | simp only [Keeps.mk_fields] | apply State.setNode_keeps | apply Keeps.ite | apply Keeps.foldl | apply Keeps.foldl_fst | apply Keeps.getD | split)

theorem State.showList_keeps {p : List Instr} {s : State} {q : Nat} (h : Keeps p s) : Keeps p (State.showList s q) := by
  unfold State.showList
  repeat' with_reducible (first | exact h | intro _ | assumption | simp only [Keeps.mk_fields] | apply State.setReg_keeps | apply State.setFld_keeps | apply Keeps.ite | apply Keeps.foldl | apply Keeps.foldl_fst | apply Keeps.getD | split)

theorem execGateListStart_keeps {p : List Instr} {s t : State} {q : Nat} (h : Keeps p s) (e : execGateListStart q s = .next t) : Keeps p t := by
  unfold execGateListStart at e
  injection e with e
  subst e
  repeat' with_reducible (first | exact h | intro _ | assumption | simp only [Keeps.mk_fields] | apply State.setGates_keeps | apply State.replan_keeps | apply State.showList_keeps | apply State.itemDone_keeps | apply Keeps.ite | apply Keeps.foldl | apply Keeps.foldl_fst | apply Keeps.getD | split)

theorem execGateListSet_keeps {p : List Instr} {s t : State} {id : Nat} {bus : Bus} (h : Keeps p s) (e : execGateListSet id bus s = .next t) : Keeps p t := by
  unfold execGateListSet at e
  injection e with e
  subst e
  repeat' with_reducible (first | exact h | intro _ | assumption | simp only [Keeps.mk_fields] | apply State.runOp_keeps | apply State.refuse_keeps | refine State.readRecords_keeps_eq ‹_› ?_ | apply State.readRecords_keeps | apply State.failOne_keeps | apply State.defer_keeps | apply State.abort_keeps | apply State.setGates_keeps | apply State.post_keeps | apply Keeps.ite | apply Keeps.foldl | apply Keeps.foldl_fst | apply Keeps.getD | split)

theorem State.endInterval_keeps {p : List Instr} {s : State} {c : Nat} (h : Keeps p s) : Keeps p (State.endInterval s c) := by
  unfold State.endInterval
  repeat' with_reducible (first | exact h | intro _ | assumption | simp only [Keeps.mk_fields] | apply State.setFld_keeps | apply State.post_keeps | apply State.setNode_keeps | apply Keeps.ite | apply Keeps.foldl | apply Keeps.foldl_fst | apply Keeps.getD | split)

theorem State.countSent_keeps {p : List Instr} {s : State} {q : Nat} {n : Nat} (h : Keeps p s) : Keeps p (State.countSent s q n) := by
  unfold State.countSent
  repeat' with_reducible (first | exact h | intro _ | assumption | simp only [Keeps.mk_fields] | apply State.setPg_keeps | apply State.setNode_keeps | apply Keeps.ite | apply Keeps.foldl | apply Keeps.foldl_fst | apply Keeps.getD | split)

theorem State.countWire_keeps {p : List Instr} {s : State} {q : Nat} (h : Keeps p s) : Keeps p (State.countWire s q) := by
  unfold State.countWire
  repeat' with_reducible (first | exact h | intro _ | assumption | simp only [Keeps.mk_fields] | apply State.nextFree_keeps | apply State.countSent_keeps | apply Keeps.ite | apply Keeps.foldl | apply Keeps.foldl_fst | apply Keeps.getD | split)

theorem execAccountingIntervalEnd_keeps {p : List Instr} {s t : State} (h : Keeps p s) (e : execAccountingIntervalEnd s = .next t) : Keeps p t := by
  unfold execAccountingIntervalEnd at e
  injection e with e
  subst e
  repeat' with_reducible (first | exact h | intro _ | assumption | simp only [Keeps.mk_fields] | apply State.endInterval_keeps | apply State.countWire_keeps | apply Keeps.ite | apply Keeps.foldl | apply Keeps.foldl_fst | apply Keeps.getD | split)

theorem execDelayBreach_keeps {p : List Instr} {s t : State} {r : Nat} (h : Keeps p s) (e : execDelayBreach r s = .next t) : Keeps p t := by
  unfold execDelayBreach at e
  injection e with e
  subst e
  repeat' with_reducible (first | exact h | intro _ | assumption | simp only [Keeps.mk_fields] | apply State.countNode_keeps | apply State.setRegion_keeps | apply State.post_keeps | apply Keeps.ite | apply Keeps.foldl | apply Keeps.foldl_fst | apply Keeps.getD | split)

theorem execHistogramSample_keeps {p : List Instr} {s t : State} (h : Keeps p s) (e : execHistogramSample s = .next t) : Keeps p t := by
  unfold execHistogramSample at e
  injection e with e
  subst e
  repeat' with_reducible (first | exact h | intro _ | assumption | simp only [Keeps.mk_fields] | apply State.setNode_keeps | apply State.noteAge_keeps | apply Keeps.ite | apply Keeps.foldl | apply Keeps.foldl_fst | apply Keeps.getD | split)

theorem execClassSet_keeps {p : List Instr} {s t : State} {id : Nat} {bus : Bus} (h : Keeps p s) (e : execClassSet id bus s = .next t) : Keeps p t := by
  unfold execClassSet at e
  injection e with e
  subst e
  repeat' with_reducible (first | exact h | intro _ | assumption | simp only [Keeps.mk_fields] | apply State.runOp_keeps | apply State.refuse_keeps | apply State.setFld_keeps | apply State.relimit_keeps | apply State.replan_keeps | apply State.finishAs_keeps | apply Keeps.ite | apply Keeps.foldl | apply Keeps.foldl_fst | apply Keeps.getD | split)

theorem execGuaranteeSet_keeps {p : List Instr} {s t : State} {id : Nat} {bus : Bus} (h : Keeps p s) (e : execGuaranteeSet id bus s = .next t) : Keeps p t := by
  unfold execGuaranteeSet at e
  injection e with e
  subst e
  repeat' with_reducible (first | exact h | intro _ | assumption | simp only [Keeps.mk_fields] | apply State.runOp_keeps | apply State.refuse_keeps | apply State.setFld_keeps | apply State.setRegion_keeps | apply State.finishOne_keeps | apply State.replan_keeps | apply Keeps.ite | apply Keeps.foldl | apply Keeps.foldl_fst | apply Keeps.getD | split)

theorem execRegionMapSet_keeps {p : List Instr} {s t : State} {id : Nat} {bus : Bus} (h : Keeps p s) (e : execRegionMapSet id bus s = .next t) : Keeps p t := by
  unfold execRegionMapSet at e
  injection e with e
  subst e
  repeat' with_reducible (first | exact h | intro _ | assumption | simp only [Keeps.mk_fields] | apply State.runOp_keeps | apply State.refuse_keeps | apply State.setFld_keeps | apply State.finishAs_keeps | apply Keeps.ite | apply Keeps.foldl | apply Keeps.foldl_fst | apply Keeps.getD | split)

theorem execSchedStatsRead_keeps {p : List Instr} {s t : State} {id : Nat} {bus : Bus} (h : Keeps p s) (e : execSchedStatsRead id bus s = .next t) : Keeps p t := by
  unfold execSchedStatsRead at e
  injection e with e
  subst e
  repeat' with_reducible (first | exact h | intro _ | assumption | simp only [Keeps.mk_fields] | apply State.runOp_keeps | refine State.writeRecords_keeps_eq ‹_› ?_ | apply State.writeRecords_keeps | apply State.setNode_keeps | apply State.finishAs_keeps | apply Keeps.ite | apply Keeps.foldl | apply Keeps.foldl_fst | apply Keeps.getD | split)

end Sys2Proof.Machine
end

