-- ==== Sys2Proof/Laws/KeepsSynth.lean ====
section
/-! SUPPORT. Every operation of Machine/Synth.lean keeps the queue and the canonical stores. -/

namespace Sys2Proof.Machine

open Sys2Proof

theorem execFillComplete_keeps {p : List Instr} {s t : State} {bay : Nat} (h : Keeps p s) (e : execFillComplete bay s = .next t) : Keeps p t := by
  unfold execFillComplete at e
  injection e with e
  subst e
  repeat' with_reducible (first | exact h | intro _ | assumption | simp only [Keeps.mk_fields] | apply State.setJob_keeps | apply State.postLimited_keeps | apply State.bump_keeps | apply Keeps.ite | apply Keeps.foldl | apply Keeps.foldl_fst | apply Keeps.getD | split)

theorem execDemandLineArrival_keeps {p : List Instr} {s t : State} {bay : Nat} {lines : List Nat} {clocks : Nat} (h : Keeps p s) (e : execDemandLineArrival bay lines clocks s = .next t) : Keeps p t := by
  unfold execDemandLineArrival at e
  injection e with e
  subst e
  repeat' with_reducible (first | exact h | intro _ | assumption | simp only [Keeps.mk_fields] | apply State.bumpBy_keeps | apply State.setJob_keeps | apply Keeps.ite | apply Keeps.foldl | apply Keeps.foldl_fst | apply Keeps.getD | split)

theorem execSynthesisStart_keeps {p : List Instr} {s t : State} {bay : Nat} (h : Keeps p s) (e : execSynthesisStart bay s = .next t) : Keeps p t := by
  unfold execSynthesisStart at e
  injection e with e
  subst e
  repeat' with_reducible (first | exact h | intro _ | assumption | simp only [Keeps.mk_fields] | apply State.countCorrection_keeps | apply State.setJob_keeps | apply State.setRegion_keeps | apply State.countCheck_keeps | apply Keeps.ite | apply Keeps.foldl | apply Keeps.foldl_fst | apply Keeps.getD | split)

theorem State.ask_keeps {p : List Instr} {s : State} {j : Job} (h : Keeps p s) : Keeps p (State.ask s j) := by
  unfold State.ask
  repeat' with_reducible (first | exact h | intro _ | assumption | simp only [Keeps.mk_fields] | apply State.setJob_keeps | apply State.setPg_keeps | apply Keeps.ite | apply Keeps.foldl | apply Keeps.foldl_fst | apply Keeps.getD | split)

theorem execLaunchRequest_keeps {p : List Instr} {s t : State} {bay : Nat} (h : Keeps p s) (e : execLaunchRequest bay s = .next t) : Keeps p t := by
  unfold execLaunchRequest at e
  injection e with e
  subst e
  repeat' with_reducible (first | exact h | intro _ | assumption | simp only [Keeps.mk_fields] | apply State.ask_keeps | apply Keeps.ite | apply Keeps.foldl | apply Keeps.foldl_fst | apply Keeps.getD | split)

theorem execPieceReady_keeps {p : List Instr} {s t : State} {region : Nat} (h : Keeps p s) (e : execPieceReady region s = .next t) : Keeps p t := by
  unfold execPieceReady at e
  injection e with e
  subst e
  repeat' with_reducible (first | exact h | intro _ | assumption | simp only [Keeps.mk_fields] | apply State.bump_keeps | apply State.ask_keeps | apply Keeps.ite | apply Keeps.foldl | apply Keeps.foldl_fst | apply Keeps.getD | split)

theorem execRayBufferDrained_keeps {p : List Instr} {s t : State} {bay : Nat} {clocks : Nat} (h : Keeps p s) (e : execRayBufferDrained bay clocks s = .next t) : Keeps p t := by
  unfold execRayBufferDrained at e
  injection e with e
  subst e
  repeat' with_reducible (first | exact h | intro _ | assumption | simp only [Keeps.mk_fields] | apply State.bumpBy_keeps | apply Keeps.ite | apply Keeps.foldl | apply Keeps.foldl_fst | apply Keeps.getD | split)

theorem State.captureInto_keeps {p : List Instr} {s : State} {b : Bus} {j : Job} {compared : Bool} {mismatch : Bool} {id : Nat} (h : Keeps p s) : Keeps p (State.captureInto s b j compared mismatch id) := by
  unfold State.captureInto
  repeat' with_reducible (first | exact h | intro _ | assumption | simp only [Keeps.mk_fields] | refine State.hostWrite_keeps_eq ‹_› ?_ | apply State.hostWrite_keeps | apply State.itemDone_keeps | apply Keeps.ite | apply Keeps.foldl | apply Keeps.foldl_fst | apply Keeps.getD | split)

theorem State.capture_keeps {p : List Instr} {s : State} {b : Bus} {j : Job} {compared : Bool} {mismatch : Bool} (h : Keeps p s) : Keeps p (State.capture s b j compared mismatch) := by
  unfold State.capture
  repeat' with_reducible (first | exact h | intro _ | assumption | simp only [Keeps.mk_fields] | apply State.captureInto_keeps | apply Keeps.ite | apply Keeps.foldl | apply Keeps.foldl_fst | apply Keeps.getD | split)

theorem State.settle_keeps {p : List Instr} {s : State} {r : Nat} {c : Nat} (h : Keeps p s) : Keeps p (State.settle s r c) := by
  unfold State.settle
  repeat' with_reducible (first | exact h | intro _ | assumption | simp only [Keeps.mk_fields] | apply Keeps.ite | apply Keeps.foldl | apply Keeps.foldl_fst | apply Keeps.getD | split)

theorem State.clearSub_keeps {p : List Instr} {s : State} {r : Nat} {c : Nat} (h : Keeps p s) : Keeps p (State.clearSub s r c) := by
  unfold State.clearSub
  repeat' with_reducible (first | exact h | intro _ | assumption | simp only [Keeps.mk_fields] | apply State.dropBy_keeps | apply Keeps.ite | apply Keeps.foldl | apply Keeps.foldl_fst | apply Keeps.getD | split)

theorem State.lastMismatch_keeps {p : List Instr} {s : State} {j : Job} {c : Nat} {expect : Nat} {second : Bool} (h : Keeps p s) : Keeps p (State.lastMismatch s j c expect second) := by
  unfold State.lastMismatch
  repeat' with_reducible (first | exact h | intro _ | assumption | simp only [Keeps.mk_fields] | apply State.setFld_keeps | apply Keeps.ite | apply Keeps.foldl | apply Keeps.foldl_fst | apply Keeps.getD | split)

theorem State.postMismatch_keeps {p : List Instr} {s : State} {j : Job} {c : Nat} (h : Keeps p s) : Keeps p (State.postMismatch s j c) := by
  unfold State.postMismatch
  repeat' with_reducible (first | exact h | intro _ | assumption | simp only [Keeps.mk_fields] | apply State.postLimited_keeps | apply Keeps.ite | apply Keeps.foldl | apply Keeps.foldl_fst | apply Keeps.getD | split)

theorem State.askWhole_keeps {p : List Instr} {s : State} {j : Job} (h : Keeps p s) : Keeps p (State.askWhole s j) := by
  unfold State.askWhole
  repeat' with_reducible (first | exact h | intro _ | assumption | simp only [Keeps.mk_fields] | apply State.setJob_keeps | apply State.ask_keeps | apply Keeps.ite | apply Keeps.foldl | apply Keeps.foldl_fst | apply Keeps.getD | split)

theorem execSynthesisEnd_keeps {p : List Instr} {s t : State} {bay : Nat} {bus : Bus} (h : Keeps p s) (e : execSynthesisEnd bay bus s = .next t) : Keeps p t := by
  unfold execSynthesisEnd at e
  injection e with e
  subst e
  repeat' with_reducible (first | exact h | intro _ | assumption | simp only [Keeps.mk_fields] | apply State.bump_keeps | apply State.setJob_keeps | apply State.capture_keeps | apply State.askWhole_keeps | apply State.settle_keeps | apply State.clearSub_keeps | apply State.countCheck_keeps | apply State.post_keeps | apply State.lastMismatch_keeps | apply State.markAll_keeps | apply State.dropJob_keeps | apply State.postMismatch_keeps | apply Keeps.ite | apply Keeps.foldl | apply Keeps.foldl_fst | apply Keeps.getD | split)

theorem execCaptureTimeout_keeps {p : List Instr} {s t : State} {id : Nat} {bus : Bus} (h : Keeps p s) (e : execCaptureTimeout id bus s = .next t) : Keeps p t := by
  unfold execCaptureTimeout at e
  injection e with e
  subst e
  repeat' with_reducible (first | exact h | intro _ | assumption | simp only [Keeps.mk_fields] | apply State.itemDone_keeps | apply Keeps.ite | apply Keeps.foldl | apply Keeps.foldl_fst | apply Keeps.getD | split)

theorem State.setCheckShadow_keeps {p : List Instr} {s : State} {c : Nat} {d : CheckDef} (h : Keeps p s) : Keeps p (State.setCheckShadow s c d) := by
  unfold State.setCheckShadow
  repeat' with_reducible (first | exact h | intro _ | assumption | simp only [Keeps.mk_fields] | apply Keeps.ite | apply Keeps.foldl | apply Keeps.foldl_fst | apply Keeps.getD | split)

theorem State.clearValid_keeps {p : List Instr} {s : State} {r : Nat} (h : Keeps p s) : Keeps p (State.clearValid s r) := by
  unfold State.clearValid
  repeat' with_reducible (first | exact h | intro _ | assumption | simp only [Keeps.mk_fields] | apply State.memWrite_keeps | apply Keeps.ite | apply Keeps.foldl | apply Keeps.foldl_fst | apply Keeps.getD | split)

theorem execCheckRegionDefine_keeps {p : List Instr} {s t : State} {id : Nat} {bus : Bus} (h : Keeps p s) (e : execCheckRegionDefine id bus s = .next t) : Keeps p t := by
  unfold execCheckRegionDefine at e
  injection e with e
  subst e
  repeat' with_reducible (first | exact h | intro _ | assumption | simp only [Keeps.mk_fields] | apply State.runOp_keeps | apply State.refuse_keeps | apply State.finishOne_keeps | apply State.setCheckShadow_keeps | apply State.clearValid_keeps | apply State.setFld_keeps | apply Keeps.ite | apply Keeps.foldl | apply Keeps.foldl_fst | apply Keeps.getD | split)

theorem execSqcSignatureLoad_keeps {p : List Instr} {s t : State} {id : Nat} {bus : Bus} (h : Keeps p s) (e : execSqcSignatureLoad id bus s = .next t) : Keeps p t := by
  unfold execSqcSignatureLoad at e
  injection e with e
  subst e
  repeat' with_reducible (first | exact h | intro _ | assumption | simp only [Keeps.mk_fields] | apply State.runOpAgain_keeps | apply State.refuse_keeps | apply State.waitCopy_keeps | apply State.stopWaiting_keeps | refine State.readRecords_keeps_eq ‹_› ?_ | apply State.readRecords_keeps | apply State.memWrite_keeps | apply State.finishAs_keeps | apply Keeps.ite | apply Keeps.foldl | apply Keeps.foldl_fst | apply Keeps.getD | split)

theorem execSqcCapture_keeps {p : List Instr} {s t : State} {id : Nat} {bus : Bus} (h : Keeps p s) (e : execSqcCapture id bus s = .next t) : Keeps p t := by
  unfold execSqcCapture at e
  injection e with e
  subst e
  repeat' with_reducible (first | exact h | intro _ | assumption | simp only [Keeps.mk_fields] | apply State.runOp_keeps | apply State.refuse_keeps | apply State.defer_keeps | apply State.markAll_keeps | apply Keeps.ite | apply Keeps.foldl | apply Keeps.foldl_fst | apply Keeps.getD | split)

theorem State.setProbe_keeps {p : List Instr} {s : State} {p1 : Probe} (h : Keeps p s) : Keeps p (State.setProbe s p1) := by
  unfold State.setProbe
  repeat' with_reducible (first | exact h | intro _ | assumption | simp only [Keeps.mk_fields] | apply Keeps.ite | apply Keeps.foldl | apply Keeps.foldl_fst | apply Keeps.getD | split)

theorem State.endProbe_keeps {p : List Instr} {s : State} {id : Nat} (h : Keeps p s) : Keeps p (State.endProbe s id) := by
  unfold State.endProbe
  repeat' with_reducible (first | exact h | intro _ | assumption | simp only [Keeps.mk_fields] | apply Keeps.ite | apply Keeps.foldl | apply Keeps.foldl_fst | apply Keeps.getD | split)

theorem State.startProbe_keeps {p : List Instr} {s : State} {p1 : Probe} (h : Keeps p s) : Keeps p (State.startProbe s p1) := by
  unfold State.startProbe
  repeat' with_reducible (first | exact h | intro _ | assumption | simp only [Keeps.mk_fields] | apply State.countCorrection_keeps | apply State.setProbe_keeps | apply Keeps.ite | apply Keeps.foldl | apply Keeps.foldl_fst | apply Keeps.getD | split)

theorem State.runProbe_keeps {p : List Instr} {s : State} {bus : Bus} {c : Cmd} {p1 : Probe} {u : Under} (h : Keeps p s) : Keeps p (State.runProbe s bus c p1 u) := by
  unfold State.runProbe
  repeat' with_reducible (first | exact h | intro _ | assumption | simp only [Keeps.mk_fields] | refine State.writeRecords_keeps_eq ‹_› ?_ | apply State.writeRecords_keeps | apply State.endProbe_keeps | apply State.finishAs_keeps | apply Keeps.ite | apply Keeps.foldl | apply Keeps.foldl_fst | apply Keeps.getD | split)

theorem State.stepProbe_keeps {p : List Instr} {s : State} {bus : Bus} {c : Cmd} {p1 : Probe} (h : Keeps p s) : Keeps p (State.stepProbe s bus c p1) := by
  unfold State.stepProbe
  repeat' with_reducible (first | exact h | intro _ | assumption | simp only [Keeps.mk_fields] | apply State.finishAs_keeps | apply State.endProbe_keeps | apply State.setProbe_keeps | apply State.startProbe_keeps | apply State.runProbe_keeps | apply Keeps.ite | apply Keeps.foldl | apply Keeps.foldl_fst | apply Keeps.getD | split)

theorem execRayProbe_keeps {p : List Instr} {s t : State} {id : Nat} {bus : Bus} (h : Keeps p s) (e : execRayProbe id bus s = .next t) : Keeps p t := by
  unfold execRayProbe at e
  injection e with e
  subst e
  repeat' with_reducible (first | exact h | intro _ | assumption | simp only [Keeps.mk_fields] | apply State.runOpAgain_keeps | apply State.stepProbe_keeps | apply State.refuse_keeps | apply State.hold_keeps | apply State.startProbe_keeps | apply Keeps.ite | apply Keeps.foldl | apply Keeps.foldl_fst | apply Keeps.getD | split)

end Sys2Proof.Machine
end

