-- ==== Sys2Proof/Laws/KeepsBurst.lean ====
section
/-! SUPPORT. Every operation of Machine/Burst.lean keeps the queue and the canonical stores. -/

namespace Sys2Proof.Machine

open Sys2Proof

theorem State.stall_keeps {p : List Instr} {s : State} {q : Nat} (h : Keeps p s) : Keeps p (State.stall s q) := by
  unfold State.stall
  repeat' with_reducible (first | exact h | intro _ | assumption | simp only [Keeps.mk_fields] | apply State.setFld_keeps | apply State.bump_keeps | apply Keeps.ite | apply Keeps.foldl | apply Keeps.foldl_fst | apply Keeps.getD | split)

theorem State.forward_keeps {p : List Instr} {s : State} {q : Nat} {type : Nat} {one : Nat} {payload : List Byte} (h : Keeps p s) : Keeps p (State.forward s q type one payload) := by
  unfold State.forward
  repeat' with_reducible (first | exact h | intro _ | assumption | simp only [Keeps.mk_fields] | apply State.emit_keeps | apply Keeps.ite | apply Keeps.foldl | apply Keeps.foldl_fst | apply Keeps.getD | split)

theorem State.sendCut_keeps {p : List Instr} {s : State} {q : Nat} {seq : Nat} {row : Nat} (h : Keeps p s) : Keeps p (State.sendCut s q seq row) := by
  unfold State.sendCut
  repeat' with_reducible (first | exact h | intro _ | assumption | simp only [Keeps.mk_fields] | apply State.forward_keeps | apply Keeps.ite | apply Keeps.foldl | apply Keeps.foldl_fst | apply Keeps.getD | split)

theorem execBurstStart_keeps {p : List Instr} {s t : State} {b : BurstOn} (h : Keeps p s) (e : execBurstStart b s = .next t) : Keeps p t := by
  unfold execBurstStart at e
  injection e with e
  subst e
  repeat' with_reducible (first | exact h | intro _ | assumption | simp only [Keeps.mk_fields] | apply State.stall_keeps | apply State.setPg_keeps | apply State.emit_keeps | apply State.takeCredits_keeps | apply State.ask_keeps | apply State.setJob_keeps | apply State.setFld_keeps | apply State.count_keeps | apply State.sendStripe_keeps | apply Keeps.ite | apply Keeps.foldl | apply Keeps.foldl_fst | apply Keeps.getD | split)

theorem State.beginBlocks_keeps {p : List Instr} {s : State} {q : Nat} {n : Nat} (h : Keeps p s) : Keeps p (State.beginBlocks s q n) := by
  unfold State.beginBlocks
  repeat' with_reducible (first | exact h | intro _ | assumption | simp only [Keeps.mk_fields] | apply State.takeCredits_keeps | apply State.setPg_keeps | apply State.stall_keeps | apply Keeps.ite | apply Keeps.foldl | apply Keeps.foldl_fst | apply Keeps.getD | split)

theorem State.freeWire_keeps {p : List Instr} {s : State} {q : Nat} (h : Keeps p s) : Keeps p (State.freeWire s q) := by
  unfold State.freeWire
  repeat' with_reducible (first | exact h | intro _ | assumption | simp only [Keeps.mk_fields] | apply State.setFld_keeps | apply State.setPg_keeps | apply Keeps.ite | apply Keeps.foldl | apply Keeps.foldl_fst | apply Keeps.getD | split)

theorem State.endPiece_keeps {p : List Instr} {s : State} {q : Nat} {w : Wire} {rows : Nat} {d : List Byte} (h : Keeps p s) : Keeps p (State.endPiece s q w rows d) := by
  unfold State.endPiece
  repeat' with_reducible (first | exact h | intro _ | assumption | simp only [Keeps.mk_fields] | apply State.takeCredits_keeps | apply State.emit_keeps | apply State.freeWire_keeps | apply State.countSent_keeps | apply State.setPg_keeps | apply Keeps.ite | apply Keeps.foldl | apply Keeps.foldl_fst | apply Keeps.getD | split)

theorem State.rowsSent_keeps {p : List Instr} {s : State} {j : Job} {rows : Nat} (h : Keeps p s) : Keeps p (State.rowsSent s j rows) := by
  unfold State.rowsSent
  repeat' with_reducible (first | exact h | intro _ | assumption | simp only [Keeps.mk_fields] | apply State.setJob_keeps | apply State.unselect_keeps | apply Keeps.ite | apply Keeps.foldl | apply Keeps.foldl_fst | apply Keeps.getD | split)

theorem execBurstEnd_keeps {p : List Instr} {s t : State} {q : Nat} (h : Keeps p s) (e : execBurstEnd q s = .next t) : Keeps p t := by
  unfold execBurstEnd at e
  injection e with e
  subst e
  repeat' with_reducible (first | exact h | intro _ | assumption | simp only [Keeps.mk_fields] | apply State.stall_keeps | apply State.rowsSent_keeps | apply State.endPiece_keeps | apply State.regionDone_keeps | apply State.dropJob_keeps | apply State.requeue_keeps | apply Keeps.ite | apply Keeps.foldl | apply Keeps.foldl_fst | apply Keeps.getD | split)

theorem execGateCloseSplit_keeps {p : List Instr} {s t : State} {q : Nat} {rows : Nat} (h : Keeps p s) (e : execGateCloseSplit q rows s = .next t) : Keeps p t := by
  unfold execGateCloseSplit at e
  injection e with e
  subst e
  repeat' with_reducible (first | exact h | intro _ | assumption | simp only [Keeps.mk_fields] | apply State.stall_keeps | apply State.sendCut_keeps | apply State.rowsSent_keeps | apply State.endPiece_keeps | apply State.ask_keeps | apply State.count_keeps | apply Keeps.ite | apply Keeps.foldl | apply Keeps.foldl_fst | apply Keeps.getD | split)

theorem execUnderrun_keeps {p : List Instr} {s t : State} {q : Nat} {row : Nat} (h : Keeps p s) (e : execUnderrun q row s = .next t) : Keeps p t := by
  unfold execUnderrun at e
  injection e with e
  subst e
  repeat' with_reducible (first | exact h | intro _ | assumption | simp only [Keeps.mk_fields] | apply State.stall_keeps | apply State.requeue_keeps | apply State.sendCut_keeps | apply State.endPiece_keeps | apply State.count_keeps | apply State.postLimited_keeps | apply State.setPg_keeps | apply Keeps.ite | apply Keeps.foldl | apply Keeps.foldl_fst | apply Keeps.getD | split)

theorem State.abortPiece_keeps {p : List Instr} {s : State} {q : Nat} {row : Nat} {written : Nat} {lanesWork : Bool} (h : Keeps p s) : Keeps p (State.abortPiece s q row written lanesWork) := by
  unfold State.abortPiece
  repeat' with_reducible (first | exact h | intro _ | assumption | simp only [Keeps.mk_fields] | apply State.count_keeps | apply State.sendCut_keeps | apply State.endPiece_keeps | apply State.countSent_keeps | apply State.requeue_keeps | apply State.freeWire_keeps | apply Keeps.ite | apply Keeps.foldl | apply Keeps.foldl_fst | apply Keeps.getD | split)

theorem State.dropPiece_keeps {p : List Instr} {s : State} {q : Nat} (h : Keeps p s) : Keeps p (State.dropPiece s q) := by
  unfold State.dropPiece
  repeat' with_reducible (first | exact h | intro _ | assumption | simp only [Keeps.mk_fields] | apply State.requeue_keeps | apply State.freeWire_keeps | apply State.countWire_keeps | apply State.count_keeps | apply Keeps.ite | apply Keeps.foldl | apply Keeps.foldl_fst | apply Keeps.getD | split)

end Sys2Proof.Machine
end

