-- ==== Sys2Proof/Laws/KeepsJournal.lean ====
section
/-! SUPPORT. Every operation of Machine/Journal.lean keeps the queue and the canonical stores. -/

namespace Sys2Proof.Machine

open Sys2Proof

theorem State.record_keeps {p : List Instr} {s : State} {n : NewRecord} (h : Keeps p s) : Keeps p (State.record s n) := by
  unfold State.record
  repeat' with_reducible (first | exact h | intro _ | assumption | simp only [Keeps.mk_fields] | apply State.bump_keeps | apply Keeps.ite | apply Keeps.foldl | apply Keeps.foldl_fst | apply Keeps.getD | split)

end Sys2Proof.Machine
end

