-- ==== Sys2Proof/Laws/KeepsBays.lean ====
section
/-! SUPPORT. Every operation of Machine/Bays.lean keeps the queue and the canonical stores. -/

namespace Sys2Proof.Machine

open Sys2Proof

theorem State.setBentClock_keeps {p : List Instr} {s : State} {b : Nat} {mhz : Nat} (h : Keeps p s) : Keeps p (State.setBentClock s b mhz) := by
  unfold State.setBentClock
  repeat' with_reducible (first | exact h | intro _ | assumption | simp only [Keeps.mk_fields] | apply State.setFld_keeps | apply Keeps.ite | apply Keeps.foldl | apply Keeps.foldl_fst | apply Keeps.getD | split)

theorem State.setNoc_keeps {p : List Instr} {s : State} {d : Nat} {depth : Nat} (h : Keeps p s) : Keeps p (State.setNoc s d depth) := by
  unfold State.setNoc
  repeat' with_reducible (first | exact h | intro _ | assumption | simp only [Keeps.mk_fields] | apply State.setDomain_keeps | apply State.setFld_keeps | apply Keeps.ite | apply Keeps.foldl | apply Keeps.foldl_fst | apply Keeps.getD | split)

theorem State.retimeBent_keeps {p : List Instr} {s : State} {b : Nat} (h : Keeps p s) : Keeps p (State.retimeBent s b) := by
  unfold State.retimeBent
  repeat' with_reducible (first | exact h | intro _ | assumption | simp only [Keeps.mk_fields] | apply State.setBentClock_keeps | apply Keeps.ite | apply Keeps.foldl | apply Keeps.foldl_fst | apply Keeps.getD | split)

theorem execBentClockChange_keeps {p : List Instr} {s t : State} {b : Nat} (h : Keeps p s) (e : execBentClockChange b s = .next t) : Keeps p t := by
  unfold execBentClockChange at e
  injection e with e
  subst e
  repeat' with_reducible (first | exact h | intro _ | assumption | simp only [Keeps.mk_fields] | apply State.setBentClock_keeps | apply Keeps.ite | apply Keeps.foldl | apply Keeps.foldl_fst | apply Keeps.getD | split)

theorem State.showBays_keeps {p : List Instr} {s : State} (h : Keeps p s) : Keeps p (State.showBays s) := by
  unfold State.showBays
  repeat' with_reducible (first | exact h | intro _ | assumption | simp only [Keeps.mk_fields] | apply State.setFld_keeps | apply State.post_keeps | apply Keeps.ite | apply Keeps.foldl | apply Keeps.foldl_fst | apply Keeps.getD | split)

theorem State.recordBay_keeps {p : List Instr} {s : State} {q : Nat} (h : Keeps p s) : Keeps p (State.recordBay s q) := by
  unfold State.recordBay
  repeat' with_reducible (first | exact h | intro _ | assumption | simp only [Keeps.mk_fields] | apply State.record_keeps | apply Keeps.ite | apply Keeps.foldl | apply Keeps.foldl_fst | apply Keeps.getD | split)

theorem State.recordBent_keeps {p : List Instr} {s : State} {b : Nat} (h : Keeps p s) : Keeps p (State.recordBent s b) := by
  unfold State.recordBent
  repeat' with_reducible (first | exact h | intro _ | assumption | simp only [Keeps.mk_fields] | apply State.record_keeps | apply Keeps.ite | apply Keeps.foldl | apply Keeps.foldl_fst | apply Keeps.getD | split)

theorem State.cutSynth_keeps {p : List Instr} {s : State} {j : Job} {ready : Nat} (h : Keeps p s) : Keeps p (State.cutSynth s j ready) := by
  unfold State.cutSynth
  repeat' with_reducible (first | exact h | intro _ | assumption | simp only [Keeps.mk_fields] | apply State.count_keeps | apply State.setJob_keeps | apply State.requeue_keeps | apply Keeps.ite | apply Keeps.foldl | apply Keeps.foldl_fst | apply Keeps.getD | split)

theorem State.dropFill_keeps {p : List Instr} {s : State} {q : Nat} (h : Keeps p s) : Keeps p (State.dropFill s q) := by
  unfold State.dropFill
  repeat' with_reducible (first | exact h | intro _ | assumption | simp only [Keeps.mk_fields] | apply State.requeue_keeps | apply Keeps.ite | apply Keeps.foldl | apply Keeps.foldl_fst | apply Keeps.getD | split)

theorem State.dropWork_keeps {p : List Instr} {s : State} {q : Nat} {ready : Nat} (h : Keeps p s) : Keeps p (State.dropWork s q ready) := by
  unfold State.dropWork
  repeat' with_reducible (first | exact h | intro _ | assumption | simp only [Keeps.mk_fields] | apply State.dropFill_keeps | apply State.cutSynth_keeps | apply Keeps.ite | apply Keeps.foldl | apply Keeps.foldl_fst | apply Keeps.getD | split)

theorem State.setBent_keeps {p : List Instr} {s : State} {b : Nat} {st : Nat} {cause : Nat} (h : Keeps p s) : Keeps p (State.setBent s b st cause) := by
  unfold State.setBent
  repeat' with_reducible (first | exact h | intro _ | assumption | simp only [Keeps.mk_fields] | apply State.post_keeps | apply State.setFld_keeps | apply Keeps.ite | apply Keeps.foldl | apply Keeps.foldl_fst | apply Keeps.getD | split)

theorem State.endItems_keeps {p : List Instr} {s : State} {ws : List (Nat × Nat)} {i : Item} (h : Keeps p s) : Keeps p (State.endItems s ws i) := by
  unfold State.endItems
  repeat' with_reducible (first | exact h | intro _ | assumption | simp only [Keeps.mk_fields] | apply State.itemDone_keeps | apply Keeps.ite | apply Keeps.foldl | apply Keeps.foldl_fst | apply Keeps.getD | split)

theorem State.bentOut_keeps {p : List Instr} {s : State} {b : Nat} {st : Nat} {cause : Nat} (h : Keeps p s) : Keeps p (State.bentOut s b st cause) := by
  unfold State.bentOut
  repeat' with_reducible (first | exact h | intro _ | assumption | simp only [Keeps.mk_fields] | apply State.setBentClock_keeps | apply State.setDomain_keeps | apply State.setBent_keeps | apply State.recordBent_keeps | apply State.count_keeps | apply State.showBays_keeps | apply Keeps.ite | apply Keeps.foldl | apply Keeps.foldl_fst | apply Keeps.getD | split)

theorem State.drainBent_keeps {p : List Instr} {s : State} {b : Nat} {target : Nat} {cause : Nat} {ws : List (Nat × Nat)} (h : Keeps p s) : Keeps p (State.drainBent s b target cause ws) := by
  unfold State.drainBent
  repeat' with_reducible (first | exact h | intro _ | assumption | simp only [Keeps.mk_fields] | apply State.setBent_keeps | apply State.showBays_keeps | apply State.dropFill_keeps | apply Keeps.ite | apply Keeps.foldl | apply Keeps.foldl_fst | apply Keeps.getD | split)

theorem State.retireBent_keeps {p : List Instr} {s : State} {b : Nat} {cause : Nat} {ready : List (Nat × Nat)} (h : Keeps p s) : Keeps p (State.retireBent s b cause ready) := by
  unfold State.retireBent
  repeat' with_reducible (first | exact h | intro _ | assumption | simp only [Keeps.mk_fields] | apply State.dropWork_keeps | apply State.endItems_keeps | apply State.bentOut_keeps | apply Keeps.ite | apply Keeps.foldl | apply Keeps.foldl_fst | apply Keeps.getD | split)

theorem execBentRetireImmediate_keeps {p : List Instr} {s t : State} {b : Nat} {cause : Nat} {ready : List (Nat × Nat)} (h : Keeps p s) (e : execBentRetireImmediate b cause ready s = .next t) : Keeps p t := by
  unfold execBentRetireImmediate at e
  injection e with e
  subst e
  repeat' with_reducible (first | exact h | intro _ | assumption | simp only [Keeps.mk_fields] | apply State.retireBent_keeps | apply Keeps.ite | apply Keeps.foldl | apply Keeps.foldl_fst | apply Keeps.getD | split)

theorem State.wakeBent_keeps {p : List Instr} {s : State} {b : Nat} {ws : List (Nat × Nat)} (h : Keeps p s) : Keeps p (State.wakeBent s b ws) := by
  unfold State.wakeBent
  repeat' with_reducible (first | exact h | intro _ | assumption | simp only [Keeps.mk_fields] | apply State.setNoc_keeps | apply State.setBentClock_keeps | apply State.setDomain_keeps | apply Keeps.ite | apply Keeps.foldl | apply Keeps.foldl_fst | apply Keeps.getD | split)

theorem State.bentIn_keeps {p : List Instr} {s : State} {b : Nat} (h : Keeps p s) : Keeps p (State.bentIn s b) := by
  unfold State.bentIn
  repeat' with_reducible (first | exact h | intro _ | assumption | simp only [Keeps.mk_fields] | apply State.endItems_keeps | apply State.bentOut_keeps | apply State.recordBent_keeps | apply State.setBent_keeps | apply State.showBays_keeps | apply Keeps.ite | apply Keeps.foldl | apply Keeps.foldl_fst | apply Keeps.getD | split)

theorem State.retireBay_keeps {p : List Instr} {s : State} {q : Nat} {ready : Nat} (h : Keeps p s) : Keeps p (State.retireBay s q ready) := by
  unfold State.retireBay
  repeat' with_reducible (first | exact h | intro _ | assumption | simp only [Keeps.mk_fields] | apply State.count_keeps | apply State.setFld_keeps | apply State.dropWork_keeps | apply State.showBays_keeps | apply State.recordBay_keeps | apply State.post_keeps | apply State.retireBent_keeps | apply Keeps.ite | apply Keeps.foldl | apply Keeps.foldl_fst | apply Keeps.getD | split)

theorem State.markFailed_keeps {p : List Instr} {s : State} {q : Nat} {k : Nat} (h : Keeps p s) : Keeps p (State.markFailed s q k) := by
  unfold State.markFailed
  repeat' with_reducible (first | exact h | intro _ | assumption | simp only [Keeps.mk_fields] | apply State.count_keeps | apply State.setFld_keeps | apply Keeps.ite | apply Keeps.foldl | apply Keeps.foldl_fst | apply Keeps.getD | split)

theorem State.sister_keeps {p : List Instr} {s : State} {q : Nat} {e : Nat} {check : Nat} (h : Keeps p s) : Keeps p (State.sister s q e check) := by
  unfold State.sister
  repeat' with_reducible (first | exact h | intro _ | assumption | simp only [Keeps.mk_fields] | apply State.setFld_keeps | apply State.post_keeps | apply State.recordBay_keeps | apply State.count_keeps | apply Keeps.ite | apply Keeps.foldl | apply Keeps.foldl_fst | apply Keeps.getD | split)

theorem State.afterSister_keeps {p : List Instr} {s : State} {q : Nat} {ready : Nat} (h : Keeps p s) : Keeps p (State.afterSister s q ready) := by
  unfold State.afterSister
  repeat' with_reducible (first | exact h | intro _ | assumption | simp only [Keeps.mk_fields] | apply State.cutSynth_keeps | apply State.count_keeps | apply State.setJob_keeps | apply Keeps.ite | apply Keeps.foldl | apply Keeps.foldl_fst | apply Keeps.getD | split)

theorem State.faultSlots_keeps {p : List Instr} {s : State} {q : Nat} {es : List Nat} {check : Nat} {ready : Nat} (h : Keeps p s) : Keeps p (State.faultSlots s q es check ready) := by
  unfold State.faultSlots
  repeat' with_reducible (first | exact h | intro _ | assumption | simp only [Keeps.mk_fields] | apply State.markFailed_keeps | apply State.showBays_keeps | apply State.afterSister_keeps | apply State.sister_keeps | apply State.retireBay_keeps | apply State.count_keeps | apply Keeps.ite | apply Keeps.foldl | apply Keeps.foldl_fst | apply Keeps.getD | split)

theorem execEngineFault_keeps {p : List Instr} {s t : State} {bay : Nat} {slots : List Nat} {check : Nat} {ready : Nat} (h : Keeps p s) (e : execEngineFault bay slots check ready s = .next t) : Keeps p t := by
  unfold execEngineFault at e
  injection e with e
  subst e
  repeat' with_reducible (first | exact h | intro _ | assumption | simp only [Keeps.mk_fields] | apply State.faultSlots_keeps | apply Keeps.ite | apply Keeps.foldl | apply Keeps.foldl_fst | apply Keeps.getD | split)

theorem execLockstepWatchdogExpiry_keeps {p : List Instr} {s t : State} {bay : Nat} {slot : Nat} {ready : Nat} (h : Keeps p s) (e : execLockstepWatchdogExpiry bay slot ready s = .next t) : Keeps p t := by
  unfold execLockstepWatchdogExpiry at e
  injection e with e
  subst e
  repeat' with_reducible (first | exact h | intro _ | assumption | simp only [Keeps.mk_fields] | apply State.faultSlots_keeps | apply Keeps.ite | apply Keeps.foldl | apply Keeps.foldl_fst | apply Keeps.getD | split)

theorem State.testInPlace_keeps {p : List Instr} {s : State} {q : Nat} {fails : List Nat} (h : Keeps p s) : Keeps p (State.testInPlace s q fails) := by
  unfold State.testInPlace
  repeat' with_reducible (first | exact h | intro _ | assumption | simp only [Keeps.mk_fields] | apply State.setFld_keeps | apply State.recordBay_keeps | apply State.count_keeps | apply State.markFailed_keeps | apply State.retireBay_keeps | apply State.faultSlots_keeps | apply Keeps.ite | apply Keeps.foldl | apply Keeps.foldl_fst | apply Keeps.getD | split)

theorem State.testReturn_keeps {p : List Instr} {s : State} {q : Nat} {fails : List Nat} (h : Keeps p s) : Keeps p (State.testReturn s q fails).1 := by
  unfold State.testReturn
  repeat' with_reducible (first | exact h | intro _ | assumption | simp only [Keeps.mk_fields] | apply State.setFld_keeps | apply State.count_keeps | apply State.recordBay_keeps | apply State.sister_keeps | apply Keeps.ite | apply Keeps.foldl | apply Keeps.foldl_fst | apply Keeps.getD | split)

theorem State.testReturn_keeps_eq {p : List Instr} {s t : State} {q : Nat} {fails : List Nat} {ret} (e : State.testReturn s q fails = (t, ret)) (h : Keeps p s) : Keeps p t := by
  have := State.testReturn_keeps (p := p) h (s := s) (q := q) (fails := fails)
  rwa [e] at this

theorem execBaySelfTest_keeps {p : List Instr} {s t : State} {bay : Nat} {fails : List Nat} (h : Keeps p s) (e : execBaySelfTest bay fails s = .next t) : Keeps p t := by
  unfold execBaySelfTest at e
  injection e with e
  subst e
  repeat' with_reducible (first | exact h | intro _ | assumption | simp only [Keeps.mk_fields] | apply State.count_keeps | refine State.testReturn_keeps_eq ‹_› ?_ | apply State.testReturn_keeps | apply State.endItems_keeps | apply State.showBays_keeps | apply State.testInPlace_keeps | apply State.bentIn_keeps | apply Keeps.ite | apply Keeps.foldl | apply Keeps.foldl_fst | apply Keeps.getD | split)

theorem execBentWake_keeps {p : List Instr} {s t : State} (h : Keeps p s) (e : execBentWake s = .next t) : Keeps p t := by
  unfold execBentWake at e
  injection e with e
  subst e
  repeat' with_reducible (first | exact h | intro _ | assumption | simp only [Keeps.mk_fields] | apply State.wakeBent_keeps | apply Keeps.ite | apply Keeps.foldl | apply Keeps.foldl_fst | apply Keeps.getD | split)

theorem State.testBay_keeps {p : List Instr} {s : State} {q : Nat} {kind : Nat} {ws : List (Nat × Nat)} (h : Keeps p s) : Keeps p (State.testBay s q kind ws) := by
  unfold State.testBay
  repeat' with_reducible (first | exact h | intro _ | assumption | simp only [Keeps.mk_fields] | apply State.showBays_keeps | apply Keeps.ite | apply Keeps.foldl | apply Keeps.foldl_fst | apply Keeps.getD | split)

theorem State.bayDrained_keeps {p : List Instr} {s : State} {q : Nat} {d : Drain} (h : Keeps p s) : Keeps p (State.bayDrained s q d) := by
  unfold State.bayDrained
  repeat' with_reducible (first | exact h | intro _ | assumption | simp only [Keeps.mk_fields] | apply State.recordBay_keeps | apply State.count_keeps | apply State.setFld_keeps | apply State.showBays_keeps | apply State.post_keeps | apply State.retireBent_keeps | apply State.endItems_keeps | apply State.testBay_keeps | apply Keeps.ite | apply Keeps.foldl | apply Keeps.foldl_fst | apply Keeps.getD | split)

theorem execDrainComplete_keeps {p : List Instr} {s t : State} {bent : Bool} {n : Nat} {late : Bool} {ready : List (Nat × Nat)} (h : Keeps p s) (e : execDrainComplete bent n late ready s = .next t) : Keeps p t := by
  unfold execDrainComplete at e
  injection e with e
  subst e
  repeat' with_reducible (first | exact h | intro _ | assumption | simp only [Keeps.mk_fields] | apply State.dropWork_keeps | apply State.endItems_keeps | apply State.bentOut_keeps | apply State.wakeBent_keeps | apply State.bayDrained_keeps | apply Keeps.ite | apply Keeps.foldl | apply Keeps.foldl_fst | apply Keeps.getD | split)

theorem State.serviceBay_keeps {p : List Instr} {s : State} {id : Nat} {action : Nat} {q : Nat} {k : Nat} (h : Keeps p s) : Keeps p (State.serviceBay s id action q k) := by
  unfold State.serviceBay
  repeat' with_reducible (first | exact h | intro _ | assumption | simp only [Keeps.mk_fields] | apply State.showBays_keeps | apply State.dropFill_keeps | apply State.itemDone_keeps | apply State.testBay_keeps | apply Keeps.ite | apply Keeps.foldl | apply Keeps.foldl_fst | apply Keeps.getD | split)

theorem execBayService_keeps {p : List Instr} {s t : State} {id : Nat} {_bus : Bus} (h : Keeps p s) (e : execBayService id _bus s = .next t) : Keeps p t := by
  unfold execBayService at e
  injection e with e
  subst e
  repeat' with_reducible (first | exact h | intro _ | assumption | simp only [Keeps.mk_fields] | apply State.runOp_keeps | apply State.refuse_keeps | apply State.defer_keeps | apply State.serviceBay_keeps | apply Keeps.ite | apply Keeps.foldl | apply Keeps.foldl_fst | apply Keeps.getD | split)

theorem State.serviceBent_keeps {p : List Instr} {s : State} {id : Nat} {b : Nat} {k : Nat} {ret : Bool} (h : Keeps p s) : Keeps p (State.serviceBent s id b k ret) := by
  unfold State.serviceBent
  repeat' with_reducible (first | exact h | intro _ | assumption | simp only [Keeps.mk_fields] | apply State.itemDone_keeps | apply State.wakeBent_keeps | apply State.drainBent_keeps | apply State.retireBent_keeps | apply Keeps.ite | apply Keeps.foldl | apply Keeps.foldl_fst | apply Keeps.getD | split)

theorem execBentService_keeps {p : List Instr} {s t : State} {id : Nat} {bus : Bus} (h : Keeps p s) (e : execBentService id bus s = .next t) : Keeps p t := by
  unfold execBentService at e
  injection e with e
  subst e
  repeat' with_reducible (first | exact h | intro _ | assumption | simp only [Keeps.mk_fields] | apply State.runOp_keeps | apply State.refuse_keeps | apply State.finishAs_keeps | apply State.defer_keeps | apply State.serviceBent_keeps | apply Keeps.ite | apply Keeps.foldl | apply Keeps.foldl_fst | apply Keeps.getD | split)

end Sys2Proof.Machine
end

