-- ==== Sys2Proof/Laws/KeepsCmd.lean ====
section
/-! SUPPORT. Every operation of Machine/Cmd.lean keeps the queue and the canonical stores. -/

namespace Sys2Proof.Machine

open Sys2Proof

theorem State.setTail_keeps {p : List Instr} {s : State} {i : Nat} {v : Nat} (h : Keeps p s) : Keeps p (State.setTail s i v) := by
  unfold State.setTail
  repeat' with_reducible (first | exact h | intro _ | assumption | simp only [Keeps.mk_fields] | apply Keeps.ite | apply Keeps.foldl | apply Keeps.foldl_fst | apply Keeps.getD | split)

theorem State.drop_keeps {p : List Instr} {s : State} {f : Nat} (h : Keeps p s) : Keeps p (State.drop s f) := by
  unfold State.drop
  repeat' with_reducible (first | exact h | intro _ | assumption | simp only [Keeps.mk_fields] | apply State.bump_keeps | apply Keeps.ite | apply Keeps.foldl | apply Keeps.foldl_fst | apply Keeps.getD | split)

theorem State.ringRead_keeps {p : List Instr} {s : State} {b : Bus} {f : Nat} {loc : Bool} {a1 : Nat} {n : Nat} (h : Keeps p s) : Keeps p (State.ringRead s b f loc a1 n).1 := by
  unfold State.ringRead
  repeat' with_reducible (first | exact h | intro _ | assumption | simp only [Keeps.mk_fields] | refine State.memRead_keeps_eq ‹_› ?_ | apply State.memRead_keeps | apply State.drop_keeps | apply Keeps.ite | apply Keeps.foldl | apply Keeps.foldl_fst | apply Keeps.getD | split)

theorem State.ringRead_keeps_eq {p : List Instr} {s t : State} {b : Bus} {f : Nat} {loc : Bool} {a1 : Nat} {n : Nat} {ret} (e : State.ringRead s b f loc a1 n = (t, ret)) (h : Keeps p s) : Keeps p t := by
  have := State.ringRead_keeps (p := p) h (s := s) (b := b) (f := f) (loc := loc) (a1 := a1) (n := n)
  rwa [e] at this

theorem State.ringStore_keeps {p : List Instr} {s : State} {f : Nat} {a1 : Nat} {d : List Byte} (h : Keeps p s) : Keeps p (State.ringStore s f a1 d) := by
  unfold State.ringStore
  repeat' with_reducible (first | exact h | intro _ | assumption | simp only [Keeps.mk_fields] | apply State.memWrite_keeps | apply State.drop_keeps | apply Keeps.ite | apply Keeps.foldl | apply Keeps.foldl_fst | apply Keeps.getD | split)

theorem State.ringWrite_keeps {p : List Instr} {s : State} {b : Bus} {f : Nat} {loc : Bool} {a1 : Nat} {d : List Byte} (h : Keeps p s) : Keeps p (State.ringWrite s b f loc a1 d) := by
  unfold State.ringWrite
  repeat' with_reducible (first | exact h | intro _ | assumption | simp only [Keeps.mk_fields] | apply State.ringStore_keeps | refine State.hostWrite_keeps_eq ‹_› ?_ | apply State.hostWrite_keeps | apply Keeps.ite | apply Keeps.foldl | apply Keeps.foldl_fst | apply Keeps.getD | split)

theorem State.refuseDoorbell_keeps {p : List Instr} {s : State} {f : Nat} {off : Nat} (h : Keeps p s) : Keeps p (State.refuseDoorbell s f off) := by
  unfold State.refuseDoorbell
  repeat' with_reducible (first | exact h | intro _ | assumption | simp only [Keeps.mk_fields] | apply State.post_keeps | apply State.drop_keeps | apply Keeps.ite | apply Keeps.foldl | apply Keeps.foldl_fst | apply Keeps.getD | split)

theorem State.sqCfgWrite_keeps {p : List Instr} {s : State} {i : Nat} {data : Nat} (h : Keeps p s) : Keeps p (State.sqCfgWrite s i data) := by
  unfold State.sqCfgWrite
  repeat' with_reducible (first | exact h | intro _ | assumption | simp only [Keeps.mk_fields] | apply State.setFld_keeps | apply State.setTail_keeps | apply Keeps.ite | apply Keeps.foldl | apply Keeps.foldl_fst | apply Keeps.getD | split)

theorem execCmdSqEnableWrite_keeps {p : List Instr} {s t : State} {client : Nat} {i : Nat} {data : Nat} (h : Keeps p s) (e : execCmdSqEnableWrite client i data s = .next t) : Keeps p t := by
  unfold execCmdSqEnableWrite at e
  injection e with e
  subst e
  repeat' with_reducible (first | exact h | intro _ | assumption | simp only [Keeps.mk_fields] | apply State.sqCfgWrite_keeps | apply State.bar0_keeps | apply State.drop_keeps | apply Keeps.ite | apply Keeps.foldl | apply Keeps.foldl_fst | apply Keeps.getD | split)

theorem State.cqCfgWrite_keeps {p : List Instr} {s : State} {i : Nat} {data : Nat} (h : Keeps p s) : Keeps p (State.cqCfgWrite s i data) := by
  unfold State.cqCfgWrite
  repeat' with_reducible (first | exact h | intro _ | assumption | simp only [Keeps.mk_fields] | apply State.setFld_keeps | apply Keeps.ite | apply Keeps.foldl | apply Keeps.foldl_fst | apply Keeps.getD | split)

theorem execCmdCqEnableWrite_keeps {p : List Instr} {s t : State} {client : Nat} {i : Nat} {data : Nat} (h : Keeps p s) (e : execCmdCqEnableWrite client i data s = .next t) : Keeps p t := by
  unfold execCmdCqEnableWrite at e
  injection e with e
  subst e
  repeat' with_reducible (first | exact h | intro _ | assumption | simp only [Keeps.mk_fields] | apply State.cqCfgWrite_keeps | apply State.bar0_keeps | apply State.drop_keeps | apply Keeps.ite | apply Keeps.foldl | apply Keeps.foldl_fst | apply Keeps.getD | split)

theorem execCompletionRingClosed_keeps {p : List Instr} {s t : State} {i : Nat} (h : Keeps p s) (e : execCompletionRingClosed i s = .next t) : Keeps p t := by
  unfold execCompletionRingClosed at e
  injection e with e
  subst e
  repeat' with_reducible (first | exact h | intro _ | assumption | simp only [Keeps.mk_fields] | apply State.setFld_keeps | apply Keeps.ite | apply Keeps.foldl | apply Keeps.foldl_fst | apply Keeps.getD | split)

theorem State.postNotices_keeps {p : List Instr} {s : State} (h : Keeps p s) : Keeps p (State.postNotices s) := by
  unfold State.postNotices
  repeat' with_reducible (first | exact h | intro _ | assumption | simp only [Keeps.mk_fields] | apply Keeps.ite | apply Keeps.foldl | apply Keeps.foldl_fst | apply Keeps.getD | split)

theorem State.evCfgWrite_keeps {p : List Instr} {s : State} {client : Nat} {e : Nat} {data : Nat} (h : Keeps p s) : Keeps p (State.evCfgWrite s client e data) := by
  unfold State.evCfgWrite
  repeat' with_reducible (first | exact h | intro _ | assumption | simp only [Keeps.mk_fields] | apply State.setFld_keeps | apply Keeps.ite | apply Keeps.foldl | apply Keeps.foldl_fst | apply Keeps.getD | split)

theorem execEventRingEnableWrite_keeps {p : List Instr} {s t : State} {client : Nat} {e : Nat} {data : Nat} (h : Keeps p s) (e : execEventRingEnableWrite client e data s = .next t) : Keeps p t := by
  unfold execEventRingEnableWrite at e
  injection e with e
  subst e
  repeat' with_reducible (first | exact h | intro _ | assumption | simp only [Keeps.mk_fields] | apply State.postNotices_keeps | apply State.evCfgWrite_keeps | apply State.bar0_keeps | apply State.drop_keeps | apply Keeps.ite | apply Keeps.foldl | apply Keeps.foldl_fst | apply Keeps.getD | split)

theorem execCommandTailDoorbell_keeps {p : List Instr} {s t : State} {client : Nat} {page : Nat} {off : Nat} {value : Nat} (h : Keeps p s) (e : execCommandTailDoorbell client page off value s = .next t) : Keeps p t := by
  unfold execCommandTailDoorbell at e
  injection e with e
  subst e
  repeat' with_reducible (first | exact h | intro _ | assumption | simp only [Keeps.mk_fields] | apply State.setTail_keeps | apply State.refuseDoorbell_keeps | apply Keeps.ite | apply Keeps.foldl | apply Keeps.foldl_fst | apply Keeps.getD | split)

theorem execCompletionHeadDoorbell_keeps {p : List Instr} {s t : State} {client : Nat} {page : Nat} {r : Nat} {value : Nat} (h : Keeps p s) (e : execCompletionHeadDoorbell client page r value s = .next t) : Keeps p t := by
  unfold execCompletionHeadDoorbell at e
  injection e with e
  subst e
  repeat' with_reducible (first | exact h | intro _ | assumption | simp only [Keeps.mk_fields] | apply State.setFld_keeps | apply State.refuseDoorbell_keeps | apply Keeps.ite | apply Keeps.foldl | apply Keeps.foldl_fst | apply Keeps.getD | split)

theorem execEventHeadDoorbell_keeps {p : List Instr} {s t : State} {client : Nat} {page : Nat} {e : Nat} {value : Nat} (h : Keeps p s) (e : execEventHeadDoorbell client page e value s = .next t) : Keeps p t := by
  unfold execEventHeadDoorbell at e
  injection e with e
  subst e
  repeat' with_reducible (first | exact h | intro _ | assumption | simp only [Keeps.mk_fields] | apply State.refuseDoorbell_keeps | apply Keeps.ite | apply Keeps.foldl | apply Keeps.foldl_fst | apply Keeps.getD | split)

theorem execFenceDoorbell_keeps {p : List Instr} {s t : State} {client : Nat} {page : Nat} {k : Nat} {value : Nat} (h : Keeps p s) (e : execFenceDoorbell client page k value s = .next t) : Keeps p t := by
  unfold execFenceDoorbell at e
  injection e with e
  subst e
  repeat' with_reducible (first | exact h | intro _ | assumption | simp only [Keeps.mk_fields] | apply State.setFld_keeps | apply State.refuseDoorbell_keeps | apply Keeps.ite | apply Keeps.foldl | apply Keeps.foldl_fst | apply Keeps.getD | split)

theorem State.takeTurn_keeps {p : List Instr} {s : State} {i : Nat} (h : Keeps p s) : Keeps p (State.takeTurn s i) := by
  unfold State.takeTurn
  repeat' with_reducible (first | exact h | intro _ | assumption | simp only [Keeps.mk_fields] | apply Keeps.ite | apply Keeps.foldl | apply Keeps.foldl_fst | apply Keeps.getD | split)

theorem State.fetchRing_keeps {p : List Instr} {s : State} {b : Bus} {i : Nat} (h : Keeps p s) : Keeps p (State.fetchRing s b i) := by
  unfold State.fetchRing
  repeat' with_reducible (first | exact h | intro _ | assumption | simp only [Keeps.mk_fields] | refine State.ringRead_keeps_eq ‹_› ?_ | apply State.ringRead_keeps | apply State.post_keeps | apply State.setFld_keeps | apply State.takeTurn_keeps | apply Keeps.ite | apply Keeps.foldl | apply Keeps.foldl_fst | apply Keeps.getD | split)

theorem execCommandFetch_keeps {p : List Instr} {s t : State} {bus : Bus} (h : Keeps p s) (e : execCommandFetch bus s = .next t) : Keeps p t := by
  unfold execCommandFetch at e
  injection e with e
  subst e
  repeat' with_reducible (first | exact h | intro _ | assumption | simp only [Keeps.mk_fields] | apply State.fetchRing_keeps | apply Keeps.ite | apply Keeps.foldl | apply Keeps.foldl_fst | apply Keeps.getD | split)

theorem execCommandDispatch_keeps {p : List Instr} {s t : State} {bus : Bus} (h : Keeps p s) (e : execCommandDispatch bus s = .next t) : Keeps p t := by
  unfold execCommandDispatch at e
  injection e with e
  subst e
  repeat' with_reducible (first | exact h | intro _ | assumption | simp only [Keeps.mk_fields] | apply State.refuse_keeps | apply State.failOne_keeps | apply State.setCmd_keeps | apply Keeps.ite | apply Keeps.foldl | apply Keeps.foldl_fst | apply Keeps.getD | split)

theorem State.signal_keeps {p : List Instr} {s : State} {key : Nat} {client : Nat} {vector : Nat} {holdoff : Nat} (h : Keeps p s) : Keeps p (State.signal s key client vector holdoff) := by
  unfold State.signal
  repeat' with_reducible (first | exact h | intro _ | assumption | simp only [Keeps.mk_fields] | apply State.emit_keeps | apply Keeps.ite | apply Keeps.foldl | apply Keeps.foldl_fst | apply Keeps.getD | split)

theorem execMsixHoldoffExpiry_keeps {p : List Instr} {s t : State} {key : Nat} (h : Keeps p s) (e : execMsixHoldoffExpiry key s = .next t) : Keeps p t := by
  unfold execMsixHoldoffExpiry at e
  injection e with e
  subst e
  repeat' with_reducible (first | exact h | intro _ | assumption | simp only [Keeps.mk_fields] | apply State.signal_keeps | apply Keeps.ite | apply Keeps.foldl | apply Keeps.foldl_fst | apply Keeps.getD | split)

theorem State.haltCq_keeps {p : List Instr} {s : State} {i : Nat} {idx : Nat} {kind : Nat} (h : Keeps p s) : Keeps p (State.haltCq s i idx kind) := by
  unfold State.haltCq
  repeat' with_reducible (first | exact h | intro _ | assumption | simp only [Keeps.mk_fields] | apply State.post_keeps | apply State.setFld_keeps | apply Keeps.ite | apply Keeps.foldl | apply Keeps.foldl_fst | apply Keeps.getD | split)

theorem State.replyWritten_keeps {p : List Instr} {s : State} {r : Reply} {i : Nat} (h : Keeps p s) : Keeps p (State.replyWritten s r i) := by
  unfold State.replyWritten
  repeat' with_reducible (first | exact h | intro _ | assumption | simp only [Keeps.mk_fields] | apply Keeps.ite | apply Keeps.foldl | apply Keeps.foldl_fst | apply Keeps.getD | split)

theorem State.writeList_keeps {p : List Instr} {s : State} {r : Reply} {fails : Bool} (h : Keeps p s) : Keeps p (State.writeList s r fails).1 := by
  unfold State.writeList
  repeat' with_reducible (first | exact h | intro _ | assumption | simp only [Keeps.mk_fields] | apply State.emit_keeps | apply Keeps.ite | apply Keeps.foldl | apply Keeps.foldl_fst | apply Keeps.getD | split)

theorem State.writeList_keeps_eq {p : List Instr} {s t : State} {r : Reply} {fails : Bool} {ret} (e : State.writeList s r fails = (t, ret)) (h : Keeps p s) : Keeps p t := by
  have := State.writeList_keeps (p := p) h (s := s) (r := r) (fails := fails)
  rwa [e] at this

theorem execReplyWrite_keeps {p : List Instr} {s t : State} {i : Nat} {fails : ReplyFails} {wbFails : Bool} (h : Keeps p s) (e : execReplyWrite i fails wbFails s = .next t) : Keeps p t := by
  unfold execReplyWrite at e
  injection e with e
  subst e
  repeat' with_reducible (first | exact h | intro _ | assumption | simp only [Keeps.mk_fields] | apply State.haltCq_keeps | refine State.writeList_keeps_eq ‹_› ?_ | apply State.writeList_keeps | apply State.ringStore_keeps | apply State.emit_keeps | apply State.setFld_keeps | apply State.replyWritten_keeps | apply State.signal_keeps | apply Keeps.ite | apply Keeps.foldl | apply Keeps.foldl_fst | apply Keeps.getD | split)

theorem State.loseEvent_keeps {p : List Instr} {s : State} {q : Nat} (h : Keeps p s) : Keeps p (State.loseEvent s q) := by
  unfold State.loseEvent
  repeat' with_reducible (first | exact h | intro _ | assumption | simp only [Keeps.mk_fields] | apply State.bump_keeps | apply Keeps.ite | apply Keeps.foldl | apply Keeps.foldl_fst | apply Keeps.getD | split)

theorem State.haltEvq_keeps {p : List Instr} {s : State} {q : Nat} {idx : Nat} (h : Keeps p s) : Keeps p (State.haltEvq s q idx) := by
  unfold State.haltEvq
  repeat' with_reducible (first | exact h | intro _ | assumption | simp only [Keeps.mk_fields] | apply State.loseEvent_keeps | apply State.setFld_keeps | apply Keeps.ite | apply Keeps.foldl | apply Keeps.foldl_fst | apply Keeps.getD | split)

theorem State.writeEntry_keeps {p : List Instr} {s : State} {q : Nat} {ev : Event} {entryFails : Bool} {wbFails : Bool} (h : Keeps p s) : Keeps p (State.writeEntry s q ev entryFails wbFails).1 := by
  unfold State.writeEntry
  repeat' with_reducible (first | exact h | intro _ | assumption | simp only [Keeps.mk_fields] | apply State.haltEvq_keeps | apply State.ringStore_keeps | apply State.emit_keeps | apply State.setFld_keeps | apply Keeps.ite | apply Keeps.foldl | apply Keeps.foldl_fst | apply Keeps.getD | split)

theorem State.writeEntry_keeps_eq {p : List Instr} {s t : State} {q : Nat} {ev : Event} {entryFails : Bool} {wbFails : Bool} {ret} (e : State.writeEntry s q ev entryFails wbFails = (t, ret)) (h : Keeps p s) : Keeps p t := by
  have := State.writeEntry_keeps (p := p) h (s := s) (q := q) (ev := ev) (entryFails := entryFails) (wbFails := wbFails)
  rwa [e] at this

theorem State.signalEvq_keeps {p : List Instr} {s : State} {q : Nat} (h : Keeps p s) : Keeps p (State.signalEvq s q) := by
  unfold State.signalEvq
  repeat' with_reducible (first | exact h | intro _ | assumption | simp only [Keeps.mk_fields] | apply State.signal_keeps | apply Keeps.ite | apply Keeps.foldl | apply Keeps.foldl_fst | apply Keeps.getD | split)

theorem State.writeLost_keeps {p : List Instr} {s : State} {q : Nat} {entryFails : Bool} {wbFails : Bool} (h : Keeps p s) : Keeps p (State.writeLost s q entryFails wbFails) := by
  unfold State.writeLost
  repeat' with_reducible (first | exact h | intro _ | assumption | simp only [Keeps.mk_fields] | refine State.writeEntry_keeps_eq ‹_› ?_ | apply State.writeEntry_keeps | apply State.signalEvq_keeps | apply Keeps.ite | apply Keeps.foldl | apply Keeps.foldl_fst | apply Keeps.getD | split)

theorem State.deliver_keeps {p : List Instr} {s : State} {ev : Event} {entryFails : Bool} {wbFails : Bool} {q : Nat} (h : Keeps p s) : Keeps p (State.deliver s ev entryFails wbFails q) := by
  unfold State.deliver
  repeat' with_reducible (first | exact h | intro _ | assumption | simp only [Keeps.mk_fields] | apply State.loseEvent_keeps | apply State.writeLost_keeps | refine State.writeEntry_keeps_eq ‹_› ?_ | apply State.writeEntry_keeps | apply State.signalEvq_keeps | apply Keeps.ite | apply Keeps.foldl | apply Keeps.foldl_fst | apply Keeps.getD | split)

theorem execEventWrite_keeps {p : List Instr} {s t : State} {entryFails : List Nat} {wbFails : List Nat} (h : Keeps p s) (e : execEventWrite entryFails wbFails s = .next t) : Keeps p t := by
  unfold execEventWrite at e
  injection e with e
  subst e
  repeat' with_reducible (first | exact h | intro _ | assumption | simp only [Keeps.mk_fields] | apply State.writeLost_keeps | apply State.bump_keeps | apply State.deliver_keeps | apply Keeps.ite | apply Keeps.foldl | apply Keeps.foldl_fst | apply Keeps.getD | split)

theorem execNop_keeps {p : List Instr} {s t : State} {id : Nat} {bus : Bus} (h : Keeps p s) (e : execNop id bus s = .next t) : Keeps p t := by
  unfold execNop at e
  injection e with e
  subst e
  repeat' with_reducible (first | exact h | intro _ | assumption | simp only [Keeps.mk_fields] | apply State.runOp_keeps | apply State.finishOne_keeps | apply Keeps.ite | apply Keeps.foldl | apply Keeps.foldl_fst | apply Keeps.getD | split)

theorem execFunctionSet_keeps {p : List Instr} {s t : State} {id : Nat} {bus : Bus} (h : Keeps p s) (e : execFunctionSet id bus s = .next t) : Keeps p t := by
  unfold execFunctionSet at e
  injection e with e
  subst e
  repeat' with_reducible (first | exact h | intro _ | assumption | simp only [Keeps.mk_fields] | apply State.runOp_keeps | apply State.refuse_keeps | apply State.setFld_keeps | apply State.finishOne_keeps | apply Keeps.ite | apply Keeps.foldl | apply Keeps.foldl_fst | apply Keeps.getD | split)

end Sys2Proof.Machine
end

