-- ==== Sys2Proof/Laws/KeepsEngines.lean ====
section
/-! SUPPORT. Every operation of Machine/Engines.lean keeps the queue and the canonical stores. -/

namespace Sys2Proof.Machine

open Sys2Proof

theorem State.setPart_keeps {p : List Instr} {s : State} {d : Nat} {c : Nat} {depth : Nat} (h : Keeps p s) : Keeps p (State.setPart s d c depth) := by
  unfold State.setPart
  repeat' with_reducible (first | exact h | intro _ | assumption | simp only [Keeps.mk_fields] | apply State.setDomain_keeps | apply State.setFld_keeps | apply Keeps.ite | apply Keeps.foldl | apply Keeps.foldl_fst | apply Keeps.getD | split)

theorem State.countCmp_keeps {p : List Instr} {s : State} {j : CmpJob} {k : Nat} (h : Keeps p s) : Keeps p (State.countCmp s j k) := by
  unfold State.countCmp
  repeat' with_reducible (first | exact h | intro _ | assumption | simp only [Keeps.mk_fields] | apply State.bump_keeps | apply Keeps.ite | apply Keeps.foldl | apply Keeps.foldl_fst | apply Keeps.getD | split)

theorem State.offerJob_keeps {p : List Instr} {s : State} {j : CmpJob} (h : Keeps p s) : Keeps p (State.offerJob s j) := by
  unfold State.offerJob
  repeat' with_reducible (first | exact h | intro _ | assumption | simp only [Keeps.mk_fields] | apply Keeps.ite | apply Keeps.foldl | apply Keeps.foldl_fst | apply Keeps.getD | split)

theorem State.beginJob_keeps {p : List Instr} {s : State} {u : Nat} {j : CmpJob} (h : Keeps p s) : Keeps p (State.beginJob s u j) := by
  unfold State.beginJob
  repeat' with_reducible (first | exact h | intro _ | assumption | simp only [Keeps.mk_fields] | apply State.setPart_keeps | apply State.setFld_keeps | apply State.addTerm_keeps | apply State.countCmp_keeps | apply State.postLimited_keeps | apply Keeps.ite | apply Keeps.foldl | apply Keeps.foldl_fst | apply Keeps.getD | split)

theorem State.freeUnit_keeps {p : List Instr} {s : State} {u : Nat} {consumed : Nat} {produced : Nat} (h : Keeps p s) : Keeps p (State.freeUnit s u consumed produced) := by
  unfold State.freeUnit
  repeat' with_reducible (first | exact h | intro _ | assumption | simp only [Keeps.mk_fields] | apply State.addTerm_keeps | apply State.setReg_keeps | apply Keeps.ite | apply Keeps.foldl | apply Keeps.foldl_fst | apply Keeps.getD | split)

theorem State.countOutcome_keeps {p : List Instr} {s : State} {u : Nat} {j : CmpJob} {status : Nat} {reason : Nat} (h : Keeps p s) : Keeps p (State.countOutcome s u j status reason) := by
  unfold State.countOutcome
  repeat' with_reducible (first | exact h | intro _ | assumption | simp only [Keeps.mk_fields] | apply State.countCmp_keeps | apply State.postLimited_keeps | apply Keeps.ite | apply Keeps.foldl | apply Keeps.foldl_fst | apply Keeps.getD | split)

theorem State.cutUnit_keeps {p : List Instr} {s : State} {u : Nat} (h : Keeps p s) : Keeps p (State.cutUnit s u) := by
  unfold State.cutUnit
  repeat' with_reducible (first | exact h | intro _ | assumption | simp only [Keeps.mk_fields] | apply State.freeUnit_keeps | apply State.countCmp_keeps | apply Keeps.ite | apply Keeps.foldl | apply Keeps.foldl_fst | apply Keeps.getD | split)

theorem execCompJob_keeps {p : List Instr} {s t : State} {id : Nat} {_bus : Bus} (h : Keeps p s) (e : execCompJob id _bus s = .next t) : Keeps p t := by
  unfold execCompJob at e
  injection e with e
  subst e
  repeat' with_reducible (first | exact h | intro _ | assumption | simp only [Keeps.mk_fields] | apply State.runOp_keeps | apply State.refuse_keeps | apply State.offerJob_keeps | apply State.setCmd_keeps | apply Keeps.ite | apply Keeps.foldl | apply Keeps.foldl_fst | apply Keeps.getD | split)

theorem State.endSoftware_keeps {p : List Instr} {s : State} {b : Bus} {u : Nat} {j : CmpJob} (h : Keeps p s) : Keeps p (State.endSoftware s b u j) := by
  unfold State.endSoftware
  repeat' with_reducible (first | exact h | intro _ | assumption | simp only [Keeps.mk_fields] | apply State.cutUnit_keeps | apply State.finishAs_keeps | refine State.srcRead_keeps_eq ‹_› ?_ | apply State.srcRead_keeps | apply State.nextFree_keeps | refine State.dstWrite_keeps_eq ‹_› ?_ | apply State.dstWrite_keeps | apply State.freeUnit_keeps | apply State.countOutcome_keeps | apply Keeps.ite | apply Keeps.foldl | apply Keeps.foldl_fst | apply Keeps.getD | split)

theorem State.showBlk_keeps {p : List Instr} {s : State} (h : Keeps p s) : Keeps p (State.showBlk s) := by
  unfold State.showBlk
  repeat' with_reducible (first | exact h | intro _ | assumption | simp only [Keeps.mk_fields] | apply State.setFld_keeps | apply Keeps.ite | apply Keeps.foldl | apply Keeps.foldl_fst | apply Keeps.getD | split)

theorem execBlitJob_keeps {p : List Instr} {s t : State} {id : Nat} {_bus : Bus} (h : Keeps p s) (e : execBlitJob id _bus s = .next t) : Keeps p t := by
  unfold execBlitJob at e
  injection e with e
  subst e
  repeat' with_reducible (first | exact h | intro _ | assumption | simp only [Keeps.mk_fields] | apply State.runOp_keeps | apply State.refuse_keeps | apply State.addTerm_keeps | apply State.setCmd_keeps | apply State.showBlk_keeps | apply Keeps.ite | apply Keeps.foldl | apply Keeps.foldl_fst | apply Keeps.getD | split)

theorem execBlockJobStart_keeps {p : List Instr} {s t : State} (h : Keeps p s) (e : execBlockJobStart s = .next t) : Keeps p t := by
  unfold execBlockJobStart at e
  injection e with e
  subst e
  repeat' with_reducible (first | exact h | intro _ | assumption | simp only [Keeps.mk_fields] | apply State.count_keeps | apply State.setPart_keeps | apply State.showBlk_keeps | apply State.setFld_keeps | apply Keeps.ite | apply Keeps.foldl | apply Keeps.foldl_fst | apply Keeps.getD | split)

theorem State.freeBytes_keeps {p : List Instr} {s : State} {n : Nat} (h : Keeps p s) : Keeps p (State.freeBytes s n).1 := by
  unfold State.freeBytes
  repeat' with_reducible (first | exact h | intro _ | assumption | simp only [Keeps.mk_fields] | apply Keeps.ite | apply Keeps.foldl | apply Keeps.foldl_fst | apply Keeps.getD | split)

theorem State.freeBytes_keeps_eq {p : List Instr} {s t : State} {n : Nat} {ret} (e : State.freeBytes s n = (t, ret)) (h : Keeps p s) : Keeps p t := by
  have := State.freeBytes_keeps (p := p) h (s := s) (n := n)
  rwa [e] at this

theorem State.countBlk_keeps {p : List Instr} {s : State} {n : Nat} (h : Keeps p s) : Keeps p (State.countBlk s n) := by
  unfold State.countBlk
  repeat' with_reducible (first | exact h | intro _ | assumption | simp only [Keeps.mk_fields] | apply State.bumpBy_keeps | apply Keeps.ite | apply Keeps.foldl | apply Keeps.foldl_fst | apply Keeps.getD | split)

theorem State.blitRow_keeps {p : List Instr} {s : State} {a1 : BlitArgs} {overlap : Bool} {j : Nat} (h : Keeps p s) : Keeps p (State.blitRow s a1 overlap j).1 := by
  unfold State.blitRow
  repeat' with_reducible (first | exact h | intro _ | assumption | simp only [Keeps.mk_fields] | refine State.memRead_keeps_eq ‹_› ?_ | apply State.memRead_keeps | refine State.freeBytes_keeps_eq ‹_› ?_ | apply State.freeBytes_keeps | apply State.countBlk_keeps | apply State.memWrite_keeps | apply Keeps.ite | apply Keeps.foldl | apply Keeps.foldl_fst | apply Keeps.getD | split)

theorem State.blitRow_keeps_eq {p : List Instr} {s t : State} {a1 : BlitArgs} {overlap : Bool} {j : Nat} {ret} (e : State.blitRow s a1 overlap j = (t, ret)) (h : Keeps p s) : Keeps p t := by
  have := State.blitRow_keeps (p := p) h (s := s) (a1 := a1) (overlap := overlap) (j := j)
  rwa [e] at this

theorem State.blitRows_keeps {p : List Instr} {s : State} {a1 : BlitArgs} {j : BlkJob} {stop : Nat} (h : Keeps p s) : Keeps p (State.blitRows s a1 j stop).1 := by
  unfold State.blitRows
  repeat' with_reducible (first | exact h | intro _ | assumption | simp only [Keeps.mk_fields] | refine State.blitRow_keeps_eq ‹_› ?_ | apply State.blitRow_keeps | apply Keeps.ite | apply Keeps.foldl | apply Keeps.foldl_fst | apply Keeps.getD | split)

theorem State.blitRows_keeps_eq {p : List Instr} {s t : State} {a1 : BlitArgs} {j : BlkJob} {stop : Nat} {ret} (e : State.blitRows s a1 j stop = (t, ret)) (h : Keeps p s) : Keeps p t := by
  have := State.blitRows_keeps (p := p) h (s := s) (a1 := a1) (j := j) (stop := stop)
  rwa [e] at this

theorem State.endBlit_keeps {p : List Instr} {s : State} {b : Bus} {c : Cmd} {j : BlkJob} {status : Nat} {cut : Option Nat} (h : Keeps p s) : Keeps p (State.endBlit s b c j status cut) := by
  unfold State.endBlit
  repeat' with_reducible (first | exact h | intro _ | assumption | simp only [Keeps.mk_fields] | apply State.bump_keeps | apply State.count_keeps | apply State.setFld_keeps | apply State.postLimited_keeps | apply State.finishAs_keeps | apply Keeps.ite | apply Keeps.foldl | apply Keeps.foldl_fst | apply Keeps.getD | split)

theorem execBlockWatermark_keeps {p : List Instr} {s t : State} (h : Keeps p s) (e : execBlockWatermark s = .next t) : Keeps p t := by
  unfold execBlockWatermark at e
  injection e with e
  subst e
  repeat' with_reducible (first | exact h | intro _ | assumption | simp only [Keeps.mk_fields] | refine State.blitRows_keeps_eq ‹_› ?_ | apply State.blitRows_keeps | apply State.setCmd_keeps | apply State.showBlk_keeps | apply State.bump_keeps | apply Keeps.ite | apply Keeps.foldl | apply Keeps.foldl_fst | apply Keeps.getD | split)

theorem execBlockJobEnd_keeps {p : List Instr} {s t : State} {bus : Bus} (h : Keeps p s) (e : execBlockJobEnd bus s = .next t) : Keeps p t := by
  unfold execBlockJobEnd at e
  injection e with e
  subst e
  repeat' with_reducible (first | exact h | intro _ | assumption | simp only [Keeps.mk_fields] | refine State.blitRows_keeps_eq ‹_› ?_ | apply State.blitRows_keeps | apply State.showBlk_keeps | apply State.endBlit_keeps | apply Keeps.ite | apply Keeps.foldl | apply Keeps.foldl_fst | apply Keeps.getD | split)

theorem State.cutBlit_keeps {p : List Instr} {s : State} {status : Nat} (h : Keeps p s) : Keeps p (State.cutBlit s status) := by
  unfold State.cutBlit
  repeat' with_reducible (first | exact h | intro _ | assumption | simp only [Keeps.mk_fields] | apply State.showBlk_keeps | apply State.endBlit_keeps | apply State.count_keeps | apply Keeps.ite | apply Keeps.foldl | apply Keeps.foldl_fst | apply Keeps.getD | split)

theorem State.abortBlits_keeps {p : List Instr} {s : State} {status : Nat} (h : Keeps p s) : Keeps p (State.abortBlits s status) := by
  unfold State.abortBlits
  repeat' with_reducible (first | exact h | intro _ | assumption | simp only [Keeps.mk_fields] | apply State.cutBlit_keeps | apply State.showBlk_keeps | apply State.count_keeps | apply State.endBlit_keeps | apply Keeps.ite | apply Keeps.foldl | apply Keeps.foldl_fst | apply Keeps.getD | split)

end Sys2Proof.Machine
end

