-- ==== Sys2Proof/Laws/KeepsPerf.lean ====
section
/-! SUPPORT. Every operation of Machine/Perf.lean keeps the queue and the canonical stores. -/

namespace Sys2Proof.Machine

open Sys2Proof

theorem State.pf0Write_keeps {p : List Instr} {s : State} {client : Nat} {f : State → State} (h : Keeps p s) (hf : ∀ t, Keeps p t → Keeps p (f t)) : Keeps p (State.pf0Write s client f) := by
  unfold State.pf0Write
  repeat' with_reducible (first | exact h | intro _ | assumption | apply hf | simp only [Keeps.mk_fields] | apply State.drop_keeps | apply Keeps.ite | apply Keeps.foldl | apply Keeps.foldl_fst | apply Keeps.getD | split)

theorem State.pf0Read_keeps {p : List Instr} {s : State} {client : Nat} {off : Nat} {data : List Byte} {f : State → State} (h : Keeps p s) (hf : ∀ t, Keeps p t → Keeps p (f t)) : Keeps p (State.pf0Read s client off data f) := by
  unfold State.pf0Read
  repeat' with_reducible (first | exact h | intro _ | assumption | apply hf | simp only [Keeps.mk_fields] | apply State.emit_keeps | apply Keeps.ite | apply Keeps.foldl | apply Keeps.foldl_fst | apply Keeps.getD | split)

theorem State.putCtl_keeps {p : List Instr} {s : State} {n : Nat} {v : Nat} (h : Keeps p s) : Keeps p (State.putCtl s n v) := by
  unfold State.putCtl
  repeat' with_reducible (first | exact h | intro _ | assumption | simp only [Keeps.mk_fields] | apply State.setFld_keeps | apply Keeps.ite | apply Keeps.foldl | apply Keeps.foldl_fst | apply Keeps.getD | split)

theorem State.overflow_keeps {p : List Instr} {s : State} {n : Nat} (h : Keeps p s) : Keeps p (State.overflow s n) := by
  unfold State.overflow
  repeat' with_reducible (first | exact h | intro _ | assumption | simp only [Keeps.mk_fields] | apply State.postLimited_keeps | apply State.setFld_keeps | apply Keeps.ite | apply Keeps.foldl | apply Keeps.foldl_fst | apply Keeps.getD | split)

theorem State.addCount_keeps {p : List Instr} {s : State} {n : Nat} {d : Nat} (h : Keeps p s) : Keeps p (State.addCount s n d) := by
  unfold State.addCount
  repeat' with_reducible (first | exact h | intro _ | assumption | simp only [Keeps.mk_fields] | apply State.setFld_keeps | apply State.overflow_keeps | apply Keeps.ite | apply Keeps.foldl | apply Keeps.foldl_fst | apply Keeps.getD | split)

theorem execCounterEvent_keeps {p : List Instr} {s t : State} {n : Nat} {amount : Nat} (h : Keeps p s) (e : execCounterEvent n amount s = .next t) : Keeps p t := by
  unfold execCounterEvent at e
  injection e with e
  subst e
  repeat' with_reducible (first | exact h | intro _ | assumption | simp only [Keeps.mk_fields] | apply State.addCount_keeps | apply Keeps.ite | apply Keeps.foldl | apply Keeps.foldl_fst | apply Keeps.getD | split)

theorem execPfcValWrite_keeps {p : List Instr} {s t : State} {client : Nat} {n : Nat} {value : Nat} (h : Keeps p s) (e : execPfcValWrite client n value s = .next t) : Keeps p t := by
  unfold execPfcValWrite at e
  injection e with e
  subst e
  repeat' with_reducible (first | exact h | intro _ | assumption | simp only [Keeps.mk_fields] | apply State.pf0Write_keeps | apply State.bar0_keeps | apply State.drop_keeps | apply State.holdWrite_keeps | apply State.setFld_keeps | apply Keeps.ite | apply Keeps.foldl | apply Keeps.foldl_fst | apply Keeps.getD | split)

theorem State.latchPair_keeps {p : List Instr} {s : State} {n : Nat} (h : Keeps p s) : Keeps p (State.latchPair s n) := by
  unfold State.latchPair
  repeat' with_reducible (first | exact h | intro _ | assumption | simp only [Keeps.mk_fields] | apply Keeps.ite | apply Keeps.foldl | apply Keeps.foldl_fst | apply Keeps.getD | split)

theorem execPfcPairLowRead_keeps {p : List Instr} {s t : State} {client : Nat} {n : Nat} (h : Keeps p s) (e : execPfcPairLowRead client n s = .next t) : Keeps p t := by
  unfold execPfcPairLowRead at e
  injection e with e
  subst e
  repeat' with_reducible (first | exact h | intro _ | assumption | simp only [Keeps.mk_fields] | apply State.bar0_keeps | apply State.pf0Read_keeps | apply State.latchPair_keeps | apply Keeps.ite | apply Keeps.foldl | apply Keeps.foldl_fst | apply Keeps.getD | split)

theorem State.endWindow_keeps {p : List Instr} {s : State} {m : Nat} {n : Nat} (h : Keeps p s) : Keeps p (State.endWindow s m n) := by
  unfold State.endWindow
  repeat' with_reducible (first | exact h | intro _ | assumption | simp only [Keeps.mk_fields] | apply State.setFld_keeps | apply State.bump_keeps | apply Keeps.ite | apply Keeps.foldl | apply Keeps.foldl_fst | apply Keeps.getD | split)

theorem execMeterWindowEnd_keeps {p : List Instr} {s t : State} {bytes : List Nat} (h : Keeps p s) (e : execMeterWindowEnd bytes s = .next t) : Keeps p t := by
  unfold execMeterWindowEnd at e
  injection e with e
  subst e
  repeat' with_reducible (first | exact h | intro _ | assumption | simp only [Keeps.mk_fields] | apply State.endWindow_keeps | apply Keeps.ite | apply Keeps.foldl | apply Keeps.foldl_fst | apply Keeps.getD | split)

theorem State.abandonWindows_keeps {p : List Instr} {s : State} (h : Keeps p s) : Keeps p (State.abandonWindows s) := by
  unfold State.abandonWindows
  repeat' with_reducible (first | exact h | intro _ | assumption | simp only [Keeps.mk_fields] | apply Keeps.ite | apply Keeps.foldl | apply Keeps.foldl_fst | apply Keeps.getD | split)

theorem State.putMeterCfg_keeps {p : List Instr} {s : State} {data : Nat} (h : Keeps p s) : Keeps p (State.putMeterCfg s data) := by
  unfold State.putMeterCfg
  repeat' with_reducible (first | exact h | intro _ | assumption | simp only [Keeps.mk_fields] | apply State.abandonWindows_keeps | apply State.setFld_keeps | apply Keeps.ite | apply Keeps.foldl | apply Keeps.foldl_fst | apply Keeps.getD | split)

theorem execPfcMeterCfgWrite_keeps {p : List Instr} {s t : State} {client : Nat} {data : Nat} (h : Keeps p s) (e : execPfcMeterCfgWrite client data s = .next t) : Keeps p t := by
  unfold execPfcMeterCfgWrite at e
  injection e with e
  subst e
  repeat' with_reducible (first | exact h | intro _ | assumption | simp only [Keeps.mk_fields] | apply State.pf0Write_keeps | apply State.bar0_keeps | apply State.putMeterCfg_keeps | apply Keeps.ite | apply Keeps.foldl | apply Keeps.foldl_fst | apply Keeps.getD | split)

theorem State.snapshot_keeps {p : List Instr} {s : State} {t1 : Nat} (h : Keeps p s) : Keeps p (State.snapshot s t1) := by
  unfold State.snapshot
  repeat' with_reducible (first | exact h | intro _ | assumption | simp only [Keeps.mk_fields] | apply State.bump_keeps | apply State.setFld_keeps | apply Keeps.ite | apply Keeps.foldl | apply Keeps.foldl_fst | apply Keeps.getD | split)

theorem State.writePfcGlobal_keeps {p : List Instr} {s : State} {data : Nat} (h : Keeps p s) : Keeps p (State.writePfcGlobal s data) := by
  unfold State.writePfcGlobal
  repeat' with_reducible (first | exact h | intro _ | assumption | simp only [Keeps.mk_fields] | apply State.setFld_keeps | apply State.snapshot_keeps | apply Keeps.ite | apply Keeps.foldl | apply Keeps.foldl_fst | apply Keeps.getD | split)

theorem execPfcSnapWrite_keeps {p : List Instr} {s t : State} {client : Nat} {data : Nat} (h : Keeps p s) (e : execPfcSnapWrite client data s = .next t) : Keeps p t := by
  unfold execPfcSnapWrite at e
  injection e with e
  subst e
  repeat' with_reducible (first | exact h | intro _ | assumption | simp only [Keeps.mk_fields] | apply State.pf0Write_keeps | apply State.bar0_keeps | apply State.writePfcGlobal_keeps | apply Keeps.ite | apply Keeps.foldl | apply Keeps.foldl_fst | apply Keeps.getD | split)

theorem execPfcFreezeWrite_keeps {p : List Instr} {s t : State} {client : Nat} {data : Nat} (h : Keeps p s) (e : execPfcFreezeWrite client data s = .next t) : Keeps p t := by
  unfold execPfcFreezeWrite at e
  injection e with e
  subst e
  repeat' with_reducible (first | exact h | intro _ | assumption | simp only [Keeps.mk_fields] | apply State.pf0Write_keeps | apply State.bar0_keeps | apply State.writePfcGlobal_keeps | apply Keeps.ite | apply Keeps.foldl | apply Keeps.foldl_fst | apply Keeps.getD | split)

theorem execPfcSnapTimeRead_keeps {p : List Instr} {s t : State} {client : Nat} (h : Keeps p s) (e : execPfcSnapTimeRead client s = .next t) : Keeps p t := by
  unfold execPfcSnapTimeRead at e
  injection e with e
  subst e
  repeat' with_reducible (first | exact h | intro _ | assumption | simp only [Keeps.mk_fields] | apply State.pf0Read_keeps | apply State.bar0_keeps | apply State.setFld_keeps | apply Keeps.ite | apply Keeps.foldl | apply Keeps.foldl_fst | apply Keeps.getD | split)

theorem State.loseRecord_keeps {p : List Instr} {s : State} (h : Keeps p s) : Keeps p (State.loseRecord s) := by
  unfold State.loseRecord
  repeat' with_reducible (first | exact h | intro _ | assumption | simp only [Keeps.mk_fields] | apply State.count_keeps | apply State.postLimited_keeps | apply Keeps.ite | apply Keeps.foldl | apply Keeps.foldl_fst | apply Keeps.getD | split)

theorem State.makeRecord_keeps {p : List Instr} {s : State} {d : Nat → List Byte} (h : Keeps p s) : Keeps p (State.makeRecord s d) := by
  unfold State.makeRecord
  repeat' with_reducible (first | exact h | intro _ | assumption | simp only [Keeps.mk_fields] | apply State.addTerm_keeps | apply State.loseRecord_keeps | apply Keeps.ite | apply Keeps.foldl | apply Keeps.foldl_fst | apply Keeps.getD | split)

theorem State.seedBays_keeps {p : List Instr} {s : State} (h : Keeps p s) : Keeps p (State.seedBays s) := by
  unfold State.seedBays
  repeat' with_reducible (first | exact h | intro _ | assumption | simp only [Keeps.mk_fields] | apply Keeps.ite | apply Keeps.foldl | apply Keeps.foldl_fst | apply Keeps.getD | split)

theorem execTaggedRayRecord_keeps {p : List Instr} {s t : State} {bay : Nat} {rays : Nat} {flags : Nat} {region : Nat} {ray : Nat} {node : Nat} {slots : Nat} {tDirty : Nat} {offsets : List Nat} (h : Keeps p s) (e : execTaggedRayRecord bay rays flags region ray node slots tDirty offsets s = .next t) : Keeps p t := by
  unfold execTaggedRayRecord at e
  injection e with e
  subst e
  repeat' with_reducible (first | exact h | intro _ | assumption | simp only [Keeps.mk_fields] | apply State.makeRecord_keeps | apply Keeps.ite | apply Keeps.foldl | apply Keeps.foldl_fst | apply Keeps.getD | split)

theorem execPreciseRecord_keeps {p : List Instr} {s t : State} {item : Nat} {source : Nat} {itemId : Nat} {latency : Nat} (h : Keeps p s) (e : execPreciseRecord item source itemId latency s = .next t) : Keeps p t := by
  unfold execPreciseRecord at e
  injection e with e
  subst e
  repeat' with_reducible (first | exact h | intro _ | assumption | simp only [Keeps.mk_fields] | apply State.makeRecord_keeps | apply Keeps.ite | apply Keeps.foldl | apply Keeps.foldl_fst | apply Keeps.getD | split)

theorem execRecordBufferWrite_keeps {p : List Instr} {s t : State} (h : Keeps p s) (e : execRecordBufferWrite s = .next t) : Keeps p t := by
  unfold execRecordBufferWrite at e
  injection e with e
  subst e
  repeat' with_reducible (first | exact h | intro _ | assumption | simp only [Keeps.mk_fields] | apply State.loseRecord_keeps | apply State.count_keeps | apply State.setFld_keeps | apply State.memWrite_keeps | apply Keeps.ite | apply Keeps.foldl | apply Keeps.foldl_fst | apply Keeps.getD | split)

theorem State.putBufCfg_keeps {p : List Instr} {s : State} {size : Bool} {data : Nat} (h : Keeps p s) : Keeps p (State.putBufCfg s size data) := by
  unfold State.putBufCfg
  repeat' with_reducible (first | exact h | intro _ | assumption | simp only [Keeps.mk_fields] | apply State.setFld_keeps | apply Keeps.ite | apply Keeps.foldl | apply Keeps.foldl_fst | apply Keeps.getD | split)

theorem execPfcBufConfigWrite_keeps {p : List Instr} {s t : State} {client : Nat} {size : Bool} {data : Nat} (h : Keeps p s) (e : execPfcBufConfigWrite client size data s = .next t) : Keeps p t := by
  unfold execPfcBufConfigWrite at e
  injection e with e
  subst e
  repeat' with_reducible (first | exact h | intro _ | assumption | simp only [Keeps.mk_fields] | apply State.pf0Write_keeps | apply State.bar0_keeps | apply State.putBufCfg_keeps | apply Keeps.ite | apply Keeps.foldl | apply Keeps.foldl_fst | apply Keeps.getD | split)

theorem State.programOne_keeps {p : List Instr} {s : State} {client : Nat} {n : Nat} {w : Nat} {clear : Bool} (h : Keeps p s) : Keeps p (State.programOne s client n w clear).1 := by
  unfold State.programOne
  repeat' with_reducible (first | exact h | intro _ | assumption | simp only [Keeps.mk_fields] | apply State.setFld_keeps | apply State.putCtl_keeps | apply Keeps.ite | apply Keeps.foldl | apply Keeps.foldl_fst | apply Keeps.getD | split)

theorem State.programOne_keeps_eq {p : List Instr} {s t : State} {client : Nat} {n : Nat} {w : Nat} {clear : Bool} {ret} (e : State.programOne s client n w clear = (t, ret)) (h : Keeps p s) : Keeps p t := by
  have := State.programOne_keeps (p := p) h (s := s) (client := client) (n := n) (w := w) (clear := clear)
  rwa [e] at this

theorem execPfcProgram_keeps {p : List Instr} {s t : State} {id : Nat} {bus : Bus} (h : Keeps p s) (e : execPfcProgram id bus s = .next t) : Keeps p t := by
  unfold execPfcProgram at e
  injection e with e
  subst e
  repeat' with_reducible (first | exact h | intro _ | assumption | simp only [Keeps.mk_fields] | apply State.runOp_keeps | apply State.refuse_keeps | refine State.readRecords_keeps_eq ‹_› ?_ | apply State.readRecords_keeps | refine State.programOne_keeps_eq ‹_› ?_ | apply State.programOne_keeps | apply State.finishAs_keeps | apply Keeps.ite | apply Keeps.foldl | apply Keeps.foldl_fst | apply Keeps.getD | split)

theorem execPfcSnapshot_keeps {p : List Instr} {s t : State} {id : Nat} {bus : Bus} (h : Keeps p s) (e : execPfcSnapshot id bus s = .next t) : Keeps p t := by
  unfold execPfcSnapshot at e
  injection e with e
  subst e
  repeat' with_reducible (first | exact h | intro _ | assumption | simp only [Keeps.mk_fields] | apply State.runOp_keeps | apply State.snapshot_keeps | refine State.dstWrite_keeps_eq ‹_› ?_ | apply State.dstWrite_keeps | apply State.finishOne_keeps | apply State.failOne_keeps | apply Keeps.ite | apply Keeps.foldl | apply Keeps.foldl_fst | apply Keeps.getD | split)

theorem State.unreadBytes_keeps {p : List Instr} {s : State} {n : Nat} (h : Keeps p s) : Keeps p (State.unreadBytes s n).1 := by
  unfold State.unreadBytes
  repeat' with_reducible (first | exact h | intro _ | assumption | simp only [Keeps.mk_fields] | refine State.memRead_keeps_eq ‹_› ?_ | apply State.memRead_keeps | apply Keeps.ite | apply Keeps.foldl | apply Keeps.foldl_fst | apply Keeps.getD | split)

theorem State.unreadBytes_keeps_eq {p : List Instr} {s t : State} {n : Nat} {ret} (e : State.unreadBytes s n = (t, ret)) (h : Keeps p s) : Keeps p t := by
  have := State.unreadBytes_keeps (p := p) h (s := s) (n := n)
  rwa [e] at this

theorem State.drained_keeps {p : List Instr} {s : State} {id : Nat} {n : Nat} {ok : Bool} (h : Keeps p s) : Keeps p (State.drained s id n ok) := by
  unfold State.drained
  repeat' with_reducible (first | exact h | intro _ | assumption | simp only [Keeps.mk_fields] | apply State.setFld_keeps | apply State.itemDone_keeps | apply Keeps.ite | apply Keeps.foldl | apply Keeps.foldl_fst | apply Keeps.getD | split)

theorem State.copyRecords_keeps {p : List Instr} {s : State} {b : Bus} {c : Cmd} {i a1 : Nat} (h : Keeps p s) :
    Keeps p (State.copyRecords s b c i a1).1 := by
  induction a1 generalizing s i with
  | zero => exact h
  | succ n ih =>
    have h' := State.dstWrite_keeps (b := b) (c := c) (isDram := false) (addr := c.p 8 8 + 64 * i)
      (data := (s.memRead (s.recordAddr (s.fld R.PFC_BUF_RD_index + i)) 64).2.1)
      (State.memRead_keeps (ma := s.recordAddr (s.fld R.PFC_BUF_RD_index + i)) (n := 64) h)
    simp only [State.copyRecords]
    split
    · exact ih h'
    · exact h'

theorem State.copyRecords_keeps_eq {p : List Instr} {s t : State} {b : Bus} {c : Cmd} {i : Nat} {a1 : Nat} {ret} (e : State.copyRecords s b c i a1 = (t, ret)) (h : Keeps p s) : Keeps p t := by
  have := State.copyRecords_keeps (p := p) h (s := s) (b := b) (c := c) (i := i) (a1 := a1)
  rwa [e] at this

theorem State.endDrain_keeps {p : List Instr} {s : State} {b : Bus} {id : Nat} (h : Keeps p s) : Keeps p (State.endDrain s b id).1 := by
  unfold State.endDrain
  repeat' with_reducible (first | exact h | intro _ | assumption | simp only [Keeps.mk_fields] | refine State.unreadBytes_keeps_eq ‹_› ?_ | apply State.unreadBytes_keeps | apply State.drained_keeps | refine State.dstWrite_keeps_eq ‹_› ?_ | apply State.dstWrite_keeps | apply Keeps.ite | apply Keeps.foldl | apply Keeps.foldl_fst | apply Keeps.getD | split)

theorem State.endDrain_keeps_eq {p : List Instr} {s t : State} {b : Bus} {id : Nat} {ret} (e : State.endDrain s b id = (t, ret)) (h : Keeps p s) : Keeps p t := by
  have := State.endDrain_keeps (p := p) h (s := s) (b := b) (id := id)
  rwa [e] at this

theorem execSampleDrain_keeps {p : List Instr} {s t : State} {id : Nat} {bus : Bus} (h : Keeps p s) (e : execSampleDrain id bus s = .next t) : Keeps p t := by
  unfold execSampleDrain at e
  injection e with e
  subst e
  repeat' with_reducible (first | exact h | intro _ | assumption | simp only [Keeps.mk_fields] | refine State.copyRecords_keeps_eq ‹_› ?_ | apply State.copyRecords_keeps | apply State.drained_keeps | apply State.runOp_keeps | apply State.refuse_keeps | apply State.defer_keeps | apply State.offerJob_keeps | apply Keeps.ite | apply Keeps.foldl | apply Keeps.foldl_fst | apply Keeps.getD | split)

end Sys2Proof.Machine
end

