-- ==== Sys2Proof/Laws/KeepsClamp.lean ====
section
/-! SUPPORT. Every operation of Machine/Clamp.lean keeps the queue and the canonical stores. -/

namespace Sys2Proof.Machine

open Sys2Proof

theorem State.setSeg_keeps {p : List Instr} {s : State} {g : Nat} {x : PnlSeg} (h : Keeps p s) : Keeps p (State.setSeg s g x) := by
  unfold State.setSeg
  repeat' with_reducible (first | exact h | intro _ | assumption | simp only [Keeps.mk_fields] | apply Keeps.ite | apply Keeps.foldl | apply Keeps.foldl_fst | apply Keeps.getD | split)

theorem State.boundary_keeps {p : List Instr} {s : State} {g : Nat} {t1 : Nat} (h : Keeps p s) : Keeps p (State.boundary s g t1) := by
  unfold State.boundary
  repeat' with_reducible (first | exact h | intro _ | assumption | simp only [Keeps.mk_fields] | apply Keeps.ite | apply Keeps.foldl | apply Keeps.foldl_fst | apply Keeps.getD | split)

theorem State.showFree_keeps {p : List Instr} {s : State} {g : Nat} {on : Bool} (h : Keeps p s) : Keeps p (State.showFree s g on) := by
  unfold State.showFree
  repeat' with_reducible (first | exact h | intro _ | assumption | simp only [Keeps.mk_fields] | apply State.setFld_keeps | apply Keeps.ite | apply Keeps.foldl | apply Keeps.foldl_fst | apply Keeps.getD | split)

theorem State.showGroupFree_keeps {p : List Instr} {s : State} {k : Nat} (h : Keeps p s) : Keeps p (State.showGroupFree s k) := by
  unfold State.showGroupFree
  repeat' with_reducible (first | exact h | intro _ | assumption | simp only [Keeps.mk_fields] | apply State.setFld_keeps | apply Keeps.ite | apply Keeps.foldl | apply Keeps.foldl_fst | apply Keeps.getD | split)

theorem State.setTrsGroup_keeps {p : List Instr} {s : State} {g : Nat} {x : TrsGroup} (h : Keeps p s) : Keeps p (State.setTrsGroup s g x) := by
  unfold State.setTrsGroup
  repeat' with_reducible (first | exact h | intro _ | assumption | simp only [Keeps.mk_fields] | apply Keeps.ite | apply Keeps.foldl | apply Keeps.foldl_fst | apply Keeps.getD | split)

theorem State.holdGroup_keeps {p : List Instr} {s : State} {g : Nat} {l : Late} (h : Keeps p s) : Keeps p (State.holdGroup s g l) := by
  unfold State.holdGroup
  repeat' with_reducible (first | exact h | intro _ | assumption | simp only [Keeps.mk_fields] | apply State.setFld_keeps | apply State.count_keeps | apply State.bump_keeps | apply State.post_keeps | apply Keeps.ite | apply Keeps.foldl | apply Keeps.foldl_fst | apply Keeps.getD | split)

theorem State.takeSnap_keeps {p : List Instr} {s : State} {key : Nat} (h : Keeps p s) : Keeps p (State.takeSnap s key) := by
  unfold State.takeSnap
  repeat' with_reducible (first | exact h | intro _ | assumption | simp only [Keeps.mk_fields] | apply Keeps.ite | apply Keeps.foldl | apply Keeps.foldl_fst | apply Keeps.getD | split)

theorem State.dropDecision_keeps {p : List Instr} {s : State} {g : Nat} {n : Nat} (h : Keeps p s) : Keeps p (State.dropDecision s g n) := by
  unfold State.dropDecision
  repeat' with_reducible (first | exact h | intro _ | assumption | simp only [Keeps.mk_fields] | apply Keeps.ite | apply Keeps.foldl | apply Keeps.foldl_fst | apply Keeps.getD | split)

theorem State.sampleGroup_keeps {p : List Instr} {s : State} {t1 : Nat} {g : Nat} (h : Keeps p s) : Keeps p (State.sampleGroup s t1 g) := by
  unfold State.sampleGroup
  repeat' with_reducible (first | exact h | intro _ | assumption | simp only [Keeps.mk_fields] | apply State.takeSnap_keeps | apply State.holdGroup_keeps | apply State.setFld_keeps | apply State.dropDecision_keeps | apply Keeps.ite | apply Keeps.foldl | apply Keeps.foldl_fst | apply Keeps.getD | split)

theorem State.endArm_keeps {p : List Instr} {s : State} {k : Nat} {i : Item} (h : Keeps p s) : Keeps p (State.endArm s k i) := by
  unfold State.endArm
  repeat' with_reducible (first | exact h | intro _ | assumption | simp only [Keeps.mk_fields] | apply State.setFld_keeps | apply State.itemDone_keeps | apply Keeps.ite | apply Keeps.foldl | apply Keeps.foldl_fst | apply Keeps.getD | split)

theorem State.dueFlip_keeps {p : List Instr} {s : State} {k : Nat} (h : Keeps p s) : Keeps p (State.dueFlip s k) := by
  unfold State.dueFlip
  repeat' with_reducible (first | exact h | intro _ | assumption | simp only [Keeps.mk_fields] | apply State.takeSnap_keeps | apply Keeps.ite | apply Keeps.foldl | apply Keeps.foldl_fst | apply Keeps.getD | split)

theorem State.sampleFence_keeps {p : List Instr} {s : State} {k : Nat} (h : Keeps p s) : Keeps p (State.sampleFence s k) := by
  unfold State.sampleFence
  repeat' with_reducible (first | exact h | intro _ | assumption | simp only [Keeps.mk_fields] | apply State.endArm_keeps | apply State.dueFlip_keeps | apply State.post_keeps | apply State.setFld_keeps | apply Keeps.ite | apply Keeps.foldl | apply Keeps.foldl_fst | apply Keeps.getD | split)

theorem execClampBoundary_keeps {p : List Instr} {s t : State} {seg : Nat} (h : Keeps p s) (e : execClampBoundary seg s = .next t) : Keeps p t := by
  unfold execClampBoundary at e
  injection e with e
  subst e
  repeat' with_reducible (first | exact h | intro _ | assumption | simp only [Keeps.mk_fields] | apply State.sampleGroup_keeps | apply State.sampleFence_keeps | apply Keeps.ite | apply Keeps.foldl | apply Keeps.foldl_fst | apply Keeps.getD | split)

theorem State.takeShd_keeps {p : List Instr} {s : State} {x : Snap} {off : Nat} (h : Keeps p s) : Keeps p (State.takeShd s x off) := by
  unfold State.takeShd
  repeat' with_reducible (first | exact h | intro _ | assumption | simp only [Keeps.mk_fields] | apply State.setAct_keeps | apply Keeps.ite | apply Keeps.foldl | apply Keeps.foldl_fst | apply Keeps.getD | split)

theorem State.setDecStream_keeps {p : List Instr} {s : State} {k : Nat} {d : Option DecStream} (h : Keeps p s) : Keeps p (State.setDecStream s k d) := by
  unfold State.setDecStream
  repeat' with_reducible (first | exact h | intro _ | assumption | simp only [Keeps.mk_fields] | apply Keeps.ite | apply Keeps.foldl | apply Keeps.foldl_fst | apply Keeps.getD | split)

theorem State.showPipe_keeps {p : List Instr} {s : State} {p1 : Nat} (h : Keeps p s) : Keeps p (State.showPipe s p1) := by
  unfold State.showPipe
  repeat' with_reducible (first | exact h | intro _ | assumption | simp only [Keeps.mk_fields] | apply State.setFld_keeps | apply Keeps.ite | apply Keeps.foldl | apply Keeps.foldl_fst | apply Keeps.getD | split)

theorem State.showPool_keeps {p : List Instr} {s : State} (h : Keeps p s) : Keeps p (State.showPool s) := by
  unfold State.showPool
  repeat' with_reducible (first | exact h | intro _ | assumption | simp only [Keeps.mk_fields] | apply State.setFld_keeps | apply Keeps.ite | apply Keeps.foldl | apply Keeps.foldl_fst | apply Keeps.getD | split)

theorem State.freeDecode_keeps {p : List Instr} {s : State} {k : Nat} (h : Keeps p s) : Keeps p (State.freeDecode s k) := by
  unfold State.freeDecode
  repeat' with_reducible (first | exact h | intro _ | assumption | simp only [Keeps.mk_fields] | apply State.showPool_keeps | apply State.showPipe_keeps | apply State.setDecStream_keeps | apply State.setFld_keeps | apply Keeps.ite | apply Keeps.foldl | apply Keeps.foldl_fst | apply Keeps.getD | split)

theorem State.applyLayer_keeps {p : List Instr} {s : State} {x : Snap} {n : Nat} (h : Keeps p s) : Keeps p (State.applyLayer s x n) := by
  unfold State.applyLayer
  repeat' with_reducible (first | exact h | intro _ | assumption | simp only [Keeps.mk_fields] | apply State.takeShd_keeps | apply State.setFld_keeps | apply State.freeDecode_keeps | apply Keeps.ite | apply Keeps.foldl | apply Keeps.foldl_fst | apply Keeps.getD | split)

theorem State.showStaged_keeps {p : List Instr} {s : State} {n : Nat} {had : Bool} (h : Keeps p s) : Keeps p (State.showStaged s n had) := by
  unfold State.showStaged
  repeat' with_reducible (first | exact h | intro _ | assumption | simp only [Keeps.mk_fields] | apply State.setFld_keeps | apply State.bump_keeps | apply Keeps.ite | apply Keeps.foldl | apply Keeps.foldl_fst | apply Keeps.getD | split)

theorem State.activatePicture_keeps {p : List Instr} {s : State} {m : Nat} {k : Nat} (h : Keeps p s) : Keeps p (State.activatePicture s m k) := by
  unfold State.activatePicture
  repeat' with_reducible (first | exact h | intro _ | assumption | simp only [Keeps.mk_fields] | apply State.pend_keeps | apply State.setDecStream_keeps | apply Keeps.ite | apply Keeps.foldl | apply Keeps.foldl_fst | apply Keeps.getD | split)

theorem State.promoteAhead_keeps {p : List Instr} {s : State} {g : Nat} (h : Keeps p s) : Keeps p (State.promoteAhead s g) := by
  unfold State.promoteAhead
  repeat' with_reducible (first | exact h | intro _ | assumption | simp only [Keeps.mk_fields] | apply State.setDecStream_keeps | apply State.showStaged_keeps | apply Keeps.ite | apply Keeps.foldl | apply Keeps.foldl_fst | apply Keeps.getD | split)

theorem State.activatePictures_keeps {p : List Instr} {s : State} {m : Nat} {n : Nat} (h : Keeps p s) : Keeps p (State.activatePictures s m n) := by
  unfold State.activatePictures
  repeat' with_reducible (first | exact h | intro _ | assumption | simp only [Keeps.mk_fields] | apply State.activatePicture_keeps | apply Keeps.ite | apply Keeps.foldl | apply Keeps.foldl_fst | apply Keeps.getD | split)

theorem State.swapTiles_keeps {p : List Instr} {s : State} {g : Nat} {n : Nat} (h : Keeps p s) : Keeps p (State.swapTiles s g n) := by
  unfold State.swapTiles
  repeat' with_reducible (first | exact h | intro _ | assumption | simp only [Keeps.mk_fields] | apply State.setFld_keeps | apply State.setActFld_keeps | apply Keeps.ite | apply Keeps.foldl | apply Keeps.foldl_fst | apply Keeps.getD | split)

theorem State.applyViews_keeps {p : List Instr} {s : State} {x : Snap} {g : Nat} (h : Keeps p s) : Keeps p (State.applyViews s x g) := by
  unfold State.applyViews
  repeat' with_reducible (first | exact h | intro _ | assumption | simp only [Keeps.mk_fields] | apply State.post_keeps | apply State.setActFld_keeps | apply State.setFld_keeps | apply State.takeShd_keeps | apply Keeps.ite | apply Keeps.foldl | apply Keeps.foldl_fst | apply Keeps.getD | split)

theorem State.bgWords_keeps {p : List Instr} {s : State} (h : Keeps p s) : Keeps p (State.bgWords s) := by
  unfold State.bgWords
  repeat' with_reducible (first | exact h | intro _ | assumption | simp only [Keeps.mk_fields] | apply State.setFld_keeps | apply Keeps.ite | apply Keeps.foldl | apply Keeps.foldl_fst | apply Keeps.getD | split)

theorem State.applyGlue_keeps {p : List Instr} {s : State} {x : Snap} (h : Keeps p s) : Keeps p (State.applyGlue s x) := by
  unfold State.applyGlue
  repeat' with_reducible (first | exact h | intro _ | assumption | simp only [Keeps.mk_fields] | apply State.takeShd_keeps | apply State.bgWords_keeps | apply Keeps.ite | apply Keeps.foldl | apply Keeps.foldl_fst | apply Keeps.getD | split)

theorem State.safeWord_keeps {p : List Instr} {s : State} {c : Nat} (h : Keeps p s) : Keeps p (State.safeWord s c) := by
  unfold State.safeWord
  repeat' with_reducible (first | exact h | intro _ | assumption | simp only [Keeps.mk_fields] | apply State.setFld_keeps | apply Keeps.ite | apply Keeps.foldl | apply Keeps.foldl_fst | apply Keeps.getD | split)

theorem State.settleLost_keeps {p : List Instr} {s : State} {c : Nat} (h : Keeps p s) : Keeps p (State.settleLost s c) := by
  unfold State.settleLost
  repeat' with_reducible (first | exact h | intro _ | assumption | simp only [Keeps.mk_fields] | apply State.countCheck_keeps | apply Keeps.ite | apply Keeps.foldl | apply Keeps.foldl_fst | apply Keeps.getD | split)

theorem State.applyDisable_keeps {p : List Instr} {s : State} {c : Nat} (h : Keeps p s) : Keeps p (State.applyDisable s c) := by
  unfold State.applyDisable
  repeat' with_reducible (first | exact h | intro _ | assumption | simp only [Keeps.mk_fields] | apply State.requeue_keeps | apply State.setFld_keeps | apply State.clearSub_keeps | apply State.settleLost_keeps | apply State.markAll_keeps | apply Keeps.ite | apply Keeps.foldl | apply Keeps.foldl_fst | apply Keeps.getD | split)

theorem State.applyCheck_keeps {p : List Instr} {s : State} {c : Nat} {d : CheckDef} (h : Keeps p s) : Keeps p (State.applyCheck s c d) := by
  unfold State.applyCheck
  repeat' with_reducible (first | exact h | intro _ | assumption | simp only [Keeps.mk_fields] | apply State.setFld_keeps | apply State.safeWord_keeps | apply State.setReg_keeps | apply State.applyDisable_keeps | apply Keeps.ite | apply Keeps.foldl | apply Keeps.foldl_fst | apply Keeps.getD | split)

theorem State.applySignatures_keeps {p : List Instr} {s : State} {g : Nat} {c : Nat} {ms : List Nat} (h : Keeps p s) : Keeps p (State.applySignatures s g c ms) := by
  unfold State.applySignatures
  repeat' with_reducible (first | exact h | intro _ | assumption | simp only [Keeps.mk_fields] | apply State.setFld_keeps | apply Keeps.ite | apply Keeps.foldl | apply Keeps.foldl_fst | apply Keeps.getD | split)

theorem State.applyChecks_keeps {p : List Instr} {s : State} {x : Snap} {g : Nat} (h : Keeps p s) : Keeps p (State.applyChecks s x g) := by
  unfold State.applyChecks
  repeat' with_reducible (first | exact h | intro _ | assumption | simp only [Keeps.mk_fields] | apply State.applyCheck_keeps | apply State.applySignatures_keeps | apply Keeps.ite | apply Keeps.foldl | apply Keeps.foldl_fst | apply Keeps.getD | split)

theorem State.commitFrame_keeps {p : List Instr} {s : State} {x : Snap} {g : Nat} {t1 : Nat} {bus : Bus} (h : Keeps p s) : Keeps p (State.commitFrame s x g t1 bus) := by
  unfold State.commitFrame
  repeat' with_reducible (first | exact h | intro _ | assumption | simp only [Keeps.mk_fields] | apply State.setFld_keeps | apply State.count_keeps | apply State.setTrsGroup_keeps | apply State.promoteAhead_keeps | apply State.itemDone_keeps | apply Keeps.ite | apply Keeps.foldl | apply Keeps.foldl_fst | apply Keeps.getD | split)

theorem State.applyFenceMode_keeps {p : List Instr} {s : State} {x : Snap} {g : Nat} {k : Nat} (h : Keeps p s) : Keeps p (State.applyFenceMode s x g k) := by
  unfold State.applyFenceMode
  repeat' with_reducible (first | exact h | intro _ | assumption | simp only [Keeps.mk_fields] | apply State.setActFld_keeps | apply State.abort_keeps | apply State.setFld_keeps | apply Keeps.ite | apply Keeps.foldl | apply Keeps.foldl_fst | apply Keeps.getD | split)

theorem State.applyGroup_keeps {p : List Instr} {s : State} {x : Snap} {g : Nat} (h : Keeps p s) : Keeps p (State.applyGroup s x g) := by
  unfold State.applyGroup
  repeat' with_reducible (first | exact h | intro _ | assumption | simp only [Keeps.mk_fields] | apply State.applyFenceMode_keeps | apply State.swapTiles_keeps | apply State.activatePictures_keeps | apply State.applyLayer_keeps | apply State.applyViews_keeps | apply State.applyGlue_keeps | apply State.applyChecks_keeps | apply Keeps.ite | apply Keeps.foldl | apply Keeps.foldl_fst | apply Keeps.getD | split)

theorem State.applyFlip_keeps {p : List Instr} {s : State} {x : Snap} {k : Nat} (h : Keeps p s) : Keeps p (State.applyFlip s x k) := by
  unfold State.applyFlip
  repeat' with_reducible (first | exact h | intro _ | assumption | simp only [Keeps.mk_fields] | apply State.activatePictures_keeps | apply State.applyLayer_keeps | apply State.setFld_keeps | apply Keeps.ite | apply Keeps.foldl | apply Keeps.foldl_fst | apply Keeps.getD | split)

theorem State.reKerf_keeps {p : List Instr} {s : State} {smax : Nat} (h : Keeps p s) : Keeps p (State.reKerf s smax) := by
  unfold State.reKerf
  repeat' with_reducible (first | exact h | intro _ | assumption | simp only [Keeps.mk_fields] | apply State.setFld_keeps | apply Keeps.ite | apply Keeps.foldl | apply Keeps.foldl_fst | apply Keeps.getD | split)

theorem State.rebuildLists_keeps {p : List Instr} {s : State} {touched : List Nat} (h : Keeps p s) : Keeps p (State.rebuildLists s touched) := by
  unfold State.rebuildLists
  repeat' with_reducible (first | exact h | intro _ | assumption | simp only [Keeps.mk_fields] | apply State.setFld_keeps | apply State.showDrops_keeps | apply State.post_keeps | apply Keeps.ite | apply Keeps.foldl | apply Keeps.foldl_fst | apply Keeps.getD | split)

theorem State.scarfCheck_keeps {p : List Instr} {s : State} {n : Nat} (h : Keeps p s) : Keeps p (State.scarfCheck s n) := by
  unfold State.scarfCheck
  repeat' with_reducible (first | exact h | intro _ | assumption | simp only [Keeps.mk_fields] | apply State.post_keeps | apply Keeps.ite | apply Keeps.foldl | apply Keeps.foldl_fst | apply Keeps.getD | split)

theorem State.afterApply_keeps {p : List Instr} {s : State} {old : State} {gs : List Nat} {flips : List Nat} (h : Keeps p s) : Keeps p (State.afterApply s old gs flips) := by
  unfold State.afterApply
  repeat' with_reducible (first | exact h | intro _ | assumption | simp only [Keeps.mk_fields] | apply State.reKerf_keeps | apply State.post_keeps | apply State.rebuildLists_keeps | apply State.markAll_keeps | apply State.wholeField_keeps | apply State.scarfCheck_keeps | apply Keeps.ite | apply Keeps.foldl | apply Keeps.foldl_fst | apply Keeps.getD | split)

theorem State.moveFenceMaps_keeps {p : List Instr} {s : State} (h : Keeps p s) : Keeps p (State.moveFenceMaps s) := by
  unfold State.moveFenceMaps
  repeat' with_reducible (first | exact h | intro _ | assumption | simp only [Keeps.mk_fields] | apply State.pend_keeps | apply Keeps.ite | apply Keeps.foldl | apply Keeps.foldl_fst | apply Keeps.getD | split)

theorem State.refill_keeps {p : List Instr} {s : State} {old : State} (h : Keeps p s) : Keeps p (State.refill s old) := by
  unfold State.refill
  repeat' with_reducible (first | exact h | intro _ | assumption | simp only [Keeps.mk_fields] | apply State.setJob_keeps | apply State.bump_keeps | apply Keeps.ite | apply Keeps.foldl | apply Keeps.foldl_fst | apply Keeps.getD | split)

theorem execApplicationPoint_keeps {p : List Instr} {s t : State} {bus : Bus} (h : Keeps p s) (e : execApplicationPoint bus s = .next t) : Keeps p t := by
  unfold execApplicationPoint at e
  injection e with e
  subst e
  repeat' with_reducible (first | exact h | intro _ | assumption | simp only [Keeps.mk_fields] | apply State.applyGroup_keeps | apply State.applyFlip_keeps | apply State.refill_keeps | apply State.moveFenceMaps_keeps | apply State.afterApply_keeps | apply State.commitFrame_keeps | apply Keeps.ite | apply Keeps.foldl | apply Keeps.foldl_fst | apply Keeps.getD | split)

theorem execClampArm_keeps {p : List Instr} {s t : State} {id : Nat} {bus : Bus} (h : Keeps p s) (e : execClampArm id bus s = .next t) : Keeps p t := by
  unfold execClampArm at e
  injection e with e
  subst e
  repeat' with_reducible (first | exact h | intro _ | assumption | simp only [Keeps.mk_fields] | apply State.runOp_keeps | apply State.refuse_keeps | apply State.setFld_keeps | apply State.defer_keeps | apply Keeps.ite | apply Keeps.foldl | apply Keeps.foldl_fst | apply Keeps.getD | split)

theorem execFenceArm_keeps {p : List Instr} {s t : State} {id : Nat} {bus : Bus} (h : Keeps p s) (e : execFenceArm id bus s = .next t) : Keeps p t := by
  unfold execFenceArm at e
  injection e with e
  subst e
  repeat' with_reducible (first | exact h | intro _ | assumption | simp only [Keeps.mk_fields] | apply State.runOp_keeps | apply State.refuse_keeps | apply State.setFld_keeps | apply State.defer_keeps | apply Keeps.ite | apply Keeps.foldl | apply Keeps.foldl_fst | apply Keeps.getD | split)

end Sys2Proof.Machine
end

