-- ==== Sys2Proof/Laws/KeepsLane.lean ====
section
/-! SUPPORT. Every operation of Machine/Lane.lean keeps the queue and the canonical stores. -/

namespace Sys2Proof.Machine

open Sys2Proof

theorem State.setTaps_keeps {p : List Instr} {s : State} {i : Nat} {t1 : List Int} (h : Keeps p s) : Keeps p (State.setTaps s i t1) := by
  unfold State.setTaps
  repeat' with_reducible (first | exact h | intro _ | assumption | simp only [Keeps.mk_fields] | apply State.setFld_keeps | apply Keeps.ite | apply Keeps.foldl | apply Keeps.foldl_fst | apply Keeps.getD | split)

theorem State.countTaps_keeps {p : List Instr} {s : State} {i : Nat} {codes : List Nat} (h : Keeps p s) : Keeps p (State.countTaps s i codes) := by
  unfold State.countTaps
  repeat' with_reducible (first | exact h | intro _ | assumption | simp only [Keeps.mk_fields] | apply State.bumpBy_keeps | apply Keeps.ite | apply Keeps.foldl | apply Keeps.foldl_fst | apply Keeps.getD | split)

theorem State.recordTaps_keeps {p : List Instr} {s : State} {i : Nat} (h : Keeps p s) : Keeps p (State.recordTaps s i) := by
  unfold State.recordTaps
  repeat' with_reducible (first | exact h | intro _ | assumption | simp only [Keeps.mk_fields] | apply State.record_keeps | apply Keeps.ite | apply Keeps.foldl | apply Keeps.foldl_fst | apply Keeps.getD | split)

theorem State.setLane_keeps {p : List Instr} {s : State} {i : Nat} {st : Nat} (h : Keeps p s) : Keeps p (State.setLane s i st) := by
  unfold State.setLane
  repeat' with_reducible (first | exact h | intro _ | assumption | simp only [Keeps.mk_fields] | apply State.setFld_keeps | apply Keeps.ite | apply Keeps.foldl | apply Keeps.foldl_fst | apply Keeps.getD | split)

theorem State.trainLane_keeps {p : List Instr} {s : State} {i : Nat} (h : Keeps p s) : Keeps p (State.trainLane s i) := by
  unfold State.trainLane
  repeat' with_reducible (first | exact h | intro _ | assumption | simp only [Keeps.mk_fields] | apply State.bump_keeps | apply State.setLane_keeps | apply State.setFld_keeps | apply State.setTaps_keeps | apply Keeps.ite | apply Keeps.foldl | apply Keeps.foldl_fst | apply Keeps.getD | split)

theorem State.laneTrained_keeps {p : List Instr} {s : State} {i : Nat} (h : Keeps p s) : Keeps p (State.laneTrained s i) := by
  unfold State.laneTrained
  repeat' with_reducible (first | exact h | intro _ | assumption | simp only [Keeps.mk_fields] | apply Keeps.ite | apply Keeps.foldl | apply Keeps.foldl_fst | apply Keeps.getD | split)

theorem State.laneFailed_keeps {p : List Instr} {s : State} {i : Nat} (h : Keeps p s) : Keeps p (State.laneFailed s i) := by
  unfold State.laneFailed
  repeat' with_reducible (first | exact h | intro _ | assumption | simp only [Keeps.mk_fields] | apply State.bump_keeps | apply State.setLane_keeps | apply State.post_keeps | apply Keeps.ite | apply Keeps.foldl | apply Keeps.foldl_fst | apply Keeps.getD | split)

theorem State.standardTaps_keeps {p : List Instr} {s : State} {i : Nat} {t1 : List Int} (h : Keeps p s) : Keeps p (State.standardTaps s i t1) := by
  unfold State.standardTaps
  repeat' with_reducible (first | exact h | intro _ | assumption | simp only [Keeps.mk_fields] | apply State.recordTaps_keeps | apply State.setTaps_keeps | apply Keeps.ite | apply Keeps.foldl | apply Keeps.foldl_fst | apply Keeps.getD | split)

theorem State.setCoding_keeps {p : List Instr} {s : State} {i : Nat} {inverted : Bool} {tx : Bool} {rx : Bool} (h : Keeps p s) : Keeps p (State.setCoding s i inverted tx rx) := by
  unfold State.setCoding
  repeat' with_reducible (first | exact h | intro _ | assumption | simp only [Keeps.mk_fields] | apply State.setFld_keeps | apply Keeps.ite | apply Keeps.foldl | apply Keeps.foldl_fst | apply Keeps.getD | split)

theorem State.settleLane_keeps {p : List Instr} {s : State} {i : Nat} {l : Nat} {rate : Nat} {width : Nat} {inverted : Bool} {tx : Bool} {rx : Bool} {taps : List Int} (h : Keeps p s) : Keeps p (State.settleLane s i l rate width inverted tx rx taps) := by
  unfold State.settleLane
  repeat' with_reducible (first | exact h | intro _ | assumption | simp only [Keeps.mk_fields] | apply State.setFld_keeps | apply State.setCoding_keeps | apply State.setLane_keeps | apply State.standardTaps_keeps | apply State.laneTrained_keeps | apply State.bump_keeps | apply Keeps.ite | apply Keeps.foldl | apply Keeps.foldl_fst | apply Keeps.getD | split)

end Sys2Proof.Machine
end

