-- ==== Sys2Proof/Laws/KeepsPanel.lean ====
section
/-! SUPPORT. Every operation of Machine/Panel.lean keeps the queue and the canonical stores. -/

namespace Sys2Proof.Machine

open Sys2Proof

theorem State.protocolError_keeps {p : List Instr} {s : State} {q : Nat} {code : Nat} (h : Keeps p s) : Keeps p (State.protocolError s q code) := by
  unfold State.protocolError
  repeat' with_reducible (first | exact h | intro _ | assumption | simp only [Keeps.mk_fields] | apply State.postLimited_keeps | apply State.bump_keeps | apply Keeps.ite | apply Keeps.foldl | apply Keeps.foldl_fst | apply Keeps.getD | split)

theorem State.forwardAll_keeps {p : List Instr} {s : State} {type : Nat} {payload : List Byte} (h : Keeps p s) : Keeps p (State.forwardAll s type payload) := by
  unfold State.forwardAll
  repeat' with_reducible (first | exact h | intro _ | assumption | simp only [Keeps.mk_fields] | apply State.forward_keeps | apply Keeps.ite | apply Keeps.foldl | apply Keeps.foldl_fst | apply Keeps.getD | split)

theorem State.laneChange_keeps {p : List Instr} {s : State} {q : Nat} {cause : Nat} {served : Bool} (h : Keeps p s) : Keeps p (State.laneChange s q cause served) := by
  unfold State.laneChange
  repeat' with_reducible (first | exact h | intro _ | assumption | simp only [Keeps.mk_fields] | apply State.relimit_keeps | apply State.remapSeg_keeps | apply State.replan_keeps | apply State.post_keeps | apply Keeps.ite | apply Keeps.foldl | apply Keeps.foldl_fst | apply Keeps.getD | split)

theorem State.groupLeave_keeps {p : List Instr} {s : State} {q : Nat} {row : Nat} {written : Nat} (h : Keeps p s) : Keeps p (State.groupLeave s q row written) := by
  unfold State.groupLeave
  repeat' with_reducible (first | exact h | intro _ | assumption | simp only [Keeps.mk_fields] | apply State.showService_keeps | apply State.writeOff_keeps | apply State.abortPiece_keeps | apply Keeps.ite | apply Keeps.foldl | apply Keeps.foldl_fst | apply Keeps.getD | split)

theorem State.restart_keeps {p : List Instr} {s : State} {q : Nat} (h : Keeps p s) : Keeps p (State.restart s q) := by
  unfold State.restart
  repeat' with_reducible (first | exact h | intro _ | assumption | simp only [Keeps.mk_fields] | apply State.forward_keeps | apply State.setPg_keeps | apply Keeps.ite | apply Keeps.foldl | apply Keeps.foldl_fst | apply Keeps.getD | split)

theorem State.enterLink_keeps {p : List Instr} {s : State} {st : Nat} {cause : Nat} (h : Keeps p s) : Keeps p (State.enterLink s st cause) := by
  unfold State.enterLink
  repeat' with_reducible (first | exact h | intro _ | assumption | simp only [Keeps.mk_fields] | apply State.post_keeps | apply State.setFld_keeps | apply Keeps.ite | apply Keeps.foldl | apply Keeps.foldl_fst | apply Keeps.getD | split)

theorem State.setLaneQuad_keeps {p : List Instr} {s : State} {j : Nat} {depth : Nat} (h : Keeps p s) : Keeps p (State.setLaneQuad s j depth) := by
  unfold State.setLaneQuad
  repeat' with_reducible (first | exact h | intro _ | assumption | simp only [Keeps.mk_fields] | apply State.setFld_keeps | apply State.setDomain_keeps | apply Keeps.ite | apply Keeps.foldl | apply Keeps.foldl_fst | apply Keeps.getD | split)

theorem State.enterTrain_keeps {p : List Instr} {s : State} {cause : Nat} (h : Keeps p s) : Keeps p (State.enterTrain s cause) := by
  unfold State.enterTrain
  repeat' with_reducible (first | exact h | intro _ | assumption | simp only [Keeps.mk_fields] | apply State.setLaneQuad_keeps | apply State.enterLink_keeps | apply State.setPg_keeps | apply State.itemDone_keeps | apply State.trainLane_keeps | apply State.setLane_keeps | apply Keeps.ite | apply Keeps.foldl | apply Keeps.foldl_fst | apply Keeps.getD | split)

theorem State.leaveActive_keeps {p : List Instr} {s : State} (h : Keeps p s) : Keeps p (State.leaveActive s) := by
  unfold State.leaveActive
  repeat' with_reducible (first | exact h | intro _ | assumption | simp only [Keeps.mk_fields] | apply State.dropPiece_keeps | apply State.requeue_keeps | apply State.replanAll_keeps | apply State.showService_keeps | apply State.writeOff_keeps | apply State.setFld_keeps | apply State.itemDone_keeps | apply State.setPg_keeps | apply Keeps.ite | apply Keeps.foldl | apply Keeps.foldl_fst | apply Keeps.getD | split)

theorem State.leaveLink_keeps {p : List Instr} {s : State} (h : Keeps p s) : Keeps p (State.leaveLink s) := by
  unfold State.leaveLink
  repeat' with_reducible (first | exact h | intro _ | assumption | simp only [Keeps.mk_fields] | apply State.leaveActive_keeps | apply Keeps.ite | apply Keeps.foldl | apply Keeps.foldl_fst | apply Keeps.getD | split)

theorem execLinkLeaveActive_keeps {p : List Instr} {s t : State} (h : Keeps p s) (e : execLinkLeaveActive s = .next t) : Keeps p t := by
  unfold execLinkLeaveActive at e
  injection e with e
  subst e
  repeat' with_reducible (first | exact h | intro _ | assumption | simp only [Keeps.mk_fields] | apply State.enterTrain_keeps | apply State.leaveActive_keeps | apply Keeps.ite | apply Keeps.foldl | apply Keeps.foldl_fst | apply Keeps.getD | split)

theorem State.endReturns_keeps {p : List Instr} {s : State} {q : Nat} {m : Nat} {st : Nat} (h : Keeps p s) : Keeps p (State.endReturns s q m st) := by
  unfold State.endReturns
  repeat' with_reducible (first | exact h | intro _ | assumption | simp only [Keeps.mk_fields] | apply State.setPg_keeps | apply State.itemDone_keeps | apply Keeps.ite | apply Keeps.foldl | apply Keeps.foldl_fst | apply Keeps.getD | split)

theorem State.failTraining_keeps {p : List Instr} {s : State} {q : Nat} {m : Nat} (h : Keeps p s) : Keeps p (State.failTraining s q m) := by
  unfold State.failTraining
  repeat' with_reducible (first | exact h | intro _ | assumption | simp only [Keeps.mk_fields] | apply State.laneFailed_keeps | apply State.endReturns_keeps | apply State.setPg_keeps | apply Keeps.ite | apply Keeps.foldl | apply Keeps.foldl_fst | apply Keeps.getD | split)

theorem State.panelTrainingLimit_keeps {p : List Instr} {s : State} (h : Keeps p s) : Keeps p (State.panelTrainingLimit s) := by
  unfold State.panelTrainingLimit
  repeat' with_reducible (first | exact h | intro _ | assumption | simp only [Keeps.mk_fields] | apply State.failTraining_keeps | apply State.enterLink_keeps | apply Keeps.ite | apply Keeps.foldl | apply Keeps.foldl_fst | apply Keeps.getD | split)

theorem State.panelRetry_keeps {p : List Instr} {s : State} (h : Keeps p s) : Keeps p (State.panelRetry s) := by
  unfold State.panelRetry
  repeat' with_reducible (first | exact h | intro _ | assumption | simp only [Keeps.mk_fields] | apply State.enterTrain_keeps | apply State.trainLane_keeps | apply State.setPg_keeps | apply Keeps.ite | apply Keeps.foldl | apply Keeps.foldl_fst | apply Keeps.getD | split)

theorem State.startMap_keeps {p : List Instr} {s : State} {q : Nat} {mask : Nat} {cause : Nat} {waiters : List (Nat × Nat)} (h : Keeps p s) : Keeps p (State.startMap s q mask cause waiters) := by
  unfold State.startMap
  repeat' with_reducible (first | exact h | intro _ | assumption | simp only [Keeps.mk_fields] | apply State.wakeLanes_keeps | apply State.setPg_keeps | apply State.forward_keeps | apply Keeps.ite | apply Keeps.foldl | apply Keeps.foldl_fst | apply Keeps.getD | split)

theorem State.removeLanes_keeps {p : List Instr} {s : State} {q : Nat} {m : Nat} {cause : Nat} {waiters : optParam (List (Nat × Nat)) []} (h : Keeps p s) : Keeps p (State.removeLanes s q m cause waiters) := by
  unfold State.removeLanes
  repeat' with_reducible (first | exact h | intro _ | assumption | simp only [Keeps.mk_fields] | apply State.itemDone_keeps | apply State.setPg_keeps | apply State.startMap_keeps | apply Keeps.ite | apply Keeps.foldl | apply Keeps.foldl_fst | apply Keeps.getD | split)

theorem State.returnLanes_keeps {p : List Instr} {s : State} {q : Nat} (h : Keeps p s) : Keeps p (State.returnLanes s q) := by
  unfold State.returnLanes
  repeat' with_reducible (first | exact h | intro _ | assumption | simp only [Keeps.mk_fields] | apply State.setPg_keeps | apply State.startMap_keeps | apply Keeps.ite | apply Keeps.foldl | apply Keeps.foldl_fst | apply Keeps.getD | split)

theorem State.applyMap_keeps {p : List Instr} {s : State} {q : Nat} {row : Nat} {written : Nat} (h : Keeps p s) : Keeps p (State.applyMap s q row written) := by
  unfold State.applyMap
  repeat' with_reducible (first | exact h | intro _ | assumption | simp only [Keeps.mk_fields] | apply State.returnLanes_keeps | apply State.setPg_keeps | apply State.bumpBy_keeps | apply State.setLane_keeps | apply State.showService_keeps | apply State.groupLeave_keeps | apply State.restart_keeps | apply State.laneChange_keeps | apply State.itemDone_keeps | apply Keeps.ite | apply Keeps.foldl | apply Keeps.foldl_fst | apply Keeps.getD | split)

theorem State.lanePanelFails_keeps {p : List Instr} {s : State} {q : Nat} {p1 : Nat} (h : Keeps p s) : Keeps p (State.lanePanelFails s q p1) := by
  unfold State.lanePanelFails
  repeat' with_reducible (first | exact h | intro _ | assumption | simp only [Keeps.mk_fields] | apply State.removeLanes_keeps | apply Keeps.ite | apply Keeps.foldl | apply Keeps.foldl_fst | apply Keeps.getD | split)

theorem execProtocolError_keeps {p : List Instr} {s t : State} {q : Nat} {code : Nat} {violations : Nat} (h : Keeps p s) (e : execProtocolError q code violations s = .next t) : Keeps p t := by
  unfold execProtocolError at e
  injection e with e
  subst e
  repeat' with_reducible (first | exact h | intro _ | assumption | simp only [Keeps.mk_fields] | apply State.bumpBy_keeps | apply State.protocolError_keeps | apply Keeps.ite | apply Keeps.foldl | apply Keeps.foldl_fst | apply Keeps.getD | split)

theorem execBackchannelCredit_keeps {p : List Instr} {s t : State} {q : Nat} {count : Nat} {m : CreditMark} (h : Keeps p s) (e : execBackchannelCredit q count m s = .next t) : Keeps p t := by
  unfold execBackchannelCredit at e
  injection e with e
  subst e
  repeat' with_reducible (first | exact h | intro _ | assumption | simp only [Keeps.mk_fields] | apply State.beginBlocks_keeps | apply State.setPg_keeps | apply State.setFld_keeps | apply State.laneChange_keeps | apply State.showService_keeps | apply State.grant_keeps | apply State.protocolError_keeps | apply State.putCredits_keeps | apply Keeps.ite | apply Keeps.foldl | apply Keeps.foldl_fst | apply Keeps.getD | split)

theorem execBackchannelStatus_keeps {p : List Instr} {s t : State} {q : Nat} {flags : Nat} {lanes : Nat} {ucw : Nat} {worst : Nat} (h : Keeps p s) (e : execBackchannelStatus q flags lanes ucw worst s = .next t) : Keeps p t := by
  unfold execBackchannelStatus at e
  injection e with e
  subst e
  repeat' with_reducible (first | exact h | intro _ | assumption | simp only [Keeps.mk_fields] | apply State.wholeField_keeps | apply State.bumpBy_keeps | apply State.bump_keeps | apply State.removeLanes_keeps | apply Keeps.ite | apply Keeps.foldl | apply Keeps.foldl_fst | apply Keeps.getD | split)

theorem execBackchannelNak_keeps {p : List Instr} {s t : State} {q : Nat} {seq : Nat} {reason : Nat} (h : Keeps p s) (e : execBackchannelNak q seq reason s = .next t) : Keeps p t := by
  unfold execBackchannelNak at e
  injection e with e
  subst e
  repeat' with_reducible (first | exact h | intro _ | assumption | simp only [Keeps.mk_fields] | apply State.markAll_keeps | apply State.bump_keeps | apply State.postLimited_keeps | apply State.setPg_keeps | apply Keeps.ite | apply Keeps.foldl | apply Keeps.foldl_fst | apply Keeps.getD | split)

theorem State.tapStatus_keeps {p : List Instr} {s : State} {q : Nat} {lane : Nat} {codes : List Nat} (h : Keeps p s) : Keeps p (State.tapStatus s q lane codes) := by
  unfold State.tapStatus
  repeat' with_reducible (first | exact h | intro _ | assumption | simp only [Keeps.mk_fields] | apply State.forward_keeps | apply Keeps.ite | apply Keeps.foldl | apply Keeps.foldl_fst | apply Keeps.getD | split)

theorem State.trainMessage_keeps {p : List Instr} {s : State} {i : Nat} {taps : Nat} {ctl : Nat} (h : Keeps p s) : Keeps p (State.trainMessage s i taps ctl).1 := by
  unfold State.trainMessage
  repeat' with_reducible (first | exact h | intro _ | assumption | simp only [Keeps.mk_fields] | apply State.setTaps_keeps | apply State.countTaps_keeps | apply Keeps.ite | apply Keeps.foldl | apply Keeps.foldl_fst | apply Keeps.getD | split)

theorem State.trainMessage_keeps_eq {p : List Instr} {s t : State} {i : Nat} {taps : Nat} {ctl : Nat} {ret} (e : State.trainMessage s i taps ctl = (t, ret)) (h : Keeps p s) : Keeps p t := by
  have := State.trainMessage_keeps (p := p) h (s := s) (i := i) (taps := taps) (ctl := ctl)
  rwa [e] at this

theorem State.inServiceTaps_keeps {p : List Instr} {s : State} {i : Nat} {taps : Nat} {ctl : Nat} (h : Keeps p s) : Keeps p (State.inServiceTaps s i taps ctl).1 := by
  unfold State.inServiceTaps
  repeat' with_reducible (first | exact h | intro _ | assumption | simp only [Keeps.mk_fields] | apply State.bumpBy_keeps | apply Keeps.ite | apply Keeps.foldl | apply Keeps.foldl_fst | apply Keeps.getD | split)

theorem State.inServiceTaps_keeps_eq {p : List Instr} {s t : State} {i : Nat} {taps : Nat} {ctl : Nat} {ret} (e : State.inServiceTaps s i taps ctl = (t, ret)) (h : Keeps p s) : Keeps p t := by
  have := State.inServiceTaps_keeps (p := p) h (s := s) (i := i) (taps := taps) (ctl := ctl)
  rwa [e] at this

theorem execBackchannelTrain_keeps {p : List Instr} {s t : State} {q : Nat} {lane : Nat} {taps : Nat} {ctl : Nat} (h : Keeps p s) (e : execBackchannelTrain q lane taps ctl s = .next t) : Keeps p t := by
  unfold execBackchannelTrain at e
  injection e with e
  subst e
  repeat' with_reducible (first | exact h | intro _ | assumption | simp only [Keeps.mk_fields] | refine State.trainMessage_keeps_eq ‹_› ?_ | apply State.trainMessage_keeps | apply State.tapStatus_keeps | apply State.laneTrained_keeps | apply State.endReturns_keeps | apply State.setPg_keeps | apply State.enterLink_keeps | apply State.returnLanes_keeps | refine State.inServiceTaps_keeps_eq ‹_› ?_ | apply State.inServiceTaps_keeps | apply Keeps.ite | apply Keeps.foldl | apply Keeps.foldl_fst | apply Keeps.getD | split)

theorem execHoldReceived_keeps {p : List Instr} {s t : State} {q : Nat} (h : Keeps p s) (e : execHoldReceived q s = .next t) : Keeps p t := by
  unfold execHoldReceived at e
  injection e with e
  subst e
  repeat' with_reducible (first | exact h | intro _ | assumption | simp only [Keeps.mk_fields] | apply State.bump_keeps | apply State.setFld_keeps | apply State.setPg_keeps | apply Keeps.ite | apply Keeps.foldl | apply Keeps.foldl_fst | apply Keeps.getD | split)

theorem execReleaseReceived_keeps {p : List Instr} {s t : State} {q : Nat} (h : Keeps p s) (e : execReleaseReceived q s = .next t) : Keeps p t := by
  unfold execReleaseReceived at e
  injection e with e
  subst e
  repeat' with_reducible (first | exact h | intro _ | assumption | simp only [Keeps.mk_fields] | apply State.bumpBy_keeps | apply State.setFld_keeps | apply State.setPg_keeps | apply Keeps.ite | apply Keeps.foldl | apply Keeps.foldl_fst | apply Keeps.getD | split)

theorem execHoldLimitExpiry_keeps {p : List Instr} {s t : State} {q : Nat} (h : Keeps p s) (e : execHoldLimitExpiry q s = .next t) : Keeps p t := by
  unfold execHoldLimitExpiry at e
  injection e with e
  subst e
  repeat' with_reducible (first | exact h | intro _ | assumption | simp only [Keeps.mk_fields] | apply State.post_keeps | apply State.setPg_keeps | apply Keeps.ite | apply Keeps.foldl | apply Keeps.foldl_fst | apply Keeps.getD | split)

theorem execBackchannelLockLoss_keeps {p : List Instr} {s t : State} {q : Nat} {row : Nat} {written : Nat} (h : Keeps p s) (e : execBackchannelLockLoss q row written s = .next t) : Keeps p t := by
  unfold execBackchannelLockLoss at e
  injection e with e
  subst e
  repeat' with_reducible (first | exact h | intro _ | assumption | simp only [Keeps.mk_fields] | apply State.setFld_keeps | apply State.setPg_keeps | apply State.laneChange_keeps | apply State.groupLeave_keeps | apply Keeps.ite | apply Keeps.foldl | apply Keeps.foldl_fst | apply Keeps.getD | split)

theorem execBackchannelRelock_keeps {p : List Instr} {s t : State} {q : Nat} {inverted : Bool} (h : Keeps p s) (e : execBackchannelRelock q inverted s = .next t) : Keeps p t := by
  unfold execBackchannelRelock at e
  injection e with e
  subst e
  repeat' with_reducible (first | exact h | intro _ | assumption | simp only [Keeps.mk_fields] | apply State.setFld_keeps | apply State.restart_keeps | apply State.setPg_keeps | apply Keeps.ite | apply Keeps.foldl | apply Keeps.foldl_fst | apply Keeps.getD | split)

theorem State.resetChecks_keeps {p : List Instr} {s : State} (h : Keeps p s) : Keeps p (State.resetChecks s) := by
  unfold State.resetChecks
  repeat' with_reducible (first | exact h | intro _ | assumption | simp only [Keeps.mk_fields] | apply State.clearValid_keeps | refine State.disableChecks_keeps_eq ‹_› ?_ | apply State.disableChecks_keeps | apply State.post_keeps | apply State.markAll_keeps | apply Keeps.ite | apply Keeps.foldl | apply Keeps.foldl_fst | apply Keeps.getD | split)

theorem State.putGeometry_keeps {p : List Instr} {s : State} {d : Desc} (h : Keeps p s) : Keeps p (State.putGeometry s d) := by
  unfold State.putGeometry
  repeat' with_reducible (first | exact h | intro _ | assumption | simp only [Keeps.mk_fields] | apply State.setFld_keeps | apply State.setReg_keeps | apply Keeps.ite | apply Keeps.foldl | apply Keeps.foldl_fst | apply Keeps.getD | split)

theorem State.putSlope_keeps {p : List Instr} {s : State} {w : Nat} {v : Nat} (h : Keeps p s) : Keeps p (State.putSlope s w v) := by
  unfold State.putSlope
  repeat' with_reducible (first | exact h | intro _ | assumption | simp only [Keeps.mk_fields] | apply State.setAct_keeps | apply State.setReg_keeps | apply Keeps.ite | apply Keeps.foldl | apply Keeps.foldl_fst | apply Keeps.getD | split)

theorem State.slopeKerfs_keeps {p : List Instr} {s : State} (h : Keeps p s) : Keeps p (State.slopeKerfs s) := by
  unfold State.slopeKerfs
  repeat' with_reducible (first | exact h | intro _ | assumption | simp only [Keeps.mk_fields] | apply State.reKerf_keeps | apply State.post_keeps | apply State.markAll_keeps | apply State.rebuildLists_keeps | apply Keeps.ite | apply Keeps.foldl | apply Keeps.foldl_fst | apply Keeps.getD | split)

theorem State.linkSlopes_keeps {p : List Instr} {s : State} {d : Desc} {prev : Option (Nat × Nat)} (h : Keeps p s) : Keeps p (State.linkSlopes s d prev) := by
  unfold State.linkSlopes
  repeat' with_reducible (first | exact h | intro _ | assumption | simp only [Keeps.mk_fields] | apply State.putSlope_keeps | apply State.post_keeps | apply State.setFld_keeps | apply State.slopeKerfs_keeps | apply State.wholeField_keeps | apply Keeps.ite | apply Keeps.foldl | apply Keeps.foldl_fst | apply Keeps.getD | split)

theorem State.linkGrid_keeps {p : List Instr} {s : State} (h : Keeps p s) : Keeps p (State.linkGrid s) := by
  unfold State.linkGrid
  repeat' with_reducible (first | exact h | intro _ | assumption | simp only [Keeps.mk_fields] | apply State.switchGrid_keeps | refine State.disableChecks_keeps_eq ‹_› ?_ | apply State.disableChecks_keeps | apply State.clearGrid_keeps | apply State.setFld_keeps | apply State.showDrops_keeps | apply State.post_keeps | apply State.putReply_keeps | apply Keeps.ite | apply Keeps.foldl | apply Keeps.foldl_fst | apply Keeps.getD | split)

theorem State.dropPins_keeps {p : List Instr} {s : State} (h : Keeps p s) : Keeps p (State.dropPins s) := by
  unfold State.dropPins
  repeat' with_reducible (first | exact h | intro _ | assumption | simp only [Keeps.mk_fields] | apply State.setFld_keeps | apply State.setRegion_keeps | apply Keeps.ite | apply Keeps.foldl | apply Keeps.foldl_fst | apply Keeps.getD | split)

theorem State.startGroup_keeps {p : List Instr} {s : State} {q : Nat} {grant : Nat} (h : Keeps p s) : Keeps p (State.startGroup s q grant) := by
  unfold State.startGroup
  repeat' with_reducible (first | exact h | intro _ | assumption | simp only [Keeps.mk_fields] | apply State.setFld_keeps | apply State.setPg_keeps | apply State.recordTaps_keeps | apply State.setLane_keeps | apply Keeps.ite | apply Keeps.foldl | apply Keeps.foldl_fst | apply Keeps.getD | split)

theorem State.serveGroup_keeps {p : List Instr} {s : State} {q : Nat} (h : Keeps p s) : Keeps p (State.serveGroup s q) := by
  unfold State.serveGroup
  repeat' with_reducible (first | exact h | intro _ | assumption | simp only [Keeps.mk_fields] | apply State.grant_keeps | apply State.writeOff_keeps | apply State.setPg_keeps | apply State.post_keeps | apply State.showService_keeps | apply Keeps.ite | apply Keeps.foldl | apply Keeps.foldl_fst | apply Keeps.getD | split)

theorem State.acceptDesc_keeps {p : List Instr} {s : State} {d : Desc} {bytes : List Byte} (h : Keeps p s) : Keeps p (State.acceptDesc s d bytes) := by
  unfold State.acceptDesc
  repeat' with_reducible (first | exact h | intro _ | assumption | simp only [Keeps.mk_fields] | apply State.resetChecks_keeps | apply State.putGeometry_keeps | apply State.bump_keeps | apply State.setFld_keeps | apply State.forwardAll_keeps | apply State.startGroup_keeps | apply State.linkSlopes_keeps | apply State.dropPins_keeps | apply State.linkGrid_keeps | apply State.safeWord_keeps | apply State.bgWords_keeps | apply State.enterLink_keeps | apply State.serveGroup_keeps | apply State.relimit_keeps | apply State.replanAll_keeps | apply State.moveSeg_keeps | apply State.showGroupFree_keeps | apply State.itemDone_keeps | apply State.markAll_keeps | apply State.wholeField_keeps | apply Keeps.ite | apply Keeps.foldl | apply Keeps.foldl_fst | apply Keeps.getD | split)

theorem execDescriptorReceived_keeps {p : List Instr} {s t : State} {q : Nat} {bytes : List Byte} (h : Keeps p s) (e : execDescriptorReceived q bytes s = .next t) : Keeps p t := by
  unfold execDescriptorReceived at e
  injection e with e
  subst e
  repeat' with_reducible (first | exact h | intro _ | assumption | simp only [Keeps.mk_fields] | apply State.protocolError_keeps | apply State.enterTrain_keeps | apply State.leaveActive_keeps | apply State.forwardAll_keeps | apply State.setFld_keeps | apply State.post_keeps | apply State.acceptDesc_keeps | apply Keeps.ite | apply Keeps.foldl | apply Keeps.foldl_fst | apply Keeps.getD | split)

theorem execLinkReset_keeps {p : List Instr} {s t : State} {id : Nat} {bus : Bus} (h : Keeps p s) (e : execLinkReset id bus s = .next t) : Keeps p t := by
  unfold execLinkReset at e
  injection e with e
  subst e
  repeat' with_reducible (first | exact h | intro _ | assumption | simp only [Keeps.mk_fields] | apply State.runOp_keeps | apply State.refuse_keeps | apply State.abort_keeps | apply State.defer_keeps | apply State.leaveLink_keeps | apply State.enterTrain_keeps | apply State.enterLink_keeps | apply Keeps.ite | apply Keeps.foldl | apply Keeps.foldl_fst | apply Keeps.getD | split)

theorem execLinkResetTimeout_keeps {p : List Instr} {s t : State} (h : Keeps p s) (e : execLinkResetTimeout s = .next t) : Keeps p t := by
  unfold execLinkResetTimeout at e
  injection e with e
  subst e
  repeat' with_reducible (first | exact h | intro _ | assumption | simp only [Keeps.mk_fields] | apply State.failOne_keeps | apply Keeps.ite | apply Keeps.foldl | apply Keeps.foldl_fst | apply Keeps.getD | split)

theorem execLaneService_keeps {p : List Instr} {s t : State} {id : Nat} {_bus : Bus} (h : Keeps p s) (e : execLaneService id _bus s = .next t) : Keeps p t := by
  unfold execLaneService at e
  injection e with e
  subst e
  repeat' with_reducible (first | exact h | intro _ | assumption | simp only [Keeps.mk_fields] | apply State.runOp_keeps | apply State.refuse_keeps | apply State.defer_keeps | apply State.itemDone_keeps | apply State.setPg_keeps | apply State.trainLane_keeps | apply State.removeLanes_keeps | apply Keeps.ite | apply Keeps.foldl | apply Keeps.foldl_fst | apply Keeps.getD | split)

end Sys2Proof.Machine
end

