-- ==== Sys2Proof/Laws/KeepsSerial.lean ====
section
/-! SUPPORT. Every operation of Machine/Serial.lean keeps the queue and the canonical stores. -/

namespace Sys2Proof.Machine

open Sys2Proof

theorem execQuietEntry_keeps {p : List Instr} {s t : State} {q : Nat} (h : Keeps p s) (e : execQuietEntry q s = .next t) : Keeps p t := by
  unfold execQuietEntry at e
  injection e with e
  subst e
  repeat' with_reducible (first | exact h | intro _ | assumption | simp only [Keeps.mk_fields] | apply State.bump_keeps | apply State.setLane_keeps | apply Keeps.ite | apply Keeps.foldl | apply Keeps.foldl_fst | apply Keeps.getD | split)

theorem State.putCodes_keeps {p : List Instr} {s : State} {i : Nat} {ctle : Nat} {vga : Nat} {dfe : List Int} {levels : List Int} (h : Keeps p s) : Keeps p (State.putCodes s i ctle vga dfe levels) := by
  unfold State.putCodes
  repeat' with_reducible (first | exact h | intro _ | assumption | simp only [Keeps.mk_fields] | apply State.setFld_keeps | apply Keeps.ite | apply Keeps.foldl | apply Keeps.foldl_fst | apply Keeps.getD | split)

theorem execAdaptationStep_keeps {p : List Instr} {s t : State} {i : Nat} {ctle : Nat} {goal : EqGoal} {vga : Nat} (h : Keeps p s) (e : execAdaptationStep i ctle goal vga s = .next t) : Keeps p t := by
  unfold execAdaptationStep at e
  injection e with e
  subst e
  repeat' with_reducible (first | exact h | intro _ | assumption | simp only [Keeps.mk_fields] | apply State.putCodes_keeps | apply Keeps.ite | apply Keeps.foldl | apply Keeps.foldl_fst | apply Keeps.getD | split)

theorem execEyeSetComplete_keeps {p : List Instr} {s t : State} {i : Nat} {eyes : List (Nat × Nat)} {rms : Nat} {corrected : Nat} {since : Nat} (h : Keeps p s) (e : execEyeSetComplete i eyes rms corrected since s = .next t) : Keeps p t := by
  unfold execEyeSetComplete at e
  injection e with e
  subst e
  repeat' with_reducible (first | exact h | intro _ | assumption | simp only [Keeps.mk_fields] | apply State.setFld_keeps | apply State.bumpBy_keeps | apply State.postLimited_keeps | apply Keeps.ite | apply Keeps.foldl | apply Keeps.foldl_fst | apply Keeps.getD | split)

theorem State.startMeasures_keeps {p : List Instr} {s : State} {id : Nat} (h : Keeps p s) : Keeps p (State.startMeasures s id) := by
  unfold State.startMeasures
  repeat' with_reducible (first | exact h | intro _ | assumption | simp only [Keeps.mk_fields] | apply State.itemDone_keeps | apply Keeps.ite | apply Keeps.foldl | apply Keeps.foldl_fst | apply Keeps.getD | split)

theorem State.breakMeasures_keeps {p : List Instr} {s : State} {id : Nat} (h : Keeps p s) : Keeps p (State.breakMeasures s id) := by
  unfold State.breakMeasures
  repeat' with_reducible (first | exact h | intro _ | assumption | simp only [Keeps.mk_fields] | apply State.itemDone_keeps | apply Keeps.ite | apply Keeps.foldl | apply Keeps.foldl_fst | apply Keeps.getD | split)

theorem State.endMeasure_keeps {p : List Instr} {s : State} {b : Bus} {id : Nat} {r : Nat × List Nat} (h : Keeps p s) : Keeps p (State.endMeasure s b id r) := by
  unfold State.endMeasure
  repeat' with_reducible (first | exact h | intro _ | assumption | simp only [Keeps.mk_fields] | refine State.dstWrite_keeps_eq ‹_› ?_ | apply State.dstWrite_keeps | apply State.itemDone_keeps | apply Keeps.ite | apply Keeps.foldl | apply Keeps.foldl_fst | apply Keeps.getD | split)

theorem execLaneMeasure_keeps {p : List Instr} {s t : State} {id : Nat} {bus : Bus} {results : List (Nat × List Nat)} (h : Keeps p s) (e : execLaneMeasure id bus results s = .next t) : Keeps p t := by
  unfold execLaneMeasure at e
  injection e with e
  subst e
  repeat' with_reducible (first | exact h | intro _ | assumption | simp only [Keeps.mk_fields] | apply State.startMeasures_keeps | apply State.endMeasure_keeps | apply State.breakMeasures_keeps | apply State.runOp_keeps | apply State.refuse_keeps | apply State.defer_keeps | apply Keeps.ite | apply Keeps.foldl | apply Keeps.foldl_fst | apply Keeps.getD | split)

theorem execLaneTxSet_keeps {p : List Instr} {s t : State} {id : Nat} {bus : Bus} (h : Keeps p s) (e : execLaneTxSet id bus s = .next t) : Keeps p t := by
  unfold execLaneTxSet at e
  injection e with e
  subst e
  repeat' with_reducible (first | exact h | intro _ | assumption | simp only [Keeps.mk_fields] | apply State.runOp_keeps | apply State.refuse_keeps | apply State.setCmd_keeps | apply State.itemDone_keeps | apply Keeps.ite | apply Keeps.foldl | apply Keeps.foldl_fst | apply Keeps.getD | split)

theorem execTxTapStep_keeps {p : List Instr} {s t : State} {i : Nat} (h : Keeps p s) (e : execTxTapStep i s = .next t) : Keeps p t := by
  unfold execTxTapStep at e
  injection e with e
  subst e
  repeat' with_reducible (first | exact h | intro _ | assumption | simp only [Keeps.mk_fields] | apply State.bumpBy_keeps | apply State.setTaps_keeps | apply State.itemDone_keeps | apply Keeps.ite | apply Keeps.foldl | apply Keeps.foldl_fst | apply Keeps.getD | split)

end Sys2Proof.Machine
end

