-- ==== Sys2Proof/Laws/KeepsPipes.lean ====
section
/-! SUPPORT. Every operation of Machine/Pipes.lean keeps the queue and the canonical stores. -/

namespace Sys2Proof.Machine

open Sys2Proof

theorem State.setStream_keeps {p : List Instr} {s : State} {k : Nat} {x : Stream} (h : Keeps p s) : Keeps p (State.setStream s k x) := by
  unfold State.setStream
  repeat' with_reducible (first | exact h | intro _ | assumption | simp only [Keeps.mk_fields] | apply Keeps.ite | apply Keeps.foldl | apply Keeps.foldl_fst | apply Keeps.getD | split)

theorem State.setUnit_keeps {p : List Instr} {s : State} {u : TrsUnit} (h : Keeps p s) : Keeps p (State.setUnit s u) := by
  unfold State.setUnit
  repeat' with_reducible (first | exact h | intro _ | assumption | simp only [Keeps.mk_fields] | apply Keeps.ite | apply Keeps.foldl | apply Keeps.foldl_fst | apply Keeps.getD | split)

theorem State.countTrs_keeps {p : List Instr} {s : State} {v : Nat} {k : Nat} {d : Nat} (h : Keeps p s) : Keeps p (State.countTrs s v k d) := by
  unfold State.countTrs
  repeat' with_reducible (first | exact h | intro _ | assumption | simp only [Keeps.mk_fields] | apply State.count_keeps | apply Keeps.ite | apply Keeps.foldl | apply Keeps.foldl_fst | apply Keeps.getD | split)

theorem State.showProgress_keeps {p : List Instr} {s : State} {v : Nat} (h : Keeps p s) : Keeps p (State.showProgress s v) := by
  unfold State.showProgress
  repeat' with_reducible (first | exact h | intro _ | assumption | simp only [Keeps.mk_fields] | apply State.setFld_keeps | apply Keeps.ite | apply Keeps.foldl | apply Keeps.foldl_fst | apply Keeps.getD | split)

theorem State.keepOld_keeps {p : List Instr} {s : State} {k : Nat} {f : Nat} (h : Keeps p s) : Keeps p (State.keepOld s k f) := by
  unfold State.keepOld
  repeat' with_reducible (first | exact h | intro _ | assumption | simp only [Keeps.mk_fields] | apply State.setDecStream_keeps | apply Keeps.ite | apply Keeps.foldl | apply Keeps.foldl_fst | apply Keeps.getD | split)

theorem State.sayConceal_keeps {p : List Instr} {s : State} {k : Nat} {f : Nat} {cause : Nat} (h : Keeps p s) : Keeps p (State.sayConceal s k f cause) := by
  unfold State.sayConceal
  repeat' with_reducible (first | exact h | intro _ | assumption | simp only [Keeps.mk_fields] | apply State.post_keeps | apply Keeps.ite | apply Keeps.foldl | apply Keeps.foldl_fst | apply Keeps.getD | split)

theorem State.conceal_keeps {p : List Instr} {s : State} {g : Nat} {k : Nat} {u : TrsUnit} {cause : Nat} (h : Keeps p s) : Keeps p (State.conceal s g k u cause) := by
  unfold State.conceal
  repeat' with_reducible (first | exact h | intro _ | assumption | simp only [Keeps.mk_fields] | apply State.sayConceal_keeps | apply State.bump_keeps | apply State.setDecStream_keeps | apply State.keepOld_keeps | apply Keeps.ite | apply Keeps.foldl | apply Keeps.foldl_fst | apply Keeps.getD | split)

theorem State.loseUnit_keeps {p : List Instr} {s : State} {u : TrsUnit} {cause : Nat} (h : Keeps p s) : Keeps p (State.loseUnit s u cause) := by
  unfold State.loseUnit
  repeat' with_reducible (first | exact h | intro _ | assumption | simp only [Keeps.mk_fields] | apply State.setUnit_keeps | apply State.showProgress_keeps | apply State.countTrs_keeps | apply State.post_keeps | apply State.conceal_keeps | apply Keeps.ite | apply Keeps.foldl | apply Keeps.foldl_fst | apply Keeps.getD | split)

theorem State.deliverUnit_keeps {p : List Instr} {s : State} {u : TrsUnit} (h : Keeps p s) : Keeps p (State.deliverUnit s u) := by
  unfold State.deliverUnit
  repeat' with_reducible (first | exact h | intro _ | assumption | simp only [Keeps.mk_fields] | apply State.setUnit_keeps | apply State.countTrs_keeps | apply State.showProgress_keeps | apply Keeps.ite | apply Keeps.foldl | apply Keeps.foldl_fst | apply Keeps.getD | split)

theorem State.postBad_keeps {p : List Instr} {s : State} {v : Nat} {reason : Nat} (h : Keeps p s) : Keeps p (State.postBad s v reason) := by
  unfold State.postBad
  repeat' with_reducible (first | exact h | intro _ | assumption | simp only [Keeps.mk_fields] | apply State.postLimited_keeps | apply State.setStream_keeps | apply Keeps.ite | apply Keeps.foldl | apply Keeps.foldl_fst | apply Keeps.getD | split)

theorem State.recountFirst_keeps {p : List Instr} {s : State} {v : Nat} (h : Keeps p s) : Keeps p (State.recountFirst s v) := by
  have h' := State.setFld_keeps (l := R.SCN_TRS_CNT_count v 1) (x := s.fld (R.SCN_TRS_CNT_count v 1) - 1) h
  exact State.countTrs_keeps ⟨h'.queue, h'.canonical.1, h'.canonical.2.1, Store.wf_set _ _ _ h'.canonical.2.2.1, h'.canonical.2.2.2⟩

theorem State.openUnit_keeps_eq {p : List Instr} {s t : State} {u : TrsUnit} (e : State.openUnit s u = .error t) (h : Keeps p s) :
    Keeps p t := by
  unfold State.openUnit at e
  split at e
  · cases e
  · simp only at e
    split at e
    · injection e with e; subst e
      exact State.loseUnit_keeps (State.postBad_keeps (State.recountFirst_keeps h))
    · split at e
      · cases e
      · injection e with e; subst e
        exact State.loseUnit_keeps (State.post_keeps (State.countTrs_keeps h))

theorem State.poolWrite_keeps {p : List Instr} {s : State} {base : Nat} {runs : List (Nat × Nat)} {o : Nat} {d : List Byte} (h : Keeps p s) : Keeps p (State.poolWrite s base runs o d) := by
  unfold State.poolWrite
  repeat' with_reducible (first | exact h | intro _ | assumption | simp only [Keeps.mk_fields] | apply State.memWrite_keeps | apply Keeps.ite | apply Keeps.foldl | apply Keeps.foldl_fst | apply Keeps.getD | split)

theorem State.wakeDec_keeps {p : List Instr} {s : State} (h : Keeps p s) : Keeps p (State.wakeDec s) := by
  unfold State.wakeDec
  repeat' with_reducible (first | exact h | intro _ | assumption | simp only [Keeps.mk_fields] | apply State.showPool_keeps | apply State.setPart_keeps | apply Keeps.ite | apply Keeps.foldl | apply Keeps.foldl_fst | apply Keeps.getD | split)

theorem execDecodeAssign_keeps {p : List Instr} {s t : State} {id : Nat} {bus : Bus} (h : Keeps p s) (e : execDecodeAssign id bus s = .next t) : Keeps p t := by
  unfold execDecodeAssign at e
  injection e with e
  subst e
  repeat' with_reducible (first | exact h | intro _ | assumption | simp only [Keeps.mk_fields] | apply State.runOp_keeps | apply State.wakeDec_keeps | apply State.refuse_keeps | apply State.finishOne_keeps | apply State.freeDecode_keeps | apply State.showPool_keeps | apply State.showPipe_keeps | apply State.setDecStream_keeps | apply State.setFld_keeps | apply Keeps.ite | apply Keeps.foldl | apply Keeps.foldl_fst | apply Keeps.getD | split)

theorem State.setPipe_keeps {p : List Instr} {s : State} {p1 : Nat} {x : Option (Nat × Nat × Nat)} (h : Keeps p s) : Keeps p (State.setPipe s p1 x) := by
  unfold State.setPipe
  repeat' with_reducible (first | exact h | intro _ | assumption | simp only [Keeps.mk_fields] | apply Keeps.ite | apply Keeps.foldl | apply Keeps.foldl_fst | apply Keeps.getD | split)

theorem State.skipUnit_keeps {p : List Instr} {s : State} {u : TrsUnit} {k : Nat} (h : Keeps p s) : Keeps p (State.skipUnit s u k) := by
  unfold State.skipUnit
  repeat' with_reducible (first | exact h | intro _ | assumption | simp only [Keeps.mk_fields] | apply State.deliverUnit_keeps | apply State.conceal_keeps | apply Keeps.ite | apply Keeps.foldl | apply Keeps.foldl_fst | apply Keeps.getD | split)

theorem State.countLate_keeps {p : List Instr} {s : State} {p1 : Nat} {u : TrsUnit} (h : Keeps p s) : Keeps p (State.countLate s p1 u) := by
  unfold State.countLate
  repeat' with_reducible (first | exact h | intro _ | assumption | simp only [Keeps.mk_fields] | apply State.postLimited_keeps | apply State.bump_keeps | apply Keeps.ite | apply Keeps.foldl | apply Keeps.foldl_fst | apply Keeps.getD | split)

theorem execDecodeStart_keeps {p : List Instr} {s t : State} {p1 : Nat} {tool : Nat} {rap : Bool} (h : Keeps p s) (e : execDecodeStart p1 tool rap s = .next t) : Keeps p t := by
  unfold execDecodeStart at e
  injection e with e
  subst e
  repeat' with_reducible (first | exact h | intro _ | assumption | simp only [Keeps.mk_fields] | apply State.setPart_keeps | refine State.openUnit_keeps_eq ‹_› ?_ | apply State.countLate_keeps | apply State.loseUnit_keeps | apply State.post_keeps | apply State.skipUnit_keeps | apply State.setDecStream_keeps | apply State.setPipe_keeps | apply State.setUnit_keeps | apply Keeps.ite | apply Keeps.foldl | apply Keeps.foldl_fst | apply Keeps.getD | split)

theorem State.outputPicture_keeps {p : List Instr} {s : State} {k : Nat} {u : TrsUnit} {p1 : Picture} {whole : Bool} (h : Keeps p s) : Keeps p (State.outputPicture s k u p1 whole) := by
  unfold State.outputPicture
  repeat' with_reducible (first | exact h | intro _ | assumption | simp only [Keeps.mk_fields] | apply State.bump_keeps | apply State.setDecStream_keeps | apply State.poolWrite_keeps | apply State.showStaged_keeps | apply Keeps.ite | apply Keeps.foldl | apply Keeps.foldl_fst | apply Keeps.getD | split)

theorem execPictureOutput_keeps {p : List Instr} {s t : State} {p1 : Nat} {fault : Nat} {d : Decoded} (h : Keeps p s) (e : execPictureOutput p1 fault d s = .next t) : Keeps p t := by
  unfold execPictureOutput at e
  injection e with e
  subst e
  repeat' with_reducible (first | exact h | intro _ | assumption | simp only [Keeps.mk_fields] | apply State.setPipe_keeps | apply State.countLate_keeps | apply State.loseUnit_keeps | apply State.conceal_keeps | apply State.outputPicture_keeps | apply State.deliverUnit_keeps | apply Keeps.ite | apply Keeps.foldl | apply Keeps.foldl_fst | apply Keeps.getD | split)

end Sys2Proof.Machine
end

