-- ==== Sys2Proof/Laws/KeepsTrastos.lean ====
section
/-! SUPPORT. Every operation of Machine/Trastos.lean keeps the queue and the canonical stores. -/

namespace Sys2Proof.Machine

open Sys2Proof

theorem State.beginUnit_keeps {p : List Instr} {s : State} {v : Nat} {a1 : TrsHead} (h : Keeps p s) : Keeps p (State.beginUnit s v a1).1 := by
  unfold State.beginUnit
  repeat' with_reducible (first | exact h | intro _ | assumption | simp only [Keeps.mk_fields] | apply State.countTrs_keeps | apply State.addTerm_keeps | apply State.setUnit_keeps | apply State.showProgress_keeps | apply Keeps.ite | apply Keeps.foldl | apply Keeps.foldl_fst | apply Keeps.getD | split)

theorem State.beginUnit_keeps_eq {p : List Instr} {s t : State} {v : Nat} {a1 : TrsHead} {ret} (e : State.beginUnit s v a1 = (t, ret)) (h : Keeps p s) : Keeps p t := by
  have := State.beginUnit_keeps (p := p) h (s := s) (v := v) (a1 := a1)
  rwa [e] at this

theorem State.trsAccept_keeps {p : List Instr} {s : State} {v : Nat} {a1 : TrsHead} {d : List Byte} {payload : List Byte} (h : Keeps p s) : Keeps p (State.trsAccept s v a1 d payload) := by
  unfold State.trsAccept
  repeat' with_reducible (first | exact h | intro _ | assumption | simp only [Keeps.mk_fields] | apply State.countTrs_keeps | apply State.setStream_keeps | apply State.addTerm_keeps | apply State.setFld_keeps | refine State.beginUnit_keeps_eq ‹_› ?_ | apply State.beginUnit_keeps | apply State.loseUnit_keeps | apply State.deliverUnit_keeps | apply State.setTrsGroup_keeps | apply State.setUnit_keeps | apply Keeps.ite | apply Keeps.foldl | apply Keeps.foldl_fst | apply Keeps.getD | split)

theorem State.trsBad_keeps {p : List Instr} {s : State} {v : Nat} {reason : Nat} (h : Keeps p s) : Keeps p (State.trsBad s v reason) := by
  unfold State.trsBad
  repeat' with_reducible (first | exact h | intro _ | assumption | simp only [Keeps.mk_fields] | apply State.postBad_keeps | apply State.countTrs_keeps | apply Keeps.ite | apply Keeps.foldl | apply Keeps.foldl_fst | apply Keeps.getD | split)

theorem State.trsUnknown_keeps {p : List Instr} {s : State} {p1 : Nat} {a1 : TrsHead} (h : Keeps p s) : Keeps p (State.trsUnknown s p1 a1).1 := by
  unfold State.trsUnknown
  repeat' with_reducible (first | exact h | intro _ | assumption | simp only [Keeps.mk_fields] | apply State.postLimited_keeps | apply State.bump_keeps | apply Keeps.ite | apply Keeps.foldl | apply Keeps.foldl_fst | apply Keeps.getD | split)

theorem State.trsUnknown_keeps_eq {p : List Instr} {s t : State} {p1 : Nat} {a1 : TrsHead} {ret} (e : State.trsUnknown s p1 a1 = (t, ret)) (h : Keeps p s) : Keeps p t := by
  have := State.trsUnknown_keeps (p := p) h (s := s) (p1 := p1) (a1 := a1)
  rwa [e] at this

theorem State.trsArrive_keeps {p : List Instr} {s : State} {p1 : Nat} {d : List Byte} {fragment : Bool} (h : Keeps p s) : Keeps p (State.trsArrive s p1 d fragment).1 := by
  unfold State.trsArrive
  repeat' with_reducible (first | exact h | intro _ | assumption | simp only [Keeps.mk_fields] | apply State.trsBad_keeps | apply State.countTrs_keeps | refine State.trsUnknown_keeps_eq ‹_› ?_ | apply State.trsUnknown_keeps | apply State.trsAccept_keeps | apply State.postLimited_keeps | apply Keeps.ite | apply Keeps.foldl | apply Keeps.foldl_fst | apply Keeps.getD | split)

theorem State.trsArrive_keeps_eq {p : List Instr} {s t : State} {p1 : Nat} {d : List Byte} {fragment : Bool} {ret} (e : State.trsArrive s p1 d fragment = (t, ret)) (h : Keeps p s) : Keeps p t := by
  have := State.trsArrive_keeps (p := p) h (s := s) (p1 := p1) (d := d) (fragment := fragment)
  rwa [e] at this

theorem execHoleLossWaitExpiry_keeps {p : List Instr} {s t : State} {v : Nat} (h : Keeps p s) (e : execHoleLossWaitExpiry v s = .next t) : Keeps p t := by
  unfold execHoleLossWaitExpiry at e
  injection e with e
  subst e
  repeat' with_reducible (first | exact h | intro _ | assumption | simp only [Keeps.mk_fields] | apply State.setStream_keeps | apply State.countTrs_keeps | apply State.loseUnit_keeps | apply Keeps.ite | apply Keeps.foldl | apply Keeps.foldl_fst | apply Keeps.getD | split)

theorem execUnitIncompleteExpiry_keeps {p : List Instr} {s t : State} {v : Nat} {f : Nat} {n : Nat} (h : Keeps p s) (e : execUnitIncompleteExpiry v f n s = .next t) : Keeps p t := by
  unfold execUnitIncompleteExpiry at e
  injection e with e
  subst e
  repeat' with_reducible (first | exact h | intro _ | assumption | simp only [Keeps.mk_fields] | apply State.loseUnit_keeps | apply Keeps.ite | apply Keeps.foldl | apply Keeps.foldl_fst | apply Keeps.getD | split)

theorem execTrsMarkerMissing_keeps {p : List Instr} {s t : State} {g : Nat} (h : Keeps p s) (e : execTrsMarkerMissing g s = .next t) : Keeps p t := by
  unfold execTrsMarkerMissing at e
  injection e with e
  subst e
  repeat' with_reducible (first | exact h | intro _ | assumption | simp only [Keeps.mk_fields] | apply State.setTrsGroup_keeps | apply State.promoteAhead_keeps | apply State.post_keeps | apply Keeps.ite | apply Keeps.foldl | apply Keeps.foldl_fst | apply Keeps.getD | split)

theorem State.startInflate_keeps {p : List Instr} {s : State} {n : Nat} {u : TrsUnit} (h : Keeps p s) : Keeps p (State.startInflate s n u) := by
  unfold State.startInflate
  repeat' with_reducible (first | exact h | intro _ | assumption | simp only [Keeps.mk_fields] | refine State.openUnit_keeps_eq ‹_› ?_ | apply State.loseUnit_keeps | apply State.beginJob_keeps | apply State.setUnit_keeps | apply Keeps.ite | apply Keeps.foldl | apply Keeps.foldl_fst | apply Keeps.getD | split)

theorem execCompressionJobStart_keeps {p : List Instr} {s t : State} {u : Nat} (h : Keeps p s) (e : execCompressionJobStart u s = .next t) : Keeps p t := by
  unfold execCompressionJobStart at e
  injection e with e
  subst e
  repeat' with_reducible (first | exact h | intro _ | assumption | simp only [Keeps.mk_fields] | apply State.applyHeld_keeps | apply State.startInflate_keeps | apply State.beginJob_keeps | apply Keeps.ite | apply Keeps.foldl | apply Keeps.foldl_fst | apply Keeps.getD | split)

theorem State.writeTile_keeps {p : List Instr} {s : State} {u : TrsUnit} {a1 : Wrapper} {body : List Byte} (h : Keeps p s) : Keeps p (State.writeTile s u a1 body) := by
  unfold State.writeTile
  repeat' with_reducible (first | exact h | intro _ | assumption | simp only [Keeps.mk_fields] | apply State.memWrite_keeps | apply State.pendTexels_keeps | apply Keeps.ite | apply Keeps.foldl | apply Keeps.foldl_fst | apply Keeps.getD | split)

theorem State.writeVcf_keeps {p : List Instr} {s : State} {a1 : Wrapper} {body : List Byte} (h : Keeps p s) : Keeps p (State.writeVcf s a1 body) := by
  unfold State.writeVcf
  repeat' with_reducible (first | exact h | intro _ | assumption | simp only [Keeps.mk_fields] | apply State.vcfLoaded_keeps | apply State.vcfRow_keeps | apply Keeps.ite | apply Keeps.foldl | apply Keeps.foldl_fst | apply Keeps.getD | split)

theorem State.geoRecord_keeps {p : List Instr} {s : State} {slot : Nat} {r : List Byte} (h : Keeps p s) : Keeps p (State.geoRecord s slot r).1 := by
  unfold State.geoRecord
  repeat' with_reducible (first | exact h | intro _ | assumption | simp only [Keeps.mk_fields] | refine State.layerGeometry_keeps_eq ‹_› ?_ | apply State.layerGeometry_keeps | apply State.layerColour_keeps | apply Keeps.ite | apply Keeps.foldl | apply Keeps.foldl_fst | apply Keeps.getD | split)

theorem State.geoRecord_keeps_eq {p : List Instr} {s t : State} {slot : Nat} {r : List Byte} {ret} (e : State.geoRecord s slot r = (t, ret)) (h : Keeps p s) : Keeps p t := by
  have := State.geoRecord_keeps (p := p) h (s := s) (slot := slot) (r := r)
  rwa [e] at this

theorem State.geoRecords_keeps {p : List Instr} {s : State} {slot : Nat} {body : List Byte} {n : Nat} (h : Keeps p s) : Keeps p (State.geoRecords s slot body n) := by
  unfold State.geoRecords
  repeat' with_reducible (first | exact h | intro _ | assumption | simp only [Keeps.mk_fields] | refine State.geoRecord_keeps_eq ‹_› ?_ | apply State.geoRecord_keeps | apply State.post_keeps | apply State.countTrs_keeps | apply Keeps.ite | apply Keeps.foldl | apply Keeps.foldl_fst | apply Keeps.getD | split)

theorem execUnitInflated_keeps {p : List Instr} {s t : State} {n : Nat} (h : Keeps p s) (e : execUnitInflated n s = .next t) : Keeps p t := by
  unfold execUnitInflated at e
  injection e with e
  subst e
  repeat' with_reducible (first | exact h | intro _ | assumption | simp only [Keeps.mk_fields] | apply State.freeUnit_keeps | apply State.countOutcome_keeps | apply State.loseUnit_keeps | apply State.deliverUnit_keeps | apply State.writeTile_keeps | apply State.writeVcf_keeps | apply State.geoRecords_keeps | apply Keeps.ite | apply Keeps.foldl | apply Keeps.foldl_fst | apply Keeps.getD | split)

theorem State.unbind_keeps {p : List Instr} {s : State} {v : Nat} (h : Keeps p s) : Keeps p (State.unbind s v) := by
  unfold State.unbind
  repeat' with_reducible (first | exact h | intro _ | assumption | simp only [Keeps.mk_fields] | apply State.countTrs_keeps | apply State.showProgress_keeps | apply State.setStream_keeps | apply State.setReg_keeps | apply Keeps.ite | apply Keeps.foldl | apply Keeps.foldl_fst | apply Keeps.getD | split)

theorem State.clearTrs_keeps {p : List Instr} {s : State} {v : Nat} (h : Keeps p s) : Keeps p (State.clearTrs s v) := by
  unfold State.clearTrs
  repeat' with_reducible (first | exact h | intro _ | assumption | simp only [Keeps.mk_fields] | apply State.setReg_keeps | apply Keeps.ite | apply Keeps.foldl | apply Keeps.foldl_fst | apply Keeps.getD | split)

theorem State.carryTiles_keeps {p : List Instr} {s : State} {n src dst : Nat} {t1 : State} (h : Keeps p t1) :
    Keeps p (State.carryTiles s n src dst t1) := by
  unfold State.carryTiles
  repeat' with_reducible (first | exact h | intro _ | assumption | simp only | apply State.memCopy_keeps | apply Keeps.ite | apply Keeps.foldl)

theorem execStreamBind_keeps {p : List Instr} {s t : State} {id : Nat} {bus : Bus} (h : Keeps p s) (e : execStreamBind id bus s = .next t) : Keeps p t := by
  unfold execStreamBind at e
  injection e with e
  subst e
  repeat' with_reducible (first | exact h | intro _ | assumption | simp only [Keeps.mk_fields] | apply State.runOp_keeps | apply State.refuse_keeps | apply State.finishOne_keeps | apply State.clearTrs_keeps | apply State.unbind_keeps | apply State.setFld_keeps | apply State.setStream_keeps | apply State.carryTiles_keeps | apply State.memCopy_keeps | apply Keeps.ite | apply Keeps.foldl | apply Keeps.foldl_fst | apply Keeps.getD | split)

theorem State.trsShort_keeps {p : List Instr} {s : State} {d : List Byte} (h : Keeps p s) : Keeps p (State.trsShort s d) := by
  unfold State.trsShort
  repeat' with_reducible (first | exact h | intro _ | assumption | simp only [Keeps.mk_fields] | apply State.trsBad_keeps | apply State.countTrs_keeps | apply Keeps.ite | apply Keeps.foldl | apply Keeps.foldl_fst | apply Keeps.getD | split)

theorem State.trsWalk_keeps {p : List Instr} {s : State} {b : Bus} {c : Cmd} {isDram : Bool} {addr bytes a1 a2 : Nat}
    (h : Keeps p s) : Keeps p (State.trsWalk s b c isDram addr bytes a1 a2).1 := by
  induction a1 generalizing s a2 with
  | zero => exact h
  | succ n ih =>
    unfold State.trsWalk
    have read {a l : Nat} : Keeps p (s.srcRead b c isDram a l).1 := State.srcRead_keeps h
    generalize hd : TrsHead.of _ = hd
    clear hd
    extract_lets a fault short na n len
    have hf : Keeps p fault.1 := read
    have hs : ∀ k, Keeps p (short k).1 := fun k => State.trsShort_keeps h
    clear_value a fault short na n len
    repeat' with_reducible (first | exact h | exact hf | exact hs _ | split)
    · rename_i heq
      exact State.srcRead_keeps_eq heq h
    · rename_i e1 _ _ _ e2 _ _ _ e3
      exact (congrArg (fun x => Keeps p x.1) e3).mp (ih (State.trsArrive_keeps_eq e2 (State.srcRead_keeps_eq e1 h)))

theorem State.trsWalk_keeps_eq {p : List Instr} {s t : State} {b : Bus} {c : Cmd} {isDram : Bool} {addr : Nat} {bytes : Nat} {a1 : Nat} {a2 : Nat} {ret} (e : State.trsWalk s b c isDram addr bytes a1 a2 = (t, ret)) (h : Keeps p s) : Keeps p t := by
  have := State.trsWalk_keeps (p := p) h (s := s) (b := b) (c := c) (isDram := isDram) (addr := addr) (bytes := bytes) (a1 := a1) (a2 := a2)
  rwa [e] at this

theorem execTrastosSubmit_keeps {p : List Instr} {s t : State} {id : Nat} {bus : Bus} (h : Keeps p s) (e : execTrastosSubmit id bus s = .next t) : Keeps p t := by
  unfold execTrastosSubmit at e
  injection e with e
  subst e
  repeat' with_reducible (first | exact h | intro _ | assumption | simp only [Keeps.mk_fields] | apply State.runOp_keeps | apply State.refuse_keeps | refine State.trsWalk_keeps_eq ‹_› ?_ | apply State.trsWalk_keeps | apply State.finishAs_keeps | apply Keeps.ite | apply Keeps.foldl | apply Keeps.foldl_fst | apply Keeps.getD | split)

theorem execKekEstablish_keeps {p : List Instr} {s t : State} {id : Nat} {bus : Bus} (h : Keeps p s) (e : execKekEstablish id bus s = .next t) : Keeps p t := by
  unfold execKekEstablish at e
  injection e with e
  subst e
  repeat' with_reducible (first | exact h | intro _ | assumption | simp only [Keeps.mk_fields] | apply State.runOp_keeps | refine State.srcRead_keeps_eq ‹_› ?_ | apply State.srcRead_keeps | apply State.failOne_keeps | apply State.refuse_keeps | apply State.finishOne_keeps | apply Keeps.ite | apply Keeps.foldl | apply Keeps.foldl_fst | apply Keeps.getD | split)

theorem execKeyLoad_keeps {p : List Instr} {s t : State} {id : Nat} {bus : Bus} (h : Keeps p s) (e : execKeyLoad id bus s = .next t) : Keeps p t := by
  unfold execKeyLoad at e
  injection e with e
  subst e
  repeat' with_reducible (first | exact h | intro _ | assumption | simp only [Keeps.mk_fields] | apply State.runOp_keeps | apply State.refuse_keeps | apply State.finishOne_keeps | apply Keeps.ite | apply Keeps.foldl | apply Keeps.foldl_fst | apply Keeps.getD | split)

theorem execKeyPublicRead_keeps {p : List Instr} {s t : State} {id : Nat} {bus : Bus} (h : Keeps p s) (e : execKeyPublicRead id bus s = .next t) : Keeps p t := by
  unfold execKeyPublicRead at e
  injection e with e
  subst e
  repeat' with_reducible (first | exact h | intro _ | assumption | simp only [Keeps.mk_fields] | apply State.runOp_keeps | refine State.dstWrite_keeps_eq ‹_› ?_ | apply State.dstWrite_keeps | apply State.finishOne_keeps | apply State.failOne_keeps | apply Keeps.ite | apply Keeps.foldl | apply Keeps.foldl_fst | apply Keeps.getD | split)

end Sys2Proof.Machine
end

