-- ==== Sys2Proof/Laws/KeepsWall.lean ====
section
/-! SUPPORT. Every operation of Machine/Wall.lean keeps the queue and the canonical stores. -/

namespace Sys2Proof.Machine

open Sys2Proof

theorem State.setWp_keeps {p : List Instr} {s : State} {p1 : Nat} {x : WvlPort} (h : Keeps p s) : Keeps p (State.setWp s p1 x) := by
  unfold State.setWp
  repeat' with_reducible (first | exact h | intro _ | assumption | simp only [Keeps.mk_fields] | apply Keeps.ite | apply Keeps.foldl | apply Keeps.foldl_fst | apply Keeps.getD | split)

theorem State.putWp_keeps {p : List Instr} {s : State} {p1 : Nat} {x : WvlPort} (h : Keeps p s) : Keeps p (State.putWp s p1 x) := by
  unfold State.putWp
  repeat' with_reducible (first | exact h | intro _ | assumption | simp only [Keeps.mk_fields] | apply State.setFld_keeps | apply State.setWp_keeps | apply Keeps.ite | apply Keeps.foldl | apply Keeps.foldl_fst | apply Keeps.getD | split)

theorem State.countWvl_keeps {p : List Instr} {s : State} {p1 : Nat} {k : Nat} {d : Nat} (h : Keeps p s) : Keeps p (State.countWvl s p1 k d) := by
  unfold State.countWvl
  repeat' with_reducible (first | exact h | intro _ | assumption | simp only [Keeps.mk_fields] | apply State.count_keeps | apply Keeps.ite | apply Keeps.foldl | apply Keeps.foldl_fst | apply Keeps.getD | split)

theorem State.sendWvl_keeps {p : List Instr} {s : State} {p1 : Nat} {d : List Byte} (h : Keeps p s) : Keeps p (State.sendWvl s p1 d) := by
  unfold State.sendWvl
  repeat' with_reducible (first | exact h | intro _ | assumption | simp only [Keeps.mk_fields] | apply State.countWvl_keeps | apply State.emit_keeps | apply Keeps.ite | apply Keeps.foldl | apply Keeps.foldl_fst | apply Keeps.getD | split)

theorem State.spendWvl_keeps {p : List Instr} {s : State} {p1 : Nat} {d : List Byte} (h : Keeps p s) : Keeps p (State.spendWvl s p1 d) := by
  unfold State.spendWvl
  repeat' with_reducible (first | exact h | intro _ | assumption | simp only [Keeps.mk_fields] | apply State.sendWvl_keeps | apply State.putWp_keeps | apply Keeps.ite | apply Keeps.foldl | apply Keeps.foldl_fst | apply Keeps.getD | split)

theorem State.stallWvl_keeps {p : List Instr} {s : State} {p1 : Nat} (h : Keeps p s) : Keeps p (State.stallWvl s p1) := by
  unfold State.stallWvl
  repeat' with_reducible (first | exact h | intro _ | assumption | simp only [Keeps.mk_fields] | apply State.countWvl_keeps | apply State.setWp_keeps | apply Keeps.ite | apply Keeps.foldl | apply Keeps.foldl_fst | apply Keeps.getD | split)

theorem State.takeSeq_keeps {p : List Instr} {s : State} {type : Nat} (h : Keeps p s) : Keeps p (State.takeSeq s type).1 := by
  unfold State.takeSeq
  repeat' with_reducible (first | exact h | intro _ | assumption | simp only [Keeps.mk_fields] | apply Keeps.ite | apply Keeps.foldl | apply Keeps.foldl_fst | apply Keeps.getD | split)

theorem State.takeSeq_keeps_eq {p : List Instr} {s t : State} {type : Nat} {ret} (e : State.takeSeq s type = (t, ret)) (h : Keeps p s) : Keeps p t := by
  have := State.takeSeq_keeps (p := p) h (s := s) (type := type)
  rwa [e] at this

theorem State.ownPacket_keeps {p : List Instr} {s : State} {type : Nat} {vc : Nat} {flood : Bool} {deflated : Bool} {payload : List Byte} (h : Keeps p s) : Keeps p (State.ownPacket s type vc flood deflated payload).1 := by
  unfold State.ownPacket
  repeat' with_reducible (first | exact h | intro _ | assumption | simp only [Keeps.mk_fields] | refine State.takeSeq_keeps_eq ‹_› ?_ | apply State.takeSeq_keeps | apply Keeps.ite | apply Keeps.foldl | apply Keeps.foldl_fst | apply Keeps.getD | split)

theorem State.ownPacket_keeps_eq {p : List Instr} {s t : State} {type : Nat} {vc : Nat} {flood : Bool} {deflated : Bool} {payload : List Byte} {ret} (e : State.ownPacket s type vc flood deflated payload = (t, ret)) (h : Keeps p s) : Keeps p t := by
  have := State.ownPacket_keeps (p := p) h (s := s) (type := type) (vc := vc) (flood := flood) (deflated := deflated) (payload := payload)
  rwa [e] at this

theorem State.pump_keeps {p : List Instr} {s : State} {p1 a1 : Nat} (h : Keeps p s) : Keeps p (State.pump s p1 a1) := by
  induction a1 generalizing s with
  | zero => exact h
  | succ n ih =>
    simp only [State.pump]
    split
    · exact h
    · split
      · split
        · exact ih (State.spendWvl_keeps (State.setWp_keeps h))
        · exact State.stallWvl_keeps h
      · split
        · exact h
        · split
          · exact ih (State.countWvl_keeps (State.spendWvl_keeps (State.ownPacket_keeps (State.setWp_keeps h))))
          · exact State.stallWvl_keeps h
      · exact h

theorem State.pumpAll_keeps {p : List Instr} {s : State} {p1 : Nat} (h : Keeps p s) : Keeps p (State.pumpAll s p1) := by
  unfold State.pumpAll
  repeat' with_reducible (first | exact h | intro _ | assumption | simp only [Keeps.mk_fields] | apply State.pump_keeps | apply Keeps.ite | apply Keeps.foldl | apply Keeps.foldl_fst | apply Keeps.getD | split)

theorem State.control_keeps {p : List Instr} {s : State} {p1 : Nat} {d : List Byte} (h : Keeps p s) : Keeps p (State.control s p1 d) := by
  unfold State.control
  repeat' with_reducible (first | exact h | intro _ | assumption | simp only [Keeps.mk_fields] | apply State.pumpAll_keeps | apply State.setWp_keeps | apply Keeps.ite | apply Keeps.foldl | apply Keeps.foldl_fst | apply Keeps.getD | split)

theorem State.spread_keeps {p : List Instr} {s : State} {but : Nat} {d : List Byte} (h : Keeps p s) : Keeps p (State.spread s but d) := by
  unfold State.spread
  repeat' with_reducible (first | exact h | intro _ | assumption | simp only [Keeps.mk_fields] | apply State.control_keeps | apply Keeps.ite | apply Keeps.foldl | apply Keeps.foldl_fst | apply Keeps.getD | split)

theorem State.flood_keeps {p : List Instr} {s : State} {type : Nat} {payload : List Byte} (h : Keeps p s) : Keeps p (State.flood s type payload) := by
  unfold State.flood
  repeat' with_reducible (first | exact h | intro _ | assumption | simp only [Keeps.mk_fields] | refine State.ownPacket_keeps_eq ‹_› ?_ | apply State.ownPacket_keeps | apply State.spread_keeps | apply Keeps.ite | apply Keeps.foldl | apply Keeps.foldl_fst | apply Keeps.getD | split)

theorem State.setLock_keeps {p : List Instr} {s : State} {st : Nat} {cause : Nat} (h : Keeps p s) : Keeps p (State.setLock s st cause) := by
  unfold State.setLock
  repeat' with_reducible (first | exact h | intro _ | assumption | simp only [Keeps.mk_fields] | apply State.post_keeps | apply State.setFld_keeps | apply Keeps.ite | apply Keeps.foldl | apply Keeps.foldl_fst | apply Keeps.getD | split)

theorem State.aloneGroups_keeps {p : List Instr} {s : State} {on : Bool} (h : Keeps p s) : Keeps p (State.aloneGroups s on) := by
  unfold State.aloneGroups
  repeat' with_reducible (first | exact h | intro _ | assumption | simp only [Keeps.mk_fields] | apply State.setFld_keeps | apply Keeps.ite | apply Keeps.foldl | apply Keeps.foldl_fst | apply Keeps.getD | split)

theorem State.goAlone_keeps {p : List Instr} {s : State} (h : Keeps p s) : Keeps p (State.goAlone s) := by
  unfold State.goAlone
  repeat' with_reducible (first | exact h | intro _ | assumption | simp only [Keeps.mk_fields] | apply State.post_keeps | apply State.aloneGroups_keeps | apply State.setFld_keeps | apply State.setLock_keeps | apply Keeps.ite | apply Keeps.foldl | apply Keeps.foldl_fst | apply Keeps.getD | split)

theorem State.reroute_keeps {p : List Instr} {s : State} (h : Keeps p s) : Keeps p (State.reroute s) := by
  unfold State.reroute
  repeat' with_reducible (first | exact h | intro _ | assumption | simp only [Keeps.mk_fields] | apply State.setFld_keeps | apply State.setWp_keeps | apply State.goAlone_keeps | apply Keeps.ite | apply Keeps.foldl | apply Keeps.foldl_fst | apply Keeps.getD | split)

theorem State.postPort_keeps {p : List Instr} {s : State} {p1 : Nat} (h : Keeps p s) : Keeps p (State.postPort s p1) := by
  unfold State.postPort
  repeat' with_reducible (first | exact h | intro _ | assumption | simp only [Keeps.mk_fields] | apply State.post_keeps | apply Keeps.ite | apply Keeps.foldl | apply Keeps.foldl_fst | apply Keeps.getD | split)

theorem State.portLeaves_keeps {p : List Instr} {s : State} {p1 : Nat} (h : Keeps p s) : Keeps p (State.portLeaves s p1) := by
  unfold State.portLeaves
  repeat' with_reducible (first | exact h | intro _ | assumption | simp only [Keeps.mk_fields] | apply State.countWvl_keeps | apply State.putWp_keeps | apply State.reroute_keeps | apply State.setFld_keeps | apply State.postPort_keeps | apply State.post_keeps | apply Keeps.ite | apply Keeps.foldl | apply Keeps.foldl_fst | apply Keeps.getD | split)

theorem State.portEnters_keeps {p : List Instr} {s : State} {p1 : Nat} (h : Keeps p s) : Keeps p (State.portEnters s p1) := by
  unfold State.portEnters
  repeat' with_reducible (first | exact h | intro _ | assumption | simp only [Keeps.mk_fields] | apply State.putWp_keeps | apply State.postPort_keeps | apply State.reroute_keeps | apply State.setFld_keeps | apply Keeps.ite | apply Keeps.foldl | apply Keeps.foldl_fst | apply Keeps.getD | split)

theorem State.refreshPort_keeps {p : List Instr} {s : State} {p1 : Nat} (h : Keeps p s) : Keeps p (State.refreshPort s p1) := by
  unfold State.refreshPort
  repeat' with_reducible (first | exact h | intro _ | assumption | simp only [Keeps.mk_fields] | apply State.setFld_keeps | apply State.portEnters_keeps | apply State.portLeaves_keeps | apply State.postPort_keeps | apply Keeps.ite | apply Keeps.foldl | apply Keeps.foldl_fst | apply Keeps.getD | split)

theorem State.messageWvl_keeps {p : List Instr} {s : State} {p1 : Nat} {type : Nat} {payload : List Byte} (h : Keeps p s) : Keeps p (State.messageWvl s p1 type payload) := by
  unfold State.messageWvl
  repeat' with_reducible (first | exact h | intro _ | assumption | simp only [Keeps.mk_fields] | apply State.emit_keeps | apply Keeps.ite | apply Keeps.foldl | apply Keeps.foldl_fst | apply Keeps.getD | split)

theorem State.trainWvl_keeps {p : List Instr} {s : State} {p1 : Nat} {m : Nat} (h : Keeps p s) : Keeps p (State.trainWvl s p1 m) := by
  unfold State.trainWvl
  repeat' with_reducible (first | exact h | intro _ | assumption | simp only [Keeps.mk_fields] | apply State.setWp_keeps | apply State.trainLane_keeps | apply Keeps.ite | apply Keeps.foldl | apply Keeps.foldl_fst | apply Keeps.getD | split)

theorem State.mapWvl_keeps {p : List Instr} {s : State} {p1 : Nat} {mask : Nat} (h : Keeps p s) : Keeps p (State.mapWvl s p1 mask) := by
  unfold State.mapWvl
  repeat' with_reducible (first | exact h | intro _ | assumption | simp only [Keeps.mk_fields] | apply State.setWp_keeps | apply State.messageWvl_keeps | apply Keeps.ite | apply Keeps.foldl | apply Keeps.foldl_fst | apply Keeps.getD | split)

theorem State.wvlTrained_keeps {p : List Instr} {s : State} {p1 : Nat} {k : Nat} (h : Keeps p s) : Keeps p (State.wvlTrained s p1 k) := by
  unfold State.wvlTrained
  repeat' with_reducible (first | exact h | intro _ | assumption | simp only [Keeps.mk_fields] | apply State.recordTaps_keeps | apply State.laneTrained_keeps | apply State.setWp_keeps | apply State.mapWvl_keeps | apply State.refreshPort_keeps | apply State.setLane_keeps | apply Keeps.ite | apply Keeps.foldl | apply Keeps.foldl_fst | apply Keeps.getD | split)

theorem execWorvelTrain_keeps {p : List Instr} {s t : State} {p1 : Nat} {lane : Nat} {taps : Nat} {ctl : Nat} {own : Option (Nat × Nat)} {inverted : Bool} (h : Keeps p s) (e : execWorvelTrain p1 lane taps ctl own inverted s = .next t) : Keeps p t := by
  unfold execWorvelTrain at e
  injection e with e
  subst e
  repeat' with_reducible (first | exact h | intro _ | assumption | simp only [Keeps.mk_fields] | refine State.trainMessage_keeps_eq ‹_› ?_ | apply State.trainMessage_keeps | apply State.messageWvl_keeps | apply State.setFld_keeps | apply State.setWp_keeps | apply State.wvlTrained_keeps | apply Keeps.ite | apply Keeps.foldl | apply Keeps.foldl_fst | apply Keeps.getD | split)

theorem execWorvelLaneMap_keeps {p : List Instr} {s t : State} {p1 : Nat} {mask : Nat} (h : Keeps p s) (e : execWorvelLaneMap p1 mask s = .next t) : Keeps p t := by
  unfold execWorvelLaneMap at e
  injection e with e
  subst e
  repeat' with_reducible (first | exact h | intro _ | assumption | simp only [Keeps.mk_fields] | apply State.refreshPort_keeps | apply State.setWp_keeps | apply Keeps.ite | apply Keeps.foldl | apply Keeps.foldl_fst | apply Keeps.getD | split)

theorem State.laneWvlFails_keeps {p : List Instr} {s : State} {p1 : Nat} {k : Nat} (h : Keeps p s) : Keeps p (State.laneWvlFails s p1 k) := by
  unfold State.laneWvlFails
  repeat' with_reducible (first | exact h | intro _ | assumption | simp only [Keeps.mk_fields] | apply State.mapWvl_keeps | apply Keeps.ite | apply Keeps.foldl | apply Keeps.foldl_fst | apply Keeps.getD | split)

theorem State.applyWvlMap_keeps {p : List Instr} {s : State} {p1 : Nat} (h : Keeps p s) : Keeps p (State.applyWvlMap s p1) := by
  unfold State.applyWvlMap
  repeat' with_reducible (first | exact h | intro _ | assumption | simp only [Keeps.mk_fields] | apply State.setWp_keeps | apply State.setLane_keeps | apply State.refreshPort_keeps | apply State.trainWvl_keeps | apply State.countWvl_keeps | apply Keeps.ite | apply Keeps.foldl | apply Keeps.foldl_fst | apply Keeps.getD | split)

theorem execLaneRemoval_keeps {p : List Instr} {s t : State} {worvel : Bool} {q : Nat} {p1 : Nat} (h : Keeps p s) (e : execLaneRemoval worvel q p1 s = .next t) : Keeps p t := by
  unfold execLaneRemoval at e
  injection e with e
  subst e
  repeat' with_reducible (first | exact h | intro _ | assumption | simp only [Keeps.mk_fields] | apply State.laneWvlFails_keeps | apply State.lanePanelFails_keeps | apply Keeps.ite | apply Keeps.foldl | apply Keeps.foldl_fst | apply Keeps.getD | split)

theorem execLaneMapApply_keeps {p : List Instr} {s t : State} {worvel : Bool} {q : Nat} {row : Nat} {written : Nat} (h : Keeps p s) (e : execLaneMapApply worvel q row written s = .next t) : Keeps p t := by
  unfold execLaneMapApply at e
  injection e with e
  subst e
  repeat' with_reducible (first | exact h | intro _ | assumption | simp only [Keeps.mk_fields] | apply State.applyWvlMap_keeps | apply State.applyMap_keeps | apply Keeps.ite | apply Keeps.foldl | apply Keeps.foldl_fst | apply Keeps.getD | split)

theorem execTrainingLimitExpiry_keeps {p : List Instr} {s t : State} {who : TrainLimit} (h : Keeps p s) (e : execTrainingLimitExpiry who s = .next t) : Keeps p t := by
  unfold execTrainingLimitExpiry at e
  injection e with e
  subst e
  repeat' with_reducible (first | exact h | intro _ | assumption | simp only [Keeps.mk_fields] | apply State.panelTrainingLimit_keeps | apply State.laneFailed_keeps | apply State.setWp_keeps | apply Keeps.ite | apply Keeps.foldl | apply Keeps.foldl_fst | apply Keeps.getD | split)

theorem execHaltedRetryExpiry_keeps {p : List Instr} {s t : State} {port : Option Nat} (h : Keeps p s) (e : execHaltedRetryExpiry port s = .next t) : Keeps p t := by
  unfold execHaltedRetryExpiry at e
  injection e with e
  subst e
  repeat' with_reducible (first | exact h | intro _ | assumption | simp only [Keeps.mk_fields] | apply State.panelRetry_keeps | apply State.trainWvl_keeps | apply Keeps.ite | apply Keeps.foldl | apply Keeps.foldl_fst | apply Keeps.getD | split)

theorem execWorvelPortLoss_keeps {p : List Instr} {s t : State} {p1 : Nat} (h : Keeps p s) (e : execWorvelPortLoss p1 s = .next t) : Keeps p t := by
  unfold execWorvelPortLoss at e
  injection e with e
  subst e
  repeat' with_reducible (first | exact h | intro _ | assumption | simp only [Keeps.mk_fields] | apply State.setWp_keeps | apply State.refreshPort_keeps | apply State.trainWvl_keeps | apply State.setFld_keeps | apply Keeps.ite | apply Keeps.foldl | apply Keeps.foldl_fst | apply Keeps.getD | split)

theorem execHelloSend_keeps {p : List Instr} {s t : State} {p1 : Nat} (h : Keeps p s) (e : execHelloSend p1 s = .next t) : Keeps p t := by
  unfold execHelloSend at e
  injection e with e
  subst e
  repeat' with_reducible (first | exact h | intro _ | assumption | simp only [Keeps.mk_fields] | refine State.ownPacket_keeps_eq ‹_› ?_ | apply State.ownPacket_keeps | apply State.control_keeps | apply State.sendWvl_keeps | apply Keeps.ite | apply Keeps.foldl | apply Keeps.foldl_fst | apply Keeps.getD | split)

theorem State.drainWvl_keeps {p : List Instr} {s : State} {p1 : Nat} {n : Nat} (h : Keeps p s) : Keeps p (State.drainWvl s p1 n) := by
  unfold State.drainWvl
  repeat' with_reducible (first | exact h | intro _ | assumption | simp only [Keeps.mk_fields] | apply State.setWp_keeps | apply State.messageWvl_keeps | apply Keeps.ite | apply Keeps.foldl | apply Keeps.foldl_fst | apply Keeps.getD | split)

theorem State.helloIn_keeps {p : List Instr} {s : State} {p1 : Nat} {d : List Byte} (h : Keeps p s) : Keeps p (State.helloIn s p1 d) := by
  unfold State.helloIn
  repeat' with_reducible (first | exact h | intro _ | assumption | simp only [Keeps.mk_fields] | apply State.setFld_keeps | apply State.refreshPort_keeps | apply State.setWp_keeps | apply State.reroute_keeps | apply State.post_keeps | apply Keeps.ite | apply Keeps.foldl | apply Keeps.foldl_fst | apply Keeps.getD | split)

theorem execHelloReceived_keeps {p : List Instr} {s t : State} {p1 : Nat} {payload : List Byte} (h : Keeps p s) (e : execHelloReceived p1 payload s = .next t) : Keeps p t := by
  unfold execHelloReceived at e
  injection e with e
  subst e
  repeat' with_reducible (first | exact h | intro _ | assumption | simp only [Keeps.mk_fields] | apply State.helloIn_keeps | apply State.drainWvl_keeps | apply State.countWvl_keeps | apply Keeps.ite | apply Keeps.foldl | apply Keeps.foldl_fst | apply Keeps.getD | split)

theorem execWorvelCredit_keeps {p : List Instr} {s t : State} {p1 : Nat} {count : Nat} (h : Keeps p s) (e : execWorvelCredit p1 count s = .next t) : Keeps p t := by
  unfold execWorvelCredit at e
  injection e with e
  subst e
  repeat' with_reducible (first | exact h | intro _ | assumption | simp only [Keeps.mk_fields] | apply State.pumpAll_keeps | apply State.putWp_keeps | apply Keeps.ite | apply Keeps.foldl | apply Keeps.foldl_fst | apply Keeps.getD | split)

theorem execTimeExchange_keeps {p : List Instr} {s t : State} {p1 : Nat} {cTx : Nat} {tTx : Nat} {cRx : Nat} {tRx : Nat} (h : Keeps p s) (e : execTimeExchange p1 cTx tTx cRx tRx s = .next t) : Keeps p t := by
  unfold execTimeExchange at e
  injection e with e
  subst e
  repeat' with_reducible (first | exact h | intro _ | assumption | simp only [Keeps.mk_fields] | apply State.setWp_keeps | refine State.ownPacket_keeps_eq ‹_› ?_ | apply State.ownPacket_keeps | apply State.control_keeps | apply Keeps.ite | apply Keeps.foldl | apply Keeps.foldl_fst | apply Keeps.getD | split)

theorem State.timeIn_keeps {p : List Instr} {s : State} {p1 : Nat} {d : List Byte} (h : Keeps p s) : Keeps p (State.timeIn s p1 d) := by
  unfold State.timeIn
  repeat' with_reducible (first | exact h | intro _ | assumption | simp only [Keeps.mk_fields] | apply State.setWp_keeps | apply Keeps.ite | apply Keeps.foldl | apply Keeps.foldl_fst | apply Keeps.getD | split)

theorem State.judgeLock_keeps {p : List Instr} {s : State} (h : Keeps p s) : Keeps p (State.judgeLock s) := by
  unfold State.judgeLock
  repeat' with_reducible (first | exact h | intro _ | assumption | simp only [Keeps.mk_fields] | apply State.setLock_keeps | apply Keeps.ite | apply Keeps.foldl | apply Keeps.foldl_fst | apply Keeps.getD | split)

theorem State.wallTe_keeps {p : List Instr} {s : State} {g : Nat} {t1 : Nat} {pin : Bool} (h : Keeps p s) : Keeps p (State.wallTe s g t1 pin) := by
  unfold State.wallTe
  repeat' with_reducible (first | exact h | intro _ | assumption | simp only [Keeps.mk_fields] | apply State.post_keeps | apply State.judgeLock_keeps | apply State.setFld_keeps | apply Keeps.ite | apply Keeps.foldl | apply Keeps.foldl_fst | apply Keeps.getD | split)

theorem State.showMembers_keeps {p : List Instr} {s : State} (h : Keeps p s) : Keeps p (State.showMembers s) := by
  unfold State.showMembers
  repeat' with_reducible (first | exact h | intro _ | assumption | simp only [Keeps.mk_fields] | apply State.setFld_keeps | apply Keeps.ite | apply Keeps.foldl | apply Keeps.foldl_fst | apply Keeps.getD | split)

theorem State.checkMember_keeps {p : List Instr} {s : State} {m : Nat} (h : Keeps p s) : Keeps p (State.checkMember s m) := by
  unfold State.checkMember
  repeat' with_reducible (first | exact h | intro _ | assumption | simp only [Keeps.mk_fields] | apply State.postLimited_keeps | apply Keeps.ite | apply Keeps.foldl | apply Keeps.foldl_fst | apply Keeps.getD | split)

theorem State.summaryIn_keeps {p : List Instr} {s : State} {m : Nat} {d : List Byte} (h : Keeps p s) : Keeps p (State.summaryIn s m d) := by
  unfold State.summaryIn
  repeat' with_reducible (first | exact h | intro _ | assumption | simp only [Keeps.mk_fields] | apply State.setReg_keeps | apply State.post_keeps | apply State.showMembers_keeps | apply State.checkMember_keeps | apply Keeps.ite | apply Keeps.foldl | apply Keeps.foldl_fst | apply Keeps.getD | split)

theorem execMemberTimeout_keeps {p : List Instr} {s t : State} {m : Nat} (h : Keeps p s) (e : execMemberTimeout m s = .next t) : Keeps p t := by
  unfold execMemberTimeout at e
  injection e with e
  subst e
  repeat' with_reducible (first | exact h | intro _ | assumption | simp only [Keeps.mk_fields] | apply State.post_keeps | apply State.showMembers_keeps | apply State.setReg_keeps | apply State.reroute_keeps | apply Keeps.ite | apply Keeps.foldl | apply Keeps.foldl_fst | apply Keeps.getD | split)

theorem State.voteIn_keeps {p : List Instr} {s : State} {v : Vote} (h : Keeps p s) : Keeps p (State.voteIn s v) := by
  unfold State.voteIn
  repeat' with_reducible (first | exact h | intro _ | assumption | simp only [Keeps.mk_fields] | apply Keeps.ite | apply Keeps.foldl | apply Keeps.foldl_fst | apply Keeps.getD | split)

theorem State.castVote_keeps {p : List Instr} {s : State} {n : Nat} {g : Nat} (h : Keeps p s) : Keeps p (State.castVote s n g) := by
  unfold State.castVote
  repeat' with_reducible (first | exact h | intro _ | assumption | simp only [Keeps.mk_fields] | apply State.flood_keeps | apply State.voteIn_keeps | apply Keeps.ite | apply Keeps.foldl | apply Keeps.foldl_fst | apply Keeps.getD | split)

theorem execVoteCutoff_keeps {p : List Instr} {s t : State} {n : Nat} (h : Keeps p s) (e : execVoteCutoff n s = .next t) : Keeps p t := by
  unfold execVoteCutoff at e
  injection e with e
  subst e
  repeat' with_reducible (first | exact h | intro _ | assumption | simp only [Keeps.mk_fields] | apply State.castVote_keeps | apply Keeps.ite | apply Keeps.foldl | apply Keeps.foldl_fst | apply Keeps.getD | split)

theorem State.decisionIn_keeps {p : List Instr} {s : State} {g : Nat} {clamp : Bool} {notReady : Nat} {frame : Nat} {time : Nat} {n : Nat} (h : Keeps p s) : Keeps p (State.decisionIn s g clamp notReady frame time n) := by
  unfold State.decisionIn
  repeat' with_reducible (first | exact h | intro _ | assumption | simp only [Keeps.mk_fields] | apply State.setFld_keeps | apply Keeps.ite | apply Keeps.foldl | apply Keeps.foldl_fst | apply Keeps.getD | split)

theorem State.decideGroup_keeps {p : List Instr} {s : State} {n : Nat} {g : Nat} (h : Keeps p s) : Keeps p (State.decideGroup s n g) := by
  unfold State.decideGroup
  repeat' with_reducible (first | exact h | intro _ | assumption | simp only [Keeps.mk_fields] | apply State.flood_keeps | apply State.decisionIn_keeps | apply Keeps.ite | apply Keeps.foldl | apply Keeps.foldl_fst | apply Keeps.getD | split)

theorem execMasterDecide_keeps {p : List Instr} {s t : State} {n : Nat} (h : Keeps p s) (e : execMasterDecide n s = .next t) : Keeps p t := by
  unfold execMasterDecide at e
  injection e with e
  subst e
  repeat' with_reducible (first | exact h | intro _ | assumption | simp only [Keeps.mk_fields] | apply State.decideGroup_keeps | apply Keeps.ite | apply Keeps.foldl | apply Keeps.foldl_fst | apply Keeps.getD | split)

theorem execWallDecisionLost_keeps {p : List Instr} {s t : State} {g : Nat} {n : Nat} (h : Keeps p s) (e : execWallDecisionLost g n s = .next t) : Keeps p t := by
  unfold execWallDecisionLost at e
  injection e with e
  subst e
  repeat' with_reducible (first | exact h | intro _ | assumption | simp only [Keeps.mk_fields] | apply State.post_keeps | apply Keeps.ite | apply Keeps.foldl | apply Keeps.foldl_fst | apply Keeps.getD | split)

theorem State.relayAt_keeps {p : List Instr} {s : State} {d : List Byte} {p1 : Nat} (h : Keeps p s) : Keeps p (State.relayAt s d p1) := by
  unfold State.relayAt
  repeat' with_reducible (first | exact h | intro _ | assumption | simp only [Keeps.mk_fields] | apply State.addTerm_keeps | apply State.countWvl_keeps | apply State.postLimited_keeps | apply State.setWp_keeps | apply State.offerJob_keeps | apply State.pumpAll_keeps | apply Keeps.ite | apply Keeps.foldl | apply Keeps.foldl_fst | apply Keeps.getD | split)

theorem State.relayScarf_keeps {p : List Instr} {s : State} {v : Nat} {d : List Byte} (h : Keeps p s) : Keeps p (State.relayScarf s v d) := by
  unfold State.relayScarf
  repeat' with_reducible (first | exact h | intro _ | assumption | simp only [Keeps.mk_fields] | apply State.relayAt_keeps | apply Keeps.ite | apply Keeps.foldl | apply Keeps.foldl_fst | apply Keeps.getD | split)

theorem State.relayForm_keeps {p : List Instr} {s : State} {p1 : Nat} {id : Nat} {out : Option (List Byte)} (h : Keeps p s) : Keeps p (State.relayForm s p1 id out) := by
  unfold State.relayForm
  repeat' with_reducible (first | exact h | intro _ | assumption | simp only [Keeps.mk_fields] | apply State.pumpAll_keeps | apply State.setWp_keeps | apply Keeps.ite | apply Keeps.foldl | apply Keeps.foldl_fst | apply Keeps.getD | split)

theorem execScarfDeflateWaitExpiry_keeps {p : List Instr} {s t : State} {p1 : Nat} (h : Keeps p s) (e : execScarfDeflateWaitExpiry p1 s = .next t) : Keeps p t := by
  unfold execScarfDeflateWaitExpiry at e
  injection e with e
  subst e
  repeat' with_reducible (first | exact h | intro _ | assumption | simp only [Keeps.mk_fields] | apply State.relayForm_keeps | apply Keeps.ite | apply Keeps.foldl | apply Keeps.foldl_fst | apply Keeps.getD | split)

theorem State.payloadIn_keeps {p : List Instr} {s : State} {p1 : Nat} {type : Nat} {origin : Nat} {deflated : Bool} {d : List Byte} (h : Keeps p s) : Keeps p (State.payloadIn s p1 type origin deflated d) := by
  unfold State.payloadIn
  repeat' with_reducible (first | exact h | intro _ | assumption | simp only [Keeps.mk_fields] | apply State.helloIn_keeps | apply State.timeIn_keeps | apply State.voteIn_keeps | apply State.decisionIn_keeps | apply State.summaryIn_keeps | apply State.offerJob_keeps | refine State.trsArrive_keeps_eq ‹_› ?_ | apply State.trsArrive_keeps | apply Keeps.ite | apply Keeps.foldl | apply Keeps.foldl_fst | apply Keeps.getD | split)

theorem execWorvelPacketReceived_keeps {p : List Instr} {s t : State} {p1 : Nat} {bytes : List Byte} (h : Keeps p s) (e : execWorvelPacketReceived p1 bytes s = .next t) : Keeps p t := by
  unfold execWorvelPacketReceived at e
  injection e with e
  subst e
  repeat' with_reducible (first | exact h | intro _ | assumption | simp only [Keeps.mk_fields] | apply State.drainWvl_keeps | apply State.countWvl_keeps | apply State.spread_keeps | apply State.payloadIn_keeps | apply Keeps.ite | apply Keeps.foldl | apply Keeps.foldl_fst | apply Keeps.getD | split)

theorem State.setWvlDomain_keeps {p : List Instr} {s : State} {on : Bool} (h : Keeps p s) : Keeps p (State.setWvlDomain s on) := by
  unfold State.setWvlDomain
  repeat' with_reducible (first | exact h | intro _ | assumption | simp only [Keeps.mk_fields] | apply State.setFld_keeps | apply State.setDomain_keeps | apply Keeps.ite | apply Keeps.foldl | apply Keeps.foldl_fst | apply Keeps.getD | split)

theorem State.setPort_keeps {p : List Instr} {s : State} {on : Bool} {p1 : Nat} (h : Keeps p s) : Keeps p (State.setPort s on p1) := by
  unfold State.setPort
  repeat' with_reducible (first | exact h | intro _ | assumption | simp only [Keeps.mk_fields] | apply State.setFld_keeps | apply State.refreshPort_keeps | apply State.trainWvl_keeps | apply State.setWp_keeps | apply State.setLane_keeps | apply Keeps.ite | apply Keeps.foldl | apply Keeps.foldl_fst | apply Keeps.getD | split)

theorem State.clearWall_keeps {p : List Instr} {s : State} {base : Option Nat} (h : Keeps p s) : Keeps p (State.clearWall s base) := by
  unfold State.clearWall
  repeat' with_reducible (first | exact h | intro _ | assumption | simp only [Keeps.mk_fields] | apply State.setReg_keeps | apply Keeps.ite | apply Keeps.foldl | apply Keeps.foldl_fst | apply Keeps.getD | split)

theorem execWallConfigure_keeps {p : List Instr} {s t : State} {id : Nat} {bus : Bus} (h : Keeps p s) (e : execWallConfigure id bus s = .next t) : Keeps p t := by
  unfold execWallConfigure at e
  injection e with e
  subst e
  repeat' with_reducible (first | exact h | intro _ | assumption | simp only [Keeps.mk_fields] | apply State.runOp_keeps | apply State.refuse_keeps | apply State.setFld_keeps | apply State.setWvlDomain_keeps | apply State.clearWall_keeps | apply State.setPort_keeps | apply State.aloneGroups_keeps | apply State.finishOne_keeps | apply State.reroute_keeps | apply State.setReg_keeps | apply Keeps.ite | apply Keeps.foldl | apply Keeps.foldl_fst | apply Keeps.getD | split)

end Sys2Proof.Machine
end

