-- ==== Sys2Proof/Laws/KeepsEther.lean ====
section
/-! SUPPORT. Every operation of Machine/Ether.lean keeps the queue and the canonical stores. -/

namespace Sys2Proof.Machine

open Sys2Proof

theorem State.setEp_keeps {p : List Instr} {s : State} {p1 : Nat} {x : EthPort} (h : Keeps p s) : Keeps p (State.setEp s p1 x) := by
  unfold State.setEp
  repeat' with_reducible (first | exact h | intro _ | assumption | simp only [Keeps.mk_fields] | apply Keeps.ite | apply Keeps.foldl | apply Keeps.foldl_fst | apply Keeps.getD | split)

theorem State.countEth_keeps {p : List Instr} {s : State} {p1 : Nat} {k : Nat} {d : Nat} (h : Keeps p s) : Keeps p (State.countEth s p1 k d) := by
  unfold State.countEth
  repeat' with_reducible (first | exact h | intro _ | assumption | simp only [Keeps.mk_fields] | apply State.count_keeps | apply Keeps.ite | apply Keeps.foldl | apply Keeps.foldl_fst | apply Keeps.getD | split)

theorem State.ethDown_keeps {p : List Instr} {s : State} {p1 : Nat} (h : Keeps p s) : Keeps p (State.ethDown s p1) := by
  unfold State.ethDown
  repeat' with_reducible (first | exact h | intro _ | assumption | simp only [Keeps.mk_fields] | apply State.setFld_keeps | apply State.setEp_keeps | apply State.post_keeps | apply Keeps.ite | apply Keeps.foldl | apply Keeps.foldl_fst | apply Keeps.getD | split)

theorem State.ethTrain_keeps {p : List Instr} {s : State} {p1 : Nat} {mode : Nat} (h : Keeps p s) : Keeps p (State.ethTrain s p1 mode) := by
  unfold State.ethTrain
  repeat' with_reducible (first | exact h | intro _ | assumption | simp only [Keeps.mk_fields] | apply State.setLane_keeps | apply State.trainLane_keeps | apply Keeps.ite | apply Keeps.foldl | apply Keeps.foldl_fst | apply Keeps.getD | split)

theorem State.setEthMode_keeps {p : List Instr} {s : State} {p1 : Nat} {mode : Nat} (h : Keeps p s) : Keeps p (State.setEthMode s p1 mode) := by
  unfold State.setEthMode
  repeat' with_reducible (first | exact h | intro _ | assumption | simp only [Keeps.mk_fields] | apply State.ethTrain_keeps | apply State.ethDown_keeps | apply State.setFld_keeps | apply Keeps.ite | apply Keeps.foldl | apply Keeps.foldl_fst | apply Keeps.getD | split)

theorem execEthLinkState_keeps {p : List Instr} {s t : State} {p1 : Nat} {up : Bool} {mode : Nat} {lanes : LinkLanes} (h : Keeps p s) (e : execEthLinkState p1 up mode lanes s = .next t) : Keeps p t := by
  unfold execEthLinkState at e
  injection e with e
  subst e
  repeat' with_reducible (first | exact h | intro _ | assumption | simp only [Keeps.mk_fields] | apply State.ethTrain_keeps | apply State.ethDown_keeps | apply State.setFld_keeps | apply State.standardTaps_keeps | apply State.setCoding_keeps | apply State.setLane_keeps | apply State.laneTrained_keeps | apply State.post_keeps | apply Keeps.ite | apply Keeps.foldl | apply Keeps.foldl_fst | apply Keeps.getD | split)

theorem execPreemptVerifyRetry_keeps {p : List Instr} {s t : State} {p1 : Nat} {ok : Bool} (h : Keeps p s) (e : execPreemptVerifyRetry p1 ok s = .next t) : Keeps p t := by
  unfold execPreemptVerifyRetry at e
  injection e with e
  subst e
  repeat' with_reducible (first | exact h | intro _ | assumption | simp only [Keeps.mk_fields] | apply State.post_keeps | apply State.setFld_keeps | apply State.setEp_keeps | apply Keeps.ite | apply Keeps.foldl | apply Keeps.foldl_fst | apply Keeps.getD | split)

theorem State.pauseClass_keeps {p : List Instr} {s : State} {p1 : Nat} {c : Nat} {quanta : Nat} (h : Keeps p s) : Keeps p (State.pauseClass s p1 c quanta) := by
  unfold State.pauseClass
  repeat' with_reducible (first | exact h | intro _ | assumption | simp only [Keeps.mk_fields] | apply State.setEp_keeps | apply Keeps.ite | apply Keeps.foldl | apply Keeps.foldl_fst | apply Keeps.getD | split)

theorem execPauseReceived_keeps {p : List Instr} {s t : State} {p1 : Nat} {pause : Option Nat} {pfc : List (Nat × Nat)} (h : Keeps p s) (e : execPauseReceived p1 pause pfc s = .next t) : Keeps p t := by
  unfold execPauseReceived at e
  injection e with e
  subst e
  repeat' with_reducible (first | exact h | intro _ | assumption | simp only [Keeps.mk_fields] | apply State.pauseClass_keeps | apply State.bumpBy_keeps | apply Keeps.ite | apply Keeps.foldl | apply Keeps.foldl_fst | apply Keeps.getD | split)

theorem State.trsFromNet_keeps {p : List Instr} {s : State} {p1 : Nat} {d : List Byte} {fragment : Bool} (h : Keeps p s) : Keeps p (State.trsFromNet s p1 d fragment) := by
  unfold State.trsFromNet
  repeat' with_reducible (first | exact h | intro _ | assumption | simp only [Keeps.mk_fields] | refine State.trsArrive_keeps_eq ‹_› ?_ | apply State.trsArrive_keeps | apply State.relayScarf_keeps | apply Keeps.ite | apply Keeps.foldl | apply Keeps.foldl_fst | apply Keeps.getD | split)

theorem execTrastosPacketArrival_keeps {p : List Instr} {s t : State} {source : Nat} {bytes : List Byte} {fragment : Bool} (h : Keeps p s) (e : execTrastosPacketArrival source bytes fragment s = .next t) : Keeps p t := by
  unfold execTrastosPacketArrival at e
  injection e with e
  subst e
  repeat' with_reducible (first | exact h | intro _ | assumption | simp only [Keeps.mk_fields] | apply State.trsFromNet_keeps | apply Keeps.ite | apply Keeps.foldl | apply Keeps.foldl_fst | apply Keeps.getD | split)

theorem State.headMoved_keeps {p : List Instr} {s : State} {b : Bus} {f : Nat} {wb : Nat} {head : Nat} {key : Nat} {vector : Nat} (h : Keeps p s) : Keeps p (State.headMoved s b f wb head key vector) := by
  unfold State.headMoved
  repeat' with_reducible (first | exact h | intro _ | assumption | simp only [Keeps.mk_fields] | refine State.hostWrite_keeps_eq ‹_› ?_ | apply State.hostWrite_keeps | apply State.signal_keeps | apply Keeps.ite | apply Keeps.foldl | apply Keeps.foldl_fst | apply Keeps.getD | split)

theorem State.ringFull_keeps {p : List Instr} {s : State} {p1 : Nat} {r : Nat} (h : Keeps p s) : Keeps p (State.ringFull s p1 r) := by
  unfold State.ringFull
  repeat' with_reducible (first | exact h | intro _ | assumption | simp only [Keeps.mk_fields] | apply State.countEth_keeps | apply State.postLimited_keeps | apply Keeps.ite | apply Keeps.foldl | apply Keeps.foldl_fst | apply Keeps.getD | split)

theorem State.toRing_keeps {p : List Instr} {s : State} {b : Bus} {p1 : Nat} {r : Nat} {how : Nat} {time : Nat} {n : Net} (h : Keeps p s) : Keeps p (State.toRing s b p1 r how time n) := by
  unfold State.toRing
  repeat' with_reducible (first | exact h | intro _ | assumption | simp only [Keeps.mk_fields] | apply State.countEth_keeps | apply State.ringFull_keeps | refine State.ringRead_keeps_eq ‹_› ?_ | apply State.ringRead_keeps | apply State.ringWrite_keeps | apply State.setFld_keeps | apply State.headMoved_keeps | apply Keeps.ite | apply Keeps.foldl | apply Keeps.foldl_fst | apply Keeps.getD | split)

theorem State.steerTo_keeps {p : List Instr} {s : State} {b : Bus} {p1 : Nat} {time : Nat} {n : Net} {a1 : Option Nat} (h : Keeps p s) : Keeps p (State.steerTo s b p1 time n a1) := by
  unfold State.steerTo
  repeat' with_reducible (first | exact h | intro _ | assumption | simp only [Keeps.mk_fields] | apply State.countEth_keeps | apply State.toRing_keeps | apply Keeps.ite | apply Keeps.foldl | apply Keeps.foldl_fst | apply Keeps.getD | split)

theorem State.steer_keeps {p : List Instr} {s : State} {b : Bus} {p1 : Nat} {time : Nat} {n : Net} (h : Keeps p s) : Keeps p (State.steer s b p1 time n) := by
  unfold State.steer
  repeat' with_reducible (first | exact h | intro _ | assumption | simp only [Keeps.mk_fields] | apply State.steerTo_keeps | apply Keeps.ite | apply Keeps.foldl | apply Keeps.foldl_fst | apply Keeps.getD | split)

theorem execEthFrameReceived_keeps {p : List Instr} {s t : State} {p1 : Nat} {bus : Bus} {bytes : List Byte} {frac : Nat} (h : Keeps p s) (e : execEthFrameReceived p1 bus bytes frac s = .next t) : Keeps p t := by
  unfold execEthFrameReceived at e
  injection e with e
  subst e
  repeat' with_reducible (first | exact h | intro _ | assumption | simp only [Keeps.mk_fields] | apply State.countEth_keeps | apply State.toRing_keeps | apply State.trsFromNet_keeps | apply State.steer_keeps | apply Keeps.ite | apply Keeps.foldl | apply Keeps.foldl_fst | apply Keeps.getD | split)

theorem State.txBack_keeps {p : List Instr} {s : State} {b : Bus} {t1 : Nat} {status : Nat} {time : Nat} (h : Keeps p s) : Keeps p (State.txBack s b t1 status time) := by
  unfold State.txBack
  repeat' with_reducible (first | exact h | intro _ | assumption | simp only [Keeps.mk_fields] | apply State.ringWrite_keeps | apply State.addTerm_keeps | apply State.setFld_keeps | apply State.headMoved_keeps | apply Keeps.ite | apply Keeps.foldl | apply Keeps.foldl_fst | apply Keeps.getD | split)

theorem State.postOversize_keeps {p : List Instr} {s : State} {p1 : Nat} {t1 : Nat} (h : Keeps p s) : Keeps p (State.postOversize s p1 t1) := by
  unfold State.postOversize
  repeat' with_reducible (first | exact h | intro _ | assumption | simp only [Keeps.mk_fields] | apply State.postLimited_keeps | apply State.countEth_keeps | apply State.setEp_keeps | apply Keeps.ite | apply Keeps.foldl | apply Keeps.foldl_fst | apply Keeps.getD | split)

theorem State.txHead_keeps {p : List Instr} {s : State} {b : Bus} {t1 : Nat} (h : Keeps p s) : Keeps p (State.txHead s b t1).1 := by
  unfold State.txHead
  repeat' with_reducible (first | exact h | intro _ | assumption | simp only [Keeps.mk_fields] | refine State.ringRead_keeps_eq ‹_› ?_ | apply State.ringRead_keeps | apply Keeps.ite | apply Keeps.foldl | apply Keeps.foldl_fst | apply Keeps.getD | split)

theorem State.txHead_keeps_eq {p : List Instr} {s t : State} {b : Bus} {t1 : Nat} {ret} (e : State.txHead s b t1 = (t, ret)) (h : Keeps p s) : Keeps p t := by
  have := State.txHead_keeps (p := p) h (s := s) (b := b) (t1 := t1)
  rwa [e] at this

theorem State.txSend_keeps {p : List Instr} {s : State} {b : Bus} {p1 : Nat} {t1 : Nat} {buffer : Nat} {length : Nat} {stamp : Bool} {tag : Bool} {tci : Nat} {frac : Nat} {overran : Bool} {cuts : Nat} (h : Keeps p s) : Keeps p (State.txSend s b p1 t1 buffer length stamp tag tci frac overran cuts) := by
  unfold State.txSend
  repeat' with_reducible (first | exact h | intro _ | assumption | simp only [Keeps.mk_fields] | refine State.ringRead_keeps_eq ‹_› ?_ | apply State.ringRead_keeps | apply State.txBack_keeps | apply State.countEth_keeps | apply State.emit_keeps | apply State.bump_keeps | apply State.bumpBy_keeps | apply Keeps.ite | apply Keeps.foldl | apply Keeps.foldl_fst | apply Keeps.getD | split)

theorem execEthFrameTransmit_keeps {p : List Instr} {s t : State} {p1 : Nat} {bus : Bus} {frac : Nat} {overran : Bool} {cuts : Nat} (h : Keeps p s) (e : execEthFrameTransmit p1 bus frac overran cuts s = .next t) : Keeps p t := by
  unfold execEthFrameTransmit at e
  injection e with e
  subst e
  repeat' with_reducible (first | exact h | intro _ | assumption | simp only [Keeps.mk_fields] | apply State.txSend_keeps | refine State.txHead_keeps_eq ‹_› ?_ | apply State.txHead_keeps | apply State.txBack_keeps | apply State.postOversize_keeps | apply Keeps.ite | apply Keeps.foldl | apply Keeps.foldl_fst | apply Keeps.getD | split)

theorem State.dropOversize_keeps {p : List Instr} {s : State} {b : Bus} {p1 : Nat} (h : Keeps p s) : Keeps p (State.dropOversize s b p1) := by
  unfold State.dropOversize
  repeat' with_reducible (first | exact h | intro _ | assumption | simp only [Keeps.mk_fields] | refine State.txHead_keeps_eq ‹_› ?_ | apply State.txHead_keeps | apply State.txBack_keeps | apply State.postOversize_keeps | apply Keeps.ite | apply Keeps.foldl | apply Keeps.foldl_fst | apply Keeps.getD | split)

theorem execEthTxTailDoorbell_keeps {p : List Instr} {s t : State} {client : Nat} {page : Nat} {value : Nat} (h : Keeps p s) (e : execEthTxTailDoorbell client page value s = .next t) : Keeps p t := by
  unfold execEthTxTailDoorbell at e
  injection e with e
  subst e
  repeat' with_reducible (first | exact h | intro _ | assumption | simp only [Keeps.mk_fields] | apply State.refuseDoorbell_keeps | apply Keeps.ite | apply Keeps.foldl | apply Keeps.foldl_fst | apply Keeps.getD | split)

theorem execEthRxTailDoorbell_keeps {p : List Instr} {s t : State} {client : Nat} {page : Nat} {value : Nat} (h : Keeps p s) (e : execEthRxTailDoorbell client page value s = .next t) : Keeps p t := by
  unfold execEthRxTailDoorbell at e
  injection e with e
  subst e
  repeat' with_reducible (first | exact h | intro _ | assumption | simp only [Keeps.mk_fields] | apply State.refuseDoorbell_keeps | apply Keeps.ite | apply Keeps.foldl | apply Keeps.foldl_fst | apply Keeps.getD | split)

theorem State.drainTx_keeps {p : List Instr} {s : State} {b : Bus} {t1 : Nat} {a1 : Nat} (h : Keeps p s) : Keeps p (State.drainTx s b t1 a1) := by
  induction a1 generalizing s b t1 <;> unfold State.drainTx <;>
  repeat' with_reducible (first | exact h | intro _ | assumption | apply_assumption | simp only [Keeps.mk_fields] | apply State.txBack_keeps | apply Keeps.ite | apply Keeps.foldl | apply Keeps.foldl_fst | apply Keeps.getD | split)

theorem State.closeRx_keeps {p : List Instr} {s : State} {r : Nat} (h : Keeps p s) : Keeps p (State.closeRx s r) := by
  unfold State.closeRx
  repeat' with_reducible (first | exact h | intro _ | assumption | simp only [Keeps.mk_fields] | apply State.setReg_keeps | apply Keeps.ite | apply Keeps.foldl | apply Keeps.foldl_fst | apply Keeps.getD | split)

theorem State.closeTx_keeps {p : List Instr} {s : State} {t1 : Nat} (h : Keeps p s) : Keeps p (State.closeTx s t1) := by
  unfold State.closeTx
  repeat' with_reducible (first | exact h | intro _ | assumption | simp only [Keeps.mk_fields] | apply State.setReg_keeps | apply Keeps.ite | apply Keeps.foldl | apply Keeps.foldl_fst | apply Keeps.getD | split)

theorem State.discardTx_keeps {p : List Instr} {s : State} {t1 : Nat} (h : Keeps p s) : Keeps p (State.discardTx s t1) := by
  unfold State.discardTx
  repeat' with_reducible (first | exact h | intro _ | assumption | simp only [Keeps.mk_fields] | apply State.closeTx_keeps | apply State.bumpBy_keeps | apply State.addTerm_keeps | apply Keeps.ite | apply Keeps.foldl | apply Keeps.foldl_fst | apply Keeps.getD | split)

theorem execEthRingSet_keeps {p : List Instr} {s t : State} {id : Nat} {bus : Bus} (h : Keeps p s) (e : execEthRingSet id bus s = .next t) : Keeps p t := by
  unfold execEthRingSet at e
  injection e with e
  subst e
  repeat' with_reducible (first | exact h | intro _ | assumption | simp only [Keeps.mk_fields] | apply State.runOp_keeps | apply State.refuse_keeps | apply State.setFld_keeps | apply State.setReg_keeps | apply State.closeTx_keeps | apply State.closeRx_keeps | apply State.finishOne_keeps | apply State.drainTx_keeps | apply Keeps.ite | apply Keeps.foldl | apply Keeps.foldl_fst | apply Keeps.getD | split)

theorem State.showEthList_keeps {p : List Instr} {s : State} {p1 : Nat} (h : Keeps p s) : Keeps p (State.showEthList s p1) := by
  unfold State.showEthList
  repeat' with_reducible (first | exact h | intro _ | assumption | simp only [Keeps.mk_fields] | apply State.setReg_keeps | apply State.setFld_keeps | apply Keeps.ite | apply Keeps.foldl | apply Keeps.foldl_fst | apply Keeps.getD | split)

theorem State.startEthList_keeps {p : List Instr} {s : State} {b : Bus} {p1 : Nat} {t1 : Nat} (h : Keeps p s) : Keeps p (State.startEthList s b p1 t1) := by
  unfold State.startEthList
  repeat' with_reducible (first | exact h | intro _ | assumption | simp only [Keeps.mk_fields] | apply State.setEp_keeps | apply State.dropOversize_keeps | apply State.showEthList_keeps | apply State.itemDone_keeps | apply Keeps.ite | apply Keeps.foldl | apply Keeps.foldl_fst | apply Keeps.getD | split)

theorem execEthGateListStart_keeps {p : List Instr} {s t : State} {p1 : Nat} {bus : Bus} (h : Keeps p s) (e : execEthGateListStart p1 bus s = .next t) : Keeps p t := by
  unfold execEthGateListStart at e
  injection e with e
  subst e
  repeat' with_reducible (first | exact h | intro _ | assumption | simp only [Keeps.mk_fields] | apply State.startEthList_keeps | apply Keeps.ite | apply Keeps.foldl | apply Keeps.foldl_fst | apply Keeps.getD | split)

theorem execEthGateListSet_keeps {p : List Instr} {s t : State} {id : Nat} {bus : Bus} (h : Keeps p s) (e : execEthGateListSet id bus s = .next t) : Keeps p t := by
  unfold execEthGateListSet at e
  injection e with e
  subst e
  repeat' with_reducible (first | exact h | intro _ | assumption | simp only [Keeps.mk_fields] | apply State.runOp_keeps | apply State.refuse_keeps | refine State.readRecords_keeps_eq ‹_› ?_ | apply State.readRecords_keeps | apply State.failOne_keeps | apply State.defer_keeps | apply State.abort_keeps | apply State.showEthList_keeps | apply State.setEp_keeps | apply State.post_keeps | apply Keeps.ite | apply Keeps.foldl | apply Keeps.foldl_fst | apply Keeps.getD | split)

end Sys2Proof.Machine
end

