-- ==== Sys2Proof/Laws/KeepsStory.lean ====
section
/-! SUPPORT. Every operation of Machine/Story.lean keeps the queue and the canonical stores. -/

namespace Sys2Proof.Machine

open Sys2Proof

theorem State.postCommit_keeps {p : List Instr} {s : State} {kind : Nat} {key : Nat} (h : Keeps p s) : Keeps p (State.postCommit s kind key) := by
  unfold State.postCommit
  repeat' with_reducible (first | exact h | intro _ | assumption | simp only [Keeps.mk_fields] | apply State.postLimited_keeps | apply Keeps.ite | apply Keeps.foldl | apply Keeps.foldl_fst | apply Keeps.getD | split)

theorem State.showSlew_keeps {p : List Instr} {s : State} {i : Nat} (h : Keeps p s) : Keeps p (State.showSlew s i) := by
  unfold State.showSlew
  repeat' with_reducible (first | exact h | intro _ | assumption | simp only [Keeps.mk_fields] | apply State.setFld_keeps | apply Keeps.ite | apply Keeps.foldl | apply Keeps.foldl_fst | apply Keeps.getD | split)

theorem State.marginOut_keeps {p : List Instr} {s : State} {b : Nat} (h : Keeps p s) : Keeps p (State.marginOut s b) := by
  unfold State.marginOut
  repeat' with_reducible (first | exact h | intro _ | assumption | simp only [Keeps.mk_fields] | apply State.post_keeps | apply State.bump_keeps | apply State.drainBent_keeps | apply State.retireBent_keeps | apply Keeps.ite | apply Keeps.foldl | apply Keeps.foldl_fst | apply Keeps.getD | split)

theorem State.showDays_keeps {p : List Instr} {s : State} {b : Nat} (h : Keeps p s) : Keeps p (State.showDays s b) := by
  unfold State.showDays
  repeat' with_reducible (first | exact h | intro _ | assumption | simp only [Keeps.mk_fields] | apply State.setFld_keeps | apply State.postLimited_keeps | apply State.marginOut_keeps | apply Keeps.ite | apply Keeps.foldl | apply Keeps.foldl_fst | apply Keeps.getD | split)

theorem State.trueOutcome_keeps {p : List Instr} {s : State} {b : Nat} {o : Nat} {status : Nat} (h : Keeps p s) : Keeps p (State.trueOutcome s b o status) := by
  unfold State.trueOutcome
  repeat' with_reducible (first | exact h | intro _ | assumption | simp only [Keeps.mk_fields] | apply State.setFld_keeps | apply State.post_keeps | apply State.bump_keeps | apply State.itemDone_keeps | apply Keeps.ite | apply Keeps.foldl | apply Keeps.foldl_fst | apply Keeps.getD | split)

theorem State.applyRecord_keeps {p : List Instr} {s : State} {n : NewRecord} (h : Keeps p s) : Keeps p (State.applyRecord s n) := by
  unfold State.applyRecord
  repeat' with_reducible (first | exact h | intro _ | assumption | simp only [Keeps.mk_fields] | apply State.post_keeps | apply State.bump_keeps | apply State.setFld_keeps | apply State.showSlew_keeps | apply State.postCommit_keeps | apply State.endItems_keeps | apply State.showDays_keeps | apply State.wakeBent_keeps | apply State.trueOutcome_keeps | apply Keeps.ite | apply Keeps.foldl | apply Keeps.foldl_fst | apply Keeps.getD | split)

theorem State.showSectors_keeps {p : List Instr} {s : State} (h : Keeps p s) : Keeps p (State.showSectors s) := by
  unfold State.showSectors
  repeat' with_reducible (first | exact h | intro _ | assumption | simp only [Keeps.mk_fields] | apply State.setFld_keeps | apply Keeps.ite | apply Keeps.foldl | apply Keeps.foldl_fst | apply Keeps.getD | split)

theorem State.takeRoom_keeps {p : List Instr} {s : State} {n : Nat} (h : Keeps p s) : Keeps p (State.takeRoom s n) := by
  unfold State.takeRoom
  repeat' with_reducible (first | exact h | intro _ | assumption | simp only [Keeps.mk_fields] | apply Keeps.ite | apply Keeps.foldl | apply Keeps.foldl_fst | apply Keeps.getD | split)

theorem State.commitRecord_keeps {p : List Instr} {s : State} (h : Keeps p s) : Keeps p (State.commitRecord s) := by
  unfold State.commitRecord
  repeat' with_reducible (first | exact h | intro _ | assumption | simp only [Keeps.mk_fields] | apply State.takeRoom_keeps | apply State.showSectors_keeps | apply State.bumpBy_keeps | apply State.bump_keeps | apply State.setFld_keeps | apply State.applyRecord_keeps | apply Keeps.ite | apply Keeps.foldl | apply Keeps.foldl_fst | apply Keeps.getD | split)

theorem execRecordCommit_keeps {p : List Instr} {s t : State} (h : Keeps p s) (e : execRecordCommit s = .next t) : Keeps p t := by
  unfold execRecordCommit at e
  injection e with e
  subst e
  repeat' with_reducible (first | exact h | intro _ | assumption | simp only [Keeps.mk_fields] | apply State.commitRecord_keeps | apply Keeps.ite | apply Keeps.foldl | apply Keeps.foldl_fst | apply Keeps.getD | split)

theorem State.recordWear_keeps {p : List Instr} {s : State} {k : Nat} {count : Nat} {retired : Bool} (h : Keeps p s) : Keeps p (State.recordWear s k count retired) := by
  unfold State.recordWear
  repeat' with_reducible (first | exact h | intro _ | assumption | simp only [Keeps.mk_fields] | apply State.record_keeps | apply Keeps.ite | apply Keeps.foldl | apply Keeps.foldl_fst | apply Keeps.getD | split)

theorem execJournalReclaim_keeps {p : List Instr} {s t : State} (h : Keeps p s) (e : execJournalReclaim s = .next t) : Keeps p t := by
  unfold execJournalReclaim at e
  injection e with e
  subst e
  repeat' with_reducible (first | exact h | intro _ | assumption | simp only [Keeps.mk_fields] | apply State.record_keeps | apply State.recordWear_keeps | apply State.bumpBy_keeps | apply Keeps.ite | apply Keeps.foldl | apply Keeps.foldl_fst | apply Keeps.getD | split)

theorem execSectorEraseDone_keeps {p : List Instr} {s t : State} (h : Keeps p s) (e : execSectorEraseDone s = .next t) : Keeps p t := by
  unfold execSectorEraseDone at e
  injection e with e
  subst e
  repeat' with_reducible (first | exact h | intro _ | assumption | simp only [Keeps.mk_fields] | apply State.showSectors_keeps | apply State.setFld_keeps | apply State.bump_keeps | apply Keeps.ite | apply Keeps.foldl | apply Keeps.foldl_fst | apply Keeps.getD | split)

theorem execSplSectorRetired_keeps {p : List Instr} {s t : State} {erase : Bool} (h : Keeps p s) (e : execSplSectorRetired erase s = .next t) : Keeps p t := by
  unfold execSplSectorRetired at e
  injection e with e
  subst e
  repeat' with_reducible (first | exact h | intro _ | assumption | simp only [Keeps.mk_fields] | apply State.showSectors_keeps | apply State.bump_keeps | apply State.post_keeps | apply State.setFld_keeps | apply State.bumpBy_keeps | apply State.endItems_keeps | apply State.recordWear_keeps | apply Keeps.ite | apply Keeps.foldl | apply Keeps.foldl_fst | apply Keeps.getD | split)

theorem State.calibrateItem_keeps {p : List Instr} {s : State} {i : Nat} {t1 : Nat} {run : Option (Nat × Nat)} (h : Keeps p s) : Keeps p (State.calibrateItem s i t1 run) := by
  unfold State.calibrateItem
  repeat' with_reducible (first | exact h | intro _ | assumption | simp only [Keeps.mk_fields] | apply State.endItems_keeps | apply State.bump_keeps | apply State.record_keeps | apply Keeps.ite | apply Keeps.foldl | apply Keeps.foldl_fst | apply Keeps.getD | split)

theorem State.calibrateDram_keeps {p : List Instr} {s : State} {key : Nat} {trims : List Byte} (h : Keeps p s) : Keeps p (State.calibrateDram s key trims) := by
  unfold State.calibrateDram
  repeat' with_reducible (first | exact h | intro _ | assumption | simp only [Keeps.mk_fields] | apply State.bump_keeps | apply State.record_keeps | apply Keeps.ite | apply Keeps.foldl | apply Keeps.foldl_fst | apply Keeps.getD | split)

theorem execCalibration_keeps {p : List Instr} {s t : State} {dram : Bool} {key : Nat} {trims : List Nat} {met : Bool} (h : Keeps p s) (e : execCalibration dram key trims met s = .next t) : Keeps p t := by
  unfold execCalibration at e
  injection e with e
  subst e
  repeat' with_reducible (first | exact h | intro _ | assumption | simp only [Keeps.mk_fields] | apply State.calibrateDram_keeps | apply State.calibrateItem_keeps | apply State.itemDone_keeps | apply Keeps.ite | apply Keeps.foldl | apply Keeps.foldl_fst | apply Keeps.getD | split)

theorem execTrimSlewTick_keeps {p : List Instr} {s t : State} {i : Nat} {atTemp : Option Nat} (h : Keeps p s) (e : execTrimSlewTick i atTemp s = .next t) : Keeps p t := by
  unfold execTrimSlewTick at e
  injection e with e
  subst e
  repeat' with_reducible (first | exact h | intro _ | assumption | simp only [Keeps.mk_fields] | apply State.setFld_keeps | apply State.showSlew_keeps | apply Keeps.ite | apply Keeps.foldl | apply Keeps.foldl_fst | apply Keeps.getD | split)

theorem execCalRun_keeps {p : List Instr} {s t : State} {id : Nat} {_bus : Bus} (h : Keeps p s) (e : execCalRun id _bus s = .next t) : Keeps p t := by
  unfold execCalRun at e
  injection e with e
  subst e
  repeat' with_reducible (first | exact h | intro _ | assumption | simp only [Keeps.mk_fields] | apply State.runOp_keeps | apply State.refuse_keeps | apply State.defer_keeps | apply State.itemDone_keeps | apply Keeps.ite | apply Keeps.foldl | apply Keeps.foldl_fst | apply Keeps.getD | split)

theorem State.showAge_keeps {p : List Instr} {s : State} {b : Nat} {ds : List Nat} (h : Keeps p s) : Keeps p (State.showAge s b ds) := by
  unfold State.showAge
  repeat' with_reducible (first | exact h | intro _ | assumption | simp only [Keeps.mk_fields] | apply State.setFld_keeps | apply Keeps.ite | apply Keeps.foldl | apply Keeps.foldl_fst | apply Keeps.getD | split)

theorem execAgeingMeasure_keeps {p : List Instr} {s t : State} {b : Nat} {deltas : List Nat} (h : Keeps p s) (e : execAgeingMeasure b deltas s = .next t) : Keeps p t := by
  unfold execAgeingMeasure at e
  injection e with e
  subst e
  repeat' with_reducible (first | exact h | intro _ | assumption | simp only [Keeps.mk_fields] | apply State.showDays_keeps | apply State.record_keeps | apply State.showAge_keeps | apply Keeps.ite | apply Keeps.foldl | apply Keeps.foldl_fst | apply Keeps.getD | split)

theorem State.startPass_keeps {p : List Instr} {s : State} {cmd : Option Nat} {bents : List Nat} (h : Keeps p s) : Keeps p (State.startPass s cmd bents) := by
  unfold State.startPass
  repeat' with_reducible (first | exact h | intro _ | assumption | simp only [Keeps.mk_fields] | apply State.setFld_keeps | apply State.bump_keeps | apply State.wakeBent_keeps | apply Keeps.ite | apply Keeps.foldl | apply Keeps.foldl_fst | apply Keeps.getD | split)

theorem execTruingPassDue_keeps {p : List Instr} {s t : State} (h : Keeps p s) (e : execTruingPassDue s = .next t) : Keeps p t := by
  unfold execTruingPassDue at e
  injection e with e
  subst e
  repeat' with_reducible (first | exact h | intro _ | assumption | simp only [Keeps.mk_fields] | apply State.setFld_keeps | apply State.startPass_keeps | apply Keeps.ite | apply Keeps.foldl | apply Keeps.foldl_fst | apply Keeps.getD | split)

theorem State.endPass_keeps {p : List Instr} {s : State} (h : Keeps p s) : Keeps p (State.endPass s) := by
  unfold State.endPass
  repeat' with_reducible (first | exact h | intro _ | assumption | simp only [Keeps.mk_fields] | apply State.setFld_keeps | apply Keeps.ite | apply Keeps.foldl | apply Keeps.foldl_fst | apply Keeps.getD | split)

theorem State.takeBent_keeps {p : List Instr} {s : State} {p1 : Pass} {a1 : Nat} (h : Keeps p s) : Keeps p (State.takeBent s p1 a1) := by
  induction a1 generalizing s p1 <;> unfold State.takeBent <;>
  repeat' with_reducible (first | exact h | intro _ | assumption | apply_assumption | simp only [Keeps.mk_fields] | apply State.endPass_keeps | apply State.trueOutcome_keeps | apply State.setFld_keeps | apply State.drainBent_keeps | apply Keeps.ite | apply Keeps.foldl | apply Keeps.foldl_fst | apply Keeps.getD | split)

theorem State.returnBent_keeps {p : List Instr} {s : State} {b : Nat} (h : Keeps p s) : Keeps p (State.returnBent s b) := by
  unfold State.returnBent
  repeat' with_reducible (first | exact h | intro _ | assumption | simp only [Keeps.mk_fields] | apply State.wakeBent_keeps | apply Keeps.ite | apply Keeps.foldl | apply Keeps.foldl_fst | apply Keeps.getD | split)

theorem execTruingBent_keeps {p : List Instr} {s t : State} {offset : Option Nat} {ceiling : Option Nat} {deltas : List Nat} (h : Keeps p s) (e : execTruingBent offset ceiling deltas s = .next t) : Keeps p t := by
  unfold execTruingBent at e
  injection e with e
  subst e
  repeat' with_reducible (first | exact h | intro _ | assumption | simp only [Keeps.mk_fields] | apply State.takeBent_keeps | apply State.trueOutcome_keeps | apply State.showAge_keeps | apply State.returnBent_keeps | apply State.bump_keeps | apply State.record_keeps | apply State.post_keeps | apply State.retireBent_keeps | apply Keeps.ite | apply Keeps.foldl | apply Keeps.foldl_fst | apply Keeps.getD | split)

theorem State.stopPass_keeps {p : List Instr} {s : State} {status : Nat} (h : Keeps p s) : Keeps p (State.stopPass s status) := by
  unfold State.stopPass
  repeat' with_reducible (first | exact h | intro _ | assumption | simp only [Keeps.mk_fields] | apply State.returnBent_keeps | apply State.trueOutcome_keeps | apply State.endPass_keeps | apply Keeps.ite | apply Keeps.foldl | apply Keeps.foldl_fst | apply Keeps.getD | split)

theorem execTruingRun_keeps {p : List Instr} {s t : State} {id : Nat} {_bus : Bus} (h : Keeps p s) (e : execTruingRun id _bus s = .next t) : Keeps p t := by
  unfold execTruingRun at e
  injection e with e
  subst e
  repeat' with_reducible (first | exact h | intro _ | assumption | simp only [Keeps.mk_fields] | apply State.runOp_keeps | apply State.refuse_keeps | apply State.startPass_keeps | apply State.defer_keeps | apply Keeps.ite | apply Keeps.foldl | apply Keeps.foldl_fst | apply Keeps.getD | split)

theorem State.setFreeze_keeps {p : List Instr} {s : State} {kind : Nat} {key : Nat} {on : Bool} (h : Keeps p s) : Keeps p (State.setFreeze s kind key on) := by
  unfold State.setFreeze
  repeat' with_reducible (first | exact h | intro _ | assumption | simp only [Keeps.mk_fields] | apply State.setFld_keeps | apply Keeps.ite | apply Keeps.foldl | apply Keeps.foldl_fst | apply Keeps.getD | split)

theorem State.rollKey_keeps {p : List Instr} {s : State} {id : Nat} {kind : Nat} {depth : Nat} {key : Nat} {k : Nat} {freeze : Bool} {unfreeze : Bool} (h : Keeps p s) : Keeps p (State.rollKey s id kind depth key k freeze unfreeze) := by
  unfold State.rollKey
  repeat' with_reducible (first | exact h | intro _ | assumption | simp only [Keeps.mk_fields] | apply State.itemDone_keeps | apply State.setFreeze_keeps | apply State.bump_keeps | apply State.drainBent_keeps | apply State.record_keeps | apply Keeps.ite | apply Keeps.foldl | apply Keeps.foldl_fst | apply Keeps.getD | split)

theorem execCalRollback_keeps {p : List Instr} {s t : State} {id : Nat} {_bus : Bus} (h : Keeps p s) (e : execCalRollback id _bus s = .next t) : Keeps p t := by
  unfold execCalRollback at e
  injection e with e
  subst e
  repeat' with_reducible (first | exact h | intro _ | assumption | simp only [Keeps.mk_fields] | apply State.runOp_keeps | apply State.refuse_keeps | apply State.defer_keeps | apply State.rollKey_keeps | apply Keeps.ite | apply Keeps.foldl | apply Keeps.foldl_fst | apply Keeps.getD | split)

theorem execSplRead_keeps {p : List Instr} {s t : State} {id : Nat} {bus : Bus} (h : Keeps p s) (e : execSplRead id bus s = .next t) : Keeps p t := by
  unfold execSplRead at e
  injection e with e
  subst e
  repeat' with_reducible (first | exact h | intro _ | assumption | simp only [Keeps.mk_fields] | apply State.runOp_keeps | apply State.refuse_keeps | refine State.writeRecords_keeps_eq ‹_› ?_ | apply State.writeRecords_keeps | apply State.finishAs_keeps | apply Keeps.ite | apply Keeps.foldl | apply Keeps.foldl_fst | apply Keeps.getD | split)

theorem State.showVersion_keeps {p : List Instr} {s : State} {k : Nat} (h : Keeps p s) : Keeps p (State.showVersion s k) := by
  unfold State.showVersion
  repeat' with_reducible (first | exact h | intro _ | assumption | simp only [Keeps.mk_fields] | apply State.setFld_keeps | apply Keeps.ite | apply Keeps.foldl | apply Keeps.foldl_fst | apply Keeps.getD | split)

theorem execFwWrite_keeps {p : List Instr} {s t : State} {id : Nat} {bus : Bus} (h : Keeps p s) (e : execFwWrite id bus s = .next t) : Keeps p t := by
  unfold execFwWrite at e
  injection e with e
  subst e
  repeat' with_reducible (first | exact h | intro _ | assumption | simp only [Keeps.mk_fields] | apply State.runOp_keeps | apply State.refuse_keeps | apply State.defer_keeps | apply State.setFld_keeps | apply State.itemDone_keeps | apply Keeps.ite | apply Keeps.foldl | apply Keeps.foldl_fst | apply Keeps.getD | split)

theorem execFwActivate_keeps {p : List Instr} {s t : State} {id : Nat} {bus : Bus} (h : Keeps p s) (e : execFwActivate id bus s = .next t) : Keeps p t := by
  unfold execFwActivate at e
  injection e with e
  subst e
  repeat' with_reducible (first | exact h | intro _ | assumption | simp only [Keeps.mk_fields] | apply State.runOp_keeps | apply State.showVersion_keeps | apply State.setFld_keeps | apply State.finishOne_keeps | apply State.failOne_keeps | apply State.refuse_keeps | apply State.record_keeps | apply Keeps.ite | apply Keeps.foldl | apply Keeps.foldl_fst | apply Keeps.getD | split)

end Sys2Proof.Machine
end

