-- ==== Sys2Proof/Laws/KeepsDram.lean ====
section
/-! SUPPORT. Every operation of Machine/Dram.lean keeps the queue and the canonical stores. -/

namespace Sys2Proof.Machine

open Sys2Proof

theorem State.setQueue_keeps {p : List Instr} {s : State} {k : Nat} {l : List DramReq} (h : Keeps p s) : Keeps p (State.setQueue s k l) := by
  unfold State.setQueue
  repeat' with_reducible (first | exact h | intro _ | assumption | simp only [Keeps.mk_fields] | apply State.setFld_keeps | apply Keeps.ite | apply Keeps.foldl | apply Keeps.foldl_fst | apply Keeps.getD | split)

theorem State.setQuad_keeps {p : List Instr} {s : State} {j : Nat} {v : Nat} (h : Keeps p s) : Keeps p (State.setQuad s j v) := by
  unfold State.setQuad
  repeat' with_reducible (first | exact h | intro _ | assumption | simp only [Keeps.mk_fields] | apply State.setFld_keeps | apply Keeps.ite | apply Keeps.foldl | apply Keeps.foldl_fst | apply Keeps.getD | split)

theorem State.refuseAccess_keeps {p : List Instr} {s : State} {w : DramWait} (h : Keeps p s) : Keeps p (State.refuseAccess s w) := by
  unfold State.refuseAccess
  repeat' with_reducible (first | exact h | intro _ | assumption | simp only [Keeps.mk_fields] | apply State.countAccess_keeps | apply State.emit_keeps | apply Keeps.ite | apply Keeps.foldl | apply Keeps.foldl_fst | apply Keeps.getD | split)

theorem State.acceptReq_keeps {p : List Instr} {s : State} {w : DramWait} {win : Nat} {k : Nat} {bank : Nat} {row : Nat} (h : Keeps p s) : Keeps p (State.acceptReq s w win k bank row) := by
  unfold State.acceptReq
  repeat' with_reducible (first | exact h | intro _ | assumption | simp only [Keeps.mk_fields] | apply State.count_keeps | apply State.bump_keeps | apply State.putBytes_keeps | apply State.setQueue_keeps | apply Keeps.ite | apply Keeps.foldl | apply Keeps.foldl_fst | apply Keeps.getD | split)

theorem State.offer_keeps_eq {p : List Instr} {s t : State} {w : DramWait} (e : State.offer s w = some t) (h : Keeps p s) : Keeps p t := by
  unfold State.offer at e
  try dsimp only at e
  repeat' with_reducible (first | contradiction | (obtain rfl := Option.some.inj e) | exact h | intro _ | assumption | simp only [Keeps.mk_fields] | apply State.acceptReq_keeps | apply State.refuseAccess_keeps | apply Keeps.ite | apply Keeps.foldl | apply Keeps.foldl_fst | apply Keeps.getD | split | split at e)

theorem State.takeWaiting_keeps {p : List Instr} {s : State} (h : Keeps p s) : Keeps p (State.takeWaiting s) := by
  unfold State.takeWaiting
  repeat' with_reducible (first | exact h | intro _ | assumption | simp only [Keeps.mk_fields] | refine State.offer_keeps_eq ‹_› ?_ | apply Keeps.ite | apply Keeps.foldl | apply Keeps.foldl_fst | apply Keeps.getD | split)

theorem execDramRequestAccept_keeps {p : List Instr} {s t : State} {ma : Nat} {write : Bool} {urgent : Bool} {data : List Byte} (h : Keeps p s) (e : execDramRequestAccept ma write urgent data s = .next t) : Keeps p t := by
  unfold execDramRequestAccept at e
  injection e with e
  subst e
  repeat' with_reducible (first | exact h | intro _ | assumption | simp only [Keeps.mk_fields] | apply State.setQuad_keeps | apply State.bump_keeps | refine State.offer_keeps_eq ‹_› ?_ | apply Keeps.ite | apply Keeps.foldl | apply Keeps.foldl_fst | apply Keeps.getD | split)

theorem State.drainWrites_keeps {p : List Instr} {s : State} {k : Nat} (h : Keeps p s) : Keeps p (State.drainWrites s k) := by
  unfold State.drainWrites
  repeat' with_reducible (first | exact h | intro _ | assumption | simp only [Keeps.mk_fields] | apply Keeps.ite | apply Keeps.foldl | apply Keeps.foldl_fst | apply Keeps.getD | split)

theorem State.uncorrectable_keeps {p : List Instr} {s : State} {k : Nat} {link : Bool} (h : Keeps p s) : Keeps p (State.uncorrectable s k link) := by
  unfold State.uncorrectable
  repeat' with_reducible (first | exact h | intro _ | assumption | simp only [Keeps.mk_fields] | apply State.bump_keeps | apply State.postLimited_keeps | apply Keeps.ite | apply Keeps.foldl | apply Keeps.foldl_fst | apply Keeps.getD | split)

theorem execDramRequestServe_keeps {p : List Instr} {s t : State} {ch : Nat} {linkFixed : Nat} {inlineFixed : Nat} {bad : Nat} (h : Keeps p s) (e : execDramRequestServe ch linkFixed inlineFixed bad s = .next t) : Keeps p t := by
  unfold execDramRequestServe at e
  injection e with e
  subst e
  repeat' with_reducible (first | exact h | intro _ | assumption | simp only [Keeps.mk_fields] | apply State.drainWrites_keeps | apply State.bump_keeps | apply State.bumpBy_keeps | apply State.count_keeps | apply State.setQueue_keeps | apply State.emit_keeps | apply State.uncorrectable_keeps | apply State.takeWaiting_keeps | apply Keeps.ite | apply Keeps.foldl | apply Keeps.foldl_fst | apply Keeps.getD | split)

theorem State.setOwed_keeps {p : List Instr} {s : State} {k : Nat} {b : Nat} {v : Int} (h : Keeps p s) : Keeps p (State.setOwed s k b v) := by
  unfold State.setOwed
  repeat' with_reducible (first | exact h | intro _ | assumption | simp only [Keeps.mk_fields] | apply Keeps.ite | apply Keeps.foldl | apply Keeps.foldl_fst | apply Keeps.getD | split)

theorem execRefreshDue_keeps {p : List Instr} {s t : State} {ch : Nat} (h : Keeps p s) (e : execRefreshDue ch s = .next t) : Keeps p t := by
  unfold execRefreshDue at e
  injection e with e
  subst e
  repeat' with_reducible (first | exact h | intro _ | assumption | simp only [Keeps.mk_fields] | apply State.setOwed_keeps | apply State.bumpBy_keeps | apply State.bump_keeps | apply Keeps.ite | apply Keeps.foldl | apply Keeps.foldl_fst | apply Keeps.getD | split)

theorem execMr4Poll_keeps {p : List Instr} {s t : State} {ch : Nat} {rate : Nat} (h : Keeps p s) (e : execMr4Poll ch rate s = .next t) : Keeps p t := by
  unfold execMr4Poll at e
  injection e with e
  subst e
  repeat' with_reducible (first | exact h | intro _ | assumption | simp only [Keeps.mk_fields] | apply Keeps.ite | apply Keeps.foldl | apply Keeps.foldl_fst | apply Keeps.getD | split)

theorem State.payRefreshes_keeps {p : List Instr} {s : State} {j : Nat} (h : Keeps p s) : Keeps p (State.payRefreshes s j) := by
  unfold State.payRefreshes
  repeat' with_reducible (first | exact h | intro _ | assumption | simp only [Keeps.mk_fields] | apply State.setOwed_keeps | apply State.bumpBy_keeps | apply Keeps.ite | apply Keeps.foldl | apply Keeps.foldl_fst | apply Keeps.getD | split)

theorem State.setQuadClock_keeps {p : List Instr} {s : State} {j : Nat} {on : Bool} (h : Keeps p s) : Keeps p (State.setQuadClock s j on) := by
  unfold State.setQuadClock
  repeat' with_reducible (first | exact h | intro _ | assumption | simp only [Keeps.mk_fields] | apply State.setFld_keeps | apply Keeps.ite | apply Keeps.foldl | apply Keeps.foldl_fst | apply Keeps.getD | split)

theorem State.sleepQuad_keeps {p : List Instr} {s : State} {j : Nat} (h : Keeps p s) : Keeps p (State.sleepQuad s j) := by
  unfold State.sleepQuad
  repeat' with_reducible (first | exact h | intro _ | assumption | simp only [Keeps.mk_fields] | apply State.setQuadClock_keeps | apply State.setDomain_keeps | apply State.setQuad_keeps | apply State.payRefreshes_keeps | apply Keeps.ite | apply Keeps.foldl | apply Keeps.foldl_fst | apply Keeps.getD | split)

theorem execSelfRefreshEntry_keeps {p : List Instr} {s t : State} {quad : Nat} (h : Keeps p s) (e : execSelfRefreshEntry quad s = .next t) : Keeps p t := by
  unfold execSelfRefreshEntry at e
  injection e with e
  subst e
  repeat' with_reducible (first | exact h | intro _ | assumption | simp only [Keeps.mk_fields] | apply State.setQuad_keeps | apply State.sleepQuad_keeps | apply Keeps.ite | apply Keeps.foldl | apply Keeps.foldl_fst | apply Keeps.getD | split)

theorem State.samplePackages_keeps {p : List Instr} {s : State} {j : Nat} (h : Keeps p s) : Keeps p (State.samplePackages s j) := by
  unfold State.samplePackages
  repeat' with_reducible (first | exact h | intro _ | assumption | simp only [Keeps.mk_fields] | apply Keeps.ite | apply Keeps.foldl | apply Keeps.foldl_fst | apply Keeps.getD | split)

theorem State.wakeQuad_keeps {p : List Instr} {s : State} {j : Nat} (h : Keeps p s) : Keeps p (State.wakeQuad s j) := by
  unfold State.wakeQuad
  repeat' with_reducible (first | exact h | intro _ | assumption | simp only [Keeps.mk_fields] | apply State.samplePackages_keeps | apply State.setQuadClock_keeps | apply State.setDomain_keeps | apply State.setQuad_keeps | apply Keeps.ite | apply Keeps.foldl | apply Keeps.foldl_fst | apply Keeps.getD | split)

theorem execSelfRefreshExit_keeps {p : List Instr} {s t : State} {quad : Nat} (h : Keeps p s) (e : execSelfRefreshExit quad s = .next t) : Keeps p t := by
  unfold execSelfRefreshExit at e
  injection e with e
  subst e
  repeat' with_reducible (first | exact h | intro _ | assumption | simp only [Keeps.mk_fields] | apply State.takeWaiting_keeps | apply State.wakeQuad_keeps | apply Keeps.ite | apply Keeps.foldl | apply Keeps.foldl_fst | apply Keeps.getD | split)

theorem State.setChange_keeps {p : List Instr} {s : State} {j : Nat} {c : Option OpChange} (h : Keeps p s) : Keeps p (State.setChange s j c) := by
  unfold State.setChange
  repeat' with_reducible (first | exact h | intro _ | assumption | simp only [Keeps.mk_fields] | apply Keeps.ite | apply Keeps.foldl | apply Keeps.foldl_fst | apply Keeps.getD | split)

theorem State.stopTraining_keeps {p : List Instr} {s : State} {j : Nat} (h : Keeps p s) : Keeps p (State.stopTraining s j) := by
  unfold State.stopTraining
  repeat' with_reducible (first | exact h | intro _ | assumption | simp only [Keeps.mk_fields] | apply State.setFld_keeps | apply State.setQuad_keeps | apply State.post_keeps | apply State.endItems_keeps | apply Keeps.ite | apply Keeps.foldl | apply Keeps.foldl_fst | apply Keeps.getD | split)

theorem State.askPoint_keeps {p : List Instr} {s : State} {j : Nat} {p1 : Nat} {thermal : Bool} {w : Option (Nat × Nat)} (h : Keeps p s) : Keeps p (State.askPoint s j p1 thermal w) := by
  unfold State.askPoint
  repeat' with_reducible (first | exact h | intro _ | assumption | simp only [Keeps.mk_fields] | apply State.endItems_keeps | apply State.setChange_keeps | apply State.stopTraining_keeps | apply Keeps.ite | apply Keeps.foldl | apply Keeps.foldl_fst | apply Keeps.getD | split)

theorem State.retimeQuad_keeps {p : List Instr} {s : State} {j : Nat} (h : Keeps p s) : Keeps p (State.retimeQuad s j) := by
  unfold State.retimeQuad
  repeat' with_reducible (first | exact h | intro _ | assumption | simp only [Keeps.mk_fields] | apply State.setFld_keeps | apply State.askPoint_keeps | apply Keeps.ite | apply Keeps.foldl | apply Keeps.foldl_fst | apply Keeps.getD | split)

theorem execOpPointChange_keeps {p : List Instr} {s t : State} {quad : Nat} (h : Keeps p s) (e : execOpPointChange quad s = .next t) : Keeps p t := by
  unfold execOpPointChange at e
  injection e with e
  subst e
  repeat' with_reducible (first | exact h | intro _ | assumption | simp only [Keeps.mk_fields] | apply State.setQuad_keeps | apply State.setChange_keeps | apply State.payRefreshes_keeps | apply State.setFld_keeps | apply State.wakeQuad_keeps | apply State.post_keeps | apply State.endItems_keeps | apply State.takeWaiting_keeps | apply Keeps.ite | apply Keeps.foldl | apply Keeps.foldl_fst | apply Keeps.getD | split)

theorem execDramOpSet_keeps {p : List Instr} {s t : State} {id : Nat} {_bus : Bus} (h : Keeps p s) (e : execDramOpSet id _bus s = .next t) : Keeps p t := by
  unfold execDramOpSet at e
  injection e with e
  subst e
  repeat' with_reducible (first | exact h | intro _ | assumption | simp only [Keeps.mk_fields] | apply State.runOp_keeps | apply State.refuse_keeps | apply State.defer_keeps | apply State.askPoint_keeps | apply State.itemDone_keeps | apply Keeps.ite | apply Keeps.foldl | apply Keeps.foldl_fst | apply Keeps.getD | split)

theorem State.showChannels_keeps {p : List Instr} {s : State} {ok : Nat} (h : Keeps p s) : Keeps p (State.showChannels s ok) := by
  unfold State.showChannels
  repeat' with_reducible (first | exact h | intro _ | assumption | simp only [Keeps.mk_fields] | apply State.setFld_keeps | apply Keeps.ite | apply Keeps.foldl | apply Keeps.foldl_fst | apply Keeps.getD | split)

theorem State.failQueue_keeps {p : List Instr} {s : State} {k : Nat} (h : Keeps p s) : Keeps p (State.failQueue s k) := by
  unfold State.failQueue
  repeat' with_reducible (first | exact h | intro _ | assumption | simp only [Keeps.mk_fields] | apply State.setQueue_keeps | apply State.count_keeps | apply State.emit_keeps | apply Keeps.ite | apply Keeps.foldl | apply Keeps.foldl_fst | apply Keeps.getD | split)

theorem State.mapOut_keeps {p : List Instr} {s : State} {k : Nat} {cause : Nat} (h : Keeps p s) : Keeps p (State.mapOut s k cause) := by
  unfold State.mapOut
  repeat' with_reducible (first | exact h | intro _ | assumption | simp only [Keeps.mk_fields] | apply State.failQueue_keeps | apply State.showChannels_keeps | apply State.record_keeps | apply State.takeWaiting_keeps | apply State.post_keeps | apply Keeps.ite | apply Keeps.foldl | apply Keeps.foldl_fst | apply Keeps.getD | split)

theorem execChannelMapOut_keeps {p : List Instr} {s t : State} {ch : Nat} {cause : Nat} (h : Keeps p s) (e : execChannelMapOut ch cause s = .next t) : Keeps p t := by
  unfold execChannelMapOut at e
  injection e with e
  subst e
  repeat' with_reducible (first | exact h | intro _ | assumption | simp only [Keeps.mk_fields] | apply State.mapOut_keeps | apply Keeps.ite | apply Keeps.foldl | apply Keeps.foldl_fst | apply Keeps.getD | split)

theorem State.zeroChannel_keeps {p : List Instr} {s : State} {k : Nat} (h : Keeps p s) : Keeps p (State.zeroChannel s k) :=
  ⟨h.queue, h.canonical.1, h.canonical.2.1, h.canonical.2.2.1, Store.wf_filter _ _ h.canonical.2.2.2⟩

theorem execChannelService_keeps {p : List Instr} {s t : State} {id : Nat} {bus : Bus} {trained : Bool} (h : Keeps p s) (e : execChannelService id bus trained s = .next t) : Keeps p t := by
  unfold execChannelService at e
  injection e with e
  subst e
  repeat' with_reducible (first | exact h | intro _ | assumption | simp only [Keeps.mk_fields] | apply State.runOpAgain_keeps | apply State.refuse_keeps | apply State.finishOne_keeps | apply State.mapOut_keeps | apply State.hold_keeps | apply State.record_keeps | apply State.showChannels_keeps | apply State.zeroChannel_keeps | apply State.takeWaiting_keeps | apply State.failOne_keeps | apply Keeps.ite | apply Keeps.foldl | apply Keeps.foldl_fst | apply Keeps.getD | split)

theorem State.setFigures_keeps {p : List Instr} {s : State} {k : Nat} {figures : Nat} (h : Keeps p s) : Keeps p (State.setFigures s k figures) := by
  unfold State.setFigures
  repeat' with_reducible (first | exact h | intro _ | assumption | simp only [Keeps.mk_fields] | apply State.setReg_keeps | apply Keeps.ite | apply Keeps.foldl | apply Keeps.foldl_fst | apply Keeps.getD | split)

theorem execGatheringStep_keeps {p : List Instr} {s t : State} {quad : Nat} {trims : List Byte} {figures : List Nat} (h : Keeps p s) (e : execGatheringStep quad trims figures s = .next t) : Keeps p t := by
  unfold execGatheringStep at e
  injection e with e
  subst e
  repeat' with_reducible (first | exact h | intro _ | assumption | simp only [Keeps.mk_fields] | apply State.setQuad_keeps | apply State.wakeQuad_keeps | apply State.setFigures_keeps | apply State.record_keeps | apply State.calibrateDram_keeps | apply State.endItems_keeps | apply Keeps.ite | apply Keeps.foldl | apply Keeps.foldl_fst | apply Keeps.getD | split)

theorem State.trainNext_keeps {p : List Instr} {s : State} {id : Nat} {fails : List Nat} {trims : List Byte} (h : Keeps p s) : Keeps p (State.trainNext s id fails trims) := by
  unfold State.trainNext
  repeat' with_reducible (first | exact h | intro _ | assumption | simp only [Keeps.mk_fields] | apply State.record_keeps | apply State.mapOut_keeps | apply State.takeWaiting_keeps | apply State.wakeQuad_keeps | apply State.itemDone_keeps | apply State.setQuad_keeps | apply Keeps.ite | apply Keeps.foldl | apply Keeps.foldl_fst | apply Keeps.getD | split)

theorem execDramTrain_keeps {p : List Instr} {s t : State} {id : Nat} {_bus : Bus} {fails : List Nat} {trims : List Byte} (h : Keeps p s) (e : execDramTrain id _bus fails trims s = .next t) : Keeps p t := by
  unfold execDramTrain at e
  injection e with e
  subst e
  repeat' with_reducible (first | exact h | intro _ | assumption | simp only [Keeps.mk_fields] | apply State.trainNext_keeps | apply State.runOp_keeps | apply State.finishAs_keeps | apply State.refuse_keeps | apply State.defer_keeps | apply State.itemDone_keeps | apply Keeps.ite | apply Keeps.foldl | apply Keeps.foldl_fst | apply Keeps.getD | split)

theorem execWindowSet_keeps {p : List Instr} {s t : State} {id : Nat} {bus : Bus} (h : Keeps p s) (e : execWindowSet id bus s = .next t) : Keeps p t := by
  unfold execWindowSet at e
  injection e with e
  subst e
  repeat' with_reducible (first | exact h | intro _ | assumption | simp only [Keeps.mk_fields] | apply State.runOpAgain_keeps | apply State.refuse_keeps | apply State.takeWaiting_keeps | apply State.hold_keeps | apply State.setFld_keeps | apply State.finishOne_keeps | apply Keeps.ite | apply Keeps.foldl | apply Keeps.foldl_fst | apply Keeps.getD | split)

end Sys2Proof.Machine
end

