-- ==== Sys2Proof/Laws/KeepsTime.lean ====
section
/-! SUPPORT. Every operation of Machine/Time.lean keeps the queue and the canonical stores. -/

namespace Sys2Proof.Machine

open Sys2Proof

theorem State.setTrig_keeps {p : List Instr} {s : State} {t1 : Nat} {x : Trig} (h : Keeps p s) : Keeps p (State.setTrig s t1 x) := by
  unfold State.setTrig
  repeat' with_reducible (first | exact h | intro _ | assumption | simp only [Keeps.mk_fields] | apply Keeps.ite | apply Keeps.foldl | apply Keeps.foldl_fst | apply Keeps.getD | split)

theorem State.drive_keeps {p : List Instr} {s : State} {t1 : Nat} {level : Bool} (h : Keeps p s) : Keeps p (State.drive s t1 level) := by
  unfold State.drive
  repeat' with_reducible (first | exact h | intro _ | assumption | simp only [Keeps.mk_fields] | apply State.emit_keeps | apply State.setTrig_keeps | apply Keeps.ite | apply Keeps.foldl | apply Keeps.foldl_fst | apply Keeps.getD | split)

theorem State.firePin_keeps {p : List Instr} {s : State} {t1 : Nat} (h : Keeps p s) : Keeps p (State.firePin s t1) := by
  unfold State.firePin
  repeat' with_reducible (first | exact h | intro _ | assumption | simp only [Keeps.mk_fields] | apply State.drive_keeps | apply Keeps.ite | apply Keeps.foldl | apply Keeps.foldl_fst | apply Keeps.getD | split)

theorem State.fireClamps_keeps {p : List Instr} {s : State} {t1 : Nat} {at_ : Nat} (h : Keeps p s) : Keeps p (State.fireClamps s t1 at_) := by
  unfold State.fireClamps
  repeat' with_reducible (first | exact h | intro _ | assumption | simp only [Keeps.mk_fields] | apply State.setFld_keeps | apply State.bump_keeps | apply Keeps.ite | apply Keeps.foldl | apply Keeps.foldl_fst | apply Keeps.getD | split)

theorem State.fire_keeps {p : List Instr} {s : State} {b : Bus} {t1 : Nat} {at_ : Nat} (h : Keeps p s) : Keeps p (State.fire s b t1 at_) := by
  unfold State.fire
  repeat' with_reducible (first | exact h | intro _ | assumption | simp only [Keeps.mk_fields] | apply State.firePin_keeps | apply State.snapshot_keeps | apply State.startEthList_keeps | apply State.bump_keeps | apply State.fireClamps_keeps | apply State.setFld_keeps | apply State.setTrig_keeps | apply Keeps.ite | apply Keeps.foldl | apply Keeps.foldl_fst | apply Keeps.getD | split)

theorem State.armTrigger_keeps {p : List Instr} {s : State} {b : Bus} {t1 : Nat} {data : Nat} (h : Keeps p s) : Keeps p (State.armTrigger s b t1 data) := by
  unfold State.armTrigger
  repeat' with_reducible (first | exact h | intro _ | assumption | simp only [Keeps.mk_fields] | apply State.setReg_keeps | apply State.applyShd_keeps | apply State.setFld_keeps | apply State.setTrig_keeps | apply State.post_keeps | apply State.fire_keeps | apply State.drive_keeps | apply Keeps.ite | apply Keeps.foldl | apply Keeps.foldl_fst | apply Keeps.getD | split)

theorem execTriggerArmWrite_keeps {p : List Instr} {s t : State} {client : Nat} {t1 : Nat} {data : Nat} {bus : Bus} (h : Keeps p s) (e : execTriggerArmWrite client t1 data bus s = .next t) : Keeps p t := by
  unfold execTriggerArmWrite at e
  injection e with e
  subst e
  repeat' with_reducible (first | exact h | intro _ | assumption | simp only [Keeps.mk_fields] | apply State.pf0Write_keeps | apply State.bar0_keeps | apply State.drop_keeps | apply State.armTrigger_keeps | apply Keeps.ite | apply Keeps.foldl | apply Keeps.foldl_fst | apply Keeps.getD | split)

theorem execTriggerFire_keeps {p : List Instr} {s t : State} {t1 : Nat} {bus : Bus} (h : Keeps p s) (e : execTriggerFire t1 bus s = .next t) : Keeps p t := by
  unfold execTriggerFire at e
  injection e with e
  subst e
  repeat' with_reducible (first | exact h | intro _ | assumption | simp only [Keeps.mk_fields] | apply State.drive_keeps | apply State.fire_keeps | apply Keeps.ite | apply Keeps.foldl | apply Keeps.foldl_fst | apply Keeps.getD | split)

theorem State.setOffset_keeps {p : List Instr} {s : State} {o : Int} (h : Keeps p s) : Keeps p (State.setOffset s o) := by
  unfold State.setOffset
  repeat' with_reducible (first | exact h | intro _ | assumption | simp only [Keeps.mk_fields] | apply State.setFld_keeps | apply Keeps.ite | apply Keeps.foldl | apply Keeps.foldl_fst | apply Keeps.getD | split)

theorem State.stepped_keeps {p : List Instr} {s : State} {b : Bus} {before : State} (h : Keeps p s) : Keeps p (State.stepped s b before) := by
  unfold State.stepped
  repeat' with_reducible (first | exact h | intro _ | assumption | simp only [Keeps.mk_fields] | apply State.abandonWindows_keeps | apply State.post_keeps | apply State.setGates_keeps | apply State.showEthList_keeps | apply State.setEp_keeps | apply State.fire_keeps | apply State.setTrig_keeps | apply Keeps.ite | apply Keeps.foldl | apply Keeps.foldl_fst | apply Keeps.getD | split)

theorem State.loadO_keeps {p : List Instr} {s : State} {bus : Bus} (h : Keeps p s) : Keeps p (State.loadO s bus) := by
  unfold State.loadO
  repeat' with_reducible (first | exact h | intro _ | assumption | simp only [Keeps.mk_fields] | apply State.stepped_keeps | apply State.bump_keeps | apply State.setOffset_keeps | apply Keeps.ite | apply Keeps.foldl | apply Keeps.foldl_fst | apply Keeps.getD | split)

theorem execPtpLoadO_keeps {p : List Instr} {s t : State} {client : Nat} {bus : Bus} (h : Keeps p s) (e : execPtpLoadO client bus s = .next t) : Keeps p t := by
  unfold execPtpLoadO at e
  injection e with e
  subst e
  repeat' with_reducible (first | exact h | intro _ | assumption | simp only [Keeps.mk_fields] | apply State.pf0Write_keeps | apply State.bar0_keeps | apply State.loadO_keeps | apply Keeps.ite | apply Keeps.foldl | apply Keeps.foldl_fst | apply Keeps.getD | split)

theorem State.stepTime_keeps {p : List Instr} {s : State} {bus : Bus} (h : Keeps p s) : Keeps p (State.stepTime s bus) := by
  unfold State.stepTime
  repeat' with_reducible (first | exact h | intro _ | assumption | simp only [Keeps.mk_fields] | apply State.bump_keeps | apply State.stepped_keeps | apply State.setOffset_keeps | apply Keeps.ite | apply Keeps.foldl | apply Keeps.foldl_fst | apply Keeps.getD | split)

theorem execPtpStep_keeps {p : List Instr} {s t : State} {client : Nat} {bus : Bus} (h : Keeps p s) (e : execPtpStep client bus s = .next t) : Keeps p t := by
  unfold execPtpStep at e
  injection e with e
  subst e
  repeat' with_reducible (first | exact h | intro _ | assumption | simp only [Keeps.mk_fields] | apply State.pf0Write_keeps | apply State.bar0_keeps | apply State.stepTime_keeps | apply Keeps.ite | apply Keeps.foldl | apply Keeps.foldl_fst | apply Keeps.getD | split)

theorem State.loadRho_keeps {p : List Instr} {s : State} (h : Keeps p s) : Keeps p (State.loadRho s) := by
  unfold State.loadRho
  repeat' with_reducible (first | exact h | intro _ | assumption | simp only [Keeps.mk_fields] | apply State.setOffset_keeps | apply State.setFld_keeps | apply Keeps.ite | apply Keeps.foldl | apply Keeps.foldl_fst | apply Keeps.getD | split)

theorem execPtpLoadRho_keeps {p : List Instr} {s t : State} {client : Nat} (h : Keeps p s) (e : execPtpLoadRho client s = .next t) : Keeps p t := by
  unfold execPtpLoadRho at e
  injection e with e
  subst e
  repeat' with_reducible (first | exact h | intro _ | assumption | simp only [Keeps.mk_fields] | apply State.pf0Write_keeps | apply State.bar0_keeps | apply State.loadRho_keeps | apply Keeps.ite | apply Keeps.foldl | apply Keeps.foldl_fst | apply Keeps.getD | split)

theorem State.latchXsec_keeps {p : List Instr} {s : State} (h : Keeps p s) : Keeps p (State.latchXsec s) := by
  unfold State.latchXsec
  repeat' with_reducible (first | exact h | intro _ | assumption | simp only [Keeps.mk_fields] | apply State.setFld_keeps | apply Keeps.ite | apply Keeps.foldl | apply Keeps.foldl_fst | apply Keeps.getD | split)

theorem execPtpNowRead_keeps {p : List Instr} {s t : State} {client : Nat} (h : Keeps p s) (e : execPtpNowRead client s = .next t) : Keeps p t := by
  unfold execPtpNowRead at e
  injection e with e
  subst e
  repeat' with_reducible (first | exact h | intro _ | assumption | simp only [Keeps.mk_fields] | apply State.pf0Read_keeps | apply State.bar0_keeps | apply State.latchXsec_keeps | apply Keeps.ite | apply Keeps.foldl | apply Keeps.foldl_fst | apply Keeps.getD | split)

theorem State.setCap_keeps {p : List Instr} {s : State} {c : Nat} {x : CapIn} (h : Keeps p s) : Keeps p (State.setCap s c x) := by
  unfold State.setCap
  repeat' with_reducible (first | exact h | intro _ | assumption | simp only [Keeps.mk_fields] | apply State.setFld_keeps | apply Keeps.ite | apply Keeps.foldl | apply Keeps.foldl_fst | apply Keeps.getD | split)

theorem execCaptureEdge_keeps {p : List Instr} {s t : State} {c : Nat} {rising : Bool} (h : Keeps p s) (e : execCaptureEdge c rising s = .next t) : Keeps p t := by
  unfold execCaptureEdge at e
  injection e with e
  subst e
  repeat' with_reducible (first | exact h | intro _ | assumption | simp only [Keeps.mk_fields] | apply State.bump_keeps | apply State.setCap_keeps | apply State.postLimited_keeps | apply Keeps.ite | apply Keeps.foldl | apply Keeps.foldl_fst | apply Keeps.getD | split)

theorem State.takeEdge_keeps {p : List Instr} {s : State} {c : Nat} (h : Keeps p s) : Keeps p (State.takeEdge s c) := by
  unfold State.takeEdge
  repeat' with_reducible (first | exact h | intro _ | assumption | simp only [Keeps.mk_fields] | apply State.setCap_keeps | apply Keeps.ite | apply Keeps.foldl | apply Keeps.foldl_fst | apply Keeps.getD | split)

theorem execCapTimeRead_keeps {p : List Instr} {s t : State} {client : Nat} {c : Nat} (h : Keeps p s) (e : execCapTimeRead client c s = .next t) : Keeps p t := by
  unfold execCapTimeRead at e
  injection e with e
  subst e
  repeat' with_reducible (first | exact h | intro _ | assumption | simp only [Keeps.mk_fields] | apply State.bar0_keeps | apply State.pf0Read_keeps | apply State.takeEdge_keeps | apply Keeps.ite | apply Keeps.foldl | apply Keeps.foldl_fst | apply Keeps.getD | split)

end Sys2Proof.Machine
end

