-- ==== Sys2Proof/Laws/KeepsJobs.lean ====
section
/-! SUPPORT. Every operation of Machine/Jobs.lean keeps the queue and the canonical stores. -/

namespace Sys2Proof.Machine

open Sys2Proof

theorem State.endScarfInflate_keeps {p : List Instr} {s : State} {u : Nat} {p1 : Nat} {j : CmpJob} (h : Keeps p s) : Keeps p (State.endScarfInflate s u p1 j) := by
  unfold State.endScarfInflate
  repeat' with_reducible (first | exact h | intro _ | assumption | simp only [Keeps.mk_fields] | apply State.freeUnit_keeps | apply State.countOutcome_keeps | refine State.trsArrive_keeps_eq ‹_› ?_ | apply State.trsArrive_keeps | apply State.countWvl_keeps | apply Keeps.ite | apply Keeps.foldl | apply Keeps.foldl_fst | apply Keeps.getD | split)

theorem State.endScarfDeflate_keeps {p : List Instr} {s : State} {u : Nat} {p1 : Nat} {id : Nat} {j : CmpJob} (h : Keeps p s) : Keeps p (State.endScarfDeflate s u p1 id j) := by
  unfold State.endScarfDeflate
  repeat' with_reducible (first | exact h | intro _ | assumption | simp only [Keeps.mk_fields] | apply State.freeUnit_keeps | apply State.countOutcome_keeps | apply State.relayForm_keeps | apply Keeps.ite | apply Keeps.foldl | apply Keeps.foldl_fst | apply Keeps.getD | split)

theorem State.endCapture_keeps {p : List Instr} {s : State} {b : Bus} {u : Nat} {j : CmpJob} (h : Keeps p s) : Keeps p (State.endCapture s b u j) := by
  unfold State.endCapture
  repeat' with_reducible (first | exact h | intro _ | assumption | simp only [Keeps.mk_fields] | refine State.endDrain_keeps_eq ‹_› ?_ | apply State.endDrain_keeps | apply State.freeUnit_keeps | apply State.countOutcome_keeps | apply Keeps.ite | apply Keeps.foldl | apply Keeps.foldl_fst | apply Keeps.getD | split)

theorem execCompressionJobEnd_keeps {p : List Instr} {s t : State} {u : Nat} {bus : Bus} (h : Keeps p s) (e : execCompressionJobEnd u bus s = .next t) : Keeps p t := by
  unfold execCompressionJobEnd at e
  injection e with e
  subst e
  repeat' with_reducible (first | exact h | intro _ | assumption | simp only [Keeps.mk_fields] | apply State.endSoftware_keeps | apply State.endScarfInflate_keeps | apply State.endScarfDeflate_keeps | apply State.endCapture_keeps | apply Keeps.ite | apply Keeps.foldl | apply Keeps.foldl_fst | apply Keeps.getD | split)

end Sys2Proof.Machine
end

