-- ==== Sys2Proof/Laws/KeepsHeat.lean ====
section
/-! SUPPORT. Every operation of Machine/Heat.lean keeps the queue and the canonical stores. -/

namespace Sys2Proof.Machine

open Sys2Proof

theorem State.retimeAll_keeps {p : List Instr} {s : State} (h : Keeps p s) : Keeps p (State.retimeAll s) := by
  unfold State.retimeAll
  repeat' with_reducible (first | exact h | intro _ | assumption | simp only [Keeps.mk_fields] | apply State.retimeBent_keeps | apply State.setNoc_keeps | apply State.setPart_keeps | apply State.retimeQuad_keeps | apply Keeps.ite | apply Keeps.foldl | apply Keeps.foldl_fst | apply Keeps.getD | split)

theorem State.setSensor_keeps {p : List Instr} {s : State} {n : Nat} {x : Sensor} (h : Keeps p s) : Keeps p (State.setSensor s n x) := by
  unfold State.setSensor
  repeat' with_reducible (first | exact h | intro _ | assumption | simp only [Keeps.mk_fields] | apply Keeps.ite | apply Keeps.foldl | apply Keeps.foldl_fst | apply Keeps.getD | split)

theorem State.postThreshold_keeps {p : List Instr} {s : State} {n : Nat} {st : Nat} {entry : Bool} (h : Keeps p s) : Keeps p (State.postThreshold s n st entry) := by
  unfold State.postThreshold
  repeat' with_reducible (first | exact h | intro _ | assumption | simp only [Keeps.mk_fields] | apply State.post_keeps | apply Keeps.ite | apply Keeps.foldl | apply Keeps.foldl_fst | apply Keeps.getD | split)

theorem State.leaveStates_keeps {p : List Instr} {s : State} {n : Nat} {x : Sensor} {a1 : Nat} (h : Keeps p s) : Keeps p (State.leaveStates n x a1 s) := by
  induction a1 generalizing n x s <;> unfold State.leaveStates <;>
  repeat' with_reducible (first | exact h | intro _ | assumption | apply_assumption | simp only [Keeps.mk_fields] | apply State.postThreshold_keeps | apply State.setFld_keeps | apply Keeps.ite | apply Keeps.foldl | apply Keeps.foldl_fst | apply Keeps.getD | split)

theorem State.showWorst_keeps {p : List Instr} {s : State} {z : Nat} (h : Keeps p s) : Keeps p (State.showWorst s z) := by
  unfold State.showWorst
  repeat' with_reducible (first | exact h | intro _ | assumption | simp only [Keeps.mk_fields] | apply State.setFld_keeps | apply Keeps.ite | apply Keeps.foldl | apply Keeps.foldl_fst | apply Keeps.getD | split)

theorem State.checkPass_keeps {p : List Instr} {s : State} {status : Nat} (h : Keeps p s) : Keeps p (State.checkPass s status) := by
  unfold State.checkPass
  repeat' with_reducible (first | exact h | intro _ | assumption | simp only [Keeps.mk_fields] | apply State.stopPass_keeps | apply Keeps.ite | apply Keeps.foldl | apply Keeps.foldl_fst | apply Keeps.getD | split)

theorem State.setLevel_keeps {p : List Instr} {s : State} {z : Nat} {level : Nat} {began : Bool} {ended : Bool} (h : Keeps p s) : Keeps p (State.setLevel s z level began ended) := by
  unfold State.setLevel
  repeat' with_reducible (first | exact h | intro _ | assumption | simp only [Keeps.mk_fields] | apply State.setFld_keeps | apply State.bump_keeps | apply State.postLimited_keeps | apply State.checkPass_keeps | apply State.retimeAll_keeps | apply Keeps.ite | apply Keeps.foldl | apply Keeps.foldl_fst | apply Keeps.getD | split)

theorem State.sleepBent_keeps {p : List Instr} {s : State} {b : Nat} {status : Nat} (h : Keeps p s) : Keeps p (State.sleepBent s b status) := by
  unfold State.sleepBent
  repeat' with_reducible (first | exact h | intro _ | assumption | simp only [Keeps.mk_fields] | apply State.endItems_keeps | apply State.bentOut_keeps | apply State.drainBent_keeps | apply Keeps.ite | apply Keeps.foldl | apply Keeps.foldl_fst | apply Keeps.getD | split)

theorem State.jobCut_keeps {p : List Instr} {s : State} {j : CmpJob} {status : Nat} (h : Keeps p s) : Keeps p (State.jobCut s j status) := by
  unfold State.jobCut
  repeat' with_reducible (first | exact h | intro _ | assumption | simp only [Keeps.mk_fields] | apply State.abort_keeps | apply State.relayForm_keeps | apply State.countWvl_keeps | apply State.setUnit_keeps | apply Keeps.ite | apply Keeps.foldl | apply Keeps.foldl_fst | apply Keeps.getD | split)

theorem State.cutJob_keeps {p : List Instr} {s : State} {u : Nat} {status : Nat} (h : Keeps p s) : Keeps p (State.cutJob s u status) := by
  unfold State.cutJob
  repeat' with_reducible (first | exact h | intro _ | assumption | simp only [Keeps.mk_fields] | apply State.jobCut_keeps | apply State.cutUnit_keeps | apply Keeps.ite | apply Keeps.foldl | apply Keeps.foldl_fst | apply Keeps.getD | split)

theorem State.cutPipes_keeps {p : List Instr} {s : State} (h : Keeps p s) : Keeps p (State.cutPipes s) := by
  unfold State.cutPipes
  repeat' with_reducible (first | exact h | intro _ | assumption | simp only [Keeps.mk_fields] | apply State.setPipe_keeps | apply State.loseUnit_keeps | apply Keeps.ite | apply Keeps.foldl | apply Keeps.foldl_fst | apply Keeps.getD | split)

theorem State.critBegins_keeps {p : List Instr} {s : State} {z : Nat} (h : Keeps p s) : Keeps p (State.critBegins s z) := by
  unfold State.critBegins
  repeat' with_reducible (first | exact h | intro _ | assumption | simp only [Keeps.mk_fields] | apply State.setLevel_keeps | apply State.setFld_keeps | apply State.sleepBent_keeps | apply State.cutJob_keeps | apply State.cutBlit_keeps | apply State.cutPipes_keeps | apply State.setPart_keeps | apply Keeps.ite | apply Keeps.foldl | apply Keeps.foldl_fst | apply Keeps.getD | split)

theorem State.showHold_keeps {p : List Instr} {s : State} {z : Nat} (h : Keeps p s) : Keeps p (State.showHold s z) := by
  unfold State.showHold
  repeat' with_reducible (first | exact h | intro _ | assumption | simp only [Keeps.mk_fields] | apply State.setFld_keeps | apply Keeps.ite | apply Keeps.foldl | apply Keeps.foldl_fst | apply Keeps.getD | split)

theorem State.zoneAfter_keeps {p : List Instr} {s : State} {z : Nat} {before : Nat} (h : Keeps p s) : Keeps p (State.zoneAfter s z before) := by
  unfold State.zoneAfter
  repeat' with_reducible (first | exact h | intro _ | assumption | simp only [Keeps.mk_fields] | apply State.critBegins_keeps | apply State.setLevel_keeps | apply State.setFld_keeps | apply Keeps.ite | apply Keeps.foldl | apply Keeps.foldl_fst | apply Keeps.getD | split)

theorem State.abandonQueue_keeps {p : List Instr} {s : State} {k : Nat} (h : Keeps p s) : Keeps p (State.abandonQueue s k) := by
  unfold State.abandonQueue
  repeat' with_reducible (first | exact h | intro _ | assumption | simp only [Keeps.mk_fields] | apply State.setQueue_keeps | apply State.count_keeps | apply Keeps.ite | apply Keeps.foldl | apply Keeps.foldl_fst | apply Keeps.getD | split)

theorem State.closeCommands_keeps {p : List Instr} {s : State} {fs : List Nat} {status : Nat} (h : Keeps p s) : Keeps p (State.closeCommands s fs status).1 := by
  unfold State.closeCommands
  repeat' with_reducible (first | exact h | intro _ | assumption | simp only [Keeps.mk_fields] | apply Keeps.ite | apply Keeps.foldl | apply Keeps.foldl_fst | apply Keeps.getD | split)

theorem State.closeCommands_keeps_eq {p : List Instr} {s t : State} {fs : List Nat} {status : Nat} {ret} (e : State.closeCommands s fs status = (t, ret)) (h : Keeps p s) : Keeps p t := by
  have := State.closeCommands_keeps (p := p) h (s := s) (fs := fs) (status := status)
  rwa [e] at this

theorem State.offDomain_keeps {p : List Instr} {s : State} {d : Nat} (h : Keeps p s) : Keeps p (State.offDomain s d) := by
  unfold State.offDomain
  repeat' with_reducible (first | exact h | intro _ | assumption | simp only [Keeps.mk_fields] | apply State.setFld_keeps | apply State.setDomain_keeps | apply Keeps.ite | apply Keeps.foldl | apply Keeps.foldl_fst | apply Keeps.getD | split)

theorem State.cutPower_keeps {p : List Instr} {s : State} (h : Keeps p s) : Keeps p (State.cutPower s) := by
  unfold State.cutPower
  repeat' with_reducible (first | exact h | intro _ | assumption | apply Keeps.no_dram | simp only [Keeps.mk_fields] | apply State.dropPiece_keeps | apply State.abandonQueue_keeps | apply State.sleepQuad_keeps | apply State.offDomain_keeps | apply Keeps.ite | apply Keeps.foldl | apply Keeps.foldl_fst | apply Keeps.getD | split)

theorem State.cutMgt_keeps {p : List Instr} {s : State} (h : Keeps p s) : Keeps p (State.cutMgt s) := by
  unfold State.cutMgt
  repeat' with_reducible (first | exact h | intro _ | assumption | simp only [Keeps.mk_fields] | apply State.offDomain_keeps | apply Keeps.ite | apply Keeps.foldl | apply Keeps.foldl_fst | apply Keeps.getD | split)

theorem State.shutTrip_keeps {p : List Instr} {s : State} {n : Nat} (h : Keeps p s) : Keeps p (State.shutTrip s n) := by
  unfold State.shutTrip
  repeat' with_reducible (first | exact h | intro _ | assumption | simp only [Keeps.mk_fields] | apply State.setFld_keeps | refine State.closeCommands_keeps_eq ‹_› ?_ | apply State.closeCommands_keeps | apply State.bump_keeps | apply State.cutPower_keeps | apply State.cutMgt_keeps | apply Keeps.ite | apply Keeps.foldl | apply Keeps.foldl_fst | apply Keeps.getD | split)

theorem State.schedule_keeps {p : List Instr} {s : State} {n : Nat} (h : Keeps p s) : Keeps p (State.schedule s n) := by
  unfold State.schedule
  repeat' with_reducible (first | exact h | intro _ | assumption | simp only [Keeps.mk_fields] | apply State.setSensor_keeps | apply Keeps.ite | apply Keeps.foldl | apply Keeps.foldl_fst | apply Keeps.getD | split)

theorem State.convert_keeps {p : List Instr} {s : State} {n : Nat} {t1 : Int} (h : Keeps p s) : Keeps p (State.convert s n t1) := by
  unfold State.convert
  repeat' with_reducible (first | exact h | intro _ | assumption | simp only [Keeps.mk_fields] | apply State.setFld_keeps | apply State.bump_keeps | apply State.setSensor_keeps | apply State.postThreshold_keeps | apply State.leaveStates_keeps | apply State.zoneAfter_keeps | apply State.setLevel_keeps | apply State.post_keeps | apply State.showWorst_keeps | apply State.showHold_keeps | apply State.shutTrip_keeps | apply Keeps.ite | apply Keeps.foldl | apply Keeps.foldl_fst | apply Keeps.getD | split)

theorem execSensorConversion_keeps {p : List Instr} {s t : State} {n : Nat} {t1 : Int} (h : Keeps p s) (e : execSensorConversion n t1 s = .next t) : Keeps p t := by
  unfold execSensorConversion at e
  injection e with e
  subst e
  repeat' with_reducible (first | exact h | intro _ | assumption | simp only [Keeps.mk_fields] | apply State.schedule_keeps | apply State.convert_keeps | apply Keeps.ite | apply Keeps.foldl | apply Keeps.foldl_fst | apply Keeps.getD | split)

theorem execZoneStep_keeps {p : List Instr} {s t : State} {z : Nat} (h : Keeps p s) (e : execZoneStep z s = .next t) : Keeps p t := by
  unfold execZoneStep at e
  injection e with e
  subst e
  repeat' with_reducible (first | exact h | intro _ | assumption | simp only [Keeps.mk_fields] | apply State.showHold_keeps | apply State.setLevel_keeps | apply Keeps.ite | apply Keeps.foldl | apply Keeps.foldl_fst | apply Keeps.getD | split)

theorem execShutTrip_keeps {p : List Instr} {s t : State} {n : Nat} (h : Keeps p s) (e : execShutTrip n s = .next t) : Keeps p t := by
  unfold execShutTrip at e
  injection e with e
  subst e
  repeat' with_reducible (first | exact h | intro _ | assumption | simp only [Keeps.mk_fields] | apply State.shutTrip_keeps | apply Keeps.ite | apply Keeps.foldl | apply Keeps.foldl_fst | apply Keeps.getD | split)

theorem execShutNvmProgramEnd_keeps {p : List Instr} {s t : State} {late : Bool} (h : Keeps p s) (e : execShutNvmProgramEnd late s = .next t) : Keeps p t := by
  unfold execShutNvmProgramEnd at e
  injection e with e
  subst e
  repeat' with_reducible (first | exact h | intro _ | assumption | simp only [Keeps.mk_fields] | apply State.cutMgt_keeps | apply State.setFld_keeps | apply State.commitRecord_keeps | apply Keeps.ite | apply Keeps.foldl | apply Keeps.foldl_fst | apply Keeps.getD | split)

theorem execThermalSet_keeps {p : List Instr} {s t : State} {id : Nat} {bus : Bus} (h : Keeps p s) (e : execThermalSet id bus s = .next t) : Keeps p t := by
  unfold execThermalSet at e
  injection e with e
  subst e
  repeat' with_reducible (first | exact h | intro _ | assumption | simp only [Keeps.mk_fields] | apply State.runOp_keeps | apply State.refuse_keeps | apply State.setReg_keeps | apply State.finishAs_keeps | apply Keeps.ite | apply Keeps.foldl | apply Keeps.foldl_fst | apply Keeps.getD | split)

theorem State.sampleSensors_keeps {p : List Instr} {s : State} {n : Nat} {a1 : List Int} (h : Keeps p s) : Keeps p (State.sampleSensors s n a1).1 := by
  induction a1 generalizing s n <;> unfold State.sampleSensors <;>
  repeat' with_reducible (first | exact h | intro _ | assumption | apply_assumption | simp only [Keeps.mk_fields] | apply State.convert_keeps | apply State.schedule_keeps | apply Keeps.ite | apply Keeps.foldl | apply Keeps.foldl_fst | apply Keeps.getD | split)

theorem State.sampleSensors_keeps_eq {p : List Instr} {s t : State} {n : Nat} {a1 : List Int} {ret} (e : State.sampleSensors s n a1 = (t, ret)) (h : Keeps p s) : Keeps p t := by
  have := State.sampleSensors_keeps (p := p) h (s := s) (n := n) (a1 := a1)
  rwa [e] at this

theorem execThermalSample_keeps {p : List Instr} {s t : State} {id : Nat} {bus : Bus} {temps : List Int} (h : Keeps p s) (e : execThermalSample id bus temps s = .next t) : Keeps p t := by
  unfold execThermalSample at e
  injection e with e
  subst e
  repeat' with_reducible (first | exact h | intro _ | assumption | simp only [Keeps.mk_fields] | apply State.runOp_keeps | apply State.refuse_keeps | refine State.sampleSensors_keeps_eq ‹_› ?_ | apply State.sampleSensors_keeps | refine State.writeRecords_keeps_eq ‹_› ?_ | apply State.writeRecords_keeps | apply State.finishAs_keeps | apply Keeps.ite | apply Keeps.foldl | apply Keeps.foldl_fst | apply Keeps.getD | split)

end Sys2Proof.Machine
end

