-- ==== Sys2Proof/Laws/KeepsPower.lean ====
section
/-! SUPPORT. Every operation of Machine/Power.lean keeps the queue and the canonical stores. -/

namespace Sys2Proof.Machine

open Sys2Proof

theorem execVinSample_keeps {p : List Instr} {s t : State} {vin : Nat} {pin : Nat} (h : Keeps p s) (e : execVinSample vin pin s = .next t) : Keeps p t := by
  unfold execVinSample at e
  injection e with e
  subst e
  repeat' with_reducible (first | exact h | intro _ | assumption | simp only [Keeps.mk_fields] | apply State.setFld_keeps | apply State.post_keeps | apply Keeps.ite | apply Keeps.foldl | apply Keeps.foldl_fst | apply Keeps.getD | split)

theorem State.showGovernor_keeps {p : List Instr} {s : State} {watts : Nat} (h : Keeps p s) : Keeps p (State.showGovernor s watts) := by
  unfold State.showGovernor
  repeat' with_reducible (first | exact h | intro _ | assumption | simp only [Keeps.mk_fields] | apply State.setFld_keeps | apply State.post_keeps | apply Keeps.ite | apply Keeps.foldl | apply Keeps.foldl_fst | apply Keeps.getD | split)

theorem execGovernorStep_keeps {p : List Instr} {s t : State} {rule : Nat} {p1 : Nat} (h : Keeps p s) (e : execGovernorStep rule p1 s = .next t) : Keeps p t := by
  unfold execGovernorStep at e
  injection e with e
  subst e
  repeat' with_reducible (first | exact h | intro _ | assumption | simp only [Keeps.mk_fields] | apply State.checkPass_keeps | apply State.retimeAll_keeps | apply State.showGovernor_keeps | apply State.setFld_keeps | apply State.drainBent_keeps | apply State.wakeBent_keeps | apply Keeps.ite | apply Keeps.foldl | apply Keeps.foldl_fst | apply Keeps.getD | split)

theorem execDomainSleep_keeps {p : List Instr} {s t : State} {d : Nat} {depth : Nat} (h : Keeps p s) (e : execDomainSleep d depth s = .next t) : Keeps p t := by
  unfold execDomainSleep at e
  injection e with e
  subst e
  repeat' with_reducible (first | exact h | intro _ | assumption | simp only [Keeps.mk_fields] | apply State.bentOut_keeps | apply State.setFld_keeps | apply State.setDomain_keeps | apply Keeps.ite | apply Keeps.foldl | apply Keeps.foldl_fst | apply Keeps.getD | split)

theorem State.powerFails_keeps {p : List Instr} {s : State} (h : Keeps p s) : Keeps p (State.powerFails s) := by
  unfold State.powerFails
  repeat' with_reducible (first | exact h | intro _ | assumption | simp only [Keeps.mk_fields] | refine State.closeCommands_keeps_eq ‹_› ?_ | apply State.closeCommands_keeps | apply State.setFld_keeps | apply State.setReg_keeps | apply State.cutPower_keeps | apply Keeps.ite | apply Keeps.foldl | apply Keeps.foldl_fst | apply Keeps.getD | split)

theorem execPowerFailure_keeps {p : List Instr} {s t : State} (h : Keeps p s) (e : execPowerFailure s = .next t) : Keeps p t := by
  unfold execPowerFailure at e
  injection e with e
  subst e
  repeat' with_reducible (first | exact h | intro _ | assumption | simp only [Keeps.mk_fields] | apply State.powerFails_keeps | apply Keeps.ite | apply Keeps.foldl | apply Keeps.foldl_fst | apply Keeps.getD | split)

theorem execVinOvervoltage_keeps {p : List Instr} {s t : State} (h : Keeps p s) (e : execVinOvervoltage s = .next t) : Keeps p t := by
  unfold execVinOvervoltage at e
  injection e with e
  subst e
  repeat' with_reducible (first | exact h | intro _ | assumption | simp only [Keeps.mk_fields] | apply State.powerFails_keeps | apply Keeps.ite | apply Keeps.foldl | apply Keeps.foldl_fst | apply Keeps.getD | split)

theorem execPowerFailRecordCommit_keeps {p : List Instr} {s t : State} (h : Keeps p s) (e : execPowerFailRecordCommit s = .next t) : Keeps p t := by
  unfold execPowerFailRecordCommit at e
  injection e with e
  subst e
  repeat' with_reducible (first | exact h | intro _ | assumption | simp only [Keeps.mk_fields] | apply State.commitRecord_keeps | apply State.setFld_keeps | apply Keeps.ite | apply Keeps.foldl | apply Keeps.foldl_fst | apply Keeps.getD | split)

theorem State.noteHeld_keeps {p : List Instr} {s : State} (h : Keeps p s) : Keeps p (State.noteHeld s) := by
  unfold State.noteHeld
  repeat' with_reducible (first | exact h | intro _ | assumption | simp only [Keeps.mk_fields] | apply State.setFld_keeps | apply Keeps.ite | apply Keeps.foldl | apply Keeps.foldl_fst | apply Keeps.getD | split)

theorem State.lockOut_keeps {p : List Instr} {s : State} (h : Keeps p s) : Keeps p (State.lockOut s) := by
  unfold State.lockOut
  repeat' with_reducible (first | exact h | intro _ | assumption | simp only [Keeps.mk_fields] | apply State.cutMgt_keeps | apply State.cutPower_keeps | apply State.noteHeld_keeps | apply Keeps.ite | apply Keeps.foldl | apply Keeps.foldl_fst | apply Keeps.getD | split)

theorem execUndervoltageLockout_keeps {p : List Instr} {s t : State} (h : Keeps p s) (e : execUndervoltageLockout s = .next t) : Keeps p t := by
  unfold execUndervoltageLockout at e
  injection e with e
  subst e
  repeat' with_reducible (first | exact h | intro _ | assumption | simp only [Keeps.mk_fields] | apply State.lockOut_keeps | apply Keeps.ite | apply Keeps.foldl | apply Keeps.foldl_fst | apply Keeps.getD | split)

theorem State.setPowerState_keeps {p : List Instr} {s : State} {st : Nat} (h : Keeps p s) : Keeps p (State.setPowerState s st) := by
  unfold State.setPowerState
  repeat' with_reducible (first | exact h | intro _ | assumption | simp only [Keeps.mk_fields] | apply State.post_keeps | apply State.setFld_keeps | apply Keeps.ite | apply Keeps.foldl | apply Keeps.foldl_fst | apply Keeps.getD | split)

theorem State.startStandby_keeps {p : List Instr} {s : State} (h : Keeps p s) : Keeps p (State.startStandby s) := by
  unfold State.startStandby
  repeat' with_reducible (first | exact h | intro _ | assumption | simp only [Keeps.mk_fields] | apply State.enterLink_keeps | apply State.leaveLink_keeps | apply State.sleepBent_keeps | apply Keeps.ite | apply Keeps.foldl | apply Keeps.foldl_fst | apply Keeps.getD | split)

theorem State.enterStandby_keeps {p : List Instr} {s : State} (h : Keeps p s) : Keeps p (State.enterStandby s) := by
  unfold State.enterStandby
  repeat' with_reducible (first | exact h | intro _ | assumption | simp only [Keeps.mk_fields] | apply State.setPart_keeps | apply State.setLaneQuad_keeps | apply State.sleepQuad_keeps | apply State.setNoc_keeps | apply Keeps.ite | apply Keeps.foldl | apply Keeps.foldl_fst | apply Keeps.getD | split)

theorem State.startRun_keeps {p : List Instr} {s : State} (h : Keeps p s) : Keeps p (State.startRun s) := by
  unfold State.startRun
  repeat' with_reducible (first | exact h | intro _ | assumption | simp only [Keeps.mk_fields] | apply State.wakeQuad_keeps | apply State.wakeBent_keeps | apply State.enterTrain_keeps | apply Keeps.ite | apply Keeps.foldl | apply Keeps.foldl_fst | apply Keeps.getD | split)

theorem Keeps.old_dram {p : List Instr} {X Y : State} (hx : Keeps p X) (hy : Keeps p Y) : Keeps p { X with dram := Y.dram } :=
  ⟨hx.queue, hx.canonical.1, hx.canonical.2.1, hx.canonical.2.2.1, hy.canonical.2.2.2⟩

theorem State.shed_keeps {p : List Instr} {s : State} {st : Nat} (h : Keeps p s) : Keeps p (State.shed s st) := by
  have hc := State.cutPower_keeps h
  unfold State.shed
  generalize s.cutPower = X at hc
  exact State.setPowerState_keeps
    (Keeps.ite (State.setFld_keeps (State.setDomain_keeps (Keeps.old_dram hc h))) (State.cutMgt_keeps hc))

theorem State.endForPower_keeps {p : List Instr} {s : State} {id : Nat} {all : Bool} (h : Keeps p s) : Keeps p (State.endForPower s id all) := by
  unfold State.endForPower
  repeat' with_reducible (first | exact h | intro _ | assumption | simp only [Keeps.mk_fields] | apply State.abortBlits_keeps | apply State.abort_keeps | apply Keeps.ite | apply Keeps.foldl | apply Keeps.foldl_fst | apply Keeps.getD | split)

theorem execPowerStateSet_keeps {p : List Instr} {s t : State} {id : Nat} {bus : Bus} {late : Bool} (h : Keeps p s) (e : execPowerStateSet id bus late s = .next t) : Keeps p t := by
  unfold execPowerStateSet at e
  injection e with e
  subst e
  repeat' with_reducible (first | exact h | intro _ | assumption | simp only [Keeps.mk_fields] | apply State.itemDone_keeps | apply State.setPowerState_keeps | apply State.enterStandby_keeps | apply State.shed_keeps | apply State.endForPower_keeps | apply State.finishOne_keeps | apply State.runOp_keeps | apply State.refuse_keeps | apply State.hold_keeps | apply State.defer_keeps | apply State.startStandby_keeps | apply State.startRun_keeps | apply Keeps.ite | apply Keeps.foldl | apply Keeps.foldl_fst | apply Keeps.getD | split)

end Sys2Proof.Machine
end

