-- ==== Sys2Proof/Laws/KeepsReset.lean ====
section
/-! SUPPORT. Every operation of Machine/Reset.lean keeps the queue and the canonical stores. -/

namespace Sys2Proof.Machine

open Sys2Proof

theorem State.zeroNodes_keeps {p : List Instr} {s : State} (h : Keeps p s) : Keeps p (State.zeroNodes s) := by
  unfold State.zeroNodes
  repeat' with_reducible (first | exact h | intro _ | assumption | simp only [Keeps.mk_fields] | apply Keeps.ite | apply Keeps.foldl | apply Keeps.foldl_fst | apply Keeps.getD | split)

theorem State.dropRegions_keeps {p : List Instr} {s : State} (h : Keeps p s) : Keeps p (State.dropRegions s) := by
  unfold State.dropRegions
  repeat' with_reducible (first | exact h | intro _ | assumption | simp only [Keeps.mk_fields] | apply State.dropPiece_keeps | apply State.leaveLink_keeps | apply State.discardEntries_keeps | apply State.requeue_keeps | apply State.writeOff_keeps | apply State.zeroNodes_keeps | apply Keeps.ite | apply Keeps.foldl | apply Keeps.foldl_fst | apply Keeps.getD | split)

theorem State.cutEngines_keeps {p : List Instr} {s : State} {status : Nat} (h : Keeps p s) : Keeps p (State.cutEngines s status) := by
  unfold State.cutEngines
  repeat' with_reducible (first | exact h | intro _ | assumption | simp only [Keeps.mk_fields] | apply State.cutJob_keeps | apply State.abortBlits_keeps | apply Keeps.ite | apply Keeps.foldl | apply Keeps.foldl_fst | apply Keeps.getD | split)

theorem State.cutPass_keeps {p : List Instr} {s : State} (h : Keeps p s) : Keeps p (State.cutPass s) := by
  unfold State.cutPass
  repeat' with_reducible (first | exact h | intro _ | assumption | simp only [Keeps.mk_fields] | apply State.setFld_keeps | apply State.endPass_keeps | apply Keeps.ite | apply Keeps.foldl | apply Keeps.foldl_fst | apply Keeps.getD | split)

theorem State.cutEthRings_keeps {p : List Instr} {s : State} {rs : List Nat} {ts : List Nat} (h : Keeps p s) : Keeps p (State.cutEthRings s rs ts).1 := by
  unfold State.cutEthRings
  repeat' with_reducible (first | exact h | intro _ | assumption | simp only [Keeps.mk_fields] | apply State.closeRx_keeps | apply State.closeTx_keeps | apply State.discardTx_keeps | apply Keeps.ite | apply Keeps.foldl | apply Keeps.foldl_fst | apply Keeps.getD | split)

theorem State.cutEthRings_keeps_eq {p : List Instr} {s t : State} {rs : List Nat} {ts : List Nat} {ret} (e : State.cutEthRings s rs ts = (t, ret)) (h : Keeps p s) : Keeps p t := by
  have := State.cutEthRings_keeps (p := p) h (s := s) (rs := rs) (ts := ts)
  rwa [e] at this

theorem State.closeTerms_keeps {p : List Instr} {s : State} {status : Nat} (h : Keeps p s) : Keeps p (State.closeTerms s status).1 := by
  unfold State.closeTerms
  repeat' with_reducible (first | exact h | intro _ | assumption | simp only [Keeps.mk_fields] | apply State.portLeaves_keeps | refine State.disableChecks_keeps_eq ‹_› ?_ | apply State.disableChecks_keeps | apply State.dropRegions_keeps | apply State.cutPipes_keeps | apply State.cutEngines_keeps | apply State.unbind_keeps | apply State.abandonQueue_keeps | apply State.loseRecord_keeps | refine State.cutEthRings_keeps_eq ‹_› ?_ | apply State.cutEthRings_keeps | apply State.cutPass_keeps | apply Keeps.ite | apply Keeps.foldl | apply Keeps.foldl_fst | apply Keeps.getD | split)

theorem State.closeTerms_keeps_eq {p : List Instr} {s t : State} {status : Nat} {ret} (e : State.closeTerms s status = (t, ret)) (h : Keeps p s) : Keeps p t := by
  have := State.closeTerms_keeps (p := p) h (s := s) (status := status)
  rwa [e] at this

theorem State.showReport_keeps {p : List Instr} {s : State} (h : Keeps p s) : Keeps p (State.showReport s) := by
  unfold State.showReport
  repeat' with_reducible (first | exact h | intro _ | assumption | simp only [Keeps.mk_fields] | apply State.setFld_keeps | apply Keeps.ite | apply Keeps.foldl | apply Keeps.foldl_fst | apply Keeps.getD | split)

theorem State.announce_keeps {p : List Instr} {s : State} {r : Report} {client : Option Nat} (h : Keeps p s) : Keeps p (State.announce s r client) := by
  unfold State.announce
  repeat' with_reducible (first | exact h | intro _ | assumption | simp only [Keeps.mk_fields] | apply Keeps.ite | apply Keeps.foldl | apply Keeps.foldl_fst | apply Keeps.getD | split)

theorem State.afterCold_keeps {p : List Instr} {s : State} {cause : Nat} {p1 : Straps} (h : Keeps p s) :
    Keeps p (State.afterCold s cause p1) := ⟨h.queue, rfl, rfl, rfl, rfl⟩

theorem State.coldReset_keeps {p : List Instr} {s : State} {cause : Nat} {p1 : Straps} (h : Keeps p s) : Keeps p (State.coldReset s cause p1) := by
  unfold State.coldReset
  repeat' with_reducible (first | exact h | intro _ | assumption | simp only [Keeps.mk_fields] | apply State.afterCold_keeps | apply State.setFld_keeps | apply State.setReg_keeps | apply State.showReport_keeps | apply Keeps.ite | apply Keeps.foldl | apply Keeps.foldl_fst | apply Keeps.getD | split)

theorem execColdReset_keeps {p : List Instr} {s t : State} {cause : Nat} {straps : Straps} (h : Keeps p s) (e : execColdReset cause straps s = .next t) : Keeps p t := by
  unfold execColdReset at e
  injection e with e
  subst e
  repeat' with_reducible (first | exact h | intro _ | assumption | simp only [Keeps.mk_fields] | apply State.coldReset_keeps | apply Keeps.ite | apply Keeps.foldl | apply Keeps.foldl_fst | apply Keeps.getD | split)

theorem execPowerOn_keeps {p : List Instr} {s t : State} {straps : Straps} (h : Keeps p s) (e : execPowerOn straps s = .next t) : Keeps p t := by
  unfold execPowerOn at e
  injection e with e
  subst e
  repeat' with_reducible (first | exact h | intro _ | assumption | simp only [Keeps.mk_fields] | apply State.coldReset_keeps | apply Keeps.ite | apply Keeps.foldl | apply Keeps.foldl_fst | apply Keeps.getD | split)

theorem execVinReversed_keeps {p : List Instr} {s t : State} {on : Bool} {straps : Straps} (h : Keeps p s) (e : execVinReversed on straps s = .next t) : Keeps p t := by
  unfold execVinReversed at e
  injection e with e
  subst e
  repeat' with_reducible (first | exact h | intro _ | assumption | simp only [Keeps.mk_fields] | apply State.lockOut_keeps | apply State.coldReset_keeps | apply Keeps.ite | apply Keeps.foldl | apply Keeps.foldl_fst | apply Keeps.getD | split)

theorem keptStore_wf {regs : Store RegWord} {rail : Bool} (h : Store.wf resetReg regs = true) :
    Store.wf resetReg (keptStore regs rail) = true := by
  refine Store.wf_filterMap resetReg _ (fun e e' he => ?_) h
  dsimp only at he
  split at he
  all_goals
    split at he
    · cases he
    · next hv =>
      have he' := Option.some.inj he
      subst he'
      exact ⟨rfl, hv⟩

theorem State.afterWarm_keeps {p : List Instr} {s : State} {lost : Bool} {rep : Report} (h : Keeps p s) :
    Keeps p (State.afterWarm s lost rep) := by
  refine ⟨h.queue, keptStore_wf h.canonical.1, rfl, h.canonical.2.2.1, ?_⟩
  unfold State.afterWarm
  dsimp only
  split
  · rfl
  · exact h.canonical.2.2.2

theorem State.warmReset_keeps {p : List Instr} {s : State} {cause : Nat} (h : Keeps p s) : Keeps p (State.warmReset s cause) := by
  unfold State.warmReset
  repeat' with_reducible (first | exact h | intro _ | assumption | simp only [Keeps.mk_fields] | refine State.closeCommands_keeps_eq ‹_› ?_ | apply State.closeCommands_keeps | refine State.closeTerms_keeps_eq ‹_› ?_ | apply State.closeTerms_keeps | apply State.emit_keeps | apply State.showReport_keeps | apply State.bump_keeps | apply State.afterWarm_keeps | apply Keeps.ite | apply Keeps.foldl | apply Keeps.foldl_fst | apply Keeps.getD | split)

theorem execWarmReset_keeps {p : List Instr} {s t : State} {cause : Nat} (h : Keeps p s) (e : execWarmReset cause s = .next t) : Keeps p t := by
  unfold execWarmReset at e
  injection e with e
  subst e
  repeat' with_reducible (first | exact h | intro _ | assumption | simp only [Keeps.mk_fields] | apply State.warmReset_keeps | apply Keeps.ite | apply Keeps.foldl | apply Keeps.foldl_fst | apply Keeps.getD | split)

theorem execPowerFailRecovery_keeps {p : List Instr} {s t : State} (h : Keeps p s) (e : execPowerFailRecovery s = .next t) : Keeps p t := by
  unfold execPowerFailRecovery at e
  injection e with e
  subst e
  repeat' with_reducible (first | exact h | intro _ | assumption | simp only [Keeps.mk_fields] | apply State.warmReset_keeps | apply State.setFld_keeps | apply State.noteHeld_keeps | apply Keeps.ite | apply Keeps.foldl | apply Keeps.foldl_fst | apply Keeps.getD | split)

theorem execResetPinAssert_keeps {p : List Instr} {s t : State} {low : Bool} {cool : Bool} (h : Keeps p s) (e : execResetPinAssert low cool s = .next t) : Keeps p t := by
  unfold execResetPinAssert at e
  injection e with e
  subst e
  repeat' with_reducible (first | exact h | intro _ | assumption | simp only [Keeps.mk_fields] | apply State.warmReset_keeps | apply State.bump_keeps | apply Keeps.ite | apply Keeps.foldl | apply Keeps.foldl_fst | apply Keeps.getD | split)

theorem State.wake_keeps {p : List Instr} {s : State} {source : Nat} (h : Keeps p s) : Keeps p (State.wake s source) := by
  unfold State.wake
  repeat' with_reducible (first | exact h | intro _ | assumption | simp only [Keeps.mk_fields] | apply State.warmReset_keeps | apply Keeps.ite | apply Keeps.foldl | apply Keeps.foldl_fst | apply Keeps.getD | split)

theorem execHibernateWake_keeps {p : List Instr} {s t : State} {source : Nat} (h : Keeps p s) (e : execHibernateWake source s = .next t) : Keeps p t := by
  unfold execHibernateWake at e
  injection e with e
  subst e
  repeat' with_reducible (first | exact h | intro _ | assumption | simp only [Keeps.mk_fields] | apply State.wake_keeps | apply Keeps.ite | apply Keeps.foldl | apply Keeps.foldl_fst | apply Keeps.getD | split)

theorem execAonTimerExpiry_keeps {p : List Instr} {s t : State} (h : Keeps p s) (e : execAonTimerExpiry s = .next t) : Keeps p t := by
  unfold execAonTimerExpiry at e
  injection e with e
  subst e
  repeat' with_reducible (first | exact h | intro _ | assumption | simp only [Keeps.mk_fields] | apply State.wake_keeps | apply Keeps.ite | apply Keeps.foldl | apply Keeps.foldl_fst | apply Keeps.getD | split)

theorem State.forget_keeps {p : List Instr} {s : State} {was : State} {status : Nat} (h : Keeps p s) : Keeps p (State.forget s was status) := by
  unfold State.forget
  repeat' with_reducible (first | exact h | intro _ | assumption | simp only [Keeps.mk_fields] | apply State.setFld_keeps | apply State.endArm_keeps | apply State.setGates_keeps | apply State.showEthList_keeps | apply State.setEp_keeps | apply State.cutUnit_keeps | apply State.cutBlit_keeps | apply State.count_keeps | apply State.wakeQuad_keeps | apply State.takeWaiting_keeps | apply State.showBlk_keeps | apply Keeps.ite | apply Keeps.foldl | apply Keeps.foldl_fst | apply Keeps.getD | split)

theorem State.clearRegs_keeps {p : List Instr} {s : State} {lo n : Nat} (h : Keeps p s) : Keeps p (State.clearRegs s lo n) :=
  ⟨h.queue, Store.wf_filter _ _ h.canonical.1, h.canonical.2⟩

theorem State.clearRings_keeps {p : List Instr} {s : State} {f : Nat} (h : Keeps p s) : Keeps p (State.clearRings s f) := by
  unfold State.clearRings
  repeat' with_reducible (first | exact h | intro _ | assumption | simp only [Keeps.mk_fields] | apply State.clearRegs_keeps | apply State.setFld_keeps | apply Keeps.ite | apply Keeps.foldl | apply Keeps.foldl_fst | apply Keeps.getD | split)

theorem State.releaseAll_keeps {p : List Instr} {s : State} {f : Nat} (h : Keeps p s) : Keeps p (State.releaseAll s f) := by
  unfold State.releaseAll
  repeat' with_reducible (first | exact h | intro _ | assumption | simp only [Keeps.mk_fields] | apply State.releaseLayer_keeps | apply State.setCheckShadow_keeps | apply State.unbind_keeps | apply State.setReg_keeps | apply Keeps.ite | apply Keeps.foldl | apply Keeps.foldl_fst | apply Keeps.getD | split)

theorem State.resetClient_keeps {p : List Instr} {s : State} {f : Nat} {cause : Nat} (h : Keeps p s) : Keeps p (State.resetClient s f cause) := by
  unfold State.resetClient
  repeat' with_reducible (first | exact h | intro _ | assumption | simp only [Keeps.mk_fields] | refine State.closeCommands_keeps_eq ‹_› ?_ | apply State.closeCommands_keeps | apply State.releaseAll_keeps | apply State.forget_keeps | refine State.cutEthRings_keeps_eq ‹_› ?_ | apply State.cutEthRings_keeps | apply State.bump_keeps | apply State.clearRings_keeps | apply State.setFld_keeps | apply State.postNotices_keeps | apply State.announce_keeps | apply Keeps.ite | apply Keeps.foldl | apply Keeps.foldl_fst | apply Keeps.getD | split)

theorem execFunctionLevelReset_keeps {p : List Instr} {s t : State} {f : Nat} {linkB : Bool} (h : Keeps p s) (e : execFunctionLevelReset f linkB s = .next t) : Keeps p t := by
  unfold execFunctionLevelReset at e
  injection e with e
  subst e
  repeat' with_reducible (first | exact h | intro _ | assumption | simp only [Keeps.mk_fields] | apply State.resetClient_keeps | apply Keeps.ite | apply Keeps.foldl | apply Keeps.foldl_fst | apply Keeps.getD | split)

theorem execPerstAssert_keeps {p : List Instr} {s t : State} {linkB : Bool} (h : Keeps p s) (e : execPerstAssert linkB s = .next t) : Keeps p t := by
  unfold execPerstAssert at e
  injection e with e
  subst e
  repeat' with_reducible (first | exact h | intro _ | assumption | simp only [Keeps.mk_fields] | apply State.resetClient_keeps | apply State.warmReset_keeps | apply Keeps.ite | apply Keeps.foldl | apply Keeps.foldl_fst | apply Keeps.getD | split)

theorem State.setPresence_keeps {p : List Instr} {s : State} {vfEnable : Bool} {numVFs : Nat} {linkBUp : Bool} (h : Keeps p s) : Keeps p (State.setPresence s vfEnable numVFs linkBUp) := by
  unfold State.setPresence
  repeat' with_reducible (first | exact h | intro _ | assumption | simp only [Keeps.mk_fields] | apply State.setFld_keeps | apply State.resetClient_keeps | apply Keeps.ite | apply Keeps.foldl | apply Keeps.foldl_fst | apply Keeps.getD | split)

theorem execClientPresenceChange_keeps {p : List Instr} {s t : State} {vfEnable : Bool} {numVFs : Nat} {linkBUp : Bool} (h : Keeps p s) (e : execClientPresenceChange vfEnable numVFs linkBUp s = .next t) : Keeps p t := by
  unfold execClientPresenceChange at e
  injection e with e
  subst e
  repeat' with_reducible (first | exact h | intro _ | assumption | simp only [Keeps.mk_fields] | apply State.setPresence_keeps | apply Keeps.ite | apply Keeps.foldl | apply Keeps.foldl_fst | apply Keeps.getD | split)

theorem execHostLinkTrained_keeps {p : List Instr} {s t : State} {link : Nat} {rate : Nat} {width : Nat} {flit : Bool} {lanes : LinkLanes} (h : Keeps p s) (e : execHostLinkTrained link rate width flit lanes s = .next t) : Keeps p t := by
  unfold execHostLinkTrained at e
  injection e with e
  subst e
  repeat' with_reducible (first | exact h | intro _ | assumption | simp only [Keeps.mk_fields] | apply State.setFld_keeps | apply State.settleLane_keeps | apply State.post_keeps | apply State.setPresence_keeps | apply Keeps.ite | apply Keeps.foldl | apply Keeps.foldl_fst | apply Keeps.getD | split)

theorem State.resetFirmware_keeps {p : List Instr} {s : State} {cause : Nat} {but : Option Nat} (h : Keeps p s) : Keeps p (State.resetFirmware s cause but) := by
  unfold State.resetFirmware
  repeat' with_reducible (first | exact h | intro _ | assumption | simp only [Keeps.mk_fields] | apply State.abortBlits_keeps | apply State.cutJob_keeps | apply State.abort_keeps | apply State.cutPass_keeps | apply State.forget_keeps | apply State.post_keeps | apply State.bump_keeps | apply Keeps.ite | apply Keeps.foldl | apply Keeps.foldl_fst | apply Keeps.getD | split)

theorem execFirmwareWatchdogExpiry_keeps {p : List Instr} {s t : State} (h : Keeps p s) (e : execFirmwareWatchdogExpiry s = .next t) : Keeps p t := by
  unfold execFirmwareWatchdogExpiry at e
  injection e with e
  subst e
  repeat' with_reducible (first | exact h | intro _ | assumption | simp only [Keeps.mk_fields] | apply State.resetFirmware_keeps | apply Keeps.ite | apply Keeps.foldl | apply Keeps.foldl_fst | apply Keeps.getD | split)

theorem State.resetEngines_keeps {p : List Instr} {s : State} (h : Keeps p s) : Keeps p (State.resetEngines s) := by
  unfold State.resetEngines
  repeat' with_reducible (first | exact h | intro _ | assumption | simp only [Keeps.mk_fields] | apply State.cutEngines_keeps | apply State.jobCut_keeps | apply State.abort_keeps | apply Keeps.ite | apply Keeps.foldl | apply Keeps.foldl_fst | apply Keeps.getD | split)

theorem execBlockReset_keeps {p : List Instr} {s t : State} {id : Nat} {bus : Bus} (h : Keeps p s) (e : execBlockReset id bus s = .next t) : Keeps p t := by
  unfold execBlockReset at e
  injection e with e
  subst e
  repeat' with_reducible (first | exact h | intro _ | assumption | simp only [Keeps.mk_fields] | apply State.runOp_keeps | apply State.refuse_keeps | apply State.finishOne_keeps | apply State.bump_keeps | apply State.cutPipes_keeps | apply State.resetEngines_keeps | apply State.resetFirmware_keeps | apply State.hold_keeps | apply Keeps.ite | apply Keeps.foldl | apply Keeps.foldl_fst | apply Keeps.getD | split)

theorem execModuleReset_keeps {p : List Instr} {s t : State} {id : Nat} {bus : Bus} (h : Keeps p s) (e : execModuleReset id bus s = .next t) : Keeps p t := by
  unfold execModuleReset at e
  injection e with e
  subst e
  repeat' with_reducible (first | exact h | intro _ | assumption | simp only [Keeps.mk_fields] | apply State.runOp_keeps | apply State.refuse_keeps | apply State.warmReset_keeps | apply State.setCmd_keeps | apply Keeps.ite | apply Keeps.foldl | apply Keeps.foldl_fst | apply Keeps.getD | split)

theorem execStateRamParityError_keeps {p : List Instr} {s t : State} {rebuildable : Bool} {ram : Nat} {addr : Nat} (h : Keeps p s) (e : execStateRamParityError rebuildable ram addr s = .next t) : Keeps p t := by
  unfold execStateRamParityError at e
  injection e with e
  subst e
  repeat' with_reducible (first | exact h | intro _ | assumption | simp only [Keeps.mk_fields] | apply State.bump_keeps | apply State.warmReset_keeps | apply Keeps.ite | apply Keeps.foldl | apply Keeps.foldl_fst | apply Keeps.getD | split)

theorem execUncoreFault_keeps {p : List Instr} {s t : State} {die : Nat} {ready : List (Nat × Nat)} (h : Keeps p s) (e : execUncoreFault die ready s = .next t) : Keeps p t := by
  unfold execUncoreFault at e
  injection e with e
  subst e
  repeat' with_reducible (first | exact h | intro _ | assumption | simp only [Keeps.mk_fields] | apply State.retireBent_keeps | apply Keeps.ite | apply Keeps.foldl | apply Keeps.foldl_fst | apply Keeps.getD | split)

end Sys2Proof.Machine
end

