-- ==== Sys2Proof/Laws/KeepsBoot.lean ====
section
/-! SUPPORT. Every operation of Machine/Boot.lean keeps the queue and the canonical stores. -/

namespace Sys2Proof.Machine

open Sys2Proof

theorem State.runClock_keeps {p : List Instr} {s : State} {c : Nat} {mhz : Nat} (h : Keeps p s) : Keeps p (State.runClock s c mhz) := by
  unfold State.runClock
  repeat' with_reducible (first | exact h | intro _ | assumption | simp only [Keeps.mk_fields] | apply State.setFld_keeps | apply Keeps.ite | apply Keeps.foldl | apply Keeps.foldl_fst | apply Keeps.getD | split)

theorem State.startClocks_keeps {p : List Instr} {s : State} (h : Keeps p s) : Keeps p (State.startClocks s) := by
  unfold State.startClocks
  repeat' with_reducible (first | exact h | intro _ | assumption | simp only [Keeps.mk_fields] | apply State.runClock_keeps | apply Keeps.ite | apply Keeps.foldl | apply Keeps.foldl_fst | apply Keeps.getD | split)

theorem State.firmwareBack_keeps {p : List Instr} {s : State} {b : Bus} (h : Keeps p s) : Keeps p (State.firmwareBack s b) := by
  unfold State.firmwareBack
  repeat' with_reducible (first | exact h | intro _ | assumption | simp only [Keeps.mk_fields] | apply State.finishOne_keeps | apply Keeps.ite | apply Keeps.foldl | apply Keeps.foldl_fst | apply Keeps.getD | split)

theorem State.bootVerify_keeps {p : List Instr} {s : State} {b : Bus} (h : Keeps p s) : Keeps p (State.bootVerify s b) := by
  unfold State.bootVerify
  repeat' with_reducible (first | exact h | intro _ | assumption | simp only [Keeps.mk_fields] | apply State.setFld_keeps | apply State.showVersion_keeps | apply State.firmwareBack_keeps | apply State.post_keeps | apply State.startClocks_keeps | apply Keeps.ite | apply Keeps.foldl | apply Keeps.foldl_fst | apply Keeps.getD | split)

theorem execFirmwareBootVerify_keeps {p : List Instr} {s t : State} {bus : Bus} (h : Keeps p s) (e : execFirmwareBootVerify bus s = .next t) : Keeps p t := by
  unfold execFirmwareBootVerify at e
  injection e with e
  subst e
  repeat' with_reducible (first | exact h | intro _ | assumption | simp only [Keeps.mk_fields] | apply State.bootVerify_keeps | apply Keeps.ite | apply Keeps.foldl | apply Keeps.foldl_fst | apply Keeps.getD | split)

theorem execTrialConfirmExpiry_keeps {p : List Instr} {s t : State} (h : Keeps p s) (e : execTrialConfirmExpiry s = .next t) : Keeps p t := by
  unfold execTrialConfirmExpiry at e
  injection e with e
  subst e
  repeat' with_reducible (first | exact h | intro _ | assumption | simp only [Keeps.mk_fields] | apply State.setFld_keeps | apply Keeps.ite | apply Keeps.foldl | apply Keeps.foldl_fst | apply Keeps.getD | split)

theorem State.scanJournal_keeps {p : List Instr} {s : State} {factoryBad : Bool} (h : Keeps p s) : Keeps p (State.scanJournal s factoryBad) := by
  unfold State.scanJournal
  repeat' with_reducible (first | exact h | intro _ | assumption | simp only [Keeps.mk_fields] | apply State.bump_keeps | apply State.setFld_keeps | apply State.showSectors_keeps | apply State.setReg_keeps | apply Keeps.ite | apply Keeps.foldl | apply Keeps.foldl_fst | apply Keeps.getD | split)

theorem State.bootItem_keeps {p : List Instr} {s : State} {cold : Bool} {i : Nat} (h : Keeps p s) : Keeps p (State.bootItem s cold i) := by
  unfold State.bootItem
  repeat' with_reducible (first | exact h | intro _ | assumption | simp only [Keeps.mk_fields] | apply State.setFld_keeps | apply State.showSlew_keeps | apply Keeps.ite | apply Keeps.foldl | apply Keeps.foldl_fst | apply Keeps.getD | split)

theorem State.bootBent_keeps {p : List Instr} {s : State} {b : Nat} (h : Keeps p s) : Keeps p (State.bootBent s b) := by
  unfold State.bootBent
  repeat' with_reducible (first | exact h | intro _ | assumption | simp only [Keeps.mk_fields] | apply State.showAge_keeps | apply State.setFld_keeps | apply Keeps.ite | apply Keeps.foldl | apply Keeps.foldl_fst | apply Keeps.getD | split)

theorem State.bootBay_keeps {p : List Instr} {s : State} {q : Nat} (h : Keeps p s) : Keeps p (State.bootBay s q) := by
  unfold State.bootBay
  repeat' with_reducible (first | exact h | intro _ | assumption | simp only [Keeps.mk_fields] | apply State.setReg_keeps | apply Keeps.ite | apply Keeps.foldl | apply Keeps.foldl_fst | apply Keeps.getD | split)

theorem State.applyJournal_keeps {p : List Instr} {s : State} {cold : Bool} (h : Keeps p s) : Keeps p (State.applyJournal s cold) := by
  unfold State.applyJournal
  repeat' with_reducible (first | exact h | intro _ | assumption | simp only [Keeps.mk_fields] | apply State.bootItem_keeps | apply State.bootBay_keeps | apply State.bootBent_keeps | apply State.setFld_keeps | apply State.showChannels_keeps | apply Keeps.ite | apply Keeps.foldl | apply Keeps.foldl_fst | apply Keeps.getD | split)

theorem State.bootDram_keeps {p : List Instr} {s : State} {lost : Bool} {fails : List Nat} {trained : List (Nat × List Byte)} (h : Keeps p s) : Keeps p (State.bootDram s lost fails trained) := by
  unfold State.bootDram
  repeat' with_reducible (first | exact h | intro _ | assumption | simp only [Keeps.mk_fields] | apply State.record_keeps | apply State.mapOut_keeps | apply State.retimeQuad_keeps | apply State.wakeQuad_keeps | apply Keeps.ite | apply Keeps.foldl | apply Keeps.foldl_fst | apply Keeps.getD | split)

theorem State.bootDomains_keeps {p : List Instr} {s : State} (h : Keeps p s) : Keeps p (State.bootDomains s) := by
  unfold State.bootDomains
  repeat' with_reducible (first | exact h | intro _ | assumption | simp only [Keeps.mk_fields] | apply State.runClock_keeps | apply State.setNoc_keeps | apply State.setPart_keeps | apply State.wakeBent_keeps | apply State.setBentClock_keeps | apply State.setDomain_keeps | apply State.showBays_keeps | apply State.offDomain_keeps | apply State.ethTrain_keeps | apply State.setPort_keeps | apply State.setWvlDomain_keeps | apply State.enterTrain_keeps | apply State.setLaneQuad_keeps | apply Keeps.ite | apply Keeps.foldl | apply Keeps.foldl_fst | apply Keeps.getD | split)

theorem State.bootDone_keeps {p : List Instr} {s : State} (h : Keeps p s) : Keeps p (State.bootDone s) := by
  unfold State.bootDone
  repeat' with_reducible (first | exact h | intro _ | assumption | simp only [Keeps.mk_fields] | apply State.post_keeps | apply State.setFld_keeps | apply State.showReport_keeps | apply State.postNotices_keeps | apply State.announce_keeps | apply Keeps.ite | apply Keeps.foldl | apply Keeps.foldl_fst | apply Keeps.getD | split)

theorem execJournalBootScan_keeps {p : List Instr} {s t : State} {factoryBad : Bool} {fails : List Nat} {trained : List (Nat × List Byte)} (h : Keeps p s) (e : execJournalBootScan factoryBad fails trained s = .next t) : Keeps p t := by
  unfold execJournalBootScan at e
  injection e with e
  subst e
  repeat' with_reducible (first | exact h | intro _ | assumption | simp only [Keeps.mk_fields] | apply State.applyJournal_keeps | apply State.scanJournal_keeps | apply State.record_keeps | apply State.bootDone_keeps | apply State.bootDomains_keeps | apply State.bootDram_keeps | apply Keeps.ite | apply Keeps.foldl | apply Keeps.foldl_fst | apply Keeps.getD | split)

end Sys2Proof.Machine
end

