-- ==== Sys2Proof/Laws/KeepsLedger.lean ====
section
/-! SUPPORT. Every operation of Machine/Ledger.lean keeps the queue and the canonical stores. -/

namespace Sys2Proof.Machine

open Sys2Proof

theorem State.countSnapshot_keeps {p : List Instr} {s : State} (h : Keeps p s) : Keeps p (State.countSnapshot s) := by
  unfold State.countSnapshot
  repeat' with_reducible (first | exact h | intro _ | assumption | simp only [Keeps.mk_fields] | apply State.bump_keeps | apply State.post_keeps | apply Keeps.ite | apply Keeps.foldl | apply Keeps.foldl_fst | apply Keeps.getD | split)

theorem execLedgerSnapshot_keeps {p : List Instr} {s t : State} {id : Nat} {bus : Bus} (h : Keeps p s) (e : execLedgerSnapshot id bus s = .next t) : Keeps p t := by
  unfold execLedgerSnapshot at e
  injection e with e
  subst e
  repeat' with_reducible (first | exact h | intro _ | assumption | simp only [Keeps.mk_fields] | apply State.runOp_keeps | refine State.dstWrite_keeps_eq ‹_› ?_ | apply State.dstWrite_keeps | apply State.countSnapshot_keeps | apply State.putReply_keeps | apply Keeps.ite | apply Keeps.foldl | apply Keeps.foldl_fst | apply Keeps.getD | split)

theorem State.leaveAlone_keeps {p : List Instr} {s : State} (h : Keeps p s) : Keeps p (State.leaveAlone s) := by
  unfold State.leaveAlone
  repeat' with_reducible (first | exact h | intro _ | assumption | simp only [Keeps.mk_fields] | apply State.post_keeps | apply State.aloneGroups_keeps | apply State.setFld_keeps | apply Keeps.ite | apply Keeps.foldl | apply Keeps.foldl_fst | apply Keeps.getD | split)

theorem execSummarySend_keeps {p : List Instr} {s t : State} (h : Keeps p s) (e : execSummarySend s = .next t) : Keeps p t := by
  unfold execSummarySend at e
  injection e with e
  subst e
  repeat' with_reducible (first | exact h | intro _ | assumption | simp only [Keeps.mk_fields] | apply State.leaveAlone_keeps | apply State.countSnapshot_keeps | apply State.flood_keeps | apply State.summaryIn_keeps | apply Keeps.ite | apply Keeps.foldl | apply Keeps.foldl_fst | apply Keeps.getD | split)

theorem State.releaseReport_keeps {p : List Instr} {s : State} {own : Bool} {f : Nat} (h : Keeps p s) : Keeps p (State.releaseReport s own f) := by
  unfold State.releaseReport
  repeat' with_reducible (first | exact h | intro _ | assumption | simp only [Keeps.mk_fields] | apply State.setReg_keeps | apply State.showReport_keeps | apply Keeps.ite | apply Keeps.foldl | apply Keeps.foldl_fst | apply Keeps.getD | split)

theorem execReportRead_keeps {p : List Instr} {s t : State} {id : Nat} {bus : Bus} (h : Keeps p s) (e : execReportRead id bus s = .next t) : Keeps p t := by
  unfold execReportRead at e
  injection e with e
  subst e
  repeat' with_reducible (first | exact h | intro _ | assumption | simp only [Keeps.mk_fields] | apply State.runOp_keeps | apply State.refuse_keeps | refine State.hostWrite_keeps_eq ‹_› ?_ | apply State.hostWrite_keeps | apply State.releaseReport_keeps | apply State.finishOne_keeps | apply State.failOne_keeps | apply Keeps.ite | apply Keeps.foldl | apply Keeps.foldl_fst | apply Keeps.getD | split)

end Sys2Proof.Machine
end

