-- ==== Sys2Proof/Laws/KeepsPins.lean ====
section
/-! SUPPORT. Every operation of Machine/Pins.lean keeps the queue and the canonical stores. -/

namespace Sys2Proof.Machine

open Sys2Proof

theorem State.releaseAlert_keeps {p : List Instr} {s : State} (h : Keeps p s) : Keeps p (State.releaseAlert s) := by
  unfold State.releaseAlert
  repeat' with_reducible (first | exact h | intro _ | assumption | simp only [Keeps.mk_fields] | apply State.emit_keeps | apply Keeps.ite | apply Keeps.foldl | apply Keeps.foldl_fst | apply Keeps.getD | split)

theorem execSmbusStatusRead_keeps {p : List Instr} {s t : State} {ara : Bool} (h : Keeps p s) (e : execSmbusStatusRead ara s = .next t) : Keeps p t := by
  unfold execSmbusStatusRead at e
  injection e with e
  subst e
  repeat' with_reducible (first | exact h | intro _ | assumption | simp only [Keeps.mk_fields] | apply State.emit_keeps | apply State.releaseAlert_keeps | apply Keeps.ite | apply Keeps.foldl | apply Keeps.foldl_fst | apply Keeps.getD | split)

theorem State.smbusWord_keeps {p : List Instr} {s : State} {v : Nat} (h : Keeps p s) : Keeps p (State.smbusWord s v) := by
  unfold State.smbusWord
  repeat' with_reducible (first | exact h | intro _ | assumption | simp only [Keeps.mk_fields] | apply State.emit_keeps | apply Keeps.ite | apply Keeps.foldl | apply Keeps.foldl_fst | apply Keeps.getD | split)

theorem execSmbusBootStatus_keeps {p : List Instr} {s t : State} (h : Keeps p s) (e : execSmbusBootStatus s = .next t) : Keeps p t := by
  unfold execSmbusBootStatus at e
  injection e with e
  subst e
  repeat' with_reducible (first | exact h | intro _ | assumption | simp only [Keeps.mk_fields] | apply State.smbusWord_keeps | apply Keeps.ite | apply Keeps.foldl | apply Keeps.foldl_fst | apply Keeps.getD | split)

theorem execSmbusTempMax_keeps {p : List Instr} {s t : State} (h : Keeps p s) (e : execSmbusTempMax s = .next t) : Keeps p t := by
  unfold execSmbusTempMax at e
  injection e with e
  subst e
  repeat' with_reducible (first | exact h | intro _ | assumption | simp only [Keeps.mk_fields] | apply State.smbusWord_keeps | apply Keeps.ite | apply Keeps.foldl | apply Keeps.foldl_fst | apply Keeps.getD | split)

theorem execSmbusVin_keeps {p : List Instr} {s t : State} (h : Keeps p s) (e : execSmbusVin s = .next t) : Keeps p t := by
  unfold execSmbusVin at e
  injection e with e
  subst e
  repeat' with_reducible (first | exact h | intro _ | assumption | simp only [Keeps.mk_fields] | apply State.smbusWord_keeps | apply Keeps.ite | apply Keeps.foldl | apply Keeps.foldl_fst | apply Keeps.getD | split)

theorem execSmbusWake_keeps {p : List Instr} {s t : State} {data : Nat} (h : Keeps p s) (e : execSmbusWake data s = .next t) : Keeps p t := by
  unfold execSmbusWake at e
  injection e with e
  subst e
  repeat' with_reducible (first | exact h | intro _ | assumption | simp only [Keeps.mk_fields] | apply State.wake_keeps | apply Keeps.ite | apply Keeps.foldl | apply Keeps.foldl_fst | apply Keeps.getD | split)

theorem execSmbAlert_keeps {p : List Instr} {s t : State} (h : Keeps p s) (e : execSmbAlert s = .next t) : Keeps p t := by
  unfold execSmbAlert at e
  injection e with e
  subst e
  repeat' with_reducible (first | exact h | intro _ | assumption | simp only [Keeps.mk_fields] | apply State.emit_keeps | apply Keeps.ite | apply Keeps.foldl | apply Keeps.foldl_fst | apply Keeps.getD | split)

theorem execJtagInstruction_keeps {p : List Instr} {s t : State} {code : Nat} (h : Keeps p s) (e : execJtagInstruction code s = .next t) : Keeps p t := by
  unfold execJtagInstruction at e
  injection e with e
  subst e
  repeat' with_reducible (first | exact h | intro _ | assumption | simp only [Keeps.mk_fields] | apply Keeps.ite | apply Keeps.foldl | apply Keeps.foldl_fst | apply Keeps.getD | split)

theorem execRefFallback_keeps {p : List Instr} {s t : State} (h : Keeps p s) (e : execRefFallback s = .next t) : Keeps p t := by
  unfold execRefFallback at e
  injection e with e
  subst e
  repeat' with_reducible (first | exact h | intro _ | assumption | simp only [Keeps.mk_fields] | apply State.post_keeps | apply Keeps.ite | apply Keeps.foldl | apply Keeps.foldl_fst | apply Keeps.getD | split)

end Sys2Proof.Machine
end

