-- ==== Sys2Proof/Laws/KeepsTe.lean ====
section
/-! SUPPORT. Every operation of Machine/Te.lean keeps the queue and the canonical stores. -/

namespace Sys2Proof.Machine

open Sys2Proof

theorem State.applyParams_keeps {p : List Instr} {s : State} {g : Nat} (h : Keeps p s) : Keeps p (State.applyParams s g) := by
  unfold State.applyParams
  repeat' with_reducible (first | exact h | intro _ | assumption | simp only [Keeps.mk_fields] | apply State.setSeg_keeps | apply State.applyShd_keeps | apply State.forward_keeps | apply Keeps.ite | apply Keeps.foldl | apply Keeps.foldl_fst | apply Keeps.getD | split)

theorem State.restartLists_keeps {p : List Instr} {s : State} {g : Nat} {t1 : Nat} (h : Keeps p s) : Keeps p (State.restartLists s g t1) := by
  unfold State.restartLists
  repeat' with_reducible (first | exact h | intro _ | assumption | simp only [Keeps.mk_fields] | apply State.setGates_keeps | apply Keeps.ite | apply Keeps.foldl | apply Keeps.foldl_fst | apply Keeps.getD | split)

theorem State.acceptTe_keeps {p : List Instr} {s : State} {g : Nat} {t1 : Nat} {pin : Bool} (h : Keeps p s) : Keeps p (State.acceptTe s g t1 pin) := by
  unfold State.acceptTe
  repeat' with_reducible (first | exact h | intro _ | assumption | simp only [Keeps.mk_fields] | apply State.setSeg_keeps | apply State.showFree_keeps | apply State.setFld_keeps | apply State.bump_keeps | apply State.applyParams_keeps | apply State.wallTe_keeps | apply State.restartLists_keeps | apply State.boundary_keeps | apply Keeps.ite | apply Keeps.foldl | apply Keeps.foldl_fst | apply Keeps.getD | split)

theorem State.adoptCount_keeps {p : List Instr} {s : State} {g : Nat} {frame : Nat} (h : Keeps p s) : Keeps p (State.adoptCount s g frame) := by
  unfold State.adoptCount
  repeat' with_reducible (first | exact h | intro _ | assumption | simp only [Keeps.mk_fields] | apply State.post_keeps | apply State.bump_keeps | apply State.setFld_keeps | apply Keeps.ite | apply Keeps.foldl | apply Keeps.foldl_fst | apply Keeps.getD | split)

theorem execTePinEdge_keeps {p : List Instr} {s t : State} {g : Nat} {rising : Bool} (h : Keeps p s) (e : execTePinEdge g rising s = .next t) : Keeps p t := by
  unfold execTePinEdge at e
  injection e with e
  subst e
  repeat' with_reducible (first | exact h | intro _ | assumption | simp only [Keeps.mk_fields] | apply State.bump_keeps | apply State.setSeg_keeps | apply State.acceptTe_keeps | apply State.adoptCount_keeps | apply Keeps.ite | apply Keeps.foldl | apply Keeps.foldl_fst | apply Keeps.getD | split)

theorem execBackchannelTe_keeps {p : List Instr} {s t : State} {g : Nat} {frame : Nat} (h : Keeps p s) (e : execBackchannelTe g frame s = .next t) : Keeps p t := by
  unfold execBackchannelTe at e
  injection e with e
  subst e
  repeat' with_reducible (first | exact h | intro _ | assumption | simp only [Keeps.mk_fields] | apply State.setSeg_keeps | apply State.adoptCount_keeps | apply State.acceptTe_keeps | apply Keeps.ite | apply Keeps.foldl | apply Keeps.foldl_fst | apply Keeps.getD | split)

theorem execBackchannelRow_keeps {p : List Instr} {s t : State} {g : Nat} {row : Nat} {frame : Nat} (h : Keeps p s) (e : execBackchannelRow g row frame s = .next t) : Keeps p t := by
  unfold execBackchannelRow at e
  injection e with e
  subst e
  repeat' with_reducible (first | exact h | intro _ | assumption | simp only [Keeps.mk_fields] | apply State.setSeg_keeps | apply State.setFld_keeps | apply State.applyParams_keeps | apply Keeps.ite | apply Keeps.foldl | apply Keeps.foldl_fst | apply Keeps.getD | split)

theorem execFreeRunEntry_keeps {p : List Instr} {s t : State} {g : Nat} (h : Keeps p s) (e : execFreeRunEntry g s = .next t) : Keeps p t := by
  unfold execFreeRunEntry at e
  injection e with e
  subst e
  repeat' with_reducible (first | exact h | intro _ | assumption | simp only [Keeps.mk_fields] | apply State.post_keeps | apply State.showFree_keeps | apply State.setSeg_keeps | apply Keeps.ite | apply Keeps.foldl | apply Keeps.foldl_fst | apply Keeps.getD | split)

theorem execFreeRunBoundary_keeps {p : List Instr} {s t : State} {g : Nat} (h : Keeps p s) (e : execFreeRunBoundary g s = .next t) : Keeps p t := by
  unfold execFreeRunBoundary at e
  injection e with e
  subst e
  repeat' with_reducible (first | exact h | intro _ | assumption | simp only [Keeps.mk_fields] | apply State.boundary_keeps | apply State.setFld_keeps | apply Keeps.ite | apply Keeps.foldl | apply Keeps.foldl_fst | apply Keeps.getD | split)

end Sys2Proof.Machine
end

