-- ==== Sys2Proof/Laws/KeepsHostWrite.lean ====
section
/-! SUPPORT. Every operation of Machine/HostWrite.lean keeps the queue and the canonical stores. -/

namespace Sys2Proof.Machine

open Sys2Proof

theorem State.countChanges_keeps {p : List Instr} {s : State} (h : Keeps p s) : Keeps p (State.countChanges s) := by
  unfold State.countChanges
  repeat' with_reducible (first | exact h | intro _ | assumption | simp only [Keeps.mk_fields] | apply State.nextFree_keeps | apply Keeps.ite | apply Keeps.foldl | apply Keeps.foldl_fst | apply Keeps.getD | split)

theorem State.mirrorRead_keeps {p : List Instr} {s : State} {client : Nat} {off : Nat} {len : Nat} (h : Keeps p s) : Keeps p (State.mirrorRead s client off len) := by
  unfold State.mirrorRead
  repeat' with_reducible (first | exact h | intro _ | assumption | simp only [Keeps.mk_fields] | apply State.countChanges_keeps | apply State.emit_keeps | apply Keeps.ite | apply Keeps.foldl | apply Keeps.foldl_fst | apply Keeps.getD | split)

theorem execStatusMirrorRead_keeps {p : List Instr} {s t : State} {client : Nat} {off : Nat} {len : Nat} (h : Keeps p s) (e : execStatusMirrorRead client off len s = .next t) : Keeps p t := by
  unfold execStatusMirrorRead at e
  injection e with e
  subst e
  repeat' with_reducible (first | exact h | intro _ | assumption | simp only [Keeps.mk_fields] | apply State.mirrorRead_keeps | apply State.bar0_keeps | apply Keeps.ite | apply Keeps.foldl | apply Keeps.foldl_fst | apply Keeps.getD | split)

theorem State.readEffect_keeps {p : List Instr} {s : State} {r : RegSpec} {i : Nat} (h : Keeps p s) : Keeps p (State.readEffect s r i) := by
  unfold State.readEffect
  repeat' with_reducible (first | exact h | intro _ | assumption | simp only [Keeps.mk_fields] | apply State.latchXsec_keeps | apply State.takeEdge_keeps | apply State.latchPair_keeps | apply State.setFld_keeps | apply Keeps.ite | apply Keeps.foldl | apply Keeps.foldl_fst | apply Keeps.getD | split)

theorem State.readWord_keeps {p : List Instr} {s : State} {client : Nat} {off : Nat} {o : Nat} (h : Keeps p s) : Keeps p (State.readWord s client off o) := by
  unfold State.readWord
  repeat' with_reducible (first | exact h | intro _ | assumption | simp only [Keeps.mk_fields] | apply State.bar0_keeps | apply State.emit_keeps | apply State.readEffect_keeps | apply Keeps.ite | apply Keeps.foldl | apply Keeps.foldl_fst | apply Keeps.getD | split)

theorem execLowHalfReadLatch_keeps {p : List Instr} {s t : State} {client : Nat} {off : Nat} (h : Keeps p s) (e : execLowHalfReadLatch client off s = .next t) : Keeps p t := by
  unfold execLowHalfReadLatch at e
  injection e with e
  subst e
  repeat' with_reducible (first | exact h | intro _ | assumption | simp only [Keeps.mk_fields] | apply State.mirrorRead_keeps | apply State.bar0_keeps | apply State.emit_keeps | apply State.nextFree_keeps | apply State.readWord_keeps | apply Keeps.ite | apply Keeps.foldl | apply Keeps.foldl_fst | apply Keeps.getD | split)

theorem State.endArms_keeps {p : List Instr} {s : State} {g : Nat} (h : Keeps p s) : Keeps p (State.endArms s g) := by
  unfold State.endArms
  repeat' with_reducible (first | exact h | intro _ | assumption | simp only [Keeps.mk_fields] | apply State.setFld_keeps | apply State.abort_keeps | apply Keeps.ite | apply Keeps.foldl | apply Keeps.foldl_fst | apply Keeps.getD | split)

theorem State.afterWrite_keeps {p : List Instr} {s : State} {r : RegSpec} {ix : List Nat} {old : RegWord} {val : Nat} (h : Keeps p s) : Keeps p (State.afterWrite s r ix old val) := by
  unfold State.afterWrite
  repeat' with_reducible (first | exact h | intro _ | assumption | simp only [Keeps.mk_fields] | apply State.touchLayer_keeps | apply State.setReg_keeps | apply State.showPool_keeps | apply State.showGroupFree_keeps | apply State.endArms_keeps | apply State.setFld_keeps | apply State.replan_keeps | apply State.relimit_keeps | apply State.enterTrain_keeps | apply State.setSeg_keeps | apply State.setEthMode_keeps | apply State.refreshPort_keeps | apply State.checkPass_keeps | apply State.retimeAll_keeps | apply State.postNotices_keeps | apply State.seedBays_keeps | apply Keeps.ite | apply Keeps.foldl | apply Keeps.foldl_fst | apply Keeps.getD | split)

theorem Keeps.some {p : List Instr} {x t : State} (h : Keeps p x) (e : Option.some x = Option.some t) : Keeps p t := Option.some.inj e ▸ h

theorem Keeps.ite_some {p : List Instr} {c : Prop} [Decidable c] {a b : Option State} {t : State} (ha : a = Option.some t → Keeps p t)
    (hb : b = Option.some t → Keeps p t) (e : (if c then a else b) = Option.some t) : Keeps p t := by
  by_cases hc : c
  · exact ha (by rwa [if_pos hc] at e)
  · exact hb (by rwa [if_neg hc] at e)

theorem State.ownWrite_keeps_eq {p : List Instr} {s t : State} {client : Nat} {r : RegSpec} {ix : List Nat} {mask val : Nat}
    (e : State.ownWrite s client r ix mask val = Option.some t) (h : Keeps p s) : Keeps p t := by
  revert e
  unfold State.ownWrite
  dsimp only
  repeat' with_reducible (first | exact h | refine Keeps.some ?_ | refine Keeps.ite_some ?_ ?_ | exact fun e => nomatch e | simp only [Keeps.mk_fields] | apply State.setFld_keeps | apply State.sqCfgWrite_keeps | apply State.cqCfgWrite_keeps | apply State.postNotices_keeps | apply State.evCfgWrite_keeps | apply State.setReg_keeps | apply State.armTrigger_keeps | apply State.loadO_keeps | apply State.stepTime_keeps | apply State.loadRho_keeps | apply State.writePfcGlobal_keeps | apply State.putCtl_keeps | apply State.putMeterCfg_keeps | apply State.putBufCfg_keeps | apply Keeps.ite | split)

theorem State.writeNow_keeps {p : List Instr} {s : State} {client : Nat} {r : RegSpec} {ix : List Nat} {e : Nat} {mask : Nat} {val : Nat} (h : Keeps p s) : Keeps p (State.writeNow s client r ix e mask val) := by
  unfold State.writeNow
  repeat' with_reducible (first | exact h | intro _ | assumption | simp only [Keeps.mk_fields] | refine State.ownWrite_keeps_eq ‹_› ?_ | apply State.afterWrite_keeps | apply State.setReg_keeps | apply Keeps.ite | apply Keeps.foldl | apply Keeps.foldl_fst | apply Keeps.getD | split)

theorem State.withHeld_keeps {p : List Instr} {s : State} {e : Nat} (h : Keeps p s) : Keeps p (State.withHeld s e) := by
  unfold State.withHeld
  repeat' with_reducible (first | exact h | intro _ | assumption | simp only [Keeps.mk_fields] | apply State.setReg_keeps | apply Keeps.ite | apply Keeps.foldl | apply Keeps.foldl_fst | apply Keeps.getD | split)

theorem State.writeElem_keeps {p : List Instr} {s : State} {client : Nat} {r : RegSpec} {ix : List Nat} {e : Nat} {mask : Nat} {val : Nat} (h : Keeps p s) : Keeps p (State.writeElem s client r ix e mask val) := by
  unfold State.writeElem
  repeat' with_reducible (first | exact h | intro _ | assumption | simp only [Keeps.mk_fields] | apply State.writeNow_keeps | apply State.withHeld_keeps | apply State.holdWrite_keeps | apply Keeps.ite | apply Keeps.foldl | apply Keeps.foldl_fst | apply Keeps.getD | split)

theorem State.stageHalf_keeps {p : List Instr} {s : State} {client : Nat} {e : Nat} {v : Nat} (h : Keeps p s) : Keeps p (State.stageHalf s client e v) := by
  unfold State.stageHalf
  repeat' with_reducible (first | exact h | intro _ | assumption | simp only [Keeps.mk_fields] | apply Keeps.ite | apply Keeps.foldl | apply Keeps.foldl_fst | apply Keeps.getD | split)

theorem State.writeHigh_keeps {p : List Instr} {s : State} {client : Nat} {r : RegSpec} {ix : List Nat} {e : Nat} {v : Nat} (h : Keeps p s) : Keeps p (State.writeHigh s client r ix e v) := by
  unfold State.writeHigh
  repeat' with_reducible (first | exact h | intro _ | assumption | simp only [Keeps.mk_fields] | apply State.writeElem_keeps | apply Keeps.ite | apply Keeps.foldl | apply Keeps.foldl_fst | apply Keeps.getD | split)

theorem State.writeWide_keeps {p : List Instr} {s : State} {client : Nat} {r : RegSpec} {ix : List Nat} {e : Nat} {part : Nat} {n : Nat} {v : Nat} (h : Keeps p s) : Keeps p (State.writeWide s client r ix e part n v) := by
  unfold State.writeWide
  repeat' with_reducible (first | exact h | intro _ | assumption | simp only [Keeps.mk_fields] | apply State.writeElem_keeps | apply Keeps.ite | apply Keeps.foldl | apply Keeps.foldl_fst | apply Keeps.getD | split)

theorem State.writePart_keeps_eq {p : List Instr} {s t : State} {client : Nat} {o : Nat} {n : Nat} {v : Nat} (e : State.writePart s client o n v = some t) (h : Keeps p s) : Keeps p t := by
  unfold State.writePart at e
  try dsimp only at e
  repeat' with_reducible (first | contradiction | (obtain rfl := Option.some.inj e) | exact h | intro _ | assumption | simp only [Keeps.mk_fields] | apply State.writeWide_keeps | apply State.stageHalf_keeps | apply State.writeElem_keeps | apply State.writeHigh_keeps | apply Keeps.ite | apply Keeps.foldl | apply Keeps.foldl_fst | apply Keeps.getD | split | split at e)

theorem State.bar0Write_keeps {p : List Instr} {s : State} {client : Nat} {off : Nat} {size : Nat} {whole : Bool} {data : Nat} (h : Keeps p s) : Keeps p (State.bar0Write s client off size whole data) := by
  unfold State.bar0Write
  repeat' with_reducible (first | exact h | intro _ | assumption | simp only [Keeps.mk_fields] | apply State.bar0_keeps | apply State.drop_keeps | refine State.writePart_keeps_eq ‹_› ?_ | apply Keeps.ite | apply Keeps.foldl | apply Keeps.foldl_fst | apply Keeps.getD | split)

theorem execRegisterWrite_keeps {p : List Instr} {s t : State} {client : Nat} {off : Nat} {size : Nat} {whole : Bool} {data : Nat} (h : Keeps p s) (e : execRegisterWrite client off size whole data s = .next t) : Keeps p t := by
  unfold execRegisterWrite at e
  injection e with e
  subst e
  repeat' with_reducible (first | exact h | intro _ | assumption | simp only [Keeps.mk_fields] | apply State.bar0Write_keeps | apply Keeps.ite | apply Keeps.foldl | apply Keeps.foldl_fst | apply Keeps.getD | split)

theorem execLowHalfWriteStage_keeps {p : List Instr} {s t : State} {client : Nat} {off : Nat} {data : Nat} (h : Keeps p s) (e : execLowHalfWriteStage client off data s = .next t) : Keeps p t := by
  unfold execLowHalfWriteStage at e
  injection e with e
  subst e
  repeat' with_reducible (first | exact h | intro _ | assumption | simp only [Keeps.mk_fields] | apply State.bar0Write_keeps | apply Keeps.ite | apply Keeps.foldl | apply Keeps.foldl_fst | apply Keeps.getD | split)

theorem execGlbLockWrite_keeps {p : List Instr} {s t : State} {client : Nat} {data : Nat} (h : Keeps p s) (e : execGlbLockWrite client data s = .next t) : Keeps p t := by
  unfold execGlbLockWrite at e
  injection e with e
  subst e
  repeat' with_reducible (first | exact h | intro _ | assumption | simp only [Keeps.mk_fields] | apply State.bar0Write_keeps | apply Keeps.ite | apply Keeps.foldl | apply Keeps.foldl_fst | apply Keeps.getD | split)

theorem execBar4Access_keeps {p : List Instr} {s t : State} {client : Nat} {off : Nat} {write : Bool} {data : List Byte} {len : Nat} (h : Keeps p s) (e : execBar4Access client off write data len s = .next t) : Keeps p t := by
  unfold execBar4Access at e
  injection e with e
  subst e
  repeat' with_reducible (first | exact h | intro _ | assumption | simp only [Keeps.mk_fields] | apply State.memWrite_keeps | apply State.drop_keeps | refine State.memRead_keeps_eq ‹_› ?_ | apply State.memRead_keeps | apply State.emit_keeps | apply Keeps.ite | apply Keeps.foldl | apply Keeps.foldl_fst | apply Keeps.getD | split)

theorem execRingWindowWrite_keeps {p : List Instr} {s t : State} {client : Nat} {page : Nat} {r : Nat} {off : Nat} {data : List Byte} (h : Keeps p s) (e : execRingWindowWrite client page r off data s = .next t) : Keeps p t := by
  unfold execRingWindowWrite at e
  injection e with e
  subst e
  repeat' with_reducible (first | exact h | intro _ | assumption | simp only [Keeps.mk_fields] | apply State.memWrite_keeps | apply State.drop_keeps | apply Keeps.ite | apply Keeps.foldl | apply Keeps.foldl_fst | apply Keeps.getD | split)

theorem State.wakeEth_keeps {p : List Instr} {s : State} (h : Keeps p s) : Keeps p (State.wakeEth s) := by
  unfold State.wakeEth
  repeat' with_reducible (first | exact h | intro _ | assumption | simp only [Keeps.mk_fields] | apply State.setFld_keeps | apply State.setDomain_keeps | apply State.setEthMode_keeps | apply Keeps.ite | apply Keeps.foldl | apply Keeps.foldl_fst | apply Keeps.getD | split)

theorem State.wakeDomain_keeps {p : List Instr} {s : State} {d : Nat} (h : Keeps p s) : Keeps p (State.wakeDomain s d) := by
  unfold State.wakeDomain
  repeat' with_reducible (first | exact h | intro _ | assumption | simp only [Keeps.mk_fields] | apply State.wakeEth_keeps | apply State.ungate_keeps | apply State.wakeBent_keeps | apply State.setNoc_keeps | apply State.takeWaiting_keeps | apply State.wakeQuad_keeps | apply State.setLaneQuad_keeps | apply State.setWvlDomain_keeps | apply State.wakeDec_keeps | apply State.setPart_keeps | apply Keeps.ite | apply Keeps.foldl | apply Keeps.foldl_fst | apply Keeps.getD | split)

theorem execDomainWake_keeps {p : List Instr} {s t : State} {d : Nat} (h : Keeps p s) (e : execDomainWake d s = .next t) : Keeps p t := by
  unfold execDomainWake at e
  injection e with e
  subst e
  repeat' with_reducible (first | exact h | intro _ | assumption | simp only [Keeps.mk_fields] | apply State.wakeDomain_keeps | apply Keeps.ite | apply Keeps.foldl | apply Keeps.foldl_fst | apply Keeps.getD | split)

end Sys2Proof.Machine
end

