-- ==== Sys2Proof/Laws/State.lean ====
section
/-! SUPPORT. One lemma per field of the state and named update of Ops: what the update does not touch stays. -/

namespace Sys2Proof.Machine

open Sys2Proof

/-! ### setReg -/

@[simp] theorem State.setReg_pending (s : State) (off : Nat) (v : RegWord) : (s.setReg off v).pending = s.pending := rfl
@[simp] theorem State.setReg_out (s : State) (off : Nat) (v : RegWord) : (s.setReg off v).out = s.out := rfl
@[simp] theorem State.setReg_free (s : State) (off : Nat) (v : RegWord) : (s.setReg off v).free = s.free := rfl
@[simp] theorem State.setReg_active (s : State) (off : Nat) (v : RegWord) : (s.setReg off v).active = s.active := rfl
@[simp] theorem State.setReg_ledger (s : State) (off : Nat) (v : RegWord) : (s.setReg off v).ledger = s.ledger := rfl
@[simp] theorem State.setReg_dram (s : State) (off : Nat) (v : RegWord) : (s.setReg off v).dram = s.dram := rfl
@[simp] theorem State.setReg_cmd (s : State) (off : Nat) (v : RegWord) : (s.setReg off v).cmd = s.cmd := rfl
@[simp] theorem State.setReg_hst (s : State) (off : Nat) (v : RegWord) : (s.setReg off v).hst = s.hst := rfl
@[simp] theorem State.setReg_ptp (s : State) (off : Nat) (v : RegWord) : (s.setReg off v).ptp = s.ptp := rfl
@[simp] theorem State.setReg_flt (s : State) (off : Nat) (v : RegWord) : (s.setReg off v).flt = s.flt := rfl
@[simp] theorem State.setReg_scn (s : State) (off : Nat) (v : RegWord) : (s.setReg off v).scn = s.scn := rfl
@[simp] theorem State.setReg_dmg (s : State) (off : Nat) (v : RegWord) : (s.setReg off v).dmg = s.dmg := rfl
@[simp] theorem State.setReg_sch (s : State) (off : Nat) (v : RegWord) : (s.setReg off v).sch = s.sch := rfl
@[simp] theorem State.setReg_eng (s : State) (off : Nat) (v : RegWord) : (s.setReg off v).eng = s.eng := rfl
@[simp] theorem State.setReg_glu (s : State) (off : Nat) (v : RegWord) : (s.setReg off v).glu = s.glu := rfl
@[simp] theorem State.setReg_clp (s : State) (off : Nat) (v : RegWord) : (s.setReg off v).clp = s.clp := rfl
@[simp] theorem State.setReg_trs (s : State) (off : Nat) (v : RegWord) : (s.setReg off v).trs = s.trs := rfl
@[simp] theorem State.setReg_dec (s : State) (off : Nat) (v : RegWord) : (s.setReg off v).dec = s.dec := rfl
@[simp] theorem State.setReg_pnl (s : State) (off : Nat) (v : RegWord) : (s.setReg off v).pnl = s.pnl := rfl
@[simp] theorem State.setReg_lan (s : State) (off : Nat) (v : RegWord) : (s.setReg off v).lan = s.lan := rfl
@[simp] theorem State.setReg_spl (s : State) (off : Nat) (v : RegWord) : (s.setReg off v).spl = s.spl := rfl
@[simp] theorem State.setReg_pwc (s : State) (off : Nat) (v : RegWord) : (s.setReg off v).pwc = s.pwc := rfl
@[simp] theorem State.setReg_cal (s : State) (off : Nat) (v : RegWord) : (s.setReg off v).cal = s.cal := rfl
@[simp] theorem State.setReg_wvl (s : State) (off : Nat) (v : RegWord) : (s.setReg off v).wvl = s.wvl := rfl
@[simp] theorem State.setReg_dmc (s : State) (off : Nat) (v : RegWord) : (s.setReg off v).dmc = s.dmc := rfl
@[simp] theorem State.setReg_cmp (s : State) (off : Nat) (v : RegWord) : (s.setReg off v).cmp = s.cmp := rfl
@[simp] theorem State.setReg_blk (s : State) (off : Nat) (v : RegWord) : (s.setReg off v).blk = s.blk := rfl
@[simp] theorem State.setReg_pfc (s : State) (off : Nat) (v : RegWord) : (s.setReg off v).pfc = s.pfc := rfl
@[simp] theorem State.setReg_eth (s : State) (off : Nat) (v : RegWord) : (s.setReg off v).eth = s.eth := rfl
@[simp] theorem State.setReg_tim (s : State) (off : Nat) (v : RegWord) : (s.setReg off v).tim = s.tim := rfl
@[simp] theorem State.setReg_pin (s : State) (off : Nat) (v : RegWord) : (s.setReg off v).pin = s.pin := rfl
@[simp] theorem State.setReg_at_act (s : State) (off : Nat) (v : RegWord) (e : Nat) : (s.setReg off v).act e = s.act e := rfl
@[simp] theorem State.setReg_at_actFld (s : State) (off : Nat) (v : RegWord) (m : Loc) : (s.setReg off v).actFld m = s.actFld m := rfl
@[simp] theorem State.setReg_at_term (s : State) (off : Nat) (v : RegWord) (j : Nat) : (s.setReg off v).term j = s.term j := rfl
@[simp] theorem State.setReg_at_phys (s : State) (off : Nat) (v : RegWord) (j : Nat) : (s.setReg off v).phys j = s.phys j := rfl
@[simp] theorem State.setReg_at_now (s : State) (off : Nat) (v : RegWord) : (s.setReg off v).now = s.now := rfl
@[simp] theorem State.setReg_at_freeVal (s : State) (off : Nat) (v : RegWord) : (s.setReg off v).freeVal = s.freeVal := rfl
@[simp] theorem State.setReg_at_cmdOf (s : State) (off : Nat) (v : RegWord) (id : Nat) : (s.setReg off v).cmdOf id = s.cmdOf id := rfl

/-! ### setFld -/

@[simp] theorem State.setFld_pending (s : State) (l : Loc) (x : Nat) : (s.setFld l x).pending = s.pending := rfl
@[simp] theorem State.setFld_out (s : State) (l : Loc) (x : Nat) : (s.setFld l x).out = s.out := rfl
@[simp] theorem State.setFld_free (s : State) (l : Loc) (x : Nat) : (s.setFld l x).free = s.free := rfl
@[simp] theorem State.setFld_active (s : State) (l : Loc) (x : Nat) : (s.setFld l x).active = s.active := rfl
@[simp] theorem State.setFld_ledger (s : State) (l : Loc) (x : Nat) : (s.setFld l x).ledger = s.ledger := rfl
@[simp] theorem State.setFld_dram (s : State) (l : Loc) (x : Nat) : (s.setFld l x).dram = s.dram := rfl
@[simp] theorem State.setFld_cmd (s : State) (l : Loc) (x : Nat) : (s.setFld l x).cmd = s.cmd := rfl
@[simp] theorem State.setFld_hst (s : State) (l : Loc) (x : Nat) : (s.setFld l x).hst = s.hst := rfl
@[simp] theorem State.setFld_ptp (s : State) (l : Loc) (x : Nat) : (s.setFld l x).ptp = s.ptp := rfl
@[simp] theorem State.setFld_flt (s : State) (l : Loc) (x : Nat) : (s.setFld l x).flt = s.flt := rfl
@[simp] theorem State.setFld_scn (s : State) (l : Loc) (x : Nat) : (s.setFld l x).scn = s.scn := rfl
@[simp] theorem State.setFld_dmg (s : State) (l : Loc) (x : Nat) : (s.setFld l x).dmg = s.dmg := rfl
@[simp] theorem State.setFld_sch (s : State) (l : Loc) (x : Nat) : (s.setFld l x).sch = s.sch := rfl
@[simp] theorem State.setFld_eng (s : State) (l : Loc) (x : Nat) : (s.setFld l x).eng = s.eng := rfl
@[simp] theorem State.setFld_glu (s : State) (l : Loc) (x : Nat) : (s.setFld l x).glu = s.glu := rfl
@[simp] theorem State.setFld_clp (s : State) (l : Loc) (x : Nat) : (s.setFld l x).clp = s.clp := rfl
@[simp] theorem State.setFld_trs (s : State) (l : Loc) (x : Nat) : (s.setFld l x).trs = s.trs := rfl
@[simp] theorem State.setFld_dec (s : State) (l : Loc) (x : Nat) : (s.setFld l x).dec = s.dec := rfl
@[simp] theorem State.setFld_pnl (s : State) (l : Loc) (x : Nat) : (s.setFld l x).pnl = s.pnl := rfl
@[simp] theorem State.setFld_lan (s : State) (l : Loc) (x : Nat) : (s.setFld l x).lan = s.lan := rfl
@[simp] theorem State.setFld_spl (s : State) (l : Loc) (x : Nat) : (s.setFld l x).spl = s.spl := rfl
@[simp] theorem State.setFld_pwc (s : State) (l : Loc) (x : Nat) : (s.setFld l x).pwc = s.pwc := rfl
@[simp] theorem State.setFld_cal (s : State) (l : Loc) (x : Nat) : (s.setFld l x).cal = s.cal := rfl
@[simp] theorem State.setFld_wvl (s : State) (l : Loc) (x : Nat) : (s.setFld l x).wvl = s.wvl := rfl
@[simp] theorem State.setFld_dmc (s : State) (l : Loc) (x : Nat) : (s.setFld l x).dmc = s.dmc := rfl
@[simp] theorem State.setFld_cmp (s : State) (l : Loc) (x : Nat) : (s.setFld l x).cmp = s.cmp := rfl
@[simp] theorem State.setFld_blk (s : State) (l : Loc) (x : Nat) : (s.setFld l x).blk = s.blk := rfl
@[simp] theorem State.setFld_pfc (s : State) (l : Loc) (x : Nat) : (s.setFld l x).pfc = s.pfc := rfl
@[simp] theorem State.setFld_eth (s : State) (l : Loc) (x : Nat) : (s.setFld l x).eth = s.eth := rfl
@[simp] theorem State.setFld_tim (s : State) (l : Loc) (x : Nat) : (s.setFld l x).tim = s.tim := rfl
@[simp] theorem State.setFld_pin (s : State) (l : Loc) (x : Nat) : (s.setFld l x).pin = s.pin := rfl
@[simp] theorem State.setFld_at_act (s : State) (l : Loc) (x : Nat) (e : Nat) : (s.setFld l x).act e = s.act e := rfl
@[simp] theorem State.setFld_at_actFld (s : State) (l : Loc) (x : Nat) (m : Loc) : (s.setFld l x).actFld m = s.actFld m := rfl
@[simp] theorem State.setFld_at_term (s : State) (l : Loc) (x : Nat) (j : Nat) : (s.setFld l x).term j = s.term j := rfl
@[simp] theorem State.setFld_at_phys (s : State) (l : Loc) (x : Nat) (j : Nat) : (s.setFld l x).phys j = s.phys j := rfl
@[simp] theorem State.setFld_at_now (s : State) (l : Loc) (x : Nat) : (s.setFld l x).now = s.now := rfl
@[simp] theorem State.setFld_at_freeVal (s : State) (l : Loc) (x : Nat) : (s.setFld l x).freeVal = s.freeVal := rfl
@[simp] theorem State.setFld_at_cmdOf (s : State) (l : Loc) (x : Nat) (id : Nat) : (s.setFld l x).cmdOf id = s.cmdOf id := rfl

/-! ### bumpBy -/

@[simp] theorem State.bumpBy_pending (s : State) (l : Loc) (d : Nat) : (s.bumpBy l d).pending = s.pending := rfl
@[simp] theorem State.bumpBy_out (s : State) (l : Loc) (d : Nat) : (s.bumpBy l d).out = s.out := rfl
@[simp] theorem State.bumpBy_free (s : State) (l : Loc) (d : Nat) : (s.bumpBy l d).free = s.free := rfl
@[simp] theorem State.bumpBy_active (s : State) (l : Loc) (d : Nat) : (s.bumpBy l d).active = s.active := rfl
@[simp] theorem State.bumpBy_ledger (s : State) (l : Loc) (d : Nat) : (s.bumpBy l d).ledger = s.ledger := rfl
@[simp] theorem State.bumpBy_dram (s : State) (l : Loc) (d : Nat) : (s.bumpBy l d).dram = s.dram := rfl
@[simp] theorem State.bumpBy_cmd (s : State) (l : Loc) (d : Nat) : (s.bumpBy l d).cmd = s.cmd := rfl
@[simp] theorem State.bumpBy_hst (s : State) (l : Loc) (d : Nat) : (s.bumpBy l d).hst = s.hst := rfl
@[simp] theorem State.bumpBy_ptp (s : State) (l : Loc) (d : Nat) : (s.bumpBy l d).ptp = s.ptp := rfl
@[simp] theorem State.bumpBy_flt (s : State) (l : Loc) (d : Nat) : (s.bumpBy l d).flt = s.flt := rfl
@[simp] theorem State.bumpBy_scn (s : State) (l : Loc) (d : Nat) : (s.bumpBy l d).scn = s.scn := rfl
@[simp] theorem State.bumpBy_dmg (s : State) (l : Loc) (d : Nat) : (s.bumpBy l d).dmg = s.dmg := rfl
@[simp] theorem State.bumpBy_sch (s : State) (l : Loc) (d : Nat) : (s.bumpBy l d).sch = s.sch := rfl
@[simp] theorem State.bumpBy_eng (s : State) (l : Loc) (d : Nat) : (s.bumpBy l d).eng = s.eng := rfl
@[simp] theorem State.bumpBy_glu (s : State) (l : Loc) (d : Nat) : (s.bumpBy l d).glu = s.glu := rfl
@[simp] theorem State.bumpBy_clp (s : State) (l : Loc) (d : Nat) : (s.bumpBy l d).clp = s.clp := rfl
@[simp] theorem State.bumpBy_trs (s : State) (l : Loc) (d : Nat) : (s.bumpBy l d).trs = s.trs := rfl
@[simp] theorem State.bumpBy_dec (s : State) (l : Loc) (d : Nat) : (s.bumpBy l d).dec = s.dec := rfl
@[simp] theorem State.bumpBy_pnl (s : State) (l : Loc) (d : Nat) : (s.bumpBy l d).pnl = s.pnl := rfl
@[simp] theorem State.bumpBy_lan (s : State) (l : Loc) (d : Nat) : (s.bumpBy l d).lan = s.lan := rfl
@[simp] theorem State.bumpBy_spl (s : State) (l : Loc) (d : Nat) : (s.bumpBy l d).spl = s.spl := rfl
@[simp] theorem State.bumpBy_pwc (s : State) (l : Loc) (d : Nat) : (s.bumpBy l d).pwc = s.pwc := rfl
@[simp] theorem State.bumpBy_cal (s : State) (l : Loc) (d : Nat) : (s.bumpBy l d).cal = s.cal := rfl
@[simp] theorem State.bumpBy_wvl (s : State) (l : Loc) (d : Nat) : (s.bumpBy l d).wvl = s.wvl := rfl
@[simp] theorem State.bumpBy_dmc (s : State) (l : Loc) (d : Nat) : (s.bumpBy l d).dmc = s.dmc := rfl
@[simp] theorem State.bumpBy_cmp (s : State) (l : Loc) (d : Nat) : (s.bumpBy l d).cmp = s.cmp := rfl
@[simp] theorem State.bumpBy_blk (s : State) (l : Loc) (d : Nat) : (s.bumpBy l d).blk = s.blk := rfl
@[simp] theorem State.bumpBy_pfc (s : State) (l : Loc) (d : Nat) : (s.bumpBy l d).pfc = s.pfc := rfl
@[simp] theorem State.bumpBy_eth (s : State) (l : Loc) (d : Nat) : (s.bumpBy l d).eth = s.eth := rfl
@[simp] theorem State.bumpBy_tim (s : State) (l : Loc) (d : Nat) : (s.bumpBy l d).tim = s.tim := rfl
@[simp] theorem State.bumpBy_pin (s : State) (l : Loc) (d : Nat) : (s.bumpBy l d).pin = s.pin := rfl
@[simp] theorem State.bumpBy_at_act (s : State) (l : Loc) (d : Nat) (e : Nat) : (s.bumpBy l d).act e = s.act e := rfl
@[simp] theorem State.bumpBy_at_actFld (s : State) (l : Loc) (d : Nat) (m : Loc) : (s.bumpBy l d).actFld m = s.actFld m := rfl
@[simp] theorem State.bumpBy_at_term (s : State) (l : Loc) (d : Nat) (j : Nat) : (s.bumpBy l d).term j = s.term j := rfl
@[simp] theorem State.bumpBy_at_phys (s : State) (l : Loc) (d : Nat) (j : Nat) : (s.bumpBy l d).phys j = s.phys j := rfl
@[simp] theorem State.bumpBy_at_now (s : State) (l : Loc) (d : Nat) : (s.bumpBy l d).now = s.now := rfl
@[simp] theorem State.bumpBy_at_freeVal (s : State) (l : Loc) (d : Nat) : (s.bumpBy l d).freeVal = s.freeVal := rfl
@[simp] theorem State.bumpBy_at_cmdOf (s : State) (l : Loc) (d : Nat) (id : Nat) : (s.bumpBy l d).cmdOf id = s.cmdOf id := rfl

/-! ### bump -/

@[simp] theorem State.bump_pending (s : State) (l : Loc) : (s.bump l).pending = s.pending := rfl
@[simp] theorem State.bump_out (s : State) (l : Loc) : (s.bump l).out = s.out := rfl
@[simp] theorem State.bump_free (s : State) (l : Loc) : (s.bump l).free = s.free := rfl
@[simp] theorem State.bump_active (s : State) (l : Loc) : (s.bump l).active = s.active := rfl
@[simp] theorem State.bump_ledger (s : State) (l : Loc) : (s.bump l).ledger = s.ledger := rfl
@[simp] theorem State.bump_dram (s : State) (l : Loc) : (s.bump l).dram = s.dram := rfl
@[simp] theorem State.bump_cmd (s : State) (l : Loc) : (s.bump l).cmd = s.cmd := rfl
@[simp] theorem State.bump_hst (s : State) (l : Loc) : (s.bump l).hst = s.hst := rfl
@[simp] theorem State.bump_ptp (s : State) (l : Loc) : (s.bump l).ptp = s.ptp := rfl
@[simp] theorem State.bump_flt (s : State) (l : Loc) : (s.bump l).flt = s.flt := rfl
@[simp] theorem State.bump_scn (s : State) (l : Loc) : (s.bump l).scn = s.scn := rfl
@[simp] theorem State.bump_dmg (s : State) (l : Loc) : (s.bump l).dmg = s.dmg := rfl
@[simp] theorem State.bump_sch (s : State) (l : Loc) : (s.bump l).sch = s.sch := rfl
@[simp] theorem State.bump_eng (s : State) (l : Loc) : (s.bump l).eng = s.eng := rfl
@[simp] theorem State.bump_glu (s : State) (l : Loc) : (s.bump l).glu = s.glu := rfl
@[simp] theorem State.bump_clp (s : State) (l : Loc) : (s.bump l).clp = s.clp := rfl
@[simp] theorem State.bump_trs (s : State) (l : Loc) : (s.bump l).trs = s.trs := rfl
@[simp] theorem State.bump_dec (s : State) (l : Loc) : (s.bump l).dec = s.dec := rfl
@[simp] theorem State.bump_pnl (s : State) (l : Loc) : (s.bump l).pnl = s.pnl := rfl
@[simp] theorem State.bump_lan (s : State) (l : Loc) : (s.bump l).lan = s.lan := rfl
@[simp] theorem State.bump_spl (s : State) (l : Loc) : (s.bump l).spl = s.spl := rfl
@[simp] theorem State.bump_pwc (s : State) (l : Loc) : (s.bump l).pwc = s.pwc := rfl
@[simp] theorem State.bump_cal (s : State) (l : Loc) : (s.bump l).cal = s.cal := rfl
@[simp] theorem State.bump_wvl (s : State) (l : Loc) : (s.bump l).wvl = s.wvl := rfl
@[simp] theorem State.bump_dmc (s : State) (l : Loc) : (s.bump l).dmc = s.dmc := rfl
@[simp] theorem State.bump_cmp (s : State) (l : Loc) : (s.bump l).cmp = s.cmp := rfl
@[simp] theorem State.bump_blk (s : State) (l : Loc) : (s.bump l).blk = s.blk := rfl
@[simp] theorem State.bump_pfc (s : State) (l : Loc) : (s.bump l).pfc = s.pfc := rfl
@[simp] theorem State.bump_eth (s : State) (l : Loc) : (s.bump l).eth = s.eth := rfl
@[simp] theorem State.bump_tim (s : State) (l : Loc) : (s.bump l).tim = s.tim := rfl
@[simp] theorem State.bump_pin (s : State) (l : Loc) : (s.bump l).pin = s.pin := rfl
@[simp] theorem State.bump_at_act (s : State) (l : Loc) (e : Nat) : (s.bump l).act e = s.act e := rfl
@[simp] theorem State.bump_at_actFld (s : State) (l : Loc) (m : Loc) : (s.bump l).actFld m = s.actFld m := rfl
@[simp] theorem State.bump_at_term (s : State) (l : Loc) (j : Nat) : (s.bump l).term j = s.term j := rfl
@[simp] theorem State.bump_at_phys (s : State) (l : Loc) (j : Nat) : (s.bump l).phys j = s.phys j := rfl
@[simp] theorem State.bump_at_now (s : State) (l : Loc) : (s.bump l).now = s.now := rfl
@[simp] theorem State.bump_at_freeVal (s : State) (l : Loc) : (s.bump l).freeVal = s.freeVal := rfl
@[simp] theorem State.bump_at_cmdOf (s : State) (l : Loc) (id : Nat) : (s.bump l).cmdOf id = s.cmdOf id := rfl

/-! ### dropBy -/

@[simp] theorem State.dropBy_pending (s : State) (l : Loc) (d : Nat) : (s.dropBy l d).pending = s.pending := rfl
@[simp] theorem State.dropBy_out (s : State) (l : Loc) (d : Nat) : (s.dropBy l d).out = s.out := rfl
@[simp] theorem State.dropBy_free (s : State) (l : Loc) (d : Nat) : (s.dropBy l d).free = s.free := rfl
@[simp] theorem State.dropBy_active (s : State) (l : Loc) (d : Nat) : (s.dropBy l d).active = s.active := rfl
@[simp] theorem State.dropBy_ledger (s : State) (l : Loc) (d : Nat) : (s.dropBy l d).ledger = s.ledger := rfl
@[simp] theorem State.dropBy_dram (s : State) (l : Loc) (d : Nat) : (s.dropBy l d).dram = s.dram := rfl
@[simp] theorem State.dropBy_cmd (s : State) (l : Loc) (d : Nat) : (s.dropBy l d).cmd = s.cmd := rfl
@[simp] theorem State.dropBy_hst (s : State) (l : Loc) (d : Nat) : (s.dropBy l d).hst = s.hst := rfl
@[simp] theorem State.dropBy_ptp (s : State) (l : Loc) (d : Nat) : (s.dropBy l d).ptp = s.ptp := rfl
@[simp] theorem State.dropBy_flt (s : State) (l : Loc) (d : Nat) : (s.dropBy l d).flt = s.flt := rfl
@[simp] theorem State.dropBy_scn (s : State) (l : Loc) (d : Nat) : (s.dropBy l d).scn = s.scn := rfl
@[simp] theorem State.dropBy_dmg (s : State) (l : Loc) (d : Nat) : (s.dropBy l d).dmg = s.dmg := rfl
@[simp] theorem State.dropBy_sch (s : State) (l : Loc) (d : Nat) : (s.dropBy l d).sch = s.sch := rfl
@[simp] theorem State.dropBy_eng (s : State) (l : Loc) (d : Nat) : (s.dropBy l d).eng = s.eng := rfl
@[simp] theorem State.dropBy_glu (s : State) (l : Loc) (d : Nat) : (s.dropBy l d).glu = s.glu := rfl
@[simp] theorem State.dropBy_clp (s : State) (l : Loc) (d : Nat) : (s.dropBy l d).clp = s.clp := rfl
@[simp] theorem State.dropBy_trs (s : State) (l : Loc) (d : Nat) : (s.dropBy l d).trs = s.trs := rfl
@[simp] theorem State.dropBy_dec (s : State) (l : Loc) (d : Nat) : (s.dropBy l d).dec = s.dec := rfl
@[simp] theorem State.dropBy_pnl (s : State) (l : Loc) (d : Nat) : (s.dropBy l d).pnl = s.pnl := rfl
@[simp] theorem State.dropBy_lan (s : State) (l : Loc) (d : Nat) : (s.dropBy l d).lan = s.lan := rfl
@[simp] theorem State.dropBy_spl (s : State) (l : Loc) (d : Nat) : (s.dropBy l d).spl = s.spl := rfl
@[simp] theorem State.dropBy_pwc (s : State) (l : Loc) (d : Nat) : (s.dropBy l d).pwc = s.pwc := rfl
@[simp] theorem State.dropBy_cal (s : State) (l : Loc) (d : Nat) : (s.dropBy l d).cal = s.cal := rfl
@[simp] theorem State.dropBy_wvl (s : State) (l : Loc) (d : Nat) : (s.dropBy l d).wvl = s.wvl := rfl
@[simp] theorem State.dropBy_dmc (s : State) (l : Loc) (d : Nat) : (s.dropBy l d).dmc = s.dmc := rfl
@[simp] theorem State.dropBy_cmp (s : State) (l : Loc) (d : Nat) : (s.dropBy l d).cmp = s.cmp := rfl
@[simp] theorem State.dropBy_blk (s : State) (l : Loc) (d : Nat) : (s.dropBy l d).blk = s.blk := rfl
@[simp] theorem State.dropBy_pfc (s : State) (l : Loc) (d : Nat) : (s.dropBy l d).pfc = s.pfc := rfl
@[simp] theorem State.dropBy_eth (s : State) (l : Loc) (d : Nat) : (s.dropBy l d).eth = s.eth := rfl
@[simp] theorem State.dropBy_tim (s : State) (l : Loc) (d : Nat) : (s.dropBy l d).tim = s.tim := rfl
@[simp] theorem State.dropBy_pin (s : State) (l : Loc) (d : Nat) : (s.dropBy l d).pin = s.pin := rfl
@[simp] theorem State.dropBy_at_act (s : State) (l : Loc) (d : Nat) (e : Nat) : (s.dropBy l d).act e = s.act e := rfl
@[simp] theorem State.dropBy_at_actFld (s : State) (l : Loc) (d : Nat) (m : Loc) : (s.dropBy l d).actFld m = s.actFld m := rfl
@[simp] theorem State.dropBy_at_term (s : State) (l : Loc) (d : Nat) (j : Nat) : (s.dropBy l d).term j = s.term j := rfl
@[simp] theorem State.dropBy_at_phys (s : State) (l : Loc) (d : Nat) (j : Nat) : (s.dropBy l d).phys j = s.phys j := rfl
@[simp] theorem State.dropBy_at_now (s : State) (l : Loc) (d : Nat) : (s.dropBy l d).now = s.now := rfl
@[simp] theorem State.dropBy_at_freeVal (s : State) (l : Loc) (d : Nat) : (s.dropBy l d).freeVal = s.freeVal := rfl
@[simp] theorem State.dropBy_at_cmdOf (s : State) (l : Loc) (d : Nat) (id : Nat) : (s.dropBy l d).cmdOf id = s.cmdOf id := rfl

/-! ### setAct -/

@[simp] theorem State.setAct_pending (s : State) (off : Nat) (v : RegWord) : (s.setAct off v).pending = s.pending := rfl
@[simp] theorem State.setAct_out (s : State) (off : Nat) (v : RegWord) : (s.setAct off v).out = s.out := rfl
@[simp] theorem State.setAct_free (s : State) (off : Nat) (v : RegWord) : (s.setAct off v).free = s.free := rfl
@[simp] theorem State.setAct_regs (s : State) (off : Nat) (v : RegWord) : (s.setAct off v).regs = s.regs := rfl
@[simp] theorem State.setAct_ledger (s : State) (off : Nat) (v : RegWord) : (s.setAct off v).ledger = s.ledger := rfl
@[simp] theorem State.setAct_dram (s : State) (off : Nat) (v : RegWord) : (s.setAct off v).dram = s.dram := rfl
@[simp] theorem State.setAct_cmd (s : State) (off : Nat) (v : RegWord) : (s.setAct off v).cmd = s.cmd := rfl
@[simp] theorem State.setAct_hst (s : State) (off : Nat) (v : RegWord) : (s.setAct off v).hst = s.hst := rfl
@[simp] theorem State.setAct_ptp (s : State) (off : Nat) (v : RegWord) : (s.setAct off v).ptp = s.ptp := rfl
@[simp] theorem State.setAct_flt (s : State) (off : Nat) (v : RegWord) : (s.setAct off v).flt = s.flt := rfl
@[simp] theorem State.setAct_scn (s : State) (off : Nat) (v : RegWord) : (s.setAct off v).scn = s.scn := rfl
@[simp] theorem State.setAct_dmg (s : State) (off : Nat) (v : RegWord) : (s.setAct off v).dmg = s.dmg := rfl
@[simp] theorem State.setAct_sch (s : State) (off : Nat) (v : RegWord) : (s.setAct off v).sch = s.sch := rfl
@[simp] theorem State.setAct_eng (s : State) (off : Nat) (v : RegWord) : (s.setAct off v).eng = s.eng := rfl
@[simp] theorem State.setAct_glu (s : State) (off : Nat) (v : RegWord) : (s.setAct off v).glu = s.glu := rfl
@[simp] theorem State.setAct_clp (s : State) (off : Nat) (v : RegWord) : (s.setAct off v).clp = s.clp := rfl
@[simp] theorem State.setAct_trs (s : State) (off : Nat) (v : RegWord) : (s.setAct off v).trs = s.trs := rfl
@[simp] theorem State.setAct_dec (s : State) (off : Nat) (v : RegWord) : (s.setAct off v).dec = s.dec := rfl
@[simp] theorem State.setAct_pnl (s : State) (off : Nat) (v : RegWord) : (s.setAct off v).pnl = s.pnl := rfl
@[simp] theorem State.setAct_lan (s : State) (off : Nat) (v : RegWord) : (s.setAct off v).lan = s.lan := rfl
@[simp] theorem State.setAct_spl (s : State) (off : Nat) (v : RegWord) : (s.setAct off v).spl = s.spl := rfl
@[simp] theorem State.setAct_pwc (s : State) (off : Nat) (v : RegWord) : (s.setAct off v).pwc = s.pwc := rfl
@[simp] theorem State.setAct_cal (s : State) (off : Nat) (v : RegWord) : (s.setAct off v).cal = s.cal := rfl
@[simp] theorem State.setAct_wvl (s : State) (off : Nat) (v : RegWord) : (s.setAct off v).wvl = s.wvl := rfl
@[simp] theorem State.setAct_dmc (s : State) (off : Nat) (v : RegWord) : (s.setAct off v).dmc = s.dmc := rfl
@[simp] theorem State.setAct_cmp (s : State) (off : Nat) (v : RegWord) : (s.setAct off v).cmp = s.cmp := rfl
@[simp] theorem State.setAct_blk (s : State) (off : Nat) (v : RegWord) : (s.setAct off v).blk = s.blk := rfl
@[simp] theorem State.setAct_pfc (s : State) (off : Nat) (v : RegWord) : (s.setAct off v).pfc = s.pfc := rfl
@[simp] theorem State.setAct_eth (s : State) (off : Nat) (v : RegWord) : (s.setAct off v).eth = s.eth := rfl
@[simp] theorem State.setAct_tim (s : State) (off : Nat) (v : RegWord) : (s.setAct off v).tim = s.tim := rfl
@[simp] theorem State.setAct_pin (s : State) (off : Nat) (v : RegWord) : (s.setAct off v).pin = s.pin := rfl
@[simp] theorem State.setAct_at_reg (s : State) (off : Nat) (v : RegWord) (e : Nat) : (s.setAct off v).reg e = s.reg e := rfl
@[simp] theorem State.setAct_at_fld (s : State) (off : Nat) (v : RegWord) (m : Loc) : (s.setAct off v).fld m = s.fld m := rfl
@[simp] theorem State.setAct_at_term (s : State) (off : Nat) (v : RegWord) (j : Nat) : (s.setAct off v).term j = s.term j := rfl
@[simp] theorem State.setAct_at_phys (s : State) (off : Nat) (v : RegWord) (j : Nat) : (s.setAct off v).phys j = s.phys j := rfl
@[simp] theorem State.setAct_at_now (s : State) (off : Nat) (v : RegWord) : (s.setAct off v).now = s.now := rfl
@[simp] theorem State.setAct_at_freeVal (s : State) (off : Nat) (v : RegWord) : (s.setAct off v).freeVal = s.freeVal := rfl
@[simp] theorem State.setAct_at_cmdOf (s : State) (off : Nat) (v : RegWord) (id : Nat) : (s.setAct off v).cmdOf id = s.cmdOf id := rfl

/-! ### setActFld -/

@[simp] theorem State.setActFld_pending (s : State) (l : Loc) (x : Nat) : (s.setActFld l x).pending = s.pending := rfl
@[simp] theorem State.setActFld_out (s : State) (l : Loc) (x : Nat) : (s.setActFld l x).out = s.out := rfl
@[simp] theorem State.setActFld_free (s : State) (l : Loc) (x : Nat) : (s.setActFld l x).free = s.free := rfl
@[simp] theorem State.setActFld_regs (s : State) (l : Loc) (x : Nat) : (s.setActFld l x).regs = s.regs := rfl
@[simp] theorem State.setActFld_ledger (s : State) (l : Loc) (x : Nat) : (s.setActFld l x).ledger = s.ledger := rfl
@[simp] theorem State.setActFld_dram (s : State) (l : Loc) (x : Nat) : (s.setActFld l x).dram = s.dram := rfl
@[simp] theorem State.setActFld_cmd (s : State) (l : Loc) (x : Nat) : (s.setActFld l x).cmd = s.cmd := rfl
@[simp] theorem State.setActFld_hst (s : State) (l : Loc) (x : Nat) : (s.setActFld l x).hst = s.hst := rfl
@[simp] theorem State.setActFld_ptp (s : State) (l : Loc) (x : Nat) : (s.setActFld l x).ptp = s.ptp := rfl
@[simp] theorem State.setActFld_flt (s : State) (l : Loc) (x : Nat) : (s.setActFld l x).flt = s.flt := rfl
@[simp] theorem State.setActFld_scn (s : State) (l : Loc) (x : Nat) : (s.setActFld l x).scn = s.scn := rfl
@[simp] theorem State.setActFld_dmg (s : State) (l : Loc) (x : Nat) : (s.setActFld l x).dmg = s.dmg := rfl
@[simp] theorem State.setActFld_sch (s : State) (l : Loc) (x : Nat) : (s.setActFld l x).sch = s.sch := rfl
@[simp] theorem State.setActFld_eng (s : State) (l : Loc) (x : Nat) : (s.setActFld l x).eng = s.eng := rfl
@[simp] theorem State.setActFld_glu (s : State) (l : Loc) (x : Nat) : (s.setActFld l x).glu = s.glu := rfl
@[simp] theorem State.setActFld_clp (s : State) (l : Loc) (x : Nat) : (s.setActFld l x).clp = s.clp := rfl
@[simp] theorem State.setActFld_trs (s : State) (l : Loc) (x : Nat) : (s.setActFld l x).trs = s.trs := rfl
@[simp] theorem State.setActFld_dec (s : State) (l : Loc) (x : Nat) : (s.setActFld l x).dec = s.dec := rfl
@[simp] theorem State.setActFld_pnl (s : State) (l : Loc) (x : Nat) : (s.setActFld l x).pnl = s.pnl := rfl
@[simp] theorem State.setActFld_lan (s : State) (l : Loc) (x : Nat) : (s.setActFld l x).lan = s.lan := rfl
@[simp] theorem State.setActFld_spl (s : State) (l : Loc) (x : Nat) : (s.setActFld l x).spl = s.spl := rfl
@[simp] theorem State.setActFld_pwc (s : State) (l : Loc) (x : Nat) : (s.setActFld l x).pwc = s.pwc := rfl
@[simp] theorem State.setActFld_cal (s : State) (l : Loc) (x : Nat) : (s.setActFld l x).cal = s.cal := rfl
@[simp] theorem State.setActFld_wvl (s : State) (l : Loc) (x : Nat) : (s.setActFld l x).wvl = s.wvl := rfl
@[simp] theorem State.setActFld_dmc (s : State) (l : Loc) (x : Nat) : (s.setActFld l x).dmc = s.dmc := rfl
@[simp] theorem State.setActFld_cmp (s : State) (l : Loc) (x : Nat) : (s.setActFld l x).cmp = s.cmp := rfl
@[simp] theorem State.setActFld_blk (s : State) (l : Loc) (x : Nat) : (s.setActFld l x).blk = s.blk := rfl
@[simp] theorem State.setActFld_pfc (s : State) (l : Loc) (x : Nat) : (s.setActFld l x).pfc = s.pfc := rfl
@[simp] theorem State.setActFld_eth (s : State) (l : Loc) (x : Nat) : (s.setActFld l x).eth = s.eth := rfl
@[simp] theorem State.setActFld_tim (s : State) (l : Loc) (x : Nat) : (s.setActFld l x).tim = s.tim := rfl
@[simp] theorem State.setActFld_pin (s : State) (l : Loc) (x : Nat) : (s.setActFld l x).pin = s.pin := rfl
@[simp] theorem State.setActFld_at_reg (s : State) (l : Loc) (x : Nat) (e : Nat) : (s.setActFld l x).reg e = s.reg e := rfl
@[simp] theorem State.setActFld_at_fld (s : State) (l : Loc) (x : Nat) (m : Loc) : (s.setActFld l x).fld m = s.fld m := rfl
@[simp] theorem State.setActFld_at_term (s : State) (l : Loc) (x : Nat) (j : Nat) : (s.setActFld l x).term j = s.term j := rfl
@[simp] theorem State.setActFld_at_phys (s : State) (l : Loc) (x : Nat) (j : Nat) : (s.setActFld l x).phys j = s.phys j := rfl
@[simp] theorem State.setActFld_at_now (s : State) (l : Loc) (x : Nat) : (s.setActFld l x).now = s.now := rfl
@[simp] theorem State.setActFld_at_freeVal (s : State) (l : Loc) (x : Nat) : (s.setActFld l x).freeVal = s.freeVal := rfl
@[simp] theorem State.setActFld_at_cmdOf (s : State) (l : Loc) (x : Nat) (id : Nat) : (s.setActFld l x).cmdOf id = s.cmdOf id := rfl

/-! ### applyShd -/

@[simp] theorem State.applyShd_pending (s : State) (off : Nat) : (s.applyShd off).pending = s.pending := rfl
@[simp] theorem State.applyShd_out (s : State) (off : Nat) : (s.applyShd off).out = s.out := rfl
@[simp] theorem State.applyShd_free (s : State) (off : Nat) : (s.applyShd off).free = s.free := rfl
@[simp] theorem State.applyShd_regs (s : State) (off : Nat) : (s.applyShd off).regs = s.regs := rfl
@[simp] theorem State.applyShd_ledger (s : State) (off : Nat) : (s.applyShd off).ledger = s.ledger := rfl
@[simp] theorem State.applyShd_dram (s : State) (off : Nat) : (s.applyShd off).dram = s.dram := rfl
@[simp] theorem State.applyShd_cmd (s : State) (off : Nat) : (s.applyShd off).cmd = s.cmd := rfl
@[simp] theorem State.applyShd_hst (s : State) (off : Nat) : (s.applyShd off).hst = s.hst := rfl
@[simp] theorem State.applyShd_ptp (s : State) (off : Nat) : (s.applyShd off).ptp = s.ptp := rfl
@[simp] theorem State.applyShd_flt (s : State) (off : Nat) : (s.applyShd off).flt = s.flt := rfl
@[simp] theorem State.applyShd_scn (s : State) (off : Nat) : (s.applyShd off).scn = s.scn := rfl
@[simp] theorem State.applyShd_dmg (s : State) (off : Nat) : (s.applyShd off).dmg = s.dmg := rfl
@[simp] theorem State.applyShd_sch (s : State) (off : Nat) : (s.applyShd off).sch = s.sch := rfl
@[simp] theorem State.applyShd_eng (s : State) (off : Nat) : (s.applyShd off).eng = s.eng := rfl
@[simp] theorem State.applyShd_glu (s : State) (off : Nat) : (s.applyShd off).glu = s.glu := rfl
@[simp] theorem State.applyShd_clp (s : State) (off : Nat) : (s.applyShd off).clp = s.clp := rfl
@[simp] theorem State.applyShd_trs (s : State) (off : Nat) : (s.applyShd off).trs = s.trs := rfl
@[simp] theorem State.applyShd_dec (s : State) (off : Nat) : (s.applyShd off).dec = s.dec := rfl
@[simp] theorem State.applyShd_pnl (s : State) (off : Nat) : (s.applyShd off).pnl = s.pnl := rfl
@[simp] theorem State.applyShd_lan (s : State) (off : Nat) : (s.applyShd off).lan = s.lan := rfl
@[simp] theorem State.applyShd_spl (s : State) (off : Nat) : (s.applyShd off).spl = s.spl := rfl
@[simp] theorem State.applyShd_pwc (s : State) (off : Nat) : (s.applyShd off).pwc = s.pwc := rfl
@[simp] theorem State.applyShd_cal (s : State) (off : Nat) : (s.applyShd off).cal = s.cal := rfl
@[simp] theorem State.applyShd_wvl (s : State) (off : Nat) : (s.applyShd off).wvl = s.wvl := rfl
@[simp] theorem State.applyShd_dmc (s : State) (off : Nat) : (s.applyShd off).dmc = s.dmc := rfl
@[simp] theorem State.applyShd_cmp (s : State) (off : Nat) : (s.applyShd off).cmp = s.cmp := rfl
@[simp] theorem State.applyShd_blk (s : State) (off : Nat) : (s.applyShd off).blk = s.blk := rfl
@[simp] theorem State.applyShd_pfc (s : State) (off : Nat) : (s.applyShd off).pfc = s.pfc := rfl
@[simp] theorem State.applyShd_eth (s : State) (off : Nat) : (s.applyShd off).eth = s.eth := rfl
@[simp] theorem State.applyShd_tim (s : State) (off : Nat) : (s.applyShd off).tim = s.tim := rfl
@[simp] theorem State.applyShd_pin (s : State) (off : Nat) : (s.applyShd off).pin = s.pin := rfl
@[simp] theorem State.applyShd_at_reg (s : State) (off : Nat) (e : Nat) : (s.applyShd off).reg e = s.reg e := rfl
@[simp] theorem State.applyShd_at_fld (s : State) (off : Nat) (m : Loc) : (s.applyShd off).fld m = s.fld m := rfl
@[simp] theorem State.applyShd_at_term (s : State) (off : Nat) (j : Nat) : (s.applyShd off).term j = s.term j := rfl
@[simp] theorem State.applyShd_at_phys (s : State) (off : Nat) (j : Nat) : (s.applyShd off).phys j = s.phys j := rfl
@[simp] theorem State.applyShd_at_now (s : State) (off : Nat) : (s.applyShd off).now = s.now := rfl
@[simp] theorem State.applyShd_at_freeVal (s : State) (off : Nat) : (s.applyShd off).freeVal = s.freeVal := rfl
@[simp] theorem State.applyShd_at_cmdOf (s : State) (off : Nat) (id : Nat) : (s.applyShd off).cmdOf id = s.cmdOf id := rfl

/-! ### addTerm -/

@[simp] theorem State.addTerm_pending (s : State) (k d : Nat) : (s.addTerm k d).pending = s.pending := rfl
@[simp] theorem State.addTerm_out (s : State) (k d : Nat) : (s.addTerm k d).out = s.out := rfl
@[simp] theorem State.addTerm_free (s : State) (k d : Nat) : (s.addTerm k d).free = s.free := rfl
@[simp] theorem State.addTerm_regs (s : State) (k d : Nat) : (s.addTerm k d).regs = s.regs := rfl
@[simp] theorem State.addTerm_active (s : State) (k d : Nat) : (s.addTerm k d).active = s.active := rfl
@[simp] theorem State.addTerm_dram (s : State) (k d : Nat) : (s.addTerm k d).dram = s.dram := rfl
@[simp] theorem State.addTerm_cmd (s : State) (k d : Nat) : (s.addTerm k d).cmd = s.cmd := rfl
@[simp] theorem State.addTerm_hst (s : State) (k d : Nat) : (s.addTerm k d).hst = s.hst := rfl
@[simp] theorem State.addTerm_ptp (s : State) (k d : Nat) : (s.addTerm k d).ptp = s.ptp := rfl
@[simp] theorem State.addTerm_flt (s : State) (k d : Nat) : (s.addTerm k d).flt = s.flt := rfl
@[simp] theorem State.addTerm_scn (s : State) (k d : Nat) : (s.addTerm k d).scn = s.scn := rfl
@[simp] theorem State.addTerm_dmg (s : State) (k d : Nat) : (s.addTerm k d).dmg = s.dmg := rfl
@[simp] theorem State.addTerm_sch (s : State) (k d : Nat) : (s.addTerm k d).sch = s.sch := rfl
@[simp] theorem State.addTerm_eng (s : State) (k d : Nat) : (s.addTerm k d).eng = s.eng := rfl
@[simp] theorem State.addTerm_glu (s : State) (k d : Nat) : (s.addTerm k d).glu = s.glu := rfl
@[simp] theorem State.addTerm_clp (s : State) (k d : Nat) : (s.addTerm k d).clp = s.clp := rfl
@[simp] theorem State.addTerm_trs (s : State) (k d : Nat) : (s.addTerm k d).trs = s.trs := rfl
@[simp] theorem State.addTerm_dec (s : State) (k d : Nat) : (s.addTerm k d).dec = s.dec := rfl
@[simp] theorem State.addTerm_pnl (s : State) (k d : Nat) : (s.addTerm k d).pnl = s.pnl := rfl
@[simp] theorem State.addTerm_lan (s : State) (k d : Nat) : (s.addTerm k d).lan = s.lan := rfl
@[simp] theorem State.addTerm_spl (s : State) (k d : Nat) : (s.addTerm k d).spl = s.spl := rfl
@[simp] theorem State.addTerm_pwc (s : State) (k d : Nat) : (s.addTerm k d).pwc = s.pwc := rfl
@[simp] theorem State.addTerm_cal (s : State) (k d : Nat) : (s.addTerm k d).cal = s.cal := rfl
@[simp] theorem State.addTerm_wvl (s : State) (k d : Nat) : (s.addTerm k d).wvl = s.wvl := rfl
@[simp] theorem State.addTerm_dmc (s : State) (k d : Nat) : (s.addTerm k d).dmc = s.dmc := rfl
@[simp] theorem State.addTerm_cmp (s : State) (k d : Nat) : (s.addTerm k d).cmp = s.cmp := rfl
@[simp] theorem State.addTerm_blk (s : State) (k d : Nat) : (s.addTerm k d).blk = s.blk := rfl
@[simp] theorem State.addTerm_pfc (s : State) (k d : Nat) : (s.addTerm k d).pfc = s.pfc := rfl
@[simp] theorem State.addTerm_eth (s : State) (k d : Nat) : (s.addTerm k d).eth = s.eth := rfl
@[simp] theorem State.addTerm_tim (s : State) (k d : Nat) : (s.addTerm k d).tim = s.tim := rfl
@[simp] theorem State.addTerm_pin (s : State) (k d : Nat) : (s.addTerm k d).pin = s.pin := rfl
@[simp] theorem State.addTerm_at_reg (s : State) (k d : Nat) (e : Nat) : (s.addTerm k d).reg e = s.reg e := rfl
@[simp] theorem State.addTerm_at_fld (s : State) (k d : Nat) (m : Loc) : (s.addTerm k d).fld m = s.fld m := rfl
@[simp] theorem State.addTerm_at_act (s : State) (k d : Nat) (e : Nat) : (s.addTerm k d).act e = s.act e := rfl
@[simp] theorem State.addTerm_at_actFld (s : State) (k d : Nat) (m : Loc) : (s.addTerm k d).actFld m = s.actFld m := rfl
@[simp] theorem State.addTerm_at_phys (s : State) (k d : Nat) (j : Nat) : (s.addTerm k d).phys j = s.phys j := rfl
@[simp] theorem State.addTerm_at_now (s : State) (k d : Nat) : (s.addTerm k d).now = s.now := rfl
@[simp] theorem State.addTerm_at_freeVal (s : State) (k d : Nat) : (s.addTerm k d).freeVal = s.freeVal := rfl
@[simp] theorem State.addTerm_at_cmdOf (s : State) (k d : Nat) (id : Nat) : (s.addTerm k d).cmdOf id = s.cmdOf id := rfl

/-! ### count -/

@[simp] theorem State.count_pending (s : State) (l : Loc) (d : Nat) : (s.count l d).pending = s.pending := rfl
@[simp] theorem State.count_out (s : State) (l : Loc) (d : Nat) : (s.count l d).out = s.out := rfl
@[simp] theorem State.count_free (s : State) (l : Loc) (d : Nat) : (s.count l d).free = s.free := rfl
@[simp] theorem State.count_active (s : State) (l : Loc) (d : Nat) : (s.count l d).active = s.active := rfl
@[simp] theorem State.count_dram (s : State) (l : Loc) (d : Nat) : (s.count l d).dram = s.dram := rfl
@[simp] theorem State.count_cmd (s : State) (l : Loc) (d : Nat) : (s.count l d).cmd = s.cmd := rfl
@[simp] theorem State.count_hst (s : State) (l : Loc) (d : Nat) : (s.count l d).hst = s.hst := rfl
@[simp] theorem State.count_ptp (s : State) (l : Loc) (d : Nat) : (s.count l d).ptp = s.ptp := rfl
@[simp] theorem State.count_flt (s : State) (l : Loc) (d : Nat) : (s.count l d).flt = s.flt := rfl
@[simp] theorem State.count_scn (s : State) (l : Loc) (d : Nat) : (s.count l d).scn = s.scn := rfl
@[simp] theorem State.count_dmg (s : State) (l : Loc) (d : Nat) : (s.count l d).dmg = s.dmg := rfl
@[simp] theorem State.count_sch (s : State) (l : Loc) (d : Nat) : (s.count l d).sch = s.sch := rfl
@[simp] theorem State.count_eng (s : State) (l : Loc) (d : Nat) : (s.count l d).eng = s.eng := rfl
@[simp] theorem State.count_glu (s : State) (l : Loc) (d : Nat) : (s.count l d).glu = s.glu := rfl
@[simp] theorem State.count_clp (s : State) (l : Loc) (d : Nat) : (s.count l d).clp = s.clp := rfl
@[simp] theorem State.count_trs (s : State) (l : Loc) (d : Nat) : (s.count l d).trs = s.trs := rfl
@[simp] theorem State.count_dec (s : State) (l : Loc) (d : Nat) : (s.count l d).dec = s.dec := rfl
@[simp] theorem State.count_pnl (s : State) (l : Loc) (d : Nat) : (s.count l d).pnl = s.pnl := rfl
@[simp] theorem State.count_lan (s : State) (l : Loc) (d : Nat) : (s.count l d).lan = s.lan := rfl
@[simp] theorem State.count_spl (s : State) (l : Loc) (d : Nat) : (s.count l d).spl = s.spl := rfl
@[simp] theorem State.count_pwc (s : State) (l : Loc) (d : Nat) : (s.count l d).pwc = s.pwc := rfl
@[simp] theorem State.count_cal (s : State) (l : Loc) (d : Nat) : (s.count l d).cal = s.cal := rfl
@[simp] theorem State.count_wvl (s : State) (l : Loc) (d : Nat) : (s.count l d).wvl = s.wvl := rfl
@[simp] theorem State.count_dmc (s : State) (l : Loc) (d : Nat) : (s.count l d).dmc = s.dmc := rfl
@[simp] theorem State.count_cmp (s : State) (l : Loc) (d : Nat) : (s.count l d).cmp = s.cmp := rfl
@[simp] theorem State.count_blk (s : State) (l : Loc) (d : Nat) : (s.count l d).blk = s.blk := rfl
@[simp] theorem State.count_pfc (s : State) (l : Loc) (d : Nat) : (s.count l d).pfc = s.pfc := rfl
@[simp] theorem State.count_eth (s : State) (l : Loc) (d : Nat) : (s.count l d).eth = s.eth := rfl
@[simp] theorem State.count_tim (s : State) (l : Loc) (d : Nat) : (s.count l d).tim = s.tim := rfl
@[simp] theorem State.count_pin (s : State) (l : Loc) (d : Nat) : (s.count l d).pin = s.pin := rfl
@[simp] theorem State.count_at_act (s : State) (l : Loc) (d : Nat) (e : Nat) : (s.count l d).act e = s.act e := rfl
@[simp] theorem State.count_at_actFld (s : State) (l : Loc) (d : Nat) (m : Loc) : (s.count l d).actFld m = s.actFld m := rfl
@[simp] theorem State.count_at_phys (s : State) (l : Loc) (d : Nat) (j : Nat) : (s.count l d).phys j = s.phys j := rfl
@[simp] theorem State.count_at_now (s : State) (l : Loc) (d : Nat) : (s.count l d).now = s.now := rfl
@[simp] theorem State.count_at_freeVal (s : State) (l : Loc) (d : Nat) : (s.count l d).freeVal = s.freeVal := rfl
@[simp] theorem State.count_at_cmdOf (s : State) (l : Loc) (d : Nat) (id : Nat) : (s.count l d).cmdOf id = s.cmdOf id := rfl

/-! ### emit -/

@[simp] theorem State.emit_pending (s : State) (o : Output) : (s.emit o).pending = s.pending := rfl
@[simp] theorem State.emit_free (s : State) (o : Output) : (s.emit o).free = s.free := rfl
@[simp] theorem State.emit_regs (s : State) (o : Output) : (s.emit o).regs = s.regs := rfl
@[simp] theorem State.emit_active (s : State) (o : Output) : (s.emit o).active = s.active := rfl
@[simp] theorem State.emit_ledger (s : State) (o : Output) : (s.emit o).ledger = s.ledger := rfl
@[simp] theorem State.emit_dram (s : State) (o : Output) : (s.emit o).dram = s.dram := rfl
@[simp] theorem State.emit_cmd (s : State) (o : Output) : (s.emit o).cmd = s.cmd := rfl
@[simp] theorem State.emit_hst (s : State) (o : Output) : (s.emit o).hst = s.hst := rfl
@[simp] theorem State.emit_ptp (s : State) (o : Output) : (s.emit o).ptp = s.ptp := rfl
@[simp] theorem State.emit_flt (s : State) (o : Output) : (s.emit o).flt = s.flt := rfl
@[simp] theorem State.emit_scn (s : State) (o : Output) : (s.emit o).scn = s.scn := rfl
@[simp] theorem State.emit_dmg (s : State) (o : Output) : (s.emit o).dmg = s.dmg := rfl
@[simp] theorem State.emit_sch (s : State) (o : Output) : (s.emit o).sch = s.sch := rfl
@[simp] theorem State.emit_eng (s : State) (o : Output) : (s.emit o).eng = s.eng := rfl
@[simp] theorem State.emit_glu (s : State) (o : Output) : (s.emit o).glu = s.glu := rfl
@[simp] theorem State.emit_clp (s : State) (o : Output) : (s.emit o).clp = s.clp := rfl
@[simp] theorem State.emit_trs (s : State) (o : Output) : (s.emit o).trs = s.trs := rfl
@[simp] theorem State.emit_dec (s : State) (o : Output) : (s.emit o).dec = s.dec := rfl
@[simp] theorem State.emit_pnl (s : State) (o : Output) : (s.emit o).pnl = s.pnl := rfl
@[simp] theorem State.emit_lan (s : State) (o : Output) : (s.emit o).lan = s.lan := rfl
@[simp] theorem State.emit_spl (s : State) (o : Output) : (s.emit o).spl = s.spl := rfl
@[simp] theorem State.emit_pwc (s : State) (o : Output) : (s.emit o).pwc = s.pwc := rfl
@[simp] theorem State.emit_cal (s : State) (o : Output) : (s.emit o).cal = s.cal := rfl
@[simp] theorem State.emit_wvl (s : State) (o : Output) : (s.emit o).wvl = s.wvl := rfl
@[simp] theorem State.emit_dmc (s : State) (o : Output) : (s.emit o).dmc = s.dmc := rfl
@[simp] theorem State.emit_cmp (s : State) (o : Output) : (s.emit o).cmp = s.cmp := rfl
@[simp] theorem State.emit_blk (s : State) (o : Output) : (s.emit o).blk = s.blk := rfl
@[simp] theorem State.emit_pfc (s : State) (o : Output) : (s.emit o).pfc = s.pfc := rfl
@[simp] theorem State.emit_eth (s : State) (o : Output) : (s.emit o).eth = s.eth := rfl
@[simp] theorem State.emit_tim (s : State) (o : Output) : (s.emit o).tim = s.tim := rfl
@[simp] theorem State.emit_pin (s : State) (o : Output) : (s.emit o).pin = s.pin := rfl
@[simp] theorem State.emit_at_reg (s : State) (o : Output) (e : Nat) : (s.emit o).reg e = s.reg e := rfl
@[simp] theorem State.emit_at_fld (s : State) (o : Output) (m : Loc) : (s.emit o).fld m = s.fld m := rfl
@[simp] theorem State.emit_at_act (s : State) (o : Output) (e : Nat) : (s.emit o).act e = s.act e := rfl
@[simp] theorem State.emit_at_actFld (s : State) (o : Output) (m : Loc) : (s.emit o).actFld m = s.actFld m := rfl
@[simp] theorem State.emit_at_term (s : State) (o : Output) (j : Nat) : (s.emit o).term j = s.term j := rfl
@[simp] theorem State.emit_at_phys (s : State) (o : Output) (j : Nat) : (s.emit o).phys j = s.phys j := rfl
@[simp] theorem State.emit_at_now (s : State) (o : Output) : (s.emit o).now = s.now := rfl
@[simp] theorem State.emit_at_freeVal (s : State) (o : Output) : (s.emit o).freeVal = s.freeVal := rfl
@[simp] theorem State.emit_at_cmdOf (s : State) (o : Output) (id : Nat) : (s.emit o).cmdOf id = s.cmdOf id := rfl

/-! ### nextFree -/

@[simp] theorem State.nextFree_pending (s : State) : (s.nextFree).pending = s.pending := rfl
@[simp] theorem State.nextFree_out (s : State) : (s.nextFree).out = s.out := rfl
@[simp] theorem State.nextFree_regs (s : State) : (s.nextFree).regs = s.regs := rfl
@[simp] theorem State.nextFree_active (s : State) : (s.nextFree).active = s.active := rfl
@[simp] theorem State.nextFree_ledger (s : State) : (s.nextFree).ledger = s.ledger := rfl
@[simp] theorem State.nextFree_dram (s : State) : (s.nextFree).dram = s.dram := rfl
@[simp] theorem State.nextFree_cmd (s : State) : (s.nextFree).cmd = s.cmd := rfl
@[simp] theorem State.nextFree_hst (s : State) : (s.nextFree).hst = s.hst := rfl
@[simp] theorem State.nextFree_ptp (s : State) : (s.nextFree).ptp = s.ptp := rfl
@[simp] theorem State.nextFree_flt (s : State) : (s.nextFree).flt = s.flt := rfl
@[simp] theorem State.nextFree_scn (s : State) : (s.nextFree).scn = s.scn := rfl
@[simp] theorem State.nextFree_dmg (s : State) : (s.nextFree).dmg = s.dmg := rfl
@[simp] theorem State.nextFree_sch (s : State) : (s.nextFree).sch = s.sch := rfl
@[simp] theorem State.nextFree_eng (s : State) : (s.nextFree).eng = s.eng := rfl
@[simp] theorem State.nextFree_glu (s : State) : (s.nextFree).glu = s.glu := rfl
@[simp] theorem State.nextFree_clp (s : State) : (s.nextFree).clp = s.clp := rfl
@[simp] theorem State.nextFree_trs (s : State) : (s.nextFree).trs = s.trs := rfl
@[simp] theorem State.nextFree_dec (s : State) : (s.nextFree).dec = s.dec := rfl
@[simp] theorem State.nextFree_pnl (s : State) : (s.nextFree).pnl = s.pnl := rfl
@[simp] theorem State.nextFree_lan (s : State) : (s.nextFree).lan = s.lan := rfl
@[simp] theorem State.nextFree_spl (s : State) : (s.nextFree).spl = s.spl := rfl
@[simp] theorem State.nextFree_pwc (s : State) : (s.nextFree).pwc = s.pwc := rfl
@[simp] theorem State.nextFree_cal (s : State) : (s.nextFree).cal = s.cal := rfl
@[simp] theorem State.nextFree_wvl (s : State) : (s.nextFree).wvl = s.wvl := rfl
@[simp] theorem State.nextFree_dmc (s : State) : (s.nextFree).dmc = s.dmc := rfl
@[simp] theorem State.nextFree_cmp (s : State) : (s.nextFree).cmp = s.cmp := rfl
@[simp] theorem State.nextFree_blk (s : State) : (s.nextFree).blk = s.blk := rfl
@[simp] theorem State.nextFree_pfc (s : State) : (s.nextFree).pfc = s.pfc := rfl
@[simp] theorem State.nextFree_eth (s : State) : (s.nextFree).eth = s.eth := rfl
@[simp] theorem State.nextFree_tim (s : State) : (s.nextFree).tim = s.tim := rfl
@[simp] theorem State.nextFree_pin (s : State) : (s.nextFree).pin = s.pin := rfl
@[simp] theorem State.nextFree_at_reg (s : State) (e : Nat) : (s.nextFree).reg e = s.reg e := rfl
@[simp] theorem State.nextFree_at_fld (s : State) (m : Loc) : (s.nextFree).fld m = s.fld m := rfl
@[simp] theorem State.nextFree_at_act (s : State) (e : Nat) : (s.nextFree).act e = s.act e := rfl
@[simp] theorem State.nextFree_at_actFld (s : State) (m : Loc) : (s.nextFree).actFld m = s.actFld m := rfl
@[simp] theorem State.nextFree_at_term (s : State) (j : Nat) : (s.nextFree).term j = s.term j := rfl
@[simp] theorem State.nextFree_at_phys (s : State) (j : Nat) : (s.nextFree).phys j = s.phys j := rfl
@[simp] theorem State.nextFree_at_now (s : State) : (s.nextFree).now = s.now := rfl
@[simp] theorem State.nextFree_at_cmdOf (s : State) (id : Nat) : (s.nextFree).cmdOf id = s.cmdOf id := rfl

/-! ### setPhys -/

@[simp] theorem State.setPhys_pending (s : State) (key : Nat) (b : Byte) : (s.setPhys key b).pending = s.pending := rfl
@[simp] theorem State.setPhys_out (s : State) (key : Nat) (b : Byte) : (s.setPhys key b).out = s.out := rfl
@[simp] theorem State.setPhys_free (s : State) (key : Nat) (b : Byte) : (s.setPhys key b).free = s.free := rfl
@[simp] theorem State.setPhys_regs (s : State) (key : Nat) (b : Byte) : (s.setPhys key b).regs = s.regs := rfl
@[simp] theorem State.setPhys_active (s : State) (key : Nat) (b : Byte) : (s.setPhys key b).active = s.active := rfl
@[simp] theorem State.setPhys_ledger (s : State) (key : Nat) (b : Byte) : (s.setPhys key b).ledger = s.ledger := rfl
@[simp] theorem State.setPhys_cmd (s : State) (key : Nat) (b : Byte) : (s.setPhys key b).cmd = s.cmd := rfl
@[simp] theorem State.setPhys_hst (s : State) (key : Nat) (b : Byte) : (s.setPhys key b).hst = s.hst := rfl
@[simp] theorem State.setPhys_ptp (s : State) (key : Nat) (b : Byte) : (s.setPhys key b).ptp = s.ptp := rfl
@[simp] theorem State.setPhys_flt (s : State) (key : Nat) (b : Byte) : (s.setPhys key b).flt = s.flt := rfl
@[simp] theorem State.setPhys_scn (s : State) (key : Nat) (b : Byte) : (s.setPhys key b).scn = s.scn := rfl
@[simp] theorem State.setPhys_dmg (s : State) (key : Nat) (b : Byte) : (s.setPhys key b).dmg = s.dmg := rfl
@[simp] theorem State.setPhys_sch (s : State) (key : Nat) (b : Byte) : (s.setPhys key b).sch = s.sch := rfl
@[simp] theorem State.setPhys_eng (s : State) (key : Nat) (b : Byte) : (s.setPhys key b).eng = s.eng := rfl
@[simp] theorem State.setPhys_glu (s : State) (key : Nat) (b : Byte) : (s.setPhys key b).glu = s.glu := rfl
@[simp] theorem State.setPhys_clp (s : State) (key : Nat) (b : Byte) : (s.setPhys key b).clp = s.clp := rfl
@[simp] theorem State.setPhys_trs (s : State) (key : Nat) (b : Byte) : (s.setPhys key b).trs = s.trs := rfl
@[simp] theorem State.setPhys_dec (s : State) (key : Nat) (b : Byte) : (s.setPhys key b).dec = s.dec := rfl
@[simp] theorem State.setPhys_pnl (s : State) (key : Nat) (b : Byte) : (s.setPhys key b).pnl = s.pnl := rfl
@[simp] theorem State.setPhys_lan (s : State) (key : Nat) (b : Byte) : (s.setPhys key b).lan = s.lan := rfl
@[simp] theorem State.setPhys_spl (s : State) (key : Nat) (b : Byte) : (s.setPhys key b).spl = s.spl := rfl
@[simp] theorem State.setPhys_pwc (s : State) (key : Nat) (b : Byte) : (s.setPhys key b).pwc = s.pwc := rfl
@[simp] theorem State.setPhys_cal (s : State) (key : Nat) (b : Byte) : (s.setPhys key b).cal = s.cal := rfl
@[simp] theorem State.setPhys_wvl (s : State) (key : Nat) (b : Byte) : (s.setPhys key b).wvl = s.wvl := rfl
@[simp] theorem State.setPhys_dmc (s : State) (key : Nat) (b : Byte) : (s.setPhys key b).dmc = s.dmc := rfl
@[simp] theorem State.setPhys_cmp (s : State) (key : Nat) (b : Byte) : (s.setPhys key b).cmp = s.cmp := rfl
@[simp] theorem State.setPhys_blk (s : State) (key : Nat) (b : Byte) : (s.setPhys key b).blk = s.blk := rfl
@[simp] theorem State.setPhys_pfc (s : State) (key : Nat) (b : Byte) : (s.setPhys key b).pfc = s.pfc := rfl
@[simp] theorem State.setPhys_eth (s : State) (key : Nat) (b : Byte) : (s.setPhys key b).eth = s.eth := rfl
@[simp] theorem State.setPhys_tim (s : State) (key : Nat) (b : Byte) : (s.setPhys key b).tim = s.tim := rfl
@[simp] theorem State.setPhys_pin (s : State) (key : Nat) (b : Byte) : (s.setPhys key b).pin = s.pin := rfl
@[simp] theorem State.setPhys_at_reg (s : State) (key : Nat) (b : Byte) (e : Nat) : (s.setPhys key b).reg e = s.reg e := rfl
@[simp] theorem State.setPhys_at_fld (s : State) (key : Nat) (b : Byte) (m : Loc) : (s.setPhys key b).fld m = s.fld m := rfl
@[simp] theorem State.setPhys_at_act (s : State) (key : Nat) (b : Byte) (e : Nat) : (s.setPhys key b).act e = s.act e := rfl
@[simp] theorem State.setPhys_at_actFld (s : State) (key : Nat) (b : Byte) (m : Loc) : (s.setPhys key b).actFld m = s.actFld m := rfl
@[simp] theorem State.setPhys_at_term (s : State) (key : Nat) (b : Byte) (j : Nat) : (s.setPhys key b).term j = s.term j := rfl
@[simp] theorem State.setPhys_at_now (s : State) (key : Nat) (b : Byte) : (s.setPhys key b).now = s.now := rfl
@[simp] theorem State.setPhys_at_freeVal (s : State) (key : Nat) (b : Byte) : (s.setPhys key b).freeVal = s.freeVal := rfl
@[simp] theorem State.setPhys_at_cmdOf (s : State) (key : Nat) (b : Byte) (id : Nat) : (s.setPhys key b).cmdOf id = s.cmdOf id := rfl

/-! ### setCmd -/

@[simp] theorem State.setCmd_pending (s : State) (c : Cmd) : (s.setCmd c).pending = s.pending := rfl
@[simp] theorem State.setCmd_out (s : State) (c : Cmd) : (s.setCmd c).out = s.out := rfl
@[simp] theorem State.setCmd_free (s : State) (c : Cmd) : (s.setCmd c).free = s.free := rfl
@[simp] theorem State.setCmd_regs (s : State) (c : Cmd) : (s.setCmd c).regs = s.regs := rfl
@[simp] theorem State.setCmd_active (s : State) (c : Cmd) : (s.setCmd c).active = s.active := rfl
@[simp] theorem State.setCmd_ledger (s : State) (c : Cmd) : (s.setCmd c).ledger = s.ledger := rfl
@[simp] theorem State.setCmd_dram (s : State) (c : Cmd) : (s.setCmd c).dram = s.dram := rfl
@[simp] theorem State.setCmd_hst (s : State) (c : Cmd) : (s.setCmd c).hst = s.hst := rfl
@[simp] theorem State.setCmd_ptp (s : State) (c : Cmd) : (s.setCmd c).ptp = s.ptp := rfl
@[simp] theorem State.setCmd_flt (s : State) (c : Cmd) : (s.setCmd c).flt = s.flt := rfl
@[simp] theorem State.setCmd_scn (s : State) (c : Cmd) : (s.setCmd c).scn = s.scn := rfl
@[simp] theorem State.setCmd_dmg (s : State) (c : Cmd) : (s.setCmd c).dmg = s.dmg := rfl
@[simp] theorem State.setCmd_sch (s : State) (c : Cmd) : (s.setCmd c).sch = s.sch := rfl
@[simp] theorem State.setCmd_eng (s : State) (c : Cmd) : (s.setCmd c).eng = s.eng := rfl
@[simp] theorem State.setCmd_glu (s : State) (c : Cmd) : (s.setCmd c).glu = s.glu := rfl
@[simp] theorem State.setCmd_clp (s : State) (c : Cmd) : (s.setCmd c).clp = s.clp := rfl
@[simp] theorem State.setCmd_trs (s : State) (c : Cmd) : (s.setCmd c).trs = s.trs := rfl
@[simp] theorem State.setCmd_dec (s : State) (c : Cmd) : (s.setCmd c).dec = s.dec := rfl
@[simp] theorem State.setCmd_pnl (s : State) (c : Cmd) : (s.setCmd c).pnl = s.pnl := rfl
@[simp] theorem State.setCmd_lan (s : State) (c : Cmd) : (s.setCmd c).lan = s.lan := rfl
@[simp] theorem State.setCmd_spl (s : State) (c : Cmd) : (s.setCmd c).spl = s.spl := rfl
@[simp] theorem State.setCmd_pwc (s : State) (c : Cmd) : (s.setCmd c).pwc = s.pwc := rfl
@[simp] theorem State.setCmd_cal (s : State) (c : Cmd) : (s.setCmd c).cal = s.cal := rfl
@[simp] theorem State.setCmd_wvl (s : State) (c : Cmd) : (s.setCmd c).wvl = s.wvl := rfl
@[simp] theorem State.setCmd_dmc (s : State) (c : Cmd) : (s.setCmd c).dmc = s.dmc := rfl
@[simp] theorem State.setCmd_cmp (s : State) (c : Cmd) : (s.setCmd c).cmp = s.cmp := rfl
@[simp] theorem State.setCmd_blk (s : State) (c : Cmd) : (s.setCmd c).blk = s.blk := rfl
@[simp] theorem State.setCmd_pfc (s : State) (c : Cmd) : (s.setCmd c).pfc = s.pfc := rfl
@[simp] theorem State.setCmd_eth (s : State) (c : Cmd) : (s.setCmd c).eth = s.eth := rfl
@[simp] theorem State.setCmd_tim (s : State) (c : Cmd) : (s.setCmd c).tim = s.tim := rfl
@[simp] theorem State.setCmd_pin (s : State) (c : Cmd) : (s.setCmd c).pin = s.pin := rfl
@[simp] theorem State.setCmd_at_reg (s : State) (c : Cmd) (e : Nat) : (s.setCmd c).reg e = s.reg e := rfl
@[simp] theorem State.setCmd_at_fld (s : State) (c : Cmd) (m : Loc) : (s.setCmd c).fld m = s.fld m := rfl
@[simp] theorem State.setCmd_at_act (s : State) (c : Cmd) (e : Nat) : (s.setCmd c).act e = s.act e := rfl
@[simp] theorem State.setCmd_at_actFld (s : State) (c : Cmd) (m : Loc) : (s.setCmd c).actFld m = s.actFld m := rfl
@[simp] theorem State.setCmd_at_term (s : State) (c : Cmd) (j : Nat) : (s.setCmd c).term j = s.term j := rfl
@[simp] theorem State.setCmd_at_phys (s : State) (c : Cmd) (j : Nat) : (s.setCmd c).phys j = s.phys j := rfl
@[simp] theorem State.setCmd_at_now (s : State) (c : Cmd) : (s.setCmd c).now = s.now := rfl
@[simp] theorem State.setCmd_at_freeVal (s : State) (c : Cmd) : (s.setCmd c).freeVal = s.freeVal := rfl

/-! ### post -/

@[simp] theorem State.post_pending (s : State) (code source data : Nat) (o : Option Nat) : (s.post code source data o).pending = s.pending := rfl
@[simp] theorem State.post_out (s : State) (code source data : Nat) (o : Option Nat) : (s.post code source data o).out = s.out := rfl
@[simp] theorem State.post_free (s : State) (code source data : Nat) (o : Option Nat) : (s.post code source data o).free = s.free := rfl
@[simp] theorem State.post_regs (s : State) (code source data : Nat) (o : Option Nat) : (s.post code source data o).regs = s.regs := rfl
@[simp] theorem State.post_active (s : State) (code source data : Nat) (o : Option Nat) : (s.post code source data o).active = s.active := rfl
@[simp] theorem State.post_ledger (s : State) (code source data : Nat) (o : Option Nat) : (s.post code source data o).ledger = s.ledger := rfl
@[simp] theorem State.post_dram (s : State) (code source data : Nat) (o : Option Nat) : (s.post code source data o).dram = s.dram := rfl
@[simp] theorem State.post_hst (s : State) (code source data : Nat) (o : Option Nat) : (s.post code source data o).hst = s.hst := rfl
@[simp] theorem State.post_ptp (s : State) (code source data : Nat) (o : Option Nat) : (s.post code source data o).ptp = s.ptp := rfl
@[simp] theorem State.post_flt (s : State) (code source data : Nat) (o : Option Nat) : (s.post code source data o).flt = s.flt := rfl
@[simp] theorem State.post_scn (s : State) (code source data : Nat) (o : Option Nat) : (s.post code source data o).scn = s.scn := rfl
@[simp] theorem State.post_dmg (s : State) (code source data : Nat) (o : Option Nat) : (s.post code source data o).dmg = s.dmg := rfl
@[simp] theorem State.post_sch (s : State) (code source data : Nat) (o : Option Nat) : (s.post code source data o).sch = s.sch := rfl
@[simp] theorem State.post_eng (s : State) (code source data : Nat) (o : Option Nat) : (s.post code source data o).eng = s.eng := rfl
@[simp] theorem State.post_glu (s : State) (code source data : Nat) (o : Option Nat) : (s.post code source data o).glu = s.glu := rfl
@[simp] theorem State.post_clp (s : State) (code source data : Nat) (o : Option Nat) : (s.post code source data o).clp = s.clp := rfl
@[simp] theorem State.post_trs (s : State) (code source data : Nat) (o : Option Nat) : (s.post code source data o).trs = s.trs := rfl
@[simp] theorem State.post_dec (s : State) (code source data : Nat) (o : Option Nat) : (s.post code source data o).dec = s.dec := rfl
@[simp] theorem State.post_pnl (s : State) (code source data : Nat) (o : Option Nat) : (s.post code source data o).pnl = s.pnl := rfl
@[simp] theorem State.post_lan (s : State) (code source data : Nat) (o : Option Nat) : (s.post code source data o).lan = s.lan := rfl
@[simp] theorem State.post_spl (s : State) (code source data : Nat) (o : Option Nat) : (s.post code source data o).spl = s.spl := rfl
@[simp] theorem State.post_pwc (s : State) (code source data : Nat) (o : Option Nat) : (s.post code source data o).pwc = s.pwc := rfl
@[simp] theorem State.post_cal (s : State) (code source data : Nat) (o : Option Nat) : (s.post code source data o).cal = s.cal := rfl
@[simp] theorem State.post_wvl (s : State) (code source data : Nat) (o : Option Nat) : (s.post code source data o).wvl = s.wvl := rfl
@[simp] theorem State.post_dmc (s : State) (code source data : Nat) (o : Option Nat) : (s.post code source data o).dmc = s.dmc := rfl
@[simp] theorem State.post_cmp (s : State) (code source data : Nat) (o : Option Nat) : (s.post code source data o).cmp = s.cmp := rfl
@[simp] theorem State.post_blk (s : State) (code source data : Nat) (o : Option Nat) : (s.post code source data o).blk = s.blk := rfl
@[simp] theorem State.post_pfc (s : State) (code source data : Nat) (o : Option Nat) : (s.post code source data o).pfc = s.pfc := rfl
@[simp] theorem State.post_eth (s : State) (code source data : Nat) (o : Option Nat) : (s.post code source data o).eth = s.eth := rfl
@[simp] theorem State.post_tim (s : State) (code source data : Nat) (o : Option Nat) : (s.post code source data o).tim = s.tim := rfl
@[simp] theorem State.post_pin (s : State) (code source data : Nat) (o : Option Nat) : (s.post code source data o).pin = s.pin := rfl
@[simp] theorem State.post_at_reg (s : State) (code source data : Nat) (o : Option Nat) (e : Nat) : (s.post code source data o).reg e = s.reg e := rfl
@[simp] theorem State.post_at_fld (s : State) (code source data : Nat) (o : Option Nat) (m : Loc) : (s.post code source data o).fld m = s.fld m := rfl
@[simp] theorem State.post_at_act (s : State) (code source data : Nat) (o : Option Nat) (e : Nat) : (s.post code source data o).act e = s.act e := rfl
@[simp] theorem State.post_at_actFld (s : State) (code source data : Nat) (o : Option Nat) (m : Loc) : (s.post code source data o).actFld m = s.actFld m := rfl
@[simp] theorem State.post_at_term (s : State) (code source data : Nat) (o : Option Nat) (j : Nat) : (s.post code source data o).term j = s.term j := rfl
@[simp] theorem State.post_at_phys (s : State) (code source data : Nat) (o : Option Nat) (j : Nat) : (s.post code source data o).phys j = s.phys j := rfl
@[simp] theorem State.post_at_now (s : State) (code source data : Nat) (o : Option Nat) : (s.post code source data o).now = s.now := rfl
@[simp] theorem State.post_at_freeVal (s : State) (code source data : Nat) (o : Option Nat) : (s.post code source data o).freeVal = s.freeVal := rfl

/-! ### putReply -/

@[simp] theorem State.putReply_pending (s : State) (c : Cmd) (status total done failed detail : Nat) : (s.putReply c status total done failed detail).pending = s.pending := rfl
@[simp] theorem State.putReply_out (s : State) (c : Cmd) (status total done failed detail : Nat) : (s.putReply c status total done failed detail).out = s.out := rfl
@[simp] theorem State.putReply_free (s : State) (c : Cmd) (status total done failed detail : Nat) : (s.putReply c status total done failed detail).free = s.free := rfl
@[simp] theorem State.putReply_regs (s : State) (c : Cmd) (status total done failed detail : Nat) : (s.putReply c status total done failed detail).regs = s.regs := rfl
@[simp] theorem State.putReply_active (s : State) (c : Cmd) (status total done failed detail : Nat) : (s.putReply c status total done failed detail).active = s.active := rfl
@[simp] theorem State.putReply_ledger (s : State) (c : Cmd) (status total done failed detail : Nat) : (s.putReply c status total done failed detail).ledger = s.ledger := rfl
@[simp] theorem State.putReply_dram (s : State) (c : Cmd) (status total done failed detail : Nat) : (s.putReply c status total done failed detail).dram = s.dram := rfl
@[simp] theorem State.putReply_hst (s : State) (c : Cmd) (status total done failed detail : Nat) : (s.putReply c status total done failed detail).hst = s.hst := rfl
@[simp] theorem State.putReply_ptp (s : State) (c : Cmd) (status total done failed detail : Nat) : (s.putReply c status total done failed detail).ptp = s.ptp := rfl
@[simp] theorem State.putReply_flt (s : State) (c : Cmd) (status total done failed detail : Nat) : (s.putReply c status total done failed detail).flt = s.flt := rfl
@[simp] theorem State.putReply_scn (s : State) (c : Cmd) (status total done failed detail : Nat) : (s.putReply c status total done failed detail).scn = s.scn := rfl
@[simp] theorem State.putReply_dmg (s : State) (c : Cmd) (status total done failed detail : Nat) : (s.putReply c status total done failed detail).dmg = s.dmg := rfl
@[simp] theorem State.putReply_sch (s : State) (c : Cmd) (status total done failed detail : Nat) : (s.putReply c status total done failed detail).sch = s.sch := rfl
@[simp] theorem State.putReply_eng (s : State) (c : Cmd) (status total done failed detail : Nat) : (s.putReply c status total done failed detail).eng = s.eng := rfl
@[simp] theorem State.putReply_glu (s : State) (c : Cmd) (status total done failed detail : Nat) : (s.putReply c status total done failed detail).glu = s.glu := rfl
@[simp] theorem State.putReply_clp (s : State) (c : Cmd) (status total done failed detail : Nat) : (s.putReply c status total done failed detail).clp = s.clp := rfl
@[simp] theorem State.putReply_trs (s : State) (c : Cmd) (status total done failed detail : Nat) : (s.putReply c status total done failed detail).trs = s.trs := rfl
@[simp] theorem State.putReply_dec (s : State) (c : Cmd) (status total done failed detail : Nat) : (s.putReply c status total done failed detail).dec = s.dec := rfl
@[simp] theorem State.putReply_pnl (s : State) (c : Cmd) (status total done failed detail : Nat) : (s.putReply c status total done failed detail).pnl = s.pnl := rfl
@[simp] theorem State.putReply_lan (s : State) (c : Cmd) (status total done failed detail : Nat) : (s.putReply c status total done failed detail).lan = s.lan := rfl
@[simp] theorem State.putReply_spl (s : State) (c : Cmd) (status total done failed detail : Nat) : (s.putReply c status total done failed detail).spl = s.spl := rfl
@[simp] theorem State.putReply_pwc (s : State) (c : Cmd) (status total done failed detail : Nat) : (s.putReply c status total done failed detail).pwc = s.pwc := rfl
@[simp] theorem State.putReply_cal (s : State) (c : Cmd) (status total done failed detail : Nat) : (s.putReply c status total done failed detail).cal = s.cal := rfl
@[simp] theorem State.putReply_wvl (s : State) (c : Cmd) (status total done failed detail : Nat) : (s.putReply c status total done failed detail).wvl = s.wvl := rfl
@[simp] theorem State.putReply_dmc (s : State) (c : Cmd) (status total done failed detail : Nat) : (s.putReply c status total done failed detail).dmc = s.dmc := rfl
@[simp] theorem State.putReply_cmp (s : State) (c : Cmd) (status total done failed detail : Nat) : (s.putReply c status total done failed detail).cmp = s.cmp := rfl
@[simp] theorem State.putReply_blk (s : State) (c : Cmd) (status total done failed detail : Nat) : (s.putReply c status total done failed detail).blk = s.blk := rfl
@[simp] theorem State.putReply_pfc (s : State) (c : Cmd) (status total done failed detail : Nat) : (s.putReply c status total done failed detail).pfc = s.pfc := rfl
@[simp] theorem State.putReply_eth (s : State) (c : Cmd) (status total done failed detail : Nat) : (s.putReply c status total done failed detail).eth = s.eth := rfl
@[simp] theorem State.putReply_tim (s : State) (c : Cmd) (status total done failed detail : Nat) : (s.putReply c status total done failed detail).tim = s.tim := rfl
@[simp] theorem State.putReply_pin (s : State) (c : Cmd) (status total done failed detail : Nat) : (s.putReply c status total done failed detail).pin = s.pin := rfl
@[simp] theorem State.putReply_at_reg (s : State) (c : Cmd) (status total done failed detail : Nat) (e : Nat) : (s.putReply c status total done failed detail).reg e = s.reg e := rfl
@[simp] theorem State.putReply_at_fld (s : State) (c : Cmd) (status total done failed detail : Nat) (m : Loc) : (s.putReply c status total done failed detail).fld m = s.fld m := rfl
@[simp] theorem State.putReply_at_act (s : State) (c : Cmd) (status total done failed detail : Nat) (e : Nat) : (s.putReply c status total done failed detail).act e = s.act e := rfl
@[simp] theorem State.putReply_at_actFld (s : State) (c : Cmd) (status total done failed detail : Nat) (m : Loc) : (s.putReply c status total done failed detail).actFld m = s.actFld m := rfl
@[simp] theorem State.putReply_at_term (s : State) (c : Cmd) (status total done failed detail : Nat) (j : Nat) : (s.putReply c status total done failed detail).term j = s.term j := rfl
@[simp] theorem State.putReply_at_phys (s : State) (c : Cmd) (status total done failed detail : Nat) (j : Nat) : (s.putReply c status total done failed detail).phys j = s.phys j := rfl
@[simp] theorem State.putReply_at_now (s : State) (c : Cmd) (status total done failed detail : Nat) : (s.putReply c status total done failed detail).now = s.now := rfl
@[simp] theorem State.putReply_at_freeVal (s : State) (c : Cmd) (status total done failed detail : Nat) : (s.putReply c status total done failed detail).freeVal = s.freeVal := rfl

/-! ### refuse -/

@[simp] theorem State.refuse_pending (s : State) (c : Cmd) (status detail : Nat) : (s.refuse c status detail).pending = s.pending := rfl
@[simp] theorem State.refuse_out (s : State) (c : Cmd) (status detail : Nat) : (s.refuse c status detail).out = s.out := rfl
@[simp] theorem State.refuse_free (s : State) (c : Cmd) (status detail : Nat) : (s.refuse c status detail).free = s.free := rfl
@[simp] theorem State.refuse_regs (s : State) (c : Cmd) (status detail : Nat) : (s.refuse c status detail).regs = s.regs := rfl
@[simp] theorem State.refuse_active (s : State) (c : Cmd) (status detail : Nat) : (s.refuse c status detail).active = s.active := rfl
@[simp] theorem State.refuse_ledger (s : State) (c : Cmd) (status detail : Nat) : (s.refuse c status detail).ledger = s.ledger := rfl
@[simp] theorem State.refuse_dram (s : State) (c : Cmd) (status detail : Nat) : (s.refuse c status detail).dram = s.dram := rfl
@[simp] theorem State.refuse_hst (s : State) (c : Cmd) (status detail : Nat) : (s.refuse c status detail).hst = s.hst := rfl
@[simp] theorem State.refuse_ptp (s : State) (c : Cmd) (status detail : Nat) : (s.refuse c status detail).ptp = s.ptp := rfl
@[simp] theorem State.refuse_flt (s : State) (c : Cmd) (status detail : Nat) : (s.refuse c status detail).flt = s.flt := rfl
@[simp] theorem State.refuse_scn (s : State) (c : Cmd) (status detail : Nat) : (s.refuse c status detail).scn = s.scn := rfl
@[simp] theorem State.refuse_dmg (s : State) (c : Cmd) (status detail : Nat) : (s.refuse c status detail).dmg = s.dmg := rfl
@[simp] theorem State.refuse_sch (s : State) (c : Cmd) (status detail : Nat) : (s.refuse c status detail).sch = s.sch := rfl
@[simp] theorem State.refuse_eng (s : State) (c : Cmd) (status detail : Nat) : (s.refuse c status detail).eng = s.eng := rfl
@[simp] theorem State.refuse_glu (s : State) (c : Cmd) (status detail : Nat) : (s.refuse c status detail).glu = s.glu := rfl
@[simp] theorem State.refuse_clp (s : State) (c : Cmd) (status detail : Nat) : (s.refuse c status detail).clp = s.clp := rfl
@[simp] theorem State.refuse_trs (s : State) (c : Cmd) (status detail : Nat) : (s.refuse c status detail).trs = s.trs := rfl
@[simp] theorem State.refuse_dec (s : State) (c : Cmd) (status detail : Nat) : (s.refuse c status detail).dec = s.dec := rfl
@[simp] theorem State.refuse_pnl (s : State) (c : Cmd) (status detail : Nat) : (s.refuse c status detail).pnl = s.pnl := rfl
@[simp] theorem State.refuse_lan (s : State) (c : Cmd) (status detail : Nat) : (s.refuse c status detail).lan = s.lan := rfl
@[simp] theorem State.refuse_spl (s : State) (c : Cmd) (status detail : Nat) : (s.refuse c status detail).spl = s.spl := rfl
@[simp] theorem State.refuse_pwc (s : State) (c : Cmd) (status detail : Nat) : (s.refuse c status detail).pwc = s.pwc := rfl
@[simp] theorem State.refuse_cal (s : State) (c : Cmd) (status detail : Nat) : (s.refuse c status detail).cal = s.cal := rfl
@[simp] theorem State.refuse_wvl (s : State) (c : Cmd) (status detail : Nat) : (s.refuse c status detail).wvl = s.wvl := rfl
@[simp] theorem State.refuse_dmc (s : State) (c : Cmd) (status detail : Nat) : (s.refuse c status detail).dmc = s.dmc := rfl
@[simp] theorem State.refuse_cmp (s : State) (c : Cmd) (status detail : Nat) : (s.refuse c status detail).cmp = s.cmp := rfl
@[simp] theorem State.refuse_blk (s : State) (c : Cmd) (status detail : Nat) : (s.refuse c status detail).blk = s.blk := rfl
@[simp] theorem State.refuse_pfc (s : State) (c : Cmd) (status detail : Nat) : (s.refuse c status detail).pfc = s.pfc := rfl
@[simp] theorem State.refuse_eth (s : State) (c : Cmd) (status detail : Nat) : (s.refuse c status detail).eth = s.eth := rfl
@[simp] theorem State.refuse_tim (s : State) (c : Cmd) (status detail : Nat) : (s.refuse c status detail).tim = s.tim := rfl
@[simp] theorem State.refuse_pin (s : State) (c : Cmd) (status detail : Nat) : (s.refuse c status detail).pin = s.pin := rfl
@[simp] theorem State.refuse_at_reg (s : State) (c : Cmd) (status detail : Nat) (e : Nat) : (s.refuse c status detail).reg e = s.reg e := rfl
@[simp] theorem State.refuse_at_fld (s : State) (c : Cmd) (status detail : Nat) (m : Loc) : (s.refuse c status detail).fld m = s.fld m := rfl
@[simp] theorem State.refuse_at_act (s : State) (c : Cmd) (status detail : Nat) (e : Nat) : (s.refuse c status detail).act e = s.act e := rfl
@[simp] theorem State.refuse_at_actFld (s : State) (c : Cmd) (status detail : Nat) (m : Loc) : (s.refuse c status detail).actFld m = s.actFld m := rfl
@[simp] theorem State.refuse_at_term (s : State) (c : Cmd) (status detail : Nat) (j : Nat) : (s.refuse c status detail).term j = s.term j := rfl
@[simp] theorem State.refuse_at_phys (s : State) (c : Cmd) (status detail : Nat) (j : Nat) : (s.refuse c status detail).phys j = s.phys j := rfl
@[simp] theorem State.refuse_at_now (s : State) (c : Cmd) (status detail : Nat) : (s.refuse c status detail).now = s.now := rfl
@[simp] theorem State.refuse_at_freeVal (s : State) (c : Cmd) (status detail : Nat) : (s.refuse c status detail).freeVal = s.freeVal := rfl

/-! ### defer -/

@[simp] theorem State.defer_pending (s : State) (c : Cmd) (total : Nat) (aux : List Nat) : (s.defer c total aux).pending = s.pending := rfl
@[simp] theorem State.defer_out (s : State) (c : Cmd) (total : Nat) (aux : List Nat) : (s.defer c total aux).out = s.out := rfl
@[simp] theorem State.defer_free (s : State) (c : Cmd) (total : Nat) (aux : List Nat) : (s.defer c total aux).free = s.free := rfl
@[simp] theorem State.defer_regs (s : State) (c : Cmd) (total : Nat) (aux : List Nat) : (s.defer c total aux).regs = s.regs := rfl
@[simp] theorem State.defer_active (s : State) (c : Cmd) (total : Nat) (aux : List Nat) : (s.defer c total aux).active = s.active := rfl
@[simp] theorem State.defer_ledger (s : State) (c : Cmd) (total : Nat) (aux : List Nat) : (s.defer c total aux).ledger = s.ledger := rfl
@[simp] theorem State.defer_dram (s : State) (c : Cmd) (total : Nat) (aux : List Nat) : (s.defer c total aux).dram = s.dram := rfl
@[simp] theorem State.defer_hst (s : State) (c : Cmd) (total : Nat) (aux : List Nat) : (s.defer c total aux).hst = s.hst := rfl
@[simp] theorem State.defer_ptp (s : State) (c : Cmd) (total : Nat) (aux : List Nat) : (s.defer c total aux).ptp = s.ptp := rfl
@[simp] theorem State.defer_flt (s : State) (c : Cmd) (total : Nat) (aux : List Nat) : (s.defer c total aux).flt = s.flt := rfl
@[simp] theorem State.defer_scn (s : State) (c : Cmd) (total : Nat) (aux : List Nat) : (s.defer c total aux).scn = s.scn := rfl
@[simp] theorem State.defer_dmg (s : State) (c : Cmd) (total : Nat) (aux : List Nat) : (s.defer c total aux).dmg = s.dmg := rfl
@[simp] theorem State.defer_sch (s : State) (c : Cmd) (total : Nat) (aux : List Nat) : (s.defer c total aux).sch = s.sch := rfl
@[simp] theorem State.defer_eng (s : State) (c : Cmd) (total : Nat) (aux : List Nat) : (s.defer c total aux).eng = s.eng := rfl
@[simp] theorem State.defer_glu (s : State) (c : Cmd) (total : Nat) (aux : List Nat) : (s.defer c total aux).glu = s.glu := rfl
@[simp] theorem State.defer_clp (s : State) (c : Cmd) (total : Nat) (aux : List Nat) : (s.defer c total aux).clp = s.clp := rfl
@[simp] theorem State.defer_trs (s : State) (c : Cmd) (total : Nat) (aux : List Nat) : (s.defer c total aux).trs = s.trs := rfl
@[simp] theorem State.defer_dec (s : State) (c : Cmd) (total : Nat) (aux : List Nat) : (s.defer c total aux).dec = s.dec := rfl
@[simp] theorem State.defer_pnl (s : State) (c : Cmd) (total : Nat) (aux : List Nat) : (s.defer c total aux).pnl = s.pnl := rfl
@[simp] theorem State.defer_lan (s : State) (c : Cmd) (total : Nat) (aux : List Nat) : (s.defer c total aux).lan = s.lan := rfl
@[simp] theorem State.defer_spl (s : State) (c : Cmd) (total : Nat) (aux : List Nat) : (s.defer c total aux).spl = s.spl := rfl
@[simp] theorem State.defer_pwc (s : State) (c : Cmd) (total : Nat) (aux : List Nat) : (s.defer c total aux).pwc = s.pwc := rfl
@[simp] theorem State.defer_cal (s : State) (c : Cmd) (total : Nat) (aux : List Nat) : (s.defer c total aux).cal = s.cal := rfl
@[simp] theorem State.defer_wvl (s : State) (c : Cmd) (total : Nat) (aux : List Nat) : (s.defer c total aux).wvl = s.wvl := rfl
@[simp] theorem State.defer_dmc (s : State) (c : Cmd) (total : Nat) (aux : List Nat) : (s.defer c total aux).dmc = s.dmc := rfl
@[simp] theorem State.defer_cmp (s : State) (c : Cmd) (total : Nat) (aux : List Nat) : (s.defer c total aux).cmp = s.cmp := rfl
@[simp] theorem State.defer_blk (s : State) (c : Cmd) (total : Nat) (aux : List Nat) : (s.defer c total aux).blk = s.blk := rfl
@[simp] theorem State.defer_pfc (s : State) (c : Cmd) (total : Nat) (aux : List Nat) : (s.defer c total aux).pfc = s.pfc := rfl
@[simp] theorem State.defer_eth (s : State) (c : Cmd) (total : Nat) (aux : List Nat) : (s.defer c total aux).eth = s.eth := rfl
@[simp] theorem State.defer_tim (s : State) (c : Cmd) (total : Nat) (aux : List Nat) : (s.defer c total aux).tim = s.tim := rfl
@[simp] theorem State.defer_pin (s : State) (c : Cmd) (total : Nat) (aux : List Nat) : (s.defer c total aux).pin = s.pin := rfl
@[simp] theorem State.defer_at_reg (s : State) (c : Cmd) (total : Nat) (aux : List Nat) (e : Nat) : (s.defer c total aux).reg e = s.reg e := rfl
@[simp] theorem State.defer_at_fld (s : State) (c : Cmd) (total : Nat) (aux : List Nat) (m : Loc) : (s.defer c total aux).fld m = s.fld m := rfl
@[simp] theorem State.defer_at_act (s : State) (c : Cmd) (total : Nat) (aux : List Nat) (e : Nat) : (s.defer c total aux).act e = s.act e := rfl
@[simp] theorem State.defer_at_actFld (s : State) (c : Cmd) (total : Nat) (aux : List Nat) (m : Loc) : (s.defer c total aux).actFld m = s.actFld m := rfl
@[simp] theorem State.defer_at_term (s : State) (c : Cmd) (total : Nat) (aux : List Nat) (j : Nat) : (s.defer c total aux).term j = s.term j := rfl
@[simp] theorem State.defer_at_phys (s : State) (c : Cmd) (total : Nat) (aux : List Nat) (j : Nat) : (s.defer c total aux).phys j = s.phys j := rfl
@[simp] theorem State.defer_at_now (s : State) (c : Cmd) (total : Nat) (aux : List Nat) : (s.defer c total aux).now = s.now := rfl
@[simp] theorem State.defer_at_freeVal (s : State) (c : Cmd) (total : Nat) (aux : List Nat) : (s.defer c total aux).freeVal = s.freeVal := rfl

/-! ### hold -/

@[simp] theorem State.hold_pending (s : State) (c : Cmd) : (s.hold c).pending = s.pending := rfl
@[simp] theorem State.hold_out (s : State) (c : Cmd) : (s.hold c).out = s.out := rfl
@[simp] theorem State.hold_free (s : State) (c : Cmd) : (s.hold c).free = s.free := rfl
@[simp] theorem State.hold_regs (s : State) (c : Cmd) : (s.hold c).regs = s.regs := rfl
@[simp] theorem State.hold_active (s : State) (c : Cmd) : (s.hold c).active = s.active := rfl
@[simp] theorem State.hold_ledger (s : State) (c : Cmd) : (s.hold c).ledger = s.ledger := rfl
@[simp] theorem State.hold_dram (s : State) (c : Cmd) : (s.hold c).dram = s.dram := rfl
@[simp] theorem State.hold_hst (s : State) (c : Cmd) : (s.hold c).hst = s.hst := rfl
@[simp] theorem State.hold_ptp (s : State) (c : Cmd) : (s.hold c).ptp = s.ptp := rfl
@[simp] theorem State.hold_flt (s : State) (c : Cmd) : (s.hold c).flt = s.flt := rfl
@[simp] theorem State.hold_scn (s : State) (c : Cmd) : (s.hold c).scn = s.scn := rfl
@[simp] theorem State.hold_dmg (s : State) (c : Cmd) : (s.hold c).dmg = s.dmg := rfl
@[simp] theorem State.hold_sch (s : State) (c : Cmd) : (s.hold c).sch = s.sch := rfl
@[simp] theorem State.hold_eng (s : State) (c : Cmd) : (s.hold c).eng = s.eng := rfl
@[simp] theorem State.hold_glu (s : State) (c : Cmd) : (s.hold c).glu = s.glu := rfl
@[simp] theorem State.hold_clp (s : State) (c : Cmd) : (s.hold c).clp = s.clp := rfl
@[simp] theorem State.hold_trs (s : State) (c : Cmd) : (s.hold c).trs = s.trs := rfl
@[simp] theorem State.hold_dec (s : State) (c : Cmd) : (s.hold c).dec = s.dec := rfl
@[simp] theorem State.hold_pnl (s : State) (c : Cmd) : (s.hold c).pnl = s.pnl := rfl
@[simp] theorem State.hold_lan (s : State) (c : Cmd) : (s.hold c).lan = s.lan := rfl
@[simp] theorem State.hold_spl (s : State) (c : Cmd) : (s.hold c).spl = s.spl := rfl
@[simp] theorem State.hold_pwc (s : State) (c : Cmd) : (s.hold c).pwc = s.pwc := rfl
@[simp] theorem State.hold_cal (s : State) (c : Cmd) : (s.hold c).cal = s.cal := rfl
@[simp] theorem State.hold_wvl (s : State) (c : Cmd) : (s.hold c).wvl = s.wvl := rfl
@[simp] theorem State.hold_dmc (s : State) (c : Cmd) : (s.hold c).dmc = s.dmc := rfl
@[simp] theorem State.hold_cmp (s : State) (c : Cmd) : (s.hold c).cmp = s.cmp := rfl
@[simp] theorem State.hold_blk (s : State) (c : Cmd) : (s.hold c).blk = s.blk := rfl
@[simp] theorem State.hold_pfc (s : State) (c : Cmd) : (s.hold c).pfc = s.pfc := rfl
@[simp] theorem State.hold_eth (s : State) (c : Cmd) : (s.hold c).eth = s.eth := rfl
@[simp] theorem State.hold_tim (s : State) (c : Cmd) : (s.hold c).tim = s.tim := rfl
@[simp] theorem State.hold_pin (s : State) (c : Cmd) : (s.hold c).pin = s.pin := rfl
@[simp] theorem State.hold_at_reg (s : State) (c : Cmd) (e : Nat) : (s.hold c).reg e = s.reg e := rfl
@[simp] theorem State.hold_at_fld (s : State) (c : Cmd) (m : Loc) : (s.hold c).fld m = s.fld m := rfl
@[simp] theorem State.hold_at_act (s : State) (c : Cmd) (e : Nat) : (s.hold c).act e = s.act e := rfl
@[simp] theorem State.hold_at_actFld (s : State) (c : Cmd) (m : Loc) : (s.hold c).actFld m = s.actFld m := rfl
@[simp] theorem State.hold_at_term (s : State) (c : Cmd) (j : Nat) : (s.hold c).term j = s.term j := rfl
@[simp] theorem State.hold_at_phys (s : State) (c : Cmd) (j : Nat) : (s.hold c).phys j = s.phys j := rfl
@[simp] theorem State.hold_at_now (s : State) (c : Cmd) : (s.hold c).now = s.now := rfl
@[simp] theorem State.hold_at_freeVal (s : State) (c : Cmd) : (s.hold c).freeVal = s.freeVal := rfl

/-! ### bar0 -/

@[simp] theorem State.bar0_pending (s : State) (client : Nat) : (s.bar0 client).pending = s.pending := rfl
@[simp] theorem State.bar0_out (s : State) (client : Nat) : (s.bar0 client).out = s.out := rfl
@[simp] theorem State.bar0_free (s : State) (client : Nat) : (s.bar0 client).free = s.free := rfl
@[simp] theorem State.bar0_regs (s : State) (client : Nat) : (s.bar0 client).regs = s.regs := rfl
@[simp] theorem State.bar0_active (s : State) (client : Nat) : (s.bar0 client).active = s.active := rfl
@[simp] theorem State.bar0_ledger (s : State) (client : Nat) : (s.bar0 client).ledger = s.ledger := rfl
@[simp] theorem State.bar0_dram (s : State) (client : Nat) : (s.bar0 client).dram = s.dram := rfl
@[simp] theorem State.bar0_cmd (s : State) (client : Nat) : (s.bar0 client).cmd = s.cmd := rfl
@[simp] theorem State.bar0_ptp (s : State) (client : Nat) : (s.bar0 client).ptp = s.ptp := rfl
@[simp] theorem State.bar0_flt (s : State) (client : Nat) : (s.bar0 client).flt = s.flt := rfl
@[simp] theorem State.bar0_scn (s : State) (client : Nat) : (s.bar0 client).scn = s.scn := rfl
@[simp] theorem State.bar0_dmg (s : State) (client : Nat) : (s.bar0 client).dmg = s.dmg := rfl
@[simp] theorem State.bar0_sch (s : State) (client : Nat) : (s.bar0 client).sch = s.sch := rfl
@[simp] theorem State.bar0_eng (s : State) (client : Nat) : (s.bar0 client).eng = s.eng := rfl
@[simp] theorem State.bar0_glu (s : State) (client : Nat) : (s.bar0 client).glu = s.glu := rfl
@[simp] theorem State.bar0_clp (s : State) (client : Nat) : (s.bar0 client).clp = s.clp := rfl
@[simp] theorem State.bar0_trs (s : State) (client : Nat) : (s.bar0 client).trs = s.trs := rfl
@[simp] theorem State.bar0_dec (s : State) (client : Nat) : (s.bar0 client).dec = s.dec := rfl
@[simp] theorem State.bar0_pnl (s : State) (client : Nat) : (s.bar0 client).pnl = s.pnl := rfl
@[simp] theorem State.bar0_lan (s : State) (client : Nat) : (s.bar0 client).lan = s.lan := rfl
@[simp] theorem State.bar0_spl (s : State) (client : Nat) : (s.bar0 client).spl = s.spl := rfl
@[simp] theorem State.bar0_pwc (s : State) (client : Nat) : (s.bar0 client).pwc = s.pwc := rfl
@[simp] theorem State.bar0_cal (s : State) (client : Nat) : (s.bar0 client).cal = s.cal := rfl
@[simp] theorem State.bar0_wvl (s : State) (client : Nat) : (s.bar0 client).wvl = s.wvl := rfl
@[simp] theorem State.bar0_dmc (s : State) (client : Nat) : (s.bar0 client).dmc = s.dmc := rfl
@[simp] theorem State.bar0_cmp (s : State) (client : Nat) : (s.bar0 client).cmp = s.cmp := rfl
@[simp] theorem State.bar0_blk (s : State) (client : Nat) : (s.bar0 client).blk = s.blk := rfl
@[simp] theorem State.bar0_eth (s : State) (client : Nat) : (s.bar0 client).eth = s.eth := rfl
@[simp] theorem State.bar0_tim (s : State) (client : Nat) : (s.bar0 client).tim = s.tim := rfl
@[simp] theorem State.bar0_pin (s : State) (client : Nat) : (s.bar0 client).pin = s.pin := rfl
@[simp] theorem State.bar0_at_reg (s : State) (client : Nat) (e : Nat) : (s.bar0 client).reg e = s.reg e := rfl
@[simp] theorem State.bar0_at_fld (s : State) (client : Nat) (m : Loc) : (s.bar0 client).fld m = s.fld m := rfl
@[simp] theorem State.bar0_at_act (s : State) (client : Nat) (e : Nat) : (s.bar0 client).act e = s.act e := rfl
@[simp] theorem State.bar0_at_actFld (s : State) (client : Nat) (m : Loc) : (s.bar0 client).actFld m = s.actFld m := rfl
@[simp] theorem State.bar0_at_term (s : State) (client : Nat) (j : Nat) : (s.bar0 client).term j = s.term j := rfl
@[simp] theorem State.bar0_at_phys (s : State) (client : Nat) (j : Nat) : (s.bar0 client).phys j = s.phys j := rfl
@[simp] theorem State.bar0_at_now (s : State) (client : Nat) : (s.bar0 client).now = s.now := rfl
@[simp] theorem State.bar0_at_freeVal (s : State) (client : Nat) : (s.bar0 client).freeVal = s.freeVal := rfl
@[simp] theorem State.bar0_at_cmdOf (s : State) (client : Nat) (id : Nat) : (s.bar0 client).cmdOf id = s.cmdOf id := rfl

/-! ### holdWrite -/

@[simp] theorem State.holdWrite_pending (s : State) (d off mask value : Nat) : (s.holdWrite d off mask value).pending = s.pending := rfl
@[simp] theorem State.holdWrite_out (s : State) (d off mask value : Nat) : (s.holdWrite d off mask value).out = s.out := rfl
@[simp] theorem State.holdWrite_free (s : State) (d off mask value : Nat) : (s.holdWrite d off mask value).free = s.free := rfl
@[simp] theorem State.holdWrite_regs (s : State) (d off mask value : Nat) : (s.holdWrite d off mask value).regs = s.regs := rfl
@[simp] theorem State.holdWrite_active (s : State) (d off mask value : Nat) : (s.holdWrite d off mask value).active = s.active := rfl
@[simp] theorem State.holdWrite_ledger (s : State) (d off mask value : Nat) : (s.holdWrite d off mask value).ledger = s.ledger := rfl
@[simp] theorem State.holdWrite_dram (s : State) (d off mask value : Nat) : (s.holdWrite d off mask value).dram = s.dram := rfl
@[simp] theorem State.holdWrite_cmd (s : State) (d off mask value : Nat) : (s.holdWrite d off mask value).cmd = s.cmd := rfl
@[simp] theorem State.holdWrite_ptp (s : State) (d off mask value : Nat) : (s.holdWrite d off mask value).ptp = s.ptp := rfl
@[simp] theorem State.holdWrite_flt (s : State) (d off mask value : Nat) : (s.holdWrite d off mask value).flt = s.flt := rfl
@[simp] theorem State.holdWrite_scn (s : State) (d off mask value : Nat) : (s.holdWrite d off mask value).scn = s.scn := rfl
@[simp] theorem State.holdWrite_dmg (s : State) (d off mask value : Nat) : (s.holdWrite d off mask value).dmg = s.dmg := rfl
@[simp] theorem State.holdWrite_sch (s : State) (d off mask value : Nat) : (s.holdWrite d off mask value).sch = s.sch := rfl
@[simp] theorem State.holdWrite_eng (s : State) (d off mask value : Nat) : (s.holdWrite d off mask value).eng = s.eng := rfl
@[simp] theorem State.holdWrite_glu (s : State) (d off mask value : Nat) : (s.holdWrite d off mask value).glu = s.glu := rfl
@[simp] theorem State.holdWrite_clp (s : State) (d off mask value : Nat) : (s.holdWrite d off mask value).clp = s.clp := rfl
@[simp] theorem State.holdWrite_trs (s : State) (d off mask value : Nat) : (s.holdWrite d off mask value).trs = s.trs := rfl
@[simp] theorem State.holdWrite_dec (s : State) (d off mask value : Nat) : (s.holdWrite d off mask value).dec = s.dec := rfl
@[simp] theorem State.holdWrite_pnl (s : State) (d off mask value : Nat) : (s.holdWrite d off mask value).pnl = s.pnl := rfl
@[simp] theorem State.holdWrite_lan (s : State) (d off mask value : Nat) : (s.holdWrite d off mask value).lan = s.lan := rfl
@[simp] theorem State.holdWrite_spl (s : State) (d off mask value : Nat) : (s.holdWrite d off mask value).spl = s.spl := rfl
@[simp] theorem State.holdWrite_pwc (s : State) (d off mask value : Nat) : (s.holdWrite d off mask value).pwc = s.pwc := rfl
@[simp] theorem State.holdWrite_cal (s : State) (d off mask value : Nat) : (s.holdWrite d off mask value).cal = s.cal := rfl
@[simp] theorem State.holdWrite_wvl (s : State) (d off mask value : Nat) : (s.holdWrite d off mask value).wvl = s.wvl := rfl
@[simp] theorem State.holdWrite_dmc (s : State) (d off mask value : Nat) : (s.holdWrite d off mask value).dmc = s.dmc := rfl
@[simp] theorem State.holdWrite_cmp (s : State) (d off mask value : Nat) : (s.holdWrite d off mask value).cmp = s.cmp := rfl
@[simp] theorem State.holdWrite_blk (s : State) (d off mask value : Nat) : (s.holdWrite d off mask value).blk = s.blk := rfl
@[simp] theorem State.holdWrite_pfc (s : State) (d off mask value : Nat) : (s.holdWrite d off mask value).pfc = s.pfc := rfl
@[simp] theorem State.holdWrite_eth (s : State) (d off mask value : Nat) : (s.holdWrite d off mask value).eth = s.eth := rfl
@[simp] theorem State.holdWrite_tim (s : State) (d off mask value : Nat) : (s.holdWrite d off mask value).tim = s.tim := rfl
@[simp] theorem State.holdWrite_pin (s : State) (d off mask value : Nat) : (s.holdWrite d off mask value).pin = s.pin := rfl
@[simp] theorem State.holdWrite_at_reg (s : State) (d off mask value : Nat) (e : Nat) : (s.holdWrite d off mask value).reg e = s.reg e := rfl
@[simp] theorem State.holdWrite_at_fld (s : State) (d off mask value : Nat) (m : Loc) : (s.holdWrite d off mask value).fld m = s.fld m := rfl
@[simp] theorem State.holdWrite_at_act (s : State) (d off mask value : Nat) (e : Nat) : (s.holdWrite d off mask value).act e = s.act e := rfl
@[simp] theorem State.holdWrite_at_actFld (s : State) (d off mask value : Nat) (m : Loc) : (s.holdWrite d off mask value).actFld m = s.actFld m := rfl
@[simp] theorem State.holdWrite_at_term (s : State) (d off mask value : Nat) (j : Nat) : (s.holdWrite d off mask value).term j = s.term j := rfl
@[simp] theorem State.holdWrite_at_phys (s : State) (d off mask value : Nat) (j : Nat) : (s.holdWrite d off mask value).phys j = s.phys j := rfl
@[simp] theorem State.holdWrite_at_now (s : State) (d off mask value : Nat) : (s.holdWrite d off mask value).now = s.now := rfl
@[simp] theorem State.holdWrite_at_freeVal (s : State) (d off mask value : Nat) : (s.holdWrite d off mask value).freeVal = s.freeVal := rfl
@[simp] theorem State.holdWrite_at_cmdOf (s : State) (d off mask value : Nat) (id : Nat) : (s.holdWrite d off mask value).cmdOf id = s.cmdOf id := rfl

end Sys2Proof.Machine
end

