-- ==== Sys2Proof/Laws/Ops.lean ====
section
/-! SUPPORT. What the shared operations of Machine/Ops.lean do: what a register, a field, a term or a byte reads after a write, what
a command that may start runs, and what a reply adds. -/

namespace Sys2Proof.Machine

open Sys2Proof

variable (s : State)

/-! ## Registers and fields -/

@[simp] theorem State.reg_setReg_same (e : Nat) (v : RegWord) : (s.setReg e v).reg e = v := Store.get_set_same ..

theorem State.reg_setReg (e f : Nat) (v : RegWord) : (s.setReg e v).reg f = if f = e then v else s.reg f := Store.get_set ..

theorem State.reg_setReg_other {e f : Nat} (v : RegWord) (h : f ≠ e) : (s.setReg e v).reg f = s.reg f := Store.get_set_other _ _ _ h

theorem State.reg_setFld_other {l : Loc} (x : Nat) {f : Nat} (h : f ≠ l.off) : (s.setFld l x).reg f = s.reg f :=
  State.reg_setReg_other s _ h

theorem State.reg_bumpBy_other {l : Loc} (d : Nat) {f : Nat} (h : f ≠ l.off) : (s.bumpBy l d).reg f = s.reg f :=
  State.reg_setReg_other s _ h

theorem State.reg_bump_other {l : Loc} {f : Nat} (h : f ≠ l.off) : (s.bump l).reg f = s.reg f := State.reg_setReg_other s _ h

theorem State.reg_count_other {l : Loc} (d : Nat) {f : Nat} (h : f ≠ l.off) : (s.count l d).reg f = s.reg f :=
  State.reg_setReg_other s _ h

/-- Two fields share no bit. -/
def Loc.apart (l m : Loc) : Prop := l.off ≠ m.off ∨ l.lo + l.w ≤ m.lo ∨ m.lo + m.w ≤ l.lo

theorem State.fld_setFld_same {l : Loc} (x : Nat) (h : l.lo + l.w ≤ 64) : (s.setFld l x).fld l = x % 2 ^ l.w := by
  unfold State.fld State.setFld
  rw [State.reg_setReg_same]
  exact fieldGet_fieldSet_same _ _ _ _ h

theorem State.fld_setFld_apart {l m : Loc} (x : Nat) (hm : m.lo + m.w ≤ 64) (h : Loc.apart l m) : (s.setFld l x).fld m = s.fld m := by
  unfold State.fld State.setFld
  by_cases ho : m.off = l.off
  · rw [ho, State.reg_setReg_same]
    refine fieldGet_fieldSet_other _ _ _ _ _ _ hm ?_
    rcases h with h | h
    · exact absurd ho.symm h
    · exact h
  · rw [State.reg_setReg_other s _ ho]

theorem State.fld_setReg_other {e : Nat} (v : RegWord) {m : Loc} (h : m.off ≠ e) : (s.setReg e v).fld m = s.fld m := by
  unfold State.fld
  rw [State.reg_setReg_other s v h]

theorem State.fld_lt (l : Loc) : s.fld l < 2 ^ l.w := fieldGet_lt ..

/-- A counter field rises by 1, up to all ones. -/
theorem State.fld_bump_same {l : Loc} (h : l.lo + l.w ≤ 64) : (s.bump l).fld l = min (s.fld l + 1) (2 ^ l.w - 1) := by
  unfold State.bump State.bumpBy
  rw [State.fld_setFld_same s _ h]
  have := Nat.two_pow_pos l.w
  exact Nat.mod_eq_of_lt (by unfold satAdd; omega)

theorem State.fld_bumpBy_same {l : Loc} (d : Nat) (h : l.lo + l.w ≤ 64) : (s.bumpBy l d).fld l = min (s.fld l + d) (2 ^ l.w - 1) := by
  unfold State.bumpBy
  rw [State.fld_setFld_same s _ h]
  have := Nat.two_pow_pos l.w
  exact Nat.mod_eq_of_lt (by unfold satAdd; omega)

theorem State.fld_bump_apart {l m : Loc} (hm : m.lo + m.w ≤ 64) (h : Loc.apart l m) : (s.bump l).fld m = s.fld m :=
  State.fld_setFld_apart s _ hm h

theorem State.fld_bumpBy_apart {l m : Loc} (d : Nat) (hm : m.lo + m.w ≤ 64) (h : Loc.apart l m) : (s.bumpBy l d).fld m = s.fld m :=
  State.fld_setFld_apart s _ hm h

theorem State.fld_count_same {l : Loc} (d : Nat) (h : l.lo + l.w ≤ 64) : (s.count l d).fld l = min (s.fld l + d) (2 ^ l.w - 1) :=
  State.fld_bumpBy_same s d h

theorem State.fld_count_apart {l m : Loc} (d : Nat) (hm : m.lo + m.w ≤ 64) (h : Loc.apart l m) : (s.count l d).fld m = s.fld m :=
  State.fld_setFld_apart s _ hm h

/-! ## Active values, terms and bytes -/

@[simp] theorem State.act_setAct_same (e : Nat) (v : RegWord) : (s.setAct e v).act e = v := Store.get_set_same ..

theorem State.act_setAct_other {e f : Nat} (v : RegWord) (h : f ≠ e) : (s.setAct e v).act f = s.act f := Store.get_set_other _ _ _ h

theorem State.actFld_setActFld_same {l : Loc} (x : Nat) (h : l.lo + l.w ≤ 64) : (s.setActFld l x).actFld l = x % 2 ^ l.w := by
  unfold State.actFld State.setActFld
  rw [State.act_setAct_same]
  exact fieldGet_fieldSet_same _ _ _ _ h

@[simp] theorem State.term_addTerm_same (k d : Nat) : (s.addTerm k d).term k = s.term k + d := Store.get_set_same ..

theorem State.term_addTerm_other {k j : Nat} (d : Nat) (h : j ≠ k) : (s.addTerm k d).term j = s.term j := Store.get_set_other _ _ _ h

@[simp] theorem State.phys_setPhys_same (k : Nat) (b : Byte) : (s.setPhys k b).phys k = b := Store.get_set_same ..

theorem State.phys_setPhys_other {k j : Nat} (b : Byte) (h : j ≠ k) : (s.setPhys k b).phys j = s.phys j := Store.get_set_other _ _ _ h

@[simp] theorem State.emit_out (o : Output) : (s.emit o).out = o :: s.out := rfl

@[simp] theorem State.nextFree_free : s.nextFree.free = s.free + 1 := rfl

@[simp] theorem State.post_events (code source data : Nat) (o : Option Nat) : (s.post code source data o).cmd.events =
    s.cmd.events ++ [⟨code, source % 65536, data % 4294967296, s.now, o, none, none⟩] := rfl

/-! ## Record updates -/

@[simp] theorem State.reg_mk {X : State} (e : Nat)
    {pending' : List Instr} {out' : List Output} {free' : Nat} {active' : Store RegWord} {ledger' : Store Nat} {dram' : List Host.Cell} {cmd' : CmdState} {hst' : HstState} {ptp' : PtpState} {flt' : FltState} {scn' : ScnState} {dmg' : DmgState} {sch' : SchState} {eng' : EngState} {glu' : GluState} {clp' : ClpState} {trs' : TrsState} {dec' : DecState} {pnl' : PnlState} {lan' : LanState} {spl' : SplState} {pwc' : PwcState} {cal' : CalState} {wvl' : WvlState} {dmc' : DmcState} {cmp' : CmpState} {blk' : BlkState} {pfc' : PfcState} {eth' : EthState} {tim' : TimState} {pin' : PinState} :
    (State.mk pending' out' free' X.regs active' ledger' dram' cmd' hst' ptp' flt' scn' dmg' sch' eng' glu' clp' trs' dec' pnl' lan' spl' pwc' cal' wvl' dmc' cmp' blk' pfc' eth' tim' pin').reg e = X.reg e := rfl

@[simp] theorem State.fld_mk {X : State} (l : Loc)
    {pending' : List Instr} {out' : List Output} {free' : Nat} {active' : Store RegWord} {ledger' : Store Nat} {dram' : List Host.Cell} {cmd' : CmdState} {hst' : HstState} {ptp' : PtpState} {flt' : FltState} {scn' : ScnState} {dmg' : DmgState} {sch' : SchState} {eng' : EngState} {glu' : GluState} {clp' : ClpState} {trs' : TrsState} {dec' : DecState} {pnl' : PnlState} {lan' : LanState} {spl' : SplState} {pwc' : PwcState} {cal' : CalState} {wvl' : WvlState} {dmc' : DmcState} {cmp' : CmpState} {blk' : BlkState} {pfc' : PfcState} {eth' : EthState} {tim' : TimState} {pin' : PinState} :
    (State.mk pending' out' free' X.regs active' ledger' dram' cmd' hst' ptp' flt' scn' dmg' sch' eng' glu' clp' trs' dec' pnl' lan' spl' pwc' cal' wvl' dmc' cmp' blk' pfc' eth' tim' pin').fld l = X.fld l := rfl

@[simp] theorem State.act_mk {X : State} (e : Nat)
    {pending' : List Instr} {out' : List Output} {free' : Nat} {regs' : Store RegWord} {ledger' : Store Nat} {dram' : List Host.Cell} {cmd' : CmdState} {hst' : HstState} {ptp' : PtpState} {flt' : FltState} {scn' : ScnState} {dmg' : DmgState} {sch' : SchState} {eng' : EngState} {glu' : GluState} {clp' : ClpState} {trs' : TrsState} {dec' : DecState} {pnl' : PnlState} {lan' : LanState} {spl' : SplState} {pwc' : PwcState} {cal' : CalState} {wvl' : WvlState} {dmc' : DmcState} {cmp' : CmpState} {blk' : BlkState} {pfc' : PfcState} {eth' : EthState} {tim' : TimState} {pin' : PinState} :
    (State.mk pending' out' free' regs' X.active ledger' dram' cmd' hst' ptp' flt' scn' dmg' sch' eng' glu' clp' trs' dec' pnl' lan' spl' pwc' cal' wvl' dmc' cmp' blk' pfc' eth' tim' pin').act e = X.act e := rfl

@[simp] theorem State.actFld_mk {X : State} (l : Loc)
    {pending' : List Instr} {out' : List Output} {free' : Nat} {regs' : Store RegWord} {ledger' : Store Nat} {dram' : List Host.Cell} {cmd' : CmdState} {hst' : HstState} {ptp' : PtpState} {flt' : FltState} {scn' : ScnState} {dmg' : DmgState} {sch' : SchState} {eng' : EngState} {glu' : GluState} {clp' : ClpState} {trs' : TrsState} {dec' : DecState} {pnl' : PnlState} {lan' : LanState} {spl' : SplState} {pwc' : PwcState} {cal' : CalState} {wvl' : WvlState} {dmc' : DmcState} {cmp' : CmpState} {blk' : BlkState} {pfc' : PfcState} {eth' : EthState} {tim' : TimState} {pin' : PinState} :
    (State.mk pending' out' free' regs' X.active ledger' dram' cmd' hst' ptp' flt' scn' dmg' sch' eng' glu' clp' trs' dec' pnl' lan' spl' pwc' cal' wvl' dmc' cmp' blk' pfc' eth' tim' pin').actFld l = X.actFld l := rfl

@[simp] theorem State.term_mk {X : State} (k : Nat)
    {pending' : List Instr} {out' : List Output} {free' : Nat} {regs' : Store RegWord} {active' : Store RegWord} {dram' : List Host.Cell} {cmd' : CmdState} {hst' : HstState} {ptp' : PtpState} {flt' : FltState} {scn' : ScnState} {dmg' : DmgState} {sch' : SchState} {eng' : EngState} {glu' : GluState} {clp' : ClpState} {trs' : TrsState} {dec' : DecState} {pnl' : PnlState} {lan' : LanState} {spl' : SplState} {pwc' : PwcState} {cal' : CalState} {wvl' : WvlState} {dmc' : DmcState} {cmp' : CmpState} {blk' : BlkState} {pfc' : PfcState} {eth' : EthState} {tim' : TimState} {pin' : PinState} :
    (State.mk pending' out' free' regs' active' X.ledger dram' cmd' hst' ptp' flt' scn' dmg' sch' eng' glu' clp' trs' dec' pnl' lan' spl' pwc' cal' wvl' dmc' cmp' blk' pfc' eth' tim' pin').term k = X.term k := rfl

@[simp] theorem State.phys_mk {X : State} (k : Nat)
    {pending' : List Instr} {out' : List Output} {free' : Nat} {regs' : Store RegWord} {active' : Store RegWord} {ledger' : Store Nat} {cmd' : CmdState} {hst' : HstState} {ptp' : PtpState} {flt' : FltState} {scn' : ScnState} {dmg' : DmgState} {sch' : SchState} {eng' : EngState} {glu' : GluState} {clp' : ClpState} {trs' : TrsState} {dec' : DecState} {pnl' : PnlState} {lan' : LanState} {spl' : SplState} {pwc' : PwcState} {cal' : CalState} {wvl' : WvlState} {dmc' : DmcState} {cmp' : CmpState} {blk' : BlkState} {pfc' : PfcState} {eth' : EthState} {tim' : TimState} {pin' : PinState} :
    (State.mk pending' out' free' regs' active' ledger' X.dram cmd' hst' ptp' flt' scn' dmg' sch' eng' glu' clp' trs' dec' pnl' lan' spl' pwc' cal' wvl' dmc' cmp' blk' pfc' eth' tim' pin').phys k = X.phys k := rfl

@[simp] theorem State.cmdOf_mk {X : State} (id : Nat)
    {pending' : List Instr} {out' : List Output} {free' : Nat} {regs' : Store RegWord} {active' : Store RegWord} {ledger' : Store Nat} {dram' : List Host.Cell} {hst' : HstState} {ptp' : PtpState} {flt' : FltState} {scn' : ScnState} {dmg' : DmgState} {sch' : SchState} {eng' : EngState} {glu' : GluState} {clp' : ClpState} {trs' : TrsState} {dec' : DecState} {pnl' : PnlState} {lan' : LanState} {spl' : SplState} {pwc' : PwcState} {cal' : CalState} {wvl' : WvlState} {dmc' : DmcState} {cmp' : CmpState} {blk' : BlkState} {pfc' : PfcState} {eth' : EthState} {tim' : TimState} {pin' : PinState} :
    (State.mk pending' out' free' regs' active' ledger' dram' X.cmd hst' ptp' flt' scn' dmg' sch' eng' glu' clp' trs' dec' pnl' lan' spl' pwc' cal' wvl' dmc' cmp' blk' pfc' eth' tim' pin').cmdOf id = X.cmdOf id := rfl

@[simp] theorem State.now_mk {X : State} 
    {pending' : List Instr} {out' : List Output} {free' : Nat} {regs' : Store RegWord} {active' : Store RegWord} {ledger' : Store Nat} {dram' : List Host.Cell} {cmd' : CmdState} {hst' : HstState} {flt' : FltState} {scn' : ScnState} {dmg' : DmgState} {sch' : SchState} {eng' : EngState} {glu' : GluState} {clp' : ClpState} {trs' : TrsState} {dec' : DecState} {pnl' : PnlState} {lan' : LanState} {spl' : SplState} {pwc' : PwcState} {cal' : CalState} {wvl' : WvlState} {dmc' : DmcState} {cmp' : CmpState} {blk' : BlkState} {pfc' : PfcState} {eth' : EthState} {tim' : TimState} {pin' : PinState} :
    (State.mk pending' out' free' regs' active' ledger' dram' cmd' hst' X.ptp flt' scn' dmg' sch' eng' glu' clp' trs' dec' pnl' lan' spl' pwc' cal' wvl' dmc' cmp' blk' pfc' eth' tim' pin').now = X.now := rfl

/-! ## Commands -/

/-- A command that may start runs its body. -/
theorem State.runOp_of {id : Nat} {op : Op} {c : Cmd} (f : Cmd → State → State) (hid : s.cmdOf id = some c) (hop : c.opcode = op.code)
    (hph : c.phase = .started) (hm : s.mayStart c = true) : s.runOp id op f = f c s := by
  simp [State.runOp, hid, hop, hph, hm]

theorem State.runOpAgain_of {id : Nat} {op : Op} {c : Cmd} (f : Cmd → State → State) (hid : s.cmdOf id = some c) (hop : c.opcode = op.code)
    (hph : c.phase = .started) (hm : s.mayStart c = true) : s.runOpAgain id op f = f c s := by
  simp [State.runOpAgain, hid, hop, hph, hm]

@[simp] theorem State.putReply_replies (c : Cmd) (status total done failed detail : Nat) :
    (s.putReply c status total done failed detail).cmd.replies = s.cmd.replies ++
      [⟨c.id, c.client, c.ring, c.opcode, status, c.tag, total, done, failed, detail, true, c.notify, none⟩] := rfl

/-- A command of one item that did not fail replies DONE with one item done. -/
theorem State.finishOne_of (c : Cmd) (v : Nat) :
    s.finishOne c v = s.putReply { c with items := [some ⟨stDone, 0, v⟩] } stDone 1 1 0 0 := by
  simp [State.finishOne, State.finishAs, Item.isDone, stDone, stDegraded]

end Sys2Proof.Machine
end

