-- ==== Sys2Proof/WellFormed.lean ====
section
/-! DEFINITION. When a command is one that its sender can form: every index within its block, every word within its width,
every list of the length its unit has. `exec` is total on every other command too. -/

namespace Sys2Proof

/-- Host memory lists its bytes by strictly rising address. -/
def Bus.wf (b : Bus) : Bool := decide ((b.mem.map Prod.fst).Pairwise (· < ·))

/-- The planes of a picture have the sizes its chroma form gives (R118). -/
def Picture.wf (p : Picture) : Bool :=
  p.luma.length == p.w * p.h &&
    (match p.chroma with
    | 0 => p.cb.isEmpty && p.cr.isEmpty
    | 1 => p.cb.length == (p.w + 1) / 2 * ((p.h + 1) / 2) && p.cr.length == p.cb.length
    | 2 => p.cb.length == p.w * p.h && p.cr.length == p.cb.length
    | _ => false)

/-- A training limit names a lane that exists. -/
def TrainLimit.wf : TrainLimit → Bool
  | .panel => true
  | .worvel p lane => decide (p < 4 ∧ lane < 8)
  | .ethernet p => decide (p < 8)

/-- A stripe has at most 12 lanes, each with 639 line bits before a codeword of 5,440 bits (R243, R250). -/
def Stripe.wf (st : Stripe) : Bool := decide (st.words.length ≤ 12) && st.words.all fun w => decide (w.1 < 2 ^ 639 ∧ w.2 < 2 ^ 5440)

/-- The group exists and its stripes are as the wire forms them. -/
def BurstOn.wf (b : BurstOn) : Bool := decide (b.q < 16) && b.stripes.all Stripe.wf

/-- The masks of a link's lanes name lanes that it has. -/
def LinkLanes.wf (l : LinkLanes) (n : Nat) : Bool := decide (l.inverted < 2 ^ n ∧ l.precoded < 2 ^ n ∧ l.rxPrecoded < 2 ^ n)

/-- The chroma code is one of R118's, and a released picture has whole planes. -/
def Decoded.wf (d : Decoded) : Bool := decide (d.chroma ≤ 2) && d.pic.all Picture.wf

/-- 12 DFE taps and 3 level thresholds (R284). -/
def EqGoal.wf (g : EqGoal) : Bool := g.dfe.length == 12 && g.levels.length == 3

/-- The command is one that its sender can form. -/
def Instr.wf : Instr → Bool
  | .registerWrite client off size _ data => decide (client < 16 ∧ off < 0x2000000 ∧ (size = 4 ∨ size = 8) ∧ off % size = 0 ∧ data < 256 ^ size)
  | .lowHalfReadLatch client off => decide (client < 16 ∧ off < 0x2000000 ∧ off % 4 = 0)
  | .lowHalfWriteStage client off data => decide (client < 16 ∧ off < 0x2000000 ∧ off % 4 = 0 ∧ data < 2 ^ 32)
  | .statusMirrorRead client off len => decide (client < 16 ∧ off + len ≤ 256)
  | .glbLockWrite client data => decide (client < 16 ∧ data < 2 ^ 32)
  | .cmdSqEnableWrite client i data => decide (client < 16 ∧ i < 256 ∧ data < 2 ^ 32)
  | .cmdCqEnableWrite client i data => decide (client < 16 ∧ i < 256 ∧ data < 2 ^ 32)
  | .completionRingClosed i => decide (i < 256)
  | .eventRingEnableWrite client e data => decide (client < 16 ∧ e < 16 ∧ data < 2 ^ 32)
  | .commandTailDoorbell client page off value => decide (client < 16 ∧ page < 16 ∧ off < 4096 ∧ value < 2 ^ 64)
  | .completionHeadDoorbell client page r value => decide (client < 16 ∧ page < 16 ∧ r < 32 ∧ value < 2 ^ 64)
  | .eventHeadDoorbell client page e value => decide (client < 16 ∧ page < 16 ∧ e < 32 ∧ value < 2 ^ 64)
  | .fenceDoorbell client page k value => decide (client < 16 ∧ page < 16 ∧ k < 160 ∧ value < 2 ^ 64)
  | .ethTxTailDoorbell client page value => decide (client < 16 ∧ page < 16 ∧ value < 2 ^ 64)
  | .ethRxTailDoorbell client page value => decide (client < 16 ∧ page < 16 ∧ value < 2 ^ 64)
  | .commandFetch bus => bus.wf
  | .commandDispatch bus => bus.wf
  | .replyWrite i _ _ => decide (i < 256)
  | .msixHoldoffExpiry key => decide (key < 1536)
  | .eventWrite entryFails wbFails => decide ((∀ e ∈ entryFails, e < 16) ∧ ∀ e ∈ wbFails, e < 16)
  | .nop _ bus => bus.wf
  | .functionSet _ bus => bus.wf
  | .hostLinkTrained link rate width _ lanes => decide (link < 2 ∧ rate < 16 ∧ width ≤ 16 ∧ lanes.wf 16 = true)
  | .clientPresenceChange _ numVFs _ => decide (numVFs ≤ 15)
  | .viewSlopeLoad _ bus => bus.wf
  | .viewCorrectionLoad _ bus => bus.wf
  | .regionGridSet _ bus => bus.wf
  | .regionGridSwitch bus => bus.wf
  | .layerDefine _ bus => bus.wf
  | .layerGeometry _ bus => bus.wf
  | .layerColour _ bus => bus.wf
  | .regionLayersRead _ bus => bus.wf
  | .trastosPacketArrival source _ _ => decide (source < 8)
  | .holeLossWaitExpiry v => decide (v < 64)
  | .unitIncompleteExpiry v _ _ => decide (v < 64)
  | .unitInflated u => decide (u < 8)
  | .trsMarkerMissing g => decide (g < 16)
  | .streamBind _ bus => bus.wf
  | .trastosSubmit _ bus => bus.wf
  | .kekEstablish _ bus => bus.wf
  | .keyLoad _ bus => bus.wf
  | .keyPublicRead _ bus => bus.wf
  | .decodeAssign _ bus => bus.wf
  | .decodeStart p tool _ => decide (p < 16 ∧ tool ≤ 4)
  | .pictureOutput p fault d => decide (p < 16 ∧ (fault = 0 ∨ fault = 2 ∨ fault = 4) ∧ d.wf = true)
  | .regionSelect => true
  | .fillComplete bay => decide (bay < 64)
  | .synthesisStart bay => decide (bay < 64)
  | .demandLineArrival bay lines _ => decide (bay < 64 ∧ lines.all (· < 2 ^ 36))
  | .launchRequest bay => decide (bay < 64)
  | .pieceReady region => decide (region < 65536)
  | .rayBufferDrained bay _ => decide (bay < 64)
  | .synthesisEnd bay bus => decide (bay < 64 ∧ bus.wf = true)
  | .rayProbe _ bus => bus.wf
  | .checkRegionDefine _ bus => bus.wf
  | .sqcSignatureLoad _ bus => bus.wf
  | .sqcCapture _ bus => bus.wf
  | .captureTimeout _ bus => bus.wf
  | .clampBoundary seg => decide (seg < 4)
  | .applicationPoint bus => bus.wf
  | .copyForwardDone kind who => decide (kind ≤ 2 ∧ who < 64)
  | .freeRunEntry g => decide (g < 4)
  | .freeRunBoundary g => decide (g < 4)
  | .clampArm _ bus => bus.wf
  | .fenceArm _ bus => bus.wf
  | .layerDamage _ bus => bus.wf
  | .regionDirty _ bus => bus.wf
  | .burstStart b => decide (b.wf = true)
  | .burstEnd q => decide (q < 16)
  | .gateCloseSplit q _ => decide (q < 16)
  | .classCreditTick => true
  | .gateListStart q => decide (q < 16)
  | .accountingIntervalEnd => true
  | .delayBreach r => decide (r < 65536)
  | .histogramSample => true
  | .classSet _ bus => bus.wf
  | .guaranteeSet _ bus => bus.wf
  | .regionMapSet _ bus => bus.wf
  | .gateListSet _ bus => bus.wf
  | .schedStatsRead _ bus => bus.wf
  | .backchannelCredit q count m => decide (q < 16 ∧ count < 2 ^ 32 ∧ m.due < 2 ^ 16)
  | .backchannelTe g frame => decide (g < 4 ∧ frame < 2 ^ 32)
  | .tePinEdge g _ => decide (g < 4)
  | .backchannelRow g row frame => decide (g < 4 ∧ row < 2 ^ 16 ∧ frame < 2 ^ 32)
  | .backchannelStatus q flags lanes ucw worst => decide (q < 16 ∧ flags < 256 ∧ lanes < 2 ^ 16 ∧ ucw < 2 ^ 16 ∧ worst < 256)
  | .backchannelNak q seq reason => decide (q < 16 ∧ seq < 2 ^ 32 ∧ reason < 256)
  | .backchannelTrain q lane taps ctl => decide (q < 16 ∧ lane < 256 ∧ taps < 256 ∧ ctl < 256)
  | .descriptorReceived q bytes => decide (q < 16 ∧ bytes.length = 128)
  | .holdReceived q => decide (q < 16)
  | .releaseReceived q => decide (q < 16)
  | .holdLimitExpiry q => decide (q < 16)
  | .underrun q _ => decide (q < 16)
  | .backchannelLockLoss q _ _ => decide (q < 16)
  | .backchannelRelock q _ => decide (q < 16)
  | .laneRemoval worvel q p => decide (if worvel then q < 4 ∧ p < 8 else q < 16 ∧ p < 16)
  | .laneMapApply worvel q _ _ => decide (if worvel then q < 4 else q < 16)
  | .trainingLimitExpiry who => decide (who.wf = true)
  | .haltedRetryExpiry port => decide (port.all (· < 4))
  | .linkLeaveActive => true
  | .linkReset _ bus => bus.wf
  | .laneService _ bus => bus.wf
  | .quietEntry q => decide (q < 16)
  | .adaptationStep i ctle goal vga => decide (i < 256 ∧ ctle < 16 ∧ vga < 256 ∧ goal.wf = true)
  | .eyeSetComplete i eyes _ _ _ => decide (i < 256 ∧ eyes.length = 3)
  | .laneMeasure _ bus _ => bus.wf
  | .laneTxSet _ bus => bus.wf
  | .engineFault bay slots check _ => decide (bay < 64 ∧ (∀ n ∈ slots, n < 8) ∧ (check = 1 ∨ check = 2))
  | .lockstepWatchdogExpiry bay slot _ => decide (bay < 64 ∧ slot < 8)
  | .baySelfTest bay fails => decide (bay < 64 ∧ ∀ e ∈ fails, e ≤ 8)
  | .bentWake => true
  | .bentClockChange b => decide (b < 8)
  | .drainComplete bent n _ ready => decide ((if bent then n < 8 else n < 64) ∧ ∀ x ∈ ready, x.1 < 64)
  | .bentRetireImmediate b cause ready => decide (b < 8 ∧ (cause = 3 ∨ cause = 4) ∧ ∀ x ∈ ready, x.1 < 64)
  | .bayService _ bus => bus.wf
  | .bentService _ bus => bus.wf
  | .wallConfigure _ bus => bus.wf
  | .helloSend p => decide (p < 4)
  | .helloReceived p payload => decide (p < 4 ∧ payload.length = 16)
  | .worvelPacketReceived p _ => decide (p < 4)
  | .worvelCredit p count => decide (p < 4 ∧ count < 2 ^ 32)
  | .timeExchange p _ _ _ _ => decide (p < 4)
  | .summarySend => true
  | .memberTimeout m => decide (m < 256)
  | .voteCutoff _ => true
  | .masterDecide _ => true
  | .wallDecisionLost g _ => decide (g < 16)
  | .worvelPortLoss p => decide (p < 4)
  | .ethFrameReceived p bus _ _ => decide (p < 8 ∧ bus.wf = true)
  | .ethFrameTransmit p bus _ _ _ => decide (p < 8 ∧ bus.wf = true)
  | .pauseReceived p pause pfc => decide (p < 8 ∧ pause.all (· < 65536) ∧ ∀ x ∈ pfc, x.1 < 8 ∧ x.2 < 65536)
  | .ethLinkState p _ mode lanes => decide (p < 8 ∧ mode < 16 ∧ lanes.wf 8 = true)
  | .preemptVerifyRetry p _ => decide (p < 8)
  | .ethGateListStart p bus => decide (p < 8 ∧ bus.wf = true)
  | .ethRingSet _ bus => bus.wf
  | .ethGateListSet _ bus => bus.wf
  | .ptpLoadO client bus => decide (client < 16 ∧ bus.wf = true)
  | .ptpStep client bus => decide (client < 16 ∧ bus.wf = true)
  | .ptpLoadRho client => decide (client < 16)
  | .triggerArmWrite client t data bus => decide (client < 16 ∧ t < 8 ∧ data < 2 ^ 32 ∧ bus.wf = true)
  | .triggerFire t bus => decide (t < 8 ∧ bus.wf = true)
  | .captureEdge c _ => decide (c < 4)
  | .capTimeRead client c => decide (client < 16 ∧ c < 4)
  | .ptpNowRead client => decide (client < 16)
  | .dramRequestAccept ma _ _ data => decide (ma < 2 ^ 36 ∧ ma % 64 + data.length ≤ 64)
  | .dramRequestServe ch _ _ bad => decide (ch < 32 ∧ bad ≤ 2)
  | .refreshDue ch => decide (ch < 32)
  | .mr4Poll ch _ => decide (ch < 32)
  | .selfRefreshEntry quad => decide (quad < 4)
  | .selfRefreshExit quad => decide (quad < 4)
  | .opPointChange quad => decide (quad < 4)
  | .gatheringStep quad _ figures => decide (quad < 4 ∧ figures.length ≤ 8)
  | .channelMapOut ch cause => decide (ch < 32 ∧ (cause = 1 ∨ cause = 2))
  | .windowSet _ bus => bus.wf
  | .dramOpSet _ bus => bus.wf
  | .dramTrain _ bus fails _ => decide (bus.wf = true ∧ ∀ c ∈ fails, c < 32)
  | .channelService _ bus _ => bus.wf
  | .compressionJobStart u => decide (u < 12)
  | .compressionJobEnd u bus => decide (u < 12 ∧ bus.wf = true)
  | .scarfDeflateWaitExpiry p => decide (p < 4)
  | .compJob _ bus => bus.wf
  | .blitJob _ bus => bus.wf
  | .blockJobStart => true
  | .blockWatermark => true
  | .blockJobEnd bus => bus.wf
  | .vinSample _ _ => true
  | .governorStep rule _ => decide (1 ≤ rule ∧ rule ≤ 4)
  | .domainSleep d depth => decide (d < 26 ∧ 1 ≤ depth ∧ depth ≤ 3)
  | .domainWake d => decide (d < 26)
  | .powerFailure => true
  | .powerFailRecordCommit => true
  | .powerFailRecovery => true
  | .undervoltageLockout => true
  | .powerOn straps => decide (straps.addr < 4)
  | .vinOvervoltage => true
  | .vinReversed _ straps => decide (straps.addr < 4)
  | .powerStateSet _ bus _ => bus.wf
  | .hibernateWake source => decide (source ≤ 3)
  | .aonTimerExpiry => true
  | .sensorConversion n _ => decide (n < 104)
  | .zoneStep z => decide (z < 16)
  | .shutTrip n => decide (n < 104)
  | .shutNvmProgramEnd _ => true
  | .thermalSet _ bus => bus.wf
  | .thermalSample _ bus _ => bus.wf
  | .calibration dram key _ _ => decide (if dram then key < 16 else key < 128)
  | .trimSlewTick i _ => decide (i < 128)
  | .ageingMeasure b deltas => decide (b < 8 ∧ deltas.length = 4)
  | .truingPassDue => true
  | .truingBent _ _ _ => true
  | .recordCommit => true
  | .journalReclaim => true
  | .sectorEraseDone => true
  | .splSectorRetired _ => true
  | .journalBootScan _ fails trained => decide ((∀ c ∈ fails, c < 32) ∧ ∀ x ∈ trained, x.1 < 16)
  | .firmwareBootVerify bus => bus.wf
  | .trialConfirmExpiry => true
  | .calRun _ bus => bus.wf
  | .calRollback _ bus => bus.wf
  | .truingRun _ bus => bus.wf
  | .splRead _ bus => bus.wf
  | .fwWrite _ bus => bus.wf
  | .fwActivate _ bus => bus.wf
  | .counterEvent n _ => decide (n < 256)
  | .pfcValWrite client n value => decide (client < 16 ∧ n < 256 ∧ value < 2 ^ 64)
  | .pfcPairLowRead client n => decide (client < 16 ∧ n < 256)
  | .meterWindowEnd bytes => decide (bytes.length = 76)
  | .pfcMeterCfgWrite client data => decide (client < 16 ∧ data < 2 ^ 32)
  | .pfcSnapWrite client data => decide (client < 16 ∧ data < 2 ^ 32)
  | .pfcFreezeWrite client data => decide (client < 16 ∧ data < 2 ^ 32)
  | .pfcSnapTimeRead client => decide (client < 16)
  | .taggedRayRecord bay _ flags region ray node slots tDirty offsets => decide (bay < 64 ∧ flags < 32 ∧ region < 65536 ∧ ray < 2 ^ 40 ∧ node < 256 ∧ slots < 32 ∧ tDirty < 2 ^ 64 ∧ offsets.length = 5)
  | .preciseRecord item source itemId _ => decide (item < 256 ∧ source < 65536 ∧ itemId < 2 ^ 64)
  | .recordBufferWrite => true
  | .pfcBufConfigWrite client _ data => decide (client < 16 ∧ data < 2 ^ 64)
  | .pfcProgram _ bus => bus.wf
  | .pfcSnapshot _ bus => bus.wf
  | .sampleDrain _ bus => bus.wf
  | .coldReset cause straps => decide ((cause = 1 ∨ cause = 2) ∧ straps.addr < 4)
  | .warmReset cause => decide (3 ≤ cause ∧ cause ≤ 10)
  | .functionLevelReset f _ => decide (f < 16)
  | .resetPinAssert _ _ => true
  | .perstAssert _ => true
  | .firmwareWatchdogExpiry => true
  | .stateRamParityError _ ram addr => decide (ram < 256 ∧ addr < 2 ^ 32)
  | .uncoreFault die ready => decide (die < 2 ∧ ∀ x ∈ ready, x.1 < 64)
  | .moduleReset _ bus => bus.wf
  | .blockReset _ bus => bus.wf
  | .reportRead _ bus => bus.wf
  | .ledgerSnapshot _ bus => bus.wf
  | .smbusStatusRead _ => true
  | .smbusBootStatus => true
  | .smbusTempMax => true
  | .smbusVin => true
  | .smbusWake data => decide (data < 256)
  | .smbAlert => true
  | .jtagInstruction _ => true
  | .refFallback => true
  | .linkResetTimeout => true
  | .protocolError q code _ => decide (q < 16 ∧ code ≤ 2)
  | .worvelTrain p lane taps ctl own _ => decide (p < 4 ∧ lane < 256 ∧ taps < 256 ∧ ctl < 256 ∧ own.all fun x => x.1 < 256 && x.2 < 256)
  | .worvelLaneMap p mask => decide (p < 4 ∧ mask < 256)
  | .txTapStep i => decide (i < 256)
  | .bar4Access client _ _ _ len => decide (client < 16 ∧ len ≤ 4096)
  | .ringWindowWrite client page r off data => decide (client < 16 ∧ page < 16 ∧ r < 16 ∧ off + data.length ≤ 0x40000)

end Sys2Proof
end

