-- ==== Sys2Proof/Tests/Slice0.lean ====
section
/-! SUPPORT. Tests: ill-formed commands refused, values the spec works out, and for each obligation states and operands that
meet its hypotheses. -/

set_option maxRecDepth 20000

namespace Sys2Proof.Tests

open Sys2Proof Sys2Proof.Machine

/-! ## Well-formed commands -/

/-- A well-formed command of each constructor. -/
theorem test_wf_accepts_1 :
    [.registerWrite 0 0 4 false 0,
      .lowHalfReadLatch 0 0,
      .lowHalfWriteStage 0 0 0,
      .statusMirrorRead 0 0 0,
      .glbLockWrite 0 0,
      .cmdSqEnableWrite 0 0 0,
      .cmdCqEnableWrite 0 0 0,
      .completionRingClosed 0,
      .eventRingEnableWrite 0 0 0,
      .commandTailDoorbell 0 0 0 0,
      .completionHeadDoorbell 0 0 0 0,
      .eventHeadDoorbell 0 0 0 0,
      .fenceDoorbell 0 0 0 0,
      .ethTxTailDoorbell 0 0 0,
      .ethRxTailDoorbell 0 0 0,
      .commandFetch {},
      .commandDispatch {},
      .replyWrite 0 {} false,
      .msixHoldoffExpiry 0,
      .eventWrite [] [],
      .nop 0 {},
      .functionSet 0 {},
      .hostLinkTrained 0 0 0 false {},
      .clientPresenceChange false 0 false,
      .viewSlopeLoad 0 {}].all (fun i : Instr => i.wf) = true := by decide

/-- A well-formed command of each constructor. -/
theorem test_wf_accepts_2 :
    [.viewCorrectionLoad 0 {},
      .regionGridSet 0 {},
      .regionGridSwitch {},
      .layerDefine 0 {},
      .layerGeometry 0 {},
      .layerColour 0 {},
      .regionLayersRead 0 {},
      .trastosPacketArrival 0 [] false,
      .holeLossWaitExpiry 0,
      .unitIncompleteExpiry 0 0 0,
      .unitInflated 0,
      .trsMarkerMissing 0,
      .streamBind 0 {},
      .trastosSubmit 0 {},
      .kekEstablish 0 {},
      .keyLoad 0 {},
      .keyPublicRead 0 {},
      .decodeAssign 0 {},
      .decodeStart 0 0 false,
      .pictureOutput 0 0 { w := 0, h := 0, bits := 8, chroma := 0 },
      .regionSelect,
      .fillComplete 0,
      .synthesisStart 0,
      .demandLineArrival 0 [] 0,
      .launchRequest 0].all (fun i : Instr => i.wf) = true := by decide

/-- A well-formed command of each constructor. -/
theorem test_wf_accepts_3 :
    [.pieceReady 0,
      .rayBufferDrained 0 0,
      .synthesisEnd 0 {},
      .rayProbe 0 {},
      .checkRegionDefine 0 {},
      .sqcSignatureLoad 0 {},
      .sqcCapture 0 {},
      .captureTimeout 0 {},
      .clampBoundary 0,
      .applicationPoint {},
      .copyForwardDone 0 0,
      .freeRunEntry 0,
      .freeRunBoundary 0,
      .clampArm 0 {},
      .fenceArm 0 {},
      .layerDamage 0 {},
      .regionDirty 0 {},
      .burstStart { q := 0 },
      .burstEnd 0,
      .gateCloseSplit 0 0,
      .classCreditTick,
      .gateListStart 0,
      .accountingIntervalEnd,
      .delayBreach 0,
      .histogramSample].all (fun i : Instr => i.wf) = true := by decide

/-- A well-formed command of each constructor. -/
theorem test_wf_accepts_4 :
    [.classSet 0 {},
      .guaranteeSet 0 {},
      .regionMapSet 0 {},
      .gateListSet 0 {},
      .schedStatsRead 0 {},
      .backchannelCredit 0 0 {},
      .backchannelTe 0 0,
      .tePinEdge 0 false,
      .backchannelRow 0 0 0,
      .backchannelStatus 0 0 0 0 0,
      .backchannelNak 0 0 0,
      .backchannelTrain 0 0 0 0,
      .descriptorReceived 0 (List.replicate 128 0),
      .holdReceived 0,
      .releaseReceived 0,
      .holdLimitExpiry 0,
      .underrun 0 0,
      .backchannelLockLoss 0 0 0,
      .backchannelRelock 0 false,
      .laneRemoval false 0 0,
      .laneMapApply false 0 0 0,
      .trainingLimitExpiry (.panel),
      .haltedRetryExpiry none,
      .linkLeaveActive,
      .linkReset 0 {}].all (fun i : Instr => i.wf) = true := by decide

/-- A well-formed command of each constructor. -/
theorem test_wf_accepts_5 :
    [.laneService 0 {},
      .quietEntry 0,
      .adaptationStep 0 0 ⟨List.replicate 12 0, [0, 0, 0]⟩ 0,
      .eyeSetComplete 0 [(1, 1), (1, 1), (1, 1)] 0 0 0,
      .laneMeasure 0 {} [],
      .laneTxSet 0 {},
      .engineFault 0 [] 1 0,
      .lockstepWatchdogExpiry 0 0 0,
      .baySelfTest 0 [],
      .bentWake,
      .bentClockChange 0,
      .drainComplete false 0 false [],
      .bentRetireImmediate 0 3 [],
      .bayService 0 {},
      .bentService 0 {},
      .wallConfigure 0 {},
      .helloSend 0,
      .helloReceived 0 (List.replicate 16 0),
      .worvelPacketReceived 0 [],
      .worvelCredit 0 0,
      .timeExchange 0 0 0 0 0,
      .summarySend,
      .memberTimeout 0,
      .voteCutoff 0,
      .masterDecide 0].all (fun i : Instr => i.wf) = true := by decide

/-- A well-formed command of each constructor. -/
theorem test_wf_accepts_6 :
    [.wallDecisionLost 0 0,
      .worvelPortLoss 0,
      .ethFrameReceived 0 {} [] 0,
      .ethFrameTransmit 0 {} 0 false 0,
      .pauseReceived 0 none [],
      .ethLinkState 0 false 0 {},
      .preemptVerifyRetry 0 false,
      .ethGateListStart 0 {},
      .ethRingSet 0 {},
      .ethGateListSet 0 {},
      .ptpLoadO 0 {},
      .ptpStep 0 {},
      .ptpLoadRho 0,
      .triggerArmWrite 0 0 0 {},
      .triggerFire 0 {},
      .captureEdge 0 false,
      .capTimeRead 0 0,
      .ptpNowRead 0,
      .dramRequestAccept 0 false false [],
      .dramRequestServe 0 0 0 0,
      .refreshDue 0,
      .mr4Poll 0 0,
      .selfRefreshEntry 0,
      .selfRefreshExit 0,
      .opPointChange 0].all (fun i : Instr => i.wf) = true := by decide

/-- A well-formed command of each constructor. -/
theorem test_wf_accepts_7 :
    [.gatheringStep 0 [] [],
      .channelMapOut 0 1,
      .windowSet 0 {},
      .dramOpSet 0 {},
      .dramTrain 0 {} [] [],
      .channelService 0 {} false,
      .compressionJobStart 0,
      .compressionJobEnd 0 {},
      .scarfDeflateWaitExpiry 0,
      .compJob 0 {},
      .blitJob 0 {},
      .blockJobStart,
      .blockWatermark,
      .blockJobEnd {},
      .vinSample 0 0,
      .governorStep 1 0,
      .domainSleep 0 1,
      .domainWake 0,
      .powerFailure,
      .powerFailRecordCommit,
      .powerFailRecovery,
      .undervoltageLockout,
      .powerOn {},
      .vinOvervoltage,
      .vinReversed false {}].all (fun i : Instr => i.wf) = true := by decide

/-- A well-formed command of each constructor. -/
theorem test_wf_accepts_8 :
    [.powerStateSet 0 {} false,
      .hibernateWake 0,
      .aonTimerExpiry,
      .sensorConversion 0 0,
      .zoneStep 0,
      .shutTrip 0,
      .shutNvmProgramEnd false,
      .thermalSet 0 {},
      .thermalSample 0 {} [],
      .calibration false 0 [] false,
      .trimSlewTick 0 none,
      .ageingMeasure 0 [0, 0, 0, 0],
      .truingPassDue,
      .truingBent none none [],
      .recordCommit,
      .journalReclaim,
      .sectorEraseDone,
      .splSectorRetired false,
      .journalBootScan false [] [],
      .firmwareBootVerify {},
      .trialConfirmExpiry,
      .calRun 0 {},
      .calRollback 0 {},
      .truingRun 0 {},
      .splRead 0 {}].all (fun i : Instr => i.wf) = true := by decide

/-- A well-formed command of each constructor. -/
theorem test_wf_accepts_9 :
    [.fwWrite 0 {},
      .fwActivate 0 {},
      .counterEvent 0 0,
      .pfcValWrite 0 0 0,
      .pfcPairLowRead 0 0,
      .meterWindowEnd (List.replicate 76 0),
      .pfcMeterCfgWrite 0 0,
      .pfcSnapWrite 0 0,
      .pfcFreezeWrite 0 0,
      .pfcSnapTimeRead 0,
      .taggedRayRecord 0 0 0 0 0 0 0 0 [0, 0, 0, 0, 0],
      .preciseRecord 0 0 0 0,
      .recordBufferWrite,
      .pfcBufConfigWrite 0 false 0,
      .pfcProgram 0 {},
      .pfcSnapshot 0 {},
      .sampleDrain 0 {},
      .coldReset 1 {},
      .warmReset 3,
      .functionLevelReset 0 false,
      .resetPinAssert false false,
      .perstAssert false,
      .firmwareWatchdogExpiry,
      .stateRamParityError false 0 0,
      .uncoreFault 0 []].all (fun i : Instr => i.wf) = true := by decide

/-- A well-formed command of each constructor. -/
theorem test_wf_accepts_10 :
    [.moduleReset 0 {},
      .blockReset 0 {},
      .reportRead 0 {},
      .ledgerSnapshot 0 {},
      .smbusStatusRead false,
      .smbusBootStatus,
      .smbusTempMax,
      .smbusVin,
      .smbusWake 0,
      .smbAlert,
      .jtagInstruction 0,
      .refFallback,
      .linkResetTimeout,
      .protocolError 0 1 0,
      .worvelTrain 0 0 0 0 none false,
      .worvelLaneMap 0 0,
      .txTapStep 0,
      .bar4Access 0 0 false [] 0,
      .ringWindowWrite 0 0 0 0 []].all (fun i : Instr => i.wf) = true := by decide

/-- Commands that each break one check of `Instr.wf`. -/
theorem test_wf_refuses_1 :
    [.registerWrite 16 0 4 false 0,
      .registerWrite 0 0x2000000 4 false 0,
      .registerWrite 0 0 99 false 0,
      .registerWrite 0 2 4 false 0,
      .registerWrite 0 0 4 false (2 ^ 32),
      .lowHalfReadLatch 16 0,
      .lowHalfReadLatch 0 0x2000000,
      .lowHalfReadLatch 0 2,
      .lowHalfWriteStage 16 0 0,
      .lowHalfWriteStage 0 0x2000000 0,
      .lowHalfWriteStage 0 2 0,
      .lowHalfWriteStage 0 0 (2 ^ 32),
      .statusMirrorRead 16 0 0,
      .statusMirrorRead 0 200 57,
      .glbLockWrite 16 0,
      .glbLockWrite 0 (2 ^ 32),
      .cmdSqEnableWrite 16 0 0,
      .cmdSqEnableWrite 0 256 0,
      .cmdSqEnableWrite 0 0 (2 ^ 32),
      .cmdCqEnableWrite 16 0 0,
      .cmdCqEnableWrite 0 256 0,
      .cmdCqEnableWrite 0 0 (2 ^ 32),
      .completionRingClosed 256,
      .eventRingEnableWrite 16 0 0,
      .eventRingEnableWrite 0 16 0].all (fun i : Instr => !i.wf) = true := by decide

/-- Commands that each break one check of `Instr.wf`. -/
theorem test_wf_refuses_2 :
    [.eventRingEnableWrite 0 0 (2 ^ 32),
      .commandTailDoorbell 16 0 0 0,
      .commandTailDoorbell 0 16 0 0,
      .commandTailDoorbell 0 0 4096 0,
      .commandTailDoorbell 0 0 0 (2 ^ 64),
      .completionHeadDoorbell 16 0 0 0,
      .completionHeadDoorbell 0 16 0 0,
      .completionHeadDoorbell 0 0 32 0,
      .completionHeadDoorbell 0 0 0 (2 ^ 64),
      .eventHeadDoorbell 16 0 0 0,
      .eventHeadDoorbell 0 16 0 0,
      .eventHeadDoorbell 0 0 32 0,
      .eventHeadDoorbell 0 0 0 (2 ^ 64),
      .fenceDoorbell 16 0 0 0,
      .fenceDoorbell 0 16 0 0,
      .fenceDoorbell 0 0 160 0,
      .fenceDoorbell 0 0 0 (2 ^ 64),
      .ethTxTailDoorbell 16 0 0,
      .ethTxTailDoorbell 0 16 0,
      .ethTxTailDoorbell 0 0 (2 ^ 64),
      .ethRxTailDoorbell 16 0 0,
      .ethRxTailDoorbell 0 16 0,
      .ethRxTailDoorbell 0 0 (2 ^ 64),
      .commandFetch { mem := [(1, 0), (0, 0)] },
      .commandDispatch { mem := [(1, 0), (0, 0)] }].all (fun i : Instr => !i.wf) = true := by decide

/-- Commands that each break one check of `Instr.wf`. -/
theorem test_wf_refuses_3 :
    [.replyWrite 256 {} false,
      .msixHoldoffExpiry 1536,
      .eventWrite [16] [],
      .eventWrite [] [16],
      .nop 0 { mem := [(1, 0), (0, 0)] },
      .functionSet 0 { mem := [(1, 0), (0, 0)] },
      .hostLinkTrained 2 0 0 false {},
      .hostLinkTrained 0 16 0 false {},
      .hostLinkTrained 0 0 17 false {},
      .hostLinkTrained 0 0 0 false { inverted := 65536 },
      .hostLinkTrained 0 0 0 false { precoded := 65536 },
      .hostLinkTrained 0 0 0 false { rxPrecoded := 65536 },
      .clientPresenceChange false 16 false,
      .viewSlopeLoad 0 { mem := [(1, 0), (0, 0)] },
      .viewCorrectionLoad 0 { mem := [(1, 0), (0, 0)] },
      .regionGridSet 0 { mem := [(1, 0), (0, 0)] },
      .regionGridSwitch { mem := [(1, 0), (0, 0)] },
      .layerDefine 0 { mem := [(1, 0), (0, 0)] },
      .layerGeometry 0 { mem := [(1, 0), (0, 0)] },
      .layerColour 0 { mem := [(1, 0), (0, 0)] },
      .regionLayersRead 0 { mem := [(1, 0), (0, 0)] },
      .trastosPacketArrival 8 [] false,
      .holeLossWaitExpiry 64,
      .unitIncompleteExpiry 64 0 0,
      .unitInflated 8].all (fun i : Instr => !i.wf) = true := by decide

/-- Commands that each break one check of `Instr.wf`. -/
theorem test_wf_refuses_4 :
    [.trsMarkerMissing 16,
      .streamBind 0 { mem := [(1, 0), (0, 0)] },
      .trastosSubmit 0 { mem := [(1, 0), (0, 0)] },
      .kekEstablish 0 { mem := [(1, 0), (0, 0)] },
      .keyLoad 0 { mem := [(1, 0), (0, 0)] },
      .keyPublicRead 0 { mem := [(1, 0), (0, 0)] },
      .decodeAssign 0 { mem := [(1, 0), (0, 0)] },
      .decodeStart 16 0 false,
      .decodeStart 0 5 false,
      .pictureOutput 16 0 { w := 0, h := 0, bits := 8, chroma := 0 },
      .pictureOutput 0 99 { w := 0, h := 0, bits := 8, chroma := 0 },
      .pictureOutput 0 0 { w := 1, h := 1, bits := 8, chroma := 0, pic := some { w := 2, h := 2, chroma := 0, bits := 8, luma := [1, 2, 3] } },
      .pictureOutput 0 0 { w := 1, h := 1, bits := 8, chroma := 0, pic := some { w := 1, h := 1, chroma := 0, bits := 8, luma := [1], cb := [1] } },
      .pictureOutput 0 0 { w := 1, h := 1, bits := 8, chroma := 0, pic := some { w := 2, h := 2, chroma := 1, bits := 8, luma := [1, 2, 3, 4], cb := [1, 2], cr := [1, 2] } },
      .pictureOutput 0 0 { w := 1, h := 1, bits := 8, chroma := 0, pic := some { w := 1, h := 1, chroma := 2, bits := 8, luma := [1], cb := [1], cr := [] } },
      .pictureOutput 0 0 { w := 1, h := 1, bits := 8, chroma := 0, pic := some { w := 1, h := 1, chroma := 3, bits := 8, luma := [1] } },
      .pictureOutput 0 0 { w := 1, h := 1, bits := 8, chroma := 3 },
      .fillComplete 64,
      .synthesisStart 64,
      .demandLineArrival 64 [] 0,
      .demandLineArrival 0 [2 ^ 36] 0,
      .launchRequest 64,
      .pieceReady 65536,
      .rayBufferDrained 64 0,
      .synthesisEnd 64 {}].all (fun i : Instr => !i.wf) = true := by decide

/-- Commands that each break one check of `Instr.wf`. -/
theorem test_wf_refuses_5 :
    [.synthesisEnd 0 { mem := [(1, 0), (0, 0)] },
      .rayProbe 0 { mem := [(1, 0), (0, 0)] },
      .checkRegionDefine 0 { mem := [(1, 0), (0, 0)] },
      .sqcSignatureLoad 0 { mem := [(1, 0), (0, 0)] },
      .sqcCapture 0 { mem := [(1, 0), (0, 0)] },
      .captureTimeout 0 { mem := [(1, 0), (0, 0)] },
      .clampBoundary 4,
      .applicationPoint { mem := [(1, 0), (0, 0)] },
      .copyForwardDone 3 0,
      .copyForwardDone 0 64,
      .freeRunEntry 4,
      .freeRunBoundary 4,
      .clampArm 0 { mem := [(1, 0), (0, 0)] },
      .fenceArm 0 { mem := [(1, 0), (0, 0)] },
      .layerDamage 0 { mem := [(1, 0), (0, 0)] },
      .regionDirty 0 { mem := [(1, 0), (0, 0)] },
      .burstStart { q := 16 },
      .burstStart { q := 0, stripes := [{ words := List.replicate 13 (0, 0) }] },
      .burstStart { q := 0, stripes := [{ words := [(2 ^ 639, 0)] }] },
      .burstStart { q := 0, stripes := [{ words := [(0, 2 ^ 5440)] }] },
      .burstEnd 16,
      .gateCloseSplit 16 0,
      .gateListStart 16,
      .delayBreach 65536,
      .classSet 0 { mem := [(1, 0), (0, 0)] }].all (fun i : Instr => !i.wf) = true := by decide

/-- Commands that each break one check of `Instr.wf`. -/
theorem test_wf_refuses_6 :
    [.guaranteeSet 0 { mem := [(1, 0), (0, 0)] },
      .regionMapSet 0 { mem := [(1, 0), (0, 0)] },
      .gateListSet 0 { mem := [(1, 0), (0, 0)] },
      .schedStatsRead 0 { mem := [(1, 0), (0, 0)] },
      .backchannelCredit 16 0 {},
      .backchannelCredit 0 (2 ^ 32) {},
      .backchannelCredit 0 0 { due := 65536 },
      .backchannelTe 4 0,
      .backchannelTe 0 (2 ^ 32),
      .tePinEdge 4 false,
      .backchannelRow 4 0 0,
      .backchannelRow 0 (2 ^ 16) 0,
      .backchannelRow 0 0 (2 ^ 32),
      .backchannelStatus 16 0 0 0 0,
      .backchannelStatus 0 256 0 0 0,
      .backchannelStatus 0 0 (2 ^ 16) 0 0,
      .backchannelStatus 0 0 0 (2 ^ 16) 0,
      .backchannelStatus 0 0 0 0 256,
      .backchannelNak 16 0 0,
      .backchannelNak 0 (2 ^ 32) 0,
      .backchannelNak 0 0 256,
      .backchannelTrain 16 0 0 0,
      .backchannelTrain 0 256 0 0,
      .backchannelTrain 0 0 256 0,
      .backchannelTrain 0 0 0 256].all (fun i : Instr => !i.wf) = true := by decide

/-- Commands that each break one check of `Instr.wf`. -/
theorem test_wf_refuses_7 :
    [.descriptorReceived 16 (List.replicate 128 0),
      .descriptorReceived 0 [],
      .holdReceived 16,
      .releaseReceived 16,
      .holdLimitExpiry 16,
      .underrun 16 0,
      .backchannelLockLoss 16 0 0,
      .backchannelRelock 16 false,
      .laneRemoval true 4 0,
      .laneRemoval true 0 8,
      .laneRemoval false 16 0,
      .laneRemoval false 0 16,
      .laneMapApply true 4 0 0,
      .laneMapApply false 16 0 0,
      .trainingLimitExpiry ((.worvel 4 0)),
      .trainingLimitExpiry ((.worvel 0 8)),
      .trainingLimitExpiry ((.ethernet 8)),
      .haltedRetryExpiry (some 4),
      .linkReset 0 { mem := [(1, 0), (0, 0)] },
      .laneService 0 { mem := [(1, 0), (0, 0)] },
      .quietEntry 16,
      .adaptationStep 256 0 ⟨List.replicate 12 0, [0, 0, 0]⟩ 0,
      .adaptationStep 0 16 ⟨List.replicate 12 0, [0, 0, 0]⟩ 0,
      .adaptationStep 0 0 ⟨List.replicate 12 0, [0, 0, 0]⟩ 256,
      .adaptationStep 0 0 ⟨[0], [0, 0, 0]⟩ 0].all (fun i : Instr => !i.wf) = true := by decide

/-- Commands that each break one check of `Instr.wf`. -/
theorem test_wf_refuses_8 :
    [.adaptationStep 0 0 ⟨List.replicate 12 0, []⟩ 0,
      .eyeSetComplete 256 [(1, 1), (1, 1), (1, 1)] 0 0 0,
      .eyeSetComplete 0 [] 0 0 0,
      .laneMeasure 0 { mem := [(1, 0), (0, 0)] } [],
      .laneTxSet 0 { mem := [(1, 0), (0, 0)] },
      .engineFault 64 [] 1 0,
      .engineFault 0 [8] 1 0,
      .engineFault 0 [] 99 0,
      .lockstepWatchdogExpiry 64 0 0,
      .lockstepWatchdogExpiry 0 8 0,
      .baySelfTest 64 [],
      .baySelfTest 0 [9],
      .bentClockChange 8,
      .drainComplete true 8 false [],
      .drainComplete false 64 false [],
      .drainComplete false 0 false [(64, 0)],
      .bentRetireImmediate 8 3 [],
      .bentRetireImmediate 0 99 [],
      .bentRetireImmediate 0 3 [(64, 0)],
      .bayService 0 { mem := [(1, 0), (0, 0)] },
      .bentService 0 { mem := [(1, 0), (0, 0)] },
      .wallConfigure 0 { mem := [(1, 0), (0, 0)] },
      .helloSend 4,
      .helloReceived 4 (List.replicate 16 0),
      .helloReceived 0 []].all (fun i : Instr => !i.wf) = true := by decide

/-- Commands that each break one check of `Instr.wf`. -/
theorem test_wf_refuses_9 :
    [.worvelPacketReceived 4 [],
      .worvelCredit 4 0,
      .worvelCredit 0 (2 ^ 32),
      .timeExchange 4 0 0 0 0,
      .memberTimeout 256,
      .wallDecisionLost 16 0,
      .worvelPortLoss 4,
      .ethFrameReceived 8 {} [] 0,
      .ethFrameReceived 0 { mem := [(1, 0), (0, 0)] } [] 0,
      .ethFrameTransmit 8 {} 0 false 0,
      .ethFrameTransmit 0 { mem := [(1, 0), (0, 0)] } 0 false 0,
      .pauseReceived 8 none [],
      .pauseReceived 0 (some 65536) [],
      .pauseReceived 0 none [(8, 0)],
      .pauseReceived 0 none [(0, 65536)],
      .ethLinkState 8 false 0 {},
      .ethLinkState 0 false 16 {},
      .ethLinkState 0 false 0 { inverted := 256 },
      .ethLinkState 0 false 0 { precoded := 256 },
      .ethLinkState 0 false 0 { rxPrecoded := 256 },
      .preemptVerifyRetry 8 false,
      .ethGateListStart 8 {},
      .ethGateListStart 0 { mem := [(1, 0), (0, 0)] },
      .ethRingSet 0 { mem := [(1, 0), (0, 0)] },
      .ethGateListSet 0 { mem := [(1, 0), (0, 0)] }].all (fun i : Instr => !i.wf) = true := by decide

/-- Commands that each break one check of `Instr.wf`. -/
theorem test_wf_refuses_10 :
    [.ptpLoadO 16 {},
      .ptpLoadO 0 { mem := [(1, 0), (0, 0)] },
      .ptpStep 16 {},
      .ptpStep 0 { mem := [(1, 0), (0, 0)] },
      .ptpLoadRho 16,
      .triggerArmWrite 16 0 0 {},
      .triggerArmWrite 0 8 0 {},
      .triggerArmWrite 0 0 (2 ^ 32) {},
      .triggerArmWrite 0 0 0 { mem := [(1, 0), (0, 0)] },
      .triggerFire 8 {},
      .triggerFire 0 { mem := [(1, 0), (0, 0)] },
      .captureEdge 4 false,
      .capTimeRead 16 0,
      .capTimeRead 0 4,
      .ptpNowRead 16,
      .dramRequestAccept (2 ^ 36) false false [],
      .dramRequestAccept 63 false false [1, 2],
      .dramRequestServe 32 0 0 0,
      .dramRequestServe 0 0 0 3,
      .refreshDue 32,
      .mr4Poll 32 0,
      .selfRefreshEntry 4,
      .selfRefreshExit 4,
      .opPointChange 4,
      .gatheringStep 4 [] []].all (fun i : Instr => !i.wf) = true := by decide

/-- Commands that each break one check of `Instr.wf`. -/
theorem test_wf_refuses_11 :
    [.gatheringStep 0 [] (List.replicate 9 0),
      .channelMapOut 32 1,
      .channelMapOut 0 99,
      .windowSet 0 { mem := [(1, 0), (0, 0)] },
      .dramOpSet 0 { mem := [(1, 0), (0, 0)] },
      .dramTrain 0 { mem := [(1, 0), (0, 0)] } [] [],
      .dramTrain 0 {} [32] [],
      .channelService 0 { mem := [(1, 0), (0, 0)] } false,
      .compressionJobStart 12,
      .compressionJobEnd 12 {},
      .compressionJobEnd 0 { mem := [(1, 0), (0, 0)] },
      .scarfDeflateWaitExpiry 4,
      .compJob 0 { mem := [(1, 0), (0, 0)] },
      .blitJob 0 { mem := [(1, 0), (0, 0)] },
      .blockJobEnd { mem := [(1, 0), (0, 0)] },
      .governorStep 0 0,
      .governorStep 5 0,
      .domainSleep 26 1,
      .domainSleep 0 0,
      .domainSleep 0 4,
      .domainWake 26,
      .powerOn { addr := 4 },
      .vinReversed false { addr := 4 },
      .powerStateSet 0 { mem := [(1, 0), (0, 0)] } false,
      .hibernateWake 4].all (fun i : Instr => !i.wf) = true := by decide

/-- Commands that each break one check of `Instr.wf`. -/
theorem test_wf_refuses_12 :
    [.sensorConversion 104 0,
      .zoneStep 16,
      .shutTrip 104,
      .thermalSet 0 { mem := [(1, 0), (0, 0)] },
      .thermalSample 0 { mem := [(1, 0), (0, 0)] } [],
      .calibration true 16 [] false,
      .calibration false 128 [] false,
      .trimSlewTick 128 none,
      .ageingMeasure 8 [0, 0, 0, 0],
      .ageingMeasure 0 [],
      .journalBootScan false [32] [],
      .journalBootScan false [] [(16, [])],
      .firmwareBootVerify { mem := [(1, 0), (0, 0)] },
      .calRun 0 { mem := [(1, 0), (0, 0)] },
      .calRollback 0 { mem := [(1, 0), (0, 0)] },
      .truingRun 0 { mem := [(1, 0), (0, 0)] },
      .splRead 0 { mem := [(1, 0), (0, 0)] },
      .fwWrite 0 { mem := [(1, 0), (0, 0)] },
      .fwActivate 0 { mem := [(1, 0), (0, 0)] },
      .counterEvent 256 0,
      .pfcValWrite 16 0 0,
      .pfcValWrite 0 256 0,
      .pfcValWrite 0 0 (2 ^ 64),
      .pfcPairLowRead 16 0,
      .pfcPairLowRead 0 256].all (fun i : Instr => !i.wf) = true := by decide

/-- Commands that each break one check of `Instr.wf`. -/
theorem test_wf_refuses_13 :
    [.meterWindowEnd [],
      .pfcMeterCfgWrite 16 0,
      .pfcMeterCfgWrite 0 (2 ^ 32),
      .pfcSnapWrite 16 0,
      .pfcSnapWrite 0 (2 ^ 32),
      .pfcFreezeWrite 16 0,
      .pfcFreezeWrite 0 (2 ^ 32),
      .pfcSnapTimeRead 16,
      .taggedRayRecord 64 0 0 0 0 0 0 0 [0, 0, 0, 0, 0],
      .taggedRayRecord 0 0 32 0 0 0 0 0 [0, 0, 0, 0, 0],
      .taggedRayRecord 0 0 0 65536 0 0 0 0 [0, 0, 0, 0, 0],
      .taggedRayRecord 0 0 0 0 (2 ^ 40) 0 0 0 [0, 0, 0, 0, 0],
      .taggedRayRecord 0 0 0 0 0 256 0 0 [0, 0, 0, 0, 0],
      .taggedRayRecord 0 0 0 0 0 0 32 0 [0, 0, 0, 0, 0],
      .taggedRayRecord 0 0 0 0 0 0 0 (2 ^ 64) [0, 0, 0, 0, 0],
      .taggedRayRecord 0 0 0 0 0 0 0 0 [],
      .preciseRecord 256 0 0 0,
      .preciseRecord 0 65536 0 0,
      .preciseRecord 0 0 (2 ^ 64) 0,
      .pfcBufConfigWrite 16 false 0,
      .pfcBufConfigWrite 0 false (2 ^ 64),
      .pfcProgram 0 { mem := [(1, 0), (0, 0)] },
      .pfcSnapshot 0 { mem := [(1, 0), (0, 0)] },
      .sampleDrain 0 { mem := [(1, 0), (0, 0)] },
      .coldReset 99 {}].all (fun i : Instr => !i.wf) = true := by decide

/-- Commands that each break one check of `Instr.wf`. -/
theorem test_wf_refuses_14 :
    [.coldReset 1 { addr := 4 },
      .warmReset 2,
      .warmReset 11,
      .functionLevelReset 16 false,
      .stateRamParityError false 256 0,
      .stateRamParityError false 0 (2 ^ 32),
      .uncoreFault 2 [],
      .uncoreFault 0 [(64, 0)],
      .moduleReset 0 { mem := [(1, 0), (0, 0)] },
      .blockReset 0 { mem := [(1, 0), (0, 0)] },
      .reportRead 0 { mem := [(1, 0), (0, 0)] },
      .ledgerSnapshot 0 { mem := [(1, 0), (0, 0)] },
      .smbusWake 256,
      .protocolError 16 1 0,
      .protocolError 0 3 0,
      .worvelTrain 4 0 0 0 none false,
      .worvelTrain 0 256 0 0 none false,
      .worvelTrain 0 0 256 0 none false,
      .worvelTrain 0 0 0 256 none false,
      .worvelTrain 0 0 0 0 (some (256, 0)) false,
      .worvelTrain 0 0 0 0 (some (0, 256)) false,
      .worvelLaneMap 4 0,
      .worvelLaneMap 0 256,
      .txTapStep 256,
      .bar4Access 16 0 false [] 0].all (fun i : Instr => !i.wf) = true := by decide

/-- Commands that each break one check of `Instr.wf`. -/
theorem test_wf_refuses_15 :
    [.bar4Access 0 0 false [] 4097,
      .ringWindowWrite 16 0 0 0 [],
      .ringWindowWrite 0 16 0 0 [],
      .ringWindowWrite 0 0 16 0 [],
      .ringWindowWrite 0 0 0 0x40000 [1]].all (fun i : Instr => !i.wf) = true := by decide

/-! ## Values the spec works out -/

/-- The worked address of R366: channel 23, bank 4, row 9,667, column 1,472; order 3 alone would give channel 17. -/
theorem test_dram_place_of_r366 :
    State.reset.placeOf 0x25C3A91C0 = .at_ 0 23 4 9667 1472 ∧ mapOrder 2 5 0x25C3A91C0 = (17, 4, 9667, 1472) := by decide

/-- The worked PTP time of R346, and the load of ρ = 0 at that instant (R347). -/
theorem test_ptp_time_of_r346 :
    ({ State.reset with ptp := ⟨5000000000000, 1700000000, 250000000, 2814749767, 4000000000000, 0, 0, 0, 0⟩ } : State).now =
      1700005000259999999 := by decide

/-- A layer whose depth plane is a = 20.0, b = 0, c = 0.01, of the worked ray (chapter 6). -/
def workedLayer : Layer :=
  { n := 3, enable := true, kind := 0, premul := false, limited := true, format := 1, group := 0, preset := 0, priority := 10,
    w := 4096, h := 2176, dw := 1536, dh := 864, x0 := 0, y0 := 1500, a := 5120, b := 0, c := 10486, k := 0, base := 0, pitch := 0,
    keyMin := 0, keyMax := 0, keyEnable := 0, colour := (0, 0, 0), matrix := [] }

/-- The depths and crossings of the worked ray of chapter 6: z0 = 10,241, z1 = 10,238. -/
theorem test_crossing_of_worked_ray :
    workedLayer.depthAt 256128 512128 = 10241 ∧ crossAt 256128 10241 160 = 256178 ∧ crossAt 512128 10241 (-1120) = 511778 ∧
      workedLayer.depthAt 256178 511778 = 10238 := by decide

/-- Pre-shrink and steps of the worked layer (R44, R136): 1,366 by 726, steps 58,283 and 55,068; its texel lies at 889 + 7/16. -/
theorem test_steps_of_worked_ray :
    (workedLayer.pw, workedLayer.ph, workedLayer.stepX, workedLayer.stepY) = (1366, 726, 58283, 55068) ∧
      texCoord 256178 58283 = 227698 ∧ texCoord 127778 55068 = 107240 ∧ (227698 + 8) / 16 % 16 = (7 : Int) := by decide

/-- The filtered red of the worked ray (R139): 26,701. -/
theorem test_filter_of_worked_ray :
    polyphase 7 15 (List.replicate 4 [20000, 24000, 30000, 32000]).flatten = 26701 := by decide

/-- The worked texel of R43: Y 250, Cb 409, Cr 960 at 10 bits, limited range, preset 0. -/
theorem test_colour_of_worked_texel : workedLayer.convertVideo 10 250 409 960 = ⟨65517, 0, 0, 65535⟩ := by decide

/-- The worked height-field search of R141: samples of 2,000 under k = 8.0 give g_star = 1,984 and a relief of 992. -/
theorem test_search_of_worked_layer :
    ({ workedLayer with k := 2048, x0 := 0, y0 := 0 } : Layer).search (some fun a => if a % 2 = 0 then 0xD0 else 0x07) ⟨0, 0, 0, 0, 0⟩ 0
        = 1984 ∧
      ({ workedLayer with k := 2048 } : Layer).reliefDepth 0 1984 = 992 := by decide

/-- The worked blend and word of chapter 7 (R154 to R160): 0x03F1_79D0 in mode 2 at phase 1. -/
theorem test_word_of_worked_ray :
    blend [⟨16384, 0, 0, 32768⟩, ⟨26701, 12000, 8000, 65535⟩] ⟨9, 9, 9, 65535⟩ = ⟨29734, 6000, 4000, 65535⟩ ∧
      rayWord 2 10 1 ⟨1000, 2000, 52, 0, 0⟩ ⟨29734, 6000, 4000, 65535⟩ = 0x3F179D0 ∧
      roundTo 0 10 1000 2000 1 4000 = 62 := by decide

/-- The worked kerfs: 11 for the ticker of chapter 9, 18 for the wall layer of chapter 14. -/
theorem test_kerf_of_worked_layers : kerfOf 6144 14656 = 11 ∧ kerfOf 10240 14656 = 18 := by decide

/-- GLB_CAPS reads 0x8104_0240, and the status mirror's change count starts at 0 (chapter 23). -/
theorem test_caps_at_reset : (State.reset.reg R.GLB_CAPS).toNat = 0x81040240 := by decide

/-- An idle step passes 1 ns of F and changes nothing else (log entry 7). -/
theorem test_idle_step : step State.reset = .next { State.reset with ptp := { State.reset.ptp with f := 1 } } := rfl

/-- A doorbell of a ring that is not enabled is refused, counted for its client and posted as event 0x0101 (R60). -/
theorem test_doorbell_refused :
    let s : State := { State.reset with pending := [.commandTailDoorbell 0 0 24 5] }
    (match step s with
      | .next t => t.fld (R.HST_FN_DROPS_count 0) == 1 && t.cmd.events.map (·.code) == [0x101] && t.pending.isEmpty
      | _ => false) = true := by decide

/-- No word of the table spells a command, so `withFetchWord` leaves the state as it is. -/
theorem test_no_table_word : decodeTableWord 8 0xFF = none ∧ State.reset.withFetchWord 8 0xFF = State.reset := ⟨rfl, rfl⟩

/-! ## Witnesses -/

/-- A dispatched command of `client` on ring 0 with an opcode and parameter bytes from packet byte 8 on. -/
def cmdWith (id client : Nat) (op : Op) (params : List Nat) : Cmd :=
  { id := id, client := client, ring := 0
    packet := leBytes 2 op.code ++ [0, 7] ++ leBytes 4 0x1234 ++ params.map (BitVec.ofNat 8)
    params := params.map (BitVec.ofNat 8), ranges := 65535, base := 0, size := 4096, defers := (findOp op.code).any OpSpec.deferrable
    phase := .started }

/-- The state with one command in flight. -/
def withCmd (s : State) (c : Cmd) : State := { s with cmd := { s.cmd with inflight := [c] } }

/-- A state with a small accepted geometry: 64 by 32 hogels, 2 by 2 views of 8 bits, one segment of all four quads. -/
def withGeom (s : State) : State :=
  ((((((((((((s.setFld R.PNL_GEOM_HOGELS_width 64).setFld R.PNL_GEOM_HOGELS_height 32).setFld R.PNL_GEOM_VIEWS_vx 2).setFld
    R.PNL_GEOM_VIEWS_vy 2).setFld R.PNL_GEOM_VIEWS_depth 8).setFld R.PNL_GEOM_VIEWS_segments 1).setFld R.PNL_GEOM_VIEWS_valid 1).setReg
    R.PNL_SEG_QUADS 0xF).setFld (R.PNL_SEG_ORIGIN_x0 0) 0).setFld (R.PNL_SEG_ORIGIN_y0 0) 0).setFld (R.PNL_SEG_SIZE_width 0) 64).setFld
    (R.PNL_SEG_SIZE_height 0) 32)

/-- The same with the 2 by 1 grid of regions of 32 by 32 hogels. -/
def withGrid (s : State) : State :=
  ((((withGeom s).setFld R.DMG_REGION_GRID_kx_div8 4).setFld R.DMG_REGION_GRID_ky_div8 4).setFld R.DMG_REGION_COUNT_gx 2).setFld
    R.DMG_REGION_COUNT_gy 1

/-- A good descriptor of 64 by 32 hogels, 2 by 2 views of 8 bits, 60 Hz, one segment, 32 credits a group. -/
def descBytes : List Byte :=
  let d := leBytes 4 0 ++ leBytes 2 64 ++ leBytes 2 32 ++ leBytes 1 2 ++ leBytes 1 2 ++ leBytes 1 8 ++ leBytes 1 1 ++ leBytes 2 6000 ++
    leBytes 2 0 ++ leBytes 4 0 ++ leBytes 2 64 ++ leBytes 2 32 ++ leBytes 24 0 ++ leBytes 2 15 ++ leBytes 2 0 ++
    (List.replicate 16 (leBytes 2 32)).flatten ++ leBytes 2 100 ++ leBytes 10 0
  d ++ leBytes 4 (crc32c d)

/-- A queue with a command in front, and an empty one, for `StepRunsTheFrontCommand`. -/
theorem witness_StepRunsTheFrontCommand :
    (∃ (s : State) (c : Instr) (rest : List Instr), s.pending = c :: rest) ∧ ∃ s : State, s.pending = [] :=
  ⟨⟨{ State.reset with pending := [.burstEnd 15, .regionSelect] }, .burstEnd 15, [.regionSelect], rfl⟩, State.reset, rfl⟩

/-- A canonical state whose step writes module DRAM, for `StepKeepsStoresCanonical`. -/
theorem witness_StepKeepsStoresCanonical :
    ∃ s t : State, Canonical s ∧ step s = .next t ∧ t.dram ≠ [] :=
  ⟨{ State.reset with pending := [.bar4Access 0 64 true [1, 2] 0] }, _, ⟨by decide, by decide, by decide, by decide⟩, rfl, by decide⟩

/-- Numbers within the bounds that `ResetLeavesTheStatedRegisterValues` names, the last of each. -/
theorem witness_ResetLeavesTheStatedRegisterValues : ∃ i f q c n : Nat, i < 16 ∧ f < 16 ∧ q < 16 ∧ c < 16 ∧ n < 64 :=
  ⟨15, 15, 15, 15, 63, by decide⟩

/-- Components of the greatest and the least value at depth 10, for `ARayWordHoldsItsThreeComponentsInOrder`. -/
theorem witness_ARayWordHoldsItsThreeComponentsInOrder : ∃ d r g b : Nat, r < 2 ^ d ∧ g < 2 ^ d ∧ b < 2 ^ d :=
  ⟨10, 1023, 0, 1023, by decide⟩

/-- States and operands that meet the hypotheses of each clause of `RingEnableWritesStartAndStopRings`. -/
theorem witness_RingEnableWritesStartAndStopRings :
    (∃ (s : State) (client i data : Nat),
      (seesRing client i = true) ∧ (s.fld (R.CMD_SQ_CFG_enable i) = 0) ∧ (s.fld (R.CMD_SQ_CFG_halted i) = 0) ∧ (data.testBit 0 = true)) ∧
    (∃ (s : State) (client i data : Nat),
      (seesRing client i = true) ∧ (s.fld (R.CMD_SQ_CFG_enable i) = 0) ∧ (s.fld (R.CMD_SQ_CFG_halted i) = 0) ∧ (data.testBit 0 = true)) ∧
    (∃ (s : State) (client i data : Nat),
      (seesRing client i = true) ∧ (s.fld (R.CMD_SQ_CFG_enable i) = 1) ∧ (s.fld (R.CMD_SQ_CFG_halted i) = 1) ∧ (data.testBit 0 = true)) ∧
    (∃ (s : State) (client i data : Nat),
      (seesRing client i = true) ∧ (data.testBit 0 = false)) ∧
    (∃ (s : State) (client i data : Nat),
      (seesRing client i = true) ∧ (s.fld (R.CMD_CQ_CFG_enable i) = 0) ∧ (data.testBit 0 = true) ∧ (s.reservedOf i ≤ 2 ^ (if 6 ≤ bitsOf data 8 4 ∧ bitsOf data 8 4 ≤ 12 then bitsOf data 8 4 else s.fld (R.CMD_CQ_CFG_log2size i)) - 1)) ∧
    (∃ (s : State) (client i data : Nat),
      (seesRing client i = true) ∧ (s.fld (R.CMD_CQ_CFG_enable i) = 1) ∧ (s.fld (R.CMD_CQ_CFG_halted i) = 0) ∧ (data.testBit 0 = false)) ∧
    (∃ (s : State) (i : Nat),
      (s.fld (R.CMD_CQ_CFG_closing i) = 1) ∧ (s.reservedOf i = 0)) ∧
    (∃ (s : State) (client e data : Nat),
      (s.seesEventRing client e = true) ∧ (data.testBit 0 = false)) ∧
    (∃ (s : State) (client e data : Nat),
      (s.seesEventRing client e = true) ∧ (data.testBit 0 = true) ∧ (s.fld (R.CMD_EVQ_CFG_enable e) = 0) ∧ (s.fld (R.CMD_EVQ_CFG_halted e) = 0)) ∧
    (∃ (s : State) (client e data : Nat),
      (s.seesEventRing client e = true) ∧ (data.testBit 0 = true) ∧ (s.fld (R.CMD_EVQ_CFG_enable e) = 0) ∧ (s.fld (R.CMD_EVQ_CFG_halted e) = 0)) ∧
    (∃ (s : State) (client i data : Nat),
      (seesRing client i = false)) :=
  ⟨⟨(State.reset.setFld (R.CMD_SQ_CFG_enable 1) 0).setFld (R.CMD_SQ_CFG_halted 1) 0,
      0,
      1,
      0x701, by decide⟩,
    ⟨(State.reset.setFld (R.CMD_SQ_CFG_enable 0) 0).setFld (R.CMD_SQ_CFG_halted 0) 0,
      0,
      0,
      0xF01, by decide⟩,
    ⟨(State.reset.setFld (R.CMD_SQ_CFG_enable 1) 1).setFld (R.CMD_SQ_CFG_halted 1) 1,
      0,
      1,
      0x701, by decide⟩,
    ⟨State.reset,
      0,
      1,
      0x700, by decide⟩,
    ⟨State.reset.setFld (R.CMD_CQ_CFG_enable 1) 0,
      0,
      1,
      0x5030701, by decide⟩,
    ⟨(State.reset.setFld (R.CMD_CQ_CFG_enable 1) 1).setFld (R.CMD_CQ_CFG_halted 1) 0,
      0,
      1,
      0x5030700, by decide⟩,
    ⟨State.reset.setFld (R.CMD_CQ_CFG_closing 1) 1,
      1, by decide⟩,
    ⟨State.reset,
      0,
      1,
      0x00013700, by decide⟩,
    ⟨(State.reset.setFld (R.CMD_EVQ_CFG_enable 1) 0).setFld (R.CMD_EVQ_CFG_halted 1) 0,
      0,
      1,
      0x00013701, by decide⟩,
    ⟨((State.reset.setFld (R.CMD_EVQ_CFG_enable 1) 0).setFld (R.CMD_EVQ_CFG_halted 1) 0).setFld (R.CMD_EVQ_CFG_owner 1) 2,
      2,
      1,
      0x00013701, by decide⟩,
    ⟨State.reset,
      2,
      1,
      0x5030700, by decide⟩⟩

/-- States and operands that meet the hypotheses of each clause of `DoorbellsMoveRingPointersOrAreRefused`. -/
theorem witness_DoorbellsMoveRingPointersOrAreRefused :
    (∃ (s : State) (client r value : Nat),
      (r < 16) ∧ (s.fld (R.CMD_SQ_CFG_enable (16 * client + r)) = 1) ∧ (value % 2 ^ 32 < s.sqSize (16 * client + r))) ∧
    (∃ (s : State) (client r value : Nat),
      (r < 16) ∧ (s.fld (R.CMD_CQ_CFG_enable (16 * client + r)) = 1) ∧ (value % 2 ^ 32 < s.cqSize (16 * client + r))) ∧
    (∃ (s : State) (client e value : Nat),
      (e < 16) ∧ (s.fld (R.CMD_EVQ_CFG_enable e) = 1) ∧ (s.fld (R.CMD_EVQ_CFG_owner e) = client) ∧ (value % 2 ^ 32 < s.evSize e)) ∧
    (∃ (s : State) (client k value : Nat),
      (k < 8) ∧ ((s.fld (R.SCN_LAYER_STATUS_owned k) = 1 → s.fld (R.SCN_LAYER_STATUS_owner k) = client))) ∧
    (∃ (s : State) (client k value : Nat),
      (k < 8) ∧ ((s.fld (R.SCN_LAYER_STATUS_owned k) = 1 → s.fld (R.SCN_LAYER_STATUS_owner k) = client))) ∧
    (∃ (s : State) (client value : Nat),
      (value < 2 ^ 22) ∧ (s.fld (R.ETH_TXQ_CFG_enable (value / 65536)) = 1) ∧ (s.fld (R.ETH_TXQ_CFG_owner (value / 65536)) = client) ∧ (value % 65536 < 2 ^ s.fld (R.ETH_TXQ_CFG_log2size (value / 65536)))) ∧
    (∃ (s : State) (client value : Nat),
      (value < 2 ^ 25) ∧ (s.fld (R.ETH_RXQ_CFG_enable (value / 65536)) = 1) ∧ (s.fld (R.ETH_RXQ_CFG_owner (value / 65536)) = client) ∧ (value % 65536 < 2 ^ s.fld (R.ETH_RXQ_CFG_log2size (value / 65536)))) ∧
    (∃ (s : State) (client page r value : Nat),
      (page ≠ client) ∧ (r < 16)) ∧
    (∃ (s : State) (client page value : Nat),
      (page ≠ client)) ∧
    (∃ (s : State) (client page off value : Nat),
      (off < 4096) ∧ (otherDoorbell off = false) ∧ (0x80 ≤ off ∨ off % 8 ≠ 0)) :=
  ⟨⟨(State.reset.setFld (R.CMD_SQ_CFG_enable 18) 1).setFld (R.CMD_SQ_CFG_log2size 18) 7,
      1,
      2,
      0x100000055, by decide⟩,
    ⟨(State.reset.setFld (R.CMD_CQ_CFG_enable 18) 1).setFld (R.CMD_CQ_CFG_log2size 18) 7,
      1,
      2,
      0x55, by decide⟩,
    ⟨((State.reset.setFld (R.CMD_EVQ_CFG_enable 3) 1).setFld (R.CMD_EVQ_CFG_log2size 3) 7).setFld (R.CMD_EVQ_CFG_owner 3) 2,
      2,
      3,
      0x55, by decide⟩,
    ⟨(State.reset.setFld (R.SCN_LAYER_STATUS_owned 5) 1).setFld (R.SCN_LAYER_STATUS_owner 5) 3,
      3,
      5,
      0x123456789A, by decide⟩,
    ⟨State.reset.setFld (R.SCN_LAYER_STATUS_owned 7) 0,
      3,
      7,
      5, by decide⟩,
    ⟨((State.reset.setFld (R.ETH_TXQ_CFG_enable 63) 1).setFld (R.ETH_TXQ_CFG_log2size 63) 7).setFld (R.ETH_TXQ_CFG_owner 63) 2,
      2,
      0x3F0055, by decide⟩,
    ⟨((State.reset.setFld (R.ETH_RXQ_CFG_enable 511) 1).setFld (R.ETH_RXQ_CFG_log2size 511) 7).setFld (R.ETH_RXQ_CFG_owner 511) 2,
      2,
      0x1FF0055, by decide⟩,
    ⟨State.reset,
      2,
      1,
      3,
      5, by decide⟩,
    ⟨State.reset,
      2,
      1,
      5, by decide⟩,
    ⟨State.reset,
      2,
      2,
      4,
      5, by decide⟩⟩

/-- States and operands that meet the hypotheses of each clause of `FetchAndDispatchTakeCommandsInOrder`. -/
theorem witness_FetchAndDispatchTakeCommandsInOrder :
    (∃ (s : State) (bus : Bus) (i : Nat) (p : List Byte),
      (s.fwStopped = false) ∧ (s.cmd.inflight.length < 4096) ∧ (s.pickRing bus = some i) ∧ (s.headPacket bus i = some p)) ∧
    (∃ (s : State) (bus : Bus) (i : Nat),
      (s.fwStopped = false) ∧ (s.cmd.inflight.length < 4096) ∧ (s.pickRing bus = some i) ∧ (s.headPacket bus i = none)) ∧
    (∃ (s : State) (bus : Bus) (c : Cmd) (d : List Byte),
      (s.fwStopped = false) ∧ (s.cmd.inflight.find? (fun c => c.phase == .queued) = some c) ∧ (c.verdict bus = .start d)) ∧
    (∃ (s : State) (bus : Bus) (c : Cmd) (st d : Nat),
      (s.fwStopped = false) ∧ (s.cmd.inflight.find? (fun c => c.phase == .queued) = some c) ∧ (c.verdict bus = .refuse st d)) ∧
    (∃ (s : State) (bus : Bus) (c : Cmd),
      (s.fwStopped = false) ∧ (s.cmd.inflight.find? (fun c => c.phase == .queued) = some c) ∧ (c.verdict bus = .fault)) :=
  ⟨⟨((((({ State.reset with cmd := State.reset.cmd, flt := { State.reset.flt with boot := .up }, pwc := State.reset.pwc } : State).setReg R.PWC_STATUS 0).setReg (R.CMD_SQ_CFG 0) 0x601).setReg (R.CMD_CQ_CFG 0) 0x601).setReg (R.CMD_CQ_HEAD 0) 0 |>.setReg (R.CMD_CQ_STATE 0) 0 |>.setReg (R.CMD_SQ_HEAD 0) 63 |>.setReg (R.CMD_SQ_BASE 0) 0x10000).setTail 0 3,
      {},
      0,
      List.replicate 64 0, by decide⟩,
    ⟨((((({ State.reset with cmd := State.reset.cmd, flt := { State.reset.flt with boot := .up }, pwc := State.reset.pwc } : State).setReg R.PWC_STATUS 0).setReg (R.CMD_SQ_CFG 0) 0x601).setReg (R.CMD_CQ_CFG 0) 0x601).setReg (R.CMD_CQ_HEAD 0) 0 |>.setReg (R.CMD_CQ_STATE 0) 0 |>.setReg (R.CMD_SQ_HEAD 0) 1 |>.setReg (R.CMD_SQ_BASE 0) 0x10000).setTail 0 3,
      { bad := [(0x10000, 128)] },
      0, by decide⟩,
    ⟨(({ State.reset with cmd := { State.reset.cmd with inflight := [{ cmdWith 3 0 .nop [] with phase := .queued }, { cmdWith 4 0 .nop [] with phase := .queued }] }, flt := { State.reset.flt with boot := .up }, pwc := State.reset.pwc } : State).setReg R.PWC_STATUS 0),
      {},
      { cmdWith 3 0 .nop [] with phase := .queued },
      slice (cmdWith 3 0 .nop []).packet 8 56, by decide⟩,
    ⟨(({ State.reset with cmd := { State.reset.cmd with inflight := [{ cmdWith 3 1 .functionSet [1] with phase := .queued }] }, flt := { State.reset.flt with boot := .up }, pwc := State.reset.pwc } : State).setReg R.PWC_STATUS 0),
      {},
      { cmdWith 3 1 .functionSet [1] with phase := .queued },
      stNotPermitted,
      0, by decide⟩,
    ⟨(({ State.reset with cmd := { State.reset.cmd with inflight := [{ cmdWith 3 0 .nop [] with phase := .queued, packet := leBytes 2 0x100 ++ [8#8, 1#8] ++ leBytes 4 0 ++ leBytes 8 64 }] }, flt := { State.reset.flt with boot := .up }, pwc := State.reset.pwc } : State).setReg R.PWC_STATUS 0),
      { bad := [(64, 8)] },
      { cmdWith 3 0 .nop [] with phase := .queued, packet := leBytes 2 0x100 ++ [8#8, 1#8] ++ leBytes 4 0 ++ leBytes 8 64 }, by decide⟩⟩

/-- States and operands that meet the hypotheses of each clause of `RepliesAndEventsAreWrittenToTheirRings`. -/
theorem witness_RepliesAndEventsAreWrittenToTheirRings :
    (∃ (s : State) (i : Nat) (r : Reply),
      (s.fld (R.CMD_CQ_CFG_enable i) = 1) ∧ (s.fld (R.CMD_CQ_CFG_halted i) = 0) ∧ (s.cmd.replies.find? (fun x => 16 * x.client + x.ring == i) = some r) ∧ (r.signal = false) ∧ (r.final = true) ∧ ((s.reg (R.CMD_CQ_BASE i)).toNat.testBit 0 = false) ∧ ((s.cmdOf r.id).all (fun c => !c.itemList || c.items.isEmpty) = true)) ∧
    (∃ (s : State) (i : Nat) (r : Reply),
      (s.fld (R.CMD_CQ_CFG_enable i) = 1) ∧ (s.fld (R.CMD_CQ_CFG_halted i) = 0) ∧ (s.cmd.replies.find? (fun x => 16 * x.client + x.ring == i) = some r) ∧ (r.signal = false) ∧ (r.final = true) ∧ ((s.reg (R.CMD_CQ_BASE i)).toNat.testBit 0 = false) ∧ ((s.cmdOf r.id).all (fun c => !c.itemList || c.items.isEmpty) = true)) ∧
    (∃ (s : State) (i : Nat) (r : Reply),
      (s.fld (R.CMD_CQ_CFG_enable i) = 1) ∧ (s.fld (R.CMD_CQ_CFG_halted i) = 0) ∧ (s.cmd.replies.find? (fun x => 16 * x.client + x.ring == i) = some r) ∧ ((s.reg (R.CMD_CQ_BASE i)).toNat.testBit 0 = false)) ∧
    (∃ (s : State) (i : Nat) (r : Reply) (c : Cmd) (fails : Bool),
      (s.fld (R.CMD_CQ_CFG_enable i) = 1) ∧ (s.fld (R.CMD_CQ_CFG_halted i) = 0) ∧ (s.cmd.replies.find? (fun x => 16 * x.client + x.ring == i) = some r) ∧ (s.cmdOf r.id = some c) ∧ (c.itemList = true) ∧ (c.items ≠ []) ∧ (r.signal = false) ∧ (r.final = true) ∧ ((s.reg (R.CMD_CQ_BASE i)).toNat.testBit 0 = false) ∧ ((s.reg (R.CMD_CQ_WB i)).toNat = 0)) ∧
    (∃ (s : State) (i : Nat) (r : Reply) (c : Cmd) (fails : Bool),
      (s.fld (R.CMD_CQ_CFG_enable i) = 1) ∧ (s.fld (R.CMD_CQ_CFG_halted i) = 0) ∧ (s.cmd.replies.find? (fun x => 16 * x.client + x.ring == i) = some r) ∧ (s.cmdOf r.id = some c) ∧ (c.itemList = true) ∧ (c.items ≠ []) ∧ (r.signal = false) ∧ (r.final = true) ∧ ((s.reg (R.CMD_CQ_BASE i)).toNat.testBit 0 = false) ∧ ((s.reg (R.CMD_CQ_WB i)).toNat = 0)) ∧
    (∃ (s : State) (key : Nat),
      (Store.get (fun _ => false) s.cmd.signalWaits key = true) ∧ (Store.get (fun _ => 0) s.cmd.holdUntil key ≤ s.ptp.f)) ∧
    (∃ (s : State) (ef wf : List Nat) (ev : Event) (rest : List Event) (q : Nat),
      (s.hostCut = false) ∧ (s.cmd.events = ev :: rest) ∧ ((List.range 16).filter (fun k => s.eventReaches ev k) = [q]) ∧ (s.fld (R.CMD_EVQ_CFG_halted q) = 0) ∧ (s.evRoom q = true) ∧ (Store.get (fun _ => 0) s.cmd.lostSince q = 0) ∧ ((s.reg (R.CMD_EVQ_BASE q)).toNat.testBit 0 = false) ∧ ((s.reg (R.CMD_EVQ_WB q)).toNat = 0) ∧ (ef.contains q = false) ∧ (Store.get (fun _ => 0) s.cmd.holdUntil (256 + q) ≤ s.ptp.f)) ∧
    (∃ (s : State) (ef wf : List Nat) (ev : Event) (rest : List Event),
      (s.hostCut = false) ∧ (s.cmd.events = ev :: rest) ∧ ((∀ q, q < 16 → s.eventReaches ev q = false))) :=
  ⟨⟨{ ((((State.reset.setReg (R.CMD_CQ_CFG 0) 0x601).setReg (R.CMD_CQ_STATE 0) 63).setReg (R.CMD_CQ_BASE 0) 0x20000).setReg (R.CMD_CQ_WB 0) 0x3000) with cmd := { State.reset.cmd with inflight := [cmdWith 3 0 .nop []], replies := [⟨3, 0, 0, 0x100, 0, 7, 1, 1, 0, 0, true, false, none⟩] } },
      0,
      ⟨3, 0, 0, 0x100, 0, 7, 1, 1, 0, 0, true, false, none⟩, by decide⟩,
    ⟨{ ((((State.reset.setReg (R.CMD_CQ_CFG 0) 0x601).setReg (R.CMD_CQ_STATE 0) 3).setReg (R.CMD_CQ_BASE 0) 0x20000).setReg (R.CMD_CQ_WB 0) 0) with cmd := { State.reset.cmd with inflight := [cmdWith 3 0 .nop []], replies := [⟨3, 0, 0, 0x100, 0, 7, 1, 1, 0, 0, true, false, none⟩] } },
      0,
      ⟨3, 0, 0, 0x100, 0, 7, 1, 1, 0, 0, true, false, none⟩, by decide⟩,
    ⟨{ (((State.reset.setReg (R.CMD_CQ_CFG 0) 0x601).setReg (R.CMD_CQ_STATE 0) 63).setReg (R.CMD_CQ_BASE 0) 0x20000) with cmd := { State.reset.cmd with inflight := [cmdWith 3 0 .nop []], replies := [⟨3, 0, 0, 0x100, 0, 7, 1, 1, 0, 0, true, false, none⟩] } },
      0,
      ⟨3, 0, 0, 0x100, 0, 7, 1, 1, 0, 0, true, false, none⟩, by decide⟩,
    ⟨{ ((((State.reset.setReg (R.CMD_CQ_CFG 0) 0x601).setReg (R.CMD_CQ_STATE 0) 63).setReg (R.CMD_CQ_BASE 0) 0x20000).setReg (R.CMD_CQ_WB 0) 0) with cmd := { State.reset.cmd with inflight := [{ cmdWith 3 0 .nop [] with packet := leBytes 2 0x100 ++ [4#8, 0#8] ++ List.replicate 52 0#8 ++ leBytes 8 0x4000, items := [some ⟨0, 0, 5⟩] }], replies := [⟨3, 0, 0, 0x100, 0, 7, 1, 1, 0, 0, true, false, none⟩] } },
      0,
      ⟨3, 0, 0, 0x100, 0, 7, 1, 1, 0, 0, true, false, none⟩,
      { cmdWith 3 0 .nop [] with packet := leBytes 2 0x100 ++ [4#8, 0#8] ++ List.replicate 52 0#8 ++ leBytes 8 0x4000, items := [some ⟨0, 0, 5⟩] },
      true, by decide⟩,
    ⟨{ ((((State.reset.setReg (R.CMD_CQ_CFG 0) 0x601).setReg (R.CMD_CQ_STATE 0) 63).setReg (R.CMD_CQ_BASE 0) 0x20000).setReg (R.CMD_CQ_WB 0) 0) with cmd := { State.reset.cmd with inflight := [{ cmdWith 3 0 .nop [] with packet := leBytes 2 0x100 ++ [4#8, 0#8] ++ List.replicate 52 0#8 ++ leBytes 8 0x4000, items := [some ⟨0, 0, 5⟩] }], replies := [⟨3, 0, 0, 0x100, 0, 7, 1, 1, 0, 0, true, false, none⟩] } },
      0,
      ⟨3, 0, 0, 0x100, 0, 7, 1, 1, 0, 0, true, false, none⟩,
      { cmdWith 3 0 .nop [] with packet := leBytes 2 0x100 ++ [4#8, 0#8] ++ List.replicate 52 0#8 ++ leBytes 8 0x4000, items := [some ⟨0, 0, 5⟩] },
      false, by decide⟩,
    ⟨{ State.reset with cmd := { State.reset.cmd with signalWaits := [(3, true)], holdUntil := [(3, 100)] }, ptp := { State.reset.ptp with f := 100 } },
      3, by decide⟩,
    ⟨{ ((((((List.range 16).foldl (fun u q => u.setReg (R.CMD_EVQ_CFG q) 0) State.reset).setReg R.PWC_STATUS 0).setReg (R.CMD_EVQ_CFG 2) 0x5030601).setReg (R.CMD_EVQ_STATE 2) 63).setReg (R.CMD_EVQ_BASE 2) 0x30000 |>.setReg (R.CMD_EVQ_WB 2) 0 |>.setReg (R.CMD_EVQ_MASK 2) 0xFFFE) with cmd := { State.reset.cmd with events := [⟨0x0102, 5, 6, 99, none, none, none⟩], evHeads := [(2, 5)] } },
      [],
      [],
      ⟨0x0102, 5, 6, 99, none, none, none⟩,
      [],
      2, by decide⟩,
    ⟨{ ((((List.range 16).foldl (fun u q => u.setReg (R.CMD_EVQ_CFG q) 0) State.reset).setReg R.PWC_STATUS 0)) with cmd := { State.reset.cmd with events := [⟨0x0102, 5, 6, 99, none, none, none⟩] } },
      [],
      [],
      ⟨0x0102, 5, 6, 99, none, none, none⟩,
      [], by decide⟩⟩

/-- States and operands that meet the hypotheses of each clause of `ReplyCountsStatusAndDetailFollowTheItems`. -/
theorem witness_ReplyCountsStatusAndDetailFollowTheItems :
    (∃ (s : State) (c : Cmd) (items : List Item),
      ((∀ i, i ∈ items → i.status = stDone))) ∧
    (∃ (s : State) (c : Cmd) (good : List Item) (bad : Item) (rest : List Item),
      ((∀ i, i ∈ good → i.status = stDone)) ∧ (bad.status ≠ stDone) ∧ (bad.status ≠ stDegraded) ∧ (good.length < 2 ^ 24)) ∧
    (∃ (s : State) (bus : Bus) (id : Nat) (c : Cmd),
      (Startable s id .nop c)) ∧
    (∃ (s : State) (bus : Bus) (id : Nat) (c : Cmd),
      (Startable s id .functionSet c) ∧ (c.pb 8 0 4 ≠ 0) ∧ (s.present (c.pb 8 0 4) = true) ∧ (c.pb 12 0 12 + c.pb 14 0 13 ≤ 4096)) ∧
    (∃ (s : State) (bus : Bus) (id : Nat) (c : Cmd),
      (Startable s id .functionSet c) ∧ ((c.pb 8 0 4 = 0 ∨ s.present (c.pb 8 0 4) = false))) ∧
    (∃ (s : State) (bus : Bus) (id : Nat) (c : Cmd),
      (Startable s id .functionSet c) ∧ (c.pb 8 0 4 ≠ 0) ∧ (s.present (c.pb 8 0 4) = true) ∧ (4096 < c.pb 12 0 12 + c.pb 14 0 13)) :=
  ⟨⟨State.reset,
      cmdWith 3 0 .nop [],
      [⟨0, 0, 5⟩, ⟨0, 0, 6⟩], by decide⟩,
    ⟨State.reset,
      cmdWith 3 0 .nop [],
      [⟨0, 0, 5⟩],
      ⟨0x104, 2, 6⟩,
      [⟨0x301, 0, 0⟩, ⟨0x102, 0, 0⟩], by decide⟩,
    ⟨withCmd State.reset (cmdWith 3 0 .nop []),
      {},
      3,
      cmdWith 3 0 .nop [], by decide⟩,
    ⟨withCmd (State.reset.setFld (R.HST_FN_CFG_present 2) 1) (cmdWith 3 0 .functionSet [2, 5, 0xFE, 0x7F, 0xFF, 0x0F, 0x01, 0x00]),
      {},
      3,
      cmdWith 3 0 .functionSet [2, 5, 0xFE, 0x7F, 0xFF, 0x0F, 0x01, 0x00], by decide⟩,
    ⟨withCmd State.reset (cmdWith 3 0 .functionSet []),
      {},
      3,
      cmdWith 3 0 .functionSet [], by decide⟩,
    ⟨withCmd (State.reset.setFld (R.HST_FN_CFG_present 2) 1) (cmdWith 3 0 .functionSet [2, 5, 0xFE, 0x7F, 0xFF, 0x0F, 0x02, 0x00]),
      {},
      3,
      cmdWith 3 0 .functionSet [2, 5, 0xFE, 0x7F, 0xFF, 0x0F, 0x02, 0x00], by decide⟩⟩

/-- States and operands that meet the hypotheses of each clause of `RegisterAccessesFollowTheirHalvesLocksAndViews`. -/
theorem witness_RegisterAccessesFollowTheirHalvesLocksAndViews :
    (∃ (s : State) (client off size data : Nat) (whole : Bool),
      (s.reachable client = true) ∧ (whole = false ∨ (size ≠ 4 ∧ size ≠ 8) ∨ off % size ≠ 0)) ∧
    (∃ (s : State) (client off data : Nat),
      (s.reachable client = true) ∧ (client ≠ 0) ∧ (off < 0x1000) ∧ (off % 4 = 0) ∧ ((findReg off).isSome = true)) ∧
    (∃ (s : State) (data : Nat),
      (s.reachable 0 = true)) ∧
    (∃ (s : State) (data : Nat),
      (s.reachable 0 = true)) ∧
    (∃ (s : State) (off data : Nat),
      (s.reachable 0 = true) ∧ (off % 4 = 0) ∧ (off < 0x2000000) ∧ (inMirror off = false) ∧ (findReg off = none)) ∧
    (∃ (s : State) (data : Nat),
      (s.reachable 0 = true)) ∧
    (∃ (s : State) (data : Nat),
      (s.reachable 0 = true)) ∧
    (∃ (s : State) (i low : Nat),
      (s.reachable 0 = true) ∧ (i < 256)) ∧
    (∃ (s : State) (i low high : Nat),
      (s.reachable 0 = true) ∧ (i < 256) ∧ (s.fld (R.CMD_SQ_CFG_enable i) = 0) ∧ (low < 2 ^ 32) ∧ (high < 2 ^ 32) ∧ (Store.get (fun _ => none) s.hst.writeStage (16 * R.CMD_SQ_BASE i) = some ⟨R.CMD_SQ_BASE i, low⟩)) ∧
    (∃ (s : State) (data : Nat),
      (s.reachable 0 = true)) ∧
    (∃ (s : State) (client data : Nat),
      (s.reachable client = true) ∧ (client ≠ 0)) ∧
    (∃ (s : State) (data : Nat),
      (s.reachable 0 = true) ∧ (s.fld (R.PWC_DOMAIN_depth 23) ≠ 0)) ∧
    (∃ (s : State) (client : Nat),
      (s.reachable client = true) ∧ (Store.get (fun _ => none) s.hst.readLatch client = none)) ∧
    (∃ (s : State),
      (s.reachable 0 = true)) ∧
    (∃ (s : State) (v : Nat),
      (s.reachable 0 = true) ∧ (Store.get (fun _ => none) s.hst.readLatch 0 = some ⟨R.PTP_FREE, v⟩)) ∧
    (∃ (s : State) (client : Nat),
      (s.reachable client = true) ∧ (client ≠ 0)) :=
  ⟨⟨State.reset.setFld (R.HST_FN_CFG_present 3) 1 |>.setFld R.PWC_STATUS_state 0,
      3,
      6,
      4,
      5,
      true, by decide⟩,
    ⟨State.reset.setFld (R.HST_FN_CFG_present 3) 1 |>.setFld R.PWC_STATUS_state 0,
      3,
      R.GLB_SCRATCH,
      5, by decide⟩,
    ⟨State.reset.setFld (R.HST_FN_CFG_present 0) 1 |>.setFld R.PWC_STATUS_state 0,
      5000000000, by decide⟩,
    ⟨State.reset.setFld (R.HST_FN_CFG_present 0) 1 |>.setFld R.PWC_STATUS_state 0,
      5000000000, by decide⟩,
    ⟨State.reset.setFld (R.HST_FN_CFG_present 0) 1 |>.setFld R.PWC_STATUS_state 0,
      0xFF0,
      5, by decide⟩,
    ⟨State.reset.setFld (R.HST_FN_CFG_present 0) 1 |>.setFld R.PWC_STATUS_state 0 |>.setFld R.GLB_LOCK_lock 64,
      0x10000, by decide⟩,
    ⟨State.reset.setFld (R.HST_FN_CFG_present 0) 1 |>.setFld R.PWC_STATUS_state 0 |>.setFld R.GLB_LOCK_lock 63,
      0x10000, by decide⟩,
    ⟨State.reset.setFld (R.HST_FN_CFG_present 0) 1 |>.setFld R.PWC_STATUS_state 0,
      21,
      5000000000, by decide⟩,
    ⟨({ State.reset with hst := { writeStage := [(16 * R.CMD_SQ_BASE 21, some ⟨R.CMD_SQ_BASE 21, 0x7001⟩)] } }.setFld (R.HST_FN_CFG_present 0) 1 |>.setFld R.PWC_STATUS_state 0).setFld (R.CMD_SQ_CFG_enable 21) 0,
      21,
      0x7001,
      9, by decide⟩,
    ⟨State.reset.setFld (R.HST_FN_CFG_present 0) 1 |>.setFld R.PWC_STATUS_state 0,
      0xFF000021, by decide⟩,
    ⟨State.reset.setFld (R.HST_FN_CFG_present 5) 1 |>.setFld R.PWC_STATUS_state 0,
      5,
      0xFF000021, by decide⟩,
    ⟨(State.reset.setFld (R.HST_FN_CFG_present 0) 1 |>.setFld R.PWC_STATUS_state 0).setFld (R.PWC_DOMAIN_depth 23) 3,
      77, by decide⟩,
    ⟨{ State.reset with hst := {} }.setFld (R.HST_FN_CFG_present 5) 1 |>.setFld R.PWC_STATUS_state 0,
      5, by decide⟩,
    ⟨{ State.reset with ptp := { State.reset.ptp with f := 2 ^ 64 + 2 ^ 33 + 5 } }.setFld (R.HST_FN_CFG_present 0) 1 |>.setFld R.PWC_STATUS_state 0, by decide⟩,
    ⟨{ State.reset with hst := { readLatch := [(0, some ⟨R.PTP_FREE, 99⟩)] } }.setFld (R.HST_FN_CFG_present 0) 1 |>.setFld R.PWC_STATUS_state 0,
      99, by decide⟩,
    ⟨State.reset.setFld (R.HST_FN_CFG_present 5) 1 |>.setFld R.PWC_STATUS_state 0,
      5, by decide⟩⟩

/-- States and operands that meet the hypotheses of each clause of `LinksClientsAndDomainsComeAndGo`. -/
theorem witness_LinksClientsAndDomainsComeAndGo :
    (∃ (s : State) (link rate width inverted precoded rxPrecoded : Nat) (flit : Bool) (taps : List (List Int)),
      (s.hostCut = false) ∧ (link = 0) ∧ (rate ≤ 6) ∧ (rate = 0 ∨ (linkWidths s.bifurcated).contains width = true)) ∧
    (∃ (s : State) (link rate width inverted precoded rxPrecoded : Nat) (flit : Bool) (taps : List (List Int)),
      (s.hostCut = false) ∧ (link = 0) ∧ (rate ≤ 6) ∧ (rate = 0 ∨ (linkWidths s.bifurcated).contains width = true)) ∧
    (∃ (s : State) (link rate width inverted precoded rxPrecoded : Nat) (flit : Bool) (taps : List (List Int)),
      (s.hostCut = false) ∧ (link = 0) ∧ (rate ≤ 6) ∧ (rate = 0 ∨ (linkWidths s.bifurcated).contains width = true)) ∧
    (∃ (s : State) (vfEnable linkBUp : Bool) (numVFs : Nat),
      (s.hostCut = false) ∧ ((∀ f, f < 16 → s.present f = true → presentWith s.bifurcated vfEnable numVFs linkBUp f = true))) ∧
    (∃ (s : State) (j : Nat),
      (j < 4) ∧ (s.hostCut = false) ∧ (s.fld (R.PWC_DOMAIN_depth (19 + j)) ≠ 0) ∧ (s.fld R.PWC_STATUS_state ≠ 1) ∧ (s.hst.held = [])) :=
  ⟨⟨State.reset.setFld R.PWC_STATUS_state 0,
      0,
      3,
      8,
      0xF0,
      3,
      1,
      true,
      [[0, 0, 60, 0]], by decide⟩,
    ⟨State.reset.setFld R.PWC_STATUS_state 0,
      0,
      5,
      4,
      0xF0,
      3,
      1,
      true,
      [[0, 0, 60, 0]], by decide⟩,
    ⟨State.reset.setFld R.PWC_STATUS_state 0,
      0,
      0,
      3,
      0xF0,
      3,
      1,
      true,
      [], by decide⟩,
    ⟨(State.reset.setFld R.PWC_STATUS_state 0).setFld (R.HST_LINK_STATUS_bifurcated 0) 0 |>.setFld (R.HST_FN_CFG_present 15) 0 |>.setFld (R.HST_FN_CFG_present 14) 0 |>.setFld (R.HST_FN_CFG_present 13) 0 |>.setFld (R.HST_FN_CFG_present 12) 0,
      true,
      false,
      11, by decide⟩,
    ⟨({ State.reset with hst := {} }.setFld R.PWC_STATUS_state 0).setFld (R.PWC_DOMAIN_depth 21) 1,
      2, by decide⟩⟩

/-- States and operands that meet the hypotheses of each clause of `ViewLoadsWriteSlopesAndTheStagingCopy`. -/
theorem witness_ViewLoadsWriteSlopesAndTheStagingCopy :
    (∃ (s : State) (bus : Bus) (id : Nat) (c : Cmd),
      (Startable s id .viewSlopeLoad c) ∧ (0 < c.p 18 2) ∧ (c.p 18 2 ≤ 256) ∧ (c.p 16 1 + c.p 18 2 ≤ s.views) ∧ (bus.bad = [])) ∧
    (∃ (s : State) (bus : Bus) (id : Nat) (c : Cmd),
      (Startable s id .viewCorrectionLoad c) ∧ (c.p 20 2 ≠ 0) ∧ (c.p 22 2 ≠ 0) ∧ (c.p 16 2 + c.p 20 2 ≤ s.hx) ∧ (c.p 18 2 + c.p 22 2 ≤ s.hy) ∧ (s.fld R.SCN_VCF_BASE_base ≠ 0) ∧ (s.isCopying 1 0 = false) ∧ (s.clampDue (s.fld R.SCN_VIEW_CTRL_group) = false) ∧ (bus.bad = []) ∧ (c.flag 24 0 = false)) ∧
    (∃ (s : State) (bus : Bus) (id : Nat) (c : Cmd),
      (Startable s id .viewCorrectionLoad c) ∧ (c.p 20 2 ≠ 0) ∧ (c.p 22 2 ≠ 0) ∧ (c.p 16 2 + c.p 20 2 ≤ s.hx) ∧ (c.p 18 2 + c.p 22 2 ≤ s.hy) ∧ (s.fld R.SCN_VCF_BASE_base ≠ 0) ∧ (s.isCopying 1 0 = true)) ∧
    (∃ (s : State) (f : CopyFwd),
      (s.scn.copying.find? (fun x => x.kind == 1 && x.who == 0) = some f) ∧ (f.kind = 1)) ∧
    (∃ (s : State) (f : CopyFwd) (k : Nat),
      (s.scn.copying.find? (fun x => x.kind == 2 && x.who == k) = some f) ∧ (f.kind = 2) ∧ (f.who = k)) :=
  ⟨⟨withCmd (withGeom State.reset) (cmdWith 3 0 .viewSlopeLoad ((List.replicate 8 0) ++ [1, 0, 3, 0])),
      { mem := [(2, 5#8), (9, 7#8), (12, 3#8), (14, 1#8)] },
      3,
      cmdWith 3 0 .viewSlopeLoad ((List.replicate 8 0) ++ [1, 0, 3, 0]), by decide⟩,
    ⟨withCmd (({ withGeom State.reset with scn := {}, clp := { State.reset.clp with due := {} } } : State).setFld R.SCN_VCF_BASE_base 16) (cmdWith 3 0 .viewCorrectionLoad ((List.replicate 8 0) ++ [1, 0, 3, 0, 2, 0, 2, 0])),
      { mem := [(2, 5#8), (9, 7#8), (12, 3#8), (14, 1#8)] },
      3,
      cmdWith 3 0 .viewCorrectionLoad ((List.replicate 8 0) ++ [1, 0, 3, 0, 2, 0, 2, 0]), by decide⟩,
    ⟨withCmd (({ withGeom State.reset with scn := { copying := [{ kind := 1, group := 0, who := 0, rects := [] }] } } : State).setFld R.SCN_VCF_BASE_base 16) (cmdWith 3 0 .viewCorrectionLoad ((List.replicate 8 0) ++ [1, 0, 3, 0, 2, 0, 2, 0])),
      {},
      3,
      cmdWith 3 0 .viewCorrectionLoad ((List.replicate 8 0) ++ [1, 0, 3, 0, 2, 0, 2, 0]), by decide⟩,
    ⟨(({ withGeom State.reset with scn := { copying := [{ kind := 1, group := 0, who := 0, rects := [⟨0, 2, 0, 2⟩] }] }, dram := [(5, 7#8), (100, 9#8)] } : State).setFld R.SCN_VCF_BASE_base 0),
      { kind := 1, group := 0, who := 0, rects := [⟨0, 2, 0, 2⟩] }, by decide⟩,
    ⟨(({ withGeom State.reset with scn := { copying := [{ kind := 2, group := 0, who := 5, rects := [], members := [3, 9] }] }, dram := [(5, 7#8), (100, 9#8)] } : State).setFld R.GLU_SQC_TABLE_BASE_base 1),
      { kind := 2, group := 0, who := 5, rects := [], members := [3, 9] },
      5, by decide⟩⟩

/-- States and operands that meet the hypotheses of each clause of `RegionGridIsSetAtABoundaryWithEveryRegionDirty`. -/
theorem witness_RegionGridIsSetAtABoundaryWithEveryRegionDirty :
    (∃ (s : State) (bus : Bus) (id : Nat) (c : Cmd) (st r : Nat),
      (Startable s id .regionGridSet c) ∧ (s.gridFault (c.p 8 2) (c.p 10 2) = some (st, r))) ∧
    (∃ (s : State) (bus : Bus) (id : Nat) (c : Cmd),
      (Startable s id .regionGridSet c) ∧ (s.gridFault (c.p 8 2) (c.p 10 2) = none) ∧ (s.dmg.pendGrid = none) ∧ (s.sameGrid (c.p 8 2) (c.p 10 2) = true)) ∧
    (∃ (s : State) (bus : Bus) (id : Nat) (c : Cmd),
      (Startable s id .regionGridSet c) ∧ (s.gridFault (c.p 8 2) (c.p 10 2) = none) ∧ (s.dmg.pendGrid = none) ∧ (s.sameGrid (c.p 8 2) (c.p 10 2) = false) ∧ (s.inBounds = true) ∧ (s.deferFull c = false)) ∧
    (∃ (s : State) (bus : Bus) (kx ky id : Nat),
      (s.dmg.pendGrid = some (kx, ky, id)) ∧ (s.inBounds = true) ∧ (s.gridFault kx ky = none) ∧ (s.clp.gridDue = true) ∧ (s.sch.jobs = []) ∧ (Store.get (fun _ => none) s.clp.boundary 0 = none) ∧ (s.clp.due.groups = []) ∧ (s.clp.due.flips = [])) ∧
    (∃ (s : State) (bus : Bus) (id : Nat) (c : Cmd),
      (Startable s id .regionDirty c) ∧ (s.gridOn = true) ∧ (c.flag 8 0 = false) ∧ (c.p 16 2 ≠ 0) ∧ (c.p 18 2 ≠ 0) ∧ (c.p 12 2 + c.p 16 2 ≤ s.gx) ∧ (c.p 14 2 + c.p 18 2 ≤ s.gy)) ∧
    (∃ (s : State) (bus : Bus) (id : Nat) (c : Cmd),
      (Startable s id .regionDirty c) ∧ (s.gridOn = true) ∧ (c.flag 8 0 = true)) :=
  ⟨⟨withCmd (withGeom State.reset) (cmdWith 3 0 .regionGridSet [9, 0, 32, 0]),
      {},
      3,
      cmdWith 3 0 .regionGridSet [9, 0, 32, 0],
      stBadParam,
      1, by decide⟩,
    ⟨withCmd (withGrid { State.reset with dmg := {} }) (cmdWith 3 0 .regionGridSet [32, 0, 32, 0]),
      {},
      3,
      cmdWith 3 0 .regionGridSet [32, 0, 32, 0], by decide⟩,
    ⟨withCmd (withGrid { State.reset with dmg := {} }) (cmdWith 3 0 .regionGridSet [64, 0, 32, 0]),
      {},
      3,
      cmdWith 3 0 .regionGridSet [64, 0, 32, 0], by decide⟩,
    ⟨withGrid { State.reset with dmg := { pendGrid := some (16, 32, 3) }, clp := { gridDue := true }, sch := {}, regs := Store.set resetReg State.reset.regs (R.SCH_REGION_MAP 1) 5 },
      {},
      16,
      32,
      3, by decide⟩,
    ⟨withCmd (withGrid State.reset) (cmdWith 3 0 .regionDirty [0, 0, 0, 0, 1, 0, 0, 0, 1, 0, 1, 0]),
      {},
      3,
      cmdWith 3 0 .regionDirty [0, 0, 0, 0, 1, 0, 0, 0, 1, 0, 1, 0], by decide⟩,
    ⟨withCmd (withGrid State.reset) (cmdWith 3 0 .regionDirty [1]),
      {},
      3,
      cmdWith 3 0 .regionDirty [1], by decide⟩⟩

/-- States and operands that meet the hypotheses of each clause of `LayerCommandsWriteOnlyTheShadowOfTheirLayer`. -/
theorem witness_LayerCommandsWriteOnlyTheShadowOfTheirLayer :
    (∃ (s : State) (bus : Bus) (id : Nat) (c : Cmd) (n : Nat) (new : Layer),
      (Startable s id .layerDefine c) ∧ (n = c.pb 16 0 6) ∧ (s.mayUseLayer c.client n = true) ∧ (c.flag 17 7 = false) ∧ (defineFault n (c.pb 17 0 4) (c.pb 17 4 1) (c.pb 8 0 36) (c.p 20 2) (c.p 22 2) (c.p 24 2) (c.p 26 2) (c.p 28 2) = none) ∧ ((isVideo n = true → videoSizeOk (c.p 20 2) (c.p 22 2) = true)) ∧ (new = { s.shadowLayer n with kind := c.pb 17 4 1, format := c.pb 17 0 4, w := c.p 20 2, h := c.p 22 2, dw := c.p 24 2, dh := c.p 26 2 }) ∧ (s.layerBusy n = false) ∧ ((isVideo n = false → s.tileSlot n = none)) ∧ ((isVideo n = true → new.shrinkFault = none)) ∧ (new.depthOk = true)) ∧
    (∃ (s : State) (bus : Bus) (id : Nat) (c : Cmd) (n : Nat) (new : Layer),
      (Startable s id .layerDefine c) ∧ (n = c.pb 16 0 6) ∧ (s.mayUseLayer c.client n = true) ∧ (c.flag 17 7 = false) ∧ (defineFault n (c.pb 17 0 4) (c.pb 17 4 1) (c.pb 8 0 36) (c.p 20 2) (c.p 22 2) (c.p 24 2) (c.p 26 2) (c.p 28 2) = none) ∧ ((isVideo n = true → videoSizeOk (c.p 20 2) (c.p 22 2) = true)) ∧ (new = { s.shadowLayer n with kind := c.pb 17 4 1, format := c.pb 17 0 4, w := c.p 20 2, h := c.p 22 2, dw := c.p 24 2, dh := c.p 26 2 }) ∧ (s.layerBusy n = false) ∧ ((isVideo n = false → s.tileSlot n = none)) ∧ ((isVideo n = true → new.shrinkFault = none)) ∧ (new.depthOk = true)) ∧
    (∃ (s : State) (bus : Bus) (id : Nat) (c : Cmd) (n : Nat),
      (Startable s id .layerDefine c) ∧ (n = c.pb 16 0 6) ∧ (s.mayUseLayer c.client n = true) ∧ (c.flag 17 7 = true)) ∧
    (∃ (s : State) (bus : Bus) (id : Nat) (c : Cmd),
      (Startable s id .layerDefine c) ∧ (s.mayUseLayer c.client (c.pb 16 0 6) = false)) ∧
    (∃ (s : State) (bus : Bus) (id : Nat) (c : Cmd),
      (Startable s id .layerColour c) ∧ (s.mayUseLayer c.client (c.pb 16 0 6) = false)) ∧
    (∃ (s : State) (bus : Bus) (id : Nat) (c : Cmd),
      (Startable s id .layerGeometry c) ∧ (s.mayUseLayer c.client (c.pb 16 0 6) = false)) ∧
    (∃ (s : State) (bus : Bus) (id : Nat) (c : Cmd) (n : Nat),
      (Startable s id .layerGeometry c) ∧ (n = c.pb 16 0 6) ∧ (s.mayUseLayer c.client n = true) ∧ (fitsSigned 24 (c.p 24 4) = true) ∧ (fitsSigned 22 (c.p 28 4) = true) ∧ (fitsSigned 22 (c.p 32 4) = true) ∧ (fitsSigned 20 (c.p 36 4) = true) ∧ ((c.p 36 4 ≠ 0 → s.fld (R.SCN_LAYER_CFG_kind n) = 1)) ∧ (({ s.shadowLayer n with x0 := sext 16 (c.p 18 2), y0 := sext 16 (c.p 20 2), a := sext 24 (c.p 24 4), b := sext 22 (c.p 28 4), c := sext 22 (c.p 32 4), k := sext 20 (c.p 36 4) } : Layer).depthOk = true)) ∧
    (∃ (s : State) (bus : Bus) (id : Nat) (c : Cmd) (n : Nat),
      (Startable s id .layerColour c) ∧ (n = c.pb 16 0 6) ∧ (s.mayUseLayer c.client n = true) ∧ (c.flag 17 3 = false)) ∧
    (∃ (s : State) (bus : Bus) (id : Nat) (c : Cmd) (n : Nat),
      (Startable s id .layerColour c) ∧ (n = c.pb 16 0 6) ∧ (s.mayUseLayer c.client n = true) ∧ (c.flag 17 3 = false)) ∧
    (∃ (s : State) (bus : Bus) (id : Nat) (c : Cmd) (n : Nat),
      (Startable s id .layerColour c) ∧ (n = c.pb 16 0 6) ∧ (s.mayUseLayer c.client n = true) ∧ (c.flag 17 3 = true) ∧ (isVideo n = false) ∧ (s.fld (R.SCN_LAYER_CFG_format n) = 12) ∧ (busFails bus (c.p 8 8) 1024 = false)) ∧
    (∃ (s : State) (bus : Bus) (id : Nat) (c : Cmd) (n : Nat),
      (Startable s id .layerColour c) ∧ (n = c.pb 16 0 6) ∧ (s.mayUseLayer c.client n = true) ∧ (c.flag 17 3 = true) ∧ (isVideo n = true) ∧ (busFails bus (c.p 8 8) 18 = false)) :=
  ⟨⟨withCmd ({ State.reset with active := [], trs := {}, regs := [] } : State) (cmdWith 3 1 .layerDefine ([0, 0, 1, 0, 0, 0, 0, 0] ++ [40, 0x68, 3, 9, 16, 0, 16, 0, 16, 0, 16, 0, 1, 0])),
      {},
      3,
      cmdWith 3 1 .layerDefine ([0, 0, 1, 0, 0, 0, 0, 0] ++ [40, 0x68, 3, 9, 16, 0, 16, 0, 16, 0, 16, 0, 1, 0]),
      40,
      { (State.reset.shadowLayer 40) with kind := 0, format := 8, w := 16, h := 16, dw := 16, dh := 16 }, by decide⟩,
    ⟨withCmd ({ State.reset with active := [], trs := {}, regs := [] } : State) (cmdWith 3 1 .layerDefine ([0, 0, 0, 0, 0, 0, 0, 0] ++ [3, 0x51, 3, 9, 64, 0, 64, 0, 32, 0, 32, 0, 0, 0])),
      {},
      3,
      cmdWith 3 1 .layerDefine ([0, 0, 0, 0, 0, 0, 0, 0] ++ [3, 0x51, 3, 9, 64, 0, 64, 0, 32, 0, 32, 0, 0, 0]),
      3,
      { (State.reset.shadowLayer 3) with kind := 1, format := 1, w := 64, h := 64, dw := 32, dh := 32 }, by decide⟩,
    ⟨withCmd State.reset (cmdWith 3 0 .layerDefine ([0, 0, 0, 0, 0, 0, 0, 0] ++ [3, 0xD1])),
      {},
      3,
      cmdWith 3 0 .layerDefine ([0, 0, 0, 0, 0, 0, 0, 0] ++ [3, 0xD1]),
      3, by decide⟩,
    ⟨withCmd ((State.reset.setFld (R.SCN_LAYER_STATUS_owned 3) 1).setFld (R.SCN_LAYER_STATUS_owner 3) 2) (cmdWith 3 1 .layerDefine ([0, 0, 0, 0, 0, 0, 0, 0] ++ [3, 0xD1])),
      {},
      3,
      cmdWith 3 1 .layerDefine ([0, 0, 0, 0, 0, 0, 0, 0] ++ [3, 0xD1]), by decide⟩,
    ⟨withCmd ((State.reset.setFld (R.SCN_LAYER_STATUS_owned 3) 1).setFld (R.SCN_LAYER_STATUS_owner 3) 2) (cmdWith 3 1 .layerColour ([0, 0, 0, 0, 0, 0, 0, 0] ++ [3, 0xD1])),
      {},
      3,
      cmdWith 3 1 .layerColour ([0, 0, 0, 0, 0, 0, 0, 0] ++ [3, 0xD1]), by decide⟩,
    ⟨withCmd ((State.reset.setFld (R.SCN_LAYER_STATUS_owned 3) 1).setFld (R.SCN_LAYER_STATUS_owner 3) 2) (cmdWith 3 1 .layerGeometry ([0, 0, 0, 0, 0, 0, 0, 0] ++ [3, 0xD1])),
      {},
      3,
      cmdWith 3 1 .layerGeometry ([0, 0, 0, 0, 0, 0, 0, 0] ++ [3, 0xD1]), by decide⟩,
    ⟨withCmd ((State.reset.setReg (R.SCN_LAYER_CFG 3) 0x13).setReg (R.SCN_LAYER_DST 3) 0x100010) (cmdWith 3 0 .layerGeometry (List.replicate 8 0 ++ [3, 0, 0xF0, 0xFF, 8, 0, 0, 0, 0xFE, 0xFF, 0xFF, 0xFF, 5, 0, 0, 0, 0, 0, 0, 0, 7, 0, 0, 0])),
      {},
      3,
      cmdWith 3 0 .layerGeometry (List.replicate 8 0 ++ [3, 0, 0xF0, 0xFF, 8, 0, 0, 0, 0xFE, 0xFF, 0xFF, 0xFF, 5, 0, 0, 0, 0, 0, 0, 0, 7, 0, 0, 0]),
      3, by decide⟩,
    ⟨withCmd (State.reset.setFld (R.SCN_LAYER_STATUS_owned 5) 0) (cmdWith 3 1 .layerColour (List.replicate 8 0 ++ [5, 6, 9, 0] ++ (List.range 24))),
      {},
      3,
      cmdWith 3 1 .layerColour (List.replicate 8 0 ++ [5, 6, 9, 0] ++ (List.range 24)),
      5, by decide⟩,
    ⟨withCmd (State.reset.setFld (R.SCN_LAYER_STATUS_owned 45) 0) (cmdWith 3 1 .layerColour (List.replicate 8 0 ++ [45, 6, 9, 0] ++ (List.range 24))),
      {},
      3,
      cmdWith 3 1 .layerColour (List.replicate 8 0 ++ [45, 6, 9, 0] ++ (List.range 24)),
      45, by decide⟩,
    ⟨withCmd ((State.reset.setFld (R.SCN_LAYER_STATUS_owned 45) 0).setFld (R.SCN_LAYER_CFG_format 45) 12) (cmdWith 3 1 .layerColour (List.replicate 8 0 ++ [45, 8, 9, 0] ++ (List.range 24))),
      { mem := [(3, 4#8), (6, 3#8)] },
      3,
      cmdWith 3 1 .layerColour (List.replicate 8 0 ++ [45, 8, 9, 0] ++ (List.range 24)),
      45, by decide⟩,
    ⟨withCmd (State.reset.setFld (R.SCN_LAYER_STATUS_owned 5) 0) (cmdWith 3 1 .layerColour (List.replicate 8 0 ++ [5, 8, 9, 0] ++ (List.range 24))),
      { mem := [(3, 4#8), (6, 3#8)] },
      3,
      cmdWith 3 1 .layerColour (List.replicate 8 0 ++ [5, 8, 9, 0] ++ (List.range 24)),
      5, by decide⟩⟩

/-- States and operands that meet the hypotheses of each clause of `DamageAndLayerListsFollowTheGeometry`. -/
theorem witness_DamageAndLayerListsFollowTheGeometry :
    (∃ (s : State) (r : Nat),
      ((s.region r).state = 0) ∧ (r < 65536)) ∧
    (∃ (s : State) (r : Nat),
      ((s.region r).state = 1)) ∧
    (∃ (s : State) (r : Nat),
      ((s.region r).state = 3)) ∧
    (∃ (s : State) (bus : Bus) (id : Nat) (c : Cmd) (n : Nat) (l : Layer),
      (Startable s id .layerDamage c) ∧ (n = c.pb 8 0 6) ∧ (c.flag 9 0 = true) ∧ (l = s.activeLayer n) ∧ (c.p 16 2 ≠ 0) ∧ (c.p 18 2 ≠ 0) ∧ (c.p 12 2 + c.p 16 2 ≤ l.w) ∧ (c.p 14 2 + c.p 18 2 ≤ l.h) ∧ (s.mayUseLayer c.client n = true) ∧ (l.enable = true)) ∧
    (∃ (s : State) (bus : Bus) (id : Nat) (c : Cmd) (n : Nat),
      (Startable s id .layerDamage c) ∧ (n = c.pb 8 0 6) ∧ (c.flag 9 0 = false) ∧ (c.p 16 2 ≠ 0) ∧ (c.p 18 2 ≠ 0) ∧ (c.p 12 2 + c.p 16 2 ≤ (s.shadowLayer n).w) ∧ (c.p 14 2 + c.p 18 2 ≤ (s.shadowLayer n).h) ∧ (s.mayUseLayer c.client n = true) ∧ ((s.shadowLayer n).enable = true) ∧ (s.gridOn = true)) ∧
    (∃ (s : State) (bus : Bus) (id : Nat) (c : Cmd),
      (Startable s id .regionLayersRead c) ∧ (0 < c.p 18 2) ∧ (c.p 18 2 ≤ 4096) ∧ (s.gridOn = true) ∧ (c.p 16 2 + c.p 18 2 ≤ s.regionCount) ∧ (bus.bad = []) ∧ (c.itemList = false)) :=
  ⟨⟨withGrid { State.reset with dmg := {} },
      1, by decide⟩,
    ⟨withGrid { State.reset with dmg := { regions := [(1, { state := 1, coalesced := 254 })] } },
      1, by decide⟩,
    ⟨withGrid { State.reset with dmg := { regions := [(1, { state := 3, coalesced := 254 })] } },
      1, by decide⟩,
    ⟨withCmd (withGrid ({ State.reset with active := [(R.SCN_LAYER_CFG 40, 0x81), (R.SCN_LAYER_SRC 40, 0x200020), (R.SCN_LAYER_DST 40, 0x1F001F)] }.setFld (R.SCN_LAYER_STATUS_owned 40) 0)) (cmdWith 3 0 .layerDamage [40, 1, 0, 0, 1, 0, 1, 0, 3, 0, 3, 0]),
      {},
      3,
      cmdWith 3 0 .layerDamage [40, 1, 0, 0, 1, 0, 1, 0, 3, 0, 3, 0],
      40,
      layerOf (fun a => Store.get resetReg [(R.SCN_LAYER_CFG 40, 0x81), (R.SCN_LAYER_SRC 40, 0x200020), (R.SCN_LAYER_DST 40, 0x1F001F)] a) 40, by decide⟩,
    ⟨withCmd (withGrid (((State.reset.setReg (R.SCN_LAYER_CFG 40) 0x81).setReg (R.SCN_LAYER_SRC 40) 0x200020).setFld (R.SCN_LAYER_STATUS_owned 40) 0 |>.setReg (R.SCN_LAYER_DST 40) 0x1F001F)) (cmdWith 3 0 .layerDamage [40, 0, 0, 0, 1, 0, 1, 0, 3, 0, 3, 0]),
      {},
      3,
      cmdWith 3 0 .layerDamage [40, 0, 0, 0, 1, 0, 1, 0, 3, 0, 3, 0],
      40, by decide⟩,
    ⟨withCmd (withGrid { State.reset with active := [(R.SCN_LAYER_CFG 40, 0x81), (R.SCN_LAYER_SRC 40, 0x200020), (R.SCN_LAYER_DST 40, 0x1F001F)] }) (cmdWith 3 0 .regionLayersRead (List.replicate 8 0 ++ [0, 0, 2, 0])),
      {},
      3,
      cmdWith 3 0 .regionLayersRead (List.replicate 8 0 ++ [0, 0, 2, 0]), by decide⟩⟩

/-- States and operands that meet the hypotheses of each clause of `TrastosPacketsBecomeUnitsOrAreCountedAndLost`. -/
theorem witness_TrastosPacketsBecomeUnitsOrAreCountedAndLost :
    (∃ (s : State) (p : Nat) (d : List Byte) (fragment : Bool),
      (p < 8) ∧ (s.fld R.SCN_TRS_CFG_enable = 1) ∧ ((TrsHead.of d).sync = 0x7A53) ∧ ((TrsHead.of d).version = 1) ∧ ((TrsHead.of d).stated d = d.length) ∧ (d.length ≤ 9000) ∧ (crc32c (d.take (d.length - 4)) = leAt d (d.length - 4) 4) ∧ (s.slotOfStream (TrsHead.of d).id = none)) ∧
    (∃ (s : State) (p v : Nat) (d : List Byte),
      (p < 8) ∧ (s.fld R.SCN_TRS_CFG_enable = 1) ∧ ((TrsHead.of d).sync = 0x7A53) ∧ ((TrsHead.of d).version = 1) ∧ ((TrsHead.of d).stated d = d.length) ∧ (d.length ≤ 9000) ∧ (crc32c (d.take (d.length - 4)) = leAt d (d.length - 4) 4) ∧ (s.slotOfStream (TrsHead.of d).id = some v) ∧ ((s.stream v).sources.testBit p = true) ∧ ((s.countTrs v 0 1).trsTest v (TrsHead.of d) d (slice d ((TrsHead.of d).payloadAt ((TrsHead.of d).subsamples d)) (TrsHead.of d).length) false = .accepted) ∧ ((TrsHead.of d).apron = false)) ∧
    (∃ (s : State) (v : Nat) (h : Hole) (rest : List Hole),
      (v < 64) ∧ ((s.stream v).holes = h :: rest) ∧ (s.trs.units = [])) ∧
    (∃ (s : State) (v f n : Nat) (u : TrsUnit),
      (v < 64) ∧ (s.fld (R.SCN_TRS_STREAM_enable v) = 1) ∧ (s.unitOf v f n = some u) ∧ (u.stage = 0) ∧ ((s.trsGroup (s.slotGroup v)).markers.any (fun m => m.frame == f) = true)) ∧
    (∃ (s : State) (g c x : Nat),
      (s.stagingFrame g = some c) ∧ ((s.trsGroup g).markers.any (fun m => m.frame == c) = false) ∧ ((((s.trsGroup g).markers.map Marker.frame).filter fun f => !frameAtOrBefore f c).foldl lowerFrame none = some x)) ∧
    (∃ (s : State) (n : Nat) (j : CmpJob) (u : TrsUnit) (a : Wrapper) (e : JobEnd) (t1 : State),
      (n < 8) ∧ (s.unitJob n = some j) ∧ (j.dir = 0) ∧ (j.cls = 1) ∧ (a = Wrapper.of j.data) ∧ (e = a.inflate j.data j.dst) ∧ (s.unitOf (j.who.getD 0 0) (j.who.getD 1 0) (j.who.getD 2 0) = some u) ∧ (u.stage = 1) ∧ (u.type = 0x10) ∧ (s.unitWaits u = false) ∧ (e.out.length = j.dst) ∧ (t1 = (s.countOutcome n j e.status e.reason).freeUnit n e.consumed j.dst) ∧ (t1.bodySize u a = some j.dst) ∧ (e.status = 0) ∧ (s.inBounds = true)) :=
  ⟨⟨{ State.reset with regs := [] }.setFld R.SCN_TRS_CFG_enable 1,
      3,
      (let x := leBytes 2 0x7A53 ++ leBytes 2 0x1021 ++ leBytes 2 9 ++ leBytes 22 0 ++ leBytes 4 0; x ++ leBytes 4 (crc32c x)),
      false, by decide⟩,
    ⟨{ State.reset with regs := [], trs := { streams := [(5, { types := 63, sources := 15 })] } }.setFld R.SCN_TRS_CFG_enable 1 |>.setFld (R.SCN_TRS_STREAM_enable 5) 1 |>.setFld (R.SCN_TRS_STREAM_stream_id 5) 9 |>.setFld (R.SCN_TRS_STREAM_group 5) 2 |>.setFld R.SCN_TRS_HOLD_SIZE_mib 4,
      3,
      5,
      (let x := leBytes 2 0x7A53 ++ leBytes 2 0x1021 ++ leBytes 2 9 ++ leBytes 2 0 ++ leBytes 4 100 ++ leBytes 4 7 ++ leBytes 10 0 ++ leBytes 2 3 ++ leBytes 4 0 ++ [1#8, 2#8, 3#8]; x ++ leBytes 4 (crc32c x)), by decide⟩,
    ⟨{ State.reset with trs := { streams := [(5, { smax := some 90, holes := [⟨80, 3, 5⟩, ⟨85, 1, 6⟩, ⟨87, 2, 5⟩] })] } },
      5,
      ⟨80, 3, 5⟩,
      [⟨85, 1, 6⟩, ⟨87, 2, 5⟩], by decide⟩,
    ⟨{ State.reset with regs := [], trs := { groups := [(2, { markers := [⟨7, 55, []⟩] })], units := [{ slot := 5, frame := 7, unit := 3, type := 16 }] } }.setFld (R.SCN_TRS_STREAM_enable 5) 1 |>.setFld (R.SCN_TRS_STREAM_group 5) 2,
      5,
      7,
      3,
      { slot := 5, frame := 7, unit := 3, type := 16 }, by decide⟩,
    ⟨{ State.reset with regs := [], trs := { groups := [(2, { markers := [⟨9, 55, []⟩] })], units := [{ slot := 5, frame := 7, unit := 3, type := 16 }] } }.setFld (R.SCN_TRS_STREAM_group 5) 2,
      2,
      7,
      9, by decide⟩,
    ⟨((({ State.reset with regs := [], dmg := {}, trs := { units := [{ slot := 5, frame := 7, unit := 3, type := 16, stage := 1, data := leBytes 4 0 ++ leBytes 2 2 ++ leBytes 2 1 ++ leBytes 8 0 ++ List.replicate 8 9#8, started := true }] }, cmp := { units := [(4, some ⟨0, 1, 8, 8, 6, 7, [5, 7, 3], leBytes 4 0 ++ leBytes 2 2 ++ leBytes 2 1 ++ leBytes 8 0 ++ List.replicate 8 9#8⟩)] } }.setFld (R.SCN_TRS_STREAM_layer 5) 40).setFld (R.SCN_LAYER_CFG_format 40) 8).setFld (R.SCN_LAYER_SRC_width 40) 16).setFld (R.SCN_LAYER_SRC_height 40) 16 |>.setFld (R.SCN_TRS_ALTBASE_base 5) 99 |>.setFld (R.SCN_LAYER_PITCH_pitch 40) 1 |> (fun x => { x with scn := {} }),
      4,
      ⟨0, 1, 8, 8, 6, 7, [5, 7, 3], leBytes 4 0 ++ leBytes 2 2 ++ leBytes 2 1 ++ leBytes 8 0 ++ List.replicate 8 9#8⟩,
      { slot := 5, frame := 7, unit := 3, type := 16, stage := 1, data := leBytes 4 0 ++ leBytes 2 2 ++ leBytes 2 1 ++ leBytes 8 0 ++ List.replicate 8 9#8, started := true },
      Wrapper.of (⟨0, 1, 8, 8, 6, 7, [5, 7, 3], leBytes 4 0 ++ leBytes 2 2 ++ leBytes 2 1 ++ leBytes 8 0 ++ List.replicate 8 9#8⟩ : CmpJob).data,
      (Wrapper.of (⟨0, 1, 8, 8, 6, 7, [5, 7, 3], leBytes 4 0 ++ leBytes 2 2 ++ leBytes 2 1 ++ leBytes 8 0 ++ List.replicate 8 9#8⟩ : CmpJob).data : Wrapper).inflate (⟨0, 1, 8, 8, 6, 7, [5, 7, 3], leBytes 4 0 ++ leBytes 2 2 ++ leBytes 2 1 ++ leBytes 8 0 ++ List.replicate 8 9#8⟩ : CmpJob).data (⟨0, 1, 8, 8, 6, 7, [5, 7, 3], leBytes 4 0 ++ leBytes 2 2 ++ leBytes 2 1 ++ leBytes 8 0 ++ List.replicate 8 9#8⟩ : CmpJob).dst,
      ((((({ State.reset with regs := [], dmg := {}, trs := { units := [{ slot := 5, frame := 7, unit := 3, type := 16, stage := 1, data := leBytes 4 0 ++ leBytes 2 2 ++ leBytes 2 1 ++ leBytes 8 0 ++ List.replicate 8 9#8, started := true }] }, cmp := { units := [(4, some ⟨0, 1, 8, 8, 6, 7, [5, 7, 3], leBytes 4 0 ++ leBytes 2 2 ++ leBytes 2 1 ++ leBytes 8 0 ++ List.replicate 8 9#8⟩)] } }.setFld (R.SCN_TRS_STREAM_layer 5) 40).setFld (R.SCN_LAYER_CFG_format 40) 8).setFld (R.SCN_LAYER_SRC_width 40) 16).setFld (R.SCN_LAYER_SRC_height 40) 16 |>.setFld (R.SCN_TRS_ALTBASE_base 5) 99 |>.setFld (R.SCN_LAYER_PITCH_pitch 40) 1 |> (fun x => { x with scn := {} }) : State).countOutcome (4 : Nat) (⟨0, 1, 8, 8, 6, 7, [5, 7, 3], leBytes 4 0 ++ leBytes 2 2 ++ leBytes 2 1 ++ leBytes 8 0 ++ List.replicate 8 9#8⟩ : CmpJob) ((Wrapper.of (⟨0, 1, 8, 8, 6, 7, [5, 7, 3], leBytes 4 0 ++ leBytes 2 2 ++ leBytes 2 1 ++ leBytes 8 0 ++ List.replicate 8 9#8⟩ : CmpJob).data : Wrapper).inflate (⟨0, 1, 8, 8, 6, 7, [5, 7, 3], leBytes 4 0 ++ leBytes 2 2 ++ leBytes 2 1 ++ leBytes 8 0 ++ List.replicate 8 9#8⟩ : CmpJob).data (⟨0, 1, 8, 8, 6, 7, [5, 7, 3], leBytes 4 0 ++ leBytes 2 2 ++ leBytes 2 1 ++ leBytes 8 0 ++ List.replicate 8 9#8⟩ : CmpJob).dst : JobEnd).status ((Wrapper.of (⟨0, 1, 8, 8, 6, 7, [5, 7, 3], leBytes 4 0 ++ leBytes 2 2 ++ leBytes 2 1 ++ leBytes 8 0 ++ List.replicate 8 9#8⟩ : CmpJob).data : Wrapper).inflate (⟨0, 1, 8, 8, 6, 7, [5, 7, 3], leBytes 4 0 ++ leBytes 2 2 ++ leBytes 2 1 ++ leBytes 8 0 ++ List.replicate 8 9#8⟩ : CmpJob).data (⟨0, 1, 8, 8, 6, 7, [5, 7, 3], leBytes 4 0 ++ leBytes 2 2 ++ leBytes 2 1 ++ leBytes 8 0 ++ List.replicate 8 9#8⟩ : CmpJob).dst : JobEnd).reason).freeUnit (4 : Nat) ((Wrapper.of (⟨0, 1, 8, 8, 6, 7, [5, 7, 3], leBytes 4 0 ++ leBytes 2 2 ++ leBytes 2 1 ++ leBytes 8 0 ++ List.replicate 8 9#8⟩ : CmpJob).data : Wrapper).inflate (⟨0, 1, 8, 8, 6, 7, [5, 7, 3], leBytes 4 0 ++ leBytes 2 2 ++ leBytes 2 1 ++ leBytes 8 0 ++ List.replicate 8 9#8⟩ : CmpJob).data (⟨0, 1, 8, 8, 6, 7, [5, 7, 3], leBytes 4 0 ++ leBytes 2 2 ++ leBytes 2 1 ++ leBytes 8 0 ++ List.replicate 8 9#8⟩ : CmpJob).dst : JobEnd).consumed (⟨0, 1, 8, 8, 6, 7, [5, 7, 3], leBytes 4 0 ++ leBytes 2 2 ++ leBytes 2 1 ++ leBytes 8 0 ++ List.replicate 8 9#8⟩ : CmpJob).dst, by decide⟩⟩

/-- States and operands that meet the hypotheses of each clause of `DecodePipesTakeUnitsAndShowPictures`. -/
theorem witness_DecodePipesTakeUnitsAndShowPictures :
    (∃ (s : State) (bus : Bus) (id k n q refs outB : Nat) (runs : List (Nat × Nat)) (c : Cmd) (l : Layer),
      (Startable s id .decodeAssign c) ∧ (s.fld (R.PWC_DOMAIN_depth 24) = 0) ∧ (n = c.pb 8 0 5) ∧ (c.flag 9 0 = false) ∧ (c.flag 9 1 = false) ∧ (k = 2 * n) ∧ (s.decStream k = none) ∧ (l = s.shadowLayer n) ∧ (1 ≤ c.pb 11 0 5) ∧ (c.pb 11 0 5 ≤ 16) ∧ (s.mayUseLayer c.client n = true) ∧ (q = c.p 10 1) ∧ (q < 16) ∧ (s.pipeLoad q k + l.load16 false (c.p 12 2) ≤ 16 * pipeC) ∧ (s.layerBusy n = false) ∧ (refs = c.pb 11 0 5 * pictureBytes (l.chroma false) l.w l.h (l.sampleBytes false)) ∧ (outB = pictureBytes (l.chroma false) l.pw l.ph (l.sampleBytes false)) ∧ (s.poolFind ((refs + 3 * outB) / 4096) k = some runs) ∧ (16 ≤ c.p 12 2) ∧ (c.p 12 2 ≤ 3840) ∧ (videoSizeOk l.w l.h = true)) ∧
    (∃ (s : State) (bus : Bus) (id : Nat) (c : Cmd),
      (Startable s id .decodeAssign c) ∧ (s.fld (R.PWC_DOMAIN_depth 24) = 0) ∧ (c.flag 9 1 = true) ∧ (s.mayUseLayer c.client (c.pb 8 0 5) = true) ∧ (s.layerBusy (c.pb 8 0 5) = false)) ∧
    (∃ (s : State) (bus : Bus) (id : Nat) (c : Cmd),
      (Startable s id .decodeAssign c) ∧ (s.fld (R.PWC_DOMAIN_depth 24) = 0) ∧ (c.flag 9 1 = false) ∧ (c.pb 11 0 5 = 0 ∨ 16 < c.pb 11 0 5)) ∧
    (∃ (s : State) (p k : Nat) (rap : Bool) (u : TrsUnit) (d : DecStream),
      (p < 16) ∧ (s.pipeBusy p = none) ∧ (s.enginesMay = true) ∧ (s.hst.held = []) ∧ (s.trs.units.find? (fun u => s.pipeMay p u) = some u) ∧ (u.encrypted = false) ∧ (s.decKey u = some k) ∧ (s.decStream k = some d) ∧ (d.skipping = []) ∧ (s.missedClamp u = false)) ∧
    (∃ (s : State) (p k v f n w h bits chroma : Nat) (u : TrsUnit),
      (s.pipeBusy p = some (v, f, n)) ∧ (s.unitOf v f n = some u) ∧ (s.decKey u = some k) ∧ ((s.shadowLayer (k / 2)).takes (k % 2 == 1) w h bits chroma = true)) ∧
    (∃ (s : State) (p k v f n w h bits chroma slot : Nat) (u : TrsUnit) (d : DecStream) (q : Picture),
      (p < 16) ∧ (s.pipeBusy p = some (v, f, n)) ∧ (s.unitOf v f n = some u) ∧ (s.decKey u = some k) ∧ (s.decStream k = some d) ∧ ((s.shadowLayer (k / 2)).takes (k % 2 == 1) w h bits chroma = true) ∧ (s.mayApply (s.slotGroup u.slot) u.frame = true) ∧ (s.fenced (k / 2) = false) ∧ (s.keeps (k / 2) u.frame = false) ∧ (d.retired = []) ∧ (s.freeSlot { d with staged := none } = some slot)) :=
  ⟨⟨withCmd ({ State.reset with regs := [], active := [], dec := {} }.setFld (R.SCN_LAYER_SRC_width 3) 16 |>.setFld (R.SCN_LAYER_SRC_height 3) 16 |>.setFld (R.SCN_LAYER_DST_width_m1 3) 15 |>.setFld (R.SCN_LAYER_DST_height_m1 3) 15 |>.setFld R.DEC_POOL_SIZE_mib 64 |>.setFld (R.PWC_DOMAIN_depth 24) 0) (cmdWith 3 0 .decodeAssign [3, 0, 5, 4, 0xC0, 3]),
      {},
      3,
      6,
      3,
      5,
      4 * pictureBytes (((withCmd ({ State.reset with regs := [], active := [], dec := {} }.setFld (R.SCN_LAYER_SRC_width 3) 16 |>.setFld (R.SCN_LAYER_SRC_height 3) 16 |>.setFld (R.SCN_LAYER_DST_width_m1 3) 15 |>.setFld (R.SCN_LAYER_DST_height_m1 3) 15 |>.setFld R.DEC_POOL_SIZE_mib 64 |>.setFld (R.PWC_DOMAIN_depth 24) 0) (cmdWith 3 0 .decodeAssign [3, 0, 5, 4, 0xC0, 3]) : State).shadowLayer 3).chroma false) ((withCmd ({ State.reset with regs := [], active := [], dec := {} }.setFld (R.SCN_LAYER_SRC_width 3) 16 |>.setFld (R.SCN_LAYER_SRC_height 3) 16 |>.setFld (R.SCN_LAYER_DST_width_m1 3) 15 |>.setFld (R.SCN_LAYER_DST_height_m1 3) 15 |>.setFld R.DEC_POOL_SIZE_mib 64 |>.setFld (R.PWC_DOMAIN_depth 24) 0) (cmdWith 3 0 .decodeAssign [3, 0, 5, 4, 0xC0, 3]) : State).shadowLayer 3).w ((withCmd ({ State.reset with regs := [], active := [], dec := {} }.setFld (R.SCN_LAYER_SRC_width 3) 16 |>.setFld (R.SCN_LAYER_SRC_height 3) 16 |>.setFld (R.SCN_LAYER_DST_width_m1 3) 15 |>.setFld (R.SCN_LAYER_DST_height_m1 3) 15 |>.setFld R.DEC_POOL_SIZE_mib 64 |>.setFld (R.PWC_DOMAIN_depth 24) 0) (cmdWith 3 0 .decodeAssign [3, 0, 5, 4, 0xC0, 3]) : State).shadowLayer 3).h (((withCmd ({ State.reset with regs := [], active := [], dec := {} }.setFld (R.SCN_LAYER_SRC_width 3) 16 |>.setFld (R.SCN_LAYER_SRC_height 3) 16 |>.setFld (R.SCN_LAYER_DST_width_m1 3) 15 |>.setFld (R.SCN_LAYER_DST_height_m1 3) 15 |>.setFld R.DEC_POOL_SIZE_mib 64 |>.setFld (R.PWC_DOMAIN_depth 24) 0) (cmdWith 3 0 .decodeAssign [3, 0, 5, 4, 0xC0, 3]) : State).shadowLayer 3).sampleBytes false),
      pictureBytes (((withCmd ({ State.reset with regs := [], active := [], dec := {} }.setFld (R.SCN_LAYER_SRC_width 3) 16 |>.setFld (R.SCN_LAYER_SRC_height 3) 16 |>.setFld (R.SCN_LAYER_DST_width_m1 3) 15 |>.setFld (R.SCN_LAYER_DST_height_m1 3) 15 |>.setFld R.DEC_POOL_SIZE_mib 64 |>.setFld (R.PWC_DOMAIN_depth 24) 0) (cmdWith 3 0 .decodeAssign [3, 0, 5, 4, 0xC0, 3]) : State).shadowLayer 3).chroma false) ((withCmd ({ State.reset with regs := [], active := [], dec := {} }.setFld (R.SCN_LAYER_SRC_width 3) 16 |>.setFld (R.SCN_LAYER_SRC_height 3) 16 |>.setFld (R.SCN_LAYER_DST_width_m1 3) 15 |>.setFld (R.SCN_LAYER_DST_height_m1 3) 15 |>.setFld R.DEC_POOL_SIZE_mib 64 |>.setFld (R.PWC_DOMAIN_depth 24) 0) (cmdWith 3 0 .decodeAssign [3, 0, 5, 4, 0xC0, 3]) : State).shadowLayer 3).pw ((withCmd ({ State.reset with regs := [], active := [], dec := {} }.setFld (R.SCN_LAYER_SRC_width 3) 16 |>.setFld (R.SCN_LAYER_SRC_height 3) 16 |>.setFld (R.SCN_LAYER_DST_width_m1 3) 15 |>.setFld (R.SCN_LAYER_DST_height_m1 3) 15 |>.setFld R.DEC_POOL_SIZE_mib 64 |>.setFld (R.PWC_DOMAIN_depth 24) 0) (cmdWith 3 0 .decodeAssign [3, 0, 5, 4, 0xC0, 3]) : State).shadowLayer 3).ph (((withCmd ({ State.reset with regs := [], active := [], dec := {} }.setFld (R.SCN_LAYER_SRC_width 3) 16 |>.setFld (R.SCN_LAYER_SRC_height 3) 16 |>.setFld (R.SCN_LAYER_DST_width_m1 3) 15 |>.setFld (R.SCN_LAYER_DST_height_m1 3) 15 |>.setFld R.DEC_POOL_SIZE_mib 64 |>.setFld (R.PWC_DOMAIN_depth 24) 0) (cmdWith 3 0 .decodeAssign [3, 0, 5, 4, 0xC0, 3]) : State).shadowLayer 3).sampleBytes false),
      (((withCmd ({ State.reset with regs := [], active := [], dec := {} }.setFld (R.SCN_LAYER_SRC_width 3) 16 |>.setFld (R.SCN_LAYER_SRC_height 3) 16 |>.setFld (R.SCN_LAYER_DST_width_m1 3) 15 |>.setFld (R.SCN_LAYER_DST_height_m1 3) 15 |>.setFld R.DEC_POOL_SIZE_mib 64 |>.setFld (R.PWC_DOMAIN_depth 24) 0) (cmdWith 3 0 .decodeAssign [3, 0, 5, 4, 0xC0, 3]) : State).poolFind ((4 * pictureBytes (((withCmd ({ State.reset with regs := [], active := [], dec := {} }.setFld (R.SCN_LAYER_SRC_width 3) 16 |>.setFld (R.SCN_LAYER_SRC_height 3) 16 |>.setFld (R.SCN_LAYER_DST_width_m1 3) 15 |>.setFld (R.SCN_LAYER_DST_height_m1 3) 15 |>.setFld R.DEC_POOL_SIZE_mib 64 |>.setFld (R.PWC_DOMAIN_depth 24) 0) (cmdWith 3 0 .decodeAssign [3, 0, 5, 4, 0xC0, 3]) : State).shadowLayer 3).chroma false) ((withCmd ({ State.reset with regs := [], active := [], dec := {} }.setFld (R.SCN_LAYER_SRC_width 3) 16 |>.setFld (R.SCN_LAYER_SRC_height 3) 16 |>.setFld (R.SCN_LAYER_DST_width_m1 3) 15 |>.setFld (R.SCN_LAYER_DST_height_m1 3) 15 |>.setFld R.DEC_POOL_SIZE_mib 64 |>.setFld (R.PWC_DOMAIN_depth 24) 0) (cmdWith 3 0 .decodeAssign [3, 0, 5, 4, 0xC0, 3]) : State).shadowLayer 3).w ((withCmd ({ State.reset with regs := [], active := [], dec := {} }.setFld (R.SCN_LAYER_SRC_width 3) 16 |>.setFld (R.SCN_LAYER_SRC_height 3) 16 |>.setFld (R.SCN_LAYER_DST_width_m1 3) 15 |>.setFld (R.SCN_LAYER_DST_height_m1 3) 15 |>.setFld R.DEC_POOL_SIZE_mib 64 |>.setFld (R.PWC_DOMAIN_depth 24) 0) (cmdWith 3 0 .decodeAssign [3, 0, 5, 4, 0xC0, 3]) : State).shadowLayer 3).h (((withCmd ({ State.reset with regs := [], active := [], dec := {} }.setFld (R.SCN_LAYER_SRC_width 3) 16 |>.setFld (R.SCN_LAYER_SRC_height 3) 16 |>.setFld (R.SCN_LAYER_DST_width_m1 3) 15 |>.setFld (R.SCN_LAYER_DST_height_m1 3) 15 |>.setFld R.DEC_POOL_SIZE_mib 64 |>.setFld (R.PWC_DOMAIN_depth 24) 0) (cmdWith 3 0 .decodeAssign [3, 0, 5, 4, 0xC0, 3]) : State).shadowLayer 3).sampleBytes false) + 3 * pictureBytes (((withCmd ({ State.reset with regs := [], active := [], dec := {} }.setFld (R.SCN_LAYER_SRC_width 3) 16 |>.setFld (R.SCN_LAYER_SRC_height 3) 16 |>.setFld (R.SCN_LAYER_DST_width_m1 3) 15 |>.setFld (R.SCN_LAYER_DST_height_m1 3) 15 |>.setFld R.DEC_POOL_SIZE_mib 64 |>.setFld (R.PWC_DOMAIN_depth 24) 0) (cmdWith 3 0 .decodeAssign [3, 0, 5, 4, 0xC0, 3]) : State).shadowLayer 3).chroma false) ((withCmd ({ State.reset with regs := [], active := [], dec := {} }.setFld (R.SCN_LAYER_SRC_width 3) 16 |>.setFld (R.SCN_LAYER_SRC_height 3) 16 |>.setFld (R.SCN_LAYER_DST_width_m1 3) 15 |>.setFld (R.SCN_LAYER_DST_height_m1 3) 15 |>.setFld R.DEC_POOL_SIZE_mib 64 |>.setFld (R.PWC_DOMAIN_depth 24) 0) (cmdWith 3 0 .decodeAssign [3, 0, 5, 4, 0xC0, 3]) : State).shadowLayer 3).pw ((withCmd ({ State.reset with regs := [], active := [], dec := {} }.setFld (R.SCN_LAYER_SRC_width 3) 16 |>.setFld (R.SCN_LAYER_SRC_height 3) 16 |>.setFld (R.SCN_LAYER_DST_width_m1 3) 15 |>.setFld (R.SCN_LAYER_DST_height_m1 3) 15 |>.setFld R.DEC_POOL_SIZE_mib 64 |>.setFld (R.PWC_DOMAIN_depth 24) 0) (cmdWith 3 0 .decodeAssign [3, 0, 5, 4, 0xC0, 3]) : State).shadowLayer 3).ph (((withCmd ({ State.reset with regs := [], active := [], dec := {} }.setFld (R.SCN_LAYER_SRC_width 3) 16 |>.setFld (R.SCN_LAYER_SRC_height 3) 16 |>.setFld (R.SCN_LAYER_DST_width_m1 3) 15 |>.setFld (R.SCN_LAYER_DST_height_m1 3) 15 |>.setFld R.DEC_POOL_SIZE_mib 64 |>.setFld (R.PWC_DOMAIN_depth 24) 0) (cmdWith 3 0 .decodeAssign [3, 0, 5, 4, 0xC0, 3]) : State).shadowLayer 3).sampleBytes false)) / 4096) 6).getD []),
      cmdWith 3 0 .decodeAssign [3, 0, 5, 4, 0xC0, 3],
      (withCmd ({ State.reset with regs := [], active := [], dec := {} }.setFld (R.SCN_LAYER_SRC_width 3) 16 |>.setFld (R.SCN_LAYER_SRC_height 3) 16 |>.setFld (R.SCN_LAYER_DST_width_m1 3) 15 |>.setFld (R.SCN_LAYER_DST_height_m1 3) 15 |>.setFld R.DEC_POOL_SIZE_mib 64 |>.setFld (R.PWC_DOMAIN_depth 24) 0) (cmdWith 3 0 .decodeAssign [3, 0, 5, 4, 0xC0, 3]) : State).shadowLayer 3, by decide⟩,
    ⟨withCmd ({ State.reset with regs := [], active := [], dec := { streams := [(6, some { pipe := 5, codec := 0, rate := 960, load := 5, runs := [(0, 3)], outAt := 0, outBytes := 4096 })] } }.setFld (R.PWC_DOMAIN_depth 24) 0) (cmdWith 3 0 .decodeAssign [3, 2, 5, 4, 0xC0, 3]),
      {},
      3,
      cmdWith 3 0 .decodeAssign [3, 2, 5, 4, 0xC0, 3], by decide⟩,
    ⟨withCmd (State.reset.setFld (R.PWC_DOMAIN_depth 24) 0) (cmdWith 3 0 .decodeAssign [3, 0, 5, 17, 0xC0, 3]),
      {},
      3,
      cmdWith 3 0 .decodeAssign [3, 0, 5, 17, 0xC0, 3], by decide⟩,
    ⟨{ State.reset with regs := [], hst := {}, dec := { streams := [(6, some { pipe := 5, codec := 0, rate := 960, load := 5, runs := [(0, 3)], outAt := 0, outBytes := 4096 })] }, trs := { units := [{ slot := 5, frame := 7, unit := 3, type := 1, stage := 1 }] } }.setFld (R.SCN_TRS_STREAM_layer 5) 3,
      5,
      6,
      false,
      { slot := 5, frame := 7, unit := 3, type := 1, stage := 1 },
      { pipe := 5, codec := 0, rate := 960, load := 5, runs := [(0, 3)], outAt := 0, outBytes := 4096 }, by decide⟩,
    ⟨{ State.reset with regs := [], active := [], dec := { busy := [(5, some (5, 7, 3))] }, trs := { units := [{ slot := 5, frame := 7, unit := 3, type := 1, stage := 1, started := true }] } }.setFld (R.SCN_TRS_STREAM_layer 5) 3 |>.setFld (R.SCN_LAYER_SRC_width 3) 2 |>.setFld (R.SCN_LAYER_SRC_height 3) 2,
      5,
      6,
      5,
      7,
      3,
      2,
      2,
      8,
      1,
      { slot := 5, frame := 7, unit := 3, type := 1, stage := 1, started := true }, by decide⟩,
    ⟨({ State.reset with regs := [], dec := { busy := [(5, some (5, 7, 3))], streams := [(6, some { pipe := 5, codec := 0, rate := 960, load := 5, runs := [(0, 3)], outAt := 0, outBytes := 4096, staged := some 0 })] }, trs := { units := [{ slot := 5, frame := 7, unit := 3, type := 1, stage := 1, started := true }] } }.setFld (R.SCN_TRS_STREAM_layer 5) 3) |>.setFld (R.SCN_LAYER_SRC_width 3) 2 |>.setFld (R.SCN_LAYER_SRC_height 3) 2 |>.setFld (R.SCN_LAYER_DST_width_m1 3) 1 |>.setFld (R.SCN_LAYER_DST_height_m1 3) 1,
      5,
      6,
      5,
      7,
      3,
      2,
      2,
      8,
      1,
      0,
      { slot := 5, frame := 7, unit := 3, type := 1, stage := 1, started := true },
      { pipe := 5, codec := 0, rate := 960, load := 5, runs := [(0, 3)], outAt := 0, outBytes := 4096, staged := some 0 },
      { w := 2, h := 2, chroma := 1, bits := 8, luma := [1, 2, 3, 4], cb := [5], cr := [6] }, by decide⟩⟩

/-- States and operands that meet the hypotheses of each clause of `StreamsAreBoundAndKeysHeldByTheirClients`. -/
theorem witness_StreamsAreBoundAndKeysHeldByTheirClients :
    (∃ (s : State) (bus : Bus) (id v : Nat) (c : Cmd),
      (Startable s id .streamBind c) ∧ (v = c.pb 18 0 6) ∧ (c.flag 19 1 = false) ∧ (s.bindFault v (c.p 16 2) (c.pb 20 0 6) (c.pb 21 0 4) (c.pb 22 0 6) (c.flag 20 7) = none) ∧ ((c.flag 19 0 = true → s.fld R.SCN_TRS_HOLD_BASE_base ≠ 0)) ∧ (s.slotForeign v c.client = false) ∧ (c.flag 20 7 = true ∨ s.mayUseLayer c.client (c.pb 20 0 6) = true) ∧ (c.pb 8 0 36 % 64 = 0) ∧ ((c.pb 22 0 6).testBit 2 = false) ∧ (c.client < 16)) ∧
    (∃ (s : State) (bus : Bus) (id : Nat) (c : Cmd),
      (Startable s id .streamBind c) ∧ (c.flag 19 1 = false) ∧ (c.p 16 2 = 0)) ∧
    (∃ (s t1 : State) (bus : Bus) (id : Nat) (c : Cmd) (d : List Byte) (r : Arrival),
      (Startable s id .trastosSubmit c) ∧ (36 ≤ c.p 16 4) ∧ (c.p 16 4 ≤ 9000) ∧ (s.fld R.SCN_TRS_HOLD_BASE_base ≠ 0) ∧ (c.flag 20 0 = false) ∧ (busRead bus (c.p 8 8) (c.p 16 4) = some d) ∧ ((TrsHead.of d).extCrypto = false) ∧ ((TrsHead.of d).payloadAt 0 + (TrsHead.of d).length + 4 = c.p 16 4) ∧ (s.trsArrive 8 d false = (t1, r))) ∧
    (∃ (s : State) (bus : Bus) (id : Nat) (c : Cmd) (d : List Byte),
      (Startable s id .kekEstablish c) ∧ (busRead bus (c.p 8 8) 97 = some d) ∧ (onCurve d = true) ∧ (keyForeign (Store.get (fun _ => none) s.trs.keks (c.pb 16 0 2)) c.client = false)) ∧
    (∃ (s : State) (bus : Bus) (id : Nat) (c : Cmd) (q : KeySlot),
      (Startable s id .keyLoad c) ∧ (c.flag 10 0 = false) ∧ (Store.get (fun _ => none) s.trs.keks (c.pb 9 0 2) = some q) ∧ (q.owner = c.client) ∧ ((∀ j, j < 128 → Store.get (fun _ => none) s.trs.keys j = none))) ∧
    (∃ (s : State) (bus : Bus) (id : Nat) (c : Cmd) (q : KeySlot),
      (Startable s id .keyLoad c) ∧ (c.flag 10 0 = false) ∧ (Store.get (fun _ => none) s.trs.keks (c.pb 9 0 2) = some q) ∧ (q.owner = c.client) ∧ ((∀ j, j < 128 → Store.get (fun _ => none) s.trs.keys j = none))) ∧
    (∃ (s : State) (bus : Bus) (id : Nat) (c : Cmd) (x : KeySlot),
      (Startable s id .keyLoad c) ∧ (c.flag 10 0 = true) ∧ (Store.get (fun _ => none) s.trs.keys (c.pb 8 0 7) = some x)) ∧
    (∃ (s : State) (bus : Bus) (id : Nat) (c : Cmd) (x : KeySlot),
      (Startable s id .keyLoad c) ∧ (c.flag 10 0 = true) ∧ (Store.get (fun _ => none) s.trs.keys (c.pb 8 0 7) = some x)) ∧
    (∃ (s : State) (bus : Bus) (id : Nat) (c : Cmd),
      (Startable s id .keyPublicRead c) ∧ (busFails bus (c.p 8 8) 97 = false) ∧ (c.itemList = false)) :=
  ⟨⟨withCmd ({ State.reset with trs := { streams := [(5, { types := 2 })] } }.setFld R.SCN_TRS_HOLD_BASE_base 9 |>.setFld (R.SCN_TRS_STREAM_stream_id 5) 0 |>.setFld (R.SCN_TRS_STREAM_stream_id 0) 1 |>.setFld (R.SCN_TRS_STREAM_enable 0) 0) (cmdWith 3 6 .streamBind ([0, 0, 0, 0, 0, 0, 0, 0] ++ [0xFE, 0xFF, 5, 1, 0x80, 3, 0x20, 0, 8, 1])),
      {},
      3,
      5,
      cmdWith 3 6 .streamBind ([0, 0, 0, 0, 0, 0, 0, 0] ++ [0xFE, 0xFF, 5, 1, 0x80, 3, 0x20, 0, 8, 1]), by decide⟩,
    ⟨withCmd State.reset (cmdWith 3 6 .streamBind ([0, 0, 0, 0, 0, 0, 0, 0] ++ [0, 0, 5, 1, 0x80, 3, 0x20, 0, 8, 1])),
      {},
      3,
      cmdWith 3 6 .streamBind ([0, 0, 0, 0, 0, 0, 0, 0] ++ [0, 0, 5, 1, 0x80, 3, 0x20, 0, 8, 1]), by decide⟩,
    ⟨withCmd ({ State.reset with regs := [] }.setFld R.SCN_TRS_HOLD_BASE_base 9) (cmdWith 3 6 .trastosSubmit ([0, 0, 0, 0, 0, 0, 0, 0] ++ [36, 0, 0, 0, 0])),
      ((withCmd ({ State.reset with regs := [] }.setFld R.SCN_TRS_HOLD_BASE_base 9) (cmdWith 3 6 .trastosSubmit ([0, 0, 0, 0, 0, 0, 0, 0] ++ [36, 0, 0, 0, 0])) : State).trsArrive 8 ((busRead { mem := [(0, 0x53#8), (1, 0x7A#8), (2, 1#8)] } 0 36).getD []) false).1,
      { mem := [(0, 0x53#8), (1, 0x7A#8), (2, 1#8)] },
      3,
      cmdWith 3 6 .trastosSubmit ([0, 0, 0, 0, 0, 0, 0, 0] ++ [36, 0, 0, 0, 0]),
      (busRead { mem := [(0, 0x53#8), (1, 0x7A#8), (2, 1#8)] } 0 36).getD [],
      ((withCmd ({ State.reset with regs := [] }.setFld R.SCN_TRS_HOLD_BASE_base 9) (cmdWith 3 6 .trastosSubmit ([0, 0, 0, 0, 0, 0, 0, 0] ++ [36, 0, 0, 0, 0])) : State).trsArrive 8 ((busRead { mem := [(0, 0x53#8), (1, 0x7A#8), (2, 1#8)] } 0 36).getD [] : List Byte) false).2, by decide⟩,
    ⟨withCmd { State.reset with trs := {} } (cmdWith 3 6 .kekEstablish ([0, 0x10, 0, 0, 0, 0, 0, 0] ++ [2])),
      { mem := (List.range 97).map (fun i => (4096 + i, (([4#8] ++ (leBytes 48 0xaa87ca22be8b05378eb1c71ef320ad746e1d3b628ba79b9859f741e082542a385502f25dbf55296c3a545e3872760ab7).reverse ++ (leBytes 48 0x3617de4a96262c6f5d9e98bf9292dc29f8f41dbd289a147ce9da3113b5f0b8c00a60b1ce1d7e819d7a431d7c90ea0e5f).reverse).getD i 0))) },
      3,
      cmdWith 3 6 .kekEstablish ([0, 0x10, 0, 0, 0, 0, 0, 0] ++ [2]),
      [4#8] ++ (leBytes 48 0xaa87ca22be8b05378eb1c71ef320ad746e1d3b628ba79b9859f741e082542a385502f25dbf55296c3a545e3872760ab7).reverse ++ (leBytes 48 0x3617de4a96262c6f5d9e98bf9292dc29f8f41dbd289a147ce9da3113b5f0b8c00a60b1ce1d7e819d7a431d7c90ea0e5f).reverse, by decide⟩,
    ⟨withCmd { State.reset with trs := { keks := [(2, some ⟨6, [], (List.range 16).map (BitVec.ofNat 8)⟩)] } } (cmdWith 3 6 .keyLoad ([77, 2, 0, 0, 0, 0, 0, 0] ++ List.replicate 16 5 ++ [0x1F, 0xA6, 0x8B, 0x0A, 0x81, 0x12, 0xB4, 0x47, 0xAE, 0xF3, 0x4B, 0xD8, 0xFB, 0x5A, 0x7B, 0x82, 0x9D, 0x3E, 0x86, 0x23, 0x71, 0xD2, 0xCF, 0xE5])),
      {},
      3,
      cmdWith 3 6 .keyLoad ([77, 2, 0, 0, 0, 0, 0, 0] ++ List.replicate 16 5 ++ [0x1F, 0xA6, 0x8B, 0x0A, 0x81, 0x12, 0xB4, 0x47, 0xAE, 0xF3, 0x4B, 0xD8, 0xFB, 0x5A, 0x7B, 0x82, 0x9D, 0x3E, 0x86, 0x23, 0x71, 0xD2, 0xCF, 0xE5]),
      ⟨6, [], (List.range 16).map (BitVec.ofNat 8)⟩, by decide⟩,
    ⟨withCmd { State.reset with trs := { keks := [(2, some ⟨6, [], (List.range 16).map (BitVec.ofNat 8)⟩)] } } (cmdWith 3 6 .keyLoad ([77, 2, 0, 0, 0, 0, 0, 0] ++ List.replicate 16 5 ++ [0x1F, 0xA6, 0x8B, 0x0A, 0x81, 0x12, 0xB4, 0x47, 0xAE, 0xF3, 0x4B, 0xD8, 0xFB, 0x5A, 0x7B, 0x82, 0x9D, 0x3E, 0x86, 0x23, 0x71, 0xD2, 0xCF, 0xE6])),
      {},
      3,
      cmdWith 3 6 .keyLoad ([77, 2, 0, 0, 0, 0, 0, 0] ++ List.replicate 16 5 ++ [0x1F, 0xA6, 0x8B, 0x0A, 0x81, 0x12, 0xB4, 0x47, 0xAE, 0xF3, 0x4B, 0xD8, 0xFB, 0x5A, 0x7B, 0x82, 0x9D, 0x3E, 0x86, 0x23, 0x71, 0xD2, 0xCF, 0xE6]),
      ⟨6, [], (List.range 16).map (BitVec.ofNat 8)⟩, by decide⟩,
    ⟨withCmd { State.reset with trs := { keys := [(77, some ⟨6, [], []⟩)] } } (cmdWith 3 6 .keyLoad [77, 2, 1]),
      {},
      3,
      cmdWith 3 6 .keyLoad [77, 2, 1],
      ⟨6, [], []⟩, by decide⟩,
    ⟨withCmd { State.reset with trs := { keys := [(77, some ⟨5, [], []⟩)] } } (cmdWith 3 6 .keyLoad [77, 2, 1]),
      {},
      3,
      cmdWith 3 6 .keyLoad [77, 2, 1],
      ⟨5, [], []⟩, by decide⟩,
    ⟨withCmd State.reset (cmdWith 3 6 .keyPublicRead [0, 9]),
      {},
      3,
      cmdWith 3 6 .keyPublicRead [0, 9], by decide⟩⟩

/-- States and operands that meet the hypotheses of each clause of `BaysFillSynthesiseAndAskToLaunch`. -/
theorem witness_BaysFillSynthesiseAndAskToLaunch :
    (∃ (s : State) (bay : Nat) (j : Job),
      (s.sch.jobs.find? (fun j => j.bay == bay && j.stage == .filling) = some j) ∧ (demandLines 4096 (s.footprintLines j.region) = 0)) ∧
    (∃ (s : State) (bay : Nat) (j : Job),
      (s.sch.jobs.find? (fun j => j.bay == bay && j.stage == .filling) = some j) ∧ (demandLines 4096 (s.footprintLines j.region) ≠ 0)) ∧
    (∃ (s : State) (bay : Nat) (j : Job),
      (s.sch.jobs.find? (fun j => j.bay == bay && j.stage == .filled) = some j) ∧ (s.synthOf bay = none) ∧ (j.again = false) ∧ (s.checkOf j.region = none)) ∧
    (∃ (s : State) (bay clocks : Nat) (lines : List Nat) (j : Job) (u : Under),
      (s.synthOf bay = some j) ∧ (lines ≠ []) ∧ (j.under = some u) ∧ (bay < 64)) ∧
    (∃ (s : State) (bay clocks : Nat) (j : Job),
      (s.synthOf bay = some j) ∧ (j.pieces = true)) ∧
    (∃ (s : State) (bay : Nat) (j : Job),
      (s.synthOf bay = some j) ∧ (j.asked = false) ∧ (j.pieces = false) ∧ (j.check = none)) ∧
    (∃ (s : State) (r : Nat) (j : Job),
      (s.jobOf r = some j) ∧ (j.pieces = true) ∧ (j.asked = false) ∧ (j.stage = .buffered) ∧ (j.pieceFits = true) ∧ (j.nextPiece ≠ j.rows.length) ∧ (j.cut = false)) ∧
    (∃ (s : State) (bay : Nat) (bus : Bus) (j : Job),
      (s.synthOf bay = some j) ∧ (j.demand = 0) ∧ (j.check = none) ∧ (j.caps = [])) ∧
    (∃ (s : State) (bus : Bus) (id : Nat) (c : Cmd) (bay p : Nat),
      (Startable s id .rayProbe c) ∧ (s.geomValid = true) ∧ (c.pb 16 0 40 / 256 < s.hx * s.hy) ∧ (c.pb 16 0 40 % 256 < s.views) ∧ (0 < c.p 24 2) ∧ (c.p 24 2 ≤ 4096) ∧ (c.pb 16 0 40 / 256 * s.views + c.pb 16 0 40 % 256 + c.p 24 2 ≤ s.hx * s.hy * s.views) ∧ (s.gridOn = true) ∧ (s.probeBay = some (bay, p)) ∧ (s.fillFree bay = true) ∧ (s.eng.probes = [])) ∧
    (∃ (s : State) (bus : Bus) (id : Nat) (c : Cmd) (p : Probe) (u : Under),
      (s.cmdOf id = some c) ∧ (c.opcode = Op.rayProbe.code) ∧ (c.phase = .running) ∧ (s.eng.probes = [p]) ∧ (p.cmd = id) ∧ (p.under = some u) ∧ (s.bayIn p.bay = true) ∧ (s.fillOf p.bay = none) ∧ (s.synthOf p.bay = none) ∧ (bus.bad = []) ∧ (c.itemList = false)) :=
  ⟨⟨withGrid { State.reset with active := [], sch := { jobs := [{ id := 1, region := 1, node := 37, bay := 3, bytes := 100, left := 100 }] } },
      3,
      { id := 1, region := 1, node := 37, bay := 3, bytes := 100, left := 100 }, by decide⟩,
    ⟨(((withGrid { State.reset with active := [(R.SCN_LAYER_CFG 40, 0xA1), (R.SCN_LAYER_SRC 40, 0x1000400), (R.SCN_LAYER_DST 40, 0xFF03FF), (R.SCN_LAYER_PITCH 40, 128)], sch := { jobs := [{ id := 1, region := 1, node := 37, bay := 3, bytes := 100, left := 100 }] } }).setFld R.PNL_GEOM_HOGELS_width 1024).setFld R.PNL_GEOM_HOGELS_height 256).setFld (R.DMG_LAYER_KERF_kerf 40) 1000,
      3,
      { id := 1, region := 1, node := 37, bay := 3, bytes := 100, left := 100 }, by decide⟩,
    ⟨withGrid { State.reset with active := [], dram := [], regs := State.reset.regs.filter (fun e => e.1 < R.GLU_SQC_CTL 0 || R.GLU_SQC_CTL 255 < e.1), sch := { jobs := [{ id := 1, region := 1, node := 37, bay := 3, bytes := 100, left := 100, stage := .filled }] } },
      3,
      { id := 1, region := 1, node := 37, bay := 3, bytes := 100, left := 100, stage := .filled }, by decide⟩,
    ⟨{ State.reset with active := [], regs := [], dram := [(5, 7#8)], sch := { jobs := [{ id := 1, region := 1, node := 37, bay := 3, bytes := 100, left := 100, stage := .synth, demand := 1, under := some ⟨[], [], [], []⟩ }] } },
      3,
      300,
      [0],
      { id := 1, region := 1, node := 37, bay := 3, bytes := 100, left := 100, stage := .synth, demand := 1, under := some ⟨[], [], [], []⟩ },
      ⟨[], [], [], []⟩, by decide⟩,
    ⟨{ State.reset with sch := { jobs := [{ id := 1, region := 1, node := 37, bay := 3, bytes := 100, left := 100, stage := .synth, pieces := true }] } },
      3,
      300,
      { id := 1, region := 1, node := 37, bay := 3, bytes := 100, left := 100, stage := .synth, pieces := true }, by decide⟩,
    ⟨{ State.reset with sch := { jobs := [{ id := 1, region := 1, node := 37, bay := 3, bytes := 100, left := 100, stage := .synth, launchAt := 7 }] } },
      3,
      { id := 1, region := 1, node := 37, bay := 3, bytes := 100, left := 100, stage := .synth, launchAt := 7 }, by decide⟩,
    ⟨{ State.reset with sch := { jobs := [{ id := 1, region := 1, node := 37, bay := 3, bytes := 100, left := 100, stage := .buffered, pieces := true, rows := [[1#8], [2#8]], rays := 2, sent := 1 }] } },
      1,
      { id := 1, region := 1, node := 37, bay := 3, bytes := 100, left := 100, stage := .buffered, pieces := true, rows := [[1#8], [2#8]], rays := 2, sent := 1 }, by decide⟩,
    ⟨{ State.reset with sch := { jobs := [{ id := 1, region := 1, node := 37, bay := 3, bytes := 100, left := 100, stage := .synth, rows := [[1#8], [2#8]], rays := 2 }] } },
      3,
      {},
      { id := 1, region := 1, node := 37, bay := 3, bytes := 100, left := 100, stage := .synth, rows := [[1#8], [2#8]], rays := 2 }, by decide⟩,
    ⟨withCmd (((withGrid { State.reset with active := [], sch := {}, eng := {} }).setFld (R.ENG_BENT_STATUS_state 4) 1).setFld (R.ENG_BAY_MAP_in_service 4 0) 1) (cmdWith 3 0 .rayProbe (List.replicate 8 0 ++ [1, 2, 0, 0, 0, 0, 0, 0, 2, 0])),
      {},
      3,
      cmdWith 3 0 .rayProbe (List.replicate 8 0 ++ [1, 2, 0, 0, 0, 0, 0, 0, 2, 0]),
      32,
      1, by decide⟩,
    ⟨withCmd (((withGrid { State.reset with active := [], sch := {}, eng := { probes := [⟨3, 32, 5, 2, some ⟨[], [], [], []⟩, false⟩] } }).setFld (R.ENG_BENT_STATUS_state 4) 1).setFld (R.ENG_BAY_MAP_in_service 4 0) 1) { cmdWith 3 0 .rayProbe (List.replicate 8 0 ++ [1, 2, 0, 0, 0, 0, 0, 0, 2, 0]) with phase := .running },
      {},
      3,
      { cmdWith 3 0 .rayProbe (List.replicate 8 0 ++ [1, 2, 0, 0, 0, 0, 0, 0, 2, 0]) with phase := .running },
      ⟨3, 32, 5, 2, some ⟨[], [], [], []⟩, false⟩,
      ⟨[], [], [], []⟩, by decide⟩⟩

/-- States and operands that meet the hypotheses of each clause of `SquareChecksCompareResynthesiseAndSubstitute`. -/
theorem witness_SquareChecksCompareResynthesiseAndSubstitute :
    (∃ (s : State) (bay : Nat) (bus : Bus) (j : Job) (c : Nat),
      (s.synthOf bay = some j) ∧ (j.demand = 0) ∧ (j.check = some (c, true, crc32c j.rows.flatten)) ∧ (j.again = false) ∧ (j.caps = []) ∧ (s.glu.substituted.contains j.region = false) ∧ (bay < 64) ∧ (c < 256)) ∧
    (∃ (s : State) (bay : Nat) (bus : Bus) (j : Job) (c x : Nat),
      (s.synthOf bay = some j) ∧ (j.demand = 0) ∧ (j.check = some (c, true, x)) ∧ (x ≠ crc32c j.rows.flatten) ∧ (j.again = false) ∧ (j.caps = []) ∧ (bay < 64) ∧ (c < 256)) ∧
    (∃ (s : State) (bay : Nat) (bus : Bus) (j : Job) (c x : Nat),
      (s.synthOf bay = some j) ∧ (j.demand = 0) ∧ (j.check = some (c, true, x)) ∧ (x ≠ crc32c j.rows.flatten) ∧ (j.again = true) ∧ (j.caps = []) ∧ (s.glu.substituted.contains j.region = false) ∧ (s.inCheck (s.checkAct c) j.region = true) ∧ (bay < 64) ∧ (c < 256)) ∧
    (∃ (s : State) (bus : Bus) (id : Nat) (c : Cmd),
      (Startable s id .checkRegionDefine c) ∧ (s.mayUseCheck c.client (c.p 8 1) = true) ∧ (c.flag 9 0 = false)) ∧
    (∃ (s : State) (bus : Bus) (id : Nat) (c : Cmd) (k : Nat) (d : CheckDef),
      (Startable s id .checkRegionDefine c) ∧ (k = c.p 8 1) ∧ (d = ⟨true, c.pb 10 0 4, c.p 12 2, c.p 14 2, c.p 16 2, c.p 18 2, c.p 20 6⟩) ∧ (s.mayUseCheck c.client k = true) ∧ (c.flag 9 0 = true) ∧ ((∀ x, x < 256 → x ≠ k → ((s.checkShadow x).enable && (s.checkShadow x).overlaps d) = false ∧ ((s.checkAct x).enable && (s.checkAct x).overlaps d) = false)) ∧ (d.gw ≠ 0) ∧ (d.gh ≠ 0) ∧ (d.gx0 + d.gw ≤ s.gx) ∧ (d.gy0 + d.gh ≤ s.gy) ∧ (s.fld R.GLU_SQC_TABLE_BASE_base ≠ 0) ∧ (s.gridOn = true) ∧ ((s.checkShadow k).enable = false) ∧ ((s.checkAct k).enable = false) ∧ ((∀ r, r ∈ s.members d → s.regionBytes r ≤ 1048576))) ∧
    (∃ (s : State) (bus : Bus) (id : Nat) (c : Cmd) (k : Nat),
      (Startable s id .sqcSignatureLoad c) ∧ (k = c.p 16 1) ∧ (s.mayUseCheck c.client k = true) ∧ ((s.checkShadow k).enable = true) ∧ (c.p 24 4 ≠ 0) ∧ (c.p 20 4 + c.p 24 4 ≤ (s.checkShadow k).gw * (s.checkShadow k).gh) ∧ (s.isCopying 2 k = false) ∧ (s.clampDue (s.checkShadow k).group = false) ∧ (c.flag 17 0 = false) ∧ (bus.bad = [])) ∧
    (∃ (s : State) (bus : Bus) (id : Nat) (c : Cmd),
      (Startable s id .sqcCapture c) ∧ (0 < c.p 18 2) ∧ (c.p 18 2 ≤ 4096) ∧ (c.p 22 2 ≠ 0) ∧ (s.gridOn = true) ∧ (c.p 16 2 + c.p 18 2 ≤ s.regionCount) ∧ (s.glu.captures.length < 16) ∧ (s.deferFull c = false)) ∧
    (∃ (s : State) (bus : Bus) (id : Nat) (c : Cmd),
      (Startable s id .sqcCapture c) ∧ (0 < c.p 18 2) ∧ (c.p 18 2 ≤ 4096) ∧ (c.p 22 2 ≠ 0) ∧ (s.gridOn = true) ∧ (c.p 16 2 + c.p 18 2 ≤ s.regionCount) ∧ (s.glu.captures.length < 16) ∧ (s.deferFull c = false)) ∧
    (∃ (s : State) (bus : Bus) (id : Nat) (k : Capture),
      (s.glu.captures.find? (fun x => x.cmd == id && x.frames == 0) = some k)) :=
  ⟨⟨{ State.reset with glu := { pending := [(1, 9)] }, sch := { jobs := [{ id := 1, region := 1, node := 37, bay := 3, bytes := 100, left := 100, stage := .synth, rows := [[1#8], [2#8]], rays := 2, check := some (9, true, crc32c [1#8, 2#8]) }] } },
      3,
      {},
      { id := 1, region := 1, node := 37, bay := 3, bytes := 100, left := 100, stage := .synth, rows := [[1#8], [2#8]], rays := 2, check := some (9, true, crc32c [1#8, 2#8]) },
      9, by decide⟩,
    ⟨{ State.reset with glu := { pending := [(1, 9)] }, sch := { jobs := [{ id := 1, region := 1, node := 37, bay := 3, bytes := 100, left := 100, stage := .synth, rows := [[1#8], [2#8]], rays := 2, check := some (9, true, 5) }] } },
      3,
      {},
      { id := 1, region := 1, node := 37, bay := 3, bytes := 100, left := 100, stage := .synth, rows := [[1#8], [2#8]], rays := 2, check := some (9, true, 5) },
      9,
      5, by decide⟩,
    ⟨(((((withGrid { State.reset with glu := { pending := [(1, 9)] }, sch := { jobs := [{ id := 1, region := 1, node := 37, bay := 3, bytes := 100, left := 100, stage := .synth, again := true, rows := [[1#8], [2#8]], rays := 2, check := some (9, true, 5) }] } }).setFld (R.GLU_SQC_CTL_enable 9) 1).setFld (R.GLU_SQC_ORG_gx0 9) 0).setFld (R.GLU_SQC_ORG_gy0 9) 0).setReg (R.GLU_SQC_SIZE 9) 0x20002),
      3,
      {},
      { id := 1, region := 1, node := 37, bay := 3, bytes := 100, left := 100, stage := .synth, again := true, rows := [[1#8], [2#8]], rays := 2, check := some (9, true, 5) },
      9,
      5, by decide⟩,
    ⟨withCmd (State.reset.setFld (R.GLU_SQC_CTL_owned 5) 0) (cmdWith 3 1 .checkRegionDefine [5, 0]),
      {},
      3,
      cmdWith 3 1 .checkRegionDefine [5, 0], by decide⟩,
    ⟨withCmd (withGrid ({ State.reset with glu := {}, regs := [] }.setFld R.GLU_SQC_TABLE_BASE_base 16)) (cmdWith 3 1 .checkRegionDefine [5, 1, 3, 0, 0, 0, 0, 0, 2, 0, 1, 0, 1, 2, 3, 4, 5, 6]),
      {},
      3,
      cmdWith 3 1 .checkRegionDefine [5, 1, 3, 0, 0, 0, 0, 0, 2, 0, 1, 0, 1, 2, 3, 4, 5, 6],
      5,
      ⟨true, 3, 0, 0, 2, 1, 0x060504030201⟩, by decide⟩,
    ⟨withCmd (withGrid ({ State.reset with glu := { dirty := [5], shadow := [(5, ⟨true, 3, 0, 0, 2, 1, 0⟩)] }, scn := {}, regs := [] }.setFld R.GLU_SQC_TABLE_BASE_base 16)) (cmdWith 3 1 .sqcSignatureLoad (List.replicate 8 0 ++ [5, 0, 0, 0, 0, 0, 0, 0, 2, 0, 0, 0])),
      { mem := [(1, 7#8), (4, 1#8), (12, 3#8)] },
      3,
      cmdWith 3 1 .sqcSignatureLoad (List.replicate 8 0 ++ [5, 0, 0, 0, 0, 0, 0, 0, 2, 0, 0, 0]),
      5, by decide⟩,
    ⟨withCmd (withGrid State.reset) (cmdWith 3 1 .sqcCapture (List.replicate 8 0 ++ [0, 0, 2, 0, 0, 0, 9, 0])),
      {},
      3,
      cmdWith 3 1 .sqcCapture (List.replicate 8 0 ++ [0, 0, 2, 0, 0, 0, 9, 0]), by decide⟩,
    ⟨withCmd (withGrid State.reset) (cmdWith 3 1 .sqcCapture (List.replicate 8 0 ++ [0, 0, 2, 0, 1, 0, 9, 0])),
      {},
      3,
      cmdWith 3 1 .sqcCapture (List.replicate 8 0 ++ [0, 0, 2, 0, 1, 0, 9, 0]), by decide⟩,
    ⟨{ withCmd State.reset { cmdWith 3 1 .sqcCapture [] with phase := .deferred, items := [none, none] } with glu := { captures := [⟨3, 1, [1, 2], 0, 99⟩] } },
      {},
      3,
      ⟨3, 1, [1, 2], 0, 99⟩, by decide⟩⟩

/-- States and operands that meet the hypotheses of each clause of `ClampsAndFencesTakeEffectAtBoundaries`. -/
theorem witness_ClampsAndFencesTakeEffectAtBoundaries :
    (∃ (s : State) (bus : Bus) (id : Nat) (c : Cmd) (g : Nat),
      (Startable s id .clampArm c) ∧ (g = c.pb 16 0 4) ∧ (s.fld (R.CLP_GROUP_CFG_source g) = 0) ∧ (Store.get (fun _ => none) s.clp.arms g = none) ∧ (s.deferFull c = false)) ∧
    (∃ (s : State) (bus : Bus) (id : Nat) (c : Cmd),
      (Startable s id .clampArm c) ∧ (s.fld (R.CLP_GROUP_CFG_source (c.pb 16 0 4)) ≠ 0)) ∧
    (∃ (s : State) (bus : Bus) (id : Nat) (c : Cmd) (k : Nat),
      (Startable s id .fenceArm c) ∧ (k = c.pb 14 0 3) ∧ (s.fenced k = true) ∧ (s.mayUseLayer c.client k = true) ∧ (Store.get (fun _ => none) s.clp.fences k = none) ∧ (s.deferFull c = false)) ∧
    (∃ (s : State) (seg g at_ : Nat),
      (Store.get (fun _ => none) s.clp.boundary seg = some at_) ∧ (g < 16) ∧ (s.segOrZero (s.fld (R.CLP_GROUP_CFG_seg g)) = seg) ∧ (s.wallGroup g = false) ∧ (s.due g at_ = false)) ∧
    (∃ (s : State) (seg g at_ : Nat),
      (Store.get (fun _ => none) s.clp.boundary seg = some at_) ∧ (g < 16) ∧ (s.segOrZero (s.fld (R.CLP_GROUP_CFG_seg g)) = seg) ∧ (s.due g at_ = true) ∧ (s.wallGroup g = false) ∧ ((s.late g).ready = true)) ∧
    (∃ (s : State) (seg g at_ : Nat),
      (Store.get (fun _ => none) s.clp.boundary seg = some at_) ∧ (g < 16) ∧ (s.segOrZero (s.fld (R.CLP_GROUP_CFG_seg g)) = seg) ∧ (s.due g at_ = true) ∧ (s.wallGroup g = false) ∧ ((s.late g).ready = false)) ∧
    (∃ (s : State) (seg k at_ : Nat) (a : Arm),
      (Store.get (fun _ => none) s.clp.boundary seg = some at_) ∧ (k < 8) ∧ (s.segOrZero (s.fld (R.CLP_FENCE_CFG_seg k)) = seg) ∧ (Store.get (fun _ => none) s.clp.fences k = some a) ∧ (s.fenceReached k = true)) ∧
    (∃ (s : State) (bus : Bus) (g at_ n : Nat),
      (s.clp.due.groups = [(g, at_)]) ∧ (s.clp.due.flips = []) ∧ (g < 16) ∧ (8 ≤ n) ∧ (n < 64) ∧ (s.actFld (R.SCN_LAYER_CFG_group n) = g) ∧ (s.wallGroup g = false) ∧ (s.inBounds = true)) ∧
    (∃ (s : State) (bus : Bus) (g at_ n : Nat),
      (s.clp.due.groups = [(g, at_)]) ∧ (s.clp.due.flips = []) ∧ (8 ≤ n) ∧ (n < 64) ∧ (s.actFld (R.SCN_LAYER_CFG_group n) ≠ g)) :=
  ⟨⟨withCmd (State.reset.setFld (R.CLP_GROUP_CFG_source 5) 0) (cmdWith 3 0 .clampArm [1, 2, 3, 4, 5, 6, 7, 8, 5]),
      {},
      3,
      cmdWith 3 0 .clampArm [1, 2, 3, 4, 5, 6, 7, 8, 5],
      5, by decide⟩,
    ⟨withCmd (State.reset.setFld (R.CLP_GROUP_CFG_source 5) 1) (cmdWith 3 0 .clampArm [1, 2, 3, 4, 5, 6, 7, 8, 5]),
      {},
      3,
      cmdWith 3 0 .clampArm [1, 2, 3, 4, 5, 6, 7, 8, 5], by decide⟩,
    ⟨withCmd (State.reset.setActFld (R.CLP_FENCE_CFG_fence_mode 5) 1) (cmdWith 3 0 .fenceArm [1, 2, 3, 4, 9, 0, 5, 1]),
      {},
      3,
      cmdWith 3 0 .fenceArm [1, 2, 3, 4, 9, 0, 5, 1],
      5, by decide⟩,
    ⟨({ State.reset with clp := { boundary := [(0, some 100)] }, active := [] }.setFld (R.CLP_GROUP_CFG_source 5) 0).setFld (R.CLP_GROUP_CFG_seg 5) 0 |>.setFld (R.CLP_GROUP_CFG_wall 5) 0,
      0,
      5,
      100, by decide⟩,
    ⟨((({ State.reset with clp := { boundary := [(0, some 100)] }, active := [] }.setFld (R.CLP_GROUP_CFG_source 5) 1).setFld (R.CLP_GROUP_CFG_seg 5) 0)).setFld (R.CLP_GROUP_CFG_wall 5) 0,
      0,
      5,
      100, by decide⟩,
    ⟨((({ State.reset with clp := { boundary := [(0, some 100)] }, scn := { copying := [⟨1, 5, 0, [], []⟩] }, active := [] }.setFld (R.CLP_GROUP_CFG_source 5) 1).setFld (R.CLP_GROUP_CFG_seg 5) 0)).setFld (R.CLP_GROUP_CFG_wall 5) 0,
      0,
      5,
      100, by decide⟩,
    ⟨((({ State.reset with clp := { boundary := [(0, some 100)], fences := [(5, some ⟨3, 9, 0⟩)] }, active := [] }.setFld (R.CLP_FENCE_CFG_seg 5) 0).setFld (R.CLP_FENCE_VALUE_value 5) 7)).setFld (R.CLP_FENCE_WAIT_value 5) 7,
      0,
      5,
      100,
      ⟨3, 9, 0⟩, by decide⟩,
    ⟨withGrid { State.reset with clp := { due := { groups := [(5, 100)], flips := [], snaps := [⟨5, [(R.SCN_LAYER_CFG 40, 0x81), (R.SCN_LAYER_POS 40, 0x30004)], [], [], 7⟩] } }, regs := [(R.SCN_LAYER_CFG 40, 0x81), (R.SCN_LAYER_POS 40, 0x30009)], active := [(R.SCN_LAYER_CFG 40, 0x581)] },
      {},
      5,
      100,
      40, by decide⟩,
    ⟨withGrid { State.reset with clp := { due := { groups := [(5, 100)], flips := [], snaps := [⟨5, [], [], [], 7⟩] } }, regs := [(R.SCN_LAYER_CFG 40, 0x81), (R.SCN_LAYER_POS 40, 0x30004)], active := [(R.SCN_LAYER_CFG 40, 0x481)] },
      {},
      5,
      100,
      40, by decide⟩⟩

/-- States and operands that meet the hypotheses of each clause of `SchedulerSelectsAndKeepsCreditByClass`. -/
theorem witness_SchedulerSelectsAndKeepsCreditByClass :
    (∃ (s : State) (q cl r bay p : Nat),
      (s.dmg.pendGrid = none) ∧ (((List.range 16).map fun i => (s.sch.lastGroup + 1 + i) % 16).find? s.qualifies = some q) ∧ (s.pickClass q = some cl) ∧ (s.sch.again.find? (fun a => a.node == 16 * q + cl) = none) ∧ (s.firstEntry (16 * q + cl) = some r) ∧ (s.chooseBay (fun _ => true) = some (bay, p)) ∧ (s.hst.held = [])) ∧
    (∃ (s : State) (q c : Nat),
      (q < 16) ∧ (c < 16) ∧ (s.gateOpen q c = false)) ∧
    (∃ (s : State) (q c : Nat),
      (q < 16) ∧ (c < 16) ∧ (s.gateOpen q c = true) ∧ (s.fld (R.PNL_GROUP_STATUS_held q) = 0) ∧ (((s.pg q).wire.any fun w => w.node == 16 * q + c) = true) ∧ (s.backlogged (16 * q + c) = true)) ∧
    (∃ (s : State) (q c : Nat),
      (q < 16) ∧ (c < 16) ∧ (s.gateOpen q c = true) ∧ (s.fld (R.PNL_GROUP_STATUS_held q) = 0) ∧ (((s.pg q).wire.any fun w => w.node == 16 * q + c) = false) ∧ (s.backlogged (16 * q + c) = true)) ∧
    (∃ (s : State) (c q : Nat),
      (c < 16) ∧ (q < 16) ∧ ((∀ k, k < 16 → (s.pg k).wire = none))) ∧
    (∃ (s : State) (q n : Nat) (w : Wire),
      (q < 16) ∧ ((s.pg q).wire = some w) ∧ (w.node = 16 * q + n) ∧ (n < 16) ∧ (w.counted ≤ w.bytes w.rows) ∧ ((∀ k, k < 16 → k ≠ q → (s.pg k).wire = none))) ∧
    (∃ (s : State) (r : Nat),
      ((s.region r).state = 1) ∧ ((s.region r).late = false) ∧ (s.fld (R.SCH_CLASS_GUAR_max_delay ((s.region r).node % 16)) ≠ 0) ∧ (s.fld (R.SCH_CLASS_GUAR_max_delay ((s.region r).node % 16)) * 10000 < s.ptp.f - (s.region r).since) ∧ ((s.region r).node < 256)) ∧
    (∃ (s : State) (k : Nat),
      (k < 256)) :=
  ⟨⟨((((withGrid { State.reset with active := [], sch := {}, eng := {}, hst := {}, dmg := { regions := [(1, { state := 1, node := 8, tag := 77 })] } }).setReg (R.SCH_GROUP_CFG 0) (resetReg (R.SCH_GROUP_CFG 0))).setFld (R.ENG_BENT_STATUS_state 4) 1).setFld (R.ENG_BAY_MAP_in_service 4 0) 1).setFld (R.PNL_GROUP_STATUS_in_service 0) 1,
      0,
      8,
      1,
      32,
      1, by decide⟩,
    ⟨{ State.reset with sch := { gates := [(2, { active := some ⟨[(1, 1000)], 0, 1000, 0, 0⟩ })] } },
      2,
      3, by decide⟩,
    ⟨{ State.reset with pnl := { groups := [(2, { wire := some ⟨1, 0, 35, 0, 1, 10, 0, false, 1, 0⟩ })] }, sch := { jobs := [{ id := 1, region := 1, node := 35, bay := 3, bytes := 100, left := 100 }] } }.setFld (R.PNL_GROUP_STATUS_held 2) 0,
      2,
      3, by decide⟩,
    ⟨{ State.reset with pnl := {}, sch := { jobs := [{ id := 1, region := 1, node := 35, bay := 3, bytes := 100, left := 100 }] } }.setFld (R.PNL_GROUP_STATUS_held 2) 0,
      2,
      3, by decide⟩,
    ⟨{ State.reset with pnl := {}, sch := { nodes := [(35, { openTime := 10000, sent := 3, credit := 5 })] } }.setFld (R.SCH_CLASS_GUAR_min_rate 3) 200,
      3,
      2, by decide⟩,
    ⟨{ State.reset with pnl := { groups := [(2, { wire := some ⟨1, 1, 35, 0, 2, 1, 7, false, 1, 0⟩ })] }, sch := { nodes := [(35, { openTime := 10000, sent := 3, credit := 5 })] } }.setFld (R.SCH_CLASS_GUAR_min_rate 3) 200,
      2,
      3,
      ⟨1, 1, 35, 0, 2, 1, 7, false, 1, 0⟩, by decide⟩,
    ⟨{ State.reset with ptp := { State.reset.ptp with f := 1000000 }, sch := {}, dmg := { regions := [(1, { state := 1, node := 35, tag := 77, since := 5 })] } }.setFld (R.SCH_CLASS_GUAR_max_delay 3) 2,
      1, by decide⟩,
    ⟨{ State.reset with ptp := { State.reset.ptp with f := 1000000 }, sch := {}, dmg := { regions := [(1, { state := 1, node := 35, tag := 77, since := 5 })] } },
      35, by decide⟩⟩

/-- States and operands that meet the hypotheses of each clause of `SchedulerCommandsWriteClassesGuaranteesMapsAndGates`. -/
theorem witness_SchedulerCommandsWriteClassesGuaranteesMapsAndGates :
    (∃ (s : State) (bus : Bus) (id : Nat) (c : Cmd) (q : Nat),
      (Startable s id .classSet c) ∧ (q < 16) ∧ ((c.p 8 2).testBit q = true)) ∧
    (∃ (s : State) (bus : Bus) (id : Nat) (c : Cmd),
      (Startable s id .guaranteeSet c) ∧ ((c.pb 8 0 4 = 0 → ∀ i, i < 15 → s.prec (i + 1) ≤ c.pb 9 0 4)) ∧ ((c.pb 8 0 4 ≠ 0 → c.pb 9 0 4 ≤ s.prec 0))) ∧
    (∃ (s : State) (bus : Bus) (id : Nat) (c : Cmd) (r : Nat),
      (Startable s id .regionMapSet c) ∧ (s.gridOn = true) ∧ (c.p 16 2 ≠ 0) ∧ (c.p 18 2 ≠ 0) ∧ (c.p 12 2 + c.p 16 2 ≤ s.gx) ∧ (c.p 14 2 + c.p 18 2 ≤ s.gy) ∧ (c.p 22 1 ≠ 0) ∧ (r ∈ s.regionBlock (c.p 12 2) (c.p 12 2 + c.p 16 2) (c.p 14 2) (c.p 14 2 + c.p 18 2)) ∧ ((c.flag 21 0 = true → s.servesSeg (c.pb 20 4 4) (s.segOfRegion r) = true))) ∧
    (∃ (s : State) (bus : Bus) (id : Nat) (c : Cmd) (q : Nat),
      (Startable s id .gateListSet c) ∧ (q < 16) ∧ ((c.p 28 2).testBit q = true) ∧ (c.flag 31 1 = false) ∧ (0 < c.pb 30 0 7) ∧ (c.pb 30 0 7 ≤ 64) ∧ (1000 ≤ c.p 24 4) ∧ (c.p 24 4 ≤ 1000000000) ∧ (bus.bad = []) ∧ ((∀ i, i < c.pb 30 0 7 → 100 ≤ bitsOf (leNat ((List.range 8).map fun j => busByte bus (c.p 8 8 + 8 * i + j))) 16 32 ∧ bitsOf (leNat ((List.range 8).map fun j => busByte bus (c.p 8 8 + 8 * i + j))) 48 16 = 0)) ∧ (s.now ≤ c.p 16 8) ∧ (s.deferFull c = false) ∧ ((∀ g, (s.gates g).waiting = none))) ∧
    (∃ (s : State) (q : Nat) (l : GateList),
      ((s.gates q).waiting = some l) ∧ (l.entries ≠ []) ∧ (l.entries.length ≤ 64) ∧ (q < 16)) ∧
    (∃ (s : State) (bus : Bus) (id : Nat) (c : Cmd),
      (Startable s id .schedStatsRead c) ∧ (c.flag 18 0 = false) ∧ (c.flag 18 1 = false) ∧ (bus.bad = []) ∧ (c.itemList = false) ∧ ((∀ k, (s.node k).depthHist.length = 16 ∧ (s.node k).delayHist.length = 16))) ∧
    (∃ (s : State) (bus : Bus) (id : Nat) (c : Cmd) (k : Nat),
      (Startable s id .schedStatsRead c) ∧ (c.flag 18 0 = false) ∧ (bus.bad = []) ∧ (c.flag 18 1 = true) ∧ (k < 256) ∧ ((c.p 16 2).testBit (k / 16) = true)) :=
  ⟨⟨withCmd { State.reset with sch := { nodes := [(35, { credit := 999999999999 })] } } (cmdWith 3 1 .classSet [6, 0, 3, 0, 1, 2, 3, 4, 5, 6, 7, 8]),
      {},
      3,
      cmdWith 3 1 .classSet [6, 0, 3, 0, 1, 2, 3, 4, 5, 6, 7, 8],
      2, by decide⟩,
    ⟨withCmd (State.reset.setReg (R.SCH_CLASS_PREC 0) 15) (cmdWith 3 1 .guaranteeSet [3, 12, 1, 2, 3, 4]),
      {},
      3,
      cmdWith 3 1 .guaranteeSet [3, 12, 1, 2, 3, 4], by decide⟩,
    ⟨withCmd (withGrid State.reset) (cmdWith 3 1 .regionMapSet [0, 0, 0, 0, 0, 0, 0, 0, 2, 0, 1, 0, 0x53, 1, 7, 0]),
      {},
      3,
      cmdWith 3 1 .regionMapSet [0, 0, 0, 0, 0, 0, 0, 0, 2, 0, 1, 0, 0x53, 1, 7, 0],
      1, by decide⟩,
    ⟨withCmd { State.reset with sch := {}, ptp := { State.reset.ptp with oSec := 0, f := 77 } } (cmdWith 3 1 .gateListSet ([0, 0, 0, 0, 0, 0, 0, 0, 0, 0, 1, 0, 0, 0, 0, 0, 0, 0, 1, 0, 4, 1, 2, 0])),
      { mem := [(0, 3#8), (2, 200#8), (8, 1#8), (10, 100#8)] },
      3,
      cmdWith 3 1 .gateListSet ([0, 0, 0, 0, 0, 0, 0, 0, 0, 0, 1, 0, 0, 0, 0, 0, 0, 0, 1, 0, 4, 1, 2, 0]),
      2, by decide, by decide, by decide, by decide, by decide, by decide, by decide, by decide, by decide, by decide, by decide, by decide, fun _ => rfl⟩,
    ⟨{ State.reset with sch := { gates := [(2, { waiting := some ⟨[(5, 1000), (3, 4000)], 0, 5000, 0, 9⟩, waitStart := 44 })] } },
      2,
      ⟨[(5, 1000), (3, 4000)], 0, 5000, 0, 9⟩, by decide⟩,
    ⟨withCmd State.reset (cmdWith 3 1 .schedStatsRead (List.replicate 8 0 ++ [6, 0])),
      {},
      3,
      cmdWith 3 1 .schedStatsRead (List.replicate 8 0 ++ [6, 0]), by decide, by decide, by decide, by decide, by decide, fun _ => ⟨rfl, rfl⟩⟩,
    ⟨withCmd State.reset (cmdWith 3 1 .schedStatsRead (List.replicate 8 0 ++ [6, 0, 2])),
      {},
      3,
      cmdWith 3 1 .schedStatsRead (List.replicate 8 0 ++ [6, 0, 2]),
      37, by decide⟩⟩

/-- States and operands that meet the hypotheses of each clause of `RegionBurstsStartEndSplitAndUnderrunOnTheWire`. -/
theorem witness_RegionBurstsStartEndSplitAndUnderrunOnTheWire :
    (∃ (s : State) (q : Nat) (j : Job) (stripes : List Stripe),
      (q < 16) ∧ (s.groupIn q = true) ∧ ((s.pg q).wire = none) ∧ (s.fld (R.PNL_GROUP_STATUS_held q) = 0) ∧ (s.nextBurst q = some j) ∧ (j.node / 16 = q) ∧ (ceilDiv (40 + j.rowBytes) 4096 ≤ (s.pg q).available)) ∧
    (∃ (s : State) (q : Nat) (j : Job) (stripes : List Stripe),
      (s.groupIn q = true) ∧ ((s.pg q).wire = none) ∧ (s.fld (R.PNL_GROUP_STATUS_held q) = 0) ∧ (s.nextBurst q = some j) ∧ ((s.pg q).available < ceilDiv (40 + j.rowBytes) 4096) ∧ (s.fld (R.PNL_GROUP_STATUS_stalled q) = 0) ∧ (q < 16)) ∧
    (∃ (s : State) (q : Nat) (j : Job) (st : Stripe),
      (q < 16) ∧ (s.groupIn q = true) ∧ ((s.pg q).wire = none) ∧ (s.fld (R.PNL_GROUP_STATUS_held q) = 0) ∧ (s.nextBurst q = some j) ∧ (j.node / 16 = q) ∧ (ceilDiv (40 + j.rowBytes) 4096 ≤ (s.pg q).available)) ∧
    (∃ (s : State) (q : Nat) (w : Wire) (j : Job),
      (q < 16) ∧ ((s.pg q).wire = some w) ∧ (s.job? w.job = some j) ∧ (s.fld (R.PNL_GROUP_STATUS_held q) = 0) ∧ ((w.first + w.rows) * j.rowRays ≤ j.ready) ∧ (s.coversPiece q w w.rows = true) ∧ (w.first + w.rows ≠ j.rows.length) ∧ (j.cut = false)) ∧
    (∃ (s : State) (q : Nat) (w : Wire) (j : Job),
      ((s.pg q).wire = some w) ∧ (s.job? w.job = some j) ∧ (s.fld (R.PNL_GROUP_STATUS_held q) = 0) ∧ ((w.first + w.rows) * j.rowRays ≤ j.ready) ∧ (s.coversPiece q w w.rows = true) ∧ (w.first + w.rows = j.rows.length) ∧ ((s.region j.region).state = 3)) ∧
    (∃ (s : State) (q rows : Nat) (w : Wire) (j : Job),
      (q < 16) ∧ ((s.pg q).wire = some w) ∧ (s.job? w.job = some j) ∧ (s.fld (R.PNL_GROUP_STATUS_held q) = 0) ∧ (s.gateOpen q (w.node % 16) = false) ∧ (0 < rows) ∧ (rows < w.rows) ∧ ((w.first + rows) * j.rowRays ≤ j.ready) ∧ (s.coversPiece q w rows = true) ∧ (j.node / 16 = q) ∧ (j.started = true) ∧ (j.asked = false)) ∧
    (∃ (s : State) (q row : Nat) (w : Wire) (j : Job),
      (q < 16) ∧ ((s.pg q).wire = some w) ∧ (s.job? w.job = some j) ∧ (s.fld (R.PNL_GROUP_STATUS_held q) = 0) ∧ (w.first ≤ row) ∧ (row < w.first + w.rows) ∧ (s.inBounds = true) ∧ (row * j.rowRays ≤ j.ready) ∧ (j.ready < (row + 1) * j.rowRays) ∧ (s.coversPiece q w (row + 1 - w.first) = true) ∧ ((s.region j.region).state = 3)) :=
  ⟨⟨(({ State.reset with pnl := { groups := [(2, { requests := [1], g := 100, seq := 4294967295 })] }, dmg := {}, sch := { jobs := [{ id := 1, region := 1, node := 35, bay := 3, bytes := 100, left := 100, stage := .buffered, rows := [[1#8], [2#8]], rays := 2 }] } }.setFld (R.PNL_GROUP_STATUS_held 2) 0).setFld (R.PNL_GROUP_STATUS_in_service 2) 1),
      2,
      { id := 1, region := 1, node := 35, bay := 3, bytes := 100, left := 100, stage := .buffered, rows := [[1#8], [2#8]], rays := 2 },
      [], by decide⟩,
    ⟨(({ State.reset with pnl := { groups := [(2, { requests := [1] })] }, dmg := {}, sch := { jobs := [{ id := 1, region := 1, node := 35, bay := 3, bytes := 100, left := 100, stage := .buffered, rows := [[1#8], [2#8]], rays := 2 }] } }.setFld (R.PNL_GROUP_STATUS_held 2) 0).setFld (R.PNL_GROUP_STATUS_in_service 2) 1).setFld (R.PNL_GROUP_STATUS_stalled 2) 0,
      2,
      { id := 1, region := 1, node := 35, bay := 3, bytes := 100, left := 100, stage := .buffered, rows := [[1#8], [2#8]], rays := 2 },
      [], by decide⟩,
    ⟨(({ State.reset with pnl := { groups := [(2, { requests := [1], g := 100, seq := 4294967295 })] }, dmg := {}, sch := { jobs := [{ id := 1, region := 1, node := 35, bay := 3, bytes := 100, left := 100, stage := .buffered, rows := [[1#8], [2#8]], rays := 2 }] } }.setFld (R.PNL_GROUP_STATUS_held 2) 0).setFld (R.PNL_GROUP_STATUS_in_service 2) 1),
      2,
      { id := 1, region := 1, node := 35, bay := 3, bytes := 100, left := 100, stage := .buffered, rows := [[1#8], [2#8]], rays := 2 },
      { words := [(0, 5), (7, 9)] }, by decide⟩,
    ⟨{ State.reset with pnl := { groups := [(2, { wire := some ⟨1, 1, 35, 0, 1, 1, 7, false, 1, 0⟩, g := 100 })] }, sch := { jobs := [{ id := 1, region := 1, node := 35, bay := 3, bytes := 100, left := 100, stage := .buffered, rows := [[1#8], [2#8]], rays := 2, ready := 2 }] } }.setFld (R.PNL_GROUP_STATUS_held 2) 0,
      2,
      ⟨1, 1, 35, 0, 1, 1, 7, false, 1, 0⟩,
      { id := 1, region := 1, node := 35, bay := 3, bytes := 100, left := 100, stage := .buffered, rows := [[1#8], [2#8]], rays := 2, ready := 2 }, by decide⟩,
    ⟨{ State.reset with dmg := { regions := [(1, { state := 3, node := 35, tag := 6 })] }, pnl := { groups := [(2, { wire := some ⟨1, 1, 35, 0, 2, 1, 7, false, 1, 0⟩, g := 100 })] }, sch := { jobs := [{ id := 1, region := 1, node := 35, bay := 3, bytes := 100, left := 100, stage := .buffered, rows := [[1#8], [2#8]], rays := 2, ready := 2 }] } }.setFld (R.PNL_GROUP_STATUS_held 2) 0,
      2,
      ⟨1, 1, 35, 0, 2, 1, 7, false, 1, 0⟩,
      { id := 1, region := 1, node := 35, bay := 3, bytes := 100, left := 100, stage := .buffered, rows := [[1#8], [2#8]], rays := 2, ready := 2 }, by decide⟩,
    ⟨{ State.reset with pnl := { groups := [(2, { wire := some ⟨1, 1, 35, 0, 2, 1, 7, false, 1, 0⟩, g := 100 })] }, sch := { gates := [(2, { active := some ⟨[(1, 1000)], 0, 1000, 0, 0⟩ })], jobs := [{ id := 1, region := 1, node := 35, bay := 3, bytes := 100, left := 100, stage := .buffered, rows := [[1#8], [2#8]], rays := 2, ready := 2, started := true }] } },
      2,
      1,
      ⟨1, 1, 35, 0, 2, 1, 7, false, 1, 0⟩,
      { id := 1, region := 1, node := 35, bay := 3, bytes := 100, left := 100, stage := .buffered, rows := [[1#8], [2#8]], rays := 2, ready := 2, started := true }, by decide⟩,
    ⟨{ withGrid State.reset with dmg := { regions := [(1, { state := 3, node := 35, tag := 6 })] }, pnl := { groups := [(2, { wire := some ⟨1, 1, 35, 0, 2, 1, 7, false, 1, 0⟩, g := 100 })] }, sch := { jobs := [{ id := 1, region := 1, node := 35, bay := 3, bytes := 100, left := 100, stage := .synth, rows := [[1#8], [2#8]], rays := 2, ready := 1 }] } }.setFld (R.PNL_GROUP_STATUS_held 2) 0,
      2,
      1,
      ⟨1, 1, 35, 0, 2, 1, 7, false, 1, 0⟩,
      { id := 1, region := 1, node := 35, bay := 3, bytes := 100, left := 100, stage := .synth, rows := [[1#8], [2#8]], rays := 2, ready := 1 }, by decide⟩⟩

/-- States and operands that meet the hypotheses of each clause of `TeEdgesRowsAndFreeRunDriveTheSegments`. -/
theorem witness_TeEdgesRowsAndFreeRunDriveTheSegments :
    (∃ (s : State) (g : Nat) (rising : Bool),
      (g < 4) ∧ (s.hasSeg g = true) ∧ (bit (!rising) = s.fld (R.PNL_TE_CFG_edge g)) ∧ ((s.seg g).lastTe.all (fun f => decide (s.framePeriod ≤ 2 * (s.ptp.f - f))) = true) ∧ ((s.seg g).early = none) ∧ ((s.setSeg g { s.seg g with lastPin := some s.ptp.f }).teFromPin g = true)) ∧
    (∃ (s : State) (g : Nat) (rising : Bool) (f : Nat),
      (s.hasSeg g = true) ∧ (bit (!rising) = s.fld (R.PNL_TE_CFG_edge g)) ∧ ((s.seg g).lastTe = some f) ∧ (2 * (s.ptp.f - f) < s.framePeriod)) ∧
    (∃ (s : State) (g frame : Nat),
      (g < 4) ∧ (s.hasSeg g = true) ∧ ((s.seg g).teSeen.contains (frame % 2 ^ 32) = false) ∧ ((s.seg g).byPin = false) ∧ (s.teFromPin g = false)) ∧
    (∃ (s : State) (g frame : Nat),
      (s.hasSeg g = true) ∧ (((s.seg g).teSeen.contains (frame % 2 ^ 32) = true))) ∧
    (∃ (s : State) (g frame : Nat),
      (g < 4) ∧ (s.hasSeg g = true) ∧ ((s.seg g).teSeen.contains (frame % 2 ^ 32) = false) ∧ ((s.seg g).lastTe = none) ∧ (s.teFromPin g = true)) ∧
    (∃ (s : State) (g row frame : Nat),
      (g < 4) ∧ (s.hasSeg g = true) ∧ ((s.seg g).rowsSeen.contains (frame, row) = false)) ∧
    (∃ (s : State) (g row frame : Nat),
      (g < 4) ∧ (s.hasSeg g = true) ∧ ((s.seg g).rowsSeen.contains (frame, row) = false)) ∧
    (∃ (s : State) (g : Nat),
      ((s.hasSeg g = true ∨ g = 0)) ∧ ((s.seg g).freeRun = false)) ∧
    (∃ (s : State) (g : Nat),
      ((s.seg g).freeRun = true)) :=
  ⟨⟨(({ withGeom State.reset with pnl := {}, ptp := { State.reset.ptp with f := 1000 } }.setFld (R.PNL_TE_CFG_source 0) 1).setFld (R.PNL_TE_CFG_edge 0) 0),
      0,
      true, by decide⟩,
    ⟨(({ withGeom State.reset with pnl := { segs := [(0, { lastTe := some 900 })] }, ptp := { State.reset.ptp with f := 1000 } }.setFld (R.PNL_TE_CFG_source 0) 1).setFld (R.PNL_TE_CFG_edge 0) 0),
      0,
      true,
      900, by decide⟩,
    ⟨({ withGeom State.reset with pnl := { teLatency := 30 }, ptp := { State.reset.ptp with f := 1000 } }.setFld (R.PNL_TE_CFG_source 0) 2),
      0,
      77, by decide⟩,
    ⟨{ withGeom State.reset with pnl := { segs := [(0, { teSeen := [78, 77] })] } },
      0,
      77, by decide⟩,
    ⟨{ withGeom State.reset with pnl := {}, ptp := { State.reset.ptp with f := 1000 } }.setFld (R.PNL_TE_CFG_source 0) 1,
      0,
      77, by decide⟩,
    ⟨{ withGeom State.reset with pnl := { teLatency := 30 } },
      0,
      7,
      77, by decide⟩,
    ⟨({ withGeom State.reset with pnl := { rowReports := true, segs := [(0, { aplDue := [2] })] } }.setReg (R.PNL_SEG_PARAM 0 2) 99).setFld (R.PNL_APPLY_ROW_row 0) 5,
      0,
      7,
      77, by decide⟩,
    ⟨withGeom { State.reset with pnl := {} },
      0, by decide⟩,
    ⟨withGeom { State.reset with pnl := { segs := [(0, { freeRun := true })] } },
      0, by decide⟩⟩

/-- States and operands that meet the hypotheses of each clause of `BackChannelMessagesCreditHoldAndReportFaults`. -/
theorem witness_BackChannelMessagesCreditHoldAndReportFaults :
    (∃ (s : State) (q code violations : Nat),
      (q < 16) ∧ (code ≠ 0)) ∧
    (∃ (s : State) (q violations : Nat),
      (q < 16)) ∧
    (∃ (s : State) (q count due : Nat),
      (q < 16) ∧ (s.link = 3) ∧ ((s.pg q).wire = none) ∧ ((count % 2 ^ 32 + 2 ^ 32 - (s.pg q).base) % 2 ^ 32 ≤ (s.pg q).outstanding)) ∧
    (∃ (s : State) (q count due : Nat),
      (q < 16) ∧ (s.link = 3) ∧ ((s.pg q).restarting = true)) ∧
    (∃ (s : State) (q lanes ucw worst : Nat),
      (q < 16) ∧ (s.link = 3) ∧ (worst < 12) ∧ (s.nextMask q &&& (4095 - lanes % 4096) = 0) ∧ (ucw ≤ s.fld (R.PNL_GROUP_CFG_ucw_limit q))) ∧
    (∃ (s : State) (q lanes : Nat),
      (q < 16) ∧ (s.link = 3) ∧ (s.nextMask q &&& (4095 - lanes % 4096) ≠ 0) ∧ (s.hst.held = [])) ∧
    (∃ (s : State) (q seq reason : Nat) (p : Piece),
      (q < 16) ∧ (s.link = 3) ∧ (((s.pg q).pieces.filter fun p => p.seq == seq).getLast? = some p) ∧ (p.stale = false) ∧ (s.inBounds = true)) ∧
    (∃ (s : State) (q lane taps ctl : Nat),
      (q < 16) ∧ (lane < 12) ∧ ((s.pg q).training.testBit lane = true) ∧ (ctl.testBit 4 = false) ∧ (ctl.testBit 0 = false)) ∧
    (∃ (s : State) (q : Nat),
      (q < 16) ∧ (s.link = 3) ∧ (s.fld (R.PNL_GROUP_STATUS_bc_up q) = 1) ∧ (s.fld (R.PNL_GROUP_STATUS_held q) = 0)) ∧
    (∃ (s : State) (q at_ : Nat),
      (q < 16) ∧ (s.fld (R.PNL_GROUP_STATUS_held q) = 1) ∧ ((s.pg q).heldAt = some at_)) ∧
    (∃ (s : State) (q at_ : Nat),
      (s.fld (R.PNL_GROUP_STATUS_held q) = 1) ∧ ((s.pg q).heldAt = some at_) ∧ ((s.pg q).longSaid = false)) ∧
    (∃ (s : State) (q row written : Nat),
      (q < 16) ∧ (s.fld (R.PNL_GROUP_STATUS_bc_up q) = 1) ∧ (s.inBounds = true)) ∧
    (∃ (s : State) (q : Nat) (inverted : Bool),
      (q < 16) ∧ (s.fld (R.PNL_GROUP_STATUS_bc_up q) = 0) ∧ (s.link = 3) ∧ ((s.pg q).creditShort = false)) :=
  ⟨⟨State.reset,
      2,
      2,
      3, by decide⟩,
    ⟨State.reset,
      2,
      3, by decide⟩,
    ⟨{ State.reset with pnl := { groups := [(2, { g := 100, u := 50, base := 4294967290 })] } }.setFld R.PNL_LINK_STATUS_state 3,
      2,
      4,
      1, by decide⟩,
    ⟨{ State.reset with pnl := { groups := [(2, { g := 100, u := 50, base := 4294967290, restarting := true, heldAt := some 5 })] } }.setFld R.PNL_LINK_STATUS_state 3,
      2,
      4,
      1, by decide⟩,
    ⟨(({ State.reset with pnl := { groups := [(2, { trained := 5 })] } }.setFld R.PNL_LINK_STATUS_state 3).setFld (R.PNL_GROUP_CFG_ucw_limit 2) 9),
      2,
      0xFFF,
      9,
      3, by decide⟩,
    ⟨(({ State.reset with hst := {}, pnl := { groups := [(2, { trained := 5 })] } }.setFld R.PNL_LINK_STATUS_state 3)),
      2,
      0xFFB, by decide⟩,
    ⟨{ withGrid State.reset with pnl := { groups := [(2, { pieces := [⟨7, 1, 3, false, false⟩] })] } }.setFld R.PNL_LINK_STATUS_state 3,
      2,
      7,
      3,
      ⟨7, 1, 3, false, false⟩, by decide⟩,
    ⟨{ State.reset with pnl := { groups := [(2, { training := 8 })] } },
      2,
      3,
      0x64,
      0, by decide⟩,
    ⟨((State.reset.setFld R.PNL_LINK_STATUS_state 3).setFld (R.PNL_GROUP_STATUS_bc_up 2) 1).setFld (R.PNL_GROUP_STATUS_held 2) 0,
      2, by decide⟩,
    ⟨{ State.reset with ptp := { State.reset.ptp with f := 9000 }, pnl := { groups := [(2, { heldAt := some 1000, longSaid := true })] } }.setFld (R.PNL_GROUP_STATUS_held 2) 1,
      2,
      1000, by decide⟩,
    ⟨{ State.reset with ptp := { State.reset.ptp with f := 9000 }, pnl := { groups := [(2, { heldAt := some 1000 })] } }.setFld (R.PNL_GROUP_STATUS_held 2) 1,
      2,
      1000, by decide⟩,
    ⟨((({ withGrid State.reset with pnl := { groups := [(2, { g := 100, u := 50, trained := 5 })] } }.setFld (R.PNL_GROUP_STATUS_bc_up 2) 1).setFld (R.PNL_GROUP_STATUS_in_service 2) 1)),
      2,
      0,
      0, by decide⟩,
    ⟨({ State.reset with pnl := { groups := [(2, { lockOut := true })] } }.setFld R.PNL_LINK_STATUS_state 3).setFld (R.PNL_GROUP_STATUS_bc_up 2) 0,
      2,
      true, by decide⟩⟩

/-- States and operands that meet the hypotheses of each clause of `LinkTrainsComesUpAndChangesLanes`. -/
theorem witness_LinkTrainsComesUpAndChangesLanes :
    (∃ (s : State) (q p : Nat),
      (q < 16) ∧ (p < 12) ∧ (s.link = 3) ∧ ((s.nextMask q).testBit p = true) ∧ (s.hst.held = [])) ∧
    (∃ (s : State) (q row written : Nat) (m : LaneMap),
      (q < 16) ∧ (s.link = 3) ∧ ((s.pg q).map = some m) ∧ (m.mask < 4096) ∧ (s.groupIn q = true) ∧ (s.fld (R.PNL_GROUP_CFG_min_lanes q) ≤ popCount 12 m.mask) ∧ (m.waiters = []) ∧ ((s.pg q).trained < 4096)) ∧
    (∃ (s : State),
      (s.link = 1)) ∧
    (∃ (s : State) (p k : Nat),
      (p < 4) ∧ (k < 8) ∧ ((s.wp p).training.testBit k = true)) ∧
    (∃ (s : State) (p : Nat),
      (p < 8)) ∧
    (∃ (s : State),
      (s.link = 4) ∧ (s.hst.held = [])) ∧
    (∃ (s : State),
      (s.link = 3) ∧ (s.hst.held = []) ∧ (s.inBounds = true)) ∧
    (∃ (s : State) (q : Nat) (bytes : List Byte),
      (q < 16) ∧ (s.link = 2) ∧ (s.fld (R.PNL_GROUP_STATUS_bc_up q) = 1) ∧ (4 ≤ bytes.length) ∧ (crc32c (bytes.take (bytes.length - 4)) = leAt bytes (bytes.length - 4) 4) ∧ ((parseDesc bytes).fault = none) ∧ (s.inBounds = true) ∧ (s.hst.held = [])) ∧
    (∃ (s : State) (q k : Nat) (bytes : List Byte),
      (q < 16) ∧ (s.link = 2) ∧ (s.fld (R.PNL_GROUP_STATUS_bc_up q) = 1) ∧ (4 ≤ bytes.length) ∧ (crc32c (bytes.take (bytes.length - 4)) = leAt bytes (bytes.length - 4) 4) ∧ ((parseDesc bytes).fault = some k)) :=
  ⟨⟨(({ State.reset with hst := {}, pnl := { groups := [(2, { trained := 5 })] } }.setFld R.PNL_LINK_STATUS_state 3)),
      2,
      2, by decide⟩,
    ⟨((({ withGrid State.reset with pnl := { groups := [(2, { trained := 5, map := some ⟨4, 2, []⟩ })] } }.setFld R.PNL_LINK_STATUS_state 3)).setFld (R.PNL_GROUP_STATUS_in_service 2) 1).setFld (R.PNL_GROUP_CFG_min_lanes 2) 1,
      2,
      0,
      0,
      ⟨4, 2, []⟩, by decide⟩,
    ⟨{ State.reset with pnl := { groups := [(2, { trained := 5 })] } }.setFld R.PNL_LINK_STATUS_state 1, by decide⟩,
    ⟨{ State.reset with wvl := { ports := [(2, { training := 5 })] } },
      2,
      2, by decide⟩,
    ⟨State.reset.setFld (R.LAN_STATUS_state 213) 2,
      2, by decide⟩,
    ⟨{ State.reset with hst := {} }.setFld R.PNL_LINK_STATUS_state 4, by decide⟩,
    ⟨{ withGrid State.reset with hst := {}, dmg := { regions := [(0, { state := 3 }), (1, { state := 2 })] }, sch := { jobs := [{ id := 1, region := 1, node := 35, bay := 3, bytes := 100, left := 100 }] }, pnl := { groups := [(2, { trained := 5, wire := some { job := 1, region := 1, node := 35, first := 0, rows := 1, rowBytes := 1, seq := 7, cont := false } })] } }.setFld R.PNL_LINK_STATUS_state 3, by decide⟩,
    ⟨({ State.reset with hst := {}, scn := {}, glu := {}, dmg := {}, pnl := {}, active := [], regs := [] }.setFld R.PNL_LINK_STATUS_state 2).setFld (R.PNL_GROUP_STATUS_bc_up 2) 1,
      2,
      descBytes, by decide⟩,
    ⟨(State.reset.setFld R.PNL_LINK_STATUS_state 2).setFld (R.PNL_GROUP_STATUS_bc_up 2) 1,
      2,
      1,
      List.replicate 8 0#8 ++ leBytes 4 (crc32c (List.replicate 8 0#8)), by decide⟩⟩

/-- States and operands that meet the hypotheses of each clause of `LinkResetsAndWorvelLanesTrainAndService`. -/
theorem witness_LinkResetsAndWorvelLanesTrainAndService :
    (∃ (s : State) (bus : Bus) (id : Nat) (c : Cmd),
      (Startable s id .linkReset c) ∧ (c.p 10 2 ≠ 0) ∧ ((s.link = 1 ∨ s.link = 2)) ∧ (s.deferFull c = false) ∧ (s.pnl.reset = none) ∧ (c.flag 8 0 = false)) ∧
    (∃ (s : State) (bus : Bus) (id : Nat) (c : Cmd),
      (Startable s id .linkReset c) ∧ (c.p 10 2 ≠ 0) ∧ (s.deferFull c = false) ∧ (s.pnl.reset = none) ∧ (c.flag 8 0 = true) ∧ (s.hst.held = []) ∧ (s.inBounds = true)) ∧
    (∃ (s : State) (id at_ : Nat) (c : Cmd),
      (s.pnl.reset = some (id, at_)) ∧ (s.cmdOf id = some c)) ∧
    (∃ (s : State) (bus : Bus) (id : Nat) (c : Cmd),
      (Startable s id .laneService c) ∧ (c.pb 10 0 12 ≠ 0) ∧ (s.deferFull c = false) ∧ (c.flag 9 0 = false) ∧ (s.link ≠ 0) ∧ (s.link ≠ 4) ∧ (s.hst.held = [])) ∧
    (∃ (s : State) (bus : Bus) (id : Nat) (c : Cmd),
      (Startable s id .laneService c) ∧ (c.pb 10 0 12 ≠ 0) ∧ (s.deferFull c = false) ∧ (c.flag 9 0 = true) ∧ (s.nextMask (c.pb 8 0 4) &&& c.pb 10 0 12 = 0) ∧ (c.pb 10 0 12 &&& s.fld (R.PNL_GROUP_CFG_lane_enable (c.pb 8 0 4)) = c.pb 10 0 12)) ∧
    (∃ (s : State) (p k : Nat),
      (p < 4) ∧ (((s.wp p).map.getD (s.wp p).work).testBit k = true)) ∧
    (∃ (s : State) (p row written m : Nat),
      (p < 4) ∧ ((s.wp p).map = some m) ∧ ((s.wp p).work < 256)) ∧
    (∃ (s : State) (p : Nat),
      (p < 4) ∧ (s.walled = true)) :=
  ⟨⟨withCmd ({ State.reset with pnl := {} }.setFld R.PNL_LINK_STATUS_state 1) (cmdWith 3 1 .linkReset [0, 0, 5, 0]),
      {},
      3,
      cmdWith 3 1 .linkReset [0, 0, 5, 0], by decide⟩,
    ⟨withCmd ({ withGrid State.reset with hst := {}, pnl := {}, cmd := {} }.setFld R.PNL_LINK_STATUS_state 3) (cmdWith 3 1 .linkReset [1, 0, 5, 0]),
      {},
      3,
      cmdWith 3 1 .linkReset [1, 0, 5, 0], by decide⟩,
    ⟨withCmd { State.reset with pnl := { reset := some (3, 99) } } (cmdWith 3 1 .linkReset [1, 0, 5, 0]),
      3,
      99,
      cmdWith 3 1 .linkReset [1, 0, 5, 0], by decide⟩,
    ⟨withCmd ({ State.reset with hst := {}, pnl := { groups := [(2, { trained := 7 })] } }.setFld R.PNL_LINK_STATUS_state 3) (cmdWith 3 1 .laneService [2, 0, 3, 0]),
      {},
      3,
      cmdWith 3 1 .laneService [2, 0, 3, 0], by decide⟩,
    ⟨withCmd ({ State.reset with hst := {}, pnl := { groups := [(2, { trained := 4 })] } }.setFld (R.PNL_GROUP_CFG_lane_enable 2) 4095) (cmdWith 3 1 .laneService [2, 1, 3, 0]),
      {},
      3,
      cmdWith 3 1 .laneService [2, 1, 3, 0], by decide⟩,
    ⟨{ State.reset with wvl := { ports := [(2, { work := 5 })] } },
      2,
      2, by decide⟩,
    ⟨{ State.reset with wvl := { ports := [(2, { work := 5, map := some 4 })] } },
      2,
      0,
      0,
      4, by decide⟩,
    ⟨(State.reset.setFld R.WVL_WALL_CFG_enable 1).setFld (R.LAN_STATUS_state 241) 5,
      2, by decide⟩⟩

/-- States and operands that meet the hypotheses of each clause of `SerialLanesIdleAdaptMeasureAndMoveTaps`. -/
theorem witness_SerialLanesIdleAdaptMeasureAndMoveTaps :
    (∃ (s : State) (q : Nat),
      (q < 16) ∧ (s.link = 3) ∧ (s.groupQuiet q = true) ∧ ((∀ i, i ∈ s.workingLanes q → s.fld (R.LAN_CFG_quiet_enable i) = 1))) ∧
    (∃ (s : State) (i ctle vga : Nat) (dfe levels : List Int),
      (192 ≤ i) ∧ (i < 256) ∧ (s.fld (R.LAN_CFG_adapt_freeze i) = 0) ∧ (s.fld (R.LAN_STATUS_state i) = 2)) ∧
    (∃ (s : State) (i ctle vga : Nat) (dfe levels : List Int),
      (192 ≤ i) ∧ (i < 256) ∧ (s.fld (R.LAN_CFG_adapt_freeze i) = 0) ∧ (s.fld (R.LAN_STATUS_state i) = 3) ∧ (Store.get (fun _ => 0) s.lan.movedAt i = 0)) ∧
    (∃ (s : State) (i ctle vga : Nat) (dfe levels : List Int),
      (s.fld (R.LAN_CFG_adapt_freeze i) = 1)) ∧
    (∃ (s : State) (i rms corrected since : Nat) (eyes : List (Nat × Nat)),
      (i < 256) ∧ ((s.fld (R.LAN_STATUS_state i) = 3 ∨ s.fld (R.LAN_STATUS_state i) = 4))) ∧
    (∃ (s : State) (bus : Bus) (id : Nat) (c : Cmd),
      (Startable s id .laneMeasure c) ∧ (s.lan.measures.all (fun m => m.cmd != id) = true) ∧ (6 ≤ c.pb 20 0 4) ∧ (c.pb 20 0 4 ≤ 9) ∧ (0 < c.p 18 2) ∧ (c.p 18 2 ≤ 16) ∧ (c.p 16 2 + c.p 18 2 ≤ 256) ∧ (s.deferFull c = false) ∧ ((∀ k, k < c.p 18 2 → s.fld (R.LAN_STATUS_state (c.p 16 2 + k)) = 3))) ∧
    (∃ (s : State) (bus : Bus) (id k : Nat) (c : Cmd) (m : Measure) (fig : List Nat),
      (s.cmdOf id = some c) ∧ (s.lan.measures = [m]) ∧ (m.cmd = id) ∧ (m.item = k) ∧ (m.running = true) ∧ (m.broken = false) ∧ (bus.bad = [])) ∧
    (∃ (s : State) (bus : Bus) (id : Nat) (c : Cmd),
      (Startable s id .laneTxSet c) ∧ (c.p 10 2 ≠ 0) ∧ (c.p 8 2 + c.p 10 2 ≤ 256) ∧ ((∀ k, k < c.p 10 2 → c.p 8 2 + k < 192 ∨ 224 ≤ c.p 8 2 + k)) ∧ (tapsOk [sext 8 (c.p 12 1), sext 8 (c.p 13 1), (c.p 14 1 : Int), sext 8 (c.p 15 1)] = false)) ∧
    (∃ (s : State) (bus : Bus) (id : Nat) (c : Cmd),
      (Startable s id .laneTxSet c) ∧ (c.p 10 2 = 1) ∧ ((c.p 8 2 < 192 ∨ (224 ≤ c.p 8 2 ∧ c.p 8 2 < 256))) ∧ (tapsOk [sext 8 (c.p 12 1), sext 8 (c.p 13 1), (c.p 14 1 : Int), sext 8 (c.p 15 1)] = true) ∧ (s.fld (R.LAN_STATUS_state (c.p 8 2)) ≠ 2)) ∧
    (∃ (s : State) (bus : Bus) (id : Nat) (c : Cmd),
      (Startable s id .laneTxSet c) ∧ (c.p 10 2 = 1) ∧ ((c.p 8 2 < 192 ∨ (224 ≤ c.p 8 2 ∧ c.p 8 2 < 256))) ∧ (tapsOk [sext 8 (c.p 12 1), sext 8 (c.p 13 1), (c.p 14 1 : Int), sext 8 (c.p 15 1)] = true) ∧ (s.fld (R.LAN_STATUS_state (c.p 8 2)) ≠ 2)) ∧
    (∃ (s : State) (i : Nat) (m : TapMove),
      (i < 256) ∧ (Store.get (fun _ => []) s.lan.asked i = []) ∧ (s.lan.moves.find? (fun m => m.lane == i) = some m) ∧ (s.fld (R.LAN_STATUS_state i) ≠ 2)) :=
  ⟨⟨((({ State.reset with sch := {}, pnl := { groups := [(2, { trained := 5 })] } }.setFld R.PNL_LINK_STATUS_state 3).setFld (R.LAN_STATUS_state 24) 3).setFld (R.LAN_CFG_quiet_enable 24) 1).setFld (R.LAN_CFG_quiet_enable 26) 1,
      2, by decide⟩,
    ⟨(State.reset.setFld (R.LAN_CFG_adapt_freeze 200) 0).setFld (R.LAN_STATUS_state 200) 2,
      200,
      20,
      30,
      [-200, 5],
      [1, 2, 3], by decide⟩,
    ⟨({ State.reset with lan := {} }.setFld (R.LAN_CFG_adapt_freeze 200) 0).setFld (R.LAN_STATUS_state 200) 3,
      200,
      20,
      30,
      [-200, 5],
      [1, 2, 3], by decide⟩,
    ⟨(State.reset.setFld (R.LAN_CFG_adapt_freeze 200) 1),
      200,
      20,
      30,
      [-200, 5],
      [1, 2, 3], by decide⟩,
    ⟨State.reset.setFld (R.LAN_STATUS_state 200) 3,
      200,
      70000,
      5,
      6,
      [(50, 40), (30, 20), (300, 9)], by decide⟩,
    ⟨withCmd (({ State.reset with lan := {} }.setFld (R.LAN_STATUS_state 200) 3).setFld (R.LAN_STATUS_state 201) 3) (cmdWith 3 1 .laneMeasure (List.replicate 8 0 ++ [200, 0, 2, 0, 7])),
      {},
      3,
      cmdWith 3 1 .laneMeasure (List.replicate 8 0 ++ [200, 0, 2, 0, 7]), by decide⟩,
    ⟨withCmd { State.reset with lan := { measures := [⟨3, 0, 200, true, false⟩] } } { cmdWith 3 1 .laneMeasure (List.replicate 8 0 ++ [200, 0, 1, 0, 7]) with phase := .deferred, items := [none] },
      {},
      3,
      0,
      { cmdWith 3 1 .laneMeasure (List.replicate 8 0 ++ [200, 0, 1, 0, 7]) with phase := .deferred, items := [none] },
      ⟨3, 0, 200, true, false⟩,
      [1, 2, 300, 4, 5, 6, 7], by decide⟩,
    ⟨withCmd State.reset (cmdWith 3 1 .laneTxSet [20, 0, 2, 0, 9, 0, 60, 0]),
      {},
      3,
      cmdWith 3 1 .laneTxSet [20, 0, 2, 0, 9, 0, 60, 0], by decide⟩,
    ⟨withCmd (State.reset.setFld (R.LAN_STATUS_state 20) 3) (cmdWith 3 1 .laneTxSet [20, 0, 1, 0, 0, 0, 60, 0]),
      {},
      3,
      cmdWith 3 1 .laneTxSet [20, 0, 1, 0, 0, 0, 60, 0], by decide⟩,
    ⟨withCmd ((State.reset.setFld (R.LAN_STATUS_state 20) 3).setTaps 20 [0, 0, 60, 0]) (cmdWith 3 1 .laneTxSet [20, 0, 1, 0, 0, 0, 60, 0]),
      {},
      3,
      cmdWith 3 1 .laneTxSet [20, 0, 1, 0, 0, 0, 60, 0], by decide⟩,
    ⟨({ State.reset with lan := { moves := [⟨3, 0, 20, [0, 0, 60, 0]⟩] } }.setFld (R.LAN_STATUS_state 20) 3).setTaps 20 [0, -1, 58, -2],
      20,
      ⟨3, 0, 20, [0, 0, 60, 0]⟩, by decide⟩⟩

/-- States and operands that meet the hypotheses of each clause of `BaysAndBentsSisterRetireTestDrainAndWake`. -/
theorem witness_BaysAndBentsSisterRetireTestDrainAndWake :
    (∃ (s : State) (bay e check ready : Nat),
      (bay < 64) ∧ (e < 8) ∧ (s.bayRetired bay = false) ∧ (s.spareFree bay = true) ∧ (s.inBounds = true)) ∧
    (∃ (s : State) (bay e check ready : Nat),
      (bay < 64) ∧ (e < 8) ∧ (s.bayRetired bay = false) ∧ (s.spareFree bay = false) ∧ (s.inBounds = true)) ∧
    (∃ (s : State) (bay e ready : Nat),
      (bay < 64) ∧ (e < 8) ∧ (s.bayRetired bay = false) ∧ (s.spareFree bay = true) ∧ (s.runsFree bay = true) ∧ (s.inBounds = true)) ∧
    (∃ (s : State) (bay : Nat) (x : BayTest),
      (bay < 64) ∧ (Store.get (fun _ => none) s.eng.tests bay = some x) ∧ (x.kind ≠ 1) ∧ (s.bayRetired bay = false) ∧ (Store.get (fun _ => none) s.eng.waking (bay / 8) = none) ∧ (x.waiters = [])) ∧
    (∃ (s : State) (bay : Nat) (x : BayTest),
      (bay < 64) ∧ (Store.get (fun _ => none) s.eng.tests bay = some x) ∧ (x.kind = 1) ∧ (x.waiters = [])) ∧
    (∃ (s : State) (b : Nat),
      (((List.range 8).map fun i => bentOrder.getD ((s.eng.lastBent + 1 + i) % 8) 0).find? (fun b =>     s.fld (R.ENG_BENT_STATUS_state b) == 0 && (Store.get (fun _ => none) s.eng.waking b).isNone &&     !s.pwc.shed.contains b && (bentZones b).all fun z => s.fld (R.THM_ZONE_crit z) == 0) = some b) ∧ (s.fld R.PWC_STATUS_state = 0) ∧ (s.baysFull = true) ∧ (s.hst.held = [])) ∧
    (∃ (s : State) (n : Nat) (d : Drain) (ready : List (Nat × Nat)),
      (n < 8) ∧ (Store.get (fun _ => none) s.eng.bents n = some d) ∧ ((∀ j, j < 8 → s.bayBusy (8 * n + j) = false)) ∧ (Store.get (fun _ => none) s.eng.resume n = none) ∧ ((d.target = 0 ∨ d.target = 4))) ∧
    (∃ (s : State) (q : Nat) (d : Drain) (ready : List (Nat × Nat)),
      (q < 64) ∧ (Store.get (fun _ => none) s.eng.bays q = some d) ∧ (s.bayBusy q = false) ∧ (d.target = 4) ∧ (s.inBounds = true)) ∧
    (∃ (s : State) (b : Nat) (ready : List (Nat × Nat)),
      (b < 8) ∧ (s.fld (R.ENG_BENT_STATUS_state b) ≠ 4) ∧ (s.inBounds = true)) ∧
    (∃ (s : State) (b : Nat) (ready : List (Nat × Nat)),
      (b < 8) ∧ (s.inBounds = true)) ∧
    (∃ (s : State) (b mhz : Nat),
      (b < 8) ∧ (Store.get (fun _ => none) s.eng.clockAsked b = some mhz) ∧ (s.sch.jobs.all (fun j => !(j.bay / 8 == b && j.stage == .synth && j.launched)) = true)) ∧
    (∃ (s : State) (bus : Bus) (id q : Nat) (c : Cmd),
      (Startable s id .bayService c) ∧ (c.p 8 8 = 2 ^ q) ∧ (q < 64) ∧ (c.pb 16 0 2 = 0) ∧ (((List.range 64).all fun x => !s.bayIn x || (2 ^ q).testBit x) = false) ∧ (s.deferFull c = false) ∧ (s.fld (R.ENG_BENT_STATUS_state (q / 8)) = 1) ∧ (Store.get (fun _ => none) s.eng.bays q = none) ∧ (Store.get (fun _ => none) s.eng.tests q = none) ∧ (s.bayRetired q = false) ∧ (s.fillOf q = none)) ∧
    (∃ (s : State) (bus : Bus) (id x : Nat) (c : Cmd),
      (Startable s id .bentService c) ∧ (x < 8) ∧ (c.p 8 1 = 2 ^ x) ∧ (c.flag 9 0 = false) ∧ (((List.range 64).all fun q => !s.bayIn q || (2 ^ x).testBit (q / 8)) = false) ∧ (s.deferFull c = false) ∧ (s.fld (R.ENG_BENT_STATUS_state x) = 1) ∧ (s.inBounds = true)) :=
  ⟨⟨((withGrid { State.reset with sch := { jobs := [{ id := 1, region := 1, node := 35, bay := 33, bytes := 100, left := 100, stage := .synth }] }, eng := {} }).setReg (R.ENG_BAY_MAP 4 1) (resetReg (R.ENG_BAY_MAP 4 1))),
      33,
      3,
      2,
      5, by decide⟩,
    ⟨((withGrid { State.reset with sch := { jobs := [{ id := 1, region := 1, node := 35, bay := 33, bytes := 100, left := 100, stage := .synth }] }, eng := {} }).setReg (R.ENG_BAY_MAP 4 1) 0),
      33,
      3,
      2,
      5, by decide⟩,
    ⟨((withGrid { State.reset with sch := { jobs := [{ id := 1, region := 1, node := 37, bay := 33, bytes := 100, left := 100, stage := .synth, rays := 9 }] }, eng := {}, dmg := {} }).setReg (R.ENG_BAY_MAP 4 1) (resetReg (R.ENG_BAY_MAP 4 1))),
      33,
      3,
      5, by decide⟩,
    ⟨({ State.reset with eng := { tests := [(33, some ⟨0, []⟩)] } }.setReg (R.ENG_BAY_MAP 4 1) 0),
      33,
      ⟨0, []⟩, by decide⟩,
    ⟨({ State.reset with eng := { tests := [(33, some ⟨1, []⟩)] } }.setReg (R.ENG_BAY_MAP 4 1) 0x70FF).setFld (R.ENG_BENT_STATUS_state 4) 1,
      33,
      ⟨1, []⟩, by decide⟩,
    ⟨((((({ State.reset with regs := [], active := [], eng := {}, pwc := {}, hst := {}, sch := {}, dmg := { regions := [(1, { state := 1 })] } }.setFld (R.ENG_BENT_STATUS_state 4) 0).setFld (R.THM_ZONE_crit 4) 0).setFld (R.THM_ZONE_crit 9) 0).setFld (R.THM_ZONE_crit 15) 0).setFld R.PWC_STATUS_state 0).setFld (R.ENG_BENT_STATUS_state 0) 1,
      4, by decide⟩,
    ⟨{ State.reset with sch := {}, eng := { bents := [(4, some ⟨4, 1, []⟩)] } },
      4,
      ⟨4, 1, []⟩,
      [], by decide⟩,
    ⟨withGrid { State.reset with sch := {}, eng := { bays := [(33, some ⟨4, 1, []⟩)] } },
      33,
      ⟨4, 1, []⟩,
      [], by decide⟩,
    ⟨(withGrid { State.reset with sch := {}, eng := {} }).setFld (R.ENG_BENT_STATUS_state 4) 1,
      4,
      [], by decide⟩,
    ⟨(withGrid { State.reset with sch := {}, eng := {} }).setFld (R.ENG_BENT_STATUS_state 4) 1,
      5,
      [], by decide⟩,
    ⟨{ State.reset with sch := {}, eng := { clockAsked := [(4, some 900)] } },
      4,
      900, by decide⟩,
    ⟨withCmd ((({ State.reset with sch := {}, eng := {} }.setFld (R.ENG_BENT_STATUS_state 4) 1).setFld (R.ENG_BAY_MAP_in_service 4 2) 1).setFld (R.ENG_BAY_MAP_retired 4 1) 0) (cmdWith 3 1 .bayService [0, 0, 0, 0, 2, 0, 0, 0, 0]),
      {},
      3,
      33,
      cmdWith 3 1 .bayService [0, 0, 0, 0, 2, 0, 0, 0, 0], by decide⟩,
    ⟨withCmd (((withGrid { State.reset with sch := {}, eng := {} }).setFld (R.ENG_BENT_STATUS_state 4) 1).setFld (R.ENG_BAY_MAP_in_service 5 2) 1 |>.setFld (R.ENG_BENT_STATUS_state 5) 1) (cmdWith 3 1 .bentService [16, 0]),
      {},
      3,
      4,
      cmdWith 3 1 .bentService [16, 0], by decide⟩⟩

/-- States and operands that meet the hypotheses of each clause of `WorvelPortsCheckHelloReturnCreditsAndTrain`. -/
theorem witness_WorvelPortsCheckHelloReturnCreditsAndTrain :
    (∃ (s : State) (p : Nat),
      (p < 4) ∧ (s.walled = true) ∧ ((s.wp p).work ≠ 0) ∧ (s.portIn p = false)) ∧
    (∃ (s : State) (p : Nat) (d : List Byte),
      (p < 4) ∧ (s.walled = true) ∧ ((s.wp p).work ≠ 0) ∧ (d.length = 16) ∧ (leAt d 0 4 = s.fld R.WVL_WALL_ID_id) ∧ (s.facing p = some (bitsOf (leAt d 4 1) 0 4, bitsOf (leAt d 4 1) 4 4)) ∧ (leAt d 5 1 = (p + 2) % 4) ∧ ((s.wp p).work &&& (s.wp p).rx ≠ 0) ∧ (s.fld (R.WVL_PORT_CFG_min_lanes p) ≤ popCount 8 ((s.wp p).work &&& (s.wp p).rx))) ∧
    (∃ (s : State) (p : Nat) (d : List Byte),
      (p < 4) ∧ (s.walled = true) ∧ ((s.wp p).work ≠ 0) ∧ (d.length = 16) ∧ (¬ (leAt d 0 4 = s.fld R.WVL_WALL_ID_id ∧ s.facing p = some (bitsOf (leAt d 4 1) 0 4, bitsOf (leAt d 4 1) 4 4) ∧ leAt d 5 1 = (p + 2) % 4))) ∧
    (∃ (s : State) (p : Nat) (bytes : List Byte),
      (p < 4) ∧ (s.walled = true) ∧ ((s.wp p).work ≠ 0) ∧ (s.portIn p = false) ∧ (leAt bytes 0 2 ≠ 0xB7E5 ∨ crc32c (bytes.take 12) ≠ leAt bytes 12 4)) ∧
    (∃ (s : State) (p g origin hops seq : Nat) (v : Vote),
      (p < 4) ∧ (s.walled = true) ∧ ((s.wp p).work ≠ 0) ∧ (s.portIn p = true) ∧ (g < 16) ∧ (origin < 256) ∧ (hops = 31) ∧ (seq < 2 ^ 32) ∧ (v.group = g ∧ v.origin = origin ∧ v.n < 2 ^ 64 ∧ v.frame < 2 ^ 32 ∧ v.clampTime < 2 ^ 64) ∧ (s.newer 3 origin seq = true)) ∧
    (∃ (s : State) (p count : Nat),
      (p < 4) ∧ (s.portIn p = true) ∧ ((s.wp p).control = []) ∧ ((s.wp p).relay = [])) ∧
    (∃ (s : State) (p count : Nat),
      (p < 4) ∧ (s.portIn p = true) ∧ ((s.wp p).control = []) ∧ ((s.wp p).relay = [])) ∧
    (∃ (s : State) (p cTx tTx cRx tRx : Nat),
      (p < 4) ∧ (s.portIn p = true) ∧ ((s.wp p).control = []) ∧ ((s.wp p).relay = []) ∧ ((s.wp p).need 60 ≤ (s.wp p).available)) ∧
    (∃ (s : State) (p lane taps reqs : Nat) (pre inverted : Bool),
      (p < 4) ∧ (lane < 8) ∧ ((s.wp p).training.testBit lane = true) ∧ (s.portIn p = false) ∧ (s.fld (R.WVL_PORT_STATUS_hello_ok p) = 0)) ∧
    (∃ (s : State) (p mask : Nat),
      (p < 4) ∧ (s.walled = true)) ∧
    (∃ (s : State) (p mask : Nat),
      (p < 4) ∧ (s.walled = true)) ∧
    (∃ (s : State) (p : Nat),
      (p < 4) ∧ ((s.wp p).work ≠ 0) ∧ ((s.wp p).work < 256)) ∧
    (∃ (s : State) (p : Nat) (j : CmpJob) (e : Relay),
      (p < 4) ∧ (s.cmp.waiting.find? (fun j => j.dir == 1 && j.cls == 1 && j.who.headD 4 == p) = some j) ∧ (s.portIn p = true) ∧ ((s.wp p).control = []) ∧ ((s.wp p).relay = [e]) ∧ (j.who.getD 1 0 = e.id) ∧ (e.data.length < 9001) ∧ ((s.wp p).need (worvelPacket 16 1 false false s.ownModule 0 (Store.get (fun _ => 0) s.wvl.seqOut 16) e.data).length + 64 < (s.wp p).available)) :=
  ⟨⟨({ State.reset with wvl := { ports := [(2, { work := 3, rx := 3 })], seqOut := [(1, 5)] } }.setFld R.WVL_WALL_CFG_enable 1).setFld (R.WVL_PORT_STATUS_in_service 2) 0,
      2, by decide⟩,
    ⟨(((((({ State.reset with wvl := { ports := [(1, { work := 3, rx := 7 })] } }.setFld R.WVL_WALL_CFG_enable 1).setFld R.WVL_WALL_CFG_x 1).setFld R.WVL_WALL_CFG_y 2).setFld R.WVL_WALL_CFG_wx 4).setFld (R.WVL_PORT_STATUS_in_service 1) 0).setFld (R.WVL_PORT_CFG_min_lanes 1) 1).setFld R.WVL_WALL_ID_id 7,
      1,
      leBytes 4 7 ++ leBytes 1 0x22 ++ leBytes 1 3 ++ leBytes 1 2 ++ leBytes 9 0, by decide⟩,
    ⟨((((({ State.reset with wvl := { ports := [(1, { work := 3, rx := 7 })] } }.setFld R.WVL_WALL_CFG_enable 1).setFld R.WVL_WALL_CFG_x 1).setFld R.WVL_WALL_CFG_y 2).setFld R.WVL_WALL_CFG_wx 4).setFld (R.WVL_PORT_STATUS_in_service 1) 1).setFld R.WVL_WALL_ID_id 7,
      1,
      leBytes 4 7 ++ leBytes 1 0x22 ++ leBytes 1 2 ++ leBytes 1 2 ++ leBytes 9 0, by decide⟩,
    ⟨({ State.reset with wvl := { ports := [(1, { work := 3, rx := 7 })] } }.setFld R.WVL_WALL_CFG_enable 1).setFld (R.WVL_PORT_STATUS_in_service 1) 0,
      1,
      List.replicate 30 7#8, by decide⟩,
    ⟨({ State.reset with wvl := { ports := [(1, { work := 3, rx := 7 })], votes := [⟨3, 0x21, 4, false, 1, 2⟩, ⟨3, 0x22, 4, true, 1, 2⟩] } }.setFld R.WVL_WALL_CFG_enable 1).setFld (R.WVL_PORT_STATUS_in_service 1) 1 |>.setFld R.WVL_WALL_CFG_x 0,
      1,
      3,
      0x21,
      31,
      9,
      ⟨3, 0x21, 5, true, 77, 123456789⟩, by decide⟩,
    ⟨{ State.reset with wvl := { ports := [(1, { work := 3, rx := 7, g := 4096, u := 100, r := 50, base := 50 })] } }.setFld (R.WVL_PORT_STATUS_in_service 1) 1,
      1,
      80, by decide⟩,
    ⟨{ State.reset with wvl := { ports := [(1, { work := 3, rx := 7, g := 4096, u := 100, r := 50, base := 50 })] } }.setFld (R.WVL_PORT_STATUS_in_service 1) 1,
      1,
      200, by decide⟩,
    ⟨{ State.reset with wvl := { ports := [(1, { work := 3, rx := 7, g := 4096 })], ofs := -5 } }.setFld (R.WVL_PORT_STATUS_in_service 1) 1,
      1,
      80,
      90,
      2 ^ 32 + 4,
      8, by decide⟩,
    ⟨({ State.reset with wvl := { ports := [(1, { work := 3, training := 4 })] }, lan := {} }.setFld (R.WVL_PORT_STATUS_in_service 1) 0).setFld (R.WVL_PORT_STATUS_hello_ok 1) 0,
      1,
      2,
      0,
      9,
      true,
      true, by decide⟩,
    ⟨(({ State.reset with wvl := { ports := [(1, { work := 3, rx := 7 })] } }.setFld (R.WVL_PORT_STATUS_in_service 1) 1).setFld (R.WVL_PORT_STATUS_hello_ok 1) 1).setFld R.WVL_WALL_CFG_enable 1,
      1,
      0x106, by decide⟩,
    ⟨(({ State.reset with wvl := { ports := [(1, { work := 3, rx := 7 })] } }.setFld (R.WVL_PORT_STATUS_in_service 1) 1).setFld (R.WVL_PORT_STATUS_hello_ok 1) 1).setFld R.WVL_WALL_CFG_enable 1,
      1,
      0x8, by decide⟩,
    ⟨(({ State.reset with wvl := { ports := [(1, { work := 5, rx := 7, training := 2 })] } }.setFld (R.WVL_PORT_STATUS_in_service 1) 1).setFld (R.WVL_PORT_STATUS_hello_ok 1) 1).setFld R.WVL_WALL_CFG_enable 1,
      1, by decide⟩,
    ⟨{ State.reset with wvl := { ports := [(1, { work := 3, rx := 7, g := 4096, relay := [⟨4, [1#8, 2#8], none⟩] })] }, cmp := { waiting := [{ dir := 1, cls := 1, src := 2, dst := 9000, since := 0, who := [1, 4], data := [1#8, 2#8] }] } }.setFld (R.WVL_PORT_STATUS_in_service 1) 1,
      1,
      { dir := 1, cls := 1, src := 2, dst := 9000, since := 0, who := [1, 4], data := [1#8, 2#8] },
      ⟨4, [1#8, 2#8], none⟩, by decide⟩⟩

/-- States and operands that meet the hypotheses of each clause of `WallsAgreeOnMembersVotesAndDecisions`. -/
theorem witness_WallsAgreeOnMembersVotesAndDecisions :
    (∃ (s : State) (bus : Bus) (id : Nat) (c : Cmd),
      (Startable s id .wallConfigure c) ∧ (c.pb 12 0 4 ≤ c.pb 13 0 4 ∧ c.pb 12 4 4 ≤ c.pb 13 4 4) ∧ (c.pb 14 0 4 ≤ c.pb 13 0 4 ∧ c.pb 14 4 4 ≤ c.pb 13 4 4) ∧ ((c.flag 16 1 = true → c.pb 15 0 4 ≤ c.pb 13 0 4 ∧ c.pb 15 4 4 ≤ c.pb 13 4 4 ∧ ¬ (c.pb 15 0 4 = c.pb 14 0 4 ∧ c.pb 15 4 4 = c.pb 14 4 4))) ∧ (c.flag 16 0 = true) ∧ (s.hst.held = [])) ∧
    (∃ (s : State) (bus : Bus) (id : Nat) (c : Cmd),
      (Startable s id .wallConfigure c) ∧ (c.pb 12 0 4 ≤ c.pb 13 0 4 ∧ c.pb 12 4 4 ≤ c.pb 13 4 4) ∧ (c.pb 14 0 4 ≤ c.pb 13 0 4 ∧ c.pb 14 4 4 ≤ c.pb 13 4 4) ∧ (c.flag 16 1 = false) ∧ (c.flag 16 0 = false) ∧ (s.hst.held = [])) ∧
    (∃ (s : State) (bus : Bus) (id : Nat) (c : Cmd),
      (Startable s id .wallConfigure c) ∧ (c.pb 13 0 4 < c.pb 12 0 4 ∨ c.pb 13 4 4 < c.pb 12 4 4 ∨ c.pb 13 0 4 < c.pb 14 0 4 ∨ c.pb 13 4 4 < c.pb 14 4 4)) ∧
    (∃ (s : State),
      (s.walled = true)) ∧
    (∃ (s : State),
      (s.walled = true)) ∧
    (∃ (s : State) (m : Nat),
      (m < 256) ∧ (s.member m = true)) ∧
    (∃ (s : State) (n : Nat),
      (s.walled = true) ∧ (s.fld R.WVL_WALL_STATUS_alone = 0)) ∧
    (∃ (s : State) (n g : Nat),
      (s.actsMaster = true) ∧ (g < 16) ∧ (s.fld (R.CLP_GROUP_CFG_wall g) = 1) ∧ (s.fld R.WVL_WALL_STATUS_alone = 0) ∧ (s.wvl.votes.any (fun v => v.group == g && v.origin == s.ownModule && v.n == n && v.ready) = false)) ∧
    (∃ (s : State) (n g frame : Nat),
      (s.actsMaster = true) ∧ (g < 16) ∧ (s.fld (R.CLP_GROUP_CFG_wall g) = 1) ∧ (s.fld R.WVL_WALL_STATUS_alone = 0) ∧ ((∀ v, v ∈ s.wvl.votes → v.group = g → v.n = n → v.frame = frame)) ∧ ((∀ m, m ∈ s.voters g → s.wvl.votes.any (fun v => v.group == g && v.origin == m && v.n == n && v.ready) = true))) ∧
    (∃ (s : State) (g n : Nat),
      (g < 16) ∧ (s.wallGroup g = true) ∧ (s.decisionOf g = 0)) :=
  ⟨⟨withCmd { State.reset with hst := {}, wvl := { votes := [⟨3, 1, 4, true, 1, 2⟩] } } (cmdWith 3 0 .wallConfigure [1, 2, 3, 4, 0x12, 0x54, 0x30, 0x31, 3, 9]),
      {},
      3,
      cmdWith 3 0 .wallConfigure [1, 2, 3, 4, 0x12, 0x54, 0x30, 0x31, 3, 9], by decide⟩,
    ⟨withCmd { State.reset with hst := {}, wvl := {}, lan := {} } (cmdWith 3 0 .wallConfigure [1, 2, 3, 4, 0x12, 0x54, 0x30, 0x31, 0, 9]),
      {},
      3,
      cmdWith 3 0 .wallConfigure [1, 2, 3, 4, 0x12, 0x54, 0x30, 0x31, 0, 9], by decide⟩,
    ⟨withCmd State.reset (cmdWith 3 0 .wallConfigure [1, 2, 3, 4, 0x16, 0x54, 0x30, 0x31, 0, 9]),
      {},
      3,
      cmdWith 3 0 .wallConfigure [1, 2, 3, 4, 0x16, 0x54, 0x30, 0x31, 0, 9], by decide⟩,
    ⟨{ State.reset with wvl := { worst := 5 } }.setFld R.WVL_WALL_CFG_enable 1, by decide⟩,
    ⟨(({ State.reset with wvl := { worst := 5, ports := [(1, { work := 1, rx := 1, g := 4096 })] } }.setFld R.WVL_WALL_CFG_enable 1).setFld R.WVL_WALL_STATUS_alone 1).setFld R.WVL_WALL_STATUS_hops 2 |>.setFld (R.WVL_PORT_STATUS_in_service 1) 1, by decide⟩,
    ⟨({ State.reset with wvl := { votes := [⟨3, 0x21, 4, false, 1, 2⟩, ⟨3, 0x22, 4, true, 1, 2⟩] } }.setFld R.WVL_WALL_CFG_enable 1).setReg (R.WVL_PEER 0x21 7) 1 |>.setReg (R.WVL_PEER 0x22 7) 1,
      0x21, by decide⟩,
    ⟨({ State.reset with wvl := { votes := [⟨3, 0x21, 4, false, 1, 2⟩, ⟨3, 0x22, 4, true, 1, 2⟩], ports := [(1, { work := 1, rx := 1, g := 4096 })] } }.setFld R.WVL_WALL_CFG_enable 1).setFld R.WVL_WALL_STATUS_alone 0 |>.setFld (R.CLP_GROUP_CFG_wall 2) 1 |>.setFld (R.CLP_GROUP_CFG_wall 3) 1 |>.setFld (R.WVL_PORT_STATUS_in_service 1) 1,
      6, by decide⟩,
    ⟨({ State.reset with clp := {}, wvl := { votes := [⟨2, 0, 6, false, 1, 2⟩, ⟨2, 0x22, 6, true, 1, 2⟩] } }.setFld R.WVL_WALL_CFG_enable 1).setFld R.WVL_WALL_STATUS_alone 0 |>.setFld (R.CLP_GROUP_CFG_wall 2) 1 |>.setFld R.WVL_WALL_STATUS_hops 0,
      6,
      2, by decide⟩,
    ⟨(((({ State.reset with clp := {}, wvl := { votes := [⟨2, 0, 6, true, 7, 2⟩, ⟨2, 0x22, 6, true, 7, 2⟩] } }.setFld R.WVL_WALL_CFG_enable 1).setFld R.WVL_WALL_CFG_x 0).setFld R.WVL_WALL_CFG_y 0).setFld R.WVL_WALL_STATUS_alone 0).setFld (R.CLP_GROUP_CFG_wall 2) 1 |>.setFld R.WVL_WALL_STATUS_hops 0,
      6,
      2,
      7, by decide⟩,
    ⟨({ State.reset with clp := {} }.setFld R.WVL_WALL_CFG_enable 1).setFld (R.CLP_GROUP_CFG_wall 2) 1 |>.setFld (R.CLP_GROUP_STATUS_alone 2) 0,
      2,
      5000000000, by decide⟩⟩

/-- States and operands that meet the hypotheses of each clause of `EthernetPortsReceiveTransmitPauseAndFollowGates`. -/
theorem witness_EthernetPortsReceiveTransmitPauseAndFollowGates :
    (∃ (s : State) (p mode inverted precoded rxPrecoded : Nat) (taps : List (List Int)),
      (p < 8) ∧ (s.ethUp p = false) ∧ (s.modeFits p mode = true)) ∧
    (∃ (s : State) (p mode inverted precoded rxPrecoded : Nat) (taps : List (List Int)),
      (p < 8) ∧ (s.ethUp p = false) ∧ (s.modeFits p mode = true)) ∧
    (∃ (s : State) (p mode inverted precoded rxPrecoded : Nat) (taps : List (List Int)),
      (p < 8) ∧ (s.ethUp p = true)) ∧
    (∃ (s : State) (p : Nat) (ok : Bool),
      (p < 8) ∧ (s.ethUp p = true) ∧ (s.fld (R.ETH_PORT_CFG_preempt_enable p) = 1) ∧ ((s.ep p).verify ≠ (if ok then 1 else 2))) ∧
    (∃ (s : State) (p n : Nat),
      (p < 8) ∧ (s.ethUp p = true)) ∧
    (∃ (s : State) (p n : Nat),
      (p < 8) ∧ (s.ethUp p = true)) ∧
    (∃ (s : State) (p frac : Nat) (bus : Bus) (bytes : List Byte),
      (p < 8) ∧ (s.ethUp p = true) ∧ (bytes.length < 64 ∨ s.fld (R.ETH_PORT_CFG2_max_frame p) < bytes.length ∨ crc32 (bytes.take (bytes.length - 4)) ≠ leAt bytes (bytes.length - 4) 4)) ∧
    (∃ (s : State) (p frac r a : Nat) (bus : Bus) (d e : List Byte),
      (p < 8) ∧ (s.ethUp p = true) ∧ (60 ≤ d.length) ∧ (d.length + 4 ≤ s.fld (R.ETH_PORT_CFG2_max_frame p)) ∧ (s.addressOk p (Net.of d) = true) ∧ (s.fld (R.ETH_PORT_CFG_ptp_steer p) = 0) ∧ (s.fld R.SCN_TRS_CFG_enable = 0) ∧ ((∀ k, k < 32 → ruleMatches (s.ethRule p k) (Net.of d) = false)) ∧ (s.fld (R.ETH_PORT_CFG_hash_enable p) = 0) ∧ ((Net.of d).tagged = false) ∧ (r = 64 * p + s.fld (R.ETH_PORT_CFG_default_ring p)) ∧ (s.fld (R.ETH_RXQ_CFG_enable r) = 1) ∧ (d.length ≤ 256 * s.fld (R.ETH_RXQ_CFG_buf r)) ∧ (s.fld (R.ETH_RXQ_HEAD_head r) ≠ s.rxTail r) ∧ (s.rxEntry r (s.fld (R.ETH_RXQ_HEAD_head r)) = (false, a)) ∧ (busRead bus a 16 = some e) ∧ (busFails bus (leAt e 0 8) d.length = false)) ∧
    (∃ (s : State) (p q buffer length tci frac cuts : Nat) (stamp : Bool) (bus : Bus) (d : List Byte),
      (p < 8) ∧ ((List.range 8).reverse.findSome? (s.txPick bus p) = some (q, .send buffer length stamp false tci)) ∧ ((s.txEntry q 0).1 = false) ∧ (busRead bus buffer length = some d)) ∧
    (∃ (s : State) (bus : Bus) (id r : Nat) (c : Cmd),
      (Startable s id .ethRingSet c) ∧ (r = c.pb 16 0 9) ∧ (c.flag 18 0 = false) ∧ (c.flag 18 1 = true) ∧ (6 ≤ c.pb 19 0 4) ∧ (c.pb 19 0 4 ≤ 14) ∧ (2 ≤ c.pb 21 0 7) ∧ (c.pb 21 0 7 ≤ 64) ∧ (c.client = 0 ∨ c.pb 20 0 4 = c.client) ∧ ((s.reg (R.ETH_RXQ_CFG r)).toNat.testBit 0 = false)) ∧
    (∃ (s : State) (bus : Bus) (id r : Nat) (c : Cmd),
      (Startable s id .ethRingSet c) ∧ (r = c.pb 16 0 9) ∧ (c.flag 18 0 = false) ∧ (c.flag 18 1 = false) ∧ (c.client = 0)) ∧
    (∃ (s : State) (p : Nat) (bus : Bus) (l : GateList),
      (p < 8) ∧ ((s.ep p).gates.waiting = some l) ∧ (l.anchor = 0) ∧ (l.entries ≠ []) ∧ ((∀ k, k < 8 → s.txReady (8 * p + k) = false))) ∧
    (∃ (s : State) (bus : Bus) (id p : Nat) (c : Cmd),
      (Startable s id .ethGateListSet c) ∧ (c.flag 30 1 = false) ∧ (1 ≤ c.p 29 1) ∧ (c.p 29 1 ≤ 128) ∧ (1000 ≤ c.p 24 4) ∧ (c.p 24 4 ≤ 1000000000) ∧ ((c.p 28 1).testBit p = true) ∧ (p < 8) ∧ (busFails bus (c.p 8 8) (8 * c.p 29 1) = false) ∧ ((∀ i, i < c.p 29 1 → (let w := leNat ((List.range 8).map fun j => busByte bus (c.p 8 8 + 8 * i + j)); 10 ≤ bitsOf w 16 32 ∧ bitsOf w 8 2 ≠ 3 ∧ bitsOf w 10 6 = 0 ∧ bitsOf w 48 16 = 0))) ∧ (s.deferFull c = false) ∧ (s.now ≤ c.p 16 8) ∧ (c.pb 30 0 1 = 0) ∧ ((∀ q, (s.ep q).gates.waiting = none))) :=
  ⟨⟨{ State.reset with lan := {} }.setFld (R.ETH_PORT_STATUS_up 3) 0 |>.setFld (R.ETH_PORT_CFG_mode 3) 2,
      3,
      2,
      1,
      1,
      0,
      [[0, 0, 60, 0]], by decide⟩,
    ⟨{ State.reset with lan := {} }.setFld (R.ETH_PORT_STATUS_up 3) 0 |>.setFld (R.ETH_PORT_CFG_mode 3) 4,
      3,
      4,
      1,
      1,
      0,
      [[0, 0, 60, 0]], by decide⟩,
    ⟨{ State.reset with lan := {} }.setFld (R.ETH_PORT_STATUS_up 3) 1 |>.setFld (R.ETH_PORT_CFG_mode 3) 4,
      3,
      4,
      1,
      1,
      0,
      [[0, 0, 60, 0]], by decide⟩,
    ⟨{ State.reset with eth := {} }.setFld (R.ETH_PORT_STATUS_up 3) 1 |>.setFld (R.ETH_PORT_CFG_preempt_enable 3) 1,
      3,
      true, by decide⟩,
    ⟨{ State.reset with eth := { ports := [(3, { paused := [(1, 5)] })] } }.setFld (R.ETH_PORT_STATUS_up 3) 1,
      3,
      1000, by decide⟩,
    ⟨{ State.reset with eth := { ports := [(3, { paused := [(1, 5)] })] } }.setFld (R.ETH_PORT_STATUS_up 3) 1,
      3,
      65536, by decide⟩,
    ⟨State.reset.setFld (R.ETH_PORT_STATUS_up 3) 1,
      3,
      5,
      {},
      List.replicate 70 6#8, by decide⟩,
    ⟨((({ State.reset with regs := [], eth := { rxTails := [(197, 3)] } }.setFld (R.ETH_PORT_STATUS_up 3) 1).setFld (R.ETH_PORT_CFG_default_ring 3) 5).setFld (R.ETH_PORT_CFG_bcast 3) 1).setFld (R.ETH_PORT_CFG2_max_frame 3) 1500 |>.setFld (R.ETH_RXQ_CFG_enable 197) 1 |>.setFld (R.ETH_RXQ_CFG_buf 197) 8 |>.setFld (R.ETH_RXQ_CFG_log2size 197) 6 |>.setFld (R.ETH_PORT_CFG_hash_enable 3) 0 |>.setFld (R.ETH_PORT_CFG_ptp_steer 3) 0 |>.setFld (R.ETH_RXQ_BASE_base 197) 2 |>.setFld R.SCN_TRS_CFG_enable 0,
      3,
      5,
      197,
      0x2000,
      { mem := [(0x2001, 0x70#8)] },
      List.replicate 6 255#8 ++ List.replicate 60 9#8,
      [0#8, 0x70#8] ++ List.replicate 14 0#8, by decide⟩,
    ⟨((({ State.reset with regs := [], eth := { txTails := [(29, 3)] } }.setFld (R.ETH_PORT_STATUS_up 3) 1).setFld (R.ETH_PORT_STATUS_mode 3) 1).setFld (R.ETH_PORT_CFG2_max_frame 3) 1500).setFld (R.ETH_TXQ_CFG_enable 29) 1 |>.setFld (R.ETH_TXQ_CFG_log2size 29) 6 |>.setFld (R.ETH_TXQ_BASE_base 29) 2,
      3,
      29,
      0x7000,
      64,
      0,
      3,
      0,
      true,
      { mem := [(0x2001, 0x70#8), (0x2008, 64#8), (0x200A, 1#8), (0x7000, 5#8)] },
      [5#8] ++ List.replicate 63 0#8, by decide⟩,
    ⟨withCmd ({ State.reset with eth := { rxTails := [(197, 3)] } }.setReg (R.ETH_RXQ_CFG 197) 0) (cmdWith 3 5 .ethRingSet [0, 0x70, 2, 0, 0, 0, 0, 0, 197, 0, 2, 8, 5, 9, 3, 0, 8, 7]),
      {},
      3,
      197,
      cmdWith 3 5 .ethRingSet [0, 0x70, 2, 0, 0, 0, 0, 0, 197, 0, 2, 8, 5, 9, 3, 0, 8, 7], by decide⟩,
    ⟨withCmd { State.reset with eth := { rxTails := [(197, 3)] } } (cmdWith 3 0 .ethRingSet [0, 0x70, 2, 0, 0, 0, 0, 0, 197, 0, 0, 8, 5, 9, 3, 0, 8, 7]),
      {},
      3,
      197,
      cmdWith 3 0 .ethRingSet [0, 0x70, 2, 0, 0, 0, 0, 0, 197, 0, 0, 8, 5, 9, 3, 0, 8, 7], by decide⟩,
    ⟨{ State.reset with regs := [], eth := { ports := [(3, { gates := { waiting := some ⟨[(255, 100), (1, 200)], 5, 1000, 0, 3⟩, waitStart := 77 } })] } },
      3,
      {},
      ⟨[(255, 100), (1, 200)], 5, 1000, 0, 3⟩, by decide⟩,
    ⟨withCmd { State.reset with eth := {}, ptp := { State.reset.ptp with oSec := 0, f := 77 } } (cmdWith 3 0 .ethGateListSet ([0, 0, 0, 0, 0, 0, 0, 0, 0, 0, 1, 0, 0, 0, 0, 0, 0, 0, 1, 0, 12, 2, 0])),
      { mem := [(0, 3#8), (2, 200#8), (8, 1#8), (10, 100#8)] },
      3,
      3,
      cmdWith 3 0 .ethGateListSet ([0, 0, 0, 0, 0, 0, 0, 0, 0, 0, 1, 0, 0, 0, 0, 0, 0, 0, 1, 0, 12, 2, 0]), by decide, by decide, by decide, by decide, by decide, by decide, by decide, by decide, by decide, by decide, by decide, by decide, by decide, fun _ => rfl⟩⟩

/-- States and operands that meet the hypotheses of each clause of `NetworkTimeTriggersAndCapturesFollowTheClock`. -/
theorem witness_NetworkTimeTriggersAndCapturesFollowTheClock :
    (∃ (s : State) (bus : Bus),
      (s.ptp.stNs < 1000000000)) ∧
    (∃ (s : State) (bus : Bus),
      (0 ≤ s.ptpTotal + sext 64 (s.fld R.PTP_STEP_ns)) ∧ (0 ≤ s.offset + sext 64 (s.fld R.PTP_STEP_ns)) ∧ (s.offset + sext 64 (s.fld R.PTP_STEP_ns) < 2 ^ 48 * 1000000000)) ∧
    (∃ (s : State) (bus : Bus),
      (s.ptpTotal + sext 64 (s.fld R.PTP_STEP_ns) < 0 ∨ s.offset + sext 64 (s.fld R.PTP_STEP_ns) < 0)) ∧
    (∃ (s : State),
      (0 ≤ s.offset + s.ptpCorr) ∧ (s.offset + s.ptpCorr < 2 ^ 48 * 1000000000)) ∧
    (∃ (s : State) (client : Nat),
      (client ≠ 0)) ∧
    (∃ (s : State) (n data : Nat) (bus : Bus),
      (n < 8) ∧ (s.isFsync n = false) ∧ (data.testBit 0 = true) ∧ (s.now ≤ s.fld (R.TRIG_START_ns n))) ∧
    (∃ (s : State) (n data : Nat) (bus : Bus),
      (n < 8) ∧ (s.isFsync n = false) ∧ (data.testBit 0 = false)) ∧
    (∃ (s : State) (n : Nat) (bus : Bus),
      (n < 8) ∧ (s.isFsync n = false) ∧ (s.fld (R.TRIG_STATUS_armed n) = 1)) ∧
    (∃ (s : State) (n : Nat) (bus : Bus),
      (n < 8) ∧ (s.isFsync n = false) ∧ (s.fld (R.TRIG_STATUS_armed n) = 1)) ∧
    (∃ (s : State) (k : Nat) (rising : Bool),
      (k < 4) ∧ (s.fld (R.CAP_CFG_enable k) = 1) ∧ (s.fld (if rising then R.CAP_CFG_rising k else R.CAP_CFG_falling k) = 1) ∧ ((s.capIn k).last = none) ∧ ((s.capIn k).fifo.length < 16)) ∧
    (∃ (s : State) (k : Nat),
      (k < 4)) :=
  ⟨⟨{ State.reset with ptp := { State.reset.ptp with stSec := 2 ^ 50 + 7, stNs := 999999999 } },
      {}, by decide⟩,
    ⟨{ State.reset with ptp := { State.reset.ptp with oSec := 5, oNs := 3 } }.setFld R.PTP_STEP_ns (2 ^ 64 - 4),
      {}, by decide⟩,
    ⟨{ State.reset with ptp := { State.reset.ptp with oSec := 0, oNs := 3 } }.setFld R.PTP_STEP_ns (2 ^ 64 - 4),
      {}, by decide⟩,
    ⟨{ State.reset with ptp := { State.reset.ptp with oSec := 5, oNs := 3, f := 5000000000000, a := 4000000000000, rho := 2814749767, stRho := -5 } }, by decide⟩,
    ⟨State.reset,
      3, by decide⟩,
    ⟨{ State.reset with tim := {}, ptp := { State.reset.ptp with oSec := 0, oNs := 3, f := 99 } }.setFld R.WVL_WALL_CFG_enable 0 |>.setFld (R.TRIG_START_ns 2) 500,
      2,
      0x30007,
      {}, by decide⟩,
    ⟨{ State.reset with tim := {} }.setFld R.WVL_WALL_CFG_enable 0,
      2,
      0x30006,
      {}, by decide⟩,
    ⟨(({ State.reset with clp := {}, tim := { trigs := [(2, { next := 88 })] } }.setFld R.WVL_WALL_CFG_enable 0).setFld (R.TRIG_STATUS_armed 2) 1).setActFld (R.TRIG_ACT_groups 2) 6 |>.setActFld (R.TRIG_PERIOD_ns 2) 0 |>.setActFld (R.TRIG_ACT_snap 2) 1 |>.setFld (R.CLP_GROUP_CFG_source 2) 0,
      2,
      {}, by decide⟩,
    ⟨(({ State.reset with clp := {}, tim := { trigs := [(2, { next := 88 })] } }.setFld R.WVL_WALL_CFG_enable 0).setFld (R.TRIG_STATUS_armed 2) 1).setActFld (R.TRIG_ACT_groups 2) 6 |>.setActFld (R.TRIG_PERIOD_ns 2) 7 |>.setActFld (R.TRIG_CFG_pin 2) 1,
      2,
      {}, by decide⟩,
    ⟨{ State.reset with tim := { caps := [(2, { fifo := [(5, true)] })] } }.setFld (R.CAP_CFG_enable 2) 1 |>.setFld (R.CAP_CFG_falling 2) 1,
      2,
      false, by decide⟩,
    ⟨{ State.reset with tim := { caps := [(2, { fifo := [(5, true), (7, false)] })] } },
      2, by decide⟩⟩

/-- States and operands that meet the hypotheses of each clause of `ModuleDramKeepsWhatIsWritten`. -/
theorem witness_ModuleDramKeepsWhatIsWritten :
    (∃ (s : State) (ma w ch bank row col : Nat) (x : Byte),
      (s.placeOf ma = .at_ w ch bank row col) ∧ (s.fld (R.DMC_WIN_CFG_iecc w) = 0)) ∧
    (∃ (s : State) (client off : Nat) (data : List Byte),
      (s.reachable client = true) ∧ (off + data.length ≤ (s.dramWindow client).2)) ∧
    (∃ (s : State) (client off len : Nat),
      (s.reachable client = true)) ∧
    (∃ (s : State) (client off : Nat) (data : List Byte),
      (s.reachable client = true) ∧ ((s.dramWindow client).2 < off + data.length)) ∧
    (∃ (s : State) (client r off a : Nat) (data : List Byte),
      (s.reachable client = true) ∧ (client < 16) ∧ (r < 16) ∧ (ringAddr (s.reg (R.CMD_SQ_BASE (16 * client + r))) 64 0 = (true, a)) ∧ (off + data.length ≤ 64 * s.sqSize (16 * client + r)) ∧ (s.mayReach client (a + off) data.length = true)) ∧
    (∃ (s : State) (client page r off : Nat) (data : List Byte),
      (s.reachable client = true) ∧ (client ≠ 0 ∧ page ≠ client ∨ (ringAddr (s.reg (R.CMD_SQ_BASE (16 * page + r))) 64 0).1 = false ∨ 64 * s.sqSize (16 * page + r) < off + data.length)) :=
  ⟨⟨((({ State.reset with regs := [] }).setFld (R.HST_FN_CFG_present 5) 1)),
      0x12345,
      0,
      10,
      9,
      0,
      69,
      9#8, by decide⟩,
    ⟨(State.reset.setFld (R.HST_FN_CFG_present 5) 1 |>.setFld R.PWC_STATUS_state 0).setFld (R.HST_FN_APERTURE_base 5) 3 |>.setFld (R.HST_FN_APERTURE_size 5) 1,
      5,
      8,
      [1#8, 2#8], by decide⟩,
    ⟨(State.reset.setFld (R.HST_FN_CFG_present 5) 1 |>.setFld R.PWC_STATUS_state 0).setFld (R.HST_FN_APERTURE_base 5) 3 |>.setFld (R.HST_FN_APERTURE_size 5) 1,
      5,
      0xFFFFFE,
      5, by decide⟩,
    ⟨(State.reset.setFld (R.HST_FN_CFG_present 5) 1 |>.setFld R.PWC_STATUS_state 0).setFld (R.HST_FN_APERTURE_base 5) 3 |>.setFld (R.HST_FN_APERTURE_size 5) 1,
      5,
      0xFFFFFF,
      [1#8, 2#8], by decide⟩,
    ⟨((State.reset.setFld (R.HST_FN_CFG_present 5) 1 |>.setFld R.PWC_STATUS_state 0).setFld (R.HST_FN_APERTURE_base 5) 3 |>.setFld (R.HST_FN_APERTURE_size 5) 1).setReg (R.CMD_SQ_BASE 83) 0x3000001 |>.setFld (R.CMD_SQ_CFG_log2size 83) 6,
      5,
      3,
      64,
      0x3000000,
      [1#8, 2#8], by decide⟩,
    ⟨((State.reset.setFld (R.HST_FN_CFG_present 5) 1 |>.setFld R.PWC_STATUS_state 0).setReg (R.CMD_SQ_BASE 83) 0x3000000),
      5,
      5,
      3,
      64,
      [1#8, 2#8], by decide⟩⟩

/-- States and operands that meet the hypotheses of each clause of `QuadsRefreshSleepAndRetime`. -/
theorem witness_QuadsRefreshSleepAndRetime :
    (∃ (s : State) (ch b : Nat),
      (ch < 32) ∧ (s.quadState (ch / 8) ≠ 2) ∧ ((s.fld R.DMC_CH_OK_ok).testBit ch = true) ∧ (b = Store.get (fun _ => 0) s.dmc.nextBank ch) ∧ (b < 16) ∧ ((s.chQueue ch).any (fun r => r.bank == b) = true) ∧ (s.owedOf ch b < 7)) ∧
    (∃ (s : State) (ch b : Nat),
      (ch < 32) ∧ (s.quadState (ch / 8) ≠ 2) ∧ ((s.fld R.DMC_CH_OK_ok).testBit ch = true) ∧ (b = Store.get (fun _ => 0) s.dmc.nextBank ch) ∧ (s.chQueue ch = [])) ∧
    (∃ (s : State) (ch rate : Nat),
      (ch < 32) ∧ (s.quadState (ch / 8) ≠ 2)) ∧
    (∃ (s : State) (j : Nat),
      (j < 4) ∧ (s.quadIdle j = true) ∧ (s.quadState j = 0)) ∧
    (∃ (s : State) (j : Nat),
      (j < 4) ∧ (s.quadIdle j = true) ∧ (s.quadState j = 1)) ∧
    (∃ (s : State) (j : Nat),
      (j < 4) ∧ (s.quadState j = 2) ∧ (s.quadWanted j = true) ∧ (s.hst.held = [])) ∧
    (∃ (s : State) (j : Nat) (c : OpChange),
      (j < 4) ∧ (s.changeOf j = some c) ∧ (s.quadState j < 3)) ∧
    (∃ (s : State) (j : Nat) (c : OpChange),
      (j < 4) ∧ (s.changeOf j = some c) ∧ (s.quadState j = 3) ∧ (s.quadIdle j = true) ∧ (c.point < 4) ∧ (c.point ≠ s.fld (R.DMC_QUAD_STATUS_point j)) ∧ (c.waiter = none) ∧ (s.dmc.waiting = []) ∧ (s.hst.held = [])) ∧
    (∃ (s : State) (j : Nat) (trims : List Byte) (figures : List Nat),
      (j < 4) ∧ (s.quadState j = 5) ∧ (Store.get (fun _ => []) s.dmc.gathers j = [])) ∧
    (∃ (s : State) (ch : Nat),
      (ch < 32) ∧ ((s.fld R.DMC_CH_OK_ok).testBit ch = true) ∧ (s.dmc.waiting = [])) :=
  ⟨⟨{ State.reset with dmc := { queues := [(17, [⟨64, 0, 3, 5, false, false, [], 2⟩])], nextBank := [(17, 3)], owed := [(275, 2)] } }.setFld (R.DMC_QUAD_STATUS_state 2) 0 |>.setFld R.DMC_CH_OK_ok 0xFFFFFFFF,
      17,
      3, by decide⟩,
    ⟨{ State.reset with dmc := { nextBank := [(17, 3)], owed := [(275, 2)] } }.setFld (R.DMC_QUAD_STATUS_state 2) 0 |>.setFld R.DMC_CH_OK_ok 0xFFFFFFFF,
      17,
      3, by decide⟩,
    ⟨{ State.reset with dmc := { mr4 := [(3, 4)] } }.setFld (R.DMC_QUAD_STATUS_state 2) 0,
      17,
      3, by decide⟩,
    ⟨{ State.reset with dmc := {} }.setFld (R.DMC_QUAD_STATUS_state 2) 0,
      2, by decide⟩,
    ⟨{ State.reset with dmc := { owed := [(275, 2)] } }.setFld (R.DMC_QUAD_STATUS_state 2) 1,
      2, by decide⟩,
    ⟨{ State.reset with regs := [], hst := {}, dmc := { waiting := [⟨0x12345, true, false, [7#8]⟩] } }.setFld (R.DMC_QUAD_STATUS_state 1) 2,
      1, by decide⟩,
    ⟨{ State.reset with dmc := { changes := [(2, some ⟨1, true, none⟩)] } }.setFld (R.DMC_QUAD_STATUS_state 2) 1,
      2,
      ⟨1, true, none⟩, by decide⟩,
    ⟨{ State.reset with hst := {}, dmc := { changes := [(2, some ⟨1, true, none⟩)] } }.setFld (R.DMC_QUAD_STATUS_state 2) 3 |>.setFld (R.DMC_QUAD_STATUS_point 2) 2,
      2,
      ⟨1, true, none⟩, by decide⟩,
    ⟨{ State.reset with dmc := {} }.setFld (R.DMC_QUAD_STATUS_state 2) 5,
      2,
      [4#8],
      [5, 6, 7], by decide⟩,
    ⟨{ State.reset with dmc := { queues := [(17, [⟨64, 0, 3, 5, false, false, [], 2⟩])] } }.setFld R.DMC_CH_OK_ok 0xFF0FFFFF,
      17, by decide⟩⟩

/-- States and operands that meet the hypotheses of each clause of `DramRequestsAreServedInOrder`. -/
theorem witness_DramRequestsAreServedInOrder :
    (∃ (s : State) (ma w k bank row col : Nat) (urgent : Bool),
      (s.placeOf ma = .at_ w k bank row col) ∧ (k < 32) ∧ (s.spanHeld ma = false) ∧ (s.quadState (k / 8) = 0) ∧ (s.chHeld k = false) ∧ ((s.chQueue k).length < 64)) ∧
    (∃ (s : State) (ma w k bank row col : Nat) (x : Byte),
      (s.placeOf ma = .at_ w k bank row col) ∧ (k < 32) ∧ (s.spanHeld ma = false) ∧ (s.quadState (k / 8) = 0) ∧ (s.chHeld k = false) ∧ ((s.chQueue k).length < 64) ∧ (s.fld (R.DMC_WIN_CFG_iecc w) = 0)) ∧
    (∃ (s : State) (ma w k bank row col : Nat) (write urgent : Bool) (data : List Byte),
      (s.placeOf ma = .at_ w k bank row col) ∧ (k < 32) ∧ (s.quadState (k / 8) = 2)) ∧
    (∃ (s : State) (ma : Nat),
      (s.placeOf ma = .unmapped) ∧ (s.spanHeld ma = false)) ∧
    (∃ (s : State) (ch i inlineFixed : Nat) (aged : Bool) (r : DramReq),
      (ch < 32) ∧ ((s.drainWrites ch).chooseReq ch = some (i, aged)) ∧ ((s.chQueue ch)[i]? = some r) ∧ (r.write = false) ∧ (s.dmc.waiting = [])) ∧
    (∃ (s : State) (ch i : Nat) (aged : Bool) (r : DramReq),
      (ch < 32) ∧ ((s.drainWrites ch).chooseReq ch = some (i, aged)) ∧ ((s.chQueue ch)[i]? = some r) ∧ (r.write = false) ∧ (s.dmc.waiting = []) ∧ (s.fld R.DMC_CFG_link_ecc = 1)) :=
  ⟨⟨{ State.reset with regs := [], dmc := {} },
      0x12345,
      0,
      10,
      9,
      0,
      69,
      true, by decide⟩,
    ⟨{ State.reset with regs := [], dmc := {} },
      0x12345,
      0,
      10,
      9,
      0,
      69,
      7#8, by decide⟩,
    ⟨{ State.reset with regs := [], dmc := {} }.setFld (R.DMC_QUAD_STATUS_state 1) 2,
      0x12345,
      0,
      10,
      9,
      0,
      69,
      true,
      true,
      [7#8], by decide⟩,
    ⟨({ State.reset with dmc := {} }.setReg (R.DMC_WIN_CFG 0) 0).setFld (R.DMC_WIN_CFG_enable 1) 0 |>.setFld (R.DMC_WIN_CFG_enable 2) 0 |>.setFld (R.DMC_WIN_CFG_enable 3) 0 |>.setFld (R.DMC_WIN_CFG_enable 4) 0 |>.setFld (R.DMC_WIN_CFG_enable 5) 0 |>.setFld (R.DMC_WIN_CFG_enable 6) 0 |>.setFld (R.DMC_WIN_CFG_enable 7) 0,
      0x123456789, by decide⟩,
    ⟨{ State.reset with dmc := { queues := [(17, [⟨64, 0, 3, 5, false, false, [], 2⟩, ⟨128, 0, 3, 5, false, true, [1#8], 123456780⟩])] } },
      17,
      (match ({ State.reset with dmc := { queues := [(17, [⟨64, 0, 3, 5, false, false, [], 2⟩, ⟨128, 0, 3, 5, false, true, [1#8], 123456780⟩])] } }.chooseReq 17) with | some x => x.1 | none => 9),
      1,
      (match ({ State.reset with dmc := { queues := [(17, [⟨64, 0, 3, 5, false, false, [], 2⟩, ⟨128, 0, 3, 5, false, true, [1#8], 123456780⟩])] } }.chooseReq 17) with | some x => x.2 | none => false),
      (if ((match ({ State.reset with dmc := { queues := [(17, [⟨64, 0, 3, 5, false, false, [], 2⟩, ⟨128, 0, 3, 5, false, true, [1#8], 123456780⟩])] } }.chooseReq 17) with | some x => x.1 | none => 9) : Nat) = 0 then ⟨64, 0, 3, 5, false, false, [], 2⟩ else ⟨128, 0, 3, 5, false, true, [1#8], 123456780⟩), by decide⟩,
    ⟨{ State.reset with dmc := { queues := [(17, [⟨64, 0, 3, 5, false, false, [], 2⟩])] } }.setFld R.DMC_CFG_link_ecc 1,
      17,
      0,
      (match ({ State.reset with dmc := { queues := [(17, [⟨64, 0, 3, 5, false, false, [], 2⟩])] } }.chooseReq 17) with | some x => x.2 | none => false),
      ⟨64, 0, 3, 5, false, false, [], 2⟩, by decide⟩⟩

/-- States and operands that meet the hypotheses of each clause of `DramCommandsServiceWindowsPointsAndTraining`. -/
theorem witness_DramCommandsServiceWindowsPointsAndTraining :
    (∃ (s : State) (bus : Bus) (id : Nat) (trained : Bool) (c : Cmd),
      (Startable s id .channelService c) ∧ (c.flag 9 0 = false) ∧ (s.fld R.DMC_CH_OK_ok ≠ 2 ^ c.pb 8 0 5) ∧ ((s.fld R.DMC_CH_OK_ok).testBit (c.pb 8 0 5) = true) ∧ (s.dmc.waiting = [])) ∧
    (∃ (s : State) (bus : Bus) (id : Nat) (c : Cmd),
      (s.cmdOf id = some c) ∧ (c.opcode = Op.channelService.code) ∧ (c.phase = .running) ∧ (c.flag 9 0 = true) ∧ (s.chQueue (c.pb 8 0 5) = []) ∧ (s.dmc.waiting = [])) ∧
    (∃ (s : State) (bus : Bus) (id w : Nat) (c : Cmd),
      (Startable s id .windowSet c) ∧ (w = c.pb 8 0 3) ∧ (c.flag 9 0 = true) ∧ (s.windowFault w (c.flag 9 3) (c.pb 10 0 3) (c.pb 11 0 5) (c.pb 12 0 12) (c.p 14 2) (c.p 16 1) = 0) ∧ ((∀ k, k < 32 → s.chQueue k = [])) ∧ (s.dmc.waiting = []) ∧ (s.dmc.spans = [])) ∧
    (∃ (s : State) (bus : Bus) (id : Nat) (c : Cmd),
      (Startable s id .windowSet c) ∧ (c.flag 9 0 = true) ∧ (s.windowFault (c.pb 8 0 3) (c.flag 9 3) (c.pb 10 0 3) (c.pb 11 0 5) (c.pb 12 0 12) (c.p 14 2) (c.p 16 1) ≠ 0) ∧ (s.dmc.waiting = []) ∧ (s.dmc.spans = [])) ∧
    (∃ (s : State) (bus : Bus) (id j : Nat) (c : Cmd),
      (Startable s id .dramOpSet c) ∧ (setBits 4 (c.pb 8 0 4) = [j]) ∧ (s.quadCeiling j ≤ c.pb 9 0 2) ∧ (c.pb 9 0 2 ≠ s.fld (R.DMC_QUAD_STATUS_point j)) ∧ (s.changeOf j = none) ∧ (s.deferFull c = false)) ∧
    (∃ (s : State) (bus : Bus) (id j k : Nat) (c : Cmd) (fails : List Nat) (trims : List Byte),
      (Startable s id .dramTrain c) ∧ (setBits 4 (c.pb 8 0 4) = [j]) ∧ (setBits 4 (c.pb 9 0 4) = [k]) ∧ (c.flag 10 0 = true) ∧ (s.dmc.trains = []) ∧ (s.quadState j = 0) ∧ (s.changeOf j = none) ∧ (s.deferFull c = false) ∧ (s.hst.held = [])) ∧
    (∃ (s : State) (bus : Bus) (id : Nat) (x : TrainItem) (c : Cmd) (trims : List Byte),
      (s.dmc.trains = [x]) ∧ (x.cmd = id) ∧ (x.quad < 4) ∧ (x.item = 0) ∧ (s.quadState x.quad = 4) ∧ (s.quadIdle x.quad = true) ∧ (s.dmc.waiting = []) ∧ (s.hst.held = []) ∧ (s.cmdOf id = some c) ∧ (c.phase = .deferred) ∧ (c.items = [none])) :=
  ⟨⟨withCmd ({ State.reset with dmc := {} }.setFld R.DMC_CH_OK_ok 0xFF0FFFFF) (cmdWith 3 0 .channelService [17, 0]),
      {},
      3,
      true,
      cmdWith 3 0 .channelService [17, 0], by decide⟩,
    ⟨withCmd ({ State.reset with dmc := { returning := some 17 } }.setFld R.DMC_CH_OK_ok 0xFF0DFFFF) { cmdWith 3 0 .channelService [17, 1] with phase := .running },
      {},
      3,
      { cmdWith 3 0 .channelService [17, 1] with phase := .running }, by decide⟩,
    ⟨withCmd ({ State.reset with regs := [], dmc := {} }.setReg (R.DMC_WIN_CFG 0) 0) (cmdWith 3 0 .windowSet [2, 5, 3, 8, 0x10, 0, 0, 2, 4]),
      {},
      3,
      2,
      cmdWith 3 0 .windowSet [2, 5, 3, 8, 0x10, 0, 0, 2, 4], by decide⟩,
    ⟨withCmd { State.reset with regs := [], dmc := {} } (cmdWith 3 0 .windowSet [2, 5, 3, 8, 0x10, 0, 0, 2, 4]),
      {},
      3,
      cmdWith 3 0 .windowSet [2, 5, 3, 8, 0x10, 0, 0, 2, 4], by decide⟩,
    ⟨withCmd (({ State.reset with dmc := {} }.setFld (R.DMC_QUAD_STATUS_point 2) 0).setFld (R.DMC_QUAD_STATUS_state 2) 0) (cmdWith 3 0 .dramOpSet [4, 3]),
      {},
      3,
      2,
      cmdWith 3 0 .dramOpSet [4, 3], by decide⟩,
    ⟨withCmd (({ State.reset with dmc := {}, hst := {} }.setFld (R.DMC_QUAD_STATUS_point 2) 0).setFld (R.DMC_QUAD_STATUS_state 2) 0) (cmdWith 3 0 .dramTrain [4, 8, 1]),
      {},
      3,
      2,
      3,
      cmdWith 3 0 .dramTrain [4, 8, 1],
      [],
      [], by decide⟩,
    ⟨withCmd (({ State.reset with dmc := { trains := [⟨3, 0, 2, 1⟩] }, hst := {} }.setFld (R.DMC_QUAD_STATUS_point 2) 0).setFld (R.DMC_QUAD_STATUS_state 2) 4) { cmdWith 3 0 .dramTrain [4, 2, 1] with phase := .deferred, items := [none] },
      {},
      3,
      ⟨3, 0, 2, 1⟩,
      { cmdWith 3 0 .dramTrain [4, 2, 1] with phase := .deferred, items := [none] },
      [1#8], by decide⟩⟩

/-- States and operands that meet the hypotheses of each clause of `CompressionAndBlockJobsRunWriteAndReply`. -/
theorem witness_CompressionAndBlockJobsRunWriteAndReply :
    (∃ (s : State) (bus : Bus) (id : Nat) (c : Cmd) (st r : Nat),
      (Startable s id .compJob c) ∧ (c.compArgs.fault c = some (st, r))) ∧
    (∃ (s : State) (bus : Bus) (id : Nat) (c : Cmd),
      (Startable s id .compJob c) ∧ (c.compArgs.fault c = none)) ∧
    (∃ (s : State) (u : Nat) (j : CmpJob),
      (u < 12) ∧ (s.unitJob u = none) ∧ (s.enginesMay = true) ∧ (s.hst.held = []) ∧ (s.trs.units = []) ∧ (s.pickJob u = some j)) ∧
    (∃ (s : State) (u : Nat) (bus : Bus) (j : CmpJob) (c : Cmd) (src : List Byte) (e : JobEnd),
      (s.unitJob u = some j) ∧ (j.cls = 3) ∧ (s.cmdOf (j.who.headD 0) = some c) ∧ (c.compArgs.resume = false ∧ c.compArgs.srcDram = false ∧ c.compArgs.dstDram = false ∧ c.compArgs.ctxDram = false) ∧ (busRead bus c.compArgs.src c.compArgs.srcLen = some src) ∧ (c.compArgs.work src [] s.freeVal = e) ∧ (busFails bus c.compArgs.dst e.out.length = false) ∧ (busFails bus c.compArgs.ctx (e.context u s.now).length = false) ∧ (c.itemList = false)) ∧
    (∃ (s : State) (bus : Bus) (id : Nat) (c : Cmd) (st r : Nat),
      (Startable s id .blitJob c) ∧ (c.blitArgs.fault c = some (st, r))) ∧
    (∃ (s : State) (bus : Bus) (id : Nat) (c : Cmd),
      (Startable s id .blitJob c) ∧ (c.blitArgs.fault c = none) ∧ (c.blitArgs.wm = false ∨ s.deferFull c = false)) ∧
    (∃ (s : State) (c : Cmd) (i id : Nat) (rest : List Nat),
      (s.blk.running = none) ∧ (s.blk.waiting = i :: rest) ∧ (id = rest.foldl min i) ∧ (s.enginesMay = true) ∧ (s.cmdOf id = some c) ∧ (s.hst.held = [])) ∧
    (∃ (s : State) (bus : Bus) (c : Cmd) (j : BlkJob),
      (s.blk.running = some j) ∧ (s.cmdOf j.cmd = some c) ∧ (c.blitArgs.op = 0) ∧ (c.blitArgs.wm = false) ∧ (j.overlap = false) ∧ (j.rows ≤ c.blitArgs.h) ∧ (c.itemList = false)) ∧
    (∃ (s : State) (c : Cmd) (j : BlkJob),
      (s.blk.running = some j) ∧ (s.cmdOf j.cmd = some c) ∧ (c.blitArgs.op = 0) ∧ (c.blitArgs.wm = true) ∧ (c.phase = .running)) :=
  ⟨⟨withCmd State.reset (cmdWith 3 0 .compJob [0]),
      {},
      3,
      cmdWith 3 0 .compJob [0],
      stBadParam,
      1, by decide⟩,
    ⟨withCmd State.reset (cmdWith 3 0 .compJob ([0, 0x10, 0, 0, 0, 0, 0, 0] ++ [0, 0x20, 0, 0, 0, 0, 0, 0] ++ [0, 0x40, 0, 0, 0, 0, 0, 0] ++ [5, 0, 0, 0, 64, 0, 0, 0, 0, 0, 0, 0, 0, 0, 0, 0, 17])),
      {},
      3,
      cmdWith 3 0 .compJob ([0, 0x10, 0, 0, 0, 0, 0, 0] ++ [0, 0x20, 0, 0, 0, 0, 0, 0] ++ [0, 0x40, 0, 0, 0, 0, 0, 0] ++ [5, 0, 0, 0, 64, 0, 0, 0, 0, 0, 0, 0, 0, 0, 0, 0, 17]), by decide⟩,
    ⟨{ State.reset with hst := {}, trs := {}, cmp := { waiting := [⟨1, 3, 4, 5, 6, 2, [3], []⟩, ⟨0, 3, 4, 5, 6, 7, [9], []⟩] } }.setFld (R.THM_ZONE_crit 10) 0 |>.setFld R.PWC_STATUS_state 0,
      4,
      ⟨0, 3, 4, 5, 6, 7, [9], []⟩, by decide⟩,
    ⟨withCmd { State.reset with cmp := { units := [(4, some ⟨1, 3, 5, 64, 6, 7, [3], []⟩)] } } (cmdWith 3 0 .compJob ([0, 0x10, 0, 0, 0, 0, 0, 0] ++ [0, 0x20, 0, 0, 0, 0, 0, 0] ++ [0, 0x40, 0, 0, 0, 0, 0, 0] ++ [5, 0, 0, 0, 64, 0, 0, 0, 0, 0, 0, 0, 0, 0, 0, 0, 17])),
      4,
      {},
      ⟨1, 3, 5, 64, 6, 7, [3], []⟩,
      cmdWith 3 0 .compJob ([0, 0x10, 0, 0, 0, 0, 0, 0] ++ [0, 0x20, 0, 0, 0, 0, 0, 0] ++ [0, 0x40, 0, 0, 0, 0, 0, 0] ++ [5, 0, 0, 0, 64, 0, 0, 0, 0, 0, 0, 0, 0, 0, 0, 0, 17]),
      [0#8, 0#8, 0#8, 0#8, 0#8],
      (cmdWith 3 0 .compJob ([0, 0x10, 0, 0, 0, 0, 0, 0] ++ [0, 0x20, 0, 0, 0, 0, 0, 0] ++ [0, 0x40, 0, 0, 0, 0, 0, 0] ++ [5, 0, 0, 0, 64, 0, 0, 0, 0, 0, 0, 0, 0, 0, 0, 0, 17]) : Cmd).compArgs.work [0#8, 0#8, 0#8, 0#8, 0#8] [] ((withCmd { State.reset with cmp := { units := [(4, some ⟨1, 3, 5, 64, 6, 7, [3], []⟩)] } } (cmdWith 3 0 .compJob ([0, 0x10, 0, 0, 0, 0, 0, 0] ++ [0, 0x20, 0, 0, 0, 0, 0, 0] ++ [0, 0x40, 0, 0, 0, 0, 0, 0] ++ [5, 0, 0, 0, 64, 0, 0, 0, 0, 0, 0, 0, 0, 0, 0, 0, 17])) : State).freeVal), by decide⟩,
    ⟨withCmd State.reset (cmdWith 3 0 .blitJob [0]),
      {},
      3,
      cmdWith 3 0 .blitJob [0],
      stBadParam,
      1, by decide⟩,
    ⟨withCmd { State.reset with blk := {} } (cmdWith 3 0 .blitJob (leBytes 8 0x40 ++ leBytes 8 0 ++ leBytes 2 1 ++ leBytes 2 0 ++ leBytes 8 0 ++ leBytes 2 2 ++ leBytes 2 3 ++ [0x80, 0, 0, 0, 0, 0, 0, 0, 1, 2, 3, 4] |>.map BitVec.toNat)),
      {},
      3,
      cmdWith 3 0 .blitJob (leBytes 8 0x40 ++ leBytes 8 0 ++ leBytes 2 1 ++ leBytes 2 0 ++ leBytes 8 0 ++ leBytes 2 2 ++ leBytes 2 3 ++ [0x80, 0, 0, 0, 0, 0, 0, 0, 1, 2, 3, 4] |>.map BitVec.toNat), by decide⟩,
    ⟨withCmd ({ State.reset with hst := {}, blk := { waiting := [7, 3] } }.setFld (R.THM_ZONE_crit 10) 0 |>.setFld R.PWC_STATUS_state 0) (cmdWith 3 0 .blitJob [0]),
      cmdWith 3 0 .blitJob [0],
      7,
      3,
      [3], by decide⟩,
    ⟨withCmd { State.reset with blk := { running := some ⟨3, 1, false⟩ } } (cmdWith 3 0 .blitJob (leBytes 8 0x40 ++ leBytes 8 0 ++ leBytes 2 1 ++ leBytes 2 0 ++ leBytes 8 0 ++ leBytes 2 2 ++ leBytes 2 3 ++ [0x80, 0, 0, 0, 0, 0, 0, 0, 1, 2, 3, 4] |>.map BitVec.toNat)),
      {},
      cmdWith 3 0 .blitJob (leBytes 8 0x40 ++ leBytes 8 0 ++ leBytes 2 1 ++ leBytes 2 0 ++ leBytes 8 0 ++ leBytes 2 2 ++ leBytes 2 3 ++ [0x80, 0, 0, 0, 0, 0, 0, 0, 1, 2, 3, 4] |>.map BitVec.toNat),
      ⟨3, 1, false⟩, by decide⟩,
    ⟨withCmd { State.reset with blk := { running := some ⟨3, 0, false⟩ } } { cmdWith 3 0 .blitJob (leBytes 8 0x40 ++ leBytes 8 0 ++ leBytes 2 1 ++ leBytes 2 0 ++ leBytes 8 0 ++ leBytes 2 2 ++ leBytes 2 3 ++ [0x88, 0, 0, 0, 1, 0, 0, 0, 1, 2, 3, 4] |>.map BitVec.toNat) with phase := .running },
      { cmdWith 3 0 .blitJob (leBytes 8 0x40 ++ leBytes 8 0 ++ leBytes 2 1 ++ leBytes 2 0 ++ leBytes 8 0 ++ leBytes 2 2 ++ leBytes 2 3 ++ [0x88, 0, 0, 0, 1, 0, 0, 0, 1, 2, 3, 4] |>.map BitVec.toNat) with phase := .running },
      ⟨3, 0, false⟩, by decide⟩⟩

/-- States and operands that meet the hypotheses of each clause of `SensorsZonesAndTheCutAtShut`. -/
theorem witness_SensorsZonesAndTheCutAtShut :
    (∃ (s : State) (n : Nat) (x : Int),
      (s.convertible n = true) ∧ (s.fld R.THM_CFG_mode = 0 ∨ (s.sensor n).next ≤ s.ptp.f) ∧ ((s.sensor n).samples = []) ∧ (s.sensorState n = 0) ∧ (s.zoneState (sensorZone n) < 2) ∧ (s.fld (R.THM_ZONE_crit (sensorZone n)) = 0) ∧ (x < s.threshold n 1 ∧ x < s.threshold n 2 ∧ x < s.threshold n 3 ∧ x < s.threshold n 4)) ∧
    (∃ (s : State) (n : Nat) (x : Int),
      (s.convertible n = true) ∧ (s.fld R.THM_CFG_mode = 0 ∨ (s.sensor n).next ≤ s.ptp.f) ∧ ((s.sensor n).samples = []) ∧ (s.sensorState n = 0) ∧ (s.zoneState (sensorZone n) < 2) ∧ (s.fld (R.THM_ZONE_crit (sensorZone n)) = 0) ∧ (x < s.threshold n 1 ∧ x < s.threshold n 2 ∧ x < s.threshold n 3 ∧ x < s.threshold n 4)) ∧
    (∃ (s : State) (n : Nat) (x : Int),
      (s.convertible n = true) ∧ (s.fld R.THM_CFG_mode = 0 ∨ (s.sensor n).next ≤ s.ptp.f) ∧ ((s.sensor n).samples = []) ∧ (s.sensorState n = 0) ∧ (s.zoneState (sensorZone n) < 2) ∧ (s.fld (R.THM_ZONE_crit (sensorZone n)) = 0) ∧ (s.cal.pass = none) ∧ (s.hst.held = []) ∧ (s.threshold n 1 ≤ x ∧ s.threshold n 2 ≤ x ∧ x < s.threshold n 3 ∧ x < s.threshold n 4)) ∧
    (∃ (s : State) (z : Nat),
      (z < 16) ∧ (2 ≤ s.zoneState z) ∧ (s.cal.pass = none) ∧ (s.hst.held = [])) ∧
    (∃ (s : State) (z : Nat),
      (z < 16) ∧ (2 ≤ s.zoneState z) ∧ (s.cal.pass = none) ∧ (s.hst.held = [])) ∧
    (∃ (s : State) (z : Nat),
      (z < 16) ∧ (s.zoneState z = 0) ∧ ((zoneSensors z).all (fun n => (s.sensor n).surge == 0) = true) ∧ (Store.get (fun _ => 0) s.pwc.zoneTicks z = 9) ∧ (s.fld (R.THM_ZONE_level z) ≠ 0) ∧ (s.cal.pass = none) ∧ (s.hst.held = [])) ∧
    (∃ (s : State) (n : Nat),
      (n < 104) ∧ (s.pwc.shut = false ∧ s.pwc.locked = false)) ∧
    (∃ (s : State) (n : Nat),
      (n < 104) ∧ (s.pwc.shut = false ∧ s.pwc.locked = false)) ∧
    (∃ (s : State),
      (s.pwc.shut = true) ∧ (s.fld (R.PWC_DOMAIN_depth 1) ≠ 3)) ∧
    (∃ (s : State),
      (s.pwc.shut = true) ∧ (s.fld (R.PWC_DOMAIN_depth 1) ≠ 3)) ∧
    (∃ (s : State) (bus : Bus) (id : Nat) (c : Cmd),
      (Startable s id .thermalSet c) ∧ (c.pb 8 0 7 + c.pb 9 0 7 ≤ 104 ∧ 0 < c.pb 9 0 7) ∧ (c.p 10 1 < c.p 11 1 ∧ c.p 11 1 < c.p 12 1 ∧ c.p 12 1 < c.p 13 1) ∧ (100 ≤ c.p 13 1 ∧ c.p 13 1 ≤ 125) ∧ (1 ≤ c.pb 14 0 4 ∧ c.pb 14 0 4 ≤ 10) ∧ (5 ≤ c.p 15 1) ∧ (c.itemList = false)) ∧
    (∃ (s : State) (bus : Bus) (id : Nat) (c : Cmd),
      (Startable s id .thermalSet c) ∧ (c.pb 8 0 7 + c.pb 9 0 7 ≤ 104 ∧ 0 < c.pb 9 0 7) ∧ (¬ (c.p 10 1 < c.p 11 1 ∧ c.p 11 1 < c.p 12 1 ∧ c.p 12 1 < c.p 13 1))) ∧
    (∃ (s : State) (bus : Bus) (id : Nat) (c : Cmd) (n : Nat) (x : Int) (t1 : State),
      (Startable s id .thermalSample c) ∧ (c.pb 16 0 7 = n) ∧ (c.pb 17 0 7 = 1) ∧ (n < 104) ∧ (t1 = (if (s.convert n x).fld R.THM_CFG_mode = 1 then s.convert n x else (s.convert n x).schedule n)) ∧ (t1.cmdOf id = some c) ∧ (c.itemList = false) ∧ (busFails bus (c.p 8 8) 16 = false) ∧ (s.convertible n = true)) :=
  ⟨⟨(({ State.reset with pwc := {} }.setReg (R.PWC_DOMAIN 1) 0).setReg (R.THM_TEMP 3) 0 |>.setReg (R.THM_ZONE 0) 0 |>.setReg (R.THM_THRESH 3) (resetReg (R.THM_THRESH 3))),
      3,
      256 * 94 + 255, by decide⟩,
    ⟨(({ State.reset with pwc := {} }.setReg (R.PWC_DOMAIN 1) 0).setReg (R.THM_TEMP 103) 0 |>.setReg (R.THM_ZONE 15) 0 |>.setReg (R.THM_THRESH 103) (resetReg (R.THM_THRESH 103))),
      103,
      -40, by decide⟩,
    ⟨(({ State.reset with pwc := {}, cal := {}, hst := {} }.setReg (R.PWC_DOMAIN 1) 0).setReg (R.THM_TEMP 3) 0 |>.setReg (R.THM_ZONE 0) 0 |>.setReg (R.THM_THRESH 3) (resetReg (R.THM_THRESH 3))),
      3,
      256 * 102, by decide⟩,
    ⟨{ State.reset with cal := {}, hst := {} }.setReg (R.THM_TEMP 100) 0x20000,
      15, by decide⟩,
    ⟨({ State.reset with cal := {}, hst := {} }.setReg (R.THM_TEMP 0) 0x30000).setFld (R.THM_ZONE_level 0) 7,
      0, by decide⟩,
    ⟨({ State.reset with cal := {}, hst := {}, pwc := { zoneTicks := [(12, 9)] } }.setReg (R.THM_TEMP 90) 0 |>.setReg (R.THM_TEMP 91) 0).setFld (R.THM_ZONE_level 12) 3,
      12, by decide⟩,
    ⟨{ State.reset with pwc := {}, hst := {} },
      103, by decide⟩,
    ⟨withCmd { State.reset with pwc := {}, hst := {}, spl := { queue := [{ kind := 5, key := 1, body := [] }] } } (cmdWith 3 0 .blitJob [0]) |>.setFld R.SPL_STATUS_read_only 0,
      0, by decide⟩,
    ⟨{ State.reset with pwc := { shut := true } }.setReg (R.PWC_DOMAIN 1) 0, by decide⟩,
    ⟨{ State.reset with pwc := { shut := true } }.setReg (R.PWC_DOMAIN 1) 0, by decide⟩,
    ⟨withCmd State.reset (cmdWith 3 0 .thermalSet [102, 2, 90, 100, 110, 125, 10, 5]),
      {},
      3,
      cmdWith 3 0 .thermalSet [102, 2, 90, 100, 110, 125, 10, 5], by decide⟩,
    ⟨withCmd State.reset (cmdWith 3 0 .thermalSet [102, 2, 90, 90, 110, 125, 10, 5]),
      {},
      3,
      cmdWith 3 0 .thermalSet [102, 2, 90, 90, 110, 125, 10, 5], by decide⟩,
    ⟨withCmd (({ State.reset with pwc := {} }.setReg (R.PWC_DOMAIN 1) 0).setReg (R.THM_TEMP 3) 0 |>.setReg (R.THM_ZONE 0) 0 |>.setReg (R.THM_THRESH 3) (resetReg (R.THM_THRESH 3))) (cmdWith 3 0 .thermalSample [0, 16, 0, 0, 0, 0, 0, 0, 3, 1]),
      {},
      3,
      cmdWith 3 0 .thermalSample [0, 16, 0, 0, 0, 0, 0, 0, 3, 1],
      3,
      256 * 80,
      (if ((withCmd (({ State.reset with pwc := {} }.setReg (R.PWC_DOMAIN 1) 0).setReg (R.THM_TEMP 3) 0 |>.setReg (R.THM_ZONE 0) 0 |>.setReg (R.THM_THRESH 3) (resetReg (R.THM_THRESH 3))) (cmdWith 3 0 .thermalSample [0, 16, 0, 0, 0, 0, 0, 0, 3, 1]) : State).convert (3 : Nat) (256 * 80 : Int)).fld R.THM_CFG_mode = 1 then (withCmd (({ State.reset with pwc := {} }.setReg (R.PWC_DOMAIN 1) 0).setReg (R.THM_TEMP 3) 0 |>.setReg (R.THM_ZONE 0) 0 |>.setReg (R.THM_THRESH 3) (resetReg (R.THM_THRESH 3))) (cmdWith 3 0 .thermalSample [0, 16, 0, 0, 0, 0, 0, 0, 3, 1]) : State).convert (3 : Nat) (256 * 80 : Int) else ((withCmd (({ State.reset with pwc := {} }.setReg (R.PWC_DOMAIN 1) 0).setReg (R.THM_TEMP 3) 0 |>.setReg (R.THM_ZONE 0) 0 |>.setReg (R.THM_THRESH 3) (resetReg (R.THM_THRESH 3))) (cmdWith 3 0 .thermalSample [0, 16, 0, 0, 0, 0, 0, 0, 3, 1]) : State).convert (3 : Nat) (256 * 80 : Int)).schedule (3 : Nat)), by decide⟩⟩

/-- States and operands that meet the hypotheses of each clause of `SupplySleepPowerFailureAndStates`. -/
theorem witness_SupplySleepPowerFailureAndStates :
    (∃ (s : State) (vin pin : Nat),
      (s.pwc.locked = false) ∧ (vin < 65536) ∧ (pin < 65536)) ∧
    (∃ (s : State) (vin pin : Nat),
      (s.pwc.locked = false) ∧ (vin < 65536) ∧ (pin < 65536)) ∧
    (∃ (s : State) (p : Nat),
      (100 * s.powerLimit < p) ∧ (s.fld R.PWC_STATUS_gov_level < 7) ∧ (s.cal.pass = none) ∧ (s.hst.held = [])) ∧
    (∃ (s : State) (b : Nat) (rest : List Nat) (p : Nat),
      (s.pwc.shed = b :: rest) ∧ (b < 8) ∧ (100 * p < 85 * (100 * s.powerLimit)) ∧ (s.fld (R.ENG_BENT_STATUS_state b) ≠ 0) ∧ (s.cal.pass = none) ∧ (s.hst.held = [])) ∧
    (∃ (s : State) (depth : Nat),
      (depth = 1 ∨ depth = 3) ∧ (s.fld (R.PWC_DOMAIN_depth 25) < depth) ∧ (s.enginesIdle = true)) ∧
    (∃ (s : State) (depth : Nat),
      (depth = 1 ∨ depth = 3) ∧ (s.fld (R.PWC_DOMAIN_depth 25) < depth) ∧ (s.enginesIdle = true)) ∧
    (∃ (s : State) (i : Instr),
      (i = .powerFailure ∨ i = .vinOvervoltage) ∧ (s.pwc.failed = false ∧ s.pwc.shut = false ∧ s.pwc.locked = false)) ∧
    (∃ (s : State) (i : Instr),
      (i = .powerFailure ∨ i = .vinOvervoltage) ∧ (s.pwc.failed = false ∧ s.pwc.shut = false ∧ s.pwc.locked = false)) ∧
    (∃ (s : State),
      (s.pwc.failed = true ∧ s.pwc.recordDone = false ∧ s.pwc.locked = false) ∧ (s.fld (R.PWC_DOMAIN_depth 1) = 0) ∧ (s.fld R.SPL_STATUS_read_only = 0) ∧ (s.spl.programmed = false)) ∧
    (∃ (s : State),
      (s.pwc.locked = false)) ∧
    (∃ (s : State) (bus : Bus) (late : Bool) (id : Nat) (c : Cmd),
      (Startable s id .powerStateSet c) ∧ (s.pwc.setting = none) ∧ (c.pb 8 0 2 = s.fld R.PWC_STATUS_state) ∧ (c.itemList = false)) ∧
    (∃ (s : State) (bus : Bus) (late : Bool) (id : Nat) (c : Cmd),
      (Startable s id .powerStateSet c) ∧ (s.pwc.setting = none) ∧ (2 ≤ c.pb 8 0 2 ∧ c.pb 8 0 2 ≠ s.fld R.PWC_STATUS_state) ∧ (c.pb 9 0 3 = 1) ∧ (s.cmd.inflight = [c]) ∧ (c.isOpen = true)) ∧
    (∃ (s : State) (bus : Bus) (id st : Nat) (c : Cmd),
      (s.pwc.setting = some (id, st)) ∧ (2 ≤ st) ∧ (s.cmd.inflight = [c]) ∧ (c.id = id ∧ c.phase = .running) ∧ (c.itemList = false)) ∧
    (∃ (s : State) (bus : Bus) (id : Nat),
      (s.pwc.setting = some (id, 2)) ∧ (s.cmdOf id = none)) ∧
    (∃ (s : State) (bus : Bus) (late : Bool) (id : Nat) (c : Cmd),
      (s.pwc.setting = some (id, 1)) ∧ (s.standbyReady = true) ∧ (s.cmdOf id = some c) ∧ (c.phase = .deferred ∧ c.items = [none]) ∧ (c.itemList = false)) :=
  ⟨⟨{ State.reset with pwc := {} },
      11499,
      4, by decide⟩,
    ⟨{ State.reset with pwc := {} },
      40000,
      65535, by decide⟩,
    ⟨{ State.reset with cal := {}, hst := {} }.setFld R.PWC_STATUS_gov_level 6,
      60000, by decide⟩,
    ⟨{ State.reset with cal := {}, hst := {}, pwc := { shed := [3, 7] } }.setReg (R.PWC_CFG) (resetReg R.PWC_CFG) |>.setFld (R.ENG_BENT_STATUS_state 3) 1,
      3,
      [7],
      0, by decide⟩,
    ⟨{ State.reset with cmp := {}, blk := {} }.setReg (R.PWC_DOMAIN 25) 0,
      1, by decide⟩,
    ⟨{ State.reset with cmp := {}, blk := {} }.setReg (R.PWC_DOMAIN 25) 1,
      3, by decide⟩,
    ⟨withCmd { State.reset with pwc := {}, hst := {} } (cmdWith 3 0 .blitJob [0]),
      .powerFailure, by decide⟩,
    ⟨{ State.reset with pwc := {}, hst := {} },
      .vinOvervoltage, by decide⟩,
    ⟨{ State.reset with pwc := { failed := true } }.setReg (R.PWC_DOMAIN 1) 0 |>.setFld R.SPL_STATUS_read_only 0 |> fun s => { s with spl := { s.spl with programmed := false } }, by decide⟩,
    ⟨{ State.reset with pwc := {}, hst := {} }, by decide⟩,
    ⟨withCmd ({ State.reset with pwc := {} }.setFld R.PWC_STATUS_state 0) (cmdWith 3 0 .powerStateSet [0]),
      {},
      false,
      3,
      cmdWith 3 0 .powerStateSet [0], by decide⟩,
    ⟨withCmd ({ State.reset with pwc := {} }.setFld R.PWC_STATUS_state 0) (cmdWith 3 0 .powerStateSet [2, 1]),
      {},
      false,
      3,
      cmdWith 3 0 .powerStateSet [2, 1], by decide⟩,
    ⟨withCmd { State.reset with pwc := { setting := some (3, 2) } } { cmdWith 3 0 .powerStateSet [2, 1] with phase := .running },
      {},
      3,
      2,
      { cmdWith 3 0 .powerStateSet [2, 1] with phase := .running }, by decide⟩,
    ⟨{ State.reset with hst := {}, pwc := { setting := some (3, 2) }, cmd := {} },
      {},
      3, by decide⟩,
    ⟨withCmd { State.reset with pwc := { setting := some (3, 1) } } { cmdWith 3 0 .powerStateSet [1] with phase := .deferred, items := [none] },
      {},
      false,
      3,
      { cmdWith 3 0 .powerStateSet [1] with phase := .deferred, items := [none] }, by decide⟩⟩

/-- States and operands that meet the hypotheses of each clause of `CalibrationsCommitAndTrimsSlew`. -/
theorem witness_CalibrationsCommitAndTrimsSlew :
    (∃ (s : State) (i x : Nat),
      (i < 128) ∧ (s.cal.runs.find? (fun r => r.2.2 == i) = none) ∧ (s.fld R.CAL_CFG_auto_a = 1) ∧ (s.fld (R.CAL_ITEM_STATE_freeze i) = 0) ∧ (x < 16384 ∧ x ≠ s.fld (R.CAL_ITEM_STATE_target i)) ∧ (s.fld R.SPL_STATUS_read_only = 0) ∧ (s.fld (R.CAL_ITEM_COUNT_count i) = 0 ∨ s.fld (R.CAL_ITEM_TIME_time i) + s.fld R.CAL_CFG_min_commit * 60000000000 ≤ s.now)) ∧
    (∃ (s : State) (i x : Nat),
      (i < 128) ∧ (s.cal.runs.find? (fun r => r.2.2 == i) = none) ∧ (s.fld R.CAL_CFG_auto_a = 1) ∧ (s.fld (R.CAL_ITEM_STATE_freeze i) = 0) ∧ (x < 16384 ∧ x ≠ s.fld (R.CAL_ITEM_STATE_target i)) ∧ (s.fld R.SPL_STATUS_read_only = 0) ∧ (s.fld (R.CAL_ITEM_COUNT_count i) ≠ 0 ∧ s.now < s.fld (R.CAL_ITEM_TIME_time i) + s.fld R.CAL_CFG_min_commit * 60000000000)) ∧
    (∃ (s : State) (key : Nat) (trims : List Nat),
      (s.fld R.CAL_CFG_auto_dram = 1) ∧ (s.cal.frozenDram.contains key = false) ∧ (s.inForce 3 key = none) ∧ (s.fld R.SPL_STATUS_read_only = 0)) ∧
    (∃ (s : State) (i : Nat),
      (i < 128)) ∧
    (∃ (s : State) (i : Nat),
      (i < 128)) ∧
    (∃ (s : State) (i x : Nat),
      (i < 128) ∧ (x < 16384)) ∧
    (∃ (s : State) (bus : Bus) (id : Nat) (c : Cmd),
      (Startable s id .calRun c) ∧ (c.p 9 1 = 0 ∨ 128 < c.pb 8 0 7 + c.p 9 1)) ∧
    (∃ (s : State) (bus : Bus) (id : Nat) (c : Cmd),
      (Startable s id .calRun c) ∧ (c.p 9 1 = 1 ∧ c.pb 8 0 7 < 128) ∧ (s.deferFull c = false) ∧ (s.fld (R.CAL_ITEM_STATE_freeze (c.pb 8 0 7)) = 0)) ∧
    (∃ (s : State) (bus : Bus) (id : Nat) (c : Cmd),
      (Startable s id .calRollback c) ∧ (s.deferFull c = false) ∧ (c.pb 8 0 2 = 1 ∧ c.p 9 1 = 0 ∧ c.p 14 2 = 1 ∧ c.p 12 2 < 128) ∧ (c.flag 10 0 = true ∧ c.flag 10 1 = false) ∧ (c.itemList = false)) ∧
    (∃ (s : State) (bus : Bus) (id : Nat) (c : Cmd) (r : Record),
      (Startable s id .calRollback c) ∧ (s.deferFull c = false) ∧ (c.pb 8 0 2 = 1 ∧ 1 ≤ c.p 9 1 ∧ c.p 9 1 ≤ 3 ∧ c.p 14 2 = 1 ∧ c.p 12 2 < 128) ∧ (c.flag 10 0 = false ∧ c.flag 10 1 = false) ∧ ((s.recordsOf 1 (c.p 12 2))[c.p 9 1]? = some r) ∧ (s.fld R.SPL_STATUS_read_only = 0)) :=
  ⟨⟨{ State.reset with cal := {}, regs := [(R.CAL_ITEM_STATE 3, 0)] },
      3,
      77, by decide⟩,
    ⟨{ State.reset with cal := {}, regs := [(R.CAL_ITEM_STATE 3, 0), (R.CAL_ITEM_COUNT 3, 1), (R.CAL_ITEM_TIME 3, BitVec.ofNat 64 State.reset.now)] },
      3,
      77, by decide⟩,
    ⟨{ State.reset with cal := {}, spl := {} }.setReg R.CAL_CFG (resetReg R.CAL_CFG) |>.setFld R.SPL_STATUS_read_only 0,
      5,
      [1, 2, 300], by decide⟩,
    ⟨State.reset.setFld (R.CAL_ITEM_STATE_target 4) 9 |>.setFld (R.CAL_ITEM_STATE_dac 4) 8,
      4, by decide⟩,
    ⟨State.reset.setFld (R.CAL_ITEM_STATE_target 127) 9 |>.setFld (R.CAL_ITEM_STATE_dac 127) 16383,
      127, by decide⟩,
    ⟨State.reset,
      4,
      16383, by decide⟩,
    ⟨withCmd State.reset (cmdWith 3 0 .calRun [127, 2]),
      {},
      3,
      cmdWith 3 0 .calRun [127, 2], by decide⟩,
    ⟨withCmd { State.reset with regs := [(R.CAL_ITEM_STATE 127, 0)] } (cmdWith 3 0 .calRun [127, 1]),
      {},
      3,
      cmdWith 3 0 .calRun [127, 1], by decide⟩,
    ⟨withCmd State.reset (cmdWith 3 0 .calRollback [1, 0, 1, 0, 9, 0, 1, 0]),
      {},
      3,
      cmdWith 3 0 .calRollback [1, 0, 1, 0, 9, 0, 1, 0], by decide⟩,
    ⟨withCmd { State.reset with spl := { records := [⟨1, 9, false, false, [1, 2], 5, 0, 0, 0⟩, ⟨1, 9, false, false, [3, 2], 6, 0, 0, 0⟩] } } (cmdWith 3 0 .calRollback [1, 1, 0, 0, 9, 0, 1, 0]) |>.setFld R.SPL_STATUS_read_only 0,
      {},
      3,
      cmdWith 3 0 .calRollback [1, 1, 0, 0, 9, 0, 1, 0],
      ⟨1, 9, false, false, [1, 2], 5, 0, 0, 0⟩, by decide⟩⟩

/-- States and operands that meet the hypotheses of each clause of `TheStoryPoleAndFirmwareSlots`. -/
theorem witness_TheStoryPoleAndFirmwareSlots :
    (∃ (s : State) (n : NewRecord) (rest : List NewRecord),
      (s.spl.queue = n :: rest) ∧ (s.fld R.SPL_STATUS_read_only = 0) ∧ (s.spl.programmed = false)) ∧
    (∃ (s : State) (n : NewRecord) (rest : List NewRecord),
      (s.spl.queue = n :: rest) ∧ (s.fld R.SPL_STATUS_read_only = 0) ∧ (s.spl.programmed = true) ∧ (n.kind = 1 ∧ n.key < 128 ∧ n.rolledBack = false ∧ n.copied = false ∧ n.time = none ∧ n.waiters = [])) ∧
    (∃ (s : State) (k m : Nat) (more : List Nat),
      (s.spl.written = k :: m :: more) ∧ (s.spl.erasing = none) ∧ (s.fld R.SPL_STATUS_read_only = 0) ∧ (s.fld R.SPL_STATUS_free < 8)) ∧
    (∃ (s : State) (k : Nat),
      (s.spl.erasing = some k) ∧ (s.spl.queue.any (fun n => n.copied) = false)) ∧
    (∃ (s : State) (k : Nat),
      (s.spl.erasing = some k) ∧ (s.fld R.SPL_STATUS_read_only = 0) ∧ (s.spl.bad.length ≤ 1007)) ∧
    (∃ (s : State) (bus : Bus) (id : Nat) (c : Cmd) (r : Record),
      (Startable s id .splRead c) ∧ (1 ≤ c.pb 20 0 5 ∧ c.pb 20 0 5 ≤ 16) ∧ (s.recordsOf (c.p 16 1) (c.p 18 2) = [r]) ∧ (c.itemList = false) ∧ (busFails bus (c.p 8 8) r.bytes.length = false)) ∧
    (∃ (s : State) (bus : Bus) (id : Nat) (c : Cmd),
      (Startable s id .fwWrite c) ∧ (c.p 16 4 % 4096 = 0 ∧ c.p 20 4 % 4096 = 0 ∧ 0 < c.p 20 4 ∧ c.p 20 4 ≤ 1048576) ∧ (c.p 16 4 + c.p 20 4 ≤ slotBytes) ∧ (s.spl.trialMark = false ∧ s.fld R.SPL_FW_STATUS_trial = 0 ∧ s.deferFull c = false) ∧ (busFails bus (c.p 8 8) (c.p 20 4) = false) ∧ (c.itemList = false)) ∧
    (∃ (s : State) (bus : Bus) (id : Nat) (c : Cmd),
      (Startable s id .fwActivate c) ∧ (c.pb 8 0 2 = 0) ∧ (s.slotOk s.otherSlot = true) ∧ (c.itemList = false)) ∧
    (∃ (s : State) (bus : Bus) (id : Nat) (c : Cmd),
      (Startable s id .fwActivate c) ∧ (c.pb 8 0 2 = 1) ∧ (s.fld R.SPL_FW_STATUS_trial = 0)) ∧
    (∃ (s : State) (bus : Bus) (id : Nat) (c : Cmd),
      (Startable s id .fwActivate c) ∧ (c.pb 8 0 2 = 1) ∧ (s.fld R.SPL_FW_STATUS_trial = 1) ∧ (c.itemList = false) ∧ (s.fld R.SPL_STATUS_read_only = 0)) ∧
    (∃ (s : State) (bus : Bus) (id : Nat) (c : Cmd),
      (Startable s id .fwActivate c) ∧ (c.pb 8 0 2 = 2) ∧ (c.itemList = false)) :=
  ⟨⟨{ State.reset with spl := { State.reset.spl with queue := [{ kind := 1, key := 2, body := [7, 8] }], programmed := false } }.setFld R.SPL_STATUS_read_only 0,
      { kind := 1, key := 2, body := [7, 8] },
      [], by decide⟩,
    ⟨{ State.reset with spl := { State.reset.spl with queue := [{ kind := 1, key := 2, body := [7, 8] }], programmed := true } }.setFld R.SPL_STATUS_read_only 0,
      { kind := 1, key := 2, body := [7, 8] },
      [], by decide⟩,
    ⟨{ State.reset with spl := { records := [⟨1, 9, false, false, [1, 2], 5, 0, 0, 0⟩, ⟨1, 9, false, false, [3, 2], 6, 0, 0, 4⟩], written := [0, 4, 5] } }.setFld R.SPL_STATUS_read_only 0 |>.setFld R.SPL_STATUS_free 7,
      0,
      4,
      [5], by decide⟩,
    ⟨{ State.reset with spl := { records := [⟨1, 9, false, false, [1, 2], 5, 0, 0, 0⟩], written := [0, 4, 5], erasing := some 0 } },
      0, by decide⟩,
    ⟨{ State.reset with spl := { written := [0, 4, 5], erasing := some 0 } }.setFld R.SPL_STATUS_read_only 0,
      0, by decide⟩,
    ⟨withCmd { State.reset with spl := { records := [⟨1, 9, false, false, [1, 2], 5, 0, 0, 0⟩] } } (cmdWith 3 0 .splRead [0, 16, 0, 0, 0, 0, 0, 0, 1, 0, 9, 0, 16]),
      {},
      3,
      cmdWith 3 0 .splRead [0, 16, 0, 0, 0, 0, 0, 0, 1, 0, 9, 0, 16],
      ⟨1, 9, false, false, [1, 2], 5, 0, 0, 0⟩, by decide⟩,
    ⟨withCmd { State.reset with spl := {} } (cmdWith 3 0 .fwWrite [0, 16, 0, 0, 0, 0, 0, 0, 0, 0, 0, 0, 0, 16, 0, 0]) |>.setFld R.SPL_FW_STATUS_trial 0,
      { mem := [(4096, 1#8), (4097, 2#8)] },
      3,
      cmdWith 3 0 .fwWrite [0, 16, 0, 0, 0, 0, 0, 0, 0, 0, 0, 0, 0, 16, 0, 0], by decide⟩,
    ⟨withCmd { State.reset with spl := { shipped := [0, 1] } } (cmdWith 3 0 .fwActivate [0]) |>.setFld R.SPL_FW_STATUS_fuse 0,
      {},
      3,
      cmdWith 3 0 .fwActivate [0], by decide⟩,
    ⟨withCmd State.reset (cmdWith 3 0 .fwActivate [1]) |>.setFld R.SPL_FW_STATUS_trial 0,
      {},
      3,
      cmdWith 3 0 .fwActivate [1], by decide⟩,
    ⟨withCmd State.reset (cmdWith 3 0 .fwActivate [1]) |>.setFld R.SPL_FW_STATUS_trial 1 |>.setFld R.SPL_STATUS_read_only 0,
      {},
      3,
      cmdWith 3 0 .fwActivate [1], by decide⟩,
    ⟨withCmd State.reset (cmdWith 3 0 .fwActivate [2]),
      {},
      3,
      cmdWith 3 0 .fwActivate [2], by decide⟩⟩

/-- States and operands that meet the hypotheses of each clause of `BentsAgeAndTruingPassesTrueThem`. -/
theorem witness_BentsAgeAndTruingPassesTrueThem :
    (∃ (s : State) (b : Nat) (ds : List Nat),
      (b < 8) ∧ (s.bentOn b = true) ∧ ((s.recordsOf 4 b).length < 2) ∧ (s.fld R.SPL_STATUS_read_only = 0)) ∧
    (∃ (s : State),
      (s.fld R.CAL_TRUE_CFG_interval ≠ 0) ∧ (s.cal.pass = none) ∧ (s.passForbidden = false) ∧ (s.passHot = false) ∧ ((List.range 8).all (fun b => s.fld (R.ENG_BENT_STATUS_state b) == 1) = true)) ∧
    (∃ (s : State),
      (s.fld R.CAL_TRUE_CFG_interval ≠ 0) ∧ (s.cal.pass = none) ∧ (s.passForbidden = true ∨ s.passHot = true)) ∧
    (∃ (s : State) (offset ceiling : Option Nat) (ds : List Nat) (p : Pass) (b : Nat) (rest : List Nat),
      (s.cal.pass = some p) ∧ (p.cur = none) ∧ (p.todo = b :: rest) ∧ (b < 8) ∧ (s.fld (R.ENG_BENT_STATUS_state b) = 1) ∧ (s.cal.frozenBents.contains b = false)) ∧
    (∃ (s : State) (v : Nat) (ceiling : Option Nat) (ds : List Nat) (p : Pass) (b : Nat),
      (s.cal.pass = some p) ∧ (p.cur = some b) ∧ (b < 8) ∧ (p.planned = false) ∧ (s.fld (R.ENG_BENT_STATUS_state b) = 3) ∧ (v + s.fld R.CAL_TRUE_CFG_guard ≤ 30) ∧ (s.fld R.SPL_STATUS_read_only = 0)) ∧
    (∃ (s : State) (bus : Bus) (id : Nat) (c : Cmd),
      (Startable s id .truingRun c) ∧ (s.passForbidden = true)) ∧
    (∃ (s : State) (bus : Bus) (id : Nat) (c : Cmd),
      (Startable s id .truingRun c) ∧ (s.cal.pass = none) ∧ (s.deferFull c = false) ∧ ((List.range 8).all (fun b => s.fld (R.ENG_BENT_STATUS_state b) == 1) = true) ∧ (c.p 8 1 ≠ 0)) :=
  ⟨⟨{ State.reset with spl := {} }.setReg (R.PWC_DOMAIN 9) 0 |>.setFld R.SPL_STATUS_read_only 0,
      4,
      [5, 100000, 7, 100000, 200000], by decide⟩,
    ⟨(List.range 8).foldl (fun s i => s.setFld (R.ENG_BENT_STATUS_state i) 1) ((List.range 16).foldl (fun s z => s.setReg (R.THM_ZONE z) 0) ({ State.reset with cal := {} }.setReg R.CAL_TRUE_CFG (resetReg R.CAL_TRUE_CFG) |>.setReg R.PWC_STATUS 0)), by decide⟩,
    ⟨{ State.reset with cal := {} }.setReg R.CAL_TRUE_CFG (resetReg R.CAL_TRUE_CFG) |>.setFld R.PWC_STATUS_limiting 1, by decide⟩,
    ⟨{ State.reset with cal := { pass := some ⟨none, [2, 3], [2, 3], none, false⟩ } }.setFld (R.ENG_BENT_STATUS_state 2) 1,
      none,
      none,
      [],
      ⟨none, [2, 3], [2, 3], none, false⟩,
      2,
      [3], by decide⟩,
    ⟨{ State.reset with cal := { pass := some ⟨none, [2, 3], [3], some 2, false⟩ } }.setFld (R.ENG_BENT_STATUS_state 2) 3 |>.setReg R.CAL_TRUE_CFG (resetReg R.CAL_TRUE_CFG) |>.setFld R.SPL_STATUS_read_only 0,
      12,
      none,
      [1, 2, 3, 4],
      ⟨none, [2, 3], [3], some 2, false⟩,
      2, by decide⟩,
    ⟨withCmd (State.reset.setFld (R.ENG_BENT_STATUS_state 3) 4) (cmdWith 3 0 .truingRun [0]),
      {},
      3,
      cmdWith 3 0 .truingRun [0], by decide⟩,
    ⟨(List.range 8).foldl (fun s i => s.setFld (R.ENG_BENT_STATUS_state i) 1) (withCmd { State.reset with cal := {} } (cmdWith 3 0 .truingRun [0x81])),
      {},
      3,
      cmdWith 3 0 .truingRun [0x81], by decide⟩⟩

/-- States and operands that meet the hypotheses of each clause of `CountersCountChainAndArePreset`. -/
theorem witness_CountersCountChainAndArePreset :
    (∃ (s : State) (n d : Nat),
      (n < 256) ∧ (s.fld (R.PFC_CTL_enable n) = 1 ∧ s.fld R.PFC_GLOBAL_freeze = 0) ∧ (s.fld (R.PFC_CTL_event n) ≠ 0) ∧ (isOccupancy (s.fld (R.PFC_CTL_event n)) = false) ∧ (s.chainedOdd n = false) ∧ (s.fld (R.PWC_DOMAIN_depth (counterDomain n)) = 0) ∧ (s.fld (R.PFC_VAL_count n) + 1 < 2 ^ 48)) ∧
    (∃ (s : State) (n d : Nat),
      (n < 256 ∧ n % 2 = 0) ∧ (s.fld (R.PFC_CTL_enable n) = 1 ∧ s.fld R.PFC_GLOBAL_freeze = 0) ∧ (s.fld (R.PFC_CTL_event n) ≠ 0) ∧ (isOccupancy (s.fld (R.PFC_CTL_event n)) = false) ∧ (s.fld (R.PFC_CTL_chain n) = 1) ∧ (s.fld (R.PWC_DOMAIN_depth (counterDomain n)) = 0) ∧ (s.fld (R.PFC_VAL_count n) + 1 = 2 ^ 48) ∧ (s.fld (R.PFC_VAL_count (n + 1)) + 1 < 2 ^ 48)) ∧
    (∃ (s : State) (n d : Nat),
      (n < 256) ∧ (s.fld (R.PFC_CTL_enable n) = 1 ∧ s.fld R.PFC_GLOBAL_freeze = 0) ∧ (s.fld (R.PFC_CTL_event n) ≠ 0) ∧ (isOccupancy (s.fld (R.PFC_CTL_event n)) = false) ∧ (s.fld (R.PFC_CTL_chain n) = 0 ∧ s.chainedOdd n = false) ∧ (s.fld (R.PWC_DOMAIN_depth (counterDomain n)) = 0) ∧ (s.fld (R.PFC_VAL_count n) + 1 = 2 ^ 48) ∧ (s.mayPost (0x0C00000000 + n) 1000000000 = true)) ∧
    (∃ (s : State) (n d : Nat),
      (n < 256) ∧ (s.fld (R.PFC_CTL_enable n) = 1 ∧ s.fld R.PFC_GLOBAL_freeze = 0) ∧ (isOccupancy (s.fld (R.PFC_CTL_event n)) = true) ∧ (s.chainedOdd n = false) ∧ (s.fld (R.PFC_CTL_occ n) = 0) ∧ (s.fld (R.PWC_DOMAIN_depth (counterDomain n)) = 0) ∧ (s.fld (R.PFC_VAL_count n) + d < 2 ^ 48)) ∧
    (∃ (s : State) (n v : Nat),
      (n < 256) ∧ (v < 2 ^ 48) ∧ (s.fld (R.PWC_DOMAIN_depth (counterDomain n)) = 0)) ∧
    (∃ (s : State) (n : Nat),
      (n < 256 ∧ n % 2 = 0) ∧ (s.fld (R.PFC_CTL_chain n) = 1)) ∧
    (∃ (s : State) (bus : Bus) (id : Nat) (c : Cmd) (w : Nat),
      (Startable s id .pfcProgram c) ∧ (c.p 17 1 = 0 ∧ c.p 16 1 < 256) ∧ (busRead bus (c.p 8 8) 8 = some (leBytes 8 w)) ∧ (w < 2 ^ 64) ∧ (c.client = 0) ∧ (c.flag 18 0 = true) ∧ (counterCan (c.p 16 1) (bitsOf w 0 8) (bitsOf w 8 8) = true) ∧ (c.itemList = false)) ∧
    (∃ (s : State) (bus : Bus) (id : Nat) (c : Cmd),
      (Startable s id .pfcProgram c) ∧ (256 < c.p 16 1 + (c.p 17 1 + 1))) :=
  ⟨⟨State.reset.setReg (R.PFC_CTL 161) 0x10001 |>.setReg (R.PFC_CTL 160) 0 |>.setReg (R.PWC_DOMAIN 1) 0 |>.setReg R.PFC_GLOBAL 0 |>.setReg (R.PFC_CTL 161) 0x10040,
      161,
      9, by decide⟩,
    ⟨State.reset.setReg (R.PFC_CTL 254) 0x50040 |>.setReg (R.PWC_DOMAIN 1) 0 |>.setReg R.PFC_GLOBAL 0 |>.setReg (R.PFC_VAL 254) 0xFFFFFFFFFFFF |>.setReg (R.PFC_VAL 255) 5,
      254,
      9, by decide⟩,
    ⟨State.reset.setReg (R.PFC_CTL 254) 0x10340 |>.setReg (R.PWC_DOMAIN 1) 0 |>.setReg R.PFC_GLOBAL 0 |>.setReg (R.PFC_VAL 254) 0xFFFFFFFFFFFF,
      254,
      9, by decide⟩,
    ⟨State.reset.setReg (R.PFC_CTL 254) 0x10350 |>.setReg (R.PWC_DOMAIN 1) 0 |>.setReg R.PFC_GLOBAL 0 |>.setReg (R.PFC_VAL 254) 7,
      254,
      9, by decide⟩,
    ⟨State.reset.setReg (R.PWC_DOMAIN 14) 0,
      159,
      0xFFFFFFFFFFFF, by decide⟩,
    ⟨{ State.reset with pfc := { latch := some (5, 5) } }.setReg (R.PFC_CTL 6) 0x40000 |>.setReg (R.PFC_VAL 6) 3 |>.setReg (R.PFC_VAL 7) 0x123,
      6, by decide⟩,
    ⟨withCmd State.reset (cmdWith 3 0 .pfcProgram [0, 16, 0, 0, 0, 0, 0, 0, 161, 0, 1]),
      { mem := [(4096, 0x40#8), (4097, 31#8), (4098, 1#8), (4100, 9#8), (4101, 2#8)] },
      3,
      cmdWith 3 0 .pfcProgram [0, 16, 0, 0, 0, 0, 0, 0, 161, 0, 1],
      0x209_0001_1F40, by decide⟩,
    ⟨withCmd State.reset (cmdWith 3 0 .pfcProgram [0, 16, 0, 0, 0, 0, 0, 0, 255, 1, 1]),
      {},
      3,
      cmdWith 3 0 .pfcProgram [0, 16, 0, 0, 0, 0, 0, 0, 255, 1, 1], by decide⟩⟩

/-- States and operands that meet the hypotheses of each clause of `MetersAndSnapshotsFollowTheirWindows`. -/
theorem witness_MetersAndSnapshotsFollowTheirWindows :
    (∃ (s : State) (ns : List Nat),
      (s.pfc.windowsOpen = true)) ∧
    (∃ (s : State) (v : Nat),
      (1 ≤ bitsOf v 0 20 ∧ bitsOf v 0 20 ≤ 1000000)) ∧
    (∃ (s : State) (v : Nat),
      (s.pfc.lastSnap = none)) ∧
    (∃ (s : State) (v : Nat),
      (v.testBit 1 = false)) ∧
    (∃ (s : State) (bus : Bus) (id : Nat) (c : Cmd),
      (Startable s id .pfcSnapshot c) ∧ (s.pfc.lastSnap = none) ∧ (busFails bus (c.p 8 8) 2664 = false) ∧ (c.itemList = false)) :=
  ⟨⟨State.reset,
      [5, 6, 2 ^ 63], by decide⟩,
    ⟨State.reset,
      1000000, by decide⟩,
    ⟨{ State.reset with pfc := {} },
      4, by decide⟩,
    ⟨State.reset,
      0x101, by decide⟩,
    ⟨withCmd { State.reset with pfc := {} } (cmdWith 3 0 .pfcSnapshot [0, 16]),
      {},
      3,
      cmdWith 3 0 .pfcSnapshot [0, 16], by decide⟩⟩

/-- States and operands that meet the hypotheses of each clause of `RecordsAreMadeWrittenAndDrained`. -/
theorem witness_RecordsAreMadeWrittenAndDrained :
    (∃ (s : State) (bay rays flags region ray node slots tDirty : Nat) (offs : List Nat),
      (bay < 64) ∧ (ray / 256 < s.hx * s.hy) ∧ (ray % 256 < s.views) ∧ (s.fld R.PFC_SAMPLE_CFG_tagged = 1) ∧ (shiftSteps rays (Store.get (fun q => seedOf 1 q) s.pfc.shift bay) % 2 ^ s.fld R.PFC_SAMPLE_CFG_k = 0) ∧ (s.fld R.PFC_BUF_BASE_base ≠ 0) ∧ (s.pfc.queue.length < 256)) ∧
    (∃ (s : State) (bay rays flags region ray node slots tDirty : Nat) (offs : List Nat),
      (bay < 64) ∧ (ray / 256 < s.hx * s.hy) ∧ (ray % 256 < s.views) ∧ (s.fld R.PFC_SAMPLE_CFG_tagged = 1) ∧ (shiftSteps rays (Store.get (fun q => seedOf 1 q) s.pfc.shift bay) % 2 ^ s.fld R.PFC_SAMPLE_CFG_k ≠ 0)) ∧
    (∃ (s : State) (item source iid lat : Nat),
      (s.fld R.PFC_SAMPLE_CFG_precise = 1) ∧ (1 ≤ item ∧ item ≤ 5 ∧ (s.fld R.PFC_SAMPLE_CFG_items).testBit (item - 1) = true) ∧ (10 * s.fld R.PFC_SAMPLE_CFG_threshold ≤ lat) ∧ (s.fld R.PFC_BUF_BASE_base ≠ 0) ∧ (s.pfc.queue.length < 256)) ∧
    (∃ (s : State) (d : List Byte) (rest : List (List Byte)),
      (s.pfc.queue = d :: rest) ∧ (d.length = 64) ∧ ((s.fld R.PFC_BUF_WR_index + 1) % s.recordPlaces ≠ s.fld R.PFC_BUF_RD_index)) ∧
    (∃ (s : State) (d : List Byte) (rest : List (List Byte)),
      (s.pfc.queue = d :: rest) ∧ ((s.fld R.PFC_BUF_WR_index + 1) % s.recordPlaces = s.fld R.PFC_BUF_RD_index)) ∧
    (∃ (s : State) (bus : Bus) (id : Nat) (c : Cmd),
      (Startable s id .sampleDrain c) ∧ (64 ≤ c.p 16 4 ∧ c.p 16 4 ≤ 1073741824) ∧ (s.pfc.drain = none) ∧ (s.deferFull c = false) ∧ (c.flag 20 0 = false)) ∧
    (∃ (s : State) (bus : Bus) (id : Nat) (c : Cmd),
      (s.pfc.drain = some id) ∧ (s.cmdOf id = some c) ∧ (c.flag 20 0 = false) ∧ (s.unread = 1) ∧ (s.fld R.PFC_BUF_RD_index < s.recordPlaces) ∧ (64 ≤ c.p 16 4) ∧ (busFails bus (c.p 8 8) 64 = false) ∧ (c.phase = .deferred ∧ c.items = [none] ∧ c.itemList = false)) :=
  ⟨⟨{ withGeom State.reset with pfc := { shift := [(3, 0x80000000)] } }.setReg R.PFC_SAMPLE_CFG 9 |>.setReg R.PFC_BUF_BASE 2,
      3,
      0,
      0x3F,
      0x1234,
      257,
      5,
      6,
      9,
      [1, 2, 2 ^ 40], by decide⟩,
    ⟨{ withGeom State.reset with pfc := { shift := [(3, 0x80000000)] } }.setReg R.PFC_SAMPLE_CFG 9 |>.setReg R.PFC_BUF_BASE 2,
      3,
      1,
      0x3F,
      0x1234,
      257,
      5,
      6,
      9,
      [1, 2, 2 ^ 40], by decide⟩,
    ⟨{ State.reset with pfc := {} }.setReg R.PFC_SAMPLE_CFG 0xFFC0 |>.setReg R.PFC_BUF_BASE 2,
      5,
      3,
      8,
      2 ^ 40, by decide⟩,
    ⟨{ State.reset with pfc := { queue := [List.replicate 64 7#8, []] } }.setReg R.PFC_BUF_WR 1023 |>.setReg R.PFC_BUF_RD 1 |>.setReg R.PFC_BUF_SIZE 16,
      List.replicate 64 7#8,
      [[]], by decide⟩,
    ⟨{ State.reset with pfc := { queue := [List.replicate 64 7#8, []] } }.setReg R.PFC_BUF_WR 1023 |>.setReg R.PFC_BUF_RD 0 |>.setReg R.PFC_BUF_SIZE 16,
      List.replicate 64 7#8,
      [[]], by decide⟩,
    ⟨withCmd { State.reset with pfc := {} } (cmdWith 3 0 .sampleDrain [0, 16, 0, 0, 0, 0, 0, 0, 64]),
      {},
      3,
      cmdWith 3 0 .sampleDrain [0, 16, 0, 0, 0, 0, 0, 0, 64], by decide⟩,
    ⟨withCmd { State.reset with pfc := { drain := some 3 } } { cmdWith 3 0 .sampleDrain [0, 16, 0, 0, 0, 0, 0, 0, 64] with phase := .deferred, items := [none] } |>.setReg R.PFC_BUF_SIZE 16 |>.setReg R.PFC_BUF_RD 1023 |>.setReg R.PFC_BUF_WR 0,
      {},
      3,
      { cmdWith 3 0 .sampleDrain [0, 16, 0, 0, 0, 0, 0, 0, 64] with phase := .deferred, items := [none] }, by decide⟩⟩

/-- States and operands that meet the hypotheses of each clause of `ColdResetsLeaveTheResetValues`. -/
theorem witness_ColdResetsLeaveTheResetValues :
    (∃ (s : State) (cause : Nat) (p : Straps),
      (cause = 1 ∨ (cause = 2 ∧ s.fld R.PWC_PFAIL_committed = 0))) ∧
    (∃ (s : State) (cause : Nat) (p : Straps),
      (cause = 1 ∨ (cause = 2 ∧ s.fld R.PWC_PFAIL_committed = 0))) ∧
    (∃ (s : State) (p : Straps),
      (s.pwc.locked = true)) ∧
    (∃ (s : State) (p : Straps),
      (s.pwc.vinReversed = true)) ∧
    (∃ (s : State) (p : Straps),
      (s.pwc.locked = false)) :=
  ⟨⟨withCmd State.reset (cmdWith 3 0 .blitJob [0]),
      1,
      { hostBif := true, refSel := true, refOk := false }, by decide⟩,
    ⟨State.reset.setReg R.PWC_PFAIL 0,
      2,
      { pinLow := true }, by decide⟩,
    ⟨{ State.reset with pwc := { locked := true } },
      {}, by decide⟩,
    ⟨{ State.reset with pwc := { locked := true, vinReversed := true } },
      {}, by decide⟩,
    ⟨{ State.reset with pwc := {} },
      {}, by decide⟩⟩

/-- States and operands that meet the hypotheses of each clause of `TheBootTakesAnImageAndScansTheJournal`. -/
theorem witness_TheBootTakesAnImageAndScansTheJournal :
    (∃ (s : State) (bus : Bus),
      (s.flt.boot = .verify ∧ s.flt.fwRestarting = false) ∧ (s.spl.trialMark = false ∧ s.spl.fallbackCause = 0) ∧ (s.fld R.SPL_FW_STATUS_trial = 0) ∧ (s.slotOk (s.fld R.SPL_FW_STATUS_active) = true)) ∧
    (∃ (s : State) (bus : Bus),
      (s.flt.boot = .verify ∧ s.flt.fwRestarting = false) ∧ (s.slotOk 0 = false ∧ s.slotOk 1 = false)) ∧
    (∃ (s : State),
      (s.fld R.SPL_FW_STATUS_trial = 1)) ∧
    (∃ (s : State) (bad : Bool) (r : Report) (n : NewRecord),
      (s.flt.boot = .scan) ∧ (s.flt.report = some r) ∧ (r.level = 2 ∧ r.dramLost = false ∧ r.cause ≠ 9) ∧ (s.spl.programmed = true ∧ s.spl.queue = [n]) ∧ (s.spl.bad = [] ∧ s.hst.held = [])) :=
  ⟨⟨{ State.reset with flt := {}, spl := {} }.setReg R.SPL_FW_STATUS 0,
      {}, by decide⟩,
    ⟨{ State.reset with flt := {}, spl := { shipped := [] } },
      {}, by decide⟩,
    ⟨State.reset.setFld R.SPL_FW_STATUS_trial 1, by decide⟩,
    ⟨{ State.reset with hst := {}, flt := { boot := .scan, report := some { level := 2, cause := 3 } }, spl := { programmed := true, queue := [{ kind := 4, key := 3, body := [] }], records := [⟨5, 1, false, false, [1], 3, 4, 5, 6⟩] } },
      true,
      { level := 2, cause := 3 },
      { kind := 4, key := 3, body := [] }, by decide⟩⟩

/-- States and operands that meet the hypotheses of each clause of `WarmResetsKeepWhatTheyMust`. -/
theorem witness_WarmResetsKeepWhatTheyMust :
    (∃ (s : State) (cause : Nat),
      (cause = 3 ∨ cause = 4 ∨ cause = 5 ∨ cause = 6 ∨ cause = 7 ∨ cause = 10) ∧ (s.mayReset = true) ∧ (s.fld R.PWC_STATUS_state ≠ 3) ∧ (s.inBounds = true) ∧ (s.hst.held = [])) ∧
    (∃ (s : State) (cause : Nat),
      (cause = 3 ∨ cause = 4 ∨ cause = 5 ∨ cause = 6 ∨ cause = 7 ∨ cause = 10) ∧ (s.mayReset = true) ∧ (s.fld R.PWC_STATUS_state ≠ 3) ∧ (s.inBounds = true) ∧ (s.hst.held = [])) ∧
    (∃ (s : State),
      (s.pwc.failed = true ∧ s.pwc.locked = false)) ∧
    (∃ (s : State) (source : Nat),
      (s.mayReset = true) ∧ (s.fld R.PWC_STATUS_state = 2) ∧ (source = 3 ∨ (source < 3 ∧ s.pwc.wake.testBit source = true))) ∧
    (∃ (s : State),
      (s.mayReset = true) ∧ (s.fld R.PWC_STATUS_state = 3) ∧ (s.pwc.wake.testBit 2 = true)) ∧
    (∃ (s : State) (cool : Bool),
      (s.flt.pinLow = false) ∧ (s.mayReset = true) ∧ (s.fld R.PWC_STATUS_state < 2)) ∧
    (∃ (s : State),
      (s.flt.pinLow = false) ∧ (s.pwc.shut = true ∧ s.pwc.locked = false ∧ s.pwc.failed = false)) ∧
    (∃ (s : State),
      (s.flt.pinLow = false) ∧ (s.pwc.shut = true ∧ s.pwc.locked = false ∧ s.pwc.failed = false)) ∧
    (∃ (s : State) (cool : Bool),
      (s.flt.boot = .held)) ∧
    (∃ (s : State),
      (s.mayReset = true)) ∧
    (∃ (s : State) (bus : Bus) (id : Nat) (c : Cmd),
      (Startable s id .moduleReset c) ∧ (c.p 8 4 = 0x52535457) ∧ (s.cmd.inflight = [c]) ∧ (c.client < 16) ∧ (s.flt.closed = []) ∧ (s.mayReset = true)) ∧
    (∃ (s : State) (bus : Bus) (id : Nat) (c : Cmd),
      (Startable s id .moduleReset c) ∧ (c.p 8 4 ≠ 0x52535457)) :=
  ⟨⟨withCmd { State.reset with hst := {} } (cmdWith 3 0 .blitJob [0]) |>.setFld R.PWC_STATUS_state 0,
      3, by decide⟩,
    ⟨{ State.reset with hst := {}, dmg := { regions := [(3, { state := 2 })] } }.setFld R.PWC_STATUS_state 2,
      6, by decide⟩,
    ⟨{ State.reset with pwc := { failed := true } }, by decide⟩,
    ⟨{ State.reset with pwc := { wake := 2 } }.setFld R.PWC_STATUS_state 2,
      1, by decide⟩,
    ⟨{ State.reset with pwc := { wake := 4 } }.setFld R.PWC_STATUS_state 3, by decide⟩,
    ⟨{ State.reset with flt := {} }.setFld R.PWC_STATUS_state 1,
      false, by decide⟩,
    ⟨{ State.reset with flt := {}, pwc := { shut := true } }, by decide⟩,
    ⟨{ State.reset with flt := {}, pwc := { shut := true } }, by decide⟩,
    ⟨{ State.reset with flt := { boot := .held, pinLow := true } },
      true, by decide⟩,
    ⟨{ State.reset with pwc := {} }, by decide⟩,
    ⟨withCmd { State.reset with flt := {}, pwc := {} } (cmdWith 3 0 .moduleReset [0x57, 0x54, 0x53, 0x52]),
      {},
      3,
      cmdWith 3 0 .moduleReset [0x57, 0x54, 0x53, 0x52], by decide⟩,
    ⟨withCmd State.reset (cmdWith 3 0 .moduleReset [1]),
      {},
      3,
      cmdWith 3 0 .moduleReset [1], by decide⟩⟩

/-- States and operands that meet the hypotheses of each clause of `PartsAreResetAlone`. -/
theorem witness_PartsAreResetAlone :
    (∃ (s : State) (f : Nat),
      (f < 16) ∧ (s.hostCut = false) ∧ (s.present f = true) ∧ ((s.cmd.inflight.map Cmd.id).Nodup)) ∧
    (∃ (s : State),
      (s.flt.boot = .up ∧ s.flt.fwRestarting = false) ∧ (s.hostCut = false) ∧ ((s.cmd.inflight.map Cmd.id).Nodup)) ∧
    (∃ (s : State) (bus : Bus) (id : Nat) (c : Cmd),
      (Startable s id .blockReset c) ∧ (c.pb 8 0 2 = 0)) ∧
    (∃ (s : State) (bus : Bus) (id : Nat) (c : Cmd),
      (Startable s id .blockReset c) ∧ (c.pb 8 0 2 = 1) ∧ (c.itemList = false) ∧ (s.inBounds = true)) ∧
    (∃ (s : State) (bus : Bus) (id : Nat) (c : Cmd),
      (Startable s id .blockReset c) ∧ (c.pb 8 0 2 = 3) ∧ ((s.cmd.inflight.map Cmd.id).Nodup)) ∧
    (∃ (s : State) (ram addr : Nat),
      (s.mayReset = true)) ∧
    (∃ (s : State) (die : Nat) (ready : List (Nat × Nat)),
      (die < 2) ∧ (s.hst.held = []) ∧ (s.inBounds = true)) :=
  ⟨⟨withCmd { State.reset with pwc := {}, hst := {} } (cmdWith 3 2 .nop []) |>.setFld R.PWC_STATUS_state 0 |>.setFld (R.HST_FN_CFG_present 2) 1,
      2, by decide⟩,
    ⟨withCmd { State.reset with pwc := {}, hst := {}, flt := { boot := .up } } (cmdWith 3 2 .nop []) |>.setFld R.PWC_STATUS_state 0, by decide⟩,
    ⟨withCmd State.reset (cmdWith 3 0 .blockReset [0]),
      {},
      3,
      cmdWith 3 0 .blockReset [0], by decide⟩,
    ⟨withCmd State.reset (cmdWith 3 0 .blockReset [1]),
      {},
      3,
      cmdWith 3 0 .blockReset [1], by decide⟩,
    ⟨withCmd State.reset (cmdWith 3 0 .blockReset [3]),
      {},
      3,
      cmdWith 3 0 .blockReset [3], by decide⟩,
    ⟨{ State.reset with pwc := {} },
      1,
      70000, by decide⟩,
    ⟨{ State.reset with hst := {} },
      1,
      [], by decide⟩⟩

/-- States and operands that meet the hypotheses of each clause of `LedgerSnapshotsAndReportsAreWritten`. -/
theorem witness_LedgerSnapshotsAndReportsAreWritten :
    (∃ (s : State) (bus : Bus) (id : Nat) (c : Cmd),
      (Startable s id .ledgerSnapshot c) ∧ (c.flag 16 0 = false) ∧ (c.itemList = false) ∧ (busFails bus (c.p 8 8) 90616 = false)) ∧
    (∃ (s : State) (bus : Bus) (id : Nat) (c : Cmd),
      (Startable s id .reportRead c) ∧ (c.p 16 4 < 64)) ∧
    (∃ (s : State) (bus : Bus) (id : Nat) (c : Cmd) (r : Report),
      (Startable s id .reportRead c) ∧ (64 ≤ c.p 16 4) ∧ (c.flag 20 0 = false ∧ c.flag 20 1 = false) ∧ (s.flt.report = some r) ∧ (busFails bus (c.p 8 8) (r.written c.client (c.p 16 4)).length = false) ∧ (c.itemList = false)) ∧
    (∃ (s : State) (bus : Bus) (id : Nat) (c : Cmd),
      (Startable s id .reportRead c) ∧ (64 ≤ c.p 16 4) ∧ (c.flag 20 0 = true ∧ c.flag 20 1 = true) ∧ (Store.get (fun _ => none) s.flt.fnReports c.client = none) ∧ (busFails bus (c.p 8 8) 64 = false) ∧ (c.itemList = false)) :=
  ⟨⟨withCmd State.reset (cmdWith 3 2 .ledgerSnapshot [0, 16]),
      {},
      3,
      cmdWith 3 2 .ledgerSnapshot [0, 16], by decide⟩,
    ⟨withCmd State.reset (cmdWith 3 2 .reportRead [0, 16, 0, 0, 0, 0, 0, 0, 63]),
      {},
      3,
      cmdWith 3 2 .reportRead [0, 16, 0, 0, 0, 0, 0, 0, 63], by decide⟩,
    ⟨withCmd { State.reset with flt := { report := some { level := 2, cause := 3, entries := [⟨2, 0, 1, 2, 3, 4, 5, 6, false, 7⟩, ⟨1, 0, 1, 2, 3, 4, 5, 6, false, 7⟩, ⟨2, 1, 1, 2, 3, 4, 5, 6, false, 7⟩] } } } (cmdWith 3 2 .reportRead [0, 16, 0, 0, 0, 0, 0, 0, 96]),
      {},
      3,
      cmdWith 3 2 .reportRead [0, 16, 0, 0, 0, 0, 0, 0, 96],
      { level := 2, cause := 3, entries := [⟨2, 0, 1, 2, 3, 4, 5, 6, false, 7⟩, ⟨1, 0, 1, 2, 3, 4, 5, 6, false, 7⟩, ⟨2, 1, 1, 2, 3, 4, 5, 6, false, 7⟩] }, by decide⟩,
    ⟨withCmd State.reset (cmdWith 3 2 .reportRead [0, 16, 0, 0, 0, 0, 0, 0, 64, 0, 0, 0, 3]),
      {},
      3,
      cmdWith 3 2 .reportRead [0, 16, 0, 0, 0, 0, 0, 0, 64, 0, 0, 0, 3], by decide⟩⟩

/-- States and operands that meet the hypotheses of each clause of `TheLowSpeedPinsReportAndWake`. -/
theorem witness_TheLowSpeedPinsReportAndWake :
    (∃ (s : State),
      (s.pwc.locked = false)) ∧
    (∃ (s : State),
      (s.pwc.locked = false)) ∧
    (∃ (s : State),
      (s.pwc.locked = false) ∧ (s.pin.alert = true) ∧ (s.pin.smbAddr < 4)) ∧
    (∃ (s : State),
      (s.pwc.locked = false)) ∧
    (∃ (s : State),
      (s.pwc.locked = false)) ∧
    (∃ (s : State) (n : Nat),
      (s.pwc.locked = false) ∧ (n < 104) ∧ (s.fld (R.THM_TEMP_valid n) = 1)) ∧
    (∃ (s : State),
      (s.pwc.locked = false)) ∧
    (∃ (s : State) (d : Nat),
      (d ≠ 0xA5 ∨ s.fld R.PWC_STATUS_state < 2 ∨ s.pwc.wake.testBit 0 = false)) ∧
    (∃ (s : State) (d : Nat),
      (d ≠ 0xA5 ∨ s.fld R.PWC_STATUS_state < 2 ∨ s.pwc.wake.testBit 0 = false)) ∧
    (∃ (s : State),
      (s.mayReset = true) ∧ (s.fld R.PWC_STATUS_state = 2) ∧ (s.pwc.wake.testBit 0 = true)) ∧
    (∃ (s : State),
      (s.pwc.locked = false)) ∧
    (∃ (s : State),
      (s.pwc.locked = false)) ∧
    (∃ (s : State),
      (s.pin.refSel = true ∧ s.pin.refFallback = false)) :=
  ⟨⟨{ State.reset with pwc := {}, pin := { alert := true, refFallback := true } }, by decide⟩,
    ⟨{ State.reset with pwc := { shut := true }, flt := { boot := .failed } }, by decide⟩,
    ⟨{ State.reset with pwc := {}, pin := { alert := true, smbAddr := 3 } }, by decide⟩,
    ⟨{ State.reset with pwc := {}, flt := { boot := .up } }, by decide⟩,
    ⟨{ State.reset with pwc := { shut := true }, flt := { boot := .up } }, by decide⟩,
    ⟨{ State.reset with pwc := {} }.setReg (R.THM_TEMP 3) 0x45000 |>.setReg (R.THM_TEMP 4) 0x4FFFF,
      3, by decide⟩,
    ⟨{ State.reset with pwc := {} }, by decide⟩,
    ⟨{ State.reset with pwc := { wake := 1 } },
      0x5A, by decide⟩,
    ⟨{ State.reset with pwc := { wake := 6 } },
      0xA5, by decide⟩,
    ⟨{ State.reset with pwc := { wake := 1 } }.setFld R.PWC_STATUS_state 2, by decide⟩,
    ⟨{ State.reset with pwc := {}, pin := { refFallback := true } }, by decide⟩,
    ⟨{ State.reset with pwc := { shut := true }, pin := { refFallback := true, alert := true, seen := 4 } }, by decide⟩,
    ⟨{ State.reset with pin := { refSel := true } }, by decide⟩⟩

/-- States and operands that meet the hypotheses of each clause of `ColdResetMapsAllModuleDramThroughWindowZero`. -/
theorem witness_ColdResetMapsAllModuleDramThroughWindowZero :
    ∃ (s : State) (cause : Nat) (p : Straps) (ma : Nat),
      (cause = 1 ∨ cause = 2) ∧ (ma < 64 * 2 ^ 30) :=
  ⟨State.reset,
      1,
      {},
      68719476735, by decide⟩

/-- States and operands that meet the hypotheses of each clause of `AFenceDoorbellSetsTheFenceValue`. -/
theorem witness_AFenceDoorbellSetsTheFenceValue :
    ∃ (s : State) (client k value : Nat),
      (k < 8) ∧ ((s.fld (R.SCN_LAYER_STATUS_owned k) = 1 → s.fld (R.SCN_LAYER_STATUS_owner k) = client)) :=
  ⟨(State.reset.setFld (R.SCN_LAYER_STATUS_owned 5) 1).setFld (R.SCN_LAYER_STATUS_owner 5) 3,
      3,
      5,
      0x123456789A, by decide⟩

/-- States and operands that meet the hypotheses of each clause of `HostSceneAndSynthesisRowsComplete`. -/
theorem witness_HostSceneAndSynthesisRowsComplete :
    (∃ (s : State) (data : Nat),
      (s.reachable 0 = true)) ∧
    (∃ (s : State) (client : Nat),
      (s.reachable client = true) ∧ (Store.get (fun _ => none) s.hst.readLatch client = none)) ∧
    (∃ (s : State) (i low : Nat),
      (s.reachable 0 = true) ∧ (i < 256)) ∧
    (∃ (s : State) (client : Nat),
      (s.reachable client = true) ∧ (client ≠ 0)) ∧
    (∃ (s : State) (data : Nat),
      (s.reachable 0 = true)) ∧
    (∃ (s : State) (client i data : Nat),
      (seesRing client i = true) ∧ (s.fld (R.CMD_SQ_CFG_enable i) = 0) ∧ (s.fld (R.CMD_SQ_CFG_halted i) = 0) ∧ (data.testBit 0 = true)) ∧
    (∃ (s : State) (client i data : Nat),
      (seesRing client i = true) ∧ (s.fld (R.CMD_CQ_CFG_enable i) = 0) ∧ (data.testBit 0 = true) ∧ (s.reservedOf i ≤ 2 ^ (if 6 ≤ bitsOf data 8 4 ∧ bitsOf data 8 4 ≤ 12 then bitsOf data 8 4 else s.fld (R.CMD_CQ_CFG_log2size i)) - 1)) ∧
    (∃ (s : State) (i : Nat),
      (s.fld (R.CMD_CQ_CFG_closing i) = 1) ∧ (s.reservedOf i = 0)) ∧
    (∃ (s : State) (client e data : Nat),
      (s.seesEventRing client e = true) ∧ (data.testBit 0 = true) ∧ (s.fld (R.CMD_EVQ_CFG_enable e) = 0) ∧ (s.fld (R.CMD_EVQ_CFG_halted e) = 0)) ∧
    (∃ (s : State) (client r value : Nat),
      (r < 16) ∧ (s.fld (R.CMD_SQ_CFG_enable (16 * client + r)) = 1) ∧ (value % 2 ^ 32 < s.sqSize (16 * client + r))) ∧
    (∃ (s : State) (client r value : Nat),
      (r < 16) ∧ (s.fld (R.CMD_CQ_CFG_enable (16 * client + r)) = 1) ∧ (value % 2 ^ 32 < s.cqSize (16 * client + r))) ∧
    (∃ (s : State) (client e value : Nat),
      (e < 16) ∧ (s.fld (R.CMD_EVQ_CFG_enable e) = 1) ∧ (s.fld (R.CMD_EVQ_CFG_owner e) = client) ∧ (value % 2 ^ 32 < s.evSize e)) ∧
    (∃ (s : State) (client k value : Nat),
      (k < 8) ∧ ((s.fld (R.SCN_LAYER_STATUS_owned k) = 1 → s.fld (R.SCN_LAYER_STATUS_owner k) = client))) ∧
    (∃ (s : State) (client value : Nat),
      (value < 2 ^ 22) ∧ (s.fld (R.ETH_TXQ_CFG_enable (value / 65536)) = 1) ∧ (s.fld (R.ETH_TXQ_CFG_owner (value / 65536)) = client) ∧ (value % 65536 < 2 ^ s.fld (R.ETH_TXQ_CFG_log2size (value / 65536)))) ∧
    (∃ (s : State) (client value : Nat),
      (value < 2 ^ 25) ∧ (s.fld (R.ETH_RXQ_CFG_enable (value / 65536)) = 1) ∧ (s.fld (R.ETH_RXQ_CFG_owner (value / 65536)) = client) ∧ (value % 65536 < 2 ^ s.fld (R.ETH_RXQ_CFG_log2size (value / 65536)))) ∧
    (∃ (s : State) (bus : Bus) (i : Nat) (p : List Byte),
      (s.fwStopped = false) ∧ (s.cmd.inflight.length < 4096) ∧ (s.pickRing bus = some i) ∧ (s.headPacket bus i = some p)) ∧
    (∃ (s : State) (bus : Bus) (c : Cmd) (d : List Byte),
      (s.fwStopped = false) ∧ (s.cmd.inflight.find? (fun c => c.phase == .queued) = some c) ∧ (c.verdict bus = .start d)) ∧
    (∃ (s : State) (i : Nat) (r : Reply),
      (s.fld (R.CMD_CQ_CFG_enable i) = 1) ∧ (s.fld (R.CMD_CQ_CFG_halted i) = 0) ∧ (s.cmd.replies.find? (fun x => 16 * x.client + x.ring == i) = some r) ∧ (r.signal = false) ∧ (r.final = true) ∧ ((s.reg (R.CMD_CQ_BASE i)).toNat.testBit 0 = false) ∧ ((s.cmdOf r.id).all (fun c => !c.itemList || c.items.isEmpty) = true)) ∧
    (∃ (s : State) (key : Nat),
      (Store.get (fun _ => false) s.cmd.signalWaits key = true) ∧ (Store.get (fun _ => 0) s.cmd.holdUntil key ≤ s.ptp.f)) ∧
    (∃ (s : State) (ef wf : List Nat) (ev : Event) (rest : List Event) (q : Nat),
      (s.hostCut = false) ∧ (s.cmd.events = ev :: rest) ∧ ((List.range 16).filter (fun k => s.eventReaches ev k) = [q]) ∧ (s.fld (R.CMD_EVQ_CFG_halted q) = 0) ∧ (s.evRoom q = true) ∧ (Store.get (fun _ => 0) s.cmd.lostSince q = 0) ∧ ((s.reg (R.CMD_EVQ_BASE q)).toNat.testBit 0 = false) ∧ ((s.reg (R.CMD_EVQ_WB q)).toNat = 0) ∧ (ef.contains q = false) ∧ (Store.get (fun _ => 0) s.cmd.holdUntil (256 + q) ≤ s.ptp.f)) ∧
    (∃ (s : State) (bus : Bus) (id : Nat) (c : Cmd),
      (Startable s id .nop c)) ∧
    (∃ (s : State) (bus : Bus) (id : Nat) (c : Cmd),
      (Startable s id .functionSet c) ∧ (c.pb 8 0 4 ≠ 0) ∧ (s.present (c.pb 8 0 4) = true) ∧ (c.pb 12 0 12 + c.pb 14 0 13 ≤ 4096)) ∧
    (∃ (s : State) (link rate width inverted precoded rxPrecoded : Nat) (flit : Bool) (taps : List (List Int)),
      (s.hostCut = false) ∧ (link = 0) ∧ (rate ≤ 6) ∧ (rate = 0 ∨ (linkWidths s.bifurcated).contains width = true)) ∧
    (∃ (s : State) (vfEnable linkBUp : Bool) (numVFs : Nat),
      (s.hostCut = false) ∧ ((∀ f, f < 16 → s.present f = true → presentWith s.bifurcated vfEnable numVFs linkBUp f = true))) ∧
    (∃ (s : State) (bus : Bus) (id : Nat) (c : Cmd),
      (Startable s id .viewSlopeLoad c) ∧ (0 < c.p 18 2) ∧ (c.p 18 2 ≤ 256) ∧ (c.p 16 1 + c.p 18 2 ≤ s.views) ∧ (bus.bad = [])) ∧
    (∃ (s : State) (bus : Bus) (id : Nat) (c : Cmd),
      (Startable s id .viewCorrectionLoad c) ∧ (c.p 20 2 ≠ 0) ∧ (c.p 22 2 ≠ 0) ∧ (c.p 16 2 + c.p 20 2 ≤ s.hx) ∧ (c.p 18 2 + c.p 22 2 ≤ s.hy) ∧ (s.fld R.SCN_VCF_BASE_base ≠ 0) ∧ (s.isCopying 1 0 = false) ∧ (s.clampDue (s.fld R.SCN_VIEW_CTRL_group) = false) ∧ (bus.bad = []) ∧ (c.flag 24 0 = false)) ∧
    (∃ (s : State) (bus : Bus) (id : Nat) (c : Cmd),
      (Startable s id .regionGridSet c) ∧ (s.gridFault (c.p 8 2) (c.p 10 2) = none) ∧ (s.dmg.pendGrid = none) ∧ (s.sameGrid (c.p 8 2) (c.p 10 2) = false) ∧ (s.inBounds = true) ∧ (s.deferFull c = false)) ∧
    (∃ (s : State) (bus : Bus) (kx ky id : Nat),
      (s.dmg.pendGrid = some (kx, ky, id)) ∧ (s.inBounds = true) ∧ (s.gridFault kx ky = none) ∧ (s.clp.gridDue = true) ∧ (s.sch.jobs = []) ∧ (Store.get (fun _ => none) s.clp.boundary 0 = none) ∧ (s.clp.due.groups = []) ∧ (s.clp.due.flips = [])) ∧
    (∃ (s : State) (bus : Bus) (id : Nat) (c : Cmd) (n : Nat) (new : Layer),
      (Startable s id .layerDefine c) ∧ (n = c.pb 16 0 6) ∧ (s.mayUseLayer c.client n = true) ∧ (c.flag 17 7 = false) ∧ (defineFault n (c.pb 17 0 4) (c.pb 17 4 1) (c.pb 8 0 36) (c.p 20 2) (c.p 22 2) (c.p 24 2) (c.p 26 2) (c.p 28 2) = none) ∧ ((isVideo n = true → videoSizeOk (c.p 20 2) (c.p 22 2) = true)) ∧ (new = { s.shadowLayer n with kind := c.pb 17 4 1, format := c.pb 17 0 4, w := c.p 20 2, h := c.p 22 2, dw := c.p 24 2, dh := c.p 26 2 }) ∧ (s.layerBusy n = false) ∧ ((isVideo n = false → s.tileSlot n = none)) ∧ ((isVideo n = true → new.shrinkFault = none)) ∧ (new.depthOk = true)) ∧
    (∃ (s : State) (bus : Bus) (id : Nat) (c : Cmd) (n : Nat),
      (Startable s id .layerGeometry c) ∧ (n = c.pb 16 0 6) ∧ (s.mayUseLayer c.client n = true) ∧ (fitsSigned 24 (c.p 24 4) = true) ∧ (fitsSigned 22 (c.p 28 4) = true) ∧ (fitsSigned 22 (c.p 32 4) = true) ∧ (fitsSigned 20 (c.p 36 4) = true) ∧ ((c.p 36 4 ≠ 0 → s.fld (R.SCN_LAYER_CFG_kind n) = 1)) ∧ (({ s.shadowLayer n with x0 := sext 16 (c.p 18 2), y0 := sext 16 (c.p 20 2), a := sext 24 (c.p 24 4), b := sext 22 (c.p 28 4), c := sext 22 (c.p 32 4), k := sext 20 (c.p 36 4) } : Layer).depthOk = true)) ∧
    (∃ (s : State) (bus : Bus) (id : Nat) (c : Cmd) (n : Nat),
      (Startable s id .layerColour c) ∧ (n = c.pb 16 0 6) ∧ (s.mayUseLayer c.client n = true) ∧ (c.flag 17 3 = false)) ∧
    (∃ (s : State) (bus : Bus) (id : Nat) (c : Cmd),
      (Startable s id .regionLayersRead c) ∧ (0 < c.p 18 2) ∧ (c.p 18 2 ≤ 4096) ∧ (s.gridOn = true) ∧ (c.p 16 2 + c.p 18 2 ≤ s.regionCount) ∧ (bus.bad = []) ∧ (c.itemList = false)) ∧
    (∃ (s : State) (p v : Nat) (d : List Byte),
      (p < 8) ∧ (s.fld R.SCN_TRS_CFG_enable = 1) ∧ ((TrsHead.of d).sync = 0x7A53) ∧ ((TrsHead.of d).version = 1) ∧ ((TrsHead.of d).stated d = d.length) ∧ (d.length ≤ 9000) ∧ (crc32c (d.take (d.length - 4)) = leAt d (d.length - 4) 4) ∧ (s.slotOfStream (TrsHead.of d).id = some v) ∧ ((s.stream v).sources.testBit p = true) ∧ ((s.countTrs v 0 1).trsTest v (TrsHead.of d) d (slice d ((TrsHead.of d).payloadAt ((TrsHead.of d).subsamples d)) (TrsHead.of d).length) false = .accepted) ∧ ((TrsHead.of d).apron = false)) ∧
    (∃ (s : State) (v : Nat) (h : Hole) (rest : List Hole),
      (v < 64) ∧ ((s.stream v).holes = h :: rest) ∧ (s.trs.units = [])) ∧
    (∃ (s : State) (v f n : Nat) (u : TrsUnit),
      (v < 64) ∧ (s.fld (R.SCN_TRS_STREAM_enable v) = 1) ∧ (s.unitOf v f n = some u) ∧ (u.stage = 0) ∧ ((s.trsGroup (s.slotGroup v)).markers.any (fun m => m.frame == f) = true)) ∧
    (∃ (s : State) (n : Nat) (j : CmpJob) (u : TrsUnit) (a : Wrapper) (e : JobEnd) (t1 : State),
      (n < 8) ∧ (s.unitJob n = some j) ∧ (j.dir = 0) ∧ (j.cls = 1) ∧ (a = Wrapper.of j.data) ∧ (e = a.inflate j.data j.dst) ∧ (s.unitOf (j.who.getD 0 0) (j.who.getD 1 0) (j.who.getD 2 0) = some u) ∧ (u.stage = 1) ∧ (u.type = 0x10) ∧ (s.unitWaits u = false) ∧ (e.out.length = j.dst) ∧ (t1 = (s.countOutcome n j e.status e.reason).freeUnit n e.consumed j.dst) ∧ (t1.bodySize u a = some j.dst) ∧ (e.status = 0) ∧ (s.inBounds = true)) ∧
    (∃ (s : State) (g c x : Nat),
      (s.stagingFrame g = some c) ∧ ((s.trsGroup g).markers.any (fun m => m.frame == c) = false) ∧ ((((s.trsGroup g).markers.map Marker.frame).filter fun f => !frameAtOrBefore f c).foldl lowerFrame none = some x)) ∧
    (∃ (s : State) (bus : Bus) (id v : Nat) (c : Cmd),
      (Startable s id .streamBind c) ∧ (v = c.pb 18 0 6) ∧ (c.flag 19 1 = false) ∧ (s.bindFault v (c.p 16 2) (c.pb 20 0 6) (c.pb 21 0 4) (c.pb 22 0 6) (c.flag 20 7) = none) ∧ ((c.flag 19 0 = true → s.fld R.SCN_TRS_HOLD_BASE_base ≠ 0)) ∧ (s.slotForeign v c.client = false) ∧ (c.flag 20 7 = true ∨ s.mayUseLayer c.client (c.pb 20 0 6) = true) ∧ (c.pb 8 0 36 % 64 = 0) ∧ ((c.pb 22 0 6).testBit 2 = false) ∧ (c.client < 16)) ∧
    (∃ (s t1 : State) (bus : Bus) (id : Nat) (c : Cmd) (d : List Byte) (r : Arrival),
      (Startable s id .trastosSubmit c) ∧ (36 ≤ c.p 16 4) ∧ (c.p 16 4 ≤ 9000) ∧ (s.fld R.SCN_TRS_HOLD_BASE_base ≠ 0) ∧ (c.flag 20 0 = false) ∧ (busRead bus (c.p 8 8) (c.p 16 4) = some d) ∧ ((TrsHead.of d).extCrypto = false) ∧ ((TrsHead.of d).payloadAt 0 + (TrsHead.of d).length + 4 = c.p 16 4) ∧ (s.trsArrive 8 d false = (t1, r))) ∧
    (∃ (s : State) (bus : Bus) (id : Nat) (c : Cmd) (d : List Byte),
      (Startable s id .kekEstablish c) ∧ (busRead bus (c.p 8 8) 97 = some d) ∧ (onCurve d = true) ∧ (keyForeign (Store.get (fun _ => none) s.trs.keks (c.pb 16 0 2)) c.client = false)) ∧
    (∃ (s : State) (bus : Bus) (id : Nat) (c : Cmd) (q : KeySlot),
      (Startable s id .keyLoad c) ∧ (c.flag 10 0 = false) ∧ (Store.get (fun _ => none) s.trs.keks (c.pb 9 0 2) = some q) ∧ (q.owner = c.client) ∧ ((∀ j, j < 128 → Store.get (fun _ => none) s.trs.keys j = none))) ∧
    (∃ (s : State) (bus : Bus) (id : Nat) (c : Cmd),
      (Startable s id .keyPublicRead c) ∧ (busFails bus (c.p 8 8) 97 = false) ∧ (c.itemList = false)) ∧
    (∃ (s : State) (bus : Bus) (id k n q refs outB : Nat) (runs : List (Nat × Nat)) (c : Cmd) (l : Layer),
      (Startable s id .decodeAssign c) ∧ (s.fld (R.PWC_DOMAIN_depth 24) = 0) ∧ (n = c.pb 8 0 5) ∧ (c.flag 9 0 = false) ∧ (c.flag 9 1 = false) ∧ (k = 2 * n) ∧ (s.decStream k = none) ∧ (l = s.shadowLayer n) ∧ (1 ≤ c.pb 11 0 5) ∧ (c.pb 11 0 5 ≤ 16) ∧ (s.mayUseLayer c.client n = true) ∧ (q = c.p 10 1) ∧ (q < 16) ∧ (s.pipeLoad q k + l.load16 false (c.p 12 2) ≤ 16 * pipeC) ∧ (s.layerBusy n = false) ∧ (refs = c.pb 11 0 5 * pictureBytes (l.chroma false) l.w l.h (l.sampleBytes false)) ∧ (outB = pictureBytes (l.chroma false) l.pw l.ph (l.sampleBytes false)) ∧ (s.poolFind ((refs + 3 * outB) / 4096) k = some runs) ∧ (16 ≤ c.p 12 2) ∧ (c.p 12 2 ≤ 3840) ∧ (videoSizeOk l.w l.h = true)) ∧
    (∃ (s : State) (p k : Nat) (rap : Bool) (u : TrsUnit) (d : DecStream),
      (p < 16) ∧ (s.pipeBusy p = none) ∧ (s.enginesMay = true) ∧ (s.hst.held = []) ∧ (s.trs.units.find? (fun u => s.pipeMay p u) = some u) ∧ (u.encrypted = false) ∧ (s.decKey u = some k) ∧ (s.decStream k = some d) ∧ (d.skipping = []) ∧ (s.missedClamp u = false)) ∧
    (∃ (s : State) (p k v f n w h bits chroma slot : Nat) (u : TrsUnit) (d : DecStream) (q : Picture),
      (p < 16) ∧ (s.pipeBusy p = some (v, f, n)) ∧ (s.unitOf v f n = some u) ∧ (s.decKey u = some k) ∧ (s.decStream k = some d) ∧ ((s.shadowLayer (k / 2)).takes (k % 2 == 1) w h bits chroma = true) ∧ (s.mayApply (s.slotGroup u.slot) u.frame = true) ∧ (s.fenced (k / 2) = false) ∧ (s.keeps (k / 2) u.frame = false) ∧ (d.retired = []) ∧ (s.freeSlot { d with staged := none } = some slot)) ∧
    (∃ (s : State) (q cl r bay p : Nat),
      (s.dmg.pendGrid = none) ∧ (((List.range 16).map fun i => (s.sch.lastGroup + 1 + i) % 16).find? s.qualifies = some q) ∧ (s.pickClass q = some cl) ∧ (s.sch.again.find? (fun a => a.node == 16 * q + cl) = none) ∧ (s.firstEntry (16 * q + cl) = some r) ∧ (s.chooseBay (fun _ => true) = some (bay, p)) ∧ (s.hst.held = [])) ∧
    (∃ (s : State) (bay : Nat) (j : Job),
      (s.sch.jobs.find? (fun j => j.bay == bay && j.stage == .filling) = some j) ∧ (demandLines 4096 (s.footprintLines j.region) = 0)) ∧
    (∃ (s : State) (bay : Nat) (j : Job),
      (s.sch.jobs.find? (fun j => j.bay == bay && j.stage == .filled) = some j) ∧ (s.synthOf bay = none) ∧ (j.again = false) ∧ (s.checkOf j.region = none)) ∧
    (∃ (s : State) (bay clocks : Nat) (lines : List Nat) (j : Job) (u : Under),
      (s.synthOf bay = some j) ∧ (lines ≠ []) ∧ (j.under = some u) ∧ (bay < 64)) ∧
    (∃ (s : State) (bay : Nat) (j : Job),
      (s.synthOf bay = some j) ∧ (j.asked = false) ∧ (j.pieces = false) ∧ (j.check = none)) ∧
    (∃ (s : State) (r : Nat) (j : Job),
      (s.jobOf r = some j) ∧ (j.pieces = true) ∧ (j.asked = false) ∧ (j.stage = .buffered) ∧ (j.pieceFits = true) ∧ (j.nextPiece ≠ j.rows.length) ∧ (j.cut = false)) ∧
    (∃ (s : State) (bay clocks : Nat) (j : Job),
      (s.synthOf bay = some j) ∧ (j.pieces = true)) ∧
    (∃ (s : State) (bay : Nat) (bus : Bus) (j : Job),
      (s.synthOf bay = some j) ∧ (j.demand = 0) ∧ (j.check = none) ∧ (j.caps = [])) ∧
    (∃ (s : State) (bus : Bus) (id : Nat) (c : Cmd) (bay p : Nat),
      (Startable s id .rayProbe c) ∧ (s.geomValid = true) ∧ (c.pb 16 0 40 / 256 < s.hx * s.hy) ∧ (c.pb 16 0 40 % 256 < s.views) ∧ (0 < c.p 24 2) ∧ (c.p 24 2 ≤ 4096) ∧ (c.pb 16 0 40 / 256 * s.views + c.pb 16 0 40 % 256 + c.p 24 2 ≤ s.hx * s.hy * s.views) ∧ (s.gridOn = true) ∧ (s.probeBay = some (bay, p)) ∧ (s.fillFree bay = true) ∧ (s.eng.probes = [])) ∧
    (∃ (s : State) (bus : Bus) (id : Nat) (c : Cmd) (k : Nat) (d : CheckDef),
      (Startable s id .checkRegionDefine c) ∧ (k = c.p 8 1) ∧ (d = ⟨true, c.pb 10 0 4, c.p 12 2, c.p 14 2, c.p 16 2, c.p 18 2, c.p 20 6⟩) ∧ (s.mayUseCheck c.client k = true) ∧ (c.flag 9 0 = true) ∧ ((∀ x, x < 256 → x ≠ k → ((s.checkShadow x).enable && (s.checkShadow x).overlaps d) = false ∧ ((s.checkAct x).enable && (s.checkAct x).overlaps d) = false)) ∧ (d.gw ≠ 0) ∧ (d.gh ≠ 0) ∧ (d.gx0 + d.gw ≤ s.gx) ∧ (d.gy0 + d.gh ≤ s.gy) ∧ (s.fld R.GLU_SQC_TABLE_BASE_base ≠ 0) ∧ (s.gridOn = true) ∧ ((s.checkShadow k).enable = false) ∧ ((s.checkAct k).enable = false) ∧ ((∀ r, r ∈ s.members d → s.regionBytes r ≤ 1048576))) ∧
    (∃ (s : State) (bus : Bus) (id : Nat) (c : Cmd) (k : Nat),
      (Startable s id .sqcSignatureLoad c) ∧ (k = c.p 16 1) ∧ (s.mayUseCheck c.client k = true) ∧ ((s.checkShadow k).enable = true) ∧ (c.p 24 4 ≠ 0) ∧ (c.p 20 4 + c.p 24 4 ≤ (s.checkShadow k).gw * (s.checkShadow k).gh) ∧ (s.isCopying 2 k = false) ∧ (s.clampDue (s.checkShadow k).group = false) ∧ (c.flag 17 0 = false) ∧ (bus.bad = [])) ∧
    (∃ (s : State) (bus : Bus) (id : Nat) (c : Cmd),
      (Startable s id .sqcCapture c) ∧ (0 < c.p 18 2) ∧ (c.p 18 2 ≤ 4096) ∧ (c.p 22 2 ≠ 0) ∧ (s.gridOn = true) ∧ (c.p 16 2 + c.p 18 2 ≤ s.regionCount) ∧ (s.glu.captures.length < 16) ∧ (s.deferFull c = false)) ∧
    (∃ (s : State) (bus : Bus) (id : Nat) (k : Capture),
      (s.glu.captures.find? (fun x => x.cmd == id && x.frames == 0) = some k)) ∧
    (∃ (s : State) (seg g at_ : Nat),
      (Store.get (fun _ => none) s.clp.boundary seg = some at_) ∧ (g < 16) ∧ (s.segOrZero (s.fld (R.CLP_GROUP_CFG_seg g)) = seg) ∧ (s.due g at_ = true) ∧ (s.wallGroup g = false) ∧ ((s.late g).ready = true)) ∧
    (∃ (s : State) (bus : Bus) (g at_ n : Nat),
      (s.clp.due.groups = [(g, at_)]) ∧ (s.clp.due.flips = []) ∧ (g < 16) ∧ (8 ≤ n) ∧ (n < 64) ∧ (s.actFld (R.SCN_LAYER_CFG_group n) = g) ∧ (s.wallGroup g = false) ∧ (s.inBounds = true)) ∧
    (∃ (s : State) (f : CopyFwd),
      (s.scn.copying.find? (fun x => x.kind == 1 && x.who == 0) = some f) ∧ (f.kind = 1)) ∧
    (∃ (s : State) (g : Nat),
      ((s.hasSeg g = true ∨ g = 0)) ∧ ((s.seg g).freeRun = false)) ∧
    (∃ (s : State) (g : Nat),
      ((s.seg g).freeRun = true)) ∧
    (∃ (s : State) (bus : Bus) (id : Nat) (c : Cmd) (g : Nat),
      (Startable s id .clampArm c) ∧ (g = c.pb 16 0 4) ∧ (s.fld (R.CLP_GROUP_CFG_source g) = 0) ∧ (Store.get (fun _ => none) s.clp.arms g = none) ∧ (s.deferFull c = false)) ∧
    (∃ (s : State) (bus : Bus) (id : Nat) (c : Cmd) (k : Nat),
      (Startable s id .fenceArm c) ∧ (k = c.pb 14 0 3) ∧ (s.fenced k = true) ∧ (s.mayUseLayer c.client k = true) ∧ (Store.get (fun _ => none) s.clp.fences k = none) ∧ (s.deferFull c = false)) ∧
    (∃ (s : State) (bus : Bus) (id : Nat) (c : Cmd) (n : Nat) (l : Layer),
      (Startable s id .layerDamage c) ∧ (n = c.pb 8 0 6) ∧ (c.flag 9 0 = true) ∧ (l = s.activeLayer n) ∧ (c.p 16 2 ≠ 0) ∧ (c.p 18 2 ≠ 0) ∧ (c.p 12 2 + c.p 16 2 ≤ l.w) ∧ (c.p 14 2 + c.p 18 2 ≤ l.h) ∧ (s.mayUseLayer c.client n = true) ∧ (l.enable = true)) ∧
    (∃ (s : State) (bus : Bus) (id : Nat) (c : Cmd),
      (Startable s id .regionDirty c) ∧ (s.gridOn = true) ∧ (c.flag 8 0 = false) ∧ (c.p 16 2 ≠ 0) ∧ (c.p 18 2 ≠ 0) ∧ (c.p 12 2 + c.p 16 2 ≤ s.gx) ∧ (c.p 14 2 + c.p 18 2 ≤ s.gy)) ∧
    (∃ (s : State) (q : Nat) (j : Job) (stripes : List Stripe),
      (q < 16) ∧ (s.groupIn q = true) ∧ ((s.pg q).wire = none) ∧ (s.fld (R.PNL_GROUP_STATUS_held q) = 0) ∧ (s.nextBurst q = some j) ∧ (j.node / 16 = q) ∧ (ceilDiv (40 + j.rowBytes) 4096 ≤ (s.pg q).available)) ∧
    (∃ (s : State) (q : Nat) (w : Wire) (j : Job),
      (q < 16) ∧ ((s.pg q).wire = some w) ∧ (s.job? w.job = some j) ∧ (s.fld (R.PNL_GROUP_STATUS_held q) = 0) ∧ ((w.first + w.rows) * j.rowRays ≤ j.ready) ∧ (s.coversPiece q w w.rows = true) ∧ (w.first + w.rows ≠ j.rows.length) ∧ (j.cut = false)) ∧
    (∃ (s : State) (q rows : Nat) (w : Wire) (j : Job),
      (q < 16) ∧ ((s.pg q).wire = some w) ∧ (s.job? w.job = some j) ∧ (s.fld (R.PNL_GROUP_STATUS_held q) = 0) ∧ (s.gateOpen q (w.node % 16) = false) ∧ (0 < rows) ∧ (rows < w.rows) ∧ ((w.first + rows) * j.rowRays ≤ j.ready) ∧ (s.coversPiece q w rows = true) ∧ (j.node / 16 = q) ∧ (j.started = true) ∧ (j.asked = false)) ∧
    (∃ (s : State) (q c : Nat),
      (q < 16) ∧ (c < 16) ∧ (s.gateOpen q c = true) ∧ (s.fld (R.PNL_GROUP_STATUS_held q) = 0) ∧ (((s.pg q).wire.any fun w => w.node == 16 * q + c) = true) ∧ (s.backlogged (16 * q + c) = true)) ∧
    (∃ (s : State) (q : Nat) (l : GateList),
      ((s.gates q).waiting = some l) ∧ (l.entries ≠ []) ∧ (l.entries.length ≤ 64) ∧ (q < 16)) ∧
    (∃ (s : State) (c q : Nat),
      (c < 16) ∧ (q < 16) ∧ ((∀ k, k < 16 → (s.pg k).wire = none))) ∧
    (∃ (s : State) (r : Nat),
      ((s.region r).state = 1) ∧ ((s.region r).late = false) ∧ (s.fld (R.SCH_CLASS_GUAR_max_delay ((s.region r).node % 16)) ≠ 0) ∧ (s.fld (R.SCH_CLASS_GUAR_max_delay ((s.region r).node % 16)) * 10000 < s.ptp.f - (s.region r).since) ∧ ((s.region r).node < 256)) ∧
    (∃ (s : State) (k : Nat),
      (k < 256)) ∧
    (∃ (s : State) (bus : Bus) (id : Nat) (c : Cmd) (q : Nat),
      (Startable s id .classSet c) ∧ (q < 16) ∧ ((c.p 8 2).testBit q = true)) ∧
    (∃ (s : State) (bus : Bus) (id : Nat) (c : Cmd),
      (Startable s id .guaranteeSet c) ∧ ((c.pb 8 0 4 = 0 → ∀ i, i < 15 → s.prec (i + 1) ≤ c.pb 9 0 4)) ∧ ((c.pb 8 0 4 ≠ 0 → c.pb 9 0 4 ≤ s.prec 0))) ∧
    (∃ (s : State) (bus : Bus) (id : Nat) (c : Cmd) (r : Nat),
      (Startable s id .regionMapSet c) ∧ (s.gridOn = true) ∧ (c.p 16 2 ≠ 0) ∧ (c.p 18 2 ≠ 0) ∧ (c.p 12 2 + c.p 16 2 ≤ s.gx) ∧ (c.p 14 2 + c.p 18 2 ≤ s.gy) ∧ (c.p 22 1 ≠ 0) ∧ (r ∈ s.regionBlock (c.p 12 2) (c.p 12 2 + c.p 16 2) (c.p 14 2) (c.p 14 2 + c.p 18 2)) ∧ ((c.flag 21 0 = true → s.servesSeg (c.pb 20 4 4) (s.segOfRegion r) = true))) ∧
    (∃ (s : State) (bus : Bus) (id : Nat) (c : Cmd) (q : Nat),
      (Startable s id .gateListSet c) ∧ (q < 16) ∧ ((c.p 28 2).testBit q = true) ∧ (c.flag 31 1 = false) ∧ (0 < c.pb 30 0 7) ∧ (c.pb 30 0 7 ≤ 64) ∧ (1000 ≤ c.p 24 4) ∧ (c.p 24 4 ≤ 1000000000) ∧ (bus.bad = []) ∧ ((∀ i, i < c.pb 30 0 7 → 100 ≤ bitsOf (leNat ((List.range 8).map fun j => busByte bus (c.p 8 8 + 8 * i + j))) 16 32 ∧ bitsOf (leNat ((List.range 8).map fun j => busByte bus (c.p 8 8 + 8 * i + j))) 48 16 = 0)) ∧ (s.now ≤ c.p 16 8) ∧ (s.deferFull c = false) ∧ ((∀ g, (s.gates g).waiting = none))) ∧
    (∃ (s : State) (bus : Bus) (id : Nat) (c : Cmd),
      (Startable s id .schedStatsRead c) ∧ (c.flag 18 0 = false) ∧ (c.flag 18 1 = false) ∧ (bus.bad = []) ∧ (c.itemList = false) ∧ ((∀ k, (s.node k).depthHist.length = 16 ∧ (s.node k).delayHist.length = 16))) ∧
    (∃ (s : State) (q count due : Nat),
      (q < 16) ∧ (s.link = 3) ∧ ((s.pg q).wire = none) ∧ ((count % 2 ^ 32 + 2 ^ 32 - (s.pg q).base) % 2 ^ 32 ≤ (s.pg q).outstanding)) ∧
    (∃ (s : State) (g frame : Nat),
      (g < 4) ∧ (s.hasSeg g = true) ∧ ((s.seg g).teSeen.contains (frame % 2 ^ 32) = false) ∧ ((s.seg g).byPin = false) ∧ (s.teFromPin g = false)) :=
  ⟨witness_RegisterAccessesFollowTheirHalvesLocksAndViews.2.2.1,
    witness_RegisterAccessesFollowTheirHalvesLocksAndViews.2.2.2.2.2.2.2.2.2.2.2.2.1,
    witness_RegisterAccessesFollowTheirHalvesLocksAndViews.2.2.2.2.2.2.2.1,
    witness_RegisterAccessesFollowTheirHalvesLocksAndViews.2.2.2.2.2.2.2.2.2.2.2.2.2.2.2,
    witness_RegisterAccessesFollowTheirHalvesLocksAndViews.2.2.1,
    witness_RingEnableWritesStartAndStopRings.1,
    witness_RingEnableWritesStartAndStopRings.2.2.2.2.1,
    witness_RingEnableWritesStartAndStopRings.2.2.2.2.2.2.1,
    witness_RingEnableWritesStartAndStopRings.2.2.2.2.2.2.2.2.1,
    witness_DoorbellsMoveRingPointersOrAreRefused.1,
    witness_DoorbellsMoveRingPointersOrAreRefused.2.1,
    witness_DoorbellsMoveRingPointersOrAreRefused.2.2.1,
    witness_DoorbellsMoveRingPointersOrAreRefused.2.2.2.1,
    witness_DoorbellsMoveRingPointersOrAreRefused.2.2.2.2.2.1,
    witness_DoorbellsMoveRingPointersOrAreRefused.2.2.2.2.2.2.1,
    witness_FetchAndDispatchTakeCommandsInOrder.1,
    witness_FetchAndDispatchTakeCommandsInOrder.2.2.1,
    witness_RepliesAndEventsAreWrittenToTheirRings.1,
    witness_RepliesAndEventsAreWrittenToTheirRings.2.2.2.2.2.1,
    witness_RepliesAndEventsAreWrittenToTheirRings.2.2.2.2.2.2.1,
    witness_ReplyCountsStatusAndDetailFollowTheItems.2.2.1,
    witness_ReplyCountsStatusAndDetailFollowTheItems.2.2.2.1,
    witness_LinksClientsAndDomainsComeAndGo.1,
    witness_LinksClientsAndDomainsComeAndGo.2.2.2.1,
    witness_ViewLoadsWriteSlopesAndTheStagingCopy.1,
    witness_ViewLoadsWriteSlopesAndTheStagingCopy.2.1,
    witness_RegionGridIsSetAtABoundaryWithEveryRegionDirty.2.2.1,
    witness_RegionGridIsSetAtABoundaryWithEveryRegionDirty.2.2.2.1,
    witness_LayerCommandsWriteOnlyTheShadowOfTheirLayer.1,
    witness_LayerCommandsWriteOnlyTheShadowOfTheirLayer.2.2.2.2.2.2.1,
    witness_LayerCommandsWriteOnlyTheShadowOfTheirLayer.2.2.2.2.2.2.2.1,
    witness_DamageAndLayerListsFollowTheGeometry.2.2.2.2.2,
    witness_TrastosPacketsBecomeUnitsOrAreCountedAndLost.2.1,
    witness_TrastosPacketsBecomeUnitsOrAreCountedAndLost.2.2.1,
    witness_TrastosPacketsBecomeUnitsOrAreCountedAndLost.2.2.2.1,
    witness_TrastosPacketsBecomeUnitsOrAreCountedAndLost.2.2.2.2.2,
    witness_TrastosPacketsBecomeUnitsOrAreCountedAndLost.2.2.2.2.1,
    witness_StreamsAreBoundAndKeysHeldByTheirClients.1,
    witness_StreamsAreBoundAndKeysHeldByTheirClients.2.2.1,
    witness_StreamsAreBoundAndKeysHeldByTheirClients.2.2.2.1,
    witness_StreamsAreBoundAndKeysHeldByTheirClients.2.2.2.2.1,
    witness_StreamsAreBoundAndKeysHeldByTheirClients.2.2.2.2.2.2.2.2,
    witness_DecodePipesTakeUnitsAndShowPictures.1,
    witness_DecodePipesTakeUnitsAndShowPictures.2.2.2.1,
    witness_DecodePipesTakeUnitsAndShowPictures.2.2.2.2.2,
    witness_SchedulerSelectsAndKeepsCreditByClass.1,
    witness_BaysFillSynthesiseAndAskToLaunch.1,
    witness_BaysFillSynthesiseAndAskToLaunch.2.2.1,
    witness_BaysFillSynthesiseAndAskToLaunch.2.2.2.1,
    witness_BaysFillSynthesiseAndAskToLaunch.2.2.2.2.2.1,
    witness_BaysFillSynthesiseAndAskToLaunch.2.2.2.2.2.2.1,
    witness_BaysFillSynthesiseAndAskToLaunch.2.2.2.2.1,
    witness_BaysFillSynthesiseAndAskToLaunch.2.2.2.2.2.2.2.1,
    witness_BaysFillSynthesiseAndAskToLaunch.2.2.2.2.2.2.2.2.1,
    witness_SquareChecksCompareResynthesiseAndSubstitute.2.2.2.2.1,
    witness_SquareChecksCompareResynthesiseAndSubstitute.2.2.2.2.2.1,
    witness_SquareChecksCompareResynthesiseAndSubstitute.2.2.2.2.2.2.1,
    witness_SquareChecksCompareResynthesiseAndSubstitute.2.2.2.2.2.2.2.2,
    witness_ClampsAndFencesTakeEffectAtBoundaries.2.2.2.2.1,
    witness_ClampsAndFencesTakeEffectAtBoundaries.2.2.2.2.2.2.2.1,
    witness_ViewLoadsWriteSlopesAndTheStagingCopy.2.2.2.1,
    witness_TeEdgesRowsAndFreeRunDriveTheSegments.2.2.2.2.2.2.2.1,
    witness_TeEdgesRowsAndFreeRunDriveTheSegments.2.2.2.2.2.2.2.2,
    witness_ClampsAndFencesTakeEffectAtBoundaries.1,
    witness_ClampsAndFencesTakeEffectAtBoundaries.2.2.1,
    witness_DamageAndLayerListsFollowTheGeometry.2.2.2.1,
    witness_RegionGridIsSetAtABoundaryWithEveryRegionDirty.2.2.2.2.1,
    witness_RegionBurstsStartEndSplitAndUnderrunOnTheWire.1,
    witness_RegionBurstsStartEndSplitAndUnderrunOnTheWire.2.2.2.1,
    witness_RegionBurstsStartEndSplitAndUnderrunOnTheWire.2.2.2.2.2.1,
    witness_SchedulerSelectsAndKeepsCreditByClass.2.2.1,
    witness_SchedulerCommandsWriteClassesGuaranteesMapsAndGates.2.2.2.2.1,
    witness_SchedulerSelectsAndKeepsCreditByClass.2.2.2.2.1,
    witness_SchedulerSelectsAndKeepsCreditByClass.2.2.2.2.2.2.1,
    witness_SchedulerSelectsAndKeepsCreditByClass.2.2.2.2.2.2.2,
    witness_SchedulerCommandsWriteClassesGuaranteesMapsAndGates.1,
    witness_SchedulerCommandsWriteClassesGuaranteesMapsAndGates.2.1,
    witness_SchedulerCommandsWriteClassesGuaranteesMapsAndGates.2.2.1,
    witness_SchedulerCommandsWriteClassesGuaranteesMapsAndGates.2.2.2.1,
    witness_SchedulerCommandsWriteClassesGuaranteesMapsAndGates.2.2.2.2.2.1,
    witness_BackChannelMessagesCreditHoldAndReportFaults.2.2.1,
    witness_TeEdgesRowsAndFreeRunDriveTheSegments.2.2.1⟩

/-- States and operands that meet the hypotheses of each clause of `LinkLaneAndMemoryRowsComplete`. -/
theorem witness_LinkLaneAndMemoryRowsComplete :
    (∃ (s : State) (g : Nat) (rising : Bool),
      (g < 4) ∧ (s.hasSeg g = true) ∧ (bit (!rising) = s.fld (R.PNL_TE_CFG_edge g)) ∧ ((s.seg g).lastTe.all (fun f => decide (s.framePeriod ≤ 2 * (s.ptp.f - f))) = true) ∧ ((s.seg g).early = none) ∧ ((s.setSeg g { s.seg g with lastPin := some s.ptp.f }).teFromPin g = true)) ∧
    (∃ (s : State) (g row frame : Nat),
      (g < 4) ∧ (s.hasSeg g = true) ∧ ((s.seg g).rowsSeen.contains (frame, row) = false)) ∧
    (∃ (s : State) (q lanes ucw worst : Nat),
      (q < 16) ∧ (s.link = 3) ∧ (worst < 12) ∧ (s.nextMask q &&& (4095 - lanes % 4096) = 0) ∧ (ucw ≤ s.fld (R.PNL_GROUP_CFG_ucw_limit q))) ∧
    (∃ (s : State) (q seq reason : Nat) (p : Piece),
      (q < 16) ∧ (s.link = 3) ∧ (((s.pg q).pieces.filter fun p => p.seq == seq).getLast? = some p) ∧ (p.stale = false) ∧ (s.inBounds = true)) ∧
    (∃ (s : State) (q lane taps ctl : Nat),
      (q < 16) ∧ (lane < 12) ∧ ((s.pg q).training.testBit lane = true) ∧ (ctl.testBit 4 = false) ∧ (ctl.testBit 0 = false)) ∧
    (∃ (s : State) (q : Nat) (bytes : List Byte),
      (q < 16) ∧ (s.link = 2) ∧ (s.fld (R.PNL_GROUP_STATUS_bc_up q) = 1) ∧ (4 ≤ bytes.length) ∧ (crc32c (bytes.take (bytes.length - 4)) = leAt bytes (bytes.length - 4) 4) ∧ ((parseDesc bytes).fault = none) ∧ (s.inBounds = true) ∧ (s.hst.held = [])) ∧
    (∃ (s : State) (q : Nat),
      (q < 16) ∧ (s.link = 3) ∧ (s.fld (R.PNL_GROUP_STATUS_bc_up q) = 1) ∧ (s.fld (R.PNL_GROUP_STATUS_held q) = 0)) ∧
    (∃ (s : State) (q at_ : Nat),
      (q < 16) ∧ (s.fld (R.PNL_GROUP_STATUS_held q) = 1) ∧ ((s.pg q).heldAt = some at_)) ∧
    (∃ (s : State) (q at_ : Nat),
      (s.fld (R.PNL_GROUP_STATUS_held q) = 1) ∧ ((s.pg q).heldAt = some at_) ∧ ((s.pg q).longSaid = false)) ∧
    (∃ (s : State) (q row : Nat) (w : Wire) (j : Job),
      (q < 16) ∧ ((s.pg q).wire = some w) ∧ (s.job? w.job = some j) ∧ (s.fld (R.PNL_GROUP_STATUS_held q) = 0) ∧ (w.first ≤ row) ∧ (row < w.first + w.rows) ∧ (s.inBounds = true) ∧ (row * j.rowRays ≤ j.ready) ∧ (j.ready < (row + 1) * j.rowRays) ∧ (s.coversPiece q w (row + 1 - w.first) = true) ∧ ((s.region j.region).state = 3)) ∧
    (∃ (s : State) (q row written : Nat),
      (q < 16) ∧ (s.fld (R.PNL_GROUP_STATUS_bc_up q) = 1) ∧ (s.inBounds = true)) ∧
    (∃ (s : State) (q : Nat) (inverted : Bool),
      (q < 16) ∧ (s.fld (R.PNL_GROUP_STATUS_bc_up q) = 0) ∧ (s.link = 3) ∧ ((s.pg q).creditShort = false)) ∧
    (∃ (s : State) (q p : Nat),
      (q < 16) ∧ (p < 12) ∧ (s.link = 3) ∧ ((s.nextMask q).testBit p = true) ∧ (s.hst.held = [])) ∧
    (∃ (s : State) (q row written : Nat) (m : LaneMap),
      (q < 16) ∧ (s.link = 3) ∧ ((s.pg q).map = some m) ∧ (m.mask < 4096) ∧ (s.groupIn q = true) ∧ (s.fld (R.PNL_GROUP_CFG_min_lanes q) ≤ popCount 12 m.mask) ∧ (m.waiters = []) ∧ ((s.pg q).trained < 4096)) ∧
    (∃ (s : State),
      (s.link = 1)) ∧
    (∃ (s : State),
      (s.link = 4) ∧ (s.hst.held = [])) ∧
    (∃ (s : State),
      (s.link = 3) ∧ (s.hst.held = []) ∧ (s.inBounds = true)) ∧
    (∃ (s : State) (bus : Bus) (id : Nat) (c : Cmd),
      (Startable s id .linkReset c) ∧ (c.p 10 2 ≠ 0) ∧ ((s.link = 1 ∨ s.link = 2)) ∧ (s.deferFull c = false) ∧ (s.pnl.reset = none) ∧ (c.flag 8 0 = false)) ∧
    (∃ (s : State) (bus : Bus) (id : Nat) (c : Cmd),
      (Startable s id .laneService c) ∧ (c.pb 10 0 12 ≠ 0) ∧ (s.deferFull c = false) ∧ (c.flag 9 0 = false) ∧ (s.link ≠ 0) ∧ (s.link ≠ 4) ∧ (s.hst.held = [])) ∧
    (∃ (s : State) (q : Nat),
      (q < 16) ∧ (s.link = 3) ∧ (s.groupQuiet q = true) ∧ ((∀ i, i ∈ s.workingLanes q → s.fld (R.LAN_CFG_quiet_enable i) = 1))) ∧
    (∃ (s : State) (i ctle vga : Nat) (dfe levels : List Int),
      (192 ≤ i) ∧ (i < 256) ∧ (s.fld (R.LAN_CFG_adapt_freeze i) = 0) ∧ (s.fld (R.LAN_STATUS_state i) = 2)) ∧
    (∃ (s : State) (i rms corrected since : Nat) (eyes : List (Nat × Nat)),
      (i < 256) ∧ ((s.fld (R.LAN_STATUS_state i) = 3 ∨ s.fld (R.LAN_STATUS_state i) = 4))) ∧
    (∃ (s : State) (bus : Bus) (id : Nat) (c : Cmd),
      (Startable s id .laneMeasure c) ∧ (s.lan.measures.all (fun m => m.cmd != id) = true) ∧ (6 ≤ c.pb 20 0 4) ∧ (c.pb 20 0 4 ≤ 9) ∧ (0 < c.p 18 2) ∧ (c.p 18 2 ≤ 16) ∧ (c.p 16 2 + c.p 18 2 ≤ 256) ∧ (s.deferFull c = false) ∧ ((∀ k, k < c.p 18 2 → s.fld (R.LAN_STATUS_state (c.p 16 2 + k)) = 3))) ∧
    (∃ (s : State) (bus : Bus) (id : Nat) (c : Cmd),
      (Startable s id .laneTxSet c) ∧ (c.p 10 2 = 1) ∧ ((c.p 8 2 < 192 ∨ (224 ≤ c.p 8 2 ∧ c.p 8 2 < 256))) ∧ (tapsOk [sext 8 (c.p 12 1), sext 8 (c.p 13 1), (c.p 14 1 : Int), sext 8 (c.p 15 1)] = true) ∧ (s.fld (R.LAN_STATUS_state (c.p 8 2)) ≠ 2)) ∧
    (∃ (s : State) (bay e check ready : Nat),
      (bay < 64) ∧ (e < 8) ∧ (s.bayRetired bay = false) ∧ (s.spareFree bay = true) ∧ (s.inBounds = true)) ∧
    (∃ (s : State) (bay e ready : Nat),
      (bay < 64) ∧ (e < 8) ∧ (s.bayRetired bay = false) ∧ (s.spareFree bay = true) ∧ (s.runsFree bay = true) ∧ (s.inBounds = true)) ∧
    (∃ (s : State) (bay : Nat) (x : BayTest),
      (bay < 64) ∧ (Store.get (fun _ => none) s.eng.tests bay = some x) ∧ (x.kind ≠ 1) ∧ (s.bayRetired bay = false) ∧ (Store.get (fun _ => none) s.eng.waking (bay / 8) = none) ∧ (x.waiters = [])) ∧
    (∃ (s : State) (b : Nat),
      (((List.range 8).map fun i => bentOrder.getD ((s.eng.lastBent + 1 + i) % 8) 0).find? (fun b =>     s.fld (R.ENG_BENT_STATUS_state b) == 0 && (Store.get (fun _ => none) s.eng.waking b).isNone &&     !s.pwc.shed.contains b && (bentZones b).all fun z => s.fld (R.THM_ZONE_crit z) == 0) = some b) ∧ (s.fld R.PWC_STATUS_state = 0) ∧ (s.baysFull = true) ∧ (s.hst.held = [])) ∧
    (∃ (s : State) (b mhz : Nat),
      (b < 8) ∧ (Store.get (fun _ => none) s.eng.clockAsked b = some mhz) ∧ (s.sch.jobs.all (fun j => !(j.bay / 8 == b && j.stage == .synth && j.launched)) = true)) ∧
    (∃ (s : State) (n : Nat) (d : Drain) (ready : List (Nat × Nat)),
      (n < 8) ∧ (Store.get (fun _ => none) s.eng.bents n = some d) ∧ ((∀ j, j < 8 → s.bayBusy (8 * n + j) = false)) ∧ (Store.get (fun _ => none) s.eng.resume n = none) ∧ ((d.target = 0 ∨ d.target = 4))) ∧
    (∃ (s : State) (b : Nat) (ready : List (Nat × Nat)),
      (b < 8) ∧ (s.fld (R.ENG_BENT_STATUS_state b) ≠ 4) ∧ (s.inBounds = true)) ∧
    (∃ (s : State) (bus : Bus) (id q : Nat) (c : Cmd),
      (Startable s id .bayService c) ∧ (c.p 8 8 = 2 ^ q) ∧ (q < 64) ∧ (c.pb 16 0 2 = 0) ∧ (((List.range 64).all fun x => !s.bayIn x || (2 ^ q).testBit x) = false) ∧ (s.deferFull c = false) ∧ (s.fld (R.ENG_BENT_STATUS_state (q / 8)) = 1) ∧ (Store.get (fun _ => none) s.eng.bays q = none) ∧ (Store.get (fun _ => none) s.eng.tests q = none) ∧ (s.bayRetired q = false) ∧ (s.fillOf q = none)) ∧
    (∃ (s : State) (bus : Bus) (id x : Nat) (c : Cmd),
      (Startable s id .bentService c) ∧ (x < 8) ∧ (c.p 8 1 = 2 ^ x) ∧ (c.flag 9 0 = false) ∧ (((List.range 64).all fun q => !s.bayIn q || (2 ^ x).testBit (q / 8)) = false) ∧ (s.deferFull c = false) ∧ (s.fld (R.ENG_BENT_STATUS_state x) = 1) ∧ (s.inBounds = true)) ∧
    (∃ (s : State) (bus : Bus) (id : Nat) (c : Cmd),
      (Startable s id .wallConfigure c) ∧ (c.pb 12 0 4 ≤ c.pb 13 0 4 ∧ c.pb 12 4 4 ≤ c.pb 13 4 4) ∧ (c.pb 14 0 4 ≤ c.pb 13 0 4 ∧ c.pb 14 4 4 ≤ c.pb 13 4 4) ∧ ((c.flag 16 1 = true → c.pb 15 0 4 ≤ c.pb 13 0 4 ∧ c.pb 15 4 4 ≤ c.pb 13 4 4 ∧ ¬ (c.pb 15 0 4 = c.pb 14 0 4 ∧ c.pb 15 4 4 = c.pb 14 4 4))) ∧ (c.flag 16 0 = true) ∧ (s.hst.held = [])) ∧
    (∃ (s : State) (p : Nat),
      (p < 4) ∧ (s.walled = true) ∧ ((s.wp p).work ≠ 0) ∧ (s.portIn p = false)) ∧
    (∃ (s : State) (p : Nat) (d : List Byte),
      (p < 4) ∧ (s.walled = true) ∧ ((s.wp p).work ≠ 0) ∧ (d.length = 16) ∧ (leAt d 0 4 = s.fld R.WVL_WALL_ID_id) ∧ (s.facing p = some (bitsOf (leAt d 4 1) 0 4, bitsOf (leAt d 4 1) 4 4)) ∧ (leAt d 5 1 = (p + 2) % 4) ∧ ((s.wp p).work &&& (s.wp p).rx ≠ 0) ∧ (s.fld (R.WVL_PORT_CFG_min_lanes p) ≤ popCount 8 ((s.wp p).work &&& (s.wp p).rx))) ∧
    (∃ (s : State) (p g origin hops seq : Nat) (v : Vote),
      (p < 4) ∧ (s.walled = true) ∧ ((s.wp p).work ≠ 0) ∧ (s.portIn p = true) ∧ (g < 16) ∧ (origin < 256) ∧ (hops = 31) ∧ (seq < 2 ^ 32) ∧ (v.group = g ∧ v.origin = origin ∧ v.n < 2 ^ 64 ∧ v.frame < 2 ^ 32 ∧ v.clampTime < 2 ^ 64) ∧ (s.newer 3 origin seq = true)) ∧
    (∃ (s : State) (p count : Nat),
      (p < 4) ∧ (s.portIn p = true) ∧ ((s.wp p).control = []) ∧ ((s.wp p).relay = [])) ∧
    (∃ (s : State) (p cTx tTx cRx tRx : Nat),
      (p < 4) ∧ (s.portIn p = true) ∧ ((s.wp p).control = []) ∧ ((s.wp p).relay = []) ∧ ((s.wp p).need 60 ≤ (s.wp p).available)) ∧
    (∃ (s : State),
      (s.walled = true)) ∧
    (∃ (s : State) (m : Nat),
      (m < 256) ∧ (s.member m = true)) ∧
    (∃ (s : State) (n : Nat),
      (s.walled = true) ∧ (s.fld R.WVL_WALL_STATUS_alone = 0)) ∧
    (∃ (s : State) (n g : Nat),
      (s.actsMaster = true) ∧ (g < 16) ∧ (s.fld (R.CLP_GROUP_CFG_wall g) = 1) ∧ (s.fld R.WVL_WALL_STATUS_alone = 0) ∧ (s.wvl.votes.any (fun v => v.group == g && v.origin == s.ownModule && v.n == n && v.ready) = false)) ∧
    (∃ (s : State) (g n : Nat),
      (g < 16) ∧ (s.wallGroup g = true) ∧ (s.decisionOf g = 0)) ∧
    (∃ (s : State) (p : Nat),
      (p < 4) ∧ ((s.wp p).work ≠ 0) ∧ ((s.wp p).work < 256)) ∧
    (∃ (s : State) (p frac r a : Nat) (bus : Bus) (d e : List Byte),
      (p < 8) ∧ (s.ethUp p = true) ∧ (60 ≤ d.length) ∧ (d.length + 4 ≤ s.fld (R.ETH_PORT_CFG2_max_frame p)) ∧ (s.addressOk p (Net.of d) = true) ∧ (s.fld (R.ETH_PORT_CFG_ptp_steer p) = 0) ∧ (s.fld R.SCN_TRS_CFG_enable = 0) ∧ ((∀ k, k < 32 → ruleMatches (s.ethRule p k) (Net.of d) = false)) ∧ (s.fld (R.ETH_PORT_CFG_hash_enable p) = 0) ∧ ((Net.of d).tagged = false) ∧ (r = 64 * p + s.fld (R.ETH_PORT_CFG_default_ring p)) ∧ (s.fld (R.ETH_RXQ_CFG_enable r) = 1) ∧ (d.length ≤ 256 * s.fld (R.ETH_RXQ_CFG_buf r)) ∧ (s.fld (R.ETH_RXQ_HEAD_head r) ≠ s.rxTail r) ∧ (s.rxEntry r (s.fld (R.ETH_RXQ_HEAD_head r)) = (false, a)) ∧ (busRead bus a 16 = some e) ∧ (busFails bus (leAt e 0 8) d.length = false)) ∧
    (∃ (s : State) (p q buffer length tci frac cuts : Nat) (stamp : Bool) (bus : Bus) (d : List Byte),
      (p < 8) ∧ ((List.range 8).reverse.findSome? (s.txPick bus p) = some (q, .send buffer length stamp false tci)) ∧ ((s.txEntry q 0).1 = false) ∧ (busRead bus buffer length = some d)) ∧
    (∃ (s : State) (p n : Nat),
      (p < 8) ∧ (s.ethUp p = true)) ∧
    (∃ (s : State) (p mode inverted precoded rxPrecoded : Nat) (taps : List (List Int)),
      (p < 8) ∧ (s.ethUp p = false) ∧ (s.modeFits p mode = true)) ∧
    (∃ (s : State) (p : Nat) (ok : Bool),
      (p < 8) ∧ (s.ethUp p = true) ∧ (s.fld (R.ETH_PORT_CFG_preempt_enable p) = 1) ∧ ((s.ep p).verify ≠ (if ok then 1 else 2))) ∧
    (∃ (s : State) (p : Nat) (bus : Bus) (l : GateList),
      (p < 8) ∧ ((s.ep p).gates.waiting = some l) ∧ (l.anchor = 0) ∧ (l.entries ≠ []) ∧ ((∀ k, k < 8 → s.txReady (8 * p + k) = false))) ∧
    (∃ (s : State) (bus : Bus) (id r : Nat) (c : Cmd),
      (Startable s id .ethRingSet c) ∧ (r = c.pb 16 0 9) ∧ (c.flag 18 0 = false) ∧ (c.flag 18 1 = true) ∧ (6 ≤ c.pb 19 0 4) ∧ (c.pb 19 0 4 ≤ 14) ∧ (2 ≤ c.pb 21 0 7) ∧ (c.pb 21 0 7 ≤ 64) ∧ (c.client = 0 ∨ c.pb 20 0 4 = c.client) ∧ ((s.reg (R.ETH_RXQ_CFG r)).toNat.testBit 0 = false)) ∧
    (∃ (s : State) (bus : Bus) (id p : Nat) (c : Cmd),
      (Startable s id .ethGateListSet c) ∧ (c.flag 30 1 = false) ∧ (1 ≤ c.p 29 1) ∧ (c.p 29 1 ≤ 128) ∧ (1000 ≤ c.p 24 4) ∧ (c.p 24 4 ≤ 1000000000) ∧ ((c.p 28 1).testBit p = true) ∧ (p < 8) ∧ (busFails bus (c.p 8 8) (8 * c.p 29 1) = false) ∧ ((∀ i, i < c.p 29 1 → (let w := leNat ((List.range 8).map fun j => busByte bus (c.p 8 8 + 8 * i + j)); 10 ≤ bitsOf w 16 32 ∧ bitsOf w 8 2 ≠ 3 ∧ bitsOf w 10 6 = 0 ∧ bitsOf w 48 16 = 0))) ∧ (s.deferFull c = false) ∧ (s.now ≤ c.p 16 8) ∧ (c.pb 30 0 1 = 0) ∧ ((∀ q, (s.ep q).gates.waiting = none))) ∧
    (∃ (s : State) (bus : Bus),
      (s.ptp.stNs < 1000000000)) ∧
    (∃ (s : State) (bus : Bus),
      (0 ≤ s.ptpTotal + sext 64 (s.fld R.PTP_STEP_ns)) ∧ (0 ≤ s.offset + sext 64 (s.fld R.PTP_STEP_ns)) ∧ (s.offset + sext 64 (s.fld R.PTP_STEP_ns) < 2 ^ 48 * 1000000000)) ∧
    (∃ (s : State),
      (0 ≤ s.offset + s.ptpCorr) ∧ (s.offset + s.ptpCorr < 2 ^ 48 * 1000000000)) ∧
    (∃ (s : State) (n data : Nat) (bus : Bus),
      (n < 8) ∧ (s.isFsync n = false) ∧ (data.testBit 0 = true) ∧ (s.now ≤ s.fld (R.TRIG_START_ns n))) ∧
    (∃ (s : State) (n : Nat) (bus : Bus),
      (n < 8) ∧ (s.isFsync n = false) ∧ (s.fld (R.TRIG_STATUS_armed n) = 1)) ∧
    (∃ (s : State) (k : Nat) (rising : Bool),
      (k < 4) ∧ (s.fld (R.CAP_CFG_enable k) = 1) ∧ (s.fld (if rising then R.CAP_CFG_rising k else R.CAP_CFG_falling k) = 1) ∧ ((s.capIn k).last = none) ∧ ((s.capIn k).fifo.length < 16)) ∧
    (∃ (s : State) (k : Nat),
      (k < 4)) ∧
    (∃ (s : State) (ma w k bank row col : Nat) (urgent : Bool),
      (s.placeOf ma = .at_ w k bank row col) ∧ (k < 32) ∧ (s.spanHeld ma = false) ∧ (s.quadState (k / 8) = 0) ∧ (s.chHeld k = false) ∧ ((s.chQueue k).length < 64)) ∧
    (∃ (s : State) (ch i inlineFixed : Nat) (aged : Bool) (r : DramReq),
      (ch < 32) ∧ ((s.drainWrites ch).chooseReq ch = some (i, aged)) ∧ ((s.chQueue ch)[i]? = some r) ∧ (r.write = false) ∧ (s.dmc.waiting = [])) ∧
    (∃ (s : State) (ch b : Nat),
      (ch < 32) ∧ (s.quadState (ch / 8) ≠ 2) ∧ ((s.fld R.DMC_CH_OK_ok).testBit ch = true) ∧ (b = Store.get (fun _ => 0) s.dmc.nextBank ch) ∧ (b < 16) ∧ ((s.chQueue ch).any (fun r => r.bank == b) = true) ∧ (s.owedOf ch b < 7)) ∧
    (∃ (s : State) (ch rate : Nat),
      (ch < 32) ∧ (s.quadState (ch / 8) ≠ 2)) ∧
    (∃ (s : State) (j : Nat),
      (j < 4) ∧ (s.quadIdle j = true) ∧ (s.quadState j = 0)) ∧
    (∃ (s : State) (j : Nat),
      (j < 4) ∧ (s.quadState j = 2) ∧ (s.quadWanted j = true) ∧ (s.hst.held = [])) ∧
    (∃ (s : State) (j : Nat) (c : OpChange),
      (j < 4) ∧ (s.changeOf j = some c) ∧ (s.quadState j < 3)) ∧
    (∃ (s : State) (j : Nat) (trims : List Byte) (figures : List Nat),
      (j < 4) ∧ (s.quadState j = 5) ∧ (Store.get (fun _ => []) s.dmc.gathers j = [])) ∧
    (∃ (s : State) (ch : Nat),
      (ch < 32) ∧ ((s.fld R.DMC_CH_OK_ok).testBit ch = true) ∧ (s.dmc.waiting = [])) ∧
    (∃ (s : State) (bus : Bus) (id w : Nat) (c : Cmd),
      (Startable s id .windowSet c) ∧ (w = c.pb 8 0 3) ∧ (c.flag 9 0 = true) ∧ (s.windowFault w (c.flag 9 3) (c.pb 10 0 3) (c.pb 11 0 5) (c.pb 12 0 12) (c.p 14 2) (c.p 16 1) = 0) ∧ ((∀ k, k < 32 → s.chQueue k = [])) ∧ (s.dmc.waiting = []) ∧ (s.dmc.spans = [])) ∧
    (∃ (s : State) (bus : Bus) (id j : Nat) (c : Cmd),
      (Startable s id .dramOpSet c) ∧ (setBits 4 (c.pb 8 0 4) = [j]) ∧ (s.quadCeiling j ≤ c.pb 9 0 2) ∧ (c.pb 9 0 2 ≠ s.fld (R.DMC_QUAD_STATUS_point j)) ∧ (s.changeOf j = none) ∧ (s.deferFull c = false)) ∧
    (∃ (s : State) (bus : Bus) (id j k : Nat) (c : Cmd) (fails : List Nat) (trims : List Byte),
      (Startable s id .dramTrain c) ∧ (setBits 4 (c.pb 8 0 4) = [j]) ∧ (setBits 4 (c.pb 9 0 4) = [k]) ∧ (c.flag 10 0 = true) ∧ (s.dmc.trains = []) ∧ (s.quadState j = 0) ∧ (s.changeOf j = none) ∧ (s.deferFull c = false) ∧ (s.hst.held = [])) ∧
    (∃ (s : State) (bus : Bus) (id : Nat) (trained : Bool) (c : Cmd),
      (Startable s id .channelService c) ∧ (c.flag 9 0 = false) ∧ (s.fld R.DMC_CH_OK_ok ≠ 2 ^ c.pb 8 0 5) ∧ ((s.fld R.DMC_CH_OK_ok).testBit (c.pb 8 0 5) = true) ∧ (s.dmc.waiting = [])) ∧
    (∃ (s : State) (u : Nat) (j : CmpJob),
      (u < 12) ∧ (s.unitJob u = none) ∧ (s.enginesMay = true) ∧ (s.hst.held = []) ∧ (s.trs.units = []) ∧ (s.pickJob u = some j)) ∧
    (∃ (s : State) (u : Nat) (bus : Bus) (j : CmpJob) (c : Cmd) (src : List Byte) (e : JobEnd),
      (s.unitJob u = some j) ∧ (j.cls = 3) ∧ (s.cmdOf (j.who.headD 0) = some c) ∧ (c.compArgs.resume = false ∧ c.compArgs.srcDram = false ∧ c.compArgs.dstDram = false ∧ c.compArgs.ctxDram = false) ∧ (busRead bus c.compArgs.src c.compArgs.srcLen = some src) ∧ (c.compArgs.work src [] s.freeVal = e) ∧ (busFails bus c.compArgs.dst e.out.length = false) ∧ (busFails bus c.compArgs.ctx (e.context u s.now).length = false) ∧ (c.itemList = false)) ∧
    (∃ (s : State) (p : Nat) (j : CmpJob) (e : Relay),
      (p < 4) ∧ (s.cmp.waiting.find? (fun j => j.dir == 1 && j.cls == 1 && j.who.headD 4 == p) = some j) ∧ (s.portIn p = true) ∧ ((s.wp p).control = []) ∧ ((s.wp p).relay = [e]) ∧ (j.who.getD 1 0 = e.id) ∧ (e.data.length < 9001) ∧ ((s.wp p).need (worvelPacket 16 1 false false s.ownModule 0 (Store.get (fun _ => 0) s.wvl.seqOut 16) e.data).length + 64 < (s.wp p).available)) ∧
    (∃ (s : State) (bus : Bus) (id : Nat) (c : Cmd),
      (Startable s id .compJob c) ∧ (c.compArgs.fault c = none)) ∧
    (∃ (s : State) (bus : Bus) (id : Nat) (c : Cmd),
      (Startable s id .blitJob c) ∧ (c.blitArgs.fault c = none) ∧ (c.blitArgs.wm = false ∨ s.deferFull c = false)) ∧
    (∃ (s : State) (c : Cmd) (i id : Nat) (rest : List Nat),
      (s.blk.running = none) ∧ (s.blk.waiting = i :: rest) ∧ (id = rest.foldl min i) ∧ (s.enginesMay = true) ∧ (s.cmdOf id = some c) ∧ (s.hst.held = [])) ∧
    (∃ (s : State) (c : Cmd) (j : BlkJob),
      (s.blk.running = some j) ∧ (s.cmdOf j.cmd = some c) ∧ (c.blitArgs.op = 0) ∧ (c.blitArgs.wm = true) ∧ (c.phase = .running)) :=
  ⟨witness_TeEdgesRowsAndFreeRunDriveTheSegments.1,
    witness_TeEdgesRowsAndFreeRunDriveTheSegments.2.2.2.2.2.1,
    witness_BackChannelMessagesCreditHoldAndReportFaults.2.2.2.2.1,
    witness_BackChannelMessagesCreditHoldAndReportFaults.2.2.2.2.2.2.1,
    witness_BackChannelMessagesCreditHoldAndReportFaults.2.2.2.2.2.2.2.1,
    witness_LinkTrainsComesUpAndChangesLanes.2.2.2.2.2.2.2.1,
    witness_BackChannelMessagesCreditHoldAndReportFaults.2.2.2.2.2.2.2.2.1,
    witness_BackChannelMessagesCreditHoldAndReportFaults.2.2.2.2.2.2.2.2.2.1,
    witness_BackChannelMessagesCreditHoldAndReportFaults.2.2.2.2.2.2.2.2.2.2.1,
    witness_RegionBurstsStartEndSplitAndUnderrunOnTheWire.2.2.2.2.2.2,
    witness_BackChannelMessagesCreditHoldAndReportFaults.2.2.2.2.2.2.2.2.2.2.2.1,
    witness_BackChannelMessagesCreditHoldAndReportFaults.2.2.2.2.2.2.2.2.2.2.2.2,
    witness_LinkTrainsComesUpAndChangesLanes.1,
    witness_LinkTrainsComesUpAndChangesLanes.2.1,
    witness_LinkTrainsComesUpAndChangesLanes.2.2.1,
    witness_LinkTrainsComesUpAndChangesLanes.2.2.2.2.2.1,
    witness_LinkTrainsComesUpAndChangesLanes.2.2.2.2.2.2.1,
    witness_LinkResetsAndWorvelLanesTrainAndService.1,
    witness_LinkResetsAndWorvelLanesTrainAndService.2.2.2.1,
    witness_SerialLanesIdleAdaptMeasureAndMoveTaps.1,
    witness_SerialLanesIdleAdaptMeasureAndMoveTaps.2.1,
    witness_SerialLanesIdleAdaptMeasureAndMoveTaps.2.2.2.2.1,
    witness_SerialLanesIdleAdaptMeasureAndMoveTaps.2.2.2.2.2.1,
    witness_SerialLanesIdleAdaptMeasureAndMoveTaps.2.2.2.2.2.2.2.2.1,
    witness_BaysAndBentsSisterRetireTestDrainAndWake.1,
    witness_BaysAndBentsSisterRetireTestDrainAndWake.2.2.1,
    witness_BaysAndBentsSisterRetireTestDrainAndWake.2.2.2.1,
    witness_BaysAndBentsSisterRetireTestDrainAndWake.2.2.2.2.2.1,
    witness_BaysAndBentsSisterRetireTestDrainAndWake.2.2.2.2.2.2.2.2.2.2.1,
    witness_BaysAndBentsSisterRetireTestDrainAndWake.2.2.2.2.2.2.1,
    witness_BaysAndBentsSisterRetireTestDrainAndWake.2.2.2.2.2.2.2.2.1,
    witness_BaysAndBentsSisterRetireTestDrainAndWake.2.2.2.2.2.2.2.2.2.2.2.1,
    witness_BaysAndBentsSisterRetireTestDrainAndWake.2.2.2.2.2.2.2.2.2.2.2.2,
    witness_WallsAgreeOnMembersVotesAndDecisions.1,
    witness_WorvelPortsCheckHelloReturnCreditsAndTrain.1,
    witness_WorvelPortsCheckHelloReturnCreditsAndTrain.2.1,
    witness_WorvelPortsCheckHelloReturnCreditsAndTrain.2.2.2.2.1,
    witness_WorvelPortsCheckHelloReturnCreditsAndTrain.2.2.2.2.2.1,
    witness_WorvelPortsCheckHelloReturnCreditsAndTrain.2.2.2.2.2.2.2.1,
    witness_WallsAgreeOnMembersVotesAndDecisions.2.2.2.1,
    witness_WallsAgreeOnMembersVotesAndDecisions.2.2.2.2.2.1,
    witness_WallsAgreeOnMembersVotesAndDecisions.2.2.2.2.2.2.1,
    witness_WallsAgreeOnMembersVotesAndDecisions.2.2.2.2.2.2.2.1,
    witness_WallsAgreeOnMembersVotesAndDecisions.2.2.2.2.2.2.2.2.2,
    witness_WorvelPortsCheckHelloReturnCreditsAndTrain.2.2.2.2.2.2.2.2.2.2.2.1,
    witness_EthernetPortsReceiveTransmitPauseAndFollowGates.2.2.2.2.2.2.2.1,
    witness_EthernetPortsReceiveTransmitPauseAndFollowGates.2.2.2.2.2.2.2.2.1,
    witness_EthernetPortsReceiveTransmitPauseAndFollowGates.2.2.2.2.1,
    witness_EthernetPortsReceiveTransmitPauseAndFollowGates.1,
    witness_EthernetPortsReceiveTransmitPauseAndFollowGates.2.2.2.1,
    witness_EthernetPortsReceiveTransmitPauseAndFollowGates.2.2.2.2.2.2.2.2.2.2.2.1,
    witness_EthernetPortsReceiveTransmitPauseAndFollowGates.2.2.2.2.2.2.2.2.2.1,
    witness_EthernetPortsReceiveTransmitPauseAndFollowGates.2.2.2.2.2.2.2.2.2.2.2.2,
    witness_NetworkTimeTriggersAndCapturesFollowTheClock.1,
    witness_NetworkTimeTriggersAndCapturesFollowTheClock.2.1,
    witness_NetworkTimeTriggersAndCapturesFollowTheClock.2.2.2.1,
    witness_NetworkTimeTriggersAndCapturesFollowTheClock.2.2.2.2.2.1,
    witness_NetworkTimeTriggersAndCapturesFollowTheClock.2.2.2.2.2.2.2.1,
    witness_NetworkTimeTriggersAndCapturesFollowTheClock.2.2.2.2.2.2.2.2.2.1,
    witness_NetworkTimeTriggersAndCapturesFollowTheClock.2.2.2.2.2.2.2.2.2.2,
    witness_DramRequestsAreServedInOrder.1,
    witness_DramRequestsAreServedInOrder.2.2.2.2.1,
    witness_QuadsRefreshSleepAndRetime.1,
    witness_QuadsRefreshSleepAndRetime.2.2.1,
    witness_QuadsRefreshSleepAndRetime.2.2.2.1,
    witness_QuadsRefreshSleepAndRetime.2.2.2.2.2.1,
    witness_QuadsRefreshSleepAndRetime.2.2.2.2.2.2.1,
    witness_QuadsRefreshSleepAndRetime.2.2.2.2.2.2.2.2.1,
    witness_QuadsRefreshSleepAndRetime.2.2.2.2.2.2.2.2.2,
    witness_DramCommandsServiceWindowsPointsAndTraining.2.2.1,
    witness_DramCommandsServiceWindowsPointsAndTraining.2.2.2.2.1,
    witness_DramCommandsServiceWindowsPointsAndTraining.2.2.2.2.2.1,
    witness_DramCommandsServiceWindowsPointsAndTraining.1,
    witness_CompressionAndBlockJobsRunWriteAndReply.2.2.1,
    witness_CompressionAndBlockJobsRunWriteAndReply.2.2.2.1,
    witness_WorvelPortsCheckHelloReturnCreditsAndTrain.2.2.2.2.2.2.2.2.2.2.2.2,
    witness_CompressionAndBlockJobsRunWriteAndReply.2.1,
    witness_CompressionAndBlockJobsRunWriteAndReply.2.2.2.2.2.1,
    witness_CompressionAndBlockJobsRunWriteAndReply.2.2.2.2.2.2.1,
    witness_CompressionAndBlockJobsRunWriteAndReply.2.2.2.2.2.2.2.2⟩

/-- States and operands that meet the hypotheses of each clause of `PowerTruingAndRecordRowsComplete`. -/
theorem witness_PowerTruingAndRecordRowsComplete :
    (∃ (s : State) (bus : Bus) (c : Cmd) (j : BlkJob),
      (s.blk.running = some j) ∧ (s.cmdOf j.cmd = some c) ∧ (c.blitArgs.op = 0) ∧ (c.blitArgs.wm = false) ∧ (j.overlap = false) ∧ (j.rows ≤ c.blitArgs.h) ∧ (c.itemList = false)) ∧
    (∃ (s : State) (vin pin : Nat),
      (s.pwc.locked = false) ∧ (vin < 65536) ∧ (pin < 65536)) ∧
    (∃ (s : State) (p : Nat),
      (100 * s.powerLimit < p) ∧ (s.fld R.PWC_STATUS_gov_level < 7) ∧ (s.cal.pass = none) ∧ (s.hst.held = [])) ∧
    (∃ (s : State) (depth : Nat),
      (depth = 1 ∨ depth = 3) ∧ (s.fld (R.PWC_DOMAIN_depth 25) < depth) ∧ (s.enginesIdle = true)) ∧
    (∃ (s : State) (j : Nat),
      (j < 4) ∧ (s.hostCut = false) ∧ (s.fld (R.PWC_DOMAIN_depth (19 + j)) ≠ 0) ∧ (s.fld R.PWC_STATUS_state ≠ 1) ∧ (s.hst.held = [])) ∧
    (∃ (s : State),
      (s.pwc.failed = false ∧ s.pwc.shut = false ∧ s.pwc.locked = false)) ∧
    (∃ (s : State),
      (s.pwc.failed = false ∧ s.pwc.shut = false ∧ s.pwc.locked = false)) ∧
    (∃ (s : State),
      (s.pwc.failed = true ∧ s.pwc.recordDone = false ∧ s.pwc.locked = false) ∧ (s.fld (R.PWC_DOMAIN_depth 1) = 0) ∧ (s.fld R.SPL_STATUS_read_only = 0) ∧ (s.spl.programmed = false)) ∧
    (∃ (s : State),
      (s.pwc.failed = true ∧ s.pwc.locked = false)) ∧
    (∃ (s : State),
      (s.pwc.locked = false)) ∧
    (∃ (s : State) (p : Straps),
      (s.pwc.locked = true)) ∧
    (∃ (s : State),
      (s.pwc.failed = false ∧ s.pwc.shut = false ∧ s.pwc.locked = false)) ∧
    (∃ (s : State),
      (s.pwc.failed = false ∧ s.pwc.shut = false ∧ s.pwc.locked = false)) ∧
    (∃ (s : State) (p : Straps),
      (s.pwc.vinReversed = true)) ∧
    (∃ (s : State) (bus : Bus) (late : Bool) (id : Nat) (c : Cmd),
      (s.pwc.setting = some (id, 1)) ∧ (s.standbyReady = true) ∧ (s.cmdOf id = some c) ∧ (c.phase = .deferred ∧ c.items = [none]) ∧ (c.itemList = false)) ∧
    (∃ (s : State) (source : Nat),
      (s.mayReset = true) ∧ (s.fld R.PWC_STATUS_state = 2) ∧ (source = 3 ∨ (source < 3 ∧ s.pwc.wake.testBit source = true))) ∧
    (∃ (s : State),
      (s.mayReset = true) ∧ (s.fld R.PWC_STATUS_state = 3) ∧ (s.pwc.wake.testBit 2 = true)) ∧
    (∃ (s : State) (n : Nat) (x : Int),
      (s.convertible n = true) ∧ (s.fld R.THM_CFG_mode = 0 ∨ (s.sensor n).next ≤ s.ptp.f) ∧ ((s.sensor n).samples = []) ∧ (s.sensorState n = 0) ∧ (s.zoneState (sensorZone n) < 2) ∧ (s.fld (R.THM_ZONE_crit (sensorZone n)) = 0) ∧ (x < s.threshold n 1 ∧ x < s.threshold n 2 ∧ x < s.threshold n 3 ∧ x < s.threshold n 4)) ∧
    (∃ (s : State) (z : Nat),
      (z < 16) ∧ (2 ≤ s.zoneState z) ∧ (s.cal.pass = none) ∧ (s.hst.held = [])) ∧
    (∃ (s : State) (n : Nat),
      (n < 104) ∧ (s.pwc.shut = false ∧ s.pwc.locked = false)) ∧
    (∃ (s : State),
      (s.pwc.shut = true) ∧ (s.fld (R.PWC_DOMAIN_depth 1) ≠ 3)) ∧
    (∃ (s : State) (bus : Bus) (id : Nat) (c : Cmd),
      (Startable s id .thermalSet c) ∧ (c.pb 8 0 7 + c.pb 9 0 7 ≤ 104 ∧ 0 < c.pb 9 0 7) ∧ (c.p 10 1 < c.p 11 1 ∧ c.p 11 1 < c.p 12 1 ∧ c.p 12 1 < c.p 13 1) ∧ (100 ≤ c.p 13 1 ∧ c.p 13 1 ≤ 125) ∧ (1 ≤ c.pb 14 0 4 ∧ c.pb 14 0 4 ≤ 10) ∧ (5 ≤ c.p 15 1) ∧ (c.itemList = false)) ∧
    (∃ (s : State) (bus : Bus) (id : Nat) (c : Cmd) (n : Nat) (x : Int) (t1 : State),
      (Startable s id .thermalSample c) ∧ (c.pb 16 0 7 = n) ∧ (c.pb 17 0 7 = 1) ∧ (n < 104) ∧ (t1 = (if (s.convert n x).fld R.THM_CFG_mode = 1 then s.convert n x else (s.convert n x).schedule n)) ∧ (t1.cmdOf id = some c) ∧ (c.itemList = false) ∧ (busFails bus (c.p 8 8) 16 = false) ∧ (s.convertible n = true)) ∧
    (∃ (s : State) (i x : Nat),
      (i < 128) ∧ (s.cal.runs.find? (fun r => r.2.2 == i) = none) ∧ (s.fld R.CAL_CFG_auto_a = 1) ∧ (s.fld (R.CAL_ITEM_STATE_freeze i) = 0) ∧ (x < 16384 ∧ x ≠ s.fld (R.CAL_ITEM_STATE_target i)) ∧ (s.fld R.SPL_STATUS_read_only = 0) ∧ (s.fld (R.CAL_ITEM_COUNT_count i) = 0 ∨ s.fld (R.CAL_ITEM_TIME_time i) + s.fld R.CAL_CFG_min_commit * 60000000000 ≤ s.now)) ∧
    (∃ (s : State) (i : Nat),
      (i < 128)) ∧
    (∃ (s : State) (b : Nat) (ds : List Nat),
      (b < 8) ∧ (s.bentOn b = true) ∧ ((s.recordsOf 4 b).length < 2) ∧ (s.fld R.SPL_STATUS_read_only = 0)) ∧
    (∃ (s : State),
      (s.fld R.CAL_TRUE_CFG_interval ≠ 0) ∧ (s.cal.pass = none) ∧ (s.passForbidden = false) ∧ (s.passHot = false) ∧ ((List.range 8).all (fun b => s.fld (R.ENG_BENT_STATUS_state b) == 1) = true)) ∧
    (∃ (s : State) (offset ceiling : Option Nat) (ds : List Nat) (p : Pass) (b : Nat) (rest : List Nat),
      (s.cal.pass = some p) ∧ (p.cur = none) ∧ (p.todo = b :: rest) ∧ (b < 8) ∧ (s.fld (R.ENG_BENT_STATUS_state b) = 1) ∧ (s.cal.frozenBents.contains b = false)) ∧
    (∃ (s : State) (n : NewRecord) (rest : List NewRecord),
      (s.spl.queue = n :: rest) ∧ (s.fld R.SPL_STATUS_read_only = 0) ∧ (s.spl.programmed = false)) ∧
    (∃ (s : State) (k m : Nat) (more : List Nat),
      (s.spl.written = k :: m :: more) ∧ (s.spl.erasing = none) ∧ (s.fld R.SPL_STATUS_read_only = 0) ∧ (s.fld R.SPL_STATUS_free < 8)) ∧
    (∃ (s : State) (k : Nat),
      (s.spl.erasing = some k) ∧ (s.spl.queue.any (fun n => n.copied) = false)) ∧
    (∃ (s : State) (k : Nat),
      (s.spl.erasing = some k) ∧ (s.fld R.SPL_STATUS_read_only = 0) ∧ (s.spl.bad.length ≤ 1007)) ∧
    (∃ (s : State) (bad : Bool) (r : Report) (n : NewRecord),
      (s.flt.boot = .scan) ∧ (s.flt.report = some r) ∧ (r.level = 2 ∧ r.dramLost = false ∧ r.cause ≠ 9) ∧ (s.spl.programmed = true ∧ s.spl.queue = [n]) ∧ (s.spl.bad = [] ∧ s.hst.held = [])) ∧
    (∃ (s : State) (bus : Bus),
      (s.flt.boot = .verify ∧ s.flt.fwRestarting = false) ∧ (s.spl.trialMark = false ∧ s.spl.fallbackCause = 0) ∧ (s.fld R.SPL_FW_STATUS_trial = 0) ∧ (s.slotOk (s.fld R.SPL_FW_STATUS_active) = true)) ∧
    (∃ (s : State),
      (s.fld R.SPL_FW_STATUS_trial = 1)) ∧
    (∃ (s : State) (bus : Bus) (id : Nat) (c : Cmd),
      (Startable s id .calRun c) ∧ (c.p 9 1 = 1 ∧ c.pb 8 0 7 < 128) ∧ (s.deferFull c = false) ∧ (s.fld (R.CAL_ITEM_STATE_freeze (c.pb 8 0 7)) = 0)) ∧
    (∃ (s : State) (bus : Bus) (id : Nat) (c : Cmd),
      (Startable s id .calRollback c) ∧ (s.deferFull c = false) ∧ (c.pb 8 0 2 = 1 ∧ c.p 9 1 = 0 ∧ c.p 14 2 = 1 ∧ c.p 12 2 < 128) ∧ (c.flag 10 0 = true ∧ c.flag 10 1 = false) ∧ (c.itemList = false)) ∧
    (∃ (s : State) (bus : Bus) (id : Nat) (c : Cmd),
      (Startable s id .truingRun c) ∧ (s.cal.pass = none) ∧ (s.deferFull c = false) ∧ ((List.range 8).all (fun b => s.fld (R.ENG_BENT_STATUS_state b) == 1) = true) ∧ (c.p 8 1 ≠ 0)) ∧
    (∃ (s : State) (bus : Bus) (id : Nat) (c : Cmd) (r : Record),
      (Startable s id .splRead c) ∧ (1 ≤ c.pb 20 0 5 ∧ c.pb 20 0 5 ≤ 16) ∧ (s.recordsOf (c.p 16 1) (c.p 18 2) = [r]) ∧ (c.itemList = false) ∧ (busFails bus (c.p 8 8) r.bytes.length = false)) ∧
    (∃ (s : State) (bus : Bus) (id : Nat) (c : Cmd),
      (Startable s id .fwWrite c) ∧ (c.p 16 4 % 4096 = 0 ∧ c.p 20 4 % 4096 = 0 ∧ 0 < c.p 20 4 ∧ c.p 20 4 ≤ 1048576) ∧ (c.p 16 4 + c.p 20 4 ≤ slotBytes) ∧ (s.spl.trialMark = false ∧ s.fld R.SPL_FW_STATUS_trial = 0 ∧ s.deferFull c = false) ∧ (busFails bus (c.p 8 8) (c.p 20 4) = false) ∧ (c.itemList = false)) ∧
    (∃ (s : State) (bus : Bus) (id : Nat) (c : Cmd),
      (Startable s id .fwActivate c) ∧ (c.pb 8 0 2 = 0) ∧ (s.slotOk s.otherSlot = true) ∧ (c.itemList = false)) ∧
    (∃ (s : State) (n d : Nat),
      (n < 256) ∧ (s.fld (R.PFC_CTL_enable n) = 1 ∧ s.fld R.PFC_GLOBAL_freeze = 0) ∧ (s.fld (R.PFC_CTL_event n) ≠ 0) ∧ (isOccupancy (s.fld (R.PFC_CTL_event n)) = false) ∧ (s.chainedOdd n = false) ∧ (s.fld (R.PWC_DOMAIN_depth (counterDomain n)) = 0) ∧ (s.fld (R.PFC_VAL_count n) + 1 < 2 ^ 48)) ∧
    (∃ (s : State) (n v : Nat),
      (n < 256) ∧ (v < 2 ^ 48) ∧ (s.fld (R.PWC_DOMAIN_depth (counterDomain n)) = 0)) ∧
    (∃ (s : State) (n : Nat),
      (n < 256 ∧ n % 2 = 0) ∧ (s.fld (R.PFC_CTL_chain n) = 1)) ∧
    (∃ (s : State) (ns : List Nat),
      (s.pfc.windowsOpen = true)) ∧
    (∃ (s : State) (v : Nat),
      (1 ≤ bitsOf v 0 20 ∧ bitsOf v 0 20 ≤ 1000000)) ∧
    (∃ (s : State) (v : Nat),
      (s.pfc.lastSnap = none)) ∧
    (∃ (s : State) (v : Nat),
      (v.testBit 1 = false)) ∧
    (∃ (s : State) (bay rays flags region ray node slots tDirty : Nat) (offs : List Nat),
      (bay < 64) ∧ (ray / 256 < s.hx * s.hy) ∧ (ray % 256 < s.views) ∧ (s.fld R.PFC_SAMPLE_CFG_tagged = 1) ∧ (shiftSteps rays (Store.get (fun q => seedOf 1 q) s.pfc.shift bay) % 2 ^ s.fld R.PFC_SAMPLE_CFG_k = 0) ∧ (s.fld R.PFC_BUF_BASE_base ≠ 0) ∧ (s.pfc.queue.length < 256)) ∧
    (∃ (s : State) (item source iid lat : Nat),
      (s.fld R.PFC_SAMPLE_CFG_precise = 1) ∧ (1 ≤ item ∧ item ≤ 5 ∧ (s.fld R.PFC_SAMPLE_CFG_items).testBit (item - 1) = true) ∧ (10 * s.fld R.PFC_SAMPLE_CFG_threshold ≤ lat) ∧ (s.fld R.PFC_BUF_BASE_base ≠ 0) ∧ (s.pfc.queue.length < 256)) ∧
    (∃ (s : State) (d : List Byte) (rest : List (List Byte)),
      (s.pfc.queue = d :: rest) ∧ (d.length = 64) ∧ ((s.fld R.PFC_BUF_WR_index + 1) % s.recordPlaces ≠ s.fld R.PFC_BUF_RD_index)) ∧
    (∃ (s : State) (bus : Bus) (id : Nat) (c : Cmd) (w : Nat),
      (Startable s id .pfcProgram c) ∧ (c.p 17 1 = 0 ∧ c.p 16 1 < 256) ∧ (busRead bus (c.p 8 8) 8 = some (leBytes 8 w)) ∧ (w < 2 ^ 64) ∧ (c.client = 0) ∧ (c.flag 18 0 = true) ∧ (counterCan (c.p 16 1) (bitsOf w 0 8) (bitsOf w 8 8) = true) ∧ (c.itemList = false)) ∧
    (∃ (s : State) (bus : Bus) (id : Nat) (c : Cmd),
      (Startable s id .pfcSnapshot c) ∧ (s.pfc.lastSnap = none) ∧ (busFails bus (c.p 8 8) 2664 = false) ∧ (c.itemList = false)) ∧
    (∃ (s : State) (bus : Bus) (id : Nat) (c : Cmd),
      (Startable s id .sampleDrain c) ∧ (64 ≤ c.p 16 4 ∧ c.p 16 4 ≤ 1073741824) ∧ (s.pfc.drain = none) ∧ (s.deferFull c = false) ∧ (c.flag 20 0 = false)) ∧
    (∃ (s : State) (cause : Nat) (p : Straps),
      (cause = 1 ∨ (cause = 2 ∧ s.fld R.PWC_PFAIL_committed = 0))) ∧
    (∃ (s : State) (cause : Nat),
      (cause = 3 ∨ cause = 4 ∨ cause = 5 ∨ cause = 6 ∨ cause = 7 ∨ cause = 10) ∧ (s.mayReset = true) ∧ (s.fld R.PWC_STATUS_state ≠ 3) ∧ (s.inBounds = true) ∧ (s.hst.held = [])) ∧
    (∃ (s : State) (f : Nat),
      (f < 16) ∧ (s.hostCut = false) ∧ (s.present f = true) ∧ ((s.cmd.inflight.map Cmd.id).Nodup)) ∧
    (∃ (s : State) (cool : Bool),
      (s.flt.pinLow = false) ∧ (s.mayReset = true) ∧ (s.fld R.PWC_STATUS_state < 2)) ∧
    (∃ (s : State),
      (s.mayReset = true)) ∧
    (∃ (s : State),
      (s.flt.boot = .up ∧ s.flt.fwRestarting = false) ∧ (s.hostCut = false) ∧ ((s.cmd.inflight.map Cmd.id).Nodup)) ∧
    (∃ (s : State) (die : Nat) (ready : List (Nat × Nat)),
      (die < 2) ∧ (s.hst.held = []) ∧ (s.inBounds = true)) ∧
    (∃ (s : State) (bus : Bus) (id : Nat) (c : Cmd),
      (Startable s id .moduleReset c) ∧ (c.p 8 4 = 0x52535457) ∧ (s.cmd.inflight = [c]) ∧ (c.client < 16) ∧ (s.flt.closed = []) ∧ (s.mayReset = true)) ∧
    (∃ (s : State) (bus : Bus) (id : Nat) (c : Cmd),
      (Startable s id .blockReset c) ∧ (c.pb 8 0 2 = 1) ∧ (c.itemList = false) ∧ (s.inBounds = true)) ∧
    (∃ (s : State) (bus : Bus) (id : Nat) (c : Cmd) (r : Report),
      (Startable s id .reportRead c) ∧ (64 ≤ c.p 16 4) ∧ (c.flag 20 0 = false ∧ c.flag 20 1 = false) ∧ (s.flt.report = some r) ∧ (busFails bus (c.p 8 8) (r.written c.client (c.p 16 4)).length = false) ∧ (c.itemList = false)) ∧
    (∃ (s : State) (bus : Bus) (id : Nat) (c : Cmd),
      (Startable s id .ledgerSnapshot c) ∧ (c.flag 16 0 = false) ∧ (c.itemList = false) ∧ (busFails bus (c.p 8 8) 90616 = false)) ∧
    (∃ (s : State),
      (s.pwc.locked = false)) ∧
    (∃ (s : State),
      (s.pwc.locked = false)) ∧
    (∃ (s : State) (n : Nat),
      (s.pwc.locked = false) ∧ (n < 104) ∧ (s.fld (R.THM_TEMP_valid n) = 1)) ∧
    (∃ (s : State),
      (s.pwc.locked = false)) ∧
    (∃ (s : State),
      (s.mayReset = true) ∧ (s.fld R.PWC_STATUS_state = 2) ∧ (s.pwc.wake.testBit 0 = true)) ∧
    (∃ (s : State),
      (s.pwc.locked = false)) ∧
    (∃ (s : State),
      (s.pin.refSel = true ∧ s.pin.refFallback = false)) ∧
    (∃ (s : State) (id at_ : Nat) (c : Cmd),
      (s.pnl.reset = some (id, at_)) ∧ (s.cmdOf id = some c)) ∧
    (∃ (s : State) (q code violations : Nat),
      (q < 16) ∧ (code ≠ 0)) ∧
    (∃ (s : State) (p lane taps reqs : Nat) (pre inverted : Bool),
      (p < 4) ∧ (lane < 8) ∧ ((s.wp p).training.testBit lane = true) ∧ (s.portIn p = false) ∧ (s.fld (R.WVL_PORT_STATUS_hello_ok p) = 0)) ∧
    (∃ (s : State) (p mask : Nat),
      (p < 4) ∧ (s.walled = true)) ∧
    (∃ (s : State) (i : Nat) (m : TapMove),
      (i < 256) ∧ (Store.get (fun _ => []) s.lan.asked i = []) ∧ (s.lan.moves.find? (fun m => m.lane == i) = some m) ∧ (s.fld (R.LAN_STATUS_state i) ≠ 2)) ∧
    (∃ (s : State) (client off : Nat) (data : List Byte),
      (s.reachable client = true) ∧ (off + data.length ≤ (s.dramWindow client).2)) ∧
    (∃ (s : State) (client r off a : Nat) (data : List Byte),
      (s.reachable client = true) ∧ (client < 16) ∧ (r < 16) ∧ (ringAddr (s.reg (R.CMD_SQ_BASE (16 * client + r))) 64 0 = (true, a)) ∧ (off + data.length ≤ 64 * s.sqSize (16 * client + r)) ∧ (s.mayReach client (a + off) data.length = true)) :=
  ⟨witness_CompressionAndBlockJobsRunWriteAndReply.2.2.2.2.2.2.2.1,
    witness_SupplySleepPowerFailureAndStates.1,
    witness_SupplySleepPowerFailureAndStates.2.2.1,
    witness_SupplySleepPowerFailureAndStates.2.2.2.2.1,
    witness_LinksClientsAndDomainsComeAndGo.2.2.2.2,
    ⟨withCmd { State.reset with pwc := {}, hst := {} } (cmdWith 3 0 .blitJob [0]), by decide⟩,
    ⟨{ State.reset with pwc := {}, hst := {} }, by decide⟩,
    witness_SupplySleepPowerFailureAndStates.2.2.2.2.2.2.2.2.1,
    witness_WarmResetsKeepWhatTheyMust.2.2.1,
    witness_SupplySleepPowerFailureAndStates.2.2.2.2.2.2.2.2.2.1,
    witness_ColdResetsLeaveTheResetValues.2.2.1,
    ⟨withCmd { State.reset with pwc := {}, hst := {} } (cmdWith 3 0 .blitJob [0]), by decide⟩,
    ⟨{ State.reset with pwc := {}, hst := {} }, by decide⟩,
    witness_ColdResetsLeaveTheResetValues.2.2.2.1,
    witness_SupplySleepPowerFailureAndStates.2.2.2.2.2.2.2.2.2.2.2.2.2.2,
    witness_WarmResetsKeepWhatTheyMust.2.2.2.1,
    witness_WarmResetsKeepWhatTheyMust.2.2.2.2.1,
    witness_SensorsZonesAndTheCutAtShut.1,
    witness_SensorsZonesAndTheCutAtShut.2.2.2.1,
    witness_SensorsZonesAndTheCutAtShut.2.2.2.2.2.2.1,
    witness_SensorsZonesAndTheCutAtShut.2.2.2.2.2.2.2.2.1,
    witness_SensorsZonesAndTheCutAtShut.2.2.2.2.2.2.2.2.2.2.1,
    witness_SensorsZonesAndTheCutAtShut.2.2.2.2.2.2.2.2.2.2.2.2,
    witness_CalibrationsCommitAndTrimsSlew.1,
    witness_CalibrationsCommitAndTrimsSlew.2.2.2.1,
    witness_BentsAgeAndTruingPassesTrueThem.1,
    witness_BentsAgeAndTruingPassesTrueThem.2.1,
    witness_BentsAgeAndTruingPassesTrueThem.2.2.2.1,
    witness_TheStoryPoleAndFirmwareSlots.1,
    witness_TheStoryPoleAndFirmwareSlots.2.2.1,
    witness_TheStoryPoleAndFirmwareSlots.2.2.2.1,
    witness_TheStoryPoleAndFirmwareSlots.2.2.2.2.1,
    witness_TheBootTakesAnImageAndScansTheJournal.2.2.2,
    witness_TheBootTakesAnImageAndScansTheJournal.1,
    witness_TheBootTakesAnImageAndScansTheJournal.2.2.1,
    witness_CalibrationsCommitAndTrimsSlew.2.2.2.2.2.2.2.1,
    witness_CalibrationsCommitAndTrimsSlew.2.2.2.2.2.2.2.2.1,
    witness_BentsAgeAndTruingPassesTrueThem.2.2.2.2.2.2,
    witness_TheStoryPoleAndFirmwareSlots.2.2.2.2.2.1,
    witness_TheStoryPoleAndFirmwareSlots.2.2.2.2.2.2.1,
    witness_TheStoryPoleAndFirmwareSlots.2.2.2.2.2.2.2.1,
    witness_CountersCountChainAndArePreset.1,
    witness_CountersCountChainAndArePreset.2.2.2.2.1,
    witness_CountersCountChainAndArePreset.2.2.2.2.2.1,
    witness_MetersAndSnapshotsFollowTheirWindows.1,
    witness_MetersAndSnapshotsFollowTheirWindows.2.1,
    witness_MetersAndSnapshotsFollowTheirWindows.2.2.1,
    witness_MetersAndSnapshotsFollowTheirWindows.2.2.2.1,
    witness_RecordsAreMadeWrittenAndDrained.1,
    witness_RecordsAreMadeWrittenAndDrained.2.2.1,
    witness_RecordsAreMadeWrittenAndDrained.2.2.2.1,
    witness_CountersCountChainAndArePreset.2.2.2.2.2.2.1,
    witness_MetersAndSnapshotsFollowTheirWindows.2.2.2.2,
    witness_RecordsAreMadeWrittenAndDrained.2.2.2.2.2.1,
    witness_ColdResetsLeaveTheResetValues.1,
    witness_WarmResetsKeepWhatTheyMust.1,
    witness_PartsAreResetAlone.1,
    witness_WarmResetsKeepWhatTheyMust.2.2.2.2.2.1,
    witness_WarmResetsKeepWhatTheyMust.2.2.2.2.2.2.2.2.2.1,
    witness_PartsAreResetAlone.2.1,
    witness_PartsAreResetAlone.2.2.2.2.2.2,
    witness_WarmResetsKeepWhatTheyMust.2.2.2.2.2.2.2.2.2.2.1,
    witness_PartsAreResetAlone.2.2.2.1,
    witness_LedgerSnapshotsAndReportsAreWritten.2.2.1,
    witness_LedgerSnapshotsAndReportsAreWritten.1,
    witness_SupplySleepPowerFailureAndStates.2.2.2.2.2.2.2.2.2.1,
    witness_SupplySleepPowerFailureAndStates.2.2.2.2.2.2.2.2.2.1,
    witness_TheLowSpeedPinsReportAndWake.2.2.2.2.2.1,
    witness_SupplySleepPowerFailureAndStates.2.2.2.2.2.2.2.2.2.1,
    witness_TheLowSpeedPinsReportAndWake.2.2.2.2.2.2.2.2.2.1,
    witness_SupplySleepPowerFailureAndStates.2.2.2.2.2.2.2.2.2.1,
    witness_TheLowSpeedPinsReportAndWake.2.2.2.2.2.2.2.2.2.2.2.2,
    witness_LinkResetsAndWorvelLanesTrainAndService.2.2.1,
    witness_BackChannelMessagesCreditHoldAndReportFaults.1,
    witness_WorvelPortsCheckHelloReturnCreditsAndTrain.2.2.2.2.2.2.2.2.1,
    witness_WorvelPortsCheckHelloReturnCreditsAndTrain.2.2.2.2.2.2.2.2.2.1,
    witness_SerialLanesIdleAdaptMeasureAndMoveTaps.2.2.2.2.2.2.2.2.2.2,
    witness_ModuleDramKeepsWhatIsWritten.2.1,
    witness_ModuleDramKeepsWhatIsWritten.2.2.2.2.1⟩

end Sys2Proof.Tests
end

section
/-! PROOFS. The packed ray word of R160 (O56): two numbers side by side, then the three components. -/

namespace Sys2Proof.Machine

open Sys2Proof

/-- Two numbers side by side, of `m` and `n` bits, take `m + n` bits. -/
theorem add_mul_two_pow_lt {x y m n : Nat} (hx : x < 2 ^ m) (hy : y < 2 ^ n) : x + y * 2 ^ m < 2 ^ (m + n) := by
  calc x + y * 2 ^ m < 2 ^ m + y * 2 ^ m := Nat.add_lt_add_right hx _
    _ = (y + 1) * 2 ^ m := by ring
    _ ≤ 2 ^ n * 2 ^ m := Nat.mul_le_mul_right _ hy
    _ = 2 ^ (m + n) := by ring

/-- A field that begins where the low `lo` bits end reads the number that stands above them. -/
theorem bitsOf_add_mul_two_pow {low lo : Nat} (x w : Nat) (hlow : low < 2 ^ lo) :
    bitsOf (low + x * 2 ^ lo) lo w = x % 2 ^ w := by
  rw [bitsOf, Nat.shiftRight_eq_div_pow, Nat.add_mul_div_right _ _ (Nat.two_pow_pos lo), Nat.div_eq_of_lt hlow, Nat.zero_add]

/-- The lowest field reads the low bits alone, whatever stands above them. -/
theorem bitsOf_zero_add_mul_two_pow {low w : Nat} (x : Nat) (hlow : low < 2 ^ w) :
    bitsOf (low + x * 2 ^ w) 0 w = low := by
  rw [bitsOf, Nat.shiftRight_zero, Nat.add_mul_mod_self_right, Nat.mod_eq_of_lt hlow]

/-- A ray word as R below the pair of G and B; `packWord` itself has the pair of R and G below B. -/
theorem packWord_eq_add_mul (d r g b : Nat) : packWord d r g b = r + (g + b * 2 ^ d) * 2 ^ d := by
  unfold packWord
  ring

section
variable {d r g b : Nat}

theorem packWord_lt (hr : r < 2 ^ d) (hg : g < 2 ^ d) (hb : b < 2 ^ d) : packWord d r g b < 2 ^ (3 * d) := by
  have hgb : g + b * 2 ^ d < 2 ^ (d + d) := add_mul_two_pow_lt hg hb
  have hrgb := add_mul_two_pow_lt hr hgb
  rwa [← packWord_eq_add_mul, show d + (d + d) = 3 * d by ring] at hrgb

theorem bitsOf_packWord_r (hr : r < 2 ^ d) : bitsOf (packWord d r g b) 0 d = r := by
  rw [packWord_eq_add_mul, bitsOf_zero_add_mul_two_pow _ hr]

theorem bitsOf_packWord_g (hr : r < 2 ^ d) (hg : g < 2 ^ d) : bitsOf (packWord d r g b) d d = g := by
  rw [packWord_eq_add_mul, bitsOf_add_mul_two_pow _ _ hr, Nat.add_mul_mod_self_right, Nat.mod_eq_of_lt hg]

theorem bitsOf_packWord_b (hr : r < 2 ^ d) (hg : g < 2 ^ d) (hb : b < 2 ^ d) : bitsOf (packWord d r g b) (2 * d) d = b := by
  have hrg : r + g * 2 ^ d < 2 ^ (2 * d) := by
    rw [Nat.two_mul]
    exact add_mul_two_pow_lt hr hg
  rw [packWord, bitsOf_add_mul_two_pow _ _ hrg, Nat.mod_eq_of_lt hb]

end

/-- Settles O56: R is read below the pair of G and B, G as the low half of that pair, B above the pair of R and G. -/
theorem aRayWordHoldsItsThreeComponentsInOrder : Obligations.ARayWordHoldsItsThreeComponentsInOrder := by
  intro d r g b hr hg hb
  exact ⟨packWord_lt hr hg hb, bitsOf_packWord_r hr, bitsOf_packWord_g hr hg, bitsOf_packWord_b hr hg hb⟩

end Sys2Proof.Machine
end

section
/-! PROOFS. The fence doorbell and the wait value of R192 (O57): what the owner's doorbell writes, then the distance mod 2^32. -/

namespace Sys2Proof.Machine

open Sys2Proof

/-- A field write reaches no part of the state but the registers. -/
theorem State.setFld_eq_with_regs (s : State) (l : Loc) (x : Nat) : s.setFld l x = { s with regs := (s.setFld l x).regs } := rfl

/-- A field write leaves every register alone but its own. -/
theorem otherRegs_setFld (s : State) (l : Loc) (x : Nat) : OtherRegs s (s.setFld l x) [l.off] := fun _ he =>
  State.reg_setFld_other s x (mt List.mem_singleton.mpr he)

/-- The ownership condition of R192: on a layer that no other client owns, the doorbell is a write of the fence value. -/
theorem exec_fenceDoorbell_of_owner {s : State} {client k : Nat} (value : Nat) (hk : k < 8)
    (howner : s.fld (R.SCN_LAYER_STATUS_owned k) = 1 → s.fld (R.SCN_LAYER_STATUS_owner k) = client) :
    exec (.fenceDoorbell client client k value) s = .next (s.setFld (R.CLP_FENCE_VALUE_value k) (value % 2 ^ 32)) := by
  have hmay : ¬ (s.fld (R.SCN_LAYER_STATUS_owned k) = 1 ∧ s.fld (R.SCN_LAYER_STATUS_owner k) ≠ client) :=
    fun ⟨howned, hother⟩ => hother (howner howned)
  exact congrArg Host.Outcome.next (if_pos ⟨rfl, hk, hmay⟩)

/-- The value of a fence after a write of it: a 32-bit field. -/
theorem fld_fenceValue_setFld (s : State) (k value : Nat) :
    (s.setFld (R.CLP_FENCE_VALUE_value k) (value % 2 ^ 32)).fld (R.CLP_FENCE_VALUE_value k) = value % 2 ^ 32 :=
  (State.fld_setFld_same s _ (by decide : 0 + 32 ≤ 64)).trans (Nat.mod_mod _ _)

/-- One modulus added before the subtraction keeps the `Nat` difference from being cut off at 0, so it is the residue of the
difference of integers. -/
theorem natCast_add_sub_mod {w m : Nat} (v : Nat) (hw : w ≤ m) : (((v + m - w) % m : Nat) : Int) = ((v : Int) - w) % m := by
  rw [Int.natCast_emod, Nat.cast_sub (hw.trans (Nat.le_add_left m v)), Nat.cast_add, add_sub_right_comm, Int.add_emod_right]

/-- The comparison of R192, as a difference of integers: no wait value exceeds the modulus. -/
theorem State.fenceReached_iff (s : State) (k : Nat) :
    s.fenceReached k = true ↔
      ((s.fld (R.CLP_FENCE_VALUE_value k) : Int) - (s.fld (R.CLP_FENCE_WAIT_value k) : Int)) % (2 ^ 32 : Int) < (2 ^ 31 : Int) := by
  have hwait : s.fld (R.CLP_FENCE_WAIT_value k) ≤ 2 ^ 32 := (s.fld_lt (R.CLP_FENCE_WAIT_value k)).le
  rw [State.fenceReached, decide_eq_true_iff, ← Int.ofNat_lt, natCast_add_sub_mod _ hwait]
  norm_cast

/-- Settles O57: the owner's doorbell is one write of the fence value, and the wait compares the two values modulo 2^32. -/
theorem aFenceDoorbellSetsTheFenceValue : Obligations.AFenceDoorbellSetsTheFenceValue := by
  refine ⟨fun s client k value hk howner => ?_, State.fenceReached_iff⟩
  exact ⟨_, exec_fenceDoorbell_of_owner value hk howner, fld_fenceValue_setFld s k value, otherRegs_setFld s _ _,
    State.setFld_eq_with_regs ..⟩

end Sys2Proof.Machine
end

section
/-! PROOFS. The class a group takes (O55): R218's order as one key, the rank list sorted by it, the first class it finds. -/

namespace Sys2Proof.Machine

open Sys2Proof

/-- The place of class `c` in R218's order, the earlier the smaller: the higher precedence first, then the lower number. -/
def State.rankKey (s : State) (c : Nat) : Natᵒᵈ ×ₗ Nat := toLex (OrderDual.toDual (s.prec c), c)

/-- No two classes share a place: the number breaks every tie of precedence. -/
theorem State.rankKey_injective (s : State) : Function.Injective s.rankKey := fun _ _ h =>
  congrArg (fun k => (ofLex k).2) h

/-- The order of the keys is R218's. -/
theorem State.rankKey_lt_iff (s : State) {c d : Nat} :
    s.rankKey c < s.rankKey d ↔ s.prec d < s.prec c ∨ (s.prec d = s.prec c ∧ c < d) := by
  rw [State.rankKey, State.rankKey, Prod.Lex.toLex_lt_toLex, OrderDual.toDual_lt_toDual, OrderDual.toDual_inj,
    eq_comm (a := s.prec c)]

/-- One step of the insertion, by the key: the class stops before the first class whose place is later. -/
theorem State.insertClass_cons (s : State) (c d : Nat) (l : List Nat) :
    s.insertClass c (d :: l) = if s.rankKey c < s.rankKey d then c :: d :: l else d :: s.insertClass c l := by
  simp only [State.insertClass, s.rankKey_lt_iff]

theorem State.mem_insertClass (s : State) {c d : Nat} {l : List Nat} : d ∈ s.insertClass c l ↔ d = c ∨ d ∈ l := by
  induction l with
  | nil => exact List.mem_singleton.trans (or_iff_left List.not_mem_nil).symm
  | cons e l ih =>
    rw [State.insertClass_cons]
    split
    · exact List.mem_cons
    · rw [List.mem_cons, ih, List.mem_cons, or_left_comm]

theorem State.insertClass_sorted (s : State) (c : Nat) {l : List Nat} (hl : l.Pairwise (s.rankKey · ≤ s.rankKey ·)) :
    (s.insertClass c l).Pairwise (s.rankKey · ≤ s.rankKey ·) := by
  induction l with
  | nil => exact List.pairwise_singleton ..
  | cons e l ih =>
    obtain ⟨hel, hl'⟩ := List.pairwise_cons.mp hl
    rw [State.insertClass_cons]
    split
    next hce =>
      refine List.pairwise_cons.mpr ⟨List.forall_mem_cons.mpr ⟨hce.le, fun d hd => ?_⟩, hl⟩
      exact hce.le.trans (hel d hd)
    next hce =>
      refine List.pairwise_cons.mpr ⟨fun d hd => ?_, ih hl'⟩
      obtain rfl | hd := s.mem_insertClass.mp hd
      · exact not_lt.mp hce
      · exact hel d hd

theorem State.mem_foldl_insertClass (s : State) {d : Nat} (cs l : List Nat) :
    d ∈ cs.foldl (fun l c => s.insertClass c l) l ↔ d ∈ cs ∨ d ∈ l := by
  induction cs generalizing l with
  | nil => exact (or_iff_right List.not_mem_nil).symm
  | cons c cs ih => rw [List.foldl_cons, ih, s.mem_insertClass, List.mem_cons, or_left_comm, or_assoc]

/-- The rank list holds the sixteen classes. -/
theorem State.mem_rank (s : State) {c : Nat} : c ∈ s.rank ↔ c < 16 := by
  rw [State.rank, s.mem_foldl_insertClass, List.mem_range, or_iff_left List.not_mem_nil]

theorem State.rank_sorted (s : State) : s.rank.Pairwise (s.rankKey · ≤ s.rankKey ·) :=
  List.foldlRecOn (motive := List.Pairwise (s.rankKey · ≤ s.rankKey ·)) _ _ .nil fun _ hl c _ => s.insertClass_sorted c hl

/-- In a list sorted by an injective key, what a search finds comes before every other element with the property. -/
theorem key_lt_of_find?_eq_some {α β : Type} [PartialOrder β] {key : α → β} (hkey : key.Injective) {p : α → Bool} {c d : α}
    {l : List α} (hl : l.Pairwise (key · ≤ key ·)) (hfind : l.find? p = some c) (hd : d ∈ l) (hne : d ≠ c) (hpd : p d = true) :
    key c < key d := by
  obtain ⟨-, before, after, rfl, hbefore⟩ := List.find?_eq_some_iff_append.mp hfind
  obtain ⟨-, hsuffix, -⟩ := List.pairwise_append.mp hl
  obtain hd | hd := List.mem_append.mp hd
  · exact absurd hpd (by simpa using hbefore d hd)
  · have hafter : d ∈ after := (List.mem_cons.mp hd).resolve_left hne
    exact (List.rel_of_pairwise_cons hsuffix hafter).lt_of_ne (hkey.ne hne.symm)

/-- In a list sorted by an injective key, a search finds the one element with the property whose key is the smallest. -/
theorem find?_eq_some_iff_least {α β : Type} [PartialOrder β] {key : α → β} (hkey : key.Injective) {p : α → Bool} {c : α}
    {l : List α} (hl : l.Pairwise (key · ≤ key ·)) :
    l.find? p = some c ↔ c ∈ l ∧ p c = true ∧ ∀ d, d ∈ l → d ≠ c → p d = true → key c < key d := by
  constructor
  · intro hfind
    exact ⟨List.mem_of_find?_eq_some hfind, List.find?_some hfind, fun _ => key_lt_of_find?_eq_some hkey hl hfind⟩
  · rintro ⟨hc, hpc, hleast⟩
    obtain ⟨e, he⟩ := Option.isSome_iff_exists.mp (List.find?_isSome.mpr ⟨c, hc, hpc⟩)
    obtain rfl | hne := eq_or_ne e c
    · exact he
    · have hce : key c < key e := hleast e (List.mem_of_find?_eq_some he) hne (List.find?_some he)
      exact absurd hce (key_lt_of_find?_eq_some hkey hl he hc hne.symm hpc).asymm

/-- Settles O55: the rank list holds the sixteen classes sorted by R218's order, and the group takes the first eligible one. -/
theorem aGroupTakesTheEligibleClassOfHighestPrecedence : Obligations.AGroupTakesTheEligibleClassOfHighestPrecedence := by
  intro s q c
  rw [State.pickClass, find?_eq_some_iff_least s.rankKey_injective s.rank_sorted]
  simp only [s.mem_rank, s.rankKey_lt_iff, State.prec]

end Sys2Proof.Machine
end

section
/-! PROOFS. The DRAM windows after a cold reset (R364, O54): the few registers it may leave at another value, none of them of
block DMC, then the search of a window map in which window 0 alone is enabled. -/

namespace Sys2Proof.Machine

open Sys2Proof

/-- A field write to a register that is excepted already keeps the frame. -/
theorem OtherRegs.setFld {s t : State} {es : List Nat} (h : OtherRegs s t es) {l : Loc} (x : Nat) (hl : l.off ∈ es) :
    OtherRegs s (t.setFld l x) es := fun e he =>
  (State.reg_setFld_other t x (ne_of_mem_of_not_mem hl he).symm).trans (h e he)

/-- A register write to a register that is excepted already keeps the frame. -/
theorem OtherRegs.setReg {s t : State} {es : List Nat} (h : OtherRegs s t es) {off : Nat} (v : RegWord) (hoff : off ∈ es) :
    OtherRegs s (t.setReg off v) es := fun e he =>
  (State.reg_setReg_other t v (ne_of_mem_of_not_mem hoff he).symm).trans (h e he)

/-- Whatever the report, or with none, its showing writes FLT_RESET_STATUS and FLT_RESET_TIME alone (R493). -/
theorem OtherRegs.showReport {s t : State} {es : List Nat} (h : OtherRegs s t es) (hstatus : R.FLT_RESET_STATUS ∈ es)
    (htime : R.FLT_RESET_TIME ∈ es) : OtherRegs s t.showReport es := by
  unfold State.showReport
  cases t.flt.report with
  | none => exact h.setFld _ hstatus
  | some r =>
    exact (((((((h.setFld _ hstatus).setFld _ hstatus).setFld _ hstatus).setFld _ hstatus).setFld _ hstatus).setFld _
      hstatus).setFld _ hstatus).setFld _ htime

/-- The registers that a cold reset may leave at another value than their reset value: the seed, the firmware slots and
fuse, the bifurcation strap of the host links and the reset report (R488). -/
def coldResetRegs : List Nat :=
  [R.PFC_SAMPLE_SEED, R.SPL_FW_STATUS, R.HST_LINK_STATUS 0, R.HST_LINK_STATUS 1, R.FLT_RESET_STATUS, R.FLT_RESET_TIME]

section
variable (s : State) (cause : Nat) (p : Straps)

theorem State.otherRegs_afterCold (es : List Nat) : OtherRegs State.reset (s.afterCold cause p) es := fun _ _ => rfl

/-- From every state, a cold reset puts every register at its reset value but those of `coldResetRegs`. -/
theorem State.otherRegs_coldReset : OtherRegs State.reset (s.coldReset cause p) coldResetRegs := by
  unfold State.coldReset
  refine .showReport ?_ (by decide) (by decide)
  refine .setFld (.setFld ?_ _ (by decide)) _ (by decide)
  refine .setFld (.setFld (.setFld ?_ _ (by decide)) _ (by decide)) _ (by decide)
  exact .setReg (s.otherRegs_afterCold cause p coldResetRegs) _ (by decide)

/-- A cold reset excepts no register of block DMC, whose offsets begin at 0x1200000. -/
theorem State.fld_coldReset_dmc {l : Loc} (hl : l.off / 0x100000 = 0x12) : (s.coldReset cause p).fld l = State.reset.fld l := by
  have hblock : ∀ e ∈ coldResetRegs, e / 0x100000 ≠ 0x12 := by decide
  have hother : l.off ∉ coldResetRegs := fun hmem => hblock _ hmem hl
  rw [State.fld, State.fld, s.otherRegs_coldReset cause p _ hother]

end

theorem win_cfg_enable_block {w : Nat} (hw : w ≤ 7) : (R.DMC_WIN_CFG_enable w).off / 0x100000 = 0x12 := by
  simp only [R.DMC_WIN_CFG_enable, R.DMC_WIN_CFG]
  omega

/-- The windows above window 0 are disabled at reset. -/
theorem reset_win_enable_eq_zero {w : Nat} (hw : 1 ≤ w ∧ w ≤ 7) : State.reset.fld (R.DMC_WIN_CFG_enable w) = 0 := by
  obtain ⟨hlo, hhi⟩ := hw
  interval_cases w <;> decide

/-- Where window 0 alone is enabled, at base 0, it maps the addresses below its size and no other is mapped. -/
theorem State.windowOf_of_first_alone {s : State} (ma : Nat) (hon : s.fld (R.DMC_WIN_CFG_enable 0) = 1)
    (hbase : s.fld (R.DMC_WIN_BASE_base 0) = 0) (hoff : ∀ w, 1 ≤ w ∧ w ≤ 7 → s.fld (R.DMC_WIN_CFG_enable w) = 0) :
    s.windowOf ma = if ma < s.fld (R.DMC_WIN_BASE_size 0) * 0x1000000 then some 0 else none := by
  have hrange : List.range 8 = 0 :: List.range' 1 7 := rfl
  rw [State.windowOf, hrange, List.find?_cons]
  split_ifs with hlt
  · simp [hon, hbase, hlt]
  · have hrest : ∀ w ∈ List.range' 1 7, s.fld (R.DMC_WIN_CFG_enable w) = 0 := fun w hw => by
      rw [List.mem_range'_1] at hw
      exact hoff w (by omega)
    simp +contextual [hbase, hlt, hrest, List.find?_eq_none]

/-- Settles O54: a cold reset leaves the window registers at their reset values, in which window 0 alone is enabled, of 4,096 units
of 16 MiB. -/
theorem coldResetMapsAllModuleDramThroughWindowZero : Obligations.ColdResetMapsAllModuleDramThroughWindowZero := by
  intro s cause p ma hcause hma
  have hval {l : Loc} {v : Nat} (hl : l.off / 0x100000 = 0x12) (hv : State.reset.fld l = v) : (s.coldReset cause p).fld l = v :=
    (s.fld_coldReset_dmc cause p hl).trans hv
  have hon := hval (l := R.DMC_WIN_CFG_enable 0) (v := 1) (by decide) (by decide)
  have hbase := hval (l := R.DMC_WIN_BASE_base 0) (v := 0) (by decide) (by decide)
  have hsize := hval (l := R.DMC_WIN_BASE_size 0) (v := 4096) (by decide) (by decide)
  have hchannels := hval (l := R.DMC_WIN_CFG_e 0) (v := 5) (by decide) (by decide)
  have hrows := hval (l := R.DMC_WIN_ROWS_rows512 0) (v := 128) (by decide) (by decide)
  have hoff (w : Nat) (hw : 1 ≤ w ∧ w ≤ 7) := hval (win_cfg_enable_block hw.2) (reset_win_enable_eq_zero hw)
  have hmap (a : Nat) := State.windowOf_of_first_alone a hon hbase hoff
  rw [hsize] at hmap
  exact ⟨s.coldReset cause p, congrArg Host.Outcome.next (if_pos hcause), hon, hbase, congrArg (2 ^ ·) hchannels,
    hval (by decide) (by decide), hval (by decide) (by decide), congrArg (512 * ·) hrows, hval (by decide) (by decide),
    hval (by decide) (by decide), (hmap ma).trans (if_pos hma), (hmap _).trans (if_neg (by decide)), hoff⟩

end Sys2Proof.Machine
end
